-- ==== Sys2Proof/Word.lean ====
section
/-!
DEFINITION. The word types of the block (R15, R16, R62): 64-bit register words, 64-byte cells, 256-byte flits and the
bytes they are made of.
-/
namespace Sys2Proof

/-- A register word: 32-bit registers use the low half (R16). -/
abbrev Word := BitVec 64
/-- One byte. -/
abbrev Byte := BitVec 8
/-- One 64-byte cell, byte i in bits [8i+7:8i] (R15, R62). -/
abbrev Cell := BitVec 512
/-- One 256-byte flit, byte i in bits [8i+7:8i] (R62). -/
abbrev Flit := BitVec 2048
/-- One stored burst: 64 data bytes, 2 tag bytes and 6 check bytes (R280, R281). -/
abbrev Codeword := BitVec 576

end Sys2Proof
end

