-- ==== Sys2Proof/Machine/Table.lean ====
section
/-!
DEFINITION. Sparse tables: a list of (key, value) pairs in strictly rising key order. A table read with a default lists no
entry equal to the default, so that equal tables are equal data (`put` keeps that form).
-/
namespace Sys2Proof.Machine

/-- A sparse table, keys strictly rising. -/
structure Tbl (α : Type) where
  rows : List (Nat × α) := []
deriving DecidableEq, Repr

/-- The value listed at key k. -/
def Tbl.findIn {α : Type} (k : Nat) : List (Nat × α) → Option α
  | [] => none
  | (j, v) :: r => if j = k then some v else if k < j then none else Tbl.findIn k r

/-- Put v at key k, keeping the keys rising. -/
def Tbl.insIn {α : Type} (k : Nat) (v : α) : List (Nat × α) → List (Nat × α)
  | [] => [(k, v)]
  | (j, w) :: r => if k < j then (k, v) :: (j, w) :: r else if j = k then (k, v) :: r else (j, w) :: Tbl.insIn k v r

/-- Drop key k. -/
def Tbl.delIn {α : Type} (k : Nat) : List (Nat × α) → List (Nat × α)
  | [] => []
  | (j, w) :: r => if j = k then r else if k < j then (j, w) :: r else (j, w) :: Tbl.delIn k r

def Tbl.find? {α : Type} (t : Tbl α) (k : Nat) : Option α := Tbl.findIn k t.rows
def Tbl.ins {α : Type} (t : Tbl α) (k : Nat) (v : α) : Tbl α := ⟨Tbl.insIn k v t.rows⟩
def Tbl.del {α : Type} (t : Tbl α) (k : Nat) : Tbl α := ⟨Tbl.delIn k t.rows⟩
/-- Read with a default. -/
def Tbl.get {α : Type} (t : Tbl α) (d : α) (k : Nat) : α := (t.find? k).getD d
/-- Write with a default: writing the default removes the entry. -/
def Tbl.put {α : Type} [DecidableEq α] (t : Tbl α) (d : α) (k : Nat) (v : α) : Tbl α :=
  if v = d then t.del k else t.ins k v
/-- Change the value at k. -/
def Tbl.upd {α : Type} [DecidableEq α] (t : Tbl α) (d : α) (k : Nat) (f : α → α) : Tbl α := t.put d k (f (t.get d k))
def Tbl.keys {α : Type} (t : Tbl α) : List Nat := t.rows.map Prod.fst
def Tbl.vals {α : Type} (t : Tbl α) : List α := t.rows.map Prod.snd
/-- Keep the entries that satisfy p. -/
def Tbl.keep {α : Type} (t : Tbl α) (p : Nat → α → Bool) : Tbl α := ⟨t.rows.filter (fun r => p r.1 r.2)⟩
/-- Change every listed value. -/
def Tbl.mapv {α β : Type} (t : Tbl α) (f : Nat → α → β) : Tbl β := ⟨t.rows.map (fun r => (r.1, f r.1 r.2))⟩

/-- Keys strictly rising from above a bound. -/
def Tbl.risingFrom {α : Type} : Option Nat → List (Nat × α) → Bool
  | _, [] => true
  | none, (k, _) :: r => Tbl.risingFrom (some k) r
  | some b, (k, _) :: r => decide (b < k) && Tbl.risingFrom (some k) r

/-- The canonical form: keys strictly rising. -/
def Tbl.wf {α : Type} (t : Tbl α) : Bool := Tbl.risingFrom none t.rows
/-- The canonical form with a default: no entry equals it. -/
def Tbl.wfd {α : Type} [DecidableEq α] (d : α) (t : Tbl α) : Bool := t.wf && t.rows.all (fun r => decide (r.2 ≠ d))

end Sys2Proof.Machine
end

