-- ==== Sys2Proof/Syntax.lean ====
section
/-!
DEFINITION. The commands of the block: one constructor per row of the spec's table of operations and events, with the
operands the row's rule names. Numbers of instances are plain Nat, checked in WellFormed.
-/
namespace Sys2Proof

open Sys2Proof.Machine (Tbl)

/-- One reading of a temperature sensor in °C; `none` where it does not arrive or fails its parity (R368). -/
abbrev TempRead := Option Int

/-- The windows of a Turn that can overrun (R35, R38). -/
inductive TurnWindow where
  | alertThermal | refreshPlan | weir | distribution
deriving DecidableEq, Repr

/-- The path of a register access (R91, R211, R409): a MGMT request of a host module, I3C, or firmware of a Miller core. -/
inductive Path where
  | mgmt (m : Nat) | i3c | fw (half : Nat)
deriving DecidableEq, Repr

/-- The Sluices (R222): a race's row bus or a column bus, a crosspoint output, a cross-half link port, a granary port mux. -/
inductive SluiceId where
  | row (race : Nat) | col (race pr : Nat) | xp (half n out : Nat) | link (dir n : Nat) | gport (port : Nat)
deriving DecidableEq, Repr

/-- The three channels of the Layshaft (R41). -/
inductive Chan where
  | req | rsp | snp
deriving DecidableEq, Repr

/-- A request that a port presents to a Sluice (R221, R223): its port, a number that names it (of a host request its own number, of
a background unit's request 2^40 and above), class, channel, the mc at which it was first presented (its age), its data cells
(R230), and its stream or, of a background unit, its requester identifier (R42). -/
structure Offer where
  port : Nat
  key : Nat
  cls : Nat
  ch : Chan
  since : Nat
  cells : Nat
  stream : Nat
deriving DecidableEq, Repr

/-- What a race's column bus carries a burst for (R149): an entry of a race queue, the fill, a Fantail probe. -/
inductive ColSrc where
  | queue (qid : Nat) | fill (pr : Nat) | probe (pr : Nat)
deriving DecidableEq, Repr

/-- A TSV lane of a race slice (R260): group 0-3 data, 4 timing, 5 column command, 6 row command, 7 command clock; the
pseudo-race (0 for row command and clock) and the position in the group. -/
structure LanePos where
  group : Nat
  pr : Nat
  pos : Nat
deriving DecidableEq, Repr

/-- A header of a granary drive (R324). -/
structure Hdr where
  half : Nat := 0
  drive : Nat := 0
  nh : Nat := 4
  enc : Bool := false
  bmapValid : Bool := false
  heatValid : Bool := false
  /-- 1 FORMATTED, 2 OPEN, 3 SEALED -/
  state : Nat := 1
  /-- FAILED0 to FAILED2 -/
  failed : List Nat := []
  seq : Nat := 0
  turn : Nat := 0
  epoch : Nat := 0
  commit : Nat := 0
  unit : Nat := 0
  regions : Nat := 0
  gen : Nat := 0
  /-- VOID[r], by race -/
  void : Tbl Nat := {}
  wrate : Nat := 1
  rrate : Nat := 0
  wkey : BitVec 576 := 0
deriving DecidableEq, Repr

/-- What a drive shows when it is attached (R321, R333): its port, whether it meets what R321 asks of its controller and namespace, its LBAs,
the bytes of LBAs 0 and 1 (header copies A and B, R322), the block map (written-map bit numbers of the half) and the heat map. -/
structure DriveId where
  port : Nat
  meets : Bool
  lbas : Nat
  copyA : List Nat
  copyB : List Nat
  bmap : List Nat
  heat : List (Nat × Nat)
deriving DecidableEq, Repr

/-- The rails and levels of the supply comparators (R343, R364). -/
inductive Rail where
  | vddWarn | vddReset | vddRelease | vddRetention | vddqS | vddqH | vaux
deriving DecidableEq, Repr

/-- The commands: those with operands in the order of the table, then those without. -/
inductive Instr where
  /-- TURN_BOUNDARY (R35). -/
  | turnBoundary (temps : List TempRead) (vdd : Nat) (vbk : Nat) (mainFail : Bool)
  /-- TURN_OVERRUN (R38). -/
  | turnOverrun (win : TurnWindow)
  /-- REGISTER_WRITE (R18). -/
  | registerWrite (path : Path) (off : BitVec 24) (w64 : Bool) (val : Word)
  /-- LAY_LINK_REPLAY (R43). -/
  | layLinkReplay (dir : Nat) (link : Nat) (good : Bool)
  /-- STALL_WATCHDOG_FIRE (R49). -/
  | stallWatchdogFire (half : Nat) (point : Nat) (vc : Nat) (head : Nat)
  /-- LAY_STALL_STATUS_CLEAR (R52). -/
  | layStallStatusClear (half : Nat)
  /-- SLUICE_DECISION (R221). -/
  | sluiceDecision (at_ : SluiceId) (mc : Nat) (offers : List Offer) (freed : List Nat := [])
  /-- FLIT_RECEIVE (R81). -/
  | flitReceive (m : Nat) (mc : Nat) (flit : Flit)
  /-- UPSTREAM_FLIT_SEND (R81). -/
  | upstreamFlitSend (m : Nat) (mc : Nat)
  /-- REPLAY_TIMEOUT (R87). -/
  | replayTimeout (m : Nat)
  /-- MODULE_ENABLE (R57). -/
  | moduleEnable (path : Path) (m : Nat) (en : Bool)
  /-- RECAL (R57). -/
  | recal (path : Path) (m : Nat)
  /-- RESTART (R57). -/
  | restart (path : Path) (m : Nat)
  /-- HOST_RECAL_REQUEST (R57). -/
  | hostRecalRequest (m : Nat)
  /-- UCIE_LINK_ACTIVE (R57). -/
  | ucieLinkActive (m : Nat) (rate : Nat) (repaired : Nat) (x32 : Bool)
  /-- TRAIN_ATTEMPT_TIMEOUT (R57). -/
  | trainAttemptTimeout (m : Nat)
  /-- OPEN_TIMEOUT (R57). -/
  | openTimeout (m : Nat)
  /-- RECAL_COMPLETE (R57). -/
  | recalComplete (m : Nat) (repaired : Nat)
  /-- RECAL_TIMEOUT (R57). -/
  | recalTimeout (m : Nat)
  /-- NOP (R67). -/
  | nop (id : Nat)
  /-- RD (R99). -/
  | rd (id : Nat) (mc : Nat)
  /-- RDX (R110). -/
  | rdx (id : Nat) (mc : Nat)
  /-- WR (R32). -/
  | wr (id : Nat)
  /-- WRP (R168). -/
  | wrp (id : Nat)
  /-- WRN (R104). -/
  | wrn (id : Nat)
  /-- WRC (R112). -/
  | wrc (id : Nat)
  /-- AMO (R114). -/
  | amo (id : Nat)
  /-- BAR_S (R118). -/
  | barS (id : Nat)
  /-- BAR_G (R118). -/
  | barG (id : Nat)
  /-- BAR_D (R118). -/
  | barD (id : Nat)
  /-- MGMT (R90). -/
  | mgmt (id : Nat)
  /-- TOKEN_RELEASE (R96). -/
  | tokenRelease (id : Nat)
  /-- TOKEN_APPLY (R95). -/
  | tokenApply (id : Nat)
  /-- TOKEN_ACK (R96). -/
  | tokenAck (id : Nat)
  /-- MILLPOND_DRAIN (R31). -/
  | millpondDrain (id : Nat) (k : Nat)
  /-- FLUME_IDLE_CLOSE (R105). -/
  | flumeIdleClose (fid : Nat)
  /-- FLUME_ENTRY_DRAIN (R106). -/
  | flumeEntryDrain (fid : Nat)
  /-- BARRIER_PART_RESOLVED (R119). -/
  | barrierPartResolved (half : Nat) (id : Nat)
  /-- BARRIER_COMPLETE (R120). -/
  | barrierComplete (id : Nat)
  /-- GRAN_WRITE (R113). -/
  | granWrite (path : Path) (gran : Nat)
  /-- HOP_LOST_LOG_CLEAR (R129). -/
  | hopLostLogClear (path : Path) (half : Nat)
  /-- HASH_LOCK (R136). -/
  | hashLock (path : Path)
  /-- FILL_OPEN (R140). -/
  | fillOpen (race : Nat) (v : Nat)
  /-- FILL_GRANT (R320). -/
  | fillGrant (race : Nat) (v : Nat)
  /-- FILL_COMPLETE (R143). -/
  | fillComplete (race : Nat) (mc : Nat)
  /-- WMAP_CLEAR (R147). -/
  | wmapClear (path : Path) (half : Nat)
  /-- WMAP_CLEAR_COMPLETE (R147). -/
  | wmapClearComplete (half : Nat)
  /-- DRAM_ACT (R149). -/
  | dramAct (race : Nat) (mc : Nat) (pr : Nat) (sid : Nat) (bg : Nat) (bank : Nat) (row : Nat)
  /-- DRAM_RD (R149). -/
  | dramRd (race : Nat) (mc : Nat) (src : ColSrc)
  /-- DRAM_WR (R149). -/
  | dramWr (race : Nat) (mc : Nat) (src : ColSrc)
  /-- DRAM_PRE (R157). -/
  | dramPre (race : Nat) (mc : Nat) (pr : Nat) (sid : Nat) (bg : Nat) (bank : Nat)
  /-- REFPB (R181). -/
  | refpb (race : Nat) (mc : Nat) (pr : Nat) (sid : Nat)
  /-- REFAB (R199). -/
  | refab (race : Nat) (mc : Nat) (pr : Nat) (sid : Nat)
  /-- RFM (R196). -/
  | rfm (race : Nat) (mc : Nat) (pr : Nat) (sid : Nat) (bg : Nat) (bank : Nat)
  /-- MRW (R173). -/
  | mrw (race : Nat) (mc : Nat)
  /-- MRR (R173). -/
  | mrr (race : Nat) (mc : Nat)
  /-- SRE (R199). -/
  | sre (race : Nat) (mc : Nat) (sid : Nat)
  /-- SRX (R201). -/
  | srx (race : Nat) (mc : Nat) (sid : Nat)
  /-- PDE (R172). -/
  | pde (race : Nat) (mc : Nat)
  /-- PDX (R172). -/
  | pdx (race : Nat) (mc : Nat)
  /-- READ_BURST_RETURN (R283). -/
  | readBurstReturn (race : Nat) (pr : Nat) (mc : Nat) (err : List (Nat × Byte))
  /-- MISSING_BURST (R174). -/
  | missingBurst (race : Nat) (pr : Nat) (mc : Nat)
  /-- STRAY_STROBE (R174). -/
  | strayStrobe (race : Nat) (pr : Nat)
  /-- FAU_TAKE (R169). -/
  | fauTake (race : Nat) (mc : Nat) (id : Nat) (k : Nat)
  /-- FAU_EXECUTE (R169). -/
  | fauExecute (race : Nat) (mc : Nat) (id : Nat) (k : Nat)
  /-- MR_CMD (R173). -/
  | mrCmd (path : Path) (race : Nat) (val : Word)
  /-- MR_CMD_TIMEOUT (R173). -/
  | mrCmdTimeout (race : Nat)
  /-- TIMING_LOCK (R152). -/
  | timingLock (path : Path) (race : Nat)
  /-- PLANNED_REFRESH_DUE (R185). -/
  | plannedRefreshDue (race : Nat) (pr : Nat) (slot : Nat)
  /-- REVOCATION (R227). -/
  | revocation (race : Nat) (pr : Nat) (mc : Nat)
  /-- SR_HANDOVER (R199). -/
  | srHandover (race : Nat) (mc : Nat) (sid : Nat)
  /-- HANDOVER_TIMEOUT (R203). -/
  | handoverTimeout (race : Nat)
  /-- SLOT_SWAP_REQUEST (R212). -/
  | slotSwapRequest (path : Path) (races : Nat)
  /-- SLOT_DIRECT_WRITE (R216). -/
  | slotDirectWrite (path : Path) (race : Nat) (j : Nat) (val : Word)
  /-- SLOT_STAT_BADCODE_CLEAR (R236). -/
  | slotStatBadcodeClear (path : Path) (race : Nat)
  /-- WEIR_SCALED_CLEAR (R259). -/
  | weirScaledClear (path : Path)
  /-- FULL_TRAINING (R264). -/
  | fullTraining (race : Nat)
  /-- TRAINING_COMPLETE (R266). -/
  | trainingComplete (race : Nat) (failed : List LanePos) (badWindow : Bool)
  /-- PROBE_RESULT (R270). -/
  | probeResult (race : Nat) (pr : Nat) (sid : Nat) (dir : Nat) (lowPass : BitVec 42) (highPass : BitVec 42)
  /-- CENTRE_APPLY (R270). -/
  | centreApply (race : Nat) (pr : Nat) (sid : Nat)
  /-- TRACKING_LAG (R272). -/
  | trackingLag (race : Nat)
  /-- RETRAIN_REQUEST (R274). -/
  | retrainRequest (path : Path) (half : Nat) (i : Nat)
  /-- RETRAIN_START (R274). -/
  | retrainStart (half : Nat) (missed : List Nat := []) (errs : List (Nat × List (Nat × Byte)) := [])
  /-- RETRAIN_COMPLETE (R274). -/
  | retrainComplete (half : Nat) (failed : List LanePos := []) (badWindow : Bool := false)
  /-- RETRAIN_ABORT (R276). -/
  | retrainAbort (half : Nat)
  /-- RESUME_CHECK (R278). -/
  | resumeCheck (race : Nat) (doubleFail : Bool)
  /-- SCRUB_PIECE_START (R291). -/
  | scrubPieceStart (half : Nat)
  /-- SCRUB_PRIORITY_CHECK (R287). -/
  | scrubPriorityCheck (half : Nat)
  /-- ERROR_WINDOW_END (R294). -/
  | errorWindowEnd (half : Nat)
  /-- QRN_UE_LOG_CLEAR (R306). -/
  | qrnUeLogClear (path : Path) (half : Nat)
  /-- QRN_ROW_LOG_CLEAR (R306). -/
  | qrnRowLogClear (path : Path) (half : Nat)
  /-- FUSE_BURN_COMPLETE (R302). -/
  | fuseBurnComplete (good : Bool)
  /-- ISOLATION_DECISION (R304). -/
  | isolationDecision (race : Nat)
  /-- ISOLATION_ADMIT_OFF (R304). -/
  | isolationAdmitOff (race : Nat)
  /-- ISOLATION_READS_OFF (R304). -/
  | isolationReadsOff (race : Nat)
  /-- ISOLATION_STORE_DROP (R126). -/
  | isolationStoreDrop (race : Nat)
  /-- ISOLATION_FINAL (R304). -/
  | isolationFinal (race : Nat)
  /-- WRITE_BEHIND_ISSUE (R315). -/
  | writeBehindIssue (half : Nat)
  /-- DRIVE_COMMAND_COMPLETE (R311). -/
  | driveCommandComplete (port : Nat) (cid : Nat) (good : Bool)
  /-- DRIVE_COMMAND_TIMEOUT (R337). -/
  | driveCommandTimeout (port : Nat) (cid : Nat)
  /-- DRIVE_RATE_WINDOW (R318). -/
  | driveRateWindow (port : Nat) (wrRate : Nat) (rdRate : Nat)
  /-- HEADROOM_PRESS (R320). -/
  | headroomPress (half : Nat)
  /-- EPOCH_ADVANCE (R312). -/
  | epochAdvance (half : Nat)
  /-- DIRTY_MAP_PARITY_ERROR (R313). -/
  | dirtyMapParityError (half : Nat)
  /-- RESYNC_COMPLETE (R313). -/
  | resyncComplete (half : Nat)
  /-- HOIST_ATTACH (R333). -/
  | hoistAttach (half : Nat) (ready : List DriveId)
  /-- DRIVE_ATTACH_TIMEOUT (R333). -/
  | driveAttachTimeout (port : Nat)
  /-- HOIST_LOAD_START (R334). -/
  | hoistLoadStart (half : Nat)
  /-- CHUNK_RESTORE_COMPLETE (R335). -/
  | chunkRestoreComplete (half : Nat) (v : Nat) (good : Bool)
  /-- DEMAND_FILL_ISSUE (R336). -/
  | demandFillIssue (half : Nat) (v : Nat)
  /-- HOIST_SEAL (R329). -/
  | hoistSeal (half : Nat)
  /-- SUPPLY_CROSSING (R343). -/
  | supplyCrossing (rail : Rail) (below : Bool) (mv : Nat)
  /-- AON_SUPPLY_SWITCH (R344). -/
  | aonSupplySwitch (backupOk : Bool)
  /-- MAIN_FAIL_ASSERT (R345). -/
  | mainFailAssert (ns : Nat)
  /-- CAPACITANCE_TEST_END (R352). -/
  | capacitanceTestEnd (dv : Nat) (recovered : Bool)
  /-- POWER_STATE_REQUEST (R355). -/
  | powerStateRequest (half : Nat) (req : Nat)
  /-- PAD_RELEASE (R358). -/
  | padRelease (half : Nat)
  /-- WAKE_I3C_MATCH (R359). -/
  | wakeI3cMatch (target : Nat)
  /-- WAKE_SIDEBAND (R359). -/
  | wakeSideband (m : Nat)
  /-- WAKE_N_LOW (R359). -/
  | wakeNLow (ns : Nat)
  /-- REGULATOR_ACK_TIMEOUT (R362). -/
  | regulatorAckTimeout (why : Nat)
  /-- WATCH_SAMPLE (R363). -/
  | watchSample (temps : List TempRead) (vdd : Nat) (vbk : Nat) (mainFail : Bool)
  /-- CURRENT_SAMPLE (R371). -/
  | currentSample (amps : Nat)
  /-- BRAKE_RAISE (R382). -/
  | brakeRaise (src : Nat) (inst : Nat) (detail : Nat)
  /-- BROKEN_WIRE (R380). -/
  | brokenWire (src : Nat) (inst : Nat)
  /-- BRAKE_PEND_CLEAR (R391). -/
  | brakePendClear (path : Path) (src : Nat) (mask : Nat)
  /-- CLR_REFUSED_CLEAR (R393). -/
  | clrRefusedClear (path : Path)
  /-- BRK_SAFE_CLEAR (R393). -/
  | brkSafeClear (path : Path)
  /-- HIST_UNFREEZE (R389). -/
  | histUnfreeze (path : Path)
  /-- BRK_INJ_GO (R392). -/
  | brkInjGo (path : Path) (val : Word)
  /-- BRK_INJ_STOP (R392). -/
  | brkInjStop (path : Path)
  /-- TALLY_DUMP_STAGE (R399). -/
  | tallyDumpStage (half : Nat)
  /-- BANDWIDTH_WINDOW_END (R403). -/
  | bandwidthWindowEnd (half : Nat)
  /-- SAMPLE_CAPTURE (R404). -/
  | sampleCapture (half : Nat) (mc : Nat)
  /-- SAMPLE_RELEASE (R408). -/
  | sampleRelease (path : Path) (half : Nat)
  /-- TLY_CNT_LOW_READ (R397). -/
  | tlyCntLowRead (half : Nat) (bank : Nat) (i : Nat)
  /-- HEAT_DATA_ACCESS (R408). -/
  | heatDataAccess (path : Path) (half : Nat) (wr : Option (BitVec 32))
  /-- I3C_PRIVATE_WRITE (R411). -/
  | i3cPrivateWrite (bytes : List Byte)
  /-- I3C_PRIVATE_READ (R411). -/
  | i3cPrivateRead (len : Nat)
  /-- DOORBELL (R413). -/
  | doorbell (path : Path) (half : Nat) (box : Nat)
  /-- MAILBOX_SERVICE_START (R414). -/
  | mailboxServiceStart (core : Nat)
  /-- COMMAND_COMPLETE (R414). -/
  | commandComplete (core : Nat)
  /-- MAILBOX_RELEASE (R413). -/
  | mailboxRelease (path : Path) (half : Nat) (box : Nat)
  /-- MAILBOX_TIMEOUT (R415). -/
  | mailboxTimeout (half : Nat) (box : Nat)
  /-- PING (R422). -/
  | ping (core : Nat)
  /-- GET_ID (R422). -/
  | getId (core : Nat)
  /-- GET_STATUS (R422). -/
  | getStatus (core : Nat)
  /-- FW_LOAD_DATA (R422). -/
  | fwLoadData (core : Nat)
  /-- FW_LOAD_FETCH (R422). -/
  | fwLoadFetch (core : Nat)
  /-- FW_ACTIVATE (R427). -/
  | fwActivate (core : Nat)
  /-- FW_DISCARD (R422). -/
  | fwDiscard (core : Nat)
  /-- SOFT_RESET (R425). -/
  | softReset (core : Nat)
  /-- SET_STREAM (R240). -/
  | setStream (core : Nat)
  /-- GET_STREAM (R422). -/
  | getStream (core : Nat)
  /-- SET_GROUP (R241). -/
  | setGroup (core : Nat)
  /-- GET_GROUP (R422). -/
  | getGroup (core : Nat)
  /-- SET_SLOTS (R210). -/
  | setSlots (core : Nat)
  /-- GET_SLOTS (R422). -/
  | getSlots (core : Nat)
  /-- COMMIT_SLOTS (R423). -/
  | commitSlots (core : Nat)
  /-- CHECK_SLOTS (R422). -/
  | checkSlots (core : Nat)
  /-- RETRAIN (R422). -/
  | retrain (core : Nat)
  /-- REPAIR_ROW (R300). -/
  | repairRow (core : Nat)
  /-- FUSE_REPAIR_SOFT_ROW (R302). -/
  | fuseRepairSoftRow (core : Nat)
  /-- FUSE_REPAIR_LANE (R302). -/
  | fuseRepairLane (core : Nat)
  /-- FUSE_REPAIR_RETIRE (R302). -/
  | fuseRepairRetire (core : Nat)
  /-- FUSE_REPAIR_RAW (R302). -/
  | fuseRepairRaw (core : Nat)
  /-- FUSE_REPAIR_REVOKE (R302). -/
  | fuseRepairRevoke (core : Nat)
  /-- ISOLATE_RACE (R303). -/
  | isolateRace (core : Nat)
  /-- GRAN_STATUS (R422). -/
  | granStatus (core : Nat)
  /-- GRAN_FORMAT (R424). -/
  | granFormat (core : Nat)
  /-- SET_BACKUP (R351). -/
  | setBackup (core : Nat)
  /-- GRAN_LOG (R422). -/
  | granLog (core : Nat)
  /-- SET_POWER (R426). -/
  | setPower (core : Nat)
  /-- SET_PWR_CFG (R422). -/
  | setPwrCfg (core : Nat)
  /-- SET_THERM (R377). -/
  | setTherm (core : Nat)
  /-- GET_POWER (R422). -/
  | getPower (core : Nat)
  /-- SET_SEV (R383). -/
  | setSev (core : Nat)
  /-- CLEAR (R391). -/
  | clear (core : Nat)
  /-- INJECT (R392). -/
  | inject (core : Nat)
  /-- INJECT_STOP (R392). -/
  | injectStop (core : Nat)
  /-- HIST_RELEASE (R389). -/
  | histRelease (core : Nat)
  /-- TLY_SET_CFG (R403). -/
  | tlySetCfg (core : Nat)
  /-- TLY_SET_RING (R402). -/
  | tlySetRing (core : Nat)
  /-- TLY_SET_USER (R407). -/
  | tlySetUser (core : Nat)
  /-- TLY_HEAT_READ (R422). -/
  | tlyHeatRead (core : Nat)
  /-- TLY_HEAT_WRITE (R422). -/
  | tlyHeatWrite (core : Nat)
  /-- MMK_CHALLENGE (R439). -/
  | mmkChallenge (core : Nat)
  /-- MMK_RESPONSE_R (R439). -/
  | mmkResponseR (core : Nat)
  /-- MMK_RESPONSE_S (R439). -/
  | mmkResponseS (core : Nat)
  /-- MMK_PASSPHRASE (R440). -/
  | mmkPassphrase (core : Nat)
  /-- MMK_LOCK (R442). -/
  | mmkLock (core : Nat)
  /-- MMK_ADVANCE (R430). -/
  | mmkAdvance (core : Nat)
  /-- MMK_CERT (R434). -/
  | mmkCert (core : Nat)
  /-- SELFTEST_CRYPTO (R443). -/
  | selftestCrypto (core : Nat) (failed : Bool)
  /-- SELFTEST_WIRE (R443). -/
  | selftestWire (core : Nat) (badPairs : List (Nat × Nat))
  /-- SELFTEST_FUSE (R443). -/
  | selftestFuse (core : Nat)
  /-- TEST_ACCESS_1149 (R448). -/
  | testAccess1149 (core : Nat)
  /-- TEST_ACCESS_1838 (R450). -/
  | testAccess1838 (core : Nat)
  /-- TEST_MODE_EXIT (R451). -/
  | testModeExit (path : Path)
  /-- BYPASS (R449). -/
  | bypass (tdi : BitVec 1)
  /-- SAMPLE_PRELOAD (R449). -/
  | samplePreload (pads : BitVec 1248) (tdi : BitVec 1248)
  /-- EXTEST (R449). -/
  | extest (pads : BitVec 1248) (tdi : BitVec 1248)
  /-- CLAMP (R449). -/
  | clamp (tdi : BitVec 1)
  /-- HIGHZ (R449). -/
  | highz (tdi : BitVec 1)
  /-- DSEL (R450). -/
  | dsel (dies : BitVec 16)
  /-- TSVTEST (R449). -/
  | tsvtest (captured : BitVec 984) (tdi : BitVec 984)
  /-- TSTCTL (R449). -/
  | tstctl (tdi : BitVec 32)
  /-- KEYFUSE (R449). -/
  | keyfuse (tdi : BitVec 1024)
  /-- CERTLOAD (R449). -/
  | certload (tdi : BitVec 65536)
  /-- SET_ENDPOINT_ID (R436). -/
  | setEndpointId (eid : Byte)
  /-- GET_CAPABILITIES (R436). -/
  | getCapabilities (body : List Byte)
  /-- NEGOTIATE_ALGORITHMS (R436). -/
  | negotiateAlgorithms (body : List Byte)
  /-- GET_CERTIFICATE (R436). -/
  | getCertificate (slot : Nat) (off : Nat) (len : Nat)
  /-- CHALLENGE (R436). -/
  | challenge (slot : Nat) (body : List Byte)
  /-- GET_MEASUREMENTS (R437). -/
  | getMeasurements (index : Nat) (signed : Bool) (body : List Byte)
  /-- ENTDAA (R464). -/
  | entdaa (target : Nat) (addr : BitVec 7)
  /-- KY_POWER (R466). -/
  | kyPower (req : Nat)
  /-- KY_WARM (R466). -/
  | kyWarm (defByte : Byte)
  /-- BOOT_GO (R459). -/
  | bootGo (path : Path)
  /-- ATT_EN_WRITE (R465). -/
  | attEnWrite (path : Path) (en : Bool)
  /-- POWER_ON_RESET (R457). -/
  | powerOnReset (vauxOk : Bool)
  /-- RESET_RELEASE (R458). -/
  | resetRelease (slot : BitVec 6)
  /-- WRST_N_LOW (R454). -/
  | wrstNLow (ns : Nat)
  /-- WARM_RESET_REQUEST (R454). -/
  | warmResetRequest (path : Path)
  /-- HALF_RESET_REQUEST (R454). -/
  | halfResetRequest (path : Path)
  /-- RACE_RESET_REQUEST (R454). -/
  | raceResetRequest (path : Path) (races : Nat)
  /-- RACE_RESET (R454). -/
  | raceReset (race : Nat)
  /-- PAIR_RAILS_UNEQUAL (R380). -/
  | pairRailsUnequal (src : Nat) (inst : Nat)
  /-- CONTROLLER_IBI_ENABLE (R376). -/
  | controllerIbiEnable (target : Nat) (en : Bool)
  /-- ALERT_THERMAL_DECISION (R369). -/
  | alertThermalDecision
  /-- SLOT_SWAP_SAMPLE (R212). -/
  | slotSwapSample
  /-- REFRESH_PLANNING (R182). -/
  | refreshPlanning
  /-- WEIR_RECALCULATION (R244). -/
  | weirRecalculation
  /-- DISTRIBUTION (R246). -/
  | distribution
  /-- GOV_TURN_LOW_READ (R39). -/
  | govTurnLowRead
  /-- SPLIT (R467). -/
  | split
  /-- SPLIT_REJOIN (R470). -/
  | splitRejoin
  /-- AON_SUPPLY_RETURN (R344). -/
  | aonSupplyReturn
  /-- ALERT_ENTER (R346). -/
  | alertEnter
  /-- ALERT_END (R347). -/
  | alertEnd
  /-- DRAIN_SIGNAL (R348). -/
  | drainSignal
  /-- EMEAS_PUBLISH (R351). -/
  | emeasPublish
  /-- EMEAS_EXPIRE (R351). -/
  | emeasExpire
  /-- CAPACITANCE_TEST_START (R352). -/
  | capacitanceTestStart
  /-- AUTO_IDLE (R355). -/
  | autoIdle
  /-- POWER_STATE_ENTRY_COMPLETE (R355). -/
  | powerStateEntryComplete
  /-- POWER_ENTRY_TIMEOUT (R357). -/
  | powerEntryTimeout
  /-- WAKE_TIMER (R359). -/
  | wakeTimer
  /-- WAKE_MAINS_RETURN (R350). -/
  | wakeMainsReturn
  /-- WAKE_SEQUENCE (R361). -/
  | wakeSequence
  /-- REGULATOR_ACK (R367). -/
  | regulatorAck
  /-- WAKE_RETRY (R362). -/
  | wakeRetry
  /-- TALLY_SNAPSHOT (R398). -/
  | tallySnapshot
  /-- NONCE_EXPIRE (R439). -/
  | nonceExpire
  /-- IDCODE (R449). -/
  | idcode
  /-- PUBKEY (R449). -/
  | pubkey
  /-- GET_VERSION (R436). -/
  | getVersion
  /-- GET_DIGESTS (R436). -/
  | getDigests
  /-- GETSTATUS (R376). -/
  | getstatus
  /-- KY_GO (R466). -/
  | kyGo
  /-- KY_WAKE (R466). -/
  | kyWake
  /-- SOFT_RESET_START (R425). -/
  | softResetStart
  /-- SETTLE_COMPLETE (R460). -/
  | settleComplete
  /-- SETTLE_TIMEOUT (R461). -/
  | settleTimeout
  /-- WARM_RESET (R454). -/
  | warmReset
  /-- HALF_RESET (R454). -/
  | halfReset
  /-- AON_LOST (R344). -/
  | aonLost
  /-- REFCLK_STOP (R478). -/
  | refclkStop
  /-- ENTHDR (R480). -/
  | enthdr
  /-- HDR_EXIT_PATTERN (R480). -/
  | hdrExitPattern
deriving DecidableEq, Repr

end Sys2Proof
end

