-- ==== Sys2Proof/Config.lean ====
section
/-!
DEFINITION. What the spec leaves to the part or leaves open: constants without a body. Nothing in Lean can evaluate them.
Free values are applied to a counter of the state, so that each use is a value of its own.
-/
namespace Sys2Proof.Config

/-- Content of a cell of DRAM that nothing has written since it was lost (R138, R146, R203): undefined, log entry 9. -/
opaque dramPowerOn : Nat → Codeword
/-- The bytes returned for a poisoned or uncorrectable cell (R75, R116, R283): undefined, log entry 10. -/
opaque freeCell : Nat → Cell
/-- What the decoder delivers for a pattern of 4 or more symbol errors that it does not detect (R284). -/
opaque freeWord : Nat → Word
/-- An open Boolean choice of one implementation or one moment (R343 and R477: a crossing or pulse of 40 to 80 ns). -/
opaque freeBool : Nat → Bool
/-- REQ packet places of a crosspoint input outside the 4 reserved for class 0 (R233): the spec gives no number. -/
opaque xpPlaces : Nat
/-- The read pattern in column 0 to 7 of a probe row, and the pattern of a write probe (R268, R269): the spec names them and gives no
bits. -/
opaque trackPattern : Nat → Codeword
/-- A free natural number. -/
opaque freeNat : Nat → Nat

/-- SHA-384 of a byte string (R324, R427, R434, R440); the spec names the function and gives no algorithm. -/
opaque sha384 : List Byte → BitVec 384
/-- ECDSA P-384 verification of a digest under a public key (R427, R439): key, digest, r then s. -/
opaque ecdsaVerify : BitVec 768 → BitVec 384 → BitVec 768 → Bool
/-- ECDSA P-384 signature of a digest by the unit key (R436). The private key leaves Millmark in no form (R433). -/
opaque unitSign : BitVec 384 → BitVec 768
/-- The Millmark random generator (R433): output number n of the part. -/
opaque rng : Nat → BitVec 384
/-- The public key of a generation of the unit key pair (R433). -/
opaque unitPublicKey : Nat → BitVec 768
/-- The service key and the firmware key held in the Bronath key fuses (R427, R439, R449): the port's 1,024 bits give them;
the layout of the port is not given. -/
opaque serviceKeyOf : BitVec 1024 → BitVec 768
/-- The firmware key of the key fuses (R427). -/
opaque firmwareKeyOf : BitVec 1024 → BitVec 768
/-- The certificates of the 8 KiB store, index 0 to 2 (R434): DER lengths are not given by the spec. -/
opaque certsOf : BitVec 65536 → List (List Byte)
/-- The chain check of R434: store, unit public key, key fuses (root digest), unit identifier. -/
opaque certChainOk : BitVec 65536 → BitVec 768 → BitVec 1024 → Word → Bool
/-- AES-256-XTS of a 4096-byte page image is not modelled bit by bit; the wrapped key of R326 for a format generation. -/
opaque wrapKey : Nat → Nat → BitVec 576
/-- Whether a wrapped key unwraps under the granary key of a key domain (R326, R435): key domain, wrapped key. -/
opaque unwrapOk : Nat → BitVec 576 → Bool
/-- Bytes of an NVMe log page (R422 GRAN_LOG): what a drive returns is the drive's. -/
opaque driveLog : Nat → Nat → Nat → List Byte
/-- Self-test signatures and built-in test outcomes depend on the part's health: mask of failing tests. -/
opaque bistFail : Nat → Nat
/-- SPDM message bytes that DMTF documents give and the spec does not (R436). -/
opaque spdmBody : Nat → List Byte → List Byte
/-- The SHA-384 digest of the mask ROM release (R437). -/
opaque romDigest : BitVec 384
/-- DIGEST of the mask ROM release's own image header (R412, R437). -/
opaque romBodyDigest : BitVec 384
/-- The 32-bit IDCODE of a core die (R450): the spec gives its length. -/
opaque dieIdcode : Nat → BitVec 32
/-- Bronath's MIPI manufacturer identity, from fuses (R464). -/
opaque mipiMfr : BitVec 15
/-- The header of the mask ROM release (R412): minor version, build and security version of the silicon revision. -/
opaque romMinor : Nat → Nat
opaque romBuild : Nat → Nat
opaque romSvn : Nat → Nat
/-- Turns from the beginning of the narrow steps of a runtime retraining to the end of step 3 + i (R274). -/
opaque narrowEnd : Nat → Nat
/-- Which bursts of a drain or restore a drive returns is the drive's: the data it returns for a page whose content the
model does not hold (an image written before the model's first step). -/
opaque drivePage : Nat → Nat → Nat → Codeword

end Sys2Proof.Config
end

