-- ==== Sys2Proof/Machine/RegMap.lean ====
section
/-!
DEFINITION. The register map of the management window (R16 to R20, R486): every register the chapters define, its offset,
its instances, its width and its fields with their access codes (R18), reset values (R17) and Kept codes (R19). Names are the
spec's own. A reset value that is loaded (fuse, image, pads, life-cycle state) stands as 0 here; Machine/Ops.lean gives it.
-/
namespace Sys2Proof.Machine

/-- The registers of the management window, each named as its chapter names it. -/
inductive Reg where
  | MMK_FITTED | GOV_TURN | LAY_STALL_CFG | LAY_STALL_STATUS | HEAD_MOD_CTRL | HEAD_MOD_STATUS
  | HEAD_MOD_ERR | HOP_ORD_CFG | FLUME_CFG | HOP_LOST_LOG | HOP_AMAP_CFG | HOP_AMAP_TOP
  | QRN_WMAP_CFG | QRN_WMAP_STAT | RACE_CTRL | RACE_STATUS | RACE_SCHED_CFG | RACE_TIM0
  | RACE_TIM1 | RACE_TIM2 | RACE_TIM3 | RACE_TIM4 | RACE_MR_CMD | RACE_ERR
  | RACE_REF_CFG | RACE_REF_STAT | RACE_REF_CNT | RACE_SLOT_SHD | RACE_SLOT_ACT | RACE_SLOT_STAT
  | SLU_SLOT_SWAP | SLU_XP_CFG | SLU_GP_CFG | HOP_STREAM | WEIR_CFG | WEIR_STATUS
  | WEIR_WM | WEIR_GRP | FAN_CFG | FAN_CTRL | SPIN_STAT | SPIN_REPAIR
  | SPIN_SID | SPIN_DLY | QRN_CNT | QRN_PIN | QRN_SCRUB_CFG | QRN_SCRUB_STAT
  | QRN_ERR_CFG | QRN_UE_LOG | QRN_ROW_LOG | DRS_CTRL | DRS_STAT | DRS_ISOL
  | DRS_SOFT | DRS_FUSE | HST_CFG | HST_STATUS | HST_CEIL | HST_RATE
  | HST_RESTORE | GOV_STATUS | GOV_SUP_STAT | GOV_PWR_CFG | GOV_PWR_CTRL | GOV_WAKE
  | GOV_BK_CFG | GOV_BK_STAT | GOV_AVS_CFG | GOV_THERM_CFG | GOV_STEP_CFG | GOV_TEMP
  | BRK_CTRL | BRK_SAFE | BRK_HIST_STAT | BRK_INJ | BRK_SRC_CFG | BRK_SRC_STAT
  | BRK_HIST_LO | BRK_HIST_HI | TLY_CFG | TLY_RING | TLY_STAT | TLY_SAMP_CFG
  | TLY_SAMP0 | TLY_SAMP1 | TLY_BW_MOD | TLY_BW_GRP | TLY_HEAT_IDX | TLY_HEAT_DATA
  | TLY_USER | TLY_CNT | MIL_MB_REQ | MIL_MB_RSP | MIL_MB_CTRL | MIL_FW_VER
  | MIL_I3C_STAT | MMK_LC | MMK_UID | MMK_STAT | TST_CTRL | TST_STAT
  | TST_LBIST_FAIL | TST_LBIST_FAIL1 | TST_MBIST_FAIL | TST_IDCODE | TST_DSEL | GOV_RST_CTRL
  | MIL_BOOT | MIL_I3C_CFG
deriving DecidableEq, Repr

/-- How a register stands in the two halves (R16): it exists once (`once`); one instance per half, the West one at
base + 0x0008_0000 (`half`); or East only, while the West offset reads the East value and ignores writes (`mirror`). -/
inductive RegKind where
  | once | half | mirror
deriving DecidableEq, Repr

/-- The access codes of R18. -/
inductive Acc where
  | rw | ro | w1c | wo | rws | rwl
deriving DecidableEq, Repr

/-- The Kept codes of R19. -/
inductive Kept where
  | f | a | k | w | n
deriving DecidableEq, Repr

/-- One named field of a register: bits [lo + w - 1 : lo]. -/
structure Field where
  reg : Reg
  lo : Nat
  w : Nat
  acc : Acc
  rst : Nat
  kept : Kept
deriving DecidableEq, Repr

/-- Offset of the first (East) instance, the instance dimensions as (count, stride), the width and the half rule. -/
structure RegInfo where
  base : Nat
  dims : List (Nat × Nat)
  wide : Bool
  kind : RegKind
deriving DecidableEq, Repr

/-- Offset, instances and width of every register (R16, R22 and the register tables of each chapter). -/
def Reg.info : Reg → RegInfo
  | .MMK_FITTED => ⟨0xF00100, [], false, .once⟩
  | .GOV_TURN => ⟨0xD00008, [], true, .once⟩
  | .LAY_STALL_CFG => ⟨0x200100, [], false, .half⟩
  | .LAY_STALL_STATUS => ⟨0x200108, [], false, .half⟩
  | .HEAD_MOD_CTRL => ⟨0x000000, [(20, 0x1000)], false, .once⟩
  | .HEAD_MOD_STATUS => ⟨0x000008, [(20, 0x1000)], false, .once⟩
  | .HEAD_MOD_ERR => ⟨0x000010, [(20, 0x1000)], true, .once⟩
  | .HOP_ORD_CFG => ⟨0x100200, [], false, .mirror⟩
  | .FLUME_CFG => ⟨0x104000, [], false, .half⟩
  | .HOP_LOST_LOG => ⟨0x100210, [], true, .half⟩
  | .HOP_AMAP_CFG => ⟨0x100300, [], false, .mirror⟩
  | .HOP_AMAP_TOP => ⟨0x100304, [], false, .mirror⟩
  | .QRN_WMAP_CFG => ⟨0xB00400, [], false, .half⟩
  | .QRN_WMAP_STAT => ⟨0xB00408, [], true, .half⟩
  | .RACE_CTRL => ⟨0x800000, [(32, 0x10000)], false, .once⟩
  | .RACE_STATUS => ⟨0x800008, [(32, 0x10000)], false, .once⟩
  | .RACE_SCHED_CFG => ⟨0x800010, [(32, 0x10000)], true, .once⟩
  | .RACE_TIM0 => ⟨0x800100, [(32, 0x10000)], true, .once⟩
  | .RACE_TIM1 => ⟨0x800108, [(32, 0x10000)], true, .once⟩
  | .RACE_TIM2 => ⟨0x800110, [(32, 0x10000)], true, .once⟩
  | .RACE_TIM3 => ⟨0x800118, [(32, 0x10000)], true, .once⟩
  | .RACE_TIM4 => ⟨0x800120, [(32, 0x10000)], true, .once⟩
  | .RACE_MR_CMD => ⟨0x800200, [(32, 0x10000)], true, .once⟩
  | .RACE_ERR => ⟨0x800208, [(32, 0x10000)], true, .once⟩
  | .RACE_REF_CFG => ⟨0x800300, [(32, 0x10000)], true, .once⟩
  | .RACE_REF_STAT => ⟨0x800308, [(32, 0x10000)], true, .once⟩
  | .RACE_REF_CNT => ⟨0x800310, [(32, 0x10000)], true, .once⟩
  | .RACE_SLOT_SHD => ⟨0x800400, [(32, 0x10000), (8, 0x8)], true, .once⟩
  | .RACE_SLOT_ACT => ⟨0x800440, [(32, 0x10000), (8, 0x8)], true, .once⟩
  | .RACE_SLOT_STAT => ⟨0x800480, [(32, 0x10000)], true, .once⟩
  | .SLU_SLOT_SWAP => ⟨0x200200, [], false, .mirror⟩
  | .SLU_XP_CFG => ⟨0x200110, [], false, .half⟩
  | .SLU_GP_CFG => ⟨0x200120, [], false, .half⟩
  | .HOP_STREAM => ⟨0x108000, [(4096, 0x4)], false, .mirror⟩
  | .WEIR_CFG => ⟨0x300000, [], false, .mirror⟩
  | .WEIR_STATUS => ⟨0x300010, [], true, .mirror⟩
  | .WEIR_WM => ⟨0x300100, [(32, 0x4)], false, .mirror⟩
  | .WEIR_GRP => ⟨0x300400, [(64, 0x8)], true, .mirror⟩
  | .FAN_CFG => ⟨0xA00000, [], false, .half⟩
  | .FAN_CTRL => ⟨0xA00008, [], false, .half⟩
  | .SPIN_STAT => ⟨0x800800, [(32, 0x10000)], true, .once⟩
  | .SPIN_REPAIR => ⟨0x800808, [(32, 0x10000)], true, .once⟩
  | .SPIN_SID => ⟨0x800810, [(32, 0x10000), (2, 0x8)], true, .once⟩
  | .SPIN_DLY => ⟨0x801000, [(32, 0x10000), (2, 0x200), (4, 0x80), (2, 0x40), (6, 0x8)], true, .once⟩
  | .QRN_CNT => ⟨0x800900, [(32, 0x10000)], true, .once⟩
  | .QRN_PIN => ⟨0x800908, [(32, 0x10000)], true, .once⟩
  | .QRN_SCRUB_CFG => ⟨0xB00000, [], false, .half⟩
  | .QRN_SCRUB_STAT => ⟨0xB00008, [], true, .half⟩
  | .QRN_ERR_CFG => ⟨0xB00010, [], false, .half⟩
  | .QRN_UE_LOG => ⟨0xB00100, [], true, .half⟩
  | .QRN_ROW_LOG => ⟨0xB00108, [], true, .half⟩
  | .DRS_CTRL => ⟨0xB02000, [], false, .once⟩
  | .DRS_STAT => ⟨0xB02008, [], false, .once⟩
  | .DRS_ISOL => ⟨0xB02010, [], true, .once⟩
  | .DRS_SOFT => ⟨0xB03000, [(64, 0x8)], true, .once⟩
  | .DRS_FUSE => ⟨0xB04000, [(1024, 0x8)], true, .once⟩
  | .HST_CFG => ⟨0xC00000, [], true, .mirror⟩
  | .HST_STATUS => ⟨0xC00010, [], true, .half⟩
  | .HST_CEIL => ⟨0xC00018, [], true, .half⟩
  | .HST_RATE => ⟨0xC00020, [], true, .half⟩
  | .HST_RESTORE => ⟨0xC00028, [], true, .half⟩
  | .GOV_STATUS => ⟨0xD00010, [], true, .once⟩
  | .GOV_SUP_STAT => ⟨0xD00018, [], true, .once⟩
  | .GOV_PWR_CFG => ⟨0xD00020, [], true, .once⟩
  | .GOV_PWR_CTRL => ⟨0xD00028, [], false, .once⟩
  | .GOV_WAKE => ⟨0xD00030, [], false, .once⟩
  | .GOV_BK_CFG => ⟨0xD00040, [], true, .once⟩
  | .GOV_BK_STAT => ⟨0xD00048, [], true, .once⟩
  | .GOV_AVS_CFG => ⟨0xD00050, [], true, .once⟩
  | .GOV_THERM_CFG => ⟨0xD00060, [], true, .once⟩
  | .GOV_STEP_CFG => ⟨0xD00068, [], true, .once⟩
  | .GOV_TEMP => ⟨0xD00100, [(24, 0x4)], false, .once⟩
  | .BRK_CTRL => ⟨0xE00000, [], false, .once⟩
  | .BRK_SAFE => ⟨0xE00008, [], true, .once⟩
  | .BRK_HIST_STAT => ⟨0xE00010, [], false, .once⟩
  | .BRK_INJ => ⟨0xE00018, [], true, .once⟩
  | .BRK_SRC_CFG => ⟨0xE00100, [(64, 0x4)], false, .once⟩
  | .BRK_SRC_STAT => ⟨0xE00200, [(64, 0x8)], true, .once⟩
  | .BRK_HIST_LO => ⟨0xE00400, [(16, 0x10)], true, .once⟩
  | .BRK_HIST_HI => ⟨0xE00408, [(16, 0x10)], true, .once⟩
  | .TLY_CFG => ⟨0xE01000, [], false, .half⟩
  | .TLY_RING => ⟨0xE01008, [], true, .half⟩
  | .TLY_STAT => ⟨0xE01010, [], true, .half⟩
  | .TLY_SAMP_CFG => ⟨0xE01020, [], false, .half⟩
  | .TLY_SAMP0 => ⟨0xE01028, [], true, .half⟩
  | .TLY_SAMP1 => ⟨0xE01030, [], true, .half⟩
  | .TLY_BW_MOD => ⟨0xE01100, [(10, 0x8)], true, .half⟩
  | .TLY_BW_GRP => ⟨0xE01200, [(64, 0x8)], true, .half⟩
  | .TLY_HEAT_IDX => ⟨0xE01400, [], false, .half⟩
  | .TLY_HEAT_DATA => ⟨0xE01408, [], false, .half⟩
  | .TLY_USER => ⟨0xE01500, [], false, .mirror⟩
  | .TLY_CNT => ⟨0xE08000, [(7, 0x800), (256, 0x8)], true, .half⟩
  | .MIL_MB_REQ => ⟨0xF01000, [(8, 0x100), (8, 0x8)], true, .half⟩
  | .MIL_MB_RSP => ⟨0xF01040, [(8, 0x100), (8, 0x8)], true, .half⟩
  | .MIL_MB_CTRL => ⟨0xF01080, [(8, 0x100)], false, .half⟩
  | .MIL_FW_VER => ⟨0xF00800, [], true, .half⟩
  | .MIL_I3C_STAT => ⟨0xF00900, [], false, .once⟩
  | .MMK_LC => ⟨0xF00108, [], false, .once⟩
  | .MMK_UID => ⟨0xF00110, [], true, .once⟩
  | .MMK_STAT => ⟨0xF00118, [], false, .once⟩
  | .TST_CTRL => ⟨0xF00400, [], false, .once⟩
  | .TST_STAT => ⟨0xF00408, [], false, .once⟩
  | .TST_LBIST_FAIL => ⟨0xF00410, [], true, .once⟩
  | .TST_LBIST_FAIL1 => ⟨0xF00418, [], false, .once⟩
  | .TST_MBIST_FAIL => ⟨0xF00420, [], false, .once⟩
  | .TST_IDCODE => ⟨0xF00428, [], false, .once⟩
  | .TST_DSEL => ⟨0xF00430, [], false, .once⟩
  | .GOV_RST_CTRL => ⟨0xD00070, [], true, .once⟩
  | .MIL_BOOT => ⟨0xF00000, [], false, .mirror⟩
  | .MIL_I3C_CFG => ⟨0xF00908, [], false, .once⟩

namespace Fld
-- MMK_FITTED (R9)
def MMK_FITTED_ENC : Field := ⟨.MMK_FITTED, 19, 1, .ro, 0x0, .f⟩
def MMK_FITTED_FATOM : Field := ⟨.MMK_FITTED, 18, 1, .ro, 0x0, .f⟩
def MMK_FITTED_DENS : Field := ⟨.MMK_FITTED, 16, 2, .ro, 0x0, .f⟩
def MMK_FITTED_DIES : Field := ⟨.MMK_FITTED, 12, 2, .ro, 0x0, .f⟩
def MMK_FITTED_GPORTS : Field := ⟨.MMK_FITTED, 8, 4, .ro, 0x0, .f⟩
def MMK_FITTED_HMODS : Field := ⟨.MMK_FITTED, 0, 5, .ro, 0x0, .f⟩
-- GOV_TURN (R39)
def GOV_TURN_COUNT : Field := ⟨.GOV_TURN, 0, 48, .ro, 0x0, .a⟩
-- LAY_STALL_CFG (R51 and R52)
def LAY_STALL_CFG_ESC_WINDOW : Field := ⟨.LAY_STALL_CFG, 16, 8, .rw, 0x40, .k⟩
def LAY_STALL_CFG_LIMIT : Field := ⟨.LAY_STALL_CFG, 4, 12, .rw, 0x400, .k⟩
def LAY_STALL_CFG_EN : Field := ⟨.LAY_STALL_CFG, 0, 1, .rw, 0x1, .k⟩
-- LAY_STALL_STATUS (R51 and R52)
def LAY_STALL_STATUS_VALID : Field := ⟨.LAY_STALL_STATUS, 31, 1, .w1c, 0x0, .w⟩
def LAY_STALL_STATUS_REPEAT : Field := ⟨.LAY_STALL_STATUS, 30, 1, .w1c, 0x0, .w⟩
def LAY_STALL_STATUS_WRITE : Field := ⟨.LAY_STALL_STATUS, 29, 1, .ro, 0x0, .w⟩
def LAY_STALL_STATUS_POINT : Field := ⟨.LAY_STALL_STATUS, 16, 8, .ro, 0x0, .w⟩
def LAY_STALL_STATUS_VC : Field := ⟨.LAY_STALL_STATUS, 14, 2, .ro, 0x0, .w⟩
def LAY_STALL_STATUS_STREAM : Field := ⟨.LAY_STALL_STATUS, 0, 12, .ro, 0x0, .w⟩
-- HEAD_MOD_CTRL (R92)
def HEAD_MOD_CTRL_RECAL_THR : Field := ⟨.HEAD_MOD_CTRL, 8, 8, .rw, 0x20, .k⟩
def HEAD_MOD_CTRL_MGMT_EN : Field := ⟨.HEAD_MOD_CTRL, 7, 1, .rw, 0x1, .k⟩
def HEAD_MOD_CTRL_RECAL : Field := ⟨.HEAD_MOD_CTRL, 6, 1, .rws, 0x0, .n⟩
def HEAD_MOD_CTRL_X32_OK : Field := ⟨.HEAD_MOD_CTRL, 5, 1, .rw, 0x1, .k⟩
def HEAD_MOD_CTRL_RATE_MAX : Field := ⟨.HEAD_MOD_CTRL, 2, 2, .rw, 0x3, .k⟩
def HEAD_MOD_CTRL_RESTART : Field := ⟨.HEAD_MOD_CTRL, 1, 1, .rws, 0x0, .n⟩
def HEAD_MOD_CTRL_EN : Field := ⟨.HEAD_MOD_CTRL, 0, 1, .rw, 0x1, .k⟩
-- HEAD_MOD_STATUS (R92)
def HEAD_MOD_STATUS_REPAIRED : Field := ⟨.HEAD_MOD_STATUS, 24, 8, .ro, 0x0, .n⟩
def HEAD_MOD_STATUS_RESTARTS : Field := ⟨.HEAD_MOD_STATUS, 16, 8, .ro, 0x0, .w⟩
def HEAD_MOD_STATUS_RATE : Field := ⟨.HEAD_MOD_STATUS, 10, 2, .ro, 0x0, .n⟩
def HEAD_MOD_STATUS_X32 : Field := ⟨.HEAD_MOD_STATUS, 9, 1, .ro, 0x0, .n⟩
def HEAD_MOD_STATUS_STATE : Field := ⟨.HEAD_MOD_STATUS, 0, 4, .ro, 0x1, .n⟩
-- HEAD_MOD_ERR (R92)
def HEAD_MOD_ERR_PROTO : Field := ⟨.HEAD_MOD_ERR, 48, 16, .rw, 0x0, .w⟩
def HEAD_MOD_ERR_REPLAY : Field := ⟨.HEAD_MOD_ERR, 32, 16, .rw, 0x0, .w⟩
def HEAD_MOD_ERR_CRC : Field := ⟨.HEAD_MOD_ERR, 0, 32, .rw, 0x0, .w⟩
-- HOP_ORD_CFG (R129)
def HOP_ORD_CFG_GRAN : Field := ⟨.HOP_ORD_CFG, 8, 2, .rw, 0x0, .k⟩
-- FLUME_CFG (R129)
def FLUME_CFG_LOW_FREE : Field := ⟨.FLUME_CFG, 8, 8, .rw, 0x10, .k⟩
def FLUME_CFG_IDLE : Field := ⟨.FLUME_CFG, 0, 8, .rw, 0x4, .k⟩
-- HOP_LOST_LOG (R129)
def HOP_LOST_LOG_VALID : Field := ⟨.HOP_LOST_LOG, 63, 1, .w1c, 0x0, .w⟩
def HOP_LOST_LOG_STREAM : Field := ⟨.HOP_LOST_LOG, 51, 12, .ro, 0x0, .w⟩
def HOP_LOST_LOG_COUNT : Field := ⟨.HOP_LOST_LOG, 40, 11, .ro, 0x0, .w⟩
def HOP_LOST_LOG_ADDR : Field := ⟨.HOP_LOST_LOG, 6, 34, .ro, 0x0, .w⟩
-- HOP_AMAP_CFG (R147)
def HOP_AMAP_CFG_LOCK : Field := ⟨.HOP_AMAP_CFG, 31, 1, .rws, 0x0, .a⟩
def HOP_AMAP_CFG_ROWBITS : Field := ⟨.HOP_AMAP_CFG, 16, 5, .ro, 0x0, .f⟩
def HOP_AMAP_CFG_NSID : Field := ⟨.HOP_AMAP_CFG, 12, 2, .ro, 0x0, .f⟩
def HOP_AMAP_CFG_HASH_MASK : Field := ⟨.HOP_AMAP_CFG, 0, 5, .rwl, 0x1F, .a⟩
-- HOP_AMAP_TOP (R147)
def HOP_AMAP_TOP_REGIONS : Field := ⟨.HOP_AMAP_TOP, 0, 20, .ro, 0x0, .f⟩
-- QRN_WMAP_CFG (R147)
def QRN_WMAP_CFG_CLEAR : Field := ⟨.QRN_WMAP_CFG, 1, 1, .rws, 0x0, .n⟩
def QRN_WMAP_CFG_EN : Field := ⟨.QRN_WMAP_CFG, 0, 1, .rw, 0x1, .a⟩
-- QRN_WMAP_STAT (R147)
def QRN_WMAP_STAT_FILLS : Field := ⟨.QRN_WMAP_STAT, 32, 32, .rw, 0x0, .w⟩
def QRN_WMAP_STAT_LATE : Field := ⟨.QRN_WMAP_STAT, 16, 16, .rw, 0x0, .w⟩
def QRN_WMAP_STAT_ACTIVE : Field := ⟨.QRN_WMAP_STAT, 8, 5, .ro, 0x0, .n⟩
def QRN_WMAP_STAT_QUEUED : Field := ⟨.QRN_WMAP_STAT, 0, 6, .ro, 0x0, .n⟩
-- RACE_CTRL (R175)
def RACE_CTRL_TLOCK : Field := ⟨.RACE_CTRL, 8, 1, .rws, 0x0, .a⟩
def RACE_CTRL_PD_EN : Field := ⟨.RACE_CTRL, 4, 1, .rw, 0x1, .k⟩
def RACE_CTRL_EXP_EN : Field := ⟨.RACE_CTRL, 3, 1, .rw, 0x1, .k⟩
def RACE_CTRL_PAGE : Field := ⟨.RACE_CTRL, 0, 2, .rw, 0x0, .k⟩
-- RACE_STATUS (R175)
def RACE_STATUS_RQ : Field := ⟨.RACE_STATUS, 25, 7, .ro, 0x0, .n⟩
def RACE_STATUS_WQ : Field := ⟨.RACE_STATUS, 18, 7, .ro, 0x0, .n⟩
def RACE_STATUS_AAW_EFF : Field := ⟨.RACE_STATUS, 12, 6, .ro, 0x10, .n⟩
def RACE_STATUS_FAU : Field := ⟨.RACE_STATUS, 7, 5, .ro, 0x0, .n⟩
def RACE_STATUS_WMODE : Field := ⟨.RACE_STATUS, 6, 1, .ro, 0x0, .n⟩
def RACE_STATUS_PD : Field := ⟨.RACE_STATUS, 5, 1, .ro, 0x0, .n⟩
-- RACE_SCHED_CFG (R175)
def RACE_SCHED_CFG_TMO_CNT : Field := ⟨.RACE_SCHED_CFG, 60, 4, .rw, 0x4, .k⟩
def RACE_SCHED_CFG_PD_IDLE : Field := ⟨.RACE_SCHED_CFG, 48, 8, .rw, 0x1, .k⟩
def RACE_SCHED_CFG_AGE_LIMIT : Field := ⟨.RACE_SCHED_CFG, 40, 8, .rw, 0x10, .k⟩
def RACE_SCHED_CFG_HIT_CAP : Field := ⟨.RACE_SCHED_CFG, 32, 8, .rw, 0x10, .k⟩
def RACE_SCHED_CFG_PAGE_IDLE : Field := ⟨.RACE_SCHED_CFG, 24, 8, .rw, 0x20, .k⟩
def RACE_SCHED_CFG_WQ_LO : Field := ⟨.RACE_SCHED_CFG, 16, 8, .rw, 0x10, .k⟩
def RACE_SCHED_CFG_WQ_HI : Field := ⟨.RACE_SCHED_CFG, 8, 8, .rw, 0x30, .k⟩
-- RACE_TIM0 (R175)
def RACE_TIM0_TFAW : Field := ⟨.RACE_TIM0, 56, 8, .rwl, 0x18, .a⟩
def RACE_TIM0_TRRD_R : Field := ⟨.RACE_TIM0, 48, 8, .rwl, 0x2, .a⟩
def RACE_TIM0_TRRD_L : Field := ⟨.RACE_TIM0, 40, 8, .rwl, 0x6, .a⟩
def RACE_TIM0_TRRD_S : Field := ⟨.RACE_TIM0, 32, 8, .rwl, 0x4, .a⟩
def RACE_TIM0_TRC : Field := ⟨.RACE_TIM0, 24, 8, .rwl, 0x4C, .a⟩
def RACE_TIM0_TRAS : Field := ⟨.RACE_TIM0, 16, 8, .rwl, 0x34, .a⟩
def RACE_TIM0_TRP : Field := ⟨.RACE_TIM0, 8, 8, .rwl, 0x18, .a⟩
def RACE_TIM0_TRCD : Field := ⟨.RACE_TIM0, 0, 8, .rwl, 0x1A, .a⟩
-- RACE_TIM1 (R175)
def RACE_TIM1_TPPD : Field := ⟨.RACE_TIM1, 56, 8, .rwl, 0x2, .a⟩
def RACE_TIM1_TRTP : Field := ⟨.RACE_TIM1, 48, 8, .rwl, 0x8, .a⟩
def RACE_TIM1_TWR : Field := ⟨.RACE_TIM1, 40, 8, .rwl, 0x18, .a⟩
def RACE_TIM1_TWTR_L : Field := ⟨.RACE_TIM1, 32, 8, .rwl, 0xA, .a⟩
def RACE_TIM1_TWTR_S : Field := ⟨.RACE_TIM1, 24, 8, .rwl, 0x4, .a⟩
def RACE_TIM1_TCCD_R : Field := ⟨.RACE_TIM1, 16, 8, .rwl, 0x3, .a⟩
def RACE_TIM1_TCCD_L : Field := ⟨.RACE_TIM1, 8, 8, .rwl, 0x2, .a⟩
def RACE_TIM1_TCCD_S : Field := ⟨.RACE_TIM1, 0, 8, .rwl, 0x2, .a⟩
-- RACE_TIM2 (R175)
def RACE_TIM2_TTA : Field := ⟨.RACE_TIM2, 56, 8, .rwl, 0x2, .a⟩
def RACE_TIM2_TRET : Field := ⟨.RACE_TIM2, 48, 8, .rwl, 0x3, .a⟩
def RACE_TIM2_TCMD : Field := ⟨.RACE_TIM2, 40, 8, .rwl, 0x2, .a⟩
def RACE_TIM2_TMRR : Field := ⟨.RACE_TIM2, 32, 8, .rwl, 0x30, .a⟩
def RACE_TIM2_TMRD : Field := ⟨.RACE_TIM2, 24, 8, .rwl, 0x8, .a⟩
def RACE_TIM2_TMRW : Field := ⟨.RACE_TIM2, 16, 8, .rwl, 0x10, .a⟩
def RACE_TIM2_WL : Field := ⟨.RACE_TIM2, 8, 8, .rwl, 0x8, .a⟩
def RACE_TIM2_RL : Field := ⟨.RACE_TIM2, 0, 8, .rwl, 0x2C, .a⟩
-- RACE_TIM3 (R175)
def RACE_TIM3_TREFI : Field := ⟨.RACE_TIM3, 48, 16, .rwl, 0x1860, .a⟩
def RACE_TIM3_TRFCAB : Field := ⟨.RACE_TIM3, 36, 12, .rwl, 0x1C0, .a⟩
def RACE_TIM3_TRFCPB : Field := ⟨.RACE_TIM3, 24, 12, .rwl, 0xA0, .a⟩
def RACE_TIM3_TRFM : Field := ⟨.RACE_TIM3, 12, 12, .rwl, 0xA0, .a⟩
def RACE_TIM3_TRREFD : Field := ⟨.RACE_TIM3, 0, 8, .rwl, 0x8, .a⟩
-- RACE_TIM4 (R175)
def RACE_TIM4_TRASMAX : Field := ⟨.RACE_TIM4, 48, 16, .rwl, 0x1860, .a⟩
def RACE_TIM4_TXS : Field := ⟨.RACE_TIM4, 36, 12, .rwl, 0x1D0, .a⟩
def RACE_TIM4_TAAW : Field := ⟨.RACE_TIM4, 28, 8, .rwl, 0x40, .a⟩
def RACE_TIM4_TSR : Field := ⟨.RACE_TIM4, 20, 8, .rwl, 0x18, .a⟩
def RACE_TIM4_AAW_MAX : Field := ⟨.RACE_TIM4, 14, 6, .rwl, 0x10, .a⟩
def RACE_TIM4_TPD : Field := ⟨.RACE_TIM4, 8, 6, .rwl, 0x8, .a⟩
def RACE_TIM4_TXP : Field := ⟨.RACE_TIM4, 0, 8, .rwl, 0xC, .a⟩
-- RACE_MR_CMD (R175)
def RACE_MR_CMD_GO : Field := ⟨.RACE_MR_CMD, 63, 1, .rws, 0x0, .n⟩
def RACE_MR_CMD_BUSY : Field := ⟨.RACE_MR_CMD, 62, 1, .ro, 0x0, .n⟩
def RACE_MR_CMD_RESULT : Field := ⟨.RACE_MR_CMD, 60, 2, .ro, 0x0, .n⟩
def RACE_MR_CMD_RNW : Field := ⟨.RACE_MR_CMD, 48, 1, .rw, 0x0, .n⟩
def RACE_MR_CMD_SID : Field := ⟨.RACE_MR_CMD, 46, 2, .rw, 0x0, .n⟩
def RACE_MR_CMD_PSR : Field := ⟨.RACE_MR_CMD, 45, 1, .rw, 0x0, .n⟩
def RACE_MR_CMD_MA : Field := ⟨.RACE_MR_CMD, 32, 8, .rw, 0x0, .n⟩
def RACE_MR_CMD_OP : Field := ⟨.RACE_MR_CMD, 0, 8, .rw, 0x0, .n⟩
-- RACE_ERR (R175)
def RACE_ERR_MISS : Field := ⟨.RACE_ERR, 32, 32, .rw, 0x0, .w⟩
def RACE_ERR_STRAY : Field := ⟨.RACE_ERR, 16, 16, .rw, 0x0, .w⟩
-- RACE_REF_CFG (R204)
def RACE_REF_CFG_RFM_TH : Field := ⟨.RACE_REF_CFG, 56, 8, .rw, 0x40, .k⟩
def RACE_REF_CFG_RAA_MAX : Field := ⟨.RACE_REF_CFG, 48, 8, .rw, 0x60, .k⟩
def RACE_REF_CFG_RFM_DEC : Field := ⟨.RACE_REF_CFG, 40, 8, .rw, 0x40, .k⟩
def RACE_REF_CFG_REF_DEC : Field := ⟨.RACE_REF_CFG, 32, 8, .rw, 0x10, .k⟩
def RACE_REF_CFG_RFM_PER_TURN : Field := ⟨.RACE_REF_CFG, 28, 4, .rw, 0x4, .k⟩
def RACE_REF_CFG_HYST_C : Field := ⟨.RACE_REF_CFG, 24, 4, .rw, 0x3, .k⟩
def RACE_REF_CFG_HYST_TURNS : Field := ⟨.RACE_REF_CFG, 16, 8, .rw, 0x40, .k⟩
def RACE_REF_CFG_HINT_EN : Field := ⟨.RACE_REF_CFG, 2, 1, .rw, 0x1, .k⟩
def RACE_REF_CFG_RFM_EN : Field := ⟨.RACE_REF_CFG, 1, 1, .rw, 0x1, .k⟩
def RACE_REF_CFG_REF_EN : Field := ⟨.RACE_REF_CFG, 0, 1, .rw, 0x1, .k⟩
-- RACE_REF_STAT (R204)
def RACE_REF_STAT_TAKEN_B : Field := ⟨.RACE_REF_STAT, 40, 8, .ro, 0x0, .n⟩
def RACE_REF_STAT_TAKEN_A : Field := ⟨.RACE_REF_STAT, 32, 8, .ro, 0x0, .n⟩
def RACE_REF_STAT_PPC_B : Field := ⟨.RACE_REF_STAT, 28, 4, .ro, 0x0, .n⟩
def RACE_REF_STAT_PPC_A : Field := ⟨.RACE_REF_STAT, 24, 4, .ro, 0x0, .n⟩
def RACE_REF_STAT_SREF : Field := ⟨.RACE_REF_STAT, 16, 4, .ro, 0x0, .n⟩
def RACE_REF_STAT_FALLBACK : Field := ⟨.RACE_REF_STAT, 8, 4, .ro, 0x0, .n⟩
def RACE_REF_STAT_RATE : Field := ⟨.RACE_REF_STAT, 0, 8, .ro, 0x0, .n⟩
-- RACE_REF_CNT (R204)
def RACE_REF_CNT_URGENT : Field := ⟨.RACE_REF_CNT, 48, 16, .rw, 0x0, .w⟩
def RACE_REF_CNT_POSTPONED : Field := ⟨.RACE_REF_CNT, 32, 16, .rw, 0x0, .w⟩
def RACE_REF_CNT_RFM : Field := ⟨.RACE_REF_CNT, 16, 16, .rw, 0x0, .w⟩
def RACE_REF_CNT_REVOKE : Field := ⟨.RACE_REF_CNT, 8, 8, .rw, 0x0, .w⟩
def RACE_REF_CNT_CROWD : Field := ⟨.RACE_REF_CNT, 0, 8, .rw, 0x0, .w⟩
-- RACE_SLOT_SHD (R236)
def RACE_SLOT_SHD_ENTRY : Field := ⟨.RACE_SLOT_SHD, 0, 64, .rw, 0x0, .k⟩
-- RACE_SLOT_ACT (R236)
def RACE_SLOT_ACT_ENTRY : Field := ⟨.RACE_SLOT_ACT, 0, 64, .rw, 0x0, .k⟩
-- RACE_SLOT_STAT (R236)
def RACE_SLOT_STAT_GEN : Field := ⟨.RACE_SLOT_STAT, 48, 16, .ro, 0x0, .k⟩
def RACE_SLOT_STAT_N_C0 : Field := ⟨.RACE_SLOT_STAT, 40, 8, .ro, 0x0, .k⟩
def RACE_SLOT_STAT_N_C1 : Field := ⟨.RACE_SLOT_STAT, 32, 8, .ro, 0x0, .k⟩
def RACE_SLOT_STAT_N_RFSH : Field := ⟨.RACE_SLOT_STAT, 24, 8, .ro, 0x8, .k⟩
def RACE_SLOT_STAT_N_TRAIN : Field := ⟨.RACE_SLOT_STAT, 16, 8, .ro, 0x2, .k⟩
def RACE_SLOT_STAT_ADMIT : Field := ⟨.RACE_SLOT_STAT, 4, 1, .ro, 0x0, .k⟩
def RACE_SLOT_STAT_BADCODE : Field := ⟨.RACE_SLOT_STAT, 3, 1, .w1c, 0x0, .k⟩
def RACE_SLOT_STAT_DIRECT : Field := ⟨.RACE_SLOT_STAT, 2, 1, .ro, 0x0, .k⟩
def RACE_SLOT_STAT_PEND : Field := ⟨.RACE_SLOT_STAT, 1, 1, .ro, 0x0, .n⟩
-- SLU_SLOT_SWAP (R236)
def SLU_SLOT_SWAP_RACES : Field := ⟨.SLU_SLOT_SWAP, 0, 32, .rws, 0x0, .n⟩
-- SLU_XP_CFG (R236)
def SLU_XP_CFG_XP_AGE : Field := ⟨.SLU_XP_CFG, 24, 8, .rw, 0x40, .k⟩
def SLU_XP_CFG_W3 : Field := ⟨.SLU_XP_CFG, 8, 4, .rw, 0x1, .k⟩
def SLU_XP_CFG_W2 : Field := ⟨.SLU_XP_CFG, 4, 4, .rw, 0x4, .k⟩
def SLU_XP_CFG_W1 : Field := ⟨.SLU_XP_CFG, 0, 4, .rw, 0x8, .k⟩
-- SLU_GP_CFG (R236)
def SLU_GP_CFG_FW_EVERY : Field := ⟨.SLU_GP_CFG, 8, 8, .rw, 0x10, .k⟩
def SLU_GP_CFG_WB_EVERY : Field := ⟨.SLU_GP_CFG, 0, 8, .rw, 0x8, .k⟩
-- HOP_STREAM (R239)
def HOP_STREAM_EN : Field := ⟨.HOP_STREAM, 31, 1, .rw, 0x1, .k⟩
def HOP_STREAM_BUSY : Field := ⟨.HOP_STREAM, 30, 1, .ro, 0x0, .n⟩
def HOP_STREAM_HOME : Field := ⟨.HOP_STREAM, 16, 1, .rw, 0x0, .k⟩
def HOP_STREAM_CLASS : Field := ⟨.HOP_STREAM, 8, 2, .rw, 0x2, .k⟩
def HOP_STREAM_GROUP : Field := ⟨.HOP_STREAM, 0, 6, .rw, 0x0, .k⟩
-- WEIR_CFG (R259)
def WEIR_CFG_ALERT_HST : Field := ⟨.WEIR_CFG, 22, 10, .rw, 0xFA, .k⟩
def WEIR_CFG_RELAX_TURNS : Field := ⟨.WEIR_CFG, 8, 4, .rw, 0x4, .k⟩
def WEIR_CFG_FLOOR : Field := ⟨.WEIR_CFG, 0, 4, .rw, 0x4, .k⟩
-- WEIR_STATUS (R259)
def WEIR_STATUS_SCALED : Field := ⟨.WEIR_STATUS, 63, 1, .w1c, 0x0, .w⟩
def WEIR_STATUS_HELD : Field := ⟨.WEIR_STATUS, 62, 1, .ro, 0x0, .n⟩
def WEIR_STATUS_ALERT : Field := ⟨.WEIR_STATUS, 61, 1, .ro, 0x0, .n⟩
def WEIR_STATUS_ISOL : Field := ⟨.WEIR_STATUS, 60, 1, .ro, 0x0, .n⟩
def WEIR_STATUS_DRAIN : Field := ⟨.WEIR_STATUS, 59, 1, .ro, 0x0, .n⟩
def WEIR_STATUS_CAPACITY : Field := ⟨.WEIR_STATUS, 58, 1, .ro, 0x0, .n⟩
def WEIR_STATUS_F1_MIN : Field := ⟨.WEIR_STATUS, 38, 10, .ro, 0x3E8, .w⟩
def WEIR_STATUS_F1 : Field := ⟨.WEIR_STATUS, 28, 10, .ro, 0x3E8, .n⟩
def WEIR_STATUS_BOUND : Field := ⟨.WEIR_STATUS, 16, 9, .ro, 0x0, .k⟩
def WEIR_STATUS_A0 : Field := ⟨.WEIR_STATUS, 8, 2, .ro, 0x0, .k⟩
def WEIR_STATUS_C0_DEFER : Field := ⟨.WEIR_STATUS, 0, 8, .rw, 0x0, .w⟩
-- WEIR_WM (R259)
def WEIR_WM_RQ_HIGH : Field := ⟨.WEIR_WM, 24, 8, .rw, 0x30, .k⟩
def WEIR_WM_RQ_LOW : Field := ⟨.WEIR_WM, 16, 8, .rw, 0x10, .k⟩
def WEIR_WM_WQ_HIGH : Field := ⟨.WEIR_WM, 8, 8, .rw, 0x38, .k⟩
def WEIR_WM_WQ_LOW : Field := ⟨.WEIR_WM, 0, 8, .rw, 0x18, .k⟩
-- WEIR_GRP (R259)
def WEIR_GRP_C0_MODS : Field := ⟨.WEIR_GRP, 44, 20, .rw, 0x0, .k⟩
def WEIR_GRP_C0_RATE : Field := ⟨.WEIR_GRP, 36, 2, .rw, 0x0, .k⟩
def WEIR_GRP_W3 : Field := ⟨.WEIR_GRP, 28, 4, .rw, 0x1, .k⟩
def WEIR_GRP_W2 : Field := ⟨.WEIR_GRP, 24, 4, .rw, 0x4, .k⟩
def WEIR_GRP_SHARE1 : Field := ⟨.WEIR_GRP, 0, 10, .rw, 0x0, .k⟩
-- FAN_CFG (R279)
def FAN_CFG_PAR : Field := ⟨.FAN_CFG, 27, 5, .rw, 0x8, .k⟩
def FAN_CFG_ROUND : Field := ⟨.FAN_CFG, 16, 8, .rw, 0x10, .k⟩
def FAN_CFG_TRK_M : Field := ⟨.FAN_CFG, 8, 8, .rw, 0xC, .k⟩
def FAN_CFG_DEAD_RNDS : Field := ⟨.FAN_CFG, 4, 4, .rw, 0x4, .k⟩
def FAN_CFG_AUTO_REPAIR : Field := ⟨.FAN_CFG, 1, 1, .rw, 0x0, .k⟩
def FAN_CFG_TRACK_EN : Field := ⟨.FAN_CFG, 0, 1, .rw, 0x1, .k⟩
-- FAN_CTRL (R279)
def FAN_CTRL_RETRAIN : Field := ⟨.FAN_CTRL, 16, 16, .rws, 0x0, .n⟩
-- SPIN_STAT (R279)
def SPIN_STAT_ROUNDS : Field := ⟨.SPIN_STAT, 56, 8, .ro, 0x0, .n⟩
def SPIN_STAT_LAG : Field := ⟨.SPIN_STAT, 48, 8, .rw, 0x0, .w⟩
def SPIN_STAT_UNREP_B : Field := ⟨.SPIN_STAT, 44, 4, .ro, 0x0, .k⟩
def SPIN_STAT_UNREP_A : Field := ⟨.SPIN_STAT, 40, 4, .ro, 0x0, .k⟩
def SPIN_STAT_EYE_LOW : Field := ⟨.SPIN_STAT, 24, 16, .rw, 0x0, .w⟩
def SPIN_STAT_STEP : Field := ⟨.SPIN_STAT, 12, 4, .ro, 0x0, .n⟩
def SPIN_STAT_RESULT : Field := ⟨.SPIN_STAT, 6, 2, .ro, 0x0, .k⟩
def SPIN_STAT_ABORTED : Field := ⟨.SPIN_STAT, 5, 1, .w1c, 0x0, .k⟩
def SPIN_STAT_STATE : Field := ⟨.SPIN_STAT, 0, 4, .ro, 0x0, .n⟩
-- SPIN_REPAIR (R279)
def SPIN_REPAIR_CCB : Field := ⟨.SPIN_REPAIR, 48, 4, .ro, 0x0, .k⟩
def SPIN_REPAIR_CCA : Field := ⟨.SPIN_REPAIR, 44, 4, .ro, 0x0, .k⟩
def SPIN_REPAIR_CROW : Field := ⟨.SPIN_REPAIR, 40, 4, .ro, 0x0, .k⟩
def SPIN_REPAIR_TB : Field := ⟨.SPIN_REPAIR, 36, 4, .ro, 0x0, .k⟩
def SPIN_REPAIR_TA : Field := ⟨.SPIN_REPAIR, 32, 4, .ro, 0x0, .k⟩
def SPIN_REPAIR_DB : Field := ⟨.SPIN_REPAIR, 16, 16, .ro, 0x0, .k⟩
def SPIN_REPAIR_DA : Field := ⟨.SPIN_REPAIR, 0, 16, .ro, 0x0, .k⟩
-- SPIN_SID (R279)
def SPIN_SID_WCKPH0 : Field := ⟨.SPIN_SID, 10, 6, .ro, 0x0, .k⟩
def SPIN_SID_RREF0 : Field := ⟨.SPIN_SID, 5, 5, .ro, 0x10, .k⟩
def SPIN_SID_WREF0 : Field := ⟨.SPIN_SID, 0, 5, .ro, 0x10, .k⟩
def SPIN_SID_WCKPH1 : Field := ⟨.SPIN_SID, 26, 6, .ro, 0x0, .k⟩
def SPIN_SID_RREF1 : Field := ⟨.SPIN_SID, 21, 5, .ro, 0x10, .k⟩
def SPIN_SID_WREF1 : Field := ⟨.SPIN_SID, 16, 5, .ro, 0x10, .k⟩
def SPIN_SID_WCKPH2 : Field := ⟨.SPIN_SID, 42, 6, .ro, 0x0, .k⟩
def SPIN_SID_RREF2 : Field := ⟨.SPIN_SID, 37, 5, .ro, 0x10, .k⟩
def SPIN_SID_WREF2 : Field := ⟨.SPIN_SID, 32, 5, .ro, 0x10, .k⟩
def SPIN_SID_WCKPH3 : Field := ⟨.SPIN_SID, 58, 6, .ro, 0x0, .k⟩
def SPIN_SID_RREF3 : Field := ⟨.SPIN_SID, 53, 5, .ro, 0x10, .k⟩
def SPIN_SID_WREF3 : Field := ⟨.SPIN_SID, 48, 5, .ro, 0x10, .k⟩
-- SPIN_DLY (R279)
def SPIN_DLY_DLY0 : Field := ⟨.SPIN_DLY, 0, 7, .rw, 0x40, .k⟩
def SPIN_DLY_DLY1 : Field := ⟨.SPIN_DLY, 8, 7, .rw, 0x40, .k⟩
def SPIN_DLY_DLY2 : Field := ⟨.SPIN_DLY, 16, 7, .rw, 0x40, .k⟩
def SPIN_DLY_DLY3 : Field := ⟨.SPIN_DLY, 24, 7, .rw, 0x40, .k⟩
def SPIN_DLY_DLY4 : Field := ⟨.SPIN_DLY, 32, 7, .rw, 0x40, .k⟩
def SPIN_DLY_DLY5 : Field := ⟨.SPIN_DLY, 40, 7, .rw, 0x40, .k⟩
def SPIN_DLY_DLY6 : Field := ⟨.SPIN_DLY, 48, 7, .rw, 0x40, .k⟩
def SPIN_DLY_DLY7 : Field := ⟨.SPIN_DLY, 56, 7, .rw, 0x40, .k⟩
-- QRN_CNT (R306)
def QRN_CNT_CE : Field := ⟨.QRN_CNT, 40, 24, .rw, 0x0, .w⟩
def QRN_CNT_UE : Field := ⟨.QRN_CNT, 24, 16, .rw, 0x0, .w⟩
def QRN_CNT_PSN : Field := ⟨.QRN_CNT, 8, 16, .rw, 0x0, .w⟩
def QRN_CNT_TRANS : Field := ⟨.QRN_CNT, 0, 8, .rw, 0x0, .w⟩
-- QRN_PIN (R306)
def QRN_PIN_VB : Field := ⟨.QRN_PIN, 63, 1, .w1c, 0x0, .w⟩
def QRN_PIN_PIN_B : Field := ⟨.QRN_PIN, 52, 6, .ro, 0x0, .w⟩
def QRN_PIN_CNT_B : Field := ⟨.QRN_PIN, 32, 20, .ro, 0x0, .w⟩
def QRN_PIN_VA : Field := ⟨.QRN_PIN, 31, 1, .w1c, 0x0, .w⟩
def QRN_PIN_PIN_A : Field := ⟨.QRN_PIN, 20, 6, .ro, 0x0, .w⟩
def QRN_PIN_CNT_A : Field := ⟨.QRN_PIN, 0, 20, .ro, 0x0, .w⟩
-- QRN_SCRUB_CFG (R306)
def QRN_SCRUB_CFG_INTERVAL : Field := ⟨.QRN_SCRUB_CFG, 16, 16, .rw, 0x3EE, .k⟩
def QRN_SCRUB_CFG_RETRY : Field := ⟨.QRN_SCRUB_CFG, 1, 1, .rw, 0x1, .k⟩
def QRN_SCRUB_CFG_EN : Field := ⟨.QRN_SCRUB_CFG, 0, 1, .rw, 0x1, .k⟩
-- QRN_SCRUB_STAT (R306)
def QRN_SCRUB_STAT_PASSES : Field := ⟨.QRN_SCRUB_STAT, 48, 16, .ro, 0x0, .a⟩
def QRN_SCRUB_STAT_V : Field := ⟨.QRN_SCRUB_STAT, 29, 19, .ro, 0x0, .a⟩
def QRN_SCRUB_STAT_PIECE : Field := ⟨.QRN_SCRUB_STAT, 19, 10, .ro, 0x0, .a⟩
def QRN_SCRUB_STAT_LAG : Field := ⟨.QRN_SCRUB_STAT, 0, 16, .rw, 0x0, .w⟩
-- QRN_ERR_CFG (R306)
def QRN_ERR_CFG_WINDOW : Field := ⟨.QRN_ERR_CFG, 24, 8, .rw, 0x60, .k⟩
def QRN_ERR_CFG_PIN_THR : Field := ⟨.QRN_ERR_CFG, 16, 8, .rw, 0x40, .k⟩
def QRN_ERR_CFG_ROW_THR : Field := ⟨.QRN_ERR_CFG, 8, 8, .rw, 0x4, .k⟩
def QRN_ERR_CFG_WB_THR : Field := ⟨.QRN_ERR_CFG, 0, 2, .rw, 0x1, .k⟩
-- QRN_UE_LOG (R306)
def QRN_UE_LOG_VALID : Field := ⟨.QRN_UE_LOG, 63, 1, .w1c, 0x0, .w⟩
def QRN_UE_LOG_MULTI : Field := ⟨.QRN_UE_LOG, 62, 1, .ro, 0x0, .w⟩
def QRN_UE_LOG_SRC : Field := ⟨.QRN_UE_LOG, 59, 3, .ro, 0x0, .w⟩
def QRN_UE_LOG_ADDR : Field := ⟨.QRN_UE_LOG, 6, 34, .ro, 0x0, .w⟩
-- QRN_ROW_LOG (R306)
def QRN_ROW_LOG_VALID : Field := ⟨.QRN_ROW_LOG, 63, 1, .w1c, 0x0, .w⟩
def QRN_ROW_LOG_RACE : Field := ⟨.QRN_ROW_LOG, 58, 5, .ro, 0x0, .w⟩
def QRN_ROW_LOG_PR : Field := ⟨.QRN_ROW_LOG, 57, 1, .ro, 0x0, .w⟩
def QRN_ROW_LOG_SID : Field := ⟨.QRN_ROW_LOG, 55, 2, .ro, 0x0, .w⟩
def QRN_ROW_LOG_BG : Field := ⟨.QRN_ROW_LOG, 53, 2, .ro, 0x0, .w⟩
def QRN_ROW_LOG_BANK : Field := ⟨.QRN_ROW_LOG, 50, 3, .ro, 0x0, .w⟩
def QRN_ROW_LOG_ROW : Field := ⟨.QRN_ROW_LOG, 33, 17, .ro, 0x0, .w⟩
def QRN_ROW_LOG_UE : Field := ⟨.QRN_ROW_LOG, 32, 1, .ro, 0x0, .w⟩
-- DRS_CTRL (R306)
def DRS_CTRL_AUTO_PPR : Field := ⟨.DRS_CTRL, 0, 1, .rw, 0x0, .k⟩
-- DRS_STAT (R306)
def DRS_STAT_USED : Field := ⟨.DRS_STAT, 21, 11, .ro, 0x0, .f⟩
def DRS_STAT_BADCHK : Field := ⟨.DRS_STAT, 13, 8, .ro, 0x0, .f⟩
def DRS_STAT_SOFT : Field := ⟨.DRS_STAT, 6, 7, .ro, 0x0, .a⟩
def DRS_STAT_BURN : Field := ⟨.DRS_STAT, 5, 1, .ro, 0x0, .n⟩
def DRS_STAT_LAST : Field := ⟨.DRS_STAT, 3, 2, .ro, 0x0, .a⟩
-- DRS_ISOL (R306)
def DRS_ISOL_RETIRED : Field := ⟨.DRS_ISOL, 32, 32, .ro, 0x0, .f⟩
def DRS_ISOL_ISOL : Field := ⟨.DRS_ISOL, 0, 32, .ro, 0x0, .k⟩
-- DRS_SOFT (R306)
def DRS_SOFT_ENTRY : Field := ⟨.DRS_SOFT, 18, 46, .ro, 0x0, .a⟩
def DRS_SOFT_STATE : Field := ⟨.DRS_SOFT, 16, 2, .ro, 0x0, .a⟩
-- DRS_FUSE (R306)
def DRS_FUSE_ENTRY : Field := ⟨.DRS_FUSE, 0, 64, .ro, 0x0, .f⟩
-- HST_CFG (R342)
def HST_CFG_P_DRAIN : Field := ⟨.HST_CFG, 52, 12, .rw, 0x0, .a⟩
def HST_CFG_DERATE : Field := ⟨.HST_CFG, 42, 10, .rw, 0x320, .a⟩
def HST_CFG_WDERATE : Field := ⟨.HST_CFG, 32, 10, .rw, 0x384, .a⟩
def HST_CFG_T_SEAL : Field := ⟨.HST_CFG, 24, 8, .rw, 0xA, .a⟩
def HST_CFG_HOT_MAX : Field := ⟨.HST_CFG, 14, 10, .rw, 0x10, .a⟩
def HST_CFG_IO_TMO : Field := ⟨.HST_CFG, 6, 8, .rw, 0x32, .a⟩
-- HST_STATUS (R342)
def HST_STATUS_EPOCH : Field := ⟨.HST_STATUS, 32, 32, .ro, 0x0, .n⟩
def HST_STATUS_STATE : Field := ⟨.HST_STATUS, 28, 4, .ro, 0x0, .n⟩
def HST_STATUS_IMAGE : Field := ⟨.HST_STATUS, 26, 2, .ro, 0x0, .n⟩
def HST_STATUS_FAILDRV : Field := ⟨.HST_STATUS, 22, 4, .ro, 0x0, .n⟩
def HST_STATUS_RELOC : Field := ⟨.HST_STATUS, 21, 1, .ro, 0x0, .n⟩
def HST_STATUS_ENC : Field := ⟨.HST_STATUS, 20, 1, .ro, 0x0, .n⟩
def HST_STATUS_REASON : Field := ⟨.HST_STATUS, 16, 4, .ro, 0x0, .n⟩
def HST_STATUS_EMEAS : Field := ⟨.HST_STATUS, 4, 12, .ro, 0x0, .n⟩
-- HST_CEIL (R342)
def HST_CEIL_CEIL : Field := ⟨.HST_CEIL, 32, 32, .ro, 0x0, .n⟩
def HST_CEIL_DIRTY : Field := ⟨.HST_CEIL, 0, 32, .ro, 0x0, .n⟩
-- HST_RATE (R342)
def HST_RATE_RD : Field := ⟨.HST_RATE, 32, 32, .ro, 0x0, .n⟩
def HST_RATE_WR : Field := ⟨.HST_RATE, 0, 32, .ro, 0x0, .n⟩
-- HST_RESTORE (R342)
def HST_RESTORE_DONE : Field := ⟨.HST_RESTORE, 44, 20, .ro, 0x0, .n⟩
def HST_RESTORE_TOTAL : Field := ⟨.HST_RESTORE, 24, 20, .ro, 0x0, .n⟩
def HST_RESTORE_LOST : Field := ⟨.HST_RESTORE, 4, 20, .ro, 0x0, .n⟩
-- GOV_STATUS (R377)
def GOV_STATUS_RST_CAUSE : Field := ⟨.GOV_STATUS, 60, 4, .ro, 0x1, .n⟩
def GOV_STATUS_STATE : Field := ⟨.GOV_STATUS, 52, 4, .ro, 0x0, .n⟩
def GOV_STATUS_ALERT : Field := ⟨.GOV_STATUS, 51, 1, .ro, 0x0, .n⟩
def GOV_STATUS_DRAIN : Field := ⟨.GOV_STATUS, 50, 1, .ro, 0x0, .n⟩
def GOV_STATUS_MAIN_FAIL : Field := ⟨.GOV_STATUS, 49, 1, .ro, 0x0, .n⟩
def GOV_STATUS_AON_B : Field := ⟨.GOV_STATUS, 48, 1, .ro, 0x0, .n⟩
def GOV_STATUS_PADS : Field := ⟨.GOV_STATUS, 47, 1, .ro, 0x0, .n⟩
def GOV_STATUS_BSTEP : Field := ⟨.GOV_STATUS, 40, 4, .ro, 0x0, .n⟩
def GOV_STATUS_ISTEP : Field := ⟨.GOV_STATUS, 36, 4, .ro, 0x0, .n⟩
def GOV_STATUS_DSTEP : Field := ⟨.GOV_STATUS, 0, 12, .ro, 0x0, .n⟩
-- GOV_SUP_STAT (R377)
def GOV_SUP_STAT_DIPS : Field := ⟨.GOV_SUP_STAT, 48, 16, .rw, 0x0, .a⟩
def GOV_SUP_STAT_MAINS : Field := ⟨.GOV_SUP_STAT, 32, 16, .rw, 0x0, .a⟩
def GOV_SUP_STAT_DRAINS : Field := ⟨.GOV_SUP_STAT, 16, 16, .rw, 0x0, .a⟩
def GOV_SUP_STAT_AVS_ERR : Field := ⟨.GOV_SUP_STAT, 8, 8, .rw, 0x0, .a⟩
def GOV_SUP_STAT_MIN_VDD : Field := ⟨.GOV_SUP_STAT, 0, 8, .ro, 0xFF, .n⟩
-- GOV_PWR_CFG (R377)
def GOV_PWR_CFG_WT_MAX : Field := ⟨.GOV_PWR_CFG, 56, 8, .rw, 0x5F, .k⟩
def GOV_PWR_CFG_WATCH_MS : Field := ⟨.GOV_PWR_CFG, 46, 10, .rw, 0x64, .k⟩
def GOV_PWR_CFG_ENTRY_TMO : Field := ⟨.GOV_PWR_CFG, 34, 12, .rw, 0x7D0, .k⟩
def GOV_PWR_CFG_IDLE_AFTER : Field := ⟨.GOV_PWR_CFG, 26, 8, .rw, 0x40, .k⟩
def GOV_PWR_CFG_MAIN_OK : Field := ⟨.GOV_PWR_CFG, 18, 8, .rw, 0x64, .k⟩
def GOV_PWR_CFG_KEEP_SIDS : Field := ⟨.GOV_PWR_CFG, 14, 4, .rw, 0xF, .k⟩
def GOV_PWR_CFG_DRAIN_SIDS : Field := ⟨.GOV_PWR_CFG, 10, 4, .rw, 0x0, .k⟩
def GOV_PWR_CFG_SAG_DRAIN : Field := ⟨.GOV_PWR_CFG, 2, 1, .rw, 0x1, .k⟩
def GOV_PWR_CFG_AUTO_IDLE : Field := ⟨.GOV_PWR_CFG, 1, 1, .rw, 0x1, .k⟩
-- GOV_PWR_CTRL (R377)
def GOV_PWR_CTRL_GO : Field := ⟨.GOV_PWR_CTRL, 31, 1, .rws, 0x0, .n⟩
def GOV_PWR_CTRL_BUSY : Field := ⟨.GOV_PWR_CTRL, 30, 1, .ro, 0x0, .n⟩
def GOV_PWR_CTRL_RESULT : Field := ⟨.GOV_PWR_CTRL, 27, 3, .ro, 0x0, .n⟩
def GOV_PWR_CTRL_REQ : Field := ⟨.GOV_PWR_CTRL, 24, 3, .rw, 0x0, .n⟩
def GOV_PWR_CTRL_REFUSER : Field := ⟨.GOV_PWR_CTRL, 16, 8, .ro, 0x0, .n⟩
def GOV_PWR_CTRL_PAD_RELEASE : Field := ⟨.GOV_PWR_CTRL, 0, 1, .rws, 0x0, .n⟩
-- GOV_WAKE (R377)
def GOV_WAKE_FAIL : Field := ⟨.GOV_WAKE, 31, 1, .w1c, 0x0, .a⟩
def GOV_WAKE_FAIL_WHY : Field := ⟨.GOV_WAKE, 28, 3, .ro, 0x0, .a⟩
def GOV_WAKE_LAST : Field := ⟨.GOV_WAKE, 24, 4, .ro, 0x0, .a⟩
def GOV_WAKE_TIMER_MS : Field := ⟨.GOV_WAKE, 8, 12, .rw, 0x3E8, .a⟩
def GOV_WAKE_EN : Field := ⟨.GOV_WAKE, 1, 6, .rw, 0x37, .a⟩
-- GOV_BK_CFG (R377)
def GOV_BK_CFG_MODE : Field := ⟨.GOV_BK_CFG, 63, 1, .rw, 0x0, .a⟩
def GOV_BK_CFG_BK_PERIOD : Field := ⟨.GOV_BK_CFG, 56, 7, .rw, 0x18, .a⟩
def GOV_BK_CFG_VBK_MIN : Field := ⟨.GOV_BK_CFG, 40, 16, .rw, 0x0, .a⟩
def GOV_BK_CFG_CBK_NOM : Field := ⟨.GOV_BK_CFG, 24, 16, .rw, 0x0, .a⟩
def GOV_BK_CFG_ITEST : Field := ⟨.GOV_BK_CFG, 16, 8, .rw, 0x32, .a⟩
def GOV_BK_CFG_TTEST : Field := ⟨.GOV_BK_CFG, 8, 8, .rw, 0x14, .a⟩
def GOV_BK_CFG_RATIO : Field := ⟨.GOV_BK_CFG, 0, 8, .rw, 0x8, .a⟩
-- GOV_BK_STAT (R377)
def GOV_BK_STAT_VBK : Field := ⟨.GOV_BK_STAT, 48, 16, .ro, 0x0, .n⟩
def GOV_BK_STAT_CBK : Field := ⟨.GOV_BK_STAT, 32, 16, .ro, 0x0, .n⟩
def GOV_BK_STAT_TEST : Field := ⟨.GOV_BK_STAT, 28, 4, .ro, 0x0, .n⟩
def GOV_BK_STAT_EMEAS : Field := ⟨.GOV_BK_STAT, 16, 12, .ro, 0x0, .n⟩
-- GOV_AVS_CFG (R377)
def GOV_AVS_CFG_I_LIM : Field := ⟨.GOV_AVS_CFG, 56, 8, .rw, 0x2E, .a⟩
def GOV_AVS_CFG_OSC_TMO : Field := ⟨.GOV_AVS_CFG, 48, 8, .rw, 0x32, .a⟩
def GOV_AVS_CFG_ACK_TMO : Field := ⟨.GOV_AVS_CFG, 40, 8, .rw, 0x14, .a⟩
def GOV_AVS_CFG_STEP_MV : Field := ⟨.GOV_AVS_CFG, 32, 8, .rw, 0x19, .a⟩
def GOV_AVS_CFG_SEL_H : Field := ⟨.GOV_AVS_CFG, 8, 4, .rw, 0x2, .a⟩
def GOV_AVS_CFG_SEL_S : Field := ⟨.GOV_AVS_CFG, 4, 4, .rw, 0x1, .a⟩
def GOV_AVS_CFG_SEL_VDD : Field := ⟨.GOV_AVS_CFG, 0, 4, .rw, 0x0, .a⟩
-- GOV_THERM_CFG (R377)
def GOV_THERM_CFG_T1 : Field := ⟨.GOV_THERM_CFG, 56, 8, .rw, 0x5F, .k⟩
def GOV_THERM_CFG_T2 : Field := ⟨.GOV_THERM_CFG, 48, 8, .rw, 0x61, .k⟩
def GOV_THERM_CFG_T3 : Field := ⟨.GOV_THERM_CFG, 40, 8, .rw, 0x63, .k⟩
def GOV_THERM_CFG_T4 : Field := ⟨.GOV_THERM_CFG, 32, 8, .rw, 0x65, .k⟩
def GOV_THERM_CFG_B1 : Field := ⟨.GOV_THERM_CFG, 24, 8, .rw, 0x62, .k⟩
def GOV_THERM_CFG_B2 : Field := ⟨.GOV_THERM_CFG, 16, 8, .rw, 0x64, .k⟩
def GOV_THERM_CFG_B3 : Field := ⟨.GOV_THERM_CFG, 8, 8, .rw, 0x66, .k⟩
def GOV_THERM_CFG_B4 : Field := ⟨.GOV_THERM_CFG, 0, 8, .rw, 0x68, .k⟩
-- GOV_STEP_CFG (R377)
def GOV_STEP_CFG_HELD4 : Field := ⟨.GOV_STEP_CFG, 57, 7, .rw, 0x64, .k⟩
def GOV_STEP_CFG_HELD3 : Field := ⟨.GOV_STEP_CFG, 50, 7, .rw, 0x4C, .k⟩
def GOV_STEP_CFG_HELD2 : Field := ⟨.GOV_STEP_CFG, 43, 7, .rw, 0x34, .k⟩
def GOV_STEP_CFG_HELD1 : Field := ⟨.GOV_STEP_CFG, 36, 7, .rw, 0x1C, .k⟩
def GOV_STEP_CFG_AAW4 : Field := ⟨.GOV_STEP_CFG, 30, 6, .rw, 0x8, .k⟩
def GOV_STEP_CFG_AAW3 : Field := ⟨.GOV_STEP_CFG, 24, 6, .rw, 0xA, .k⟩
def GOV_STEP_CFG_AAW2 : Field := ⟨.GOV_STEP_CFG, 18, 6, .rw, 0xC, .k⟩
def GOV_STEP_CFG_AAW1 : Field := ⟨.GOV_STEP_CFG, 12, 6, .rw, 0xE, .k⟩
-- GOV_TEMP (R377)
def GOV_TEMP_VALID : Field := ⟨.GOV_TEMP, 31, 1, .ro, 0x0, .n⟩
def GOV_TEMP_T : Field := ⟨.GOV_TEMP, 0, 8, .ro, 0x0, .n⟩
-- BRK_CTRL (R393)
def BRK_CTRL_SAFE : Field := ⟨.BRK_CTRL, 31, 1, .ro, 0x0, .n⟩
def BRK_CTRL_CLR_REFUSED : Field := ⟨.BRK_CTRL, 30, 1, .w1c, 0x0, .n⟩
def BRK_CTRL_IBI_EN : Field := ⟨.BRK_CTRL, 2, 1, .rw, 0x1, .k⟩
def BRK_CTRL_INT_EN : Field := ⟨.BRK_CTRL, 1, 1, .rw, 0x1, .k⟩
-- BRK_SAFE (R393)
def BRK_SAFE_VALID : Field := ⟨.BRK_SAFE, 63, 1, .w1c, 0x0, .w⟩
def BRK_SAFE_WIRE : Field := ⟨.BRK_SAFE, 62, 1, .ro, 0x0, .w⟩
def BRK_SAFE_INST : Field := ⟨.BRK_SAFE, 57, 5, .ro, 0x0, .w⟩
def BRK_SAFE_SRC : Field := ⟨.BRK_SAFE, 49, 8, .ro, 0x0, .w⟩
def BRK_SAFE_TURN : Field := ⟨.BRK_SAFE, 0, 48, .ro, 0x0, .w⟩
-- BRK_HIST_STAT (R393)
def BRK_HIST_STAT_FROZEN : Field := ⟨.BRK_HIST_STAT, 31, 1, .w1c, 0x0, .w⟩
def BRK_HIST_STAT_OVF : Field := ⟨.BRK_HIST_STAT, 8, 16, .rw, 0x0, .w⟩
def BRK_HIST_STAT_HEAD : Field := ⟨.BRK_HIST_STAT, 0, 4, .ro, 0xF, .w⟩
-- BRK_INJ (R393)
def BRK_INJ_GO : Field := ⟨.BRK_INJ, 63, 1, .rws, 0x0, .n⟩
def BRK_INJ_MODE : Field := ⟨.BRK_INJ, 61, 2, .rw, 0x0, .n⟩
def BRK_INJ_QUIET : Field := ⟨.BRK_INJ, 60, 1, .rw, 0x0, .n⟩
def BRK_INJ_STOP : Field := ⟨.BRK_INJ, 59, 1, .rws, 0x0, .n⟩
def BRK_INJ_SRC : Field := ⟨.BRK_INJ, 48, 8, .rw, 0x0, .n⟩
def BRK_INJ_INST : Field := ⟨.BRK_INJ, 43, 5, .rw, 0x0, .n⟩
-- BRK_SRC_CFG (R393)
def BRK_SRC_CFG_FIXED : Field := ⟨.BRK_SRC_CFG, 31, 1, .ro, 0x0, .f⟩
def BRK_SRC_CFG_PERMIT : Field := ⟨.BRK_SRC_CFG, 16, 5, .ro, 0x0, .f⟩
def BRK_SRC_CFG_SEV : Field := ⟨.BRK_SRC_CFG, 0, 3, .rw, 0x0, .k⟩
-- BRK_SRC_STAT (R393)
def BRK_SRC_STAT_ACTIVE : Field := ⟨.BRK_SRC_STAT, 32, 32, .ro, 0x0, .n⟩
def BRK_SRC_STAT_PEND : Field := ⟨.BRK_SRC_STAT, 0, 32, .w1c, 0x0, .w⟩
-- BRK_HIST_LO (R393)
def BRK_HIST_LO_ENTRY : Field := ⟨.BRK_HIST_LO, 0, 64, .ro, 0x0, .w⟩
-- BRK_HIST_HI (R393)
def BRK_HIST_HI_ENTRY : Field := ⟨.BRK_HIST_HI, 0, 64, .ro, 0x0, .w⟩
-- TLY_CFG (R408)
def TLY_CFG_RING_EN : Field := ⟨.TLY_CFG, 31, 1, .rw, 0x0, .k⟩
def TLY_CFG_DECAY : Field := ⟨.TLY_CFG, 16, 8, .rw, 0x1, .k⟩
def TLY_CFG_WBITS : Field := ⟨.TLY_CFG, 12, 4, .rw, 0x4, .k⟩
def TLY_CFG_USER_OK : Field := ⟨.TLY_CFG, 0, 7, .rw, 0x0, .k⟩
-- TLY_RING (R408)
def TLY_RING_COUNT : Field := ⟨.TLY_RING, 48, 16, .rw, 0x1, .k⟩
def TLY_RING_BASE : Field := ⟨.TLY_RING, 12, 28, .rw, 0x0, .k⟩
-- TLY_STAT (R408)
def TLY_STAT_SEQ : Field := ⟨.TLY_STAT, 32, 32, .ro, 0x0, .w⟩
def TLY_STAT_MISSED : Field := ⟨.TLY_STAT, 16, 16, .rw, 0x0, .w⟩
def TLY_STAT_DROPPED : Field := ⟨.TLY_STAT, 8, 8, .rw, 0x0, .w⟩
def TLY_STAT_BADRING : Field := ⟨.TLY_STAT, 2, 1, .w1c, 0x0, .w⟩
def TLY_STAT_BWVALID : Field := ⟨.TLY_STAT, 1, 1, .ro, 0x0, .n⟩
def TLY_STAT_DUMPING : Field := ⟨.TLY_STAT, 0, 1, .ro, 0x0, .n⟩
-- TLY_SAMP_CFG (R408)
def TLY_SAMP_CFG_EN : Field := ⟨.TLY_SAMP_CFG, 31, 1, .rw, 0x0, .k⟩
def TLY_SAMP_CFG_MOD : Field := ⟨.TLY_SAMP_CFG, 16, 4, .rw, 0x0, .k⟩
def TLY_SAMP_CFG_PERIOD : Field := ⟨.TLY_SAMP_CFG, 0, 16, .rw, 0x400, .k⟩
-- TLY_SAMP0 (R408)
def TLY_SAMP0_ADDR : Field := ⟨.TLY_SAMP0, 30, 34, .ro, 0x0, .n⟩
def TLY_SAMP0_STREAM : Field := ⟨.TLY_SAMP0, 18, 12, .ro, 0x0, .n⟩
def TLY_SAMP0_OPC : Field := ⟨.TLY_SAMP0, 13, 5, .ro, 0x0, .n⟩
def TLY_SAMP0_CLASS : Field := ⟨.TLY_SAMP0, 11, 2, .ro, 0x0, .n⟩
def TLY_SAMP0_SKID : Field := ⟨.TLY_SAMP0, 0, 5, .ro, 0x0, .n⟩
-- TLY_SAMP1 (R408)
def TLY_SAMP1_VALID : Field := ⟨.TLY_SAMP1, 63, 1, .w1c, 0x0, .n⟩
def TLY_SAMP1_LAT : Field := ⟨.TLY_SAMP1, 48, 15, .ro, 0x0, .n⟩
def TLY_SAMP1_TURN : Field := ⟨.TLY_SAMP1, 0, 48, .ro, 0x0, .n⟩
-- TLY_BW_MOD (R408)
def TLY_BW_MOD_RD : Field := ⟨.TLY_BW_MOD, 32, 32, .ro, 0x0, .n⟩
def TLY_BW_MOD_WR : Field := ⟨.TLY_BW_MOD, 0, 32, .ro, 0x0, .n⟩
-- TLY_BW_GRP (R408)
def TLY_BW_GRP_RD : Field := ⟨.TLY_BW_GRP, 32, 32, .ro, 0x0, .n⟩
def TLY_BW_GRP_WR : Field := ⟨.TLY_BW_GRP, 0, 32, .ro, 0x0, .n⟩
-- TLY_HEAT_IDX (R408)
def TLY_HEAT_IDX_IDX : Field := ⟨.TLY_HEAT_IDX, 0, 17, .rw, 0x0, .n⟩
-- TLY_HEAT_DATA (R408)
def TLY_HEAT_DATA_LEVEL : Field := ⟨.TLY_HEAT_DATA, 0, 32, .rw, 0x0, .w⟩
-- TLY_USER (R408)
def TLY_USER_MODS : Field := ⟨.TLY_USER, 0, 20, .rw, 0x0, .k⟩
-- TLY_CNT (R408)
def TLY_CNT_COUNT : Field := ⟨.TLY_CNT, 0, 48, .ro, 0x0, .w⟩
-- MIL_MB_REQ (R412)
def MIL_MB_REQ_DATA : Field := ⟨.MIL_MB_REQ, 0, 64, .rw, 0x0, .n⟩
-- MIL_MB_RSP (R412)
def MIL_MB_RSP_DATA : Field := ⟨.MIL_MB_RSP, 0, 64, .ro, 0x0, .n⟩
-- MIL_MB_CTRL (R412)
def MIL_MB_CTRL_GO : Field := ⟨.MIL_MB_CTRL, 31, 1, .rws, 0x0, .n⟩
def MIL_MB_CTRL_BUSY : Field := ⟨.MIL_MB_CTRL, 30, 1, .ro, 0x0, .n⟩
def MIL_MB_CTRL_DONE : Field := ⟨.MIL_MB_CTRL, 29, 1, .w1c, 0x0, .n⟩
def MIL_MB_CTRL_IBI_DONE : Field := ⟨.MIL_MB_CTRL, 28, 1, .rw, 0x0, .n⟩
def MIL_MB_CTRL_PATH : Field := ⟨.MIL_MB_CTRL, 0, 2, .ro, 0x0, .f⟩
-- MIL_FW_VER (R412)
def MIL_FW_VER_MAJOR : Field := ⟨.MIL_FW_VER, 56, 8, .ro, 0x0, .n⟩
def MIL_FW_VER_MINOR : Field := ⟨.MIL_FW_VER, 48, 8, .ro, 0x0, .n⟩
def MIL_FW_VER_BUILD : Field := ⟨.MIL_FW_VER, 32, 16, .ro, 0x0, .n⟩
def MIL_FW_VER_SVN : Field := ⟨.MIL_FW_VER, 24, 8, .ro, 0x0, .n⟩
def MIL_FW_VER_SVN_MIN : Field := ⟨.MIL_FW_VER, 16, 8, .ro, 0x0, .f⟩
def MIL_FW_VER_STAGED : Field := ⟨.MIL_FW_VER, 2, 1, .ro, 0x0, .n⟩
def MIL_FW_VER_SOURCE : Field := ⟨.MIL_FW_VER, 0, 2, .ro, 0x0, .n⟩
-- MIL_I3C_STAT (R412)
def MIL_I3C_STAT_MSTAT : Field := ⟨.MIL_I3C_STAT, 0, 16, .ro, 0x0, .a⟩
-- MMK_LC (R453)
def MMK_LC_FAILS : Field := ⟨.MMK_LC, 16, 4, .ro, 0x0, .a⟩
def MMK_LC_PASS_SET : Field := ⟨.MMK_LC, 15, 1, .ro, 0x0, .f⟩
def MMK_LC_PASS_HELD : Field := ⟨.MMK_LC, 14, 1, .ro, 0x0, .n⟩
def MMK_LC_UNLOCK : Field := ⟨.MMK_LC, 12, 2, .ro, 0x0, .n⟩
def MMK_LC_NONCE : Field := ⟨.MMK_LC, 11, 1, .ro, 0x0, .n⟩
def MMK_LC_PEND : Field := ⟨.MMK_LC, 7, 1, .ro, 0x0, .f⟩
def MMK_LC_NEXT : Field := ⟨.MMK_LC, 4, 3, .ro, 0x0, .f⟩
def MMK_LC_STATE : Field := ⟨.MMK_LC, 0, 3, .ro, 0x0, .f⟩
-- MMK_UID (R453)
def MMK_UID_UID : Field := ⟨.MMK_UID, 0, 64, .ro, 0x0, .f⟩
-- MMK_STAT (R453)
def MMK_STAT_KEYSLOT : Field := ⟨.MMK_STAT, 8, 1, .ro, 0x0, .f⟩
def MMK_STAT_KEY : Field := ⟨.MMK_STAT, 7, 1, .ro, 0x0, .f⟩
def MMK_STAT_CERT : Field := ⟨.MMK_STAT, 6, 1, .ro, 0x0, .f⟩
def MMK_STAT_RNG_OK : Field := ⟨.MMK_STAT, 5, 1, .ro, 0x0, .n⟩
def MMK_STAT_ST_BUSY : Field := ⟨.MMK_STAT, 4, 1, .ro, 0x0, .n⟩
def MMK_STAT_ST_FAIL : Field := ⟨.MMK_STAT, 0, 3, .ro, 0x0, .n⟩
-- TST_CTRL (R453)
def TST_CTRL_EXIT : Field := ⟨.TST_CTRL, 31, 1, .rws, 0x0, .n⟩
def TST_CTRL_TESTMODE : Field := ⟨.TST_CTRL, 5, 1, .rw, 0x0, .w⟩
def TST_CTRL_ARM_MBIST : Field := ⟨.TST_CTRL, 4, 1, .rw, 0x0, .w⟩
def TST_CTRL_ARM_LBIST : Field := ⟨.TST_CTRL, 3, 1, .rw, 0x0, .w⟩
def TST_CTRL_ACC_1838 : Field := ⟨.TST_CTRL, 1, 1, .ro, 0x0, .n⟩
def TST_CTRL_ACC_1149 : Field := ⟨.TST_CTRL, 0, 1, .ro, 0x0, .n⟩
-- TST_STAT (R453)
def TST_STAT_INMODE : Field := ⟨.TST_STAT, 31, 1, .ro, 0x0, .n⟩
def TST_STAT_MBIST : Field := ⟨.TST_STAT, 6, 2, .ro, 0x0, .w⟩
def TST_STAT_LBIST : Field := ⟨.TST_STAT, 4, 2, .ro, 0x0, .w⟩
-- TST_LBIST_FAIL (R453)
def TST_LBIST_FAIL_DOM : Field := ⟨.TST_LBIST_FAIL, 0, 64, .ro, 0x0, .w⟩
-- TST_LBIST_FAIL1 (R453)
def TST_LBIST_FAIL1_DOM : Field := ⟨.TST_LBIST_FAIL1, 0, 16, .ro, 0x0, .w⟩
-- TST_MBIST_FAIL (R453)
def TST_MBIST_FAIL_ARR : Field := ⟨.TST_MBIST_FAIL, 0, 20, .ro, 0x0, .w⟩
-- TST_IDCODE (R453)
def TST_IDCODE_VERSION : Field := ⟨.TST_IDCODE, 28, 4, .ro, 0x0, .f⟩
def TST_IDCODE_PART : Field := ⟨.TST_IDCODE, 12, 16, .ro, 0x5E3A, .f⟩
def TST_IDCODE_MFR : Field := ⟨.TST_IDCODE, 1, 11, .ro, 0x0, .f⟩
-- TST_DSEL (R453)
def TST_DSEL_DIES : Field := ⟨.TST_DSEL, 0, 16, .ro, 0x0, .n⟩
-- GOV_RST_CTRL (R471)
def GOV_RST_CTRL_WARM : Field := ⟨.GOV_RST_CTRL, 63, 1, .rws, 0x0, .n⟩
def GOV_RST_CTRL_HALF_W : Field := ⟨.GOV_RST_CTRL, 62, 1, .rws, 0x0, .n⟩
def GOV_RST_CTRL_RACE : Field := ⟨.GOV_RST_CTRL, 0, 32, .rws, 0x0, .n⟩
-- MIL_BOOT (R471)
def MIL_BOOT_GO : Field := ⟨.MIL_BOOT, 31, 1, .rws, 0x0, .a⟩
def MIL_BOOT_TRAIN_WAIT : Field := ⟨.MIL_BOOT, 30, 1, .ro, 0x0, .f⟩
def MIL_BOOT_SPLIT : Field := ⟨.MIL_BOOT, 29, 1, .ro, 0x0, .n⟩
def MIL_BOOT_READY_W : Field := ⟨.MIL_BOOT, 28, 1, .ro, 0x0, .n⟩
def MIL_BOOT_READY_E : Field := ⟨.MIL_BOOT, 27, 1, .ro, 0x0, .n⟩
def MIL_BOOT_PHASE : Field := ⟨.MIL_BOOT, 20, 4, .ro, 0x0, .n⟩
def MIL_BOOT_SLOT : Field := ⟨.MIL_BOOT, 0, 6, .ro, 0x0, .f⟩
-- MIL_I3C_CFG (R471)
def MIL_I3C_CFG_ATT_EN : Field := ⟨.MIL_I3C_CFG, 0, 1, .rw, 0x0, .a⟩
end Fld

/-- The named fields of every register; bits in no field are reserved and read as zero (R20). -/
def Reg.fields : Reg → List Field
  | .MMK_FITTED => [Fld.MMK_FITTED_ENC, Fld.MMK_FITTED_FATOM, Fld.MMK_FITTED_DENS, Fld.MMK_FITTED_DIES, Fld.MMK_FITTED_GPORTS, Fld.MMK_FITTED_HMODS]
  | .GOV_TURN => [Fld.GOV_TURN_COUNT]
  | .LAY_STALL_CFG => [Fld.LAY_STALL_CFG_ESC_WINDOW, Fld.LAY_STALL_CFG_LIMIT, Fld.LAY_STALL_CFG_EN]
  | .LAY_STALL_STATUS => [Fld.LAY_STALL_STATUS_VALID, Fld.LAY_STALL_STATUS_REPEAT, Fld.LAY_STALL_STATUS_WRITE, Fld.LAY_STALL_STATUS_POINT, Fld.LAY_STALL_STATUS_VC, Fld.LAY_STALL_STATUS_STREAM]
  | .HEAD_MOD_CTRL => [Fld.HEAD_MOD_CTRL_RECAL_THR, Fld.HEAD_MOD_CTRL_MGMT_EN, Fld.HEAD_MOD_CTRL_RECAL, Fld.HEAD_MOD_CTRL_X32_OK, Fld.HEAD_MOD_CTRL_RATE_MAX, Fld.HEAD_MOD_CTRL_RESTART, Fld.HEAD_MOD_CTRL_EN]
  | .HEAD_MOD_STATUS => [Fld.HEAD_MOD_STATUS_REPAIRED, Fld.HEAD_MOD_STATUS_RESTARTS, Fld.HEAD_MOD_STATUS_RATE, Fld.HEAD_MOD_STATUS_X32, Fld.HEAD_MOD_STATUS_STATE]
  | .HEAD_MOD_ERR => [Fld.HEAD_MOD_ERR_PROTO, Fld.HEAD_MOD_ERR_REPLAY, Fld.HEAD_MOD_ERR_CRC]
  | .HOP_ORD_CFG => [Fld.HOP_ORD_CFG_GRAN]
  | .FLUME_CFG => [Fld.FLUME_CFG_LOW_FREE, Fld.FLUME_CFG_IDLE]
  | .HOP_LOST_LOG => [Fld.HOP_LOST_LOG_VALID, Fld.HOP_LOST_LOG_STREAM, Fld.HOP_LOST_LOG_COUNT, Fld.HOP_LOST_LOG_ADDR]
  | .HOP_AMAP_CFG => [Fld.HOP_AMAP_CFG_LOCK, Fld.HOP_AMAP_CFG_ROWBITS, Fld.HOP_AMAP_CFG_NSID, Fld.HOP_AMAP_CFG_HASH_MASK]
  | .HOP_AMAP_TOP => [Fld.HOP_AMAP_TOP_REGIONS]
  | .QRN_WMAP_CFG => [Fld.QRN_WMAP_CFG_CLEAR, Fld.QRN_WMAP_CFG_EN]
  | .QRN_WMAP_STAT => [Fld.QRN_WMAP_STAT_FILLS, Fld.QRN_WMAP_STAT_LATE, Fld.QRN_WMAP_STAT_ACTIVE, Fld.QRN_WMAP_STAT_QUEUED]
  | .RACE_CTRL => [Fld.RACE_CTRL_TLOCK, Fld.RACE_CTRL_PD_EN, Fld.RACE_CTRL_EXP_EN, Fld.RACE_CTRL_PAGE]
  | .RACE_STATUS => [Fld.RACE_STATUS_RQ, Fld.RACE_STATUS_WQ, Fld.RACE_STATUS_AAW_EFF, Fld.RACE_STATUS_FAU, Fld.RACE_STATUS_WMODE, Fld.RACE_STATUS_PD]
  | .RACE_SCHED_CFG => [Fld.RACE_SCHED_CFG_TMO_CNT, Fld.RACE_SCHED_CFG_PD_IDLE, Fld.RACE_SCHED_CFG_AGE_LIMIT, Fld.RACE_SCHED_CFG_HIT_CAP, Fld.RACE_SCHED_CFG_PAGE_IDLE, Fld.RACE_SCHED_CFG_WQ_LO, Fld.RACE_SCHED_CFG_WQ_HI]
  | .RACE_TIM0 => [Fld.RACE_TIM0_TFAW, Fld.RACE_TIM0_TRRD_R, Fld.RACE_TIM0_TRRD_L, Fld.RACE_TIM0_TRRD_S, Fld.RACE_TIM0_TRC, Fld.RACE_TIM0_TRAS, Fld.RACE_TIM0_TRP, Fld.RACE_TIM0_TRCD]
  | .RACE_TIM1 => [Fld.RACE_TIM1_TPPD, Fld.RACE_TIM1_TRTP, Fld.RACE_TIM1_TWR, Fld.RACE_TIM1_TWTR_L, Fld.RACE_TIM1_TWTR_S, Fld.RACE_TIM1_TCCD_R, Fld.RACE_TIM1_TCCD_L, Fld.RACE_TIM1_TCCD_S]
  | .RACE_TIM2 => [Fld.RACE_TIM2_TTA, Fld.RACE_TIM2_TRET, Fld.RACE_TIM2_TCMD, Fld.RACE_TIM2_TMRR, Fld.RACE_TIM2_TMRD, Fld.RACE_TIM2_TMRW, Fld.RACE_TIM2_WL, Fld.RACE_TIM2_RL]
  | .RACE_TIM3 => [Fld.RACE_TIM3_TREFI, Fld.RACE_TIM3_TRFCAB, Fld.RACE_TIM3_TRFCPB, Fld.RACE_TIM3_TRFM, Fld.RACE_TIM3_TRREFD]
  | .RACE_TIM4 => [Fld.RACE_TIM4_TRASMAX, Fld.RACE_TIM4_TXS, Fld.RACE_TIM4_TAAW, Fld.RACE_TIM4_TSR, Fld.RACE_TIM4_AAW_MAX, Fld.RACE_TIM4_TPD, Fld.RACE_TIM4_TXP]
  | .RACE_MR_CMD => [Fld.RACE_MR_CMD_GO, Fld.RACE_MR_CMD_BUSY, Fld.RACE_MR_CMD_RESULT, Fld.RACE_MR_CMD_RNW, Fld.RACE_MR_CMD_SID, Fld.RACE_MR_CMD_PSR, Fld.RACE_MR_CMD_MA, Fld.RACE_MR_CMD_OP]
  | .RACE_ERR => [Fld.RACE_ERR_MISS, Fld.RACE_ERR_STRAY]
  | .RACE_REF_CFG => [Fld.RACE_REF_CFG_RFM_TH, Fld.RACE_REF_CFG_RAA_MAX, Fld.RACE_REF_CFG_RFM_DEC, Fld.RACE_REF_CFG_REF_DEC, Fld.RACE_REF_CFG_RFM_PER_TURN, Fld.RACE_REF_CFG_HYST_C, Fld.RACE_REF_CFG_HYST_TURNS, Fld.RACE_REF_CFG_HINT_EN, Fld.RACE_REF_CFG_RFM_EN, Fld.RACE_REF_CFG_REF_EN]
  | .RACE_REF_STAT => [Fld.RACE_REF_STAT_TAKEN_B, Fld.RACE_REF_STAT_TAKEN_A, Fld.RACE_REF_STAT_PPC_B, Fld.RACE_REF_STAT_PPC_A, Fld.RACE_REF_STAT_SREF, Fld.RACE_REF_STAT_FALLBACK, Fld.RACE_REF_STAT_RATE]
  | .RACE_REF_CNT => [Fld.RACE_REF_CNT_URGENT, Fld.RACE_REF_CNT_POSTPONED, Fld.RACE_REF_CNT_RFM, Fld.RACE_REF_CNT_REVOKE, Fld.RACE_REF_CNT_CROWD]
  | .RACE_SLOT_SHD => [Fld.RACE_SLOT_SHD_ENTRY]
  | .RACE_SLOT_ACT => [Fld.RACE_SLOT_ACT_ENTRY]
  | .RACE_SLOT_STAT => [Fld.RACE_SLOT_STAT_GEN, Fld.RACE_SLOT_STAT_N_C0, Fld.RACE_SLOT_STAT_N_C1, Fld.RACE_SLOT_STAT_N_RFSH, Fld.RACE_SLOT_STAT_N_TRAIN, Fld.RACE_SLOT_STAT_ADMIT, Fld.RACE_SLOT_STAT_BADCODE, Fld.RACE_SLOT_STAT_DIRECT, Fld.RACE_SLOT_STAT_PEND]
  | .SLU_SLOT_SWAP => [Fld.SLU_SLOT_SWAP_RACES]
  | .SLU_XP_CFG => [Fld.SLU_XP_CFG_XP_AGE, Fld.SLU_XP_CFG_W3, Fld.SLU_XP_CFG_W2, Fld.SLU_XP_CFG_W1]
  | .SLU_GP_CFG => [Fld.SLU_GP_CFG_FW_EVERY, Fld.SLU_GP_CFG_WB_EVERY]
  | .HOP_STREAM => [Fld.HOP_STREAM_EN, Fld.HOP_STREAM_BUSY, Fld.HOP_STREAM_HOME, Fld.HOP_STREAM_CLASS, Fld.HOP_STREAM_GROUP]
  | .WEIR_CFG => [Fld.WEIR_CFG_ALERT_HST, Fld.WEIR_CFG_RELAX_TURNS, Fld.WEIR_CFG_FLOOR]
  | .WEIR_STATUS => [Fld.WEIR_STATUS_SCALED, Fld.WEIR_STATUS_HELD, Fld.WEIR_STATUS_ALERT, Fld.WEIR_STATUS_ISOL, Fld.WEIR_STATUS_DRAIN, Fld.WEIR_STATUS_CAPACITY, Fld.WEIR_STATUS_F1_MIN, Fld.WEIR_STATUS_F1, Fld.WEIR_STATUS_BOUND, Fld.WEIR_STATUS_A0, Fld.WEIR_STATUS_C0_DEFER]
  | .WEIR_WM => [Fld.WEIR_WM_RQ_HIGH, Fld.WEIR_WM_RQ_LOW, Fld.WEIR_WM_WQ_HIGH, Fld.WEIR_WM_WQ_LOW]
  | .WEIR_GRP => [Fld.WEIR_GRP_C0_MODS, Fld.WEIR_GRP_C0_RATE, Fld.WEIR_GRP_W3, Fld.WEIR_GRP_W2, Fld.WEIR_GRP_SHARE1]
  | .FAN_CFG => [Fld.FAN_CFG_PAR, Fld.FAN_CFG_ROUND, Fld.FAN_CFG_TRK_M, Fld.FAN_CFG_DEAD_RNDS, Fld.FAN_CFG_AUTO_REPAIR, Fld.FAN_CFG_TRACK_EN]
  | .FAN_CTRL => [Fld.FAN_CTRL_RETRAIN]
  | .SPIN_STAT => [Fld.SPIN_STAT_ROUNDS, Fld.SPIN_STAT_LAG, Fld.SPIN_STAT_UNREP_B, Fld.SPIN_STAT_UNREP_A, Fld.SPIN_STAT_EYE_LOW, Fld.SPIN_STAT_STEP, Fld.SPIN_STAT_RESULT, Fld.SPIN_STAT_ABORTED, Fld.SPIN_STAT_STATE]
  | .SPIN_REPAIR => [Fld.SPIN_REPAIR_CCB, Fld.SPIN_REPAIR_CCA, Fld.SPIN_REPAIR_CROW, Fld.SPIN_REPAIR_TB, Fld.SPIN_REPAIR_TA, Fld.SPIN_REPAIR_DB, Fld.SPIN_REPAIR_DA]
  | .SPIN_SID => [Fld.SPIN_SID_WCKPH0, Fld.SPIN_SID_RREF0, Fld.SPIN_SID_WREF0, Fld.SPIN_SID_WCKPH1, Fld.SPIN_SID_RREF1, Fld.SPIN_SID_WREF1, Fld.SPIN_SID_WCKPH2, Fld.SPIN_SID_RREF2, Fld.SPIN_SID_WREF2, Fld.SPIN_SID_WCKPH3, Fld.SPIN_SID_RREF3, Fld.SPIN_SID_WREF3]
  | .SPIN_DLY => [Fld.SPIN_DLY_DLY0, Fld.SPIN_DLY_DLY1, Fld.SPIN_DLY_DLY2, Fld.SPIN_DLY_DLY3, Fld.SPIN_DLY_DLY4, Fld.SPIN_DLY_DLY5, Fld.SPIN_DLY_DLY6, Fld.SPIN_DLY_DLY7]
  | .QRN_CNT => [Fld.QRN_CNT_CE, Fld.QRN_CNT_UE, Fld.QRN_CNT_PSN, Fld.QRN_CNT_TRANS]
  | .QRN_PIN => [Fld.QRN_PIN_VB, Fld.QRN_PIN_PIN_B, Fld.QRN_PIN_CNT_B, Fld.QRN_PIN_VA, Fld.QRN_PIN_PIN_A, Fld.QRN_PIN_CNT_A]
  | .QRN_SCRUB_CFG => [Fld.QRN_SCRUB_CFG_INTERVAL, Fld.QRN_SCRUB_CFG_RETRY, Fld.QRN_SCRUB_CFG_EN]
  | .QRN_SCRUB_STAT => [Fld.QRN_SCRUB_STAT_PASSES, Fld.QRN_SCRUB_STAT_V, Fld.QRN_SCRUB_STAT_PIECE, Fld.QRN_SCRUB_STAT_LAG]
  | .QRN_ERR_CFG => [Fld.QRN_ERR_CFG_WINDOW, Fld.QRN_ERR_CFG_PIN_THR, Fld.QRN_ERR_CFG_ROW_THR, Fld.QRN_ERR_CFG_WB_THR]
  | .QRN_UE_LOG => [Fld.QRN_UE_LOG_VALID, Fld.QRN_UE_LOG_MULTI, Fld.QRN_UE_LOG_SRC, Fld.QRN_UE_LOG_ADDR]
  | .QRN_ROW_LOG => [Fld.QRN_ROW_LOG_VALID, Fld.QRN_ROW_LOG_RACE, Fld.QRN_ROW_LOG_PR, Fld.QRN_ROW_LOG_SID, Fld.QRN_ROW_LOG_BG, Fld.QRN_ROW_LOG_BANK, Fld.QRN_ROW_LOG_ROW, Fld.QRN_ROW_LOG_UE]
  | .DRS_CTRL => [Fld.DRS_CTRL_AUTO_PPR]
  | .DRS_STAT => [Fld.DRS_STAT_USED, Fld.DRS_STAT_BADCHK, Fld.DRS_STAT_SOFT, Fld.DRS_STAT_BURN, Fld.DRS_STAT_LAST]
  | .DRS_ISOL => [Fld.DRS_ISOL_RETIRED, Fld.DRS_ISOL_ISOL]
  | .DRS_SOFT => [Fld.DRS_SOFT_ENTRY, Fld.DRS_SOFT_STATE]
  | .DRS_FUSE => [Fld.DRS_FUSE_ENTRY]
  | .HST_CFG => [Fld.HST_CFG_P_DRAIN, Fld.HST_CFG_DERATE, Fld.HST_CFG_WDERATE, Fld.HST_CFG_T_SEAL, Fld.HST_CFG_HOT_MAX, Fld.HST_CFG_IO_TMO]
  | .HST_STATUS => [Fld.HST_STATUS_EPOCH, Fld.HST_STATUS_STATE, Fld.HST_STATUS_IMAGE, Fld.HST_STATUS_FAILDRV, Fld.HST_STATUS_RELOC, Fld.HST_STATUS_ENC, Fld.HST_STATUS_REASON, Fld.HST_STATUS_EMEAS]
  | .HST_CEIL => [Fld.HST_CEIL_CEIL, Fld.HST_CEIL_DIRTY]
  | .HST_RATE => [Fld.HST_RATE_RD, Fld.HST_RATE_WR]
  | .HST_RESTORE => [Fld.HST_RESTORE_DONE, Fld.HST_RESTORE_TOTAL, Fld.HST_RESTORE_LOST]
  | .GOV_STATUS => [Fld.GOV_STATUS_RST_CAUSE, Fld.GOV_STATUS_STATE, Fld.GOV_STATUS_ALERT, Fld.GOV_STATUS_DRAIN, Fld.GOV_STATUS_MAIN_FAIL, Fld.GOV_STATUS_AON_B, Fld.GOV_STATUS_PADS, Fld.GOV_STATUS_BSTEP, Fld.GOV_STATUS_ISTEP, Fld.GOV_STATUS_DSTEP]
  | .GOV_SUP_STAT => [Fld.GOV_SUP_STAT_DIPS, Fld.GOV_SUP_STAT_MAINS, Fld.GOV_SUP_STAT_DRAINS, Fld.GOV_SUP_STAT_AVS_ERR, Fld.GOV_SUP_STAT_MIN_VDD]
  | .GOV_PWR_CFG => [Fld.GOV_PWR_CFG_WT_MAX, Fld.GOV_PWR_CFG_WATCH_MS, Fld.GOV_PWR_CFG_ENTRY_TMO, Fld.GOV_PWR_CFG_IDLE_AFTER, Fld.GOV_PWR_CFG_MAIN_OK, Fld.GOV_PWR_CFG_KEEP_SIDS, Fld.GOV_PWR_CFG_DRAIN_SIDS, Fld.GOV_PWR_CFG_SAG_DRAIN, Fld.GOV_PWR_CFG_AUTO_IDLE]
  | .GOV_PWR_CTRL => [Fld.GOV_PWR_CTRL_GO, Fld.GOV_PWR_CTRL_BUSY, Fld.GOV_PWR_CTRL_RESULT, Fld.GOV_PWR_CTRL_REQ, Fld.GOV_PWR_CTRL_REFUSER, Fld.GOV_PWR_CTRL_PAD_RELEASE]
  | .GOV_WAKE => [Fld.GOV_WAKE_FAIL, Fld.GOV_WAKE_FAIL_WHY, Fld.GOV_WAKE_LAST, Fld.GOV_WAKE_TIMER_MS, Fld.GOV_WAKE_EN]
  | .GOV_BK_CFG => [Fld.GOV_BK_CFG_MODE, Fld.GOV_BK_CFG_BK_PERIOD, Fld.GOV_BK_CFG_VBK_MIN, Fld.GOV_BK_CFG_CBK_NOM, Fld.GOV_BK_CFG_ITEST, Fld.GOV_BK_CFG_TTEST, Fld.GOV_BK_CFG_RATIO]
  | .GOV_BK_STAT => [Fld.GOV_BK_STAT_VBK, Fld.GOV_BK_STAT_CBK, Fld.GOV_BK_STAT_TEST, Fld.GOV_BK_STAT_EMEAS]
  | .GOV_AVS_CFG => [Fld.GOV_AVS_CFG_I_LIM, Fld.GOV_AVS_CFG_OSC_TMO, Fld.GOV_AVS_CFG_ACK_TMO, Fld.GOV_AVS_CFG_STEP_MV, Fld.GOV_AVS_CFG_SEL_H, Fld.GOV_AVS_CFG_SEL_S, Fld.GOV_AVS_CFG_SEL_VDD]
  | .GOV_THERM_CFG => [Fld.GOV_THERM_CFG_T1, Fld.GOV_THERM_CFG_T2, Fld.GOV_THERM_CFG_T3, Fld.GOV_THERM_CFG_T4, Fld.GOV_THERM_CFG_B1, Fld.GOV_THERM_CFG_B2, Fld.GOV_THERM_CFG_B3, Fld.GOV_THERM_CFG_B4]
  | .GOV_STEP_CFG => [Fld.GOV_STEP_CFG_HELD4, Fld.GOV_STEP_CFG_HELD3, Fld.GOV_STEP_CFG_HELD2, Fld.GOV_STEP_CFG_HELD1, Fld.GOV_STEP_CFG_AAW4, Fld.GOV_STEP_CFG_AAW3, Fld.GOV_STEP_CFG_AAW2, Fld.GOV_STEP_CFG_AAW1]
  | .GOV_TEMP => [Fld.GOV_TEMP_VALID, Fld.GOV_TEMP_T]
  | .BRK_CTRL => [Fld.BRK_CTRL_SAFE, Fld.BRK_CTRL_CLR_REFUSED, Fld.BRK_CTRL_IBI_EN, Fld.BRK_CTRL_INT_EN]
  | .BRK_SAFE => [Fld.BRK_SAFE_VALID, Fld.BRK_SAFE_WIRE, Fld.BRK_SAFE_INST, Fld.BRK_SAFE_SRC, Fld.BRK_SAFE_TURN]
  | .BRK_HIST_STAT => [Fld.BRK_HIST_STAT_FROZEN, Fld.BRK_HIST_STAT_OVF, Fld.BRK_HIST_STAT_HEAD]
  | .BRK_INJ => [Fld.BRK_INJ_GO, Fld.BRK_INJ_MODE, Fld.BRK_INJ_QUIET, Fld.BRK_INJ_STOP, Fld.BRK_INJ_SRC, Fld.BRK_INJ_INST]
  | .BRK_SRC_CFG => [Fld.BRK_SRC_CFG_FIXED, Fld.BRK_SRC_CFG_PERMIT, Fld.BRK_SRC_CFG_SEV]
  | .BRK_SRC_STAT => [Fld.BRK_SRC_STAT_ACTIVE, Fld.BRK_SRC_STAT_PEND]
  | .BRK_HIST_LO => [Fld.BRK_HIST_LO_ENTRY]
  | .BRK_HIST_HI => [Fld.BRK_HIST_HI_ENTRY]
  | .TLY_CFG => [Fld.TLY_CFG_RING_EN, Fld.TLY_CFG_DECAY, Fld.TLY_CFG_WBITS, Fld.TLY_CFG_USER_OK]
  | .TLY_RING => [Fld.TLY_RING_COUNT, Fld.TLY_RING_BASE]
  | .TLY_STAT => [Fld.TLY_STAT_SEQ, Fld.TLY_STAT_MISSED, Fld.TLY_STAT_DROPPED, Fld.TLY_STAT_BADRING, Fld.TLY_STAT_BWVALID, Fld.TLY_STAT_DUMPING]
  | .TLY_SAMP_CFG => [Fld.TLY_SAMP_CFG_EN, Fld.TLY_SAMP_CFG_MOD, Fld.TLY_SAMP_CFG_PERIOD]
  | .TLY_SAMP0 => [Fld.TLY_SAMP0_ADDR, Fld.TLY_SAMP0_STREAM, Fld.TLY_SAMP0_OPC, Fld.TLY_SAMP0_CLASS, Fld.TLY_SAMP0_SKID]
  | .TLY_SAMP1 => [Fld.TLY_SAMP1_VALID, Fld.TLY_SAMP1_LAT, Fld.TLY_SAMP1_TURN]
  | .TLY_BW_MOD => [Fld.TLY_BW_MOD_RD, Fld.TLY_BW_MOD_WR]
  | .TLY_BW_GRP => [Fld.TLY_BW_GRP_RD, Fld.TLY_BW_GRP_WR]
  | .TLY_HEAT_IDX => [Fld.TLY_HEAT_IDX_IDX]
  | .TLY_HEAT_DATA => [Fld.TLY_HEAT_DATA_LEVEL]
  | .TLY_USER => [Fld.TLY_USER_MODS]
  | .TLY_CNT => [Fld.TLY_CNT_COUNT]
  | .MIL_MB_REQ => [Fld.MIL_MB_REQ_DATA]
  | .MIL_MB_RSP => [Fld.MIL_MB_RSP_DATA]
  | .MIL_MB_CTRL => [Fld.MIL_MB_CTRL_GO, Fld.MIL_MB_CTRL_BUSY, Fld.MIL_MB_CTRL_DONE, Fld.MIL_MB_CTRL_IBI_DONE, Fld.MIL_MB_CTRL_PATH]
  | .MIL_FW_VER => [Fld.MIL_FW_VER_MAJOR, Fld.MIL_FW_VER_MINOR, Fld.MIL_FW_VER_BUILD, Fld.MIL_FW_VER_SVN, Fld.MIL_FW_VER_SVN_MIN, Fld.MIL_FW_VER_STAGED, Fld.MIL_FW_VER_SOURCE]
  | .MIL_I3C_STAT => [Fld.MIL_I3C_STAT_MSTAT]
  | .MMK_LC => [Fld.MMK_LC_FAILS, Fld.MMK_LC_PASS_SET, Fld.MMK_LC_PASS_HELD, Fld.MMK_LC_UNLOCK, Fld.MMK_LC_NONCE, Fld.MMK_LC_PEND, Fld.MMK_LC_NEXT, Fld.MMK_LC_STATE]
  | .MMK_UID => [Fld.MMK_UID_UID]
  | .MMK_STAT => [Fld.MMK_STAT_KEYSLOT, Fld.MMK_STAT_KEY, Fld.MMK_STAT_CERT, Fld.MMK_STAT_RNG_OK, Fld.MMK_STAT_ST_BUSY, Fld.MMK_STAT_ST_FAIL]
  | .TST_CTRL => [Fld.TST_CTRL_EXIT, Fld.TST_CTRL_TESTMODE, Fld.TST_CTRL_ARM_MBIST, Fld.TST_CTRL_ARM_LBIST, Fld.TST_CTRL_ACC_1838, Fld.TST_CTRL_ACC_1149]
  | .TST_STAT => [Fld.TST_STAT_INMODE, Fld.TST_STAT_MBIST, Fld.TST_STAT_LBIST]
  | .TST_LBIST_FAIL => [Fld.TST_LBIST_FAIL_DOM]
  | .TST_LBIST_FAIL1 => [Fld.TST_LBIST_FAIL1_DOM]
  | .TST_MBIST_FAIL => [Fld.TST_MBIST_FAIL_ARR]
  | .TST_IDCODE => [Fld.TST_IDCODE_VERSION, Fld.TST_IDCODE_PART, Fld.TST_IDCODE_MFR]
  | .TST_DSEL => [Fld.TST_DSEL_DIES]
  | .GOV_RST_CTRL => [Fld.GOV_RST_CTRL_WARM, Fld.GOV_RST_CTRL_HALF_W, Fld.GOV_RST_CTRL_RACE]
  | .MIL_BOOT => [Fld.MIL_BOOT_GO, Fld.MIL_BOOT_TRAIN_WAIT, Fld.MIL_BOOT_SPLIT, Fld.MIL_BOOT_READY_W, Fld.MIL_BOOT_READY_E, Fld.MIL_BOOT_PHASE, Fld.MIL_BOOT_SLOT]
  | .MIL_I3C_CFG => [Fld.MIL_I3C_CFG_ATT_EN]

/-- Every register, in the order of the chapters. -/
def Reg.all : List Reg :=
  ([.MMK_FITTED, .GOV_TURN, .LAY_STALL_CFG, .LAY_STALL_STATUS, .HEAD_MOD_CTRL, .HEAD_MOD_STATUS, .HEAD_MOD_ERR, .HOP_ORD_CFG] : List Reg) ++
  ([.FLUME_CFG, .HOP_LOST_LOG, .HOP_AMAP_CFG, .HOP_AMAP_TOP, .QRN_WMAP_CFG, .QRN_WMAP_STAT, .RACE_CTRL, .RACE_STATUS] : List Reg) ++
  ([.RACE_SCHED_CFG, .RACE_TIM0, .RACE_TIM1, .RACE_TIM2, .RACE_TIM3, .RACE_TIM4, .RACE_MR_CMD, .RACE_ERR] : List Reg) ++
  ([.RACE_REF_CFG, .RACE_REF_STAT, .RACE_REF_CNT, .RACE_SLOT_SHD, .RACE_SLOT_ACT, .RACE_SLOT_STAT, .SLU_SLOT_SWAP, .SLU_XP_CFG] : List Reg) ++
  ([.SLU_GP_CFG, .HOP_STREAM, .WEIR_CFG, .WEIR_STATUS, .WEIR_WM, .WEIR_GRP, .FAN_CFG, .FAN_CTRL] : List Reg) ++
  ([.SPIN_STAT, .SPIN_REPAIR, .SPIN_SID, .SPIN_DLY, .QRN_CNT, .QRN_PIN, .QRN_SCRUB_CFG, .QRN_SCRUB_STAT] : List Reg) ++
  ([.QRN_ERR_CFG, .QRN_UE_LOG, .QRN_ROW_LOG, .DRS_CTRL, .DRS_STAT, .DRS_ISOL, .DRS_SOFT, .DRS_FUSE] : List Reg) ++
  ([.HST_CFG, .HST_STATUS, .HST_CEIL, .HST_RATE, .HST_RESTORE, .GOV_STATUS, .GOV_SUP_STAT, .GOV_PWR_CFG] : List Reg) ++
  ([.GOV_PWR_CTRL, .GOV_WAKE, .GOV_BK_CFG, .GOV_BK_STAT, .GOV_AVS_CFG, .GOV_THERM_CFG, .GOV_STEP_CFG, .GOV_TEMP] : List Reg) ++
  ([.BRK_CTRL, .BRK_SAFE, .BRK_HIST_STAT, .BRK_INJ, .BRK_SRC_CFG, .BRK_SRC_STAT, .BRK_HIST_LO, .BRK_HIST_HI] : List Reg) ++
  ([.TLY_CFG, .TLY_RING, .TLY_STAT, .TLY_SAMP_CFG, .TLY_SAMP0, .TLY_SAMP1, .TLY_BW_MOD, .TLY_BW_GRP] : List Reg) ++
  ([.TLY_HEAT_IDX, .TLY_HEAT_DATA, .TLY_USER, .TLY_CNT, .MIL_MB_REQ, .MIL_MB_RSP, .MIL_MB_CTRL, .MIL_FW_VER] : List Reg) ++
  ([.MIL_I3C_STAT, .MMK_LC, .MMK_UID, .MMK_STAT, .TST_CTRL, .TST_STAT, .TST_LBIST_FAIL, .TST_LBIST_FAIL1] : List Reg) ++
  ([.TST_MBIST_FAIL, .TST_IDCODE, .TST_DSEL, .GOV_RST_CTRL, .MIL_BOOT, .MIL_I3C_CFG] : List Reg)

end Sys2Proof.Machine
end

