-- ==== Sys2Proof/Machine/State.lean ====
section
/-!
DEFINITION. The state of the block as plain data: the registers of the management window (`regs`, one word for each register
instance that differs from its reset word), and the queues, buffers, engines and pins behind them, unit by unit. Every
structure's default is its content right after power-on reset of the reference configuration (R8), so that `State.reset` is
the structure of defaults. Fields that the model adds for itself (a monotonic Turn count, a free-value counter, serial
numbers) are named as such.
-/
namespace Sys2Proof.Machine

/-- What fuses and other one-time-programmable stores of the part hold (R4, R17, R298, R427, R431 to R435, R440). -/
structure Fuses where
  hmods : Nat := 20
  gports : Nat := 8
  /-- 0b00 4, 0b01 8, 0b10 12, 0b11 16 dies -/
  dies : Nat := 3
  /-- 0b00 128, 0b01 256, 0b10 512 Gb -/
  dens : Nat := 2
  fatom : Bool := true
  enc : Bool := true
  trainWait : Bool := false
  uid : Word := 0
  mfr : Nat := 0
  version : Nat := 0
  /-- life-cycle state code (R429) -/
  lc : Nat := 3
  /-- an advance is burned (R431): the state after the next reset -/
  lcNext : Option Nat := none
  /-- salt and digest of the passphrase record (R440) -/
  pass : Option (BitVec 128 × BitVec 384) := some (0, 0)
  keySlot : Nat := 0
  /-- key slots voided by an interrupted generation (R433) -/
  keyVoid : Nat := 0
  /-- the unit public key, once generated -/
  unitKey : Option (BitVec 768) := some 0
  keyFuse : BitVec 1024 := 0
  keyFuseDone : Bool := true
  /-- the certificate store, and whether it has been written -/
  certs : BitVec 65536 := 0
  certsDone : Bool := true
  svnMin : Nat := 0
  /-- the Dresser fuse map (R298), blank entries unlisted -/
  map : Tbl Word := {}
deriving DecidableEq, Repr

/-- Time: the Turn counter and the place in the Turn (R10, R12, R35). -/
structure Clk where
  /-- GOV_TURN.COUNT, 48 bits -/
  turn : Nat := 0
  /-- the model's own count of Turn boundaries, which never wraps -/
  age : Nat := 0
  /-- mc of the Turn reached, 0-255 -/
  mc : Nat := 0
  /-- windows of this Turn that have completed -/
  alertDone : Bool := false
  swapDone : Bool := false
  planDone : Bool := false
  /-- races whose swap was asked for at or after mc 48 of this Turn, before its sample (R36) -/
  swapLate : Nat := 0
  /-- races that asked for a swap and are isolated or off at mc 48: they take none at the boundary (R215) -/
  swapNo : Nat := 0
  weirDone : Bool := false
  distDone : Bool := false
  /-- the high half latched by a low read of GOV_TURN (R39) and the age of that read -/
  lowLatch : Option (Nat × Nat) := none
  /-- REFCLK runs (R478) -/
  refclk : Bool := true
deriving DecidableEq, Repr

/-- The states of a host module (R57). -/
inductive ModState where
  | disabled | train | open_ | active | recal | down
deriving DecidableEq, Repr

/-- A response held for a module (R73, R74): header, remaining data cells, class-0 mark (R248), age. -/
structure Resp where
  hdr : BitVec 128
  cells : List Cell
  c0 : Bool
  since : Nat
  /-- the request it answers (0: none) -/
  id : Nat
  /-- it answers an RDX, AMO or WRC (R59) -/
  atom : Bool := false
deriving DecidableEq, Repr

/-- A host module (R57 to R92), beyond its registers. -/
structure ModSt where
  st : ModState := .train
  /-- Turn (age) at which the state, or the TRAIN attempt, began -/
  stAt : Nat := 0
  /-- RATE_MAX and X32_OK as they stood at the entry to TRAIN (R92) -/
  rateCap : Nat := 3
  x32Cap : Bool := true
  /-- failed TRAIN attempts in a row -/
  attempts : Nat := 0
  /-- unacknowledged upstream flits, oldest first: SEQ and content (R87) -/
  replay : List (Nat × Flit) := []
  txSeq : Nat := 0
  /-- SEQ of the last flit received in order with a good CRC; 0x3FF before any -/
  ack : Nat := 0x3FF
  nak : Bool := false
  /-- the data queue: cell and the number of the landed flit that carried it (R71) -/
  dataQ : List (Cell × Nat) := []
  /-- landed flits so far in this link session -/
  landed : Nat := 0
  /-- verdicts that wait for an upstream flit: SEQ and V0, V1, V2 (R83) -/
  verdQ : List (Nat × List Nat) := []
  /-- defer fences by stream, with the HINT (R85) -/
  fences : Tbl Nat := {}
  /-- the transmit buffer (R79): responses held, oldest first -/
  tx : List Resp := []
  /-- the response whose data cells have begun (R73) -/
  part : Option Resp := none
  /-- flits still to be resent by a replay in progress (R87), oldest first -/
  resend : List (Nat × Flit) := []
  /-- NAK was set in the last flit received, and the ACK that started the last replay -/
  hostNak : Bool := false
  nakAck : Option Nat := none
  /-- last ACK received from the host -/
  hostAck : Nat := 0x3FF
  /-- replays of each unacknowledged flit since it was first sent, by SEQ (R89) -/
  sameRep : Tbl Nat := {}
  /-- replays in the current window of 65,536 flit times, and flit times counted in it (R89) -/
  repWin : Nat := 0
  flitCt : Nat := 0
  /-- after a RECAL: replays with no advance of the host's ACK (R89); none before the first RECAL -/
  postRecal : Option Nat := none
  /-- flit times of this link session, and the one in which each unacknowledged flit was last sent, by SEQ (R87) -/
  ftime : Nat := 0
  sent : Tbl Nat := {}
  /-- streams whose RDX, AMO or WRC is answered, in whole or part, by an unacknowledged flit, with its SEQ (R59) -/
  loss : List (Nat × Nat) := []
  /-- the last upstream flit sent -/
  up : Flit := 0
  rate : Nat := 0
  x32 : Bool := false
  /-- Hopper entries left (R246) -/
  hop : Nat := 0
  /-- Millpond entries left, East and West -/
  pondE : Nat := 0
  pondW : Nat := 0
  /-- Flume entries left, East and West -/
  flumeE : Nat := 0
  flumeW : Nat := 0
  /-- cells left of the slice or the floor, by 4 × group + class (classes 1-3); no entry: the floor of this Turn -/
  slice : Tbl Nat := {}
  /-- floor cells used this Turn, by 4 × group + class -/
  floorUsed : Tbl Nat := {}
  /-- class-0 allowance loaded at the last boundary and units used since, by group (R242) -/
  c0cap : Tbl Nat := {}
  c0used : Tbl Nat := {}
  /-- ACCEPT and DEFER counts of this Turn and of the last, by 4 × group + class (R244, R246) -/
  demand : Tbl Nat := {}
  demandOld : Tbl Nat := {}
  /-- stored settings that a wake resumes from (R354, R361): the module was ACTIVE at entry, its rate and width then -/
  wasActive : Bool := false
  keptRate : Nat := 0
  keptX32 : Bool := false
deriving DecidableEq, Repr

/-- Where a request stands (R94): accepted by its module; at work in its half; performed; answered or done. -/
inductive ReqPhase where
  | accepted | working | performed | dropped | done
deriving DecidableEq, Repr

/-- An accepted host request (R66, R68, R78, R84). -/
structure Req where
  m : Nat
  opc : Nat
  stream : Nat
  tag : Nat
  /-- byte address of the first cell; for MGMT header bits [63:30] -/
  addr : Nat
  len : Nat
  arg : Word
  data : List Cell := []
  psn : Bool := false
  cls : Nat
  grp : Nat
  landHalf : Nat
  home : Nat
  target : Nat
  race : Nat
  /-- Turn (model's age) of the ACCEPT and mc count of the landing -/
  turn : Nat
  land : Nat
  /-- Turn counter at landing, for the sampler (R404) -/
  tstamp : Nat := 0
  phase : ReqPhase := .accepted
  /-- visibility token: 0 none, 1 released, 2 applied, 3 acknowledged (R96) -/
  tok : Nat := 0
  /-- result cells bound so far, by cell index -/
  got : Tbl Cell := {}
  pmask : Nat := 0
  /-- a response has been made -/
  answered : Bool := false
  /-- for a barrier: East and West parts resolved (R119) -/
  partE : Bool := false
  partW : Bool := false
  /-- Hopper, Millpond and Flume entries come from the class-0 reserve -/
  c0 : Bool := false
  /-- served on the express lane (R164) -/
  express : Bool := false
  /-- cells of a read that are bound or wait in the race; the others are held (R99, R170) -/
  sent : List Nat := []
  /-- for a barrier: the split has cut off a request that it covers (R125, R128) -/
  cut : Bool := false
deriving DecidableEq, Repr

/-- A stream's reservation (R110): granule base, granule size, modules of the RDX and of the WRCs after it (R113). -/
structure Resv where
  base : Nat
  size : Nat
  mods : List Nat
deriving DecidableEq, Repr

/-- Hopper state of both halves (R30, R85, R93 to R129). -/
structure Hop where
  /-- accepted requests by number; numbers ascend in the order of ACCEPT -/
  reqs : Tbl Req := {}
  nextId : Nat := 1
  /-- reservations by stream -/
  resv : Tbl Resv := {}
  /-- LOST marks (R124): by stream, by group, and of the device -/
  lostS : Tbl Bool := {}
  lostG : Tbl Bool := {}
  lostD : Bool := false
  /-- number of the next visibility instant, in coherence order (R98; the model's serial) -/
  visNext : Nat := 1
deriving DecidableEq, Repr

/-- A Millpond entry: one 64-byte cell of a store, or an AMO (R31, R114). -/
structure PondEnt where
  id : Nat
  k : Nat
  half : Nat
  race : Nat
  addr : Nat
  data : Cell
  mask : BitVec 64
  psn : Bool
  /-- serial of its visibility; 0 while not visible -/
  vis : Nat := 0
  /-- a Tally record store (R399), which belongs to no stream -/
  tally : Bool := false
  amo : Bool := false
  /-- a WRP or WRC: its bytes are merged (R168), whatever its mask -/
  masked : Bool := false
  stream : Nat
  cls : Nat
deriving DecidableEq, Repr

/-- A Flume entry (R104): an aligned 256-byte block of one stream. -/
structure FlumeEnt where
  fid : Nat
  half : Nat
  blk : Nat
  race : Nat
  stream : Nat
  /-- data and byte mask by cell 0-3 -/
  data : Tbl Cell := {}
  mask : Tbl (BitVec 64) := {}
  /-- cells whose data is stored poisoned (bit c) -/
  psn : Nat := 0
  ids : List Nat := []
  /-- the last WRN combined into each cell, by its number -/
  who : Tbl Nat := {}
  /-- class of the stream's requests -/
  cls : Nat := 2
  /-- Turn (age) of the last combine -/
  last : Nat
  closed : Bool := false
deriving DecidableEq, Repr

/-- A request waiting at a Sluice (R223). -/
structure Parked where
  port : Nat
  key : Nat
  cls : Nat
  ch : Chan
  since : Nat
  cells : Nat
  /-- stream, or the requester identifier of a background unit (R42) -/
  stream : Nat
deriving DecidableEq, Repr

/-- A Sluice of a crosspoint, link port or granary mux (R221 to R235). -/
structure Slu where
  pend : List Parked := []
  /-- mc count at which the transfer in progress ends -/
  busyTo : Nat := 0
  /-- REQ won the last decision between REQ and RSP -/
  reqWon : Bool := false
  /-- mc count of the last SNP beat (R231) -/
  lastSnp : Option Nat := none
  /-- REQ packets that left by this port and hold a place of the next hop's REQ buffer: key, class 0 (R41, R233) -/
  places : List (Nat × Bool) := []
  /-- replay buffer of a cross-half link, newest first, at most 16 (R43) -/
  replay : List Parked := []
  /-- deficit counters of classes 1-3 (R232) -/
  def1 : Nat := 0
  def2 : Nat := 0
  def3 : Nat := 0
  /-- grants made at a granary mux since the last firmware and write-behind exceptions (R235) -/
  sinceFw : Nat := 0
  sinceWb : Nat := 0
  /-- the last grant: key and mc at which its transfer begins; its channel -/
  grant : Option (Nat × Nat) := none
  grantCh : Chan := .req
deriving DecidableEq, Repr

/-- Layshaft (R40 to R52). -/
structure Lay where
  /-- live cross-half links by direction (0 East to West, 1 West to East), as bit masks -/
  liveEW : Nat := 0xFF
  liveWE : Nat := 0xFF
  /-- replays failed in succession, by 8 × direction + link -/
  fails : Tbl Nat := {}
  /-- all links of a direction are lost: the split takes effect at the next Turn (R467); MIL_BOOT.SPLIT is the split itself -/
  splitPend : Bool := false
  split : Bool := false
  /-- last firing Turn (age) of a watchdog point, by 1024 × half + 4 × point + channel (R48, R50) -/
  fired : Tbl Nat := {}
  /-- the request at the head of a point's queue and the Turn (age) since when it has been there, by the same key (R48) -/
  heads : Tbl (Nat × Nat) := {}
  /-- Sluices by a number of the SluiceId -/
  slu : Tbl Slu := {}
  /-- the cross-half links have trained again during West's bring-up (R470) -/
  retrained : Bool := false
deriving DecidableEq, Repr

/-- One bank of a pseudo-race in a SID (R150 to R159, R185 to R197). -/
structure Bank where
  row : Option Nat := none
  /-- mc count of the ACT -/
  actAt : Nat := 0
  /-- mc count of the last column command to the row -/
  colAt : Nat := 0
  /-- a column command to the row has issued -/
  used : Bool := false
  /-- what the row was opened for, until its column command issues (R158): a queue entry, 0 for the fill -/
  opener : Option Nat := none
  /-- column commands counted toward HIT_CAP (R157) -/
  hits : Nat := 0
  ppc : Nat := 0
  raa : Nat := 0
  rfmReq : Bool := false
  /-- a REFpb or RFM of the bank is urgent (R188) -/
  urgRef : Bool := false
  urgRfm : Bool := false
  /-- hot-row tracker: row and count, in entry order (R195) -/
  trk : List (Nat × Nat) := []
deriving DecidableEq, Repr

/-- Commands of a race (R149). -/
inductive Cmd where
  | act | rd | wr | pre | refpb | refab | rfm | mrw | mrr | sre | srx | pde | pdx
deriving DecidableEq, Repr

/-- An issued command, kept while a timing rule can look back at it. -/
structure CmdRec where
  at_ : Nat
  cmd : Cmd
  pr : Nat
  sid : Nat
  bg : Nat
  bank : Nat
  /-- first mc of its data interval at the die (R153); 0 for a command without data -/
  ds : Nat := 0
deriving DecidableEq, Repr

/-- Who a read belongs to (R155, R287, R296). -/
inductive RdKind where
  | host | scrub | scrubPrio | hoist | fau | probe
deriving DecidableEq, Repr

/-- A read-queue entry: one cell (R155). -/
structure RqEnt where
  qid : Nat
  kind : RdKind
  /-- host request number and cell index; for other kinds the unit's own number -/
  id : Nat
  k : Nat
  addr : Nat
  cls : Nat
  since : Nat
  /-- a scrub cell's second read (R292) -/
  retry : Bool := false
  /-- a store to the cell has entered the race since (R286) -/
  stale : Bool := false
deriving DecidableEq, Repr

/-- Who a write-queue entry belongs to: a host store, or a background unit that has written it (R49, R238). -/
inductive WrOwner where
  | host | quern | hoist | tally
deriving DecidableEq, Repr

/-- A write-queue entry: one full burst (R155, R156). -/
structure WqEnt where
  qid : Nat
  addr : Nat
  data : Cell
  psn : Bool
  epoch : Nat
  cls : Nat
  since : Nat
  own : WrOwner := .host
  /-- host stores that the entry holds: number and stream (R124, R126) -/
  stores : List (Nat × Nat) := []
deriving DecidableEq, Repr

/-- A far-atomic unit entry (R169): an AMO or a merge. -/
structure FauEnt where
  qid : Nat
  id : Nat
  k : Nat
  addr : Nat
  amo : Bool
  data : Cell
  mask : BitVec 64
  stream : Nat := 0
  cls : Nat
  since : Nat
  /-- mc count of its RD; none before it and when it reads a write-queue entry -/
  rdAt : Option Nat := none
  /-- decoded outcome of its read: code (0 CLEAN, 1 CE, 2 POISONED, 3 UE, 4 MISS), corrected word, symbols corrected -/
  back : Option (Nat × Codeword × List Nat) := none
  /-- first mc in which it may execute: entries of a cell execute one per mc (R169) -/
  after : Nat := 0
deriving DecidableEq, Repr

/-- A read burst under way (R174): its expected strobe. -/
structure Flight where
  pr : Nat
  at_ : Nat
  mrr : Bool
  qid : Nat
  kind : RdKind
  id : Nat
  k : Nat
  addr : Nat
  /-- the codeword the burst carries, as the die held it at the RD -/
  word : Codeword := 0
  retry : Bool := false
  /-- a store to the cell has entered the race since the read was selected (R286) -/
  stale : Bool := false
  /-- a read probe: its delays' distance from the centres, in steps (R269) -/
  off : Int := 0
deriving DecidableEq, Repr

/-- A refresh slot of a pseudo-race (R181, R182): slot number, and what it serves: (RFM?, SID, bank index), urgent mark. -/
structure RefSlot where
  slot : Nat
  rfm : Bool
  sid : Nat
  bank : Nat
  urgent : Bool
  /-- issued, moved forward or postponed: the slot is spent -/
  spent : Bool := false
deriving DecidableEq, Repr

/-- The plan of a pseudo-race for one Turn (R182, R183, R208): refresh slots, entries taken by class kind
(RFSH, OPEN, C3, C2, C1), TRAIN entries claimed (true: by Fantail). -/
structure Plan where
  slots : List RefSlot := []
  taken : List Nat := []
  claims : List (Nat × Bool) := []
deriving DecidableEq, Repr

/-- A running fill (R141): region, Turn-mc count of its opening, bursts issued by A and B. -/
structure Fill where
  v : Nat
  at_ : Nat
  doneA : Nat := 0
  doneB : Nat := 0
deriving DecidableEq, Repr

/-- The Fantail side of a race (R260 to R279), beyond its registers. -/
structure Train where
  /-- failing counts by position: ((pr × 4 + sid) × 2 + dir) × 48 + position -/
  failing : Tbl Nat := {}
  /-- centres waiting for their instant (R270): same key, new value -/
  pendC : Tbl Nat := {}
  /-- next probe of the round of A and of B: sid × 6 + probe; 24 (or 6 × nsid): round done -/
  nextA : Nat := 0
  nextB : Nat := 0
  /-- results awaited of probe pairs (R270): (pr × 4 + sid) × 2 + direction -/
  await : List Nat := []
  /-- Turn (age) of the latest centre decision, by pr × 4 + sid -/
  pendT : Tbl Nat := {}
  /-- Turn (age) at which the round began, whether it is done, whether its lag has been counted -/
  roundAt : Nat := 0
  roundDone : Bool := false
  lagged : Bool := false
  /-- Turn (age) at which the full training in progress began -/
  trainAt : Option Nat := none
  /-- runtime retraining: the half's engine is on this race, since this Turn (age); its step 2 is done; soft entries whose copy meets a
  missing burst (R300) -/
  retrain : Bool := false
  retrainAt : Nat := 0
  repaired : Bool := false
  copyMiss : List Nat := []
  /-- errors of the copy's read bursts, by cell address: wrong symbols and the bits that flip (R283, R300) -/
  copyErr : List (Nat × List (Nat × Byte)) := []
  /-- a position has failed both probes of the resume check (R278) -/
  checkFail : Bool := false
  /-- next read column and next write column, less 8, of the probe row of 4 × pr + sid (R268, R269) -/
  rdCol : Tbl Nat := {}
  wrCol : Tbl Nat := {}
  /-- what column c of that probe row holds, by 16 × (4 × pr + sid) + c: the pattern, and the distance of the write delays from their
  centres when it was written -/
  cols : Tbl (Codeword × Int) := {}
  /-- settings in force before the retraining (R276): register words by offset -/
  saved : Tbl Word := {}
  /-- service waits for the end of a retraining or resume check -/
  hold : Bool := false
  /-- lanes dead and not repaired: 64 × pr + physical position, 0-39 data, 40 DVS, 41 the timing spare -/
  dead : List Nat := []
  /-- the SID in which a lane was found dead, where one was (R271, R388) -/
  deadSid : Tbl Nat := {}
  savedDead : List Nat := []
deriving DecidableEq, Repr

/-- A row command that the command-bus Sluice grants. -/
structure RowReq where
  cmd : Cmd
  pr : Nat := 0
  sid : Nat := 0
  bg : Nat := 0
  bank : Nat := 0
  row : Nat := 0
deriving DecidableEq, Repr

/-- What a column bus is granted to: a queue entry, the fill, a Fantail probe, the mode-register port (R225). -/
inductive ColPick where
  | ent (qid : Nat) | fill | probe | mr
deriving DecidableEq, Repr

/-- A race (R148 to R204), beyond its registers. -/
structure Race where
  banks : Tbl Bank := {}
  hist : List CmdRec := []
  rq : List RqEnt := []
  wq : List WqEnt := []
  fau : List FauEnt := []
  flights : List Flight := []
  /-- write-backs of Quern that wait for a write-queue entry: cell address, data, poison, epoch (R286, R292) -/
  backs : List (Nat × Cell × Bool × Nat) := []
  nextQ : Nat := 1
  wmode : Bool := false
  /-- in power-down since this mc count -/
  pd : Option Nat := none
  /-- mc count since when the conditions of R172 have held -/
  idleSince : Option Nat := none
  fill : Option Fill := none
  fillQ : List Nat := []
  /-- queue levels latched at mc 0 (R35) -/
  rqLvl : Nat := 0
  wqLvl : Nat := 0
  /-- ACC[p,s] and owed REFpb by 4 × p + s (R179), rotation place of the next due (R180) -/
  acc : Tbl Nat := {}
  owed : Tbl (List Nat) := {}
  rot : Tbl Nat := {}
  /-- rate of a SID: 0 ×1, 1 ×2, 2 ×4 (R176); samples counted toward a downward step (R177); SIDs at ×4 under R178 -/
  rate : Tbl Nat := {}
  hyst : Tbl Nat := {}
  fallback : Tbl Bool := {}
  /-- rates decided for the next boundary (R177), with the SIDs at x4 under R178 then -/
  rateN : Option (Tbl Nat × Tbl Bool) := none
  /-- RFM requests in order of crossing: pseudo-race, bank number, mc count of the crossing (R183, R194) -/
  rfmQ : List (Nat × Nat × Nat) := []
  /-- the row that the last RFM command named to its die; none where it named none (R196) -/
  rfmName : Option Nat := none
  /-- SID that the planner takes first (R180) -/
  sidTurn : Nat := 0
  /-- refresh has started (R267) -/
  refOn : Bool := false
  planA : Plan := {}
  planB : Plan := {}
  nextA : Option Plan := none
  nextB : Option Plan := none
    /-- Turn (age) plus 1 that holds the target slot of the last revocation; 0 before any (R229) -/
  revA : Nat := 0
  revB : Nat := 0
  /-- urgent refreshes arisen in this Turn, by pseudo-race -/
  urgA : Nat := 0
  urgB : Nat := 0
  /-- banks (numbers) whose planned REFpb of the next Turn has issued before its boundary -/
  early : List Nat := []
  /-- slots taken by revocation (R228): pseudo-race, and 128 × Turn (age) + slot -/
  revSlots : List (Nat × Nat) := []
  /-- SIDs in self-refresh, and handovers in progress with the mc count at which they began (R199) -/
  sref : Tbl Bool := {}
  hand : Tbl Nat := {}
  /-- pseudo-races of a SID, 4 × p + s, that have had the REFab of the handover in progress (R199) -/
  handAb : List Nat := []
  /-- SIDs that must take REFab before any other command (R203), by 4 × p + s -/
  mustRefab : List Nat := []
  /-- next-table latch (R212): table words 0-7 -/
  latch : Option (List Word) := none
  /-- the active table as it stood before the direct writes of the latest mc that had one, and that mc (R217) -/
  actPrev : Option (Nat × List Word) := none
  /-- the active table as it stood at mc 48 of this Turn, where a direct write has changed it since (R213, R219) -/
  act48 : Option (List Word) := none
  /-- table that COMMIT_SLOTS last admitted: number of its C1 entries (R244) -/
  admC1 : Nat := 0
  /-- a COMMIT_SLOTS admitted the latched table (R236 ADMIT) -/
  admPend : Bool := false
  /-- the same, for the table latched at the last sample -/
  admLatch : Bool := false
  /-- column grants that stand, by pseudo-race: what is granted and the mc of issue (R224) -/
  grantA : List (ColPick × Nat) := []
  grantB : List (ColPick × Nat) := []
  /-- row grants that stand -/
  grantR : List (RowReq × Nat) := []
  /-- successive missing bursts and timeouts by pseudo-race (R174) -/
  missA : Nat := 0
  missB : Nat := 0
  tmoA : Bool := false
  tmoB : Bool := false
  /-- Turn (age) at which a mode-register command was given (R173) -/
  mrAt : Option Nat := none
  mrIssued : Bool := false
  /-- isolation: Turn (age) of the decision, and the steps of R304 that have been taken -/
  isoAt : Option Nat := none
  isoOff : Bool := false
  isoReads : Bool := false
  isoDrop : Bool := false
  isoDone : Bool := false
  /-- the race issues commands: power domain on, out of reset, not isolated -/
  run : Bool := false
  tr : Train := {}
  /-- a settle of a race reset, or the reset itself, is under way -/
  inReset : Bool := false
  /-- Spindle pads latched after the last SRE in the safe state (R385) -/
  spinPads : Bool := false
  /-- addresses whose row of the write map the race's fills stopped on (R145) -/
  filling : List Nat := []
  /-- thermal step and held slots in force (R369, R370) -/
  step : Nat := 0
deriving DecidableEq, Repr

/-- Fantail, per half (R267, R274). -/
structure Fan where
  /-- runtime retrainings requested, in order: race numbers -/
  queue : List Nat := []
  running : Option Nat := none
deriving DecidableEq, Repr

/-- A row-tracker entry of Quern (R295): the row's cell address with column and byte zero, count, window mark, had a UE. -/
structure RowEnt where
  row : Nat
  cnt : Nat
  raised : Nat
  ue : Bool
  /-- raised in this window -/
  fresh : Bool
deriving DecidableEq, Repr

/-- Quern scrub and written map, per half (R137 to R147, R287 to R296). -/
structure Qrn where
  /-- scrub piece in progress: cells still to be handled, and those of them that have not been read yet -/
  piece : List Nat := []
  unread : List Nat := []
  /-- Turn (age) at which the last piece was due -/
  lastPiece : Nat := 0
  /-- a piece is due and waits for its predecessor (R291) -/
  waits : Bool := false
  /-- cells queued for the scrubber (R287) -/
  prio : List Nat := []
  /-- cells whose second read has not found room (R292), and whether a demand read queued them -/
  again : List (Nat × Bool) := []
  /-- corrected symbols per pin in the window: (race × 2 + pr) × 64 + pin -/
  pins : Tbl Nat := {}
  /-- Turn (age) of the last window end -/
  winAt : Option Nat := none
  /-- pins that reached PIN_THR in this window -/
  pinHit : List Nat := []
  rows : List RowEnt := []
  /-- serial of row-tracker raises (replacement order) -/
  tick : Nat := 0
  /-- a clear of the map is running -/
  clearing : Bool := false
deriving DecidableEq, Repr

/-- DRAM content (R280): stored codewords by cell number (byte address / 64). Cells of a filled block that nothing has
written since hold the zero codeword of the fill's epoch; other unlisted cells are undefined (Config.dramPowerOn). -/
structure Dram where
  cells : Tbl Codeword := {}
  /-- blocks filled with zeros since their content was lost: block number (32 × v + race) and the fill's epoch -/
  zeroed : Tbl Nat := {}
  /-- written-map bits that are 1, by block number (R137, R138) -/
  wmap : Tbl Bool := {}
  /-- serial of undefined cell contents -/
  era : Nat := 0
deriving DecidableEq, Repr

/-- Dresser (R297 to R306), beyond its registers. -/
structure Drs where
  /-- a burn in progress: fuse index and the entry -/
  burn : Option (Nat × Word) := none
  /-- spares used, by bank number of the part, for the soft table -/
  autoQ : List Nat := []
deriving DecidableEq, Repr

/-- States of a chunk (R334). -/
inductive Chunk where
  | pending | loading | done
deriving DecidableEq, Repr

/-- A stored page on a drive (R325): cells not poisoned are data, with the metadata. -/
structure PageRec where
  pmask : Nat
  epoch : Nat
  w0 : Bool
  w1 : Bool
  gen : Nat
  cells : Tbl Cell
deriving DecidableEq, Repr

/-- An NVMe command outstanding at a drive (R337). -/
structure DrvCmd where
  cid : Nat
  port : Nat
  /-- 0 write of pages, 1 restore read of a chunk, 2 demand-fill read of a chunk, 3 Flush, 4 Get Log Page of firmware -/
  kind : Nat
  /-- chunk region -/
  v : Nat
  /-- first logical block (R322) -/
  lba : Nat := 0
  /-- page numbers with what is written (kind 0) -/
  pages : List (Nat × PageRec) := []
  /-- relocation work only (R338) -/
  reloc : Bool := false
  /-- oldest dirty epoch of its chunk at the snapshot (R312) -/
  epoch : Nat := 0
  /-- Turn (age) of its submission; of its grant or reissue -/
  since : Nat := 0
  /-- it waits for the grant of its granary port (R46, R235) -/
  sub : Bool := false
deriving DecidableEq, Repr

/-- A page on its way to a drive (R315): flags of its halves as snapshotted, cells still to be read, cells whose read is under way, and
what the others gave. -/
structure HPage where
  page : Nat
  w0 : Bool
  w1 : Bool
  todo : List Nat
  await : List Nat := []
  pmask : Nat := 0
  cells : Tbl Cell := {}
deriving DecidableEq, Repr

/-- A Write command in the staging SRAM, whose pages are being read (R46, R314, R315): its chunk and port, relocation work, and the number
of the first request that was accepted after the snapshot. -/
structure HWrite where
  wid : Nat
  port : Nat
  v : Nat
  reloc : Bool
  /-- first logical block, and E at the snapshot (R322, R325) -/
  lba : Nat
  at_ : Nat
  /-- oldest dirty epoch of its chunk at the snapshot (R312) -/
  epoch : Nat := 0
  before : Nat
  pages : List HPage
deriving DecidableEq, Repr

/-- A chunk whose reads have completed, on its way from staging to the DRAM (R335): page halves (2 × page + half) still to be written,
cells written of the first, whether the chunk could be read, whether a half has been written as poison, and whether by demand fill. -/
structure HRestore where
  left : List Nat
  at_ : Nat := 0
  good : Bool
  poison : Bool := false
  demand : Bool
  /-- cells whose write the stall watchdog has retired, to be written again (R49): address, data, poison -/
  redo : List (Nat × Cell × Bool) := []
  /-- the chunk has been DONE before, and counted -/
  again : Bool := false
deriving DecidableEq, Repr

/-- A granary drive as Hoist knows it. -/
structure Drive where
  up : Bool := false
  lost : Bool := false
  /-- it fails R321 and is not attached -/
  unfit : Bool := false
  lbas : Nat := 0
  /-- header copies A and B, LBAs 0 and 1 (R322, R324): the header that a copy holds; none where it is not valid -/
  hdrA : Option Hdr := none
  hdrB : Option Hdr := none
  /-- the block map and heat map of its last seal, or as read at attach -/
  bmap : List Nat := []
  heat : List (Nat × Nat) := []
  /-- pages that this model has written to it, by logical block; whether the other blocks of its image are what it showed at attach -/
  pages : Tbl PageRec := {}
  old : Bool := false
  /-- last sixteen measured window rates and the rates relied on (R318), units of 125 MB/s -/
  wr16 : List Nat := []
  rd16 : List Nat := []
  wr : Nat := 0
  rd : Nat := 0
  /-- Turn (age) since when 32 or more Write commands, or Read commands of a restore, have been queued, and of the last window (R318) -/
  wrBusy : Option Nat := none
  rdBusy : Option Nat := none
  winAt : Option Nat := none
  /-- age of the last controller reset (R337) -/
  ctrlReset : Option Nat := none
deriving DecidableEq, Repr

/-- States of Hoist (R327). -/
inductive HState where
  | off | attach | load | serve | steady | alert | drain | flush | sealed | failed
deriving DecidableEq, Repr

/-- Hoist of a half (R307 to R342). -/
structure Hst where
  st : HState := .off
  /-- the state to return to when Alert ends -/
  back : HState := .steady
  epoch : Nat := 0
  image : Nat := 0
  reason : Nat := 0
  /-- the image is encrypted -/
  encOn : Bool := false
  /-- dirty map: the pages whose bit is set, by page number (byte address / 4096) -/
  dirty : Tbl Bool := {}
  /-- oldest dirty epoch of a chunk, by region (R312) -/
  oldest : Tbl Nat := {}
  /-- pages in flight: issued and not complete (R311) -/
  inflight : List Nat := []
  /-- fills granted and not complete: block numbers (R320) -/
  granted : List Nat := []
  /-- fills asked for and not yet granted: block numbers in the order of asking (R320) -/
  asks : List Nat := []
  /-- chunks not DONE, by region -/
  chunks : Tbl Chunk := {}
  /-- chunks of the hot set (R334) -/
  hot : List Nat := []
  /-- unrestored chunks that hold an accepted store (R311, R336) -/
  held : List Nat := []
  /-- chunks whose reads went to the demand-fill queue (R336) -/
  demanded : List Nat := []
  lostChunks : Nat := 0
  totalChunks : Nat := 0
  ceil : Nat := 0
  emeas : Nat := 0
  /-- entries handed out for stores: this Turn and the next (R320) -/
  sNow : Nat := 0
  sNext : Nat := 0
  cmds : List DrvCmd := []
  nextCid : Nat := 1
  /-- write commands being read into staging, oldest first, and the number of the next -/
  stage : List HWrite := []
  nextWid : Nat := 1
  /-- chunks being written to the DRAM, by region -/
  jobs : Tbl HRestore := {}
  /-- a resync scan (R313): page halves (2 × page + half) still to be read, cells read of the first, cell addresses whose read is under way,
  the tags that it looks for -/
  scan : List Nat := []
  scanAt : Nat := 0
  scanning : List Nat := []
  scanTags : List Nat := []
  /-- lost drives in order (FAILED0-2): index within the half -/
  lostOrder : List Nat := []
  /-- relocation work (R314, R338): chunk ↦ its pages already handed to a drive, 0 to 256, until all are copied -/
  exposed : Tbl Nat := {}
  /-- the epoch in which a relocated chunk was marked dirty (R314) -/
  relocEp : Tbl Nat := {}
  /-- chunks whose data no live drive holds since the loss of their drive, until they have been copied (R307, R331, R338) -/
  bare : Tbl Bool := {}
  /-- the heat map of the sealed image is to be loaded when the drives are up (R328, R406) -/
  heatDue : Bool := false
  /-- chunks with a failed restore read (R335) -/
  badReads : List Nat := []
  /-- Turn (age) of the last epoch advance -/
  advAt : Option Nat := none
  /-- Turn (age) at which the present attach began -/
  attachAt : Nat := 0
  /-- the image has been judged since the attach began -/
  judged : Bool := false
  /-- chunks that no relocation holds (R338) -/
  unplaced : List Nat := []
  /-- slot of a relocated chunk: region ↦ 2^40 × drive + slot -/
  placed : Tbl Nat := {}
  relocBase : Nat := 0
  resync : Bool := false
  ceilRaised : Bool := false
  /-- Turn (age) since when headroom has been zero -/
  zeroSince : Option Nat := none
  pressRaised : Bool := false
  /-- an epoch advance that is held (R312) -/
  advanceHeld : Bool := false
  /-- VOID[r] (R339) and header fields -/
  void : Tbl Nat := {}
  gen : Nat := 0
  seq : Nat := 0
  wkey : BitVec 576 := 0
  /-- header reads OPEN on every live drive -/
  headerOpen : Bool := false
  /-- the seal phase of a flush has begun: no entry for stores (R320) -/
  sealing : Bool := false
  /-- a header is due at the next Turn boundary, for an isolation (R339) -/
  hdrDue : Bool := false
  /-- races back in service whose stores wait for the next epoch advance (R339) -/
  returned : List Nat := []
  serveComplete : Bool := false
  /-- drives of the half by index 0-3 -/
  drives : Tbl Drive := {}
  /-- passage of R455: the map and the DRAM are kept -/
  keptImage : Bool := false
deriving DecidableEq, Repr

/-- Power states (R353), coded as GOV_PWR_CTRL.REQ. -/
inductive PState where
  | run | idle | furl | fullFurl | off
deriving DecidableEq, Repr

/-- Governor and AON (R343 to R377), beyond the registers. -/
structure Gov where
  ps : PState := .run
  alert : Bool := false
  /-- Alert decided in this Turn for the next boundary (R346, R347) -/
  alertNext : Option Bool := none
  drain : Bool := false
  drainNext : Bool := false
  /-- VDD below the warning level since the last sample; VDD now below 0.720 V; Turn (age, mc) since VDD and MAIN_FAIL clear -/
  dip : Bool := false
  belowWarn : Bool := false
  belowRel : Bool := false
  vddOkSince : Nat := 0
  mfLatch : Bool := false
  mfLevel : Bool := false
  mfOkSince : Nat := 0
  /-- MAIN_FAIL at the last sample -/
  mfSample : Bool := false
  dipSample : Bool := false
  /-- the last sample found MAIN_FAIL and VDD clear for 20 µs (R347) -/
  okSample : Bool := false
  /-- samples with MAIN_FAIL latched in this episode, Turn (age) of its start, MAIN_FAIL seen in it -/
  mfCount : Nat := 0
  epStart : Nat := 0
  epMains : Bool := false
  /-- MAIN_FAIL was seen in the episode that ends at this boundary (R347) -/
  endMains : Bool := false
  /-- the last WATCH sample of this low-power state found MAIN_FAIL (R363) -/
  watchMf : Bool := false
  /-- level comparators of VDDQ_S, VDDQ_H, VAUX (R343): below -/
  lowS : Bool := false
  lowH : Bool := false
  lowX : Bool := false
  minVdd : Nat := 0xFF
  aonB : Bool := false
  /-- VDD fell below the retention level (R364) -/
  retLost : Bool := false
  /-- temperatures latched at mc 0, by sensor -/
  temps : List TempRead := []
  /-- invalid readings in succession by sensor; last temperature contribution to the steps -/
  inval : Tbl Nat := {}
  lastT : Tbl Int := {}
  /-- steps: die step by group, base step, current step; samples counted toward a fall -/
  dstep : Tbl Nat := {}
  bstep : Nat := 0
  istep : Nat := 0
  dfall : Tbl Nat := {}
  bfall : Nat := 0
  iLow : Nat := 0
  /-- decided for the next boundary: die steps, base step, current step, rates -/
  dstepN : Option (Tbl Nat) := none
  bstepN : Option Nat := none
  istepN : Option Nat := none
  /-- backup energy: the VBK samples (Turn (age), mV) of the last 65,536 Turns that no later one undercuts, oldest first (R351); SET_BACKUP
  value with its age -/
  vbkQ : List (Nat × Nat) := []
  setBk : Option (Nat × Nat) := none
  testPre : Nat := 0
  testDone : Bool := false
  bkTest : Bool := false
  /-- EMEAS is held at its value before a test until VBK has recovered -/
  bkHold : Bool := false
  /-- Turn (age) of the last test end, and of the next one -/
  testAt : Option Nat := none
  /-- an entry in progress (R355): target state, Turn (age) of its request, auto-idle, after a drain, requested by a core -/
  entry : Option PState := none
  entryAt : Nat := 0
  entryAuto : Bool := false
  entryDrain : Bool := false
  entryCore : Option Nat := none
  /-- domains that have answered READY (R355) -/
  ready : List Nat := []
  allReady : Bool := false
  /-- admission closed for an entry (R355) -/
  closed : Bool := false
  /-- Turns without a landing (R355) -/
  idleTurns : Nat := 0
  pads : Bool := false
  /-- races and modules resume once the pads are released (R361) -/
  resume : Bool := false
  /-- this FURL followed a drain (R350) -/
  drainFurl : Bool := false
  /-- a wake latched during an entry (R359), or a wake under way: source, step, attempt -/
  wakeLatch : Option Nat := none
  wake : Option (Nat × Nat × Nat) := none
  /-- 200 us wait after a failed first attempt -/
  wakeWait : Bool := false
  wakeFailPend : Bool := false
  /-- SIDs in self-refresh kept by the present low-power state; SIDs that lost their DRAM -/
  kept : Nat := 0
  keptLost : Nat := 0
  /-- rail targets acknowledged, in mV: VDD, VDDQ_S, VDDQ_H -/
  vdd : Nat := 750
  vddqS : Nat := 400
  vddqH : Nat := 450
  /-- a rail of the entry under way had no acknowledgement (R367) -/
  avsFail : Bool := false
  /-- SRR lines by die (R200) -/
  srr : Tbl Nat := {}
  /-- WATCH samples counted toward a downward rate step, by die -/
  watchHyst : Tbl Nat := {}
  /-- VBK_SENSE at the last sample, mV; age of the last current sample -/
  vbkNow : Nat := 0
  curAt : Option Nat := none
  /-- the decisions of the Turn before, due at this boundary: Alert in or out, the drain signal (R346 to R348) -/
  alertDue : Option Bool := none
  drainDue : Bool := false
  /-- Turn (age) at which the present low-power state was entered, a failed wake attempt ended, a capacitance test began -/
  sleepAt : Nat := 0
  /-- Turn (age) of the last WATCH sample -/
  watchAt : Nat := 0
  failAt : Nat := 0
  testFrom : Nat := 0
deriving DecidableEq, Repr

/-- Brake (R378 to R393), beyond its registers. -/
structure Brk where
  safe : Bool := false
  /-- broken pairs (R380), by 64 × source + instance; pairs with equal rails now -/
  broken : Tbl Bool := {}
  equal : Tbl Bool := {}
  /-- injection in progress: source, instance, mode, QUIET -/
  inj : Option (Nat × Nat × Nat × Bool) := none
  /-- the true cause of a pair that an injection holds (R392) -/
  under : Bool := false
  /-- causes held active by an injection or raised and lasting, by 64 × source + instance -/
  cause : Tbl Bool := {}
  /-- sequence number of the next event -/
  seq : Nat := 0
  /-- mc count of the entry into the safe state -/
  safeAt : Nat := 0
  /-- sources raised in the mc `justAt` (R384): a clear in that mc leaves their PEND bits set -/
  just : List Nat := []
  justAt : Nat := 0
  /-- races to be isolated and modules to go DOWN at the next boundary (R382); races whose boundary has come -/
  isoNext : List Nat := []
  downNext : List Nat := []
  isoDue : List Nat := []
  /-- severity that a source had before the latest write of it, and the mc count of that write (R383, R384) -/
  sevOld : Tbl (Nat × Nat) := {}
  /-- key of the pair that the last BRK_WIRE raise names (R380, R381) -/
  wirePair : Nat := 0
deriving DecidableEq, Repr

/-- Tally of a half (R394 to R408), beyond its registers. -/
structure Tly where
  /-- counters by 256 × bank + index -/
  cnt : Tbl Nat := {}
  /-- counters and heat counts as at mc 255 before a snapshot's boundary, until the snapshot is taken (R398, R405) -/
  latch : Option (Tbl Nat × Tbl Nat) := none
  /-- counters of the last snapshot, and its Turn -/
  snap : Tbl Nat := {}
  snapTurn : Nat := 0
  /-- dump: 0 none, 1 header to write, 2 counters, 3 final header; cells of the stage that have been written -/
  stage : Nat := 0
  put : Nat := 0
  recSeq : Nat := 0
  missedSince : Nat := 0
  /-- ring in force (R402): the register as of the last snapshot -/
  ring : Word := 0
  /-- bandwidth counts of the window, cells: modules and groups, reads and stores -/
  bwModR : Tbl Nat := {}
  bwModW : Tbl Nat := {}
  bwGrpR : Tbl Nat := {}
  bwGrpW : Tbl Nat := {}
  /-- a full window of the present length has not yet begun -/
  bwPart : Bool := false
  /-- the four counts of a window that has ended, until they are loaded (R403) -/
  bwLatch : Option (List (Tbl Nat)) := none
  /-- sampler: requests counted toward the trigger, trigger pending with its skid, request being captured -/
  sampCt : Nat := 0
  sampTrig : Option Nat := none
  sampReq : Option Nat := none
  /-- its landing: mc count and Turn counter -/
  sampLand : Nat := 0
  sampTurn : Nat := 0
  /-- heat: levels by region, counts of the interval -/
  heat : Tbl Nat := {}
  heatN : Tbl Nat := {}
  /-- low read latch: counter number, high half, age -/
  lowLatch : Option (Nat × Nat × Nat) := none
deriving DecidableEq, Repr

/-- A firmware image header's fields that run (R412, R427). -/
structure Image where
  minor : Nat := 0
  build : Nat := 0
  svn : Nat := 0
  loaded : Bool := false
  digest : BitVec 384 := 0
deriving DecidableEq, Repr

/-- A command being served by a Miller core (R414): mailbox (half, box), and its opcode. -/
structure Serve where
  half : Nat
  box : Nat
  opc : Nat
deriving DecidableEq, Repr

/-- A Miller core and its mailboxes' queue (R409 to R428). -/
structure Core where
  up : Bool := false
  /-- doorbells rung and not yet served, in order: half and box -/
  queue : List (Nat × Nat) := []
  /-- the short command in service, or the command being started -/
  cur : Option Serve := none
  /-- parts of the command in service that are done: the two bits of TEST_ACCESS -/
  parts : Nat := 0
  /-- the background L command -/
  bg : Option Serve := none
  img : Image := {}
  /-- staged image bytes held, by offset (R427) -/
  stage : Tbl Byte := {}
  /-- what the background command has chosen: the fuse index of FUSE_REPAIR, the tests of SELFTEST still to run -/
  bgAux : Nat := 0
deriving DecidableEq, Repr

/-- Miller common state. -/
structure Mil where
  east : Core := {}
  west : Core := {}
  /-- I3C read pointer (R411) -/
  ptr : Nat := 0
  /-- doorbells so far (R414); by 8 × half + box, the place of the last one in their order and its Turn (age) -/
  rings : Nat := 0
  rung : Tbl (Nat × Nat) := {}
  /-- SOFT_RESET reply Turn (age): the reset begins 64 Turns later (R425) -/
  softAt : Option Nat := none
  /-- COMMIT_SLOTS in progress: races named, largest bound in ns -/
  commit : Option (Nat × Nat) := none
  /-- its outcome: NOSWAP, and the Turn counter at the boundary of the swap -/
  swapped : Option (Nat × Nat) := none
deriving DecidableEq, Repr

/-- Millmark (R429 to R443), beyond its registers and fuses. -/
structure Mmk where
  /-- 0 closed, 1 by state, 2 challenge-response, 3 passphrase -/
  unlock : Nat := 0
  nonce : Option (BitVec 384) := none
  /-- Turn (age) at which the nonce was issued -/
  nonceAt : Nat := 0
  respR : Option (BitVec 384) := none
  cand : Option (List Byte) := none
  fails : Nat := 0
  /-- outputs drawn from the random generator -/
  draws : Nat := 0
  certOk : Bool := true
  rngOk : Bool := false
  stBusy : Bool := false
  stFail : Nat := 0
  cryptoBad : Bool := false
deriving DecidableEq, Repr

/-- Test controller (R444 to R453), beyond its registers. -/
structure Tst where
  /-- selected TAP instruction code (R449) -/
  ir : Nat := 0xFF
  dsel : BitVec 16 := 0
  acc1149 : Bool := false
  acc1838 : Bool := false
  inmode : Bool := false
  /-- last value shifted out of the selected data register -/
  tdo : BitVec 65536 := 0
  /-- boundary register's update stage, TSV register's update stage, and whether they drive the pads -/
  bnd : BitVec 1248 := 0
  tsv : BitVec 984 := 0
  drive : Bool := false
  highz : Bool := false
deriving DecidableEq, Repr

/-- I3C targets (R411, R436, R464 to R466, R480). -/
structure I3c where
  /-- dynamic addresses of the management and attestation targets -/
  mgmtAddr : Option (BitVec 7) := none
  attAddr : Option (BitVec 7) := none
  eid : Byte := 0
  /-- IBIs enabled by the controller, by target -/
  ibiMgmt : Bool := false
  ibiAtt : Bool := false
  /-- an HDR mode was entered: the targets ignore the bus -/
  hdr : Bool := false
  /-- SLOT has been sampled since AON powered up -/
  slotOk : Bool := false
  /-- SPDM: algorithms negotiated; last response -/
  spdmVer : Bool := false
  spdmNeg : Bool := false
  rsp : List Byte := []
deriving DecidableEq, Repr

/-- The resets that can be pending (R454, R456), deepest first in their order. -/
inductive ResetKind where
  | powerOn | restartDrain | soft | warm | half | race (mask : Nat)
deriving DecidableEq, Repr

/-- Resets and bring-up (R454 to R471). -/
structure Boot where
  /-- reset requested and waiting (for Alert or an entry to end, or to settle) -/
  pend : Option ResetKind := none
  /-- a deeper request made during a settle -/
  after : Option ResetKind := none
  /-- settle in progress since this Turn (age); settled -/
  settle : Option Nat := none
  settled : Bool := false
  /-- a reset is asserted and waits for its release -/
  inReset : Option ResetKind := some .powerOn
  /-- a BIST reset (R444), entry to test mode (R451) -/
  bist : Bool := false
  /-- the whole device was released at this Turn (age), East's core first; what is not yet released waits for East (R24, R458): whether
  races keep their training -/
  rest : Option (Nat × Bool) := none
  readyE : Bool := false
  readyW : Bool := false
  westUp : Bool := false
  /-- races waiting for full training, in order -/
  trainQ : List Nat := []
  /-- admission closed by a settle: bit 0 East, bit 1 West -/
  closed : Nat := 0
  /-- AON lost: the next power-up is a power-on reset -/
  aonDown : Bool := false
deriving DecidableEq, Repr

/-- What the distribution window hands a module for the next Turn (R246). -/
structure Pool where
  slice : Tbl Nat := {}
  hop : Nat := 0
  pondE : Nat := 0
  pondW : Nat := 0
  flumeE : Nat := 0
  flumeW : Nat := 0
deriving DecidableEq, Repr

/-- Weir (R237 to R259), beyond its registers. -/
structure Weir where
  /-- levels of R245 by 4 × group + class -/
  level : Tbl Nat := {}
  cool : Nat := 0
  /-- budgets in force and computed for the next Turn, by 4 × group + class (group 64: BG) -/
  budget : Tbl Nat := {}
  budgetN : Option (Tbl Nat) := none
  hoist1 : Nat := 0
  /-- cells of BG's budget and of Hoist's class-1 budget left in this Turn (R238, R244, R316) -/
  bgLeft : Nat := 0
  hLeft : Nat := 0
  f1 : Nat := 1000
  f1N : Option Nat := none
  heldN : Bool := false
  capN : Bool := false
  alertN : Bool := false
  drainN : Bool := false
  isolN : Bool := false
  hotN : Bool := false
  /-- modules' next pools, by module -/
  poolN : Option (Tbl Pool) := none
  /-- modules' pools as last handed out (R38) -/
  pool : Tbl Pool := {}
  /-- store entries of each half handed out for the next Turn, the class-0 reserve included (R320) -/
  sE : Nat := 0
  sW : Nat := 0
  /-- entries free at mc 0 outside the reserves: Hopper, Millpond, Flume, each East then West (R246) -/
  free0 : List Nat := []
  /-- levels decided for the next Turn, and the cool count (R245) -/
  levelN : Option (Tbl Nat × Nat) := none
  hoist1N : Nat := 0
  /-- FLOOR as the distribution of the pools in force used it, and as the latest distribution did (R246, R259) -/
  floor : Nat := 4
  floorN : Nat := 4
deriving DecidableEq, Repr

/-- An In-Band Interrupt sent (R382, R412, R376): target, source code, instance, severity; mailbox and wake use 0x100 and up. -/
structure Ibi where
  target : Nat
  src : Nat
  inst : Nat
  sev : Nat
deriving DecidableEq, Repr

/-- What leaves the block other than flits: IBIs sent, interrupts to the cores, newest first. -/
structure Out where
  ibi : List Ibi := []
  irq : List (Nat × Nat × Nat) := []
  /-- GP_PERST_N asserted toward the drives: from an entry that switches Hoist off (R358) until Hoist attaches again -/
  gpPerst : Bool := true
  /-- levels at which the test controller's pads are latched (R358, R385): boundary and TSV update stages, driving, high impedance -/
  tstPads : Option (BitVec 1248 × BitVec 984 × Bool × Bool) := none
  /-- the UCIe lanes stand at electrical idle: from the latching of the pads until they are released (R358) -/
  ucieIdle : Bool := false
deriving DecidableEq, Repr

/-- Answer of the last register access (R91): MSTAT and VALUE. -/
structure Reply where
  mstat : Nat := 0
  val : Word := 0
deriving DecidableEq, Repr

/-- The whole block. -/
structure State where
  /-- the commands that wait, first in, first out -/
  pending : List Instr := []
  regs : Tbl Word := {}
  /-- earlier words of registers whose write takes effect at the next Turn boundary -/
  eff : Tbl Word := {}
  fuse : Fuses := {}
  /-- fuses as loaded at the last reset (Kept code F) -/
  ld : Fuses := {}
  clk : Clk := {}
  mods : Tbl ModSt := {}
  hop : Hop := {}
  pond : List PondEnt := []
  flume : List FlumeEnt := []
  nextFid : Nat := 1
  lay : Lay := {}
  weir : Weir := {}
  races : Tbl Race := {}
  fanE : Fan := {}
  fanW : Fan := {}
  qrnE : Qrn := {}
  qrnW : Qrn := {}
  dram : Dram := {}
  drs : Drs := {}
  hstE : Hst := {}
  hstW : Hst := {}
  gov : Gov := {}
  brk : Brk := {}
  tlyE : Tly := {}
  tlyW : Tly := {}
  mil : Mil := {}
  mmk : Mmk := {}
  tst : Tst := {}
  i3c : I3c := {}
  boot : Boot := {}
  out : Out := {}
  reply : Reply := {}
  /-- the model's own counter of free values used (see Config) -/
  freeCtr : Nat := 0
deriving DecidableEq, Repr

/-- Reasons to stop with a fault. No command of the block ends in one: the block has no condition that stops it. -/
inductive Fault where
  /-- raised by no meaning; a closed inductive needs a constructor. Safe. -/
  | unreachable
deriving DecidableEq, Repr

/-- Reasons to refuse a command. -/
inductive Refusal where
  /-- the command has no meaning in this model yet; raised by arms of Dispatch only. Safe. -/
  | notModelled (mnemonic : String)
deriving DecidableEq, Repr

/-- The block right after power-on reset of the reference configuration, before the reset's release is processed (R457). -/
def State.reset : State := {}

end Sys2Proof.Machine
end

