-- ==== Sys2Proof/Machine/Operands.lean ====
section
/-!
DEFINITION. Operand forms: bit fields, the flit and its headers (R62 to R70, R74), CRC-32C (R88), the address decode (R132),
the mailbox words (R417, R418), status and response codes (R75, R419), and the Brake source table (R381).
-/
namespace Sys2Proof.Machine

/-- Bits [lo + w - 1 : lo] of a number. -/
def bits (x lo w : Nat) : Nat := (x >>> lo) % 2 ^ w
/-- Bit i of a number. -/
def bit (x i : Nat) : Bool := x.testBit i
/-- x with bits [lo + w - 1 : lo] replaced by v. -/
def setBits (x lo w v : Nat) : Nat := x - (bits x lo w) * 2 ^ lo + (v % 2 ^ w) * 2 ^ lo
/-- 1 for true. -/
def b2n (b : Bool) : Nat := if b then 1 else 0
/-- Ceiling of a / b. -/
def ceilDiv (a b : Nat) : Nat := (a + b - 1) / b
/-- Saturating add to a field of w bits. -/
def satAdd (w x n : Nat) : Nat := min (x + n) (2 ^ w - 1)
/-- Number of elements satisfying p. -/
def countP {α : Type} (p : α → Bool) (l : List α) : Nat := (l.filter p).length
/-- Change the elements of a list that satisfy p. -/
def mapIf {α : Type} (p : α → Bool) (f : α → α) (l : List α) : List α := l.map (fun x => if p x then f x else x)
/-- Apply f n times, with the counter. -/
def iter {α : Type} (f : Nat → α → α) : Nat → α → α
  | 0, x => x
  | n + 1, x => f n (iter f n x)

/-! ### Fields of a register word -/

/-- The value of a field in a register word. -/
def Field.of (f : Field) (x : Word) : Nat := bits x.toNat f.lo f.w
/-- A register word with a field replaced. -/
def Field.put (f : Field) (x : Word) (v : Nat) : Word := BitVec.ofNat 64 (setBits x.toNat f.lo f.w v)

/-! ### Status and response codes -/

/-- Status codes (R419), used for MSTAT and for mailbox STATUS. -/
def St.ok : Nat := 0
def St.busy : Nat := 1
def St.denied : Nat := 2
def St.badarg : Nat := 3
def St.overcommit : Nat := 4
def St.causeActive : Nat := 5
def St.offDomain : Nat := 6
def St.timeout : Nat := 7
def St.notFitted : Nat := 8
def St.locked : Nat := 9

/-- Response codes (R75). -/
def Rc.ok : Nat := 0
def Rc.defer : Nat := 1
def Rc.poison : Nat := 2
def Rc.lost : Nat := 3
def Rc.off : Nat := 4
def Rc.unreach : Nat := 5
def Rc.faulted : Nat := 6
def Rc.resfail : Nat := 7

/-- Opcodes (R67). -/
def Opc.nop : Nat := 0x00
def Opc.rd : Nat := 0x01
def Opc.rdx : Nat := 0x02
def Opc.wr : Nat := 0x04
def Opc.wrp : Nat := 0x05
def Opc.wrn : Nat := 0x06
def Opc.wrc : Nat := 0x07
def Opc.amo : Nat := 0x08
def Opc.barS : Nat := 0x0C
def Opc.barG : Nat := 0x0D
def Opc.barD : Nat := 0x0E
def Opc.mgmt : Nat := 0x10

/-- The opcodes R67 defines. -/
def Opc.defined (o : Nat) : Bool :=
  o ∈ ([0, 1, 2, 4, 5, 6, 7, 8, 0x0C, 0x0D, 0x0E, 0x10] : List Nat)
/-- A store: WR, WRP, WRN, WRC or AMO. -/
def Opc.store (o : Nat) : Bool := o ∈ ([4, 5, 6, 7, 8] : List Nat)
/-- A barrier. -/
def Opc.barrier (o : Nat) : Bool := o ∈ ([0x0C, 0x0D, 0x0E] : List Nat)
/-- A request that carries a memory address. -/
def Opc.addressed (o : Nat) : Bool := o ∈ ([1, 2, 4, 5, 6, 7, 8] : List Nat)
/-- A store or AMO that needs a Millpond entry (R78 step 9). -/
def Opc.pond (o : Nat) : Bool := o ∈ ([4, 5, 7, 8] : List Nat)
/-- A write with a visibility token (R95). -/
def Opc.tokened (o : Nat) : Bool := o ∈ ([4, 5, 7, 8] : List Nat)
/-- A request that is answered by a response (R67). -/
def Opc.answered (o : Nat) : Bool := o ∈ ([1, 2, 5, 7, 8, 0x0C, 0x0D, 0x0E, 0x10] : List Nat)
/-- RDX, WRC and AMO: a lost response loses the stream's reservation (R59). -/
def Opc.atom (o : Nat) : Bool := o ∈ ([2, 7, 8] : List Nat)

/-- Cells of a LEN code (R68). -/
def lenCells (len : Nat) : Nat := if len = 0 then 1 else if len = 1 then 2 else 4

/-! ### CRC-32C (R88) -/

/-- One bit of the reflected CRC-32C (polynomial 0x1EDC6F41, reflected 0x82F63B78). -/
def crcBit (c : Nat) : Nat := if c % 2 = 1 then (c / 2) ^^^ 0x82F63B78 else c / 2
/-- One byte of the CRC. -/
def crcByte (c b : Nat) : Nat :=
  crcBit (crcBit (crcBit (crcBit (crcBit (crcBit (crcBit (crcBit ((c ^^^ b) % 2 ^ 32))))))))
/-- CRC-32C of a byte string: initial value all ones, result XORed with all ones. -/
def crc32c (bs : List Nat) : Nat := (bs.foldl crcByte 0xFFFFFFFF) ^^^ 0xFFFFFFFF

/-! ### Flits (R62, R63) -/

/-- Byte i of a flit. -/
def flByte (f : Flit) (i : Nat) : Nat := bits f.toNat (8 * i) 8
/-- Bytes lo to lo + n - 1 of a number. -/
def bytesOf (x lo n : Nat) : List Nat := (List.range n).map (fun i => bits x (8 * (lo + i)) 8)
/-- The CRC of a flit: bytes 0-59, then 64-255 (R88). -/
def flCrc (f : Flit) : Nat := crc32c (bytesOf f.toNat 0 60 ++ bytesOf f.toNat 64 192)
/-- A field of the trailer, whose bit 0 is bit 0 of byte 48 (R63). -/
def flTrl (f : Flit) (lo w : Nat) : Nat := bits f.toNat (384 + lo) w
def flCrcField (f : Flit) : Nat := flTrl f 96 32
def flSeq (f : Flit) : Nat := flTrl f 0 10
def flAck (f : Flit) : Nat := flTrl f 10 10
def flNak (f : Flit) : Bool := flTrl f 20 1 = 1
def flNull (f : Flit) : Bool := flTrl f 21 1 = 1
def flCv (f : Flit) : Nat := flTrl f 22 3
def flVv (f : Flit) : Bool := flTrl f 42 1 = 1
def flVseq (f : Flit) : Nat := flTrl f 32 10
def flV (f : Flit) (i : Nat) : Nat := flTrl f (48 + 8 * i) 8
/-- Good CRC (R88). -/
def flGood (f : Flit) : Bool := flCrc f = flCrcField f
/-- Header slot i, 16 bytes (R62). -/
def flSlot (f : Flit) (i : Nat) : BitVec 128 := BitVec.ofNat 128 (bits f.toNat (128 * i) 128)
/-- Data cell 1, 2 or 3 (R62). -/
def flCell (f : Flit) (c : Nat) : Cell := BitVec.ofNat 512 (bits f.toNat (512 * c) 512)

/-- Bytes, least significant first, as a number. -/
def leNat : List Nat → Nat
  | [] => 0
  | b :: r => b % 256 + 256 * leNat r

/-! ### Granary headers (R324) -/

/-- Bytes 0 to 4091 of a header block. -/
def hdrBody (h : Hdr) : List Nat :=
  [0x4B, 0x59, 0x47, 0x52, 0x41, 0x4E, 0x30, 0x31] ++ bytesOf 1 0 2
    ++ [h.half % 256, h.drive % 256, h.nh % 256, b2n h.enc + 2 * b2n h.bmapValid + 4 * b2n h.heatValid, h.state % 256,
        (h.failed.map (· + 1)).getD 0 0]
    ++ bytesOf h.seq 0 8 ++ bytesOf h.turn 0 8 ++ bytesOf h.epoch 0 4 ++ bytesOf h.commit 0 4 ++ bytesOf h.unit 0 8
    ++ bytesOf h.regions 0 4 ++ bytesOf h.gen 0 4 ++ (List.range 32).flatMap (fun r => bytesOf (h.void.get 0 r) 0 4)
    ++ [h.wrate % 256, h.rrate % 256, (h.failed.map (· + 1)).getD 1 0, (h.failed.map (· + 1)).getD 2 0] ++ List.replicate 68 0
    ++ bytesOf h.wkey.toNat 0 72 ++ List.replicate 3764 0
/-- A header as it fills a logical block. -/
def hdrBlock (h : Hdr) : List Nat := hdrBody h ++ bytesOf (crc32c (hdrBody h)) 0 4
/-- The header that a block holds: none without MAGIC and VERSION or with a wrong CRC. -/
def hdrRead (b : List Nat) : Option Hdr :=
  let num := fun lo n : Nat => leNat ((b.drop lo).take n)
  let flag := num 13 1
  if b.length = 4096 && decide (b.take 10 = (hdrBody {}).take 10) && decide (num 4092 4 = crc32c (b.take 4092)) then
    some { half := num 10 1, drive := num 11 1, nh := num 12 1, enc := bit flag 0, bmapValid := bit flag 1, heatValid := bit flag 2
           state := num 14 1, failed := ([num 15 1, num 186 1, num 187 1].filter (· ≠ 0)).map (· - 1), seq := num 16 8, turn := num 24 8
           epoch := num 32 4, commit := num 36 4, unit := num 40 8, regions := num 48 4, gen := num 52 4
           void := (List.range 32).foldl (fun (t : Tbl Nat) r => t.put 0 r (num (56 + 4 * r) 4)) {}
           wrate := num 184 1, rrate := num 185 1, wkey := BitVec.ofNat 576 (num 256 72) }
  else none

/-- An upstream flit from its parts, with its CRC (R63, R65, R74). -/
def flBuild (hdrs : List (BitVec 128)) (cells : List Cell) (cv seq ack vseq : Nat) (nak null vv : Bool)
    (vs : List Nat) : Flit :=
  let h := (List.range 3).foldl (fun a i => a + (hdrs.getD i 0).toNat * 2 ^ (128 * i)) 0
  let t := seq % 1024 + (ack % 1024) * 2 ^ 10 + b2n nak * 2 ^ 20 + b2n null * 2 ^ 21 + (cv % 8) * 2 ^ 22
    + (vseq % 1024) * 2 ^ 32 + b2n vv * 2 ^ 42
    + (vs.getD 0 0) % 256 * 2 ^ 48 + (vs.getD 1 0) % 256 * 2 ^ 56 + (vs.getD 2 0) % 256 * 2 ^ 64
  let c := (List.range 3).foldl (fun a i => a + (cells.getD i 0).toNat * 2 ^ (512 * (i + 1))) 0
  let f0 := h + t * 2 ^ 384 + c
  let crc := flCrc (BitVec.ofNat 2048 f0)
  BitVec.ofNat 2048 (f0 + crc * 2 ^ 480)

/-- A flit with ACK and NAK brought up to date and its CRC recomputed, as a replay sends it (R87). -/
def flRefresh (f : Flit) (ack : Nat) (nak : Bool) : Flit :=
  let x := setBits (setBits f.toNat (384 + 10) 10 ack) (384 + 20) 1 (b2n nak)
  let x := setBits x 480 32 0
  BitVec.ofNat 2048 (x + flCrc (BitVec.ofNat 2048 x) * 2 ^ 480)

/-! ### Request headers (R66 to R70, R90) -/

/-- A parsed downstream header (R66). -/
structure ReqHdr where
  opc : Nat
  rty : Bool
  stream : Nat
  tag : Nat
  /-- byte address of the cell: ADDR is bits [39:6] -/
  addr : Nat
  /-- header bits [63:30] as they stand, the MGMT layout -/
  raw : Nat
  arg : Nat
deriving DecidableEq, Repr

def ReqHdr.parse (h : BitVec 128) : ReqHdr :=
  let x := h.toNat
  { opc := bits x 0 5, rty := bit x 5, stream := bits x 6 12, tag := bits x 18 12,
    addr := (bits x 30 34) * 64, raw := bits x 30 34, arg := bits x 64 64 }

/-- LEN of RD, WR and WRN (R68). -/
def ReqHdr.len (h : ReqHdr) : Nat := bits h.arg 0 2
/-- PSN of WR and WRN. -/
def ReqHdr.psn (h : ReqHdr) : Bool := bit h.arg 2
/-- AMO fields. -/
def ReqHdr.aop (h : ReqHdr) : Nat := bits h.arg 0 3
def ReqHdr.size (h : ReqHdr) : Nat := bits h.arg 4 2
def ReqHdr.off (h : ReqHdr) : Nat := bits h.arg 6 6
/-- MGMT fields (R90). -/
def ReqHdr.wnr (h : ReqHdr) : Bool := bit h.raw 25
def ReqHdr.w64 (h : ReqHdr) : Bool := bit h.raw 24
def ReqHdr.offset (h : ReqHdr) : Nat := bits h.raw 0 24

/-- Cells of memory the request names: LEN for RD, WR and WRN, one otherwise (R67). -/
def ReqHdr.cells (h : ReqHdr) : Nat :=
  if h.opc = Opc.rd ∨ h.opc = Opc.wr ∨ h.opc = Opc.wrn then lenCells h.len else 1
/-- Data cells the header claims downstream (R67); none where the claim is unknown. -/
def ReqHdr.claim (h : ReqHdr) : Option Nat :=
  if !Opc.defined h.opc then none
  else if h.opc = Opc.wr ∨ h.opc = Opc.wrn then (if h.len = 3 then none else some (lenCells h.len))
  else if h.opc = Opc.wrp ∨ h.opc = Opc.wrc ∨ h.opc = Opc.amo then some 1
  else some 0
/-- Data cells that a successful response carries (R67, R74). -/
def ReqHdr.rspCells (h : ReqHdr) : Nat :=
  if h.opc = Opc.rd then lenCells h.len else if h.opc = Opc.rdx ∨ h.opc = Opc.amo then 1 else 0

/-- A reserved bit of the header is non-zero (R72): ARG bits that R68 does not list, and those of R90. -/
def ReqHdr.reservedSet (h : ReqHdr) : Bool :=
  if h.opc = Opc.rd then h.arg / 4 ≠ 0
  else if h.opc = Opc.wr ∨ h.opc = Opc.wrn then h.arg / 8 ≠ 0
  else if h.opc = Opc.amo then h.arg / 2 ^ 12 ≠ 0
  else if h.opc = Opc.wrp ∨ h.opc = Opc.wrc then false
  else if h.opc = Opc.mgmt then
    h.raw / 2 ^ 26 ≠ 0 || (!h.wnr && h.arg ≠ 0) || (h.wnr && !h.w64 && h.arg / 2 ^ 32 ≠ 0)
  else h.arg ≠ 0

/-- The header breaks R69 (or R134: at or above TOP). -/
def ReqHdr.malformed (h : ReqHdr) (top : Nat) : Bool :=
  let cells := h.addr / 64
  ((h.opc = Opc.rd ∨ h.opc = Opc.wr ∨ h.opc = Opc.wrn) && decide (cells % lenCells h.len ≠ 0))
  || (h.opc = Opc.rd && h.len = 3)
  || (h.opc = Opc.amo && (decide (h.aop > 4) || h.size = 3 || (h.size = 2 && h.aop ≠ 2)
        || decide (h.off % 2 ^ (h.size + 2) ≠ 0)))
  || (Opc.barrier h.opc && h.addr ≠ 0)
  || (Opc.addressed h.opc && decide (h.addr ≥ top))

/-- A response header (R74). -/
def rspHdr (code stream tag pmask mstat : Nat) (value : Nat) : BitVec 128 :=
  BitVec.ofNat 128 (code % 16 + stream % 4096 * 2 ^ 4 + tag % 4096 * 2 ^ 16 + pmask % 16 * 2 ^ 28 + mstat % 65536 * 2 ^ 32
    + value % 2 ^ 64 * 2 ^ 64)

/-- A verdict byte (R64). -/
def verdict (code hint : Nat) : Nat := code % 16 + hint % 16 * 16

/-! ### Address decode (R132) -/

/-- Where a byte address lies. -/
structure Place where
  v : Nat
  sid : Nat
  row : Nat
  race : Nat
  pr : Nat
  bg : Nat
  bank : Nat
  col : Nat
deriving DecidableEq, Repr

/-- The decode of R132: nsid SIDs and the hash mask. -/
def decodeAddr (nsid mask a : Nat) : Place :=
  let v := bits a 21 19
  let row := v / nsid
  { v := v, sid := v % nsid, row := row, race := bits a 11 5 ^^^ ((row % 32) &&& mask),
    pr := bits a 10 1, bg := bits a 19 2, bank := bits a 16 3, col := bits a 6 4 }

/-- The reverse mapping (R132): byte address of a cell. -/
def encodeAddr (nsid mask : Nat) (p : Place) : Nat :=
  (p.row * nsid + p.sid) * 2 ^ 21 + p.bg * 2 ^ 19 + p.bank * 2 ^ 16 + (p.race ^^^ ((p.row % 32) &&& mask)) * 2 ^ 11
    + p.pr * 2 ^ 10 + p.col * 2 ^ 6

/-- Number of a bank of a pseudo-race: pr, SID, bank group, bank. -/
def bankNo (pr sid bg bank : Nat) : Nat := ((pr * 4 + sid) * 4 + bg) * 8 + bank
/-- The bank of a place. -/
def Place.bankNo (p : Place) : Nat := Sys2Proof.Machine.bankNo p.pr p.sid p.bg p.bank
/-- Half of a race. -/
def raceHalf (r : Nat) : Nat := r / 16
/-- Half of a host module. -/
def modHalf (m : Nat) : Nat := if m < 10 then 0 else 1
/-- Die that serves a race in a SID (R131). -/
def dieOf (race sid : Nat) : Nat := 4 * sid + race / 8

/-! ### Cells and bytes -/

/-- Byte i of a cell. -/
def cellByte (c : Cell) (i : Nat) : Nat := bits c.toNat (8 * i) 8
/-- The cell as a number of n bytes from byte `off`. -/
def cellTake (c : Cell) (off n : Nat) : Nat := bits c.toNat (8 * off) (8 * n)
/-- Merge: byte i of `new` where bit i of the mask is set, else of `old` (R68, R289). -/
def mergeCell (old new : Cell) (mask : BitVec 64) : Cell :=
  let big := (List.range 64).foldl (fun a i => if mask.toNat.testBit i then a + 255 * 2 ^ (8 * i) else a) 0
  let m : Cell := BitVec.ofNat 512 big
  (old &&& ~~~m) ||| (new &&& m)
/-- The mask of a full cell. -/
def fullMask : BitVec 64 := BitVec.allOnes 64

/-! ### Far atomics (R115) -/

/-- n-byte two's complement value. -/
def toSigned (bytes x : Nat) : Int := if x ≥ 2 ^ (8 * bytes - 1) then (x : Int) - 2 ^ (8 * bytes) else x

/-- New value of an atomic and whether it stores (R115): AOP, SGN, bytes, old, operand, compare value. SGN is looked
at in MIN and MAX only (log entry 128). -/
def amoNew (aop : Nat) (sgn : Bool) (bytes old opd cmp : Nat) : Nat × Bool :=
  let less := if sgn then decide (toSigned bytes opd < toSigned bytes old) else decide (opd < old)
  let greater := if sgn then decide (toSigned bytes opd > toSigned bytes old) else decide (opd > old)
  match aop with
  | 0 => ((old + opd) % 2 ^ (8 * bytes), true)
  | 1 => (opd, true)
  | 2 => if old = cmp then (opd, true) else (old, false)
  | 3 => (if less then opd else old, true)
  | _ => (if greater then opd else old, true)

/-- An AMO on a cell (R70, R115): ARG, the data cell of the request, the cell read. Answers the new cell, whether a store is
made, and the response cell with the old value in bytes [SIZE-1:0]. -/
def amoApply (arg : Nat) (opdCell old : Cell) : Cell × Bool × Cell :=
  let bytes := 2 ^ (bits arg 4 2 + 2)
  let off := bits arg 6 6
  let o := cellTake old off bytes
  let r := amoNew (bits arg 0 3) (bit arg 3) bytes o (cellTake opdCell 0 bytes) (cellTake opdCell 16 bytes)
  (BitVec.ofNat 512 (setBits old.toNat (8 * off) (8 * bytes) r.1), r.2, BitVec.ofNat 512 o)

/-! ### Mailbox words (R417, R418) -/

def mbOpc (w0 : Word) : Nat := bits w0.toNat 0 8
def mbTag (w0 : Word) : Nat := bits w0.toNat 16 16
def mbNarg (w0 : Word) : Nat := bits w0.toNat 32 8
/-- Reply word 0. -/
def mbReply (opc tag status detail : Nat) : Word :=
  BitVec.ofNat 64 (opc % 256 + tag % 65536 * 2 ^ 16 + status % 65536 * 2 ^ 32 + detail % 65536 * 2 ^ 48)

/-! ### The Brake sources (R381) -/

/-- A row of R381. -/
structure SrcRow where
  code : Nat
  /-- instances -/
  n : Nat
  /-- level source -/
  lvl : Bool
  dflt : Nat
  /-- bit s: severity s permitted -/
  permit : Nat
  fixed : Bool
deriving DecidableEq, Repr

namespace Src
def TURN_OVERRUN : Nat := 0x01
def LAY_LINK : Nat := 0x02
def LAY_STALL : Nat := 0x03
def HEAD_LINK : Nat := 0x04
def HEAD_PROTO : Nat := 0x05
def POND_LOST : Nat := 0x06
def WEIR_SCALE : Nat := 0x07
def RACE_TMO : Nat := 0x10
def RACE_REF : Nat := 0x11
def SPIN_LANE : Nat := 0x12
def SPIN_TRAIN : Nat := 0x13
def FAN_LAG : Nat := 0x14
def QRN_UE : Nat := 0x18
def QRN_ROW : Nat := 0x19
def QRN_PIN : Nat := 0x1A
def DRS_FUSE : Nat := 0x1B
def DRS_ISOL : Nat := 0x1C
def HST_IMAGE : Nat := 0x20
def HST_DRIVE : Nat := 0x21
def HST_CEIL : Nat := 0x22
def HST_PRESS : Nat := 0x23
def HST_MAP : Nat := 0x24
def GOV_TEMP : Nat := 0x28
def GOV_RAIL : Nat := 0x29
def GOV_AVS : Nat := 0x2A
def GOV_BK : Nat := 0x2B
def GOV_TSENS : Nat := 0x2C
def GOV_AON : Nat := 0x2D
def GOV_WAKE : Nat := 0x2E
def BRK_WIRE : Nat := 0x30
end Src

/-- R381, row by row: code, instances, level, default, permitted, fixed. -/
def srcTable : List SrcRow :=
  ([⟨0x01, 1, false, 1, 0b10111, false⟩, ⟨0x02, 16, false, 2, 0b10110, false⟩, ⟨0x03, 2, false, 2, 0b10110, false⟩,
    ⟨0x04, 20, false, 1, 0b11111, false⟩, ⟨0x05, 20, false, 1, 0b11111, false⟩, ⟨0x06, 32, false, 1, 0b10111, false⟩,
    ⟨0x07, 1, false, 1, 0b10111, false⟩, ⟨0x10, 32, true, 2, 0b11110, false⟩, ⟨0x11, 32, false, 1, 0b11111, false⟩,
    ⟨0x12, 32, true, 2, 0b11110, false⟩] : List SrcRow) ++
  ([⟨0x13, 32, false, 3, 0b11000, false⟩, ⟨0x14, 2, false, 1, 0b10111, false⟩, ⟨0x18, 32, false, 1, 0b11111, false⟩,
    ⟨0x19, 32, false, 1, 0b11111, false⟩, ⟨0x1A, 32, false, 1, 0b11111, false⟩, ⟨0x1B, 1, false, 1, 0b10111, false⟩,
    ⟨0x1C, 32, true, 3, 0b11000, false⟩, ⟨0x20, 2, false, 2, 0b10110, false⟩, ⟨0x21, 8, true, 2, 0b10110, false⟩,
    ⟨0x22, 2, true, 2, 0b10110, false⟩] : List SrcRow) ++
  ([⟨0x23, 2, true, 1, 0b10111, false⟩, ⟨0x24, 2, true, 2, 0b10110, false⟩, ⟨0x28, 24, true, 4, 0b10000, true⟩,
    ⟨0x29, 3, true, 4, 0b10100, false⟩, ⟨0x2A, 3, false, 2, 0b10110, false⟩, ⟨0x2B, 1, true, 2, 0b10110, false⟩,
    ⟨0x2C, 24, true, 1, 0b10111, false⟩, ⟨0x2D, 1, true, 1, 0b10111, false⟩, ⟨0x2E, 1, false, 1, 0b10111, false⟩,
    ⟨0x30, 1, true, 2, 0b10100, false⟩] : List SrcRow)

/-- The row of a source code; none for a reserved code. -/
def srcRow (c : Nat) : Option SrcRow := srcTable.find? (fun r => r.code = c)

end Sys2Proof.Machine
end

