-- ==== Sys2Proof/Machine/Code.lean ====
section
/-!
DEFINITION. Quern's code (R280 to R283): RS(72,66) over GF(2^8) with primitive polynomial 0x11D and roots α^0 to α^5. A
word is 72 symbols, symbol i in bits [8i+7:8i]: data bytes 0-63, tag bytes 64-65, check bytes 66-71. The decoder solves for up
to three errors (Peterson-Gorenstein-Zierler) by trying the locators of the shortened code.
-/
namespace Sys2Proof.Machine

/-- Multiplication by α. -/
def gfX (a : Nat) : Nat := if a ≥ 128 then (2 * a) ^^^ 0x11D else 2 * a
/-- Product in GF(2^8): b taken bit by bit from the top. -/
def gfMul (a b : Nat) : Nat :=
  (List.range 8).foldl (fun acc i => (gfX acc) ^^^ (if b.testBit (7 - i) then a else 0)) 0
/-- α^n. -/
def gfPow : Nat → Nat
  | 0 => 1
  | n + 1 => gfX (gfPow n)
/-- a^n by repeated product. -/
def gfPowOf (a : Nat) : Nat → Nat
  | 0 => 1
  | n + 1 => gfMul a (gfPowOf a n)
/-- Inverse: a^254. -/
def gfInv (a : Nat) : Nat :=
  let a2 := gfMul a a; let a4 := gfMul a2 a2; let a8 := gfMul a4 a4; let a16 := gfMul a8 a8
  let a32 := gfMul a16 a16; let a64 := gfMul a32 a32; let a128 := gfMul a64 a64
  gfMul a2 (gfMul a4 (gfMul a8 (gfMul a16 (gfMul a32 (gfMul a64 a128)))))

/-- Symbol i of a codeword. -/
def cwSym (c : Codeword) (i : Nat) : Nat := bits c.toNat (8 * i) 8
/-- The symbols of a codeword, the coefficient of x^71 first. -/
def cwSyms (c : Codeword) : List Nat := (List.range 72).map (cwSym c)

/-- Horner evaluation at α^j of the coefficients, highest first. -/
def gfEval (x : Nat) (l : List Nat) : Nat := l.foldl (fun acc s => gfMul acc x ^^^ s) 0

/-- The generator's coefficients below x^6, highest first: g(x) = (x - 1)(x - α) ... (x - α^5) (R280). -/
def genStep (root : Nat) (g : List Nat) : List Nat :=
  List.zipWith (· ^^^ ·) (g ++ [0]) (0 :: g.map (gfMul root))
def generator : List Nat := ((List.range 6).foldl (fun g i => genStep (gfPow i) g) [1])

/-- One step of the division by the generator: remainder (6 symbols, highest first) and the next message symbol. -/
def rsStep (rem : List Nat) (m : Nat) : List Nat :=
  let f := (rem.getD 0 0) ^^^ m
  List.zipWith (· ^^^ ·) (rem.tail ++ [0]) ((generator.tail).map (gfMul f))
/-- The check bytes of the 66 message symbols (R280). -/
def rsCheck (msg : List Nat) : List Nat := msg.foldl rsStep [0, 0, 0, 0, 0, 0]

/-- The codeword of a cell with its tag bytes (R280, R282). -/
def rsEncode (data : Cell) (tag0 tag1 : Nat) : Codeword :=
  let msg := (List.range 64).map (cellByte data) ++ [tag0 % 256, tag1 % 256]
  BitVec.ofNat 576 (leNat (msg ++ rsCheck msg))

/-- Tag byte 0 of an epoch and a poison mark (R282). -/
def tagByte (epoch : Nat) (psn : Bool) : Nat := (epoch % 8) * 2 + b2n psn

/-- The stored codeword of a full write (R282). -/
def storeWord (data : Cell) (psn : Bool) (epoch : Nat) : Codeword := rsEncode data (tagByte epoch psn) 0

/-- Data of a codeword. -/
def cwData (c : Codeword) : Cell := BitVec.ofNat 512 (bits c.toNat 0 512)
def cwTag0 (c : Codeword) : Nat := cwSym c 64
def cwTag1 (c : Codeword) : Nat := cwSym c 65
def cwPoison (c : Codeword) : Bool := bit (cwTag0 c) 0
def cwEpoch (c : Codeword) : Nat := bits (cwTag0 c) 1 3
/-- The reserved tag bits are zero (R282, R283). -/
def cwTagOk (c : Codeword) : Bool := decide (cwTag0 c / 16 = 0) && decide (cwTag1 c = 0)

/-- The six syndromes. -/
def syndromes (c : Codeword) : List Nat := let l := cwSyms c; (List.range 6).map (fun j => gfEval (gfPow j) l)

/-- Locator coefficients by PGZ for three, two or one errors from the syndromes: (σ1, σ2, σ3), or none. -/
def pgz (s : List Nat) : Option (Nat × List Nat) :=
  let S := fun i => s.getD i 0
  let m := gfMul
  -- determinant of the 3x3 Hankel matrix [S0 S1 S2; S1 S2 S3; S2 S3 S4]
  let det3 := m (S 0) (m (S 2) (S 4) ^^^ m (S 3) (S 3)) ^^^ m (S 1) (m (S 1) (S 4) ^^^ m (S 2) (S 3))
    ^^^ m (S 2) (m (S 1) (S 3) ^^^ m (S 2) (S 2))
  let det2 := m (S 0) (S 2) ^^^ m (S 1) (S 1)
  if det3 ≠ 0 then
    let i := gfInv det3
    -- solve S0 σ3 + S1 σ2 + S2 σ1 = S3, S1 σ3 + S2 σ2 + S3 σ1 = S4, S2 σ3 + S3 σ2 + S4 σ1 = S5 (Cramer)
    let d3 := m (S 3) (m (S 2) (S 4) ^^^ m (S 3) (S 3)) ^^^ m (S 1) (m (S 4) (S 4) ^^^ m (S 3) (S 5))
      ^^^ m (S 2) (m (S 4) (S 3) ^^^ m (S 2) (S 5))
    let d2 := m (S 0) (m (S 4) (S 4) ^^^ m (S 3) (S 5)) ^^^ m (S 3) (m (S 1) (S 4) ^^^ m (S 3) (S 2))
      ^^^ m (S 2) (m (S 1) (S 5) ^^^ m (S 4) (S 2))
    let d1 := m (S 0) (m (S 2) (S 5) ^^^ m (S 4) (S 3)) ^^^ m (S 1) (m (S 1) (S 5) ^^^ m (S 4) (S 2))
      ^^^ m (S 3) (m (S 1) (S 3) ^^^ m (S 2) (S 2))
    some (3, [m d1 i, m d2 i, m d3 i])
  else if det2 ≠ 0 then
    let i := gfInv det2
    let d2 := m (S 2) (S 2) ^^^ m (S 1) (S 3)
    let d1 := m (S 0) (S 3) ^^^ m (S 1) (S 2)
    some (2, [m d1 i, m d2 i])
  else if S 0 ≠ 0 then some (1, [m (S 1) (gfInv (S 0))])
  else none

/-- Symbol positions (0-71) whose locator X = α^(71 - i) is a root of X^n + σ1 X^(n-1) + ... + σn. -/
def locators (sig : List Nat) : List Nat :=
  (List.range 72).filter (fun i => gfEval (gfPow (71 - i)) (1 :: sig) = 0)

/-- Error values at the located positions, from the first syndromes (Vandermonde, up to three unknowns). -/
def errValues (s : List Nat) (xs : List Nat) : List Nat :=
  let S := fun i => s.getD i 0
  let m := gfMul
  match xs with
  | [_] => [S 0]
  | [x, y] =>
    let d := gfInv (x ^^^ y)
    [m (S 1 ^^^ m y (S 0)) d, m (S 1 ^^^ m x (S 0)) d]
  | [x, y, z] =>
    let f := fun a b c => -- value at locator a, the others being b and c
      let num := S 2 ^^^ m (b ^^^ c) (S 1) ^^^ m (m b c) (S 0)
      m num (gfInv (m (a ^^^ b) (a ^^^ c)))
    [f x y z, f y x z, f z x y]
  | _ => []

/-- The five outcomes of a decode (R283). -/
inductive Outcome where
  | clean | ce | poisoned | ue | miss
deriving DecidableEq, Repr

/-- A decode: outcome, the word after correction, the symbol positions corrected. -/
structure Decoded where
  out : Outcome
  word : Codeword
  fixed : List Nat
deriving DecidableEq, Repr

/-- Quern's decode of a received word (R283). POISON is read after correction. -/
def rsDecode (c : Codeword) : Decoded :=
  let s := syndromes c
  let judge := fun (w : Codeword) (fx : List Nat) =>
    if !cwTagOk w then (⟨.ue, c, []⟩ : Decoded)
    else if cwPoison w then ⟨.poisoned, w, fx⟩
    else if fx = [] then ⟨.clean, w, []⟩ else ⟨.ce, w, fx⟩
  if s.all (· = 0) then judge c []
  else match pgz s with
    | none => ⟨.ue, c, []⟩
    | some (n, sig) =>
      let pos := locators sig
      if pos.length ≠ n then ⟨.ue, c, []⟩
      else
        let vals := errValues s (pos.map (fun i => gfPow (71 - i)))
        let w := (pos.zip vals).foldl (fun (w : Codeword) pv => w ^^^ (BitVec.ofNat 576 (pv.2 * 2 ^ (8 * pv.1)))) c
        if (syndromes w).all (· = 0) then judge w pos else ⟨.ue, c, []⟩

/-- A received word: the stored word with error values XORed into symbols. -/
def corrupt (c : Codeword) (err : List (Nat × Byte)) : Codeword :=
  err.foldl (fun w e => w ^^^ (BitVec.ofNat 576 (e.2.toNat * 2 ^ (8 * e.1)))) c

/-- The pin that carries a symbol (R281): 0-31 DQ, 32-35 CB. -/
def pinOfSym (i : Nat) : Nat := if i < 64 then i / 2 else if i < 66 then 32 else 33 + (i - 66) / 2
/-- The data group of a pin (R281). -/
def groupOfPin (p : Nat) : Nat := if p < 32 then p / 8 else p - 32

end Sys2Proof.Machine
end

