-- ==== Sys2Proof/Machine/Regs.lean ====
section
/-!
DEFINITION. The register window: finding a register at an offset (R16, R22, R486), its reset word (R17), its fields, the
bits that show what a unit holds (live bits), and the domain that owns it (R357).
-/
namespace Sys2Proof.Machine

/-! ### Configuration (R4, R133) -/

def nsidOf (f : Fuses) : Nat := f.dies % 4 + 1
def rowbitsOf (f : Fuses) : Nat := 15 + f.dens
/-- Regions of 2 MiB (R133). -/
def regionsOf (f : Fuses) : Nat := nsidOf f * 2 ^ rowbitsOf f
/-- TOP in bytes. -/
def topOf (f : Fuses) : Nat := regionsOf f * 2 ^ 21
/-- A fitted host module (R5). -/
def modFitted (f : Fuses) (m : Nat) : Bool :=
  let per := f.hmods / 2
  decide (m < per) || (decide (10 ≤ m) && decide (m < 10 + per))
/-- A fitted granary port (R5). -/
def portFitted (f : Fuses) (p : Nat) : Bool :=
  let per := f.gports / 2
  decide (p < per) || (decide (4 ≤ p) && decide (p < 4 + per))
/-- Hoist is fitted (R6). -/
def hoistFitted (f : Fuses) : Bool := f.gports ≠ 0
/-- Drives of a half (R323). -/
def nhOf (f : Fuses) : Nat := f.gports / 2

/-! ### Fuse map entries (R298, R299) -/

def entType (e : Nat) : Nat := bits e 60 4
def entRace (e : Nat) : Nat := bits e 55 5
def entPr (e : Nat) : Nat := bits e 54 1
def entSid (e : Nat) : Nat := bits e 52 2
def entBg (e : Nat) : Nat := bits e 50 2
def entBank (e : Nat) : Nat := bits e 47 3
def entRow (e : Nat) : Nat := bits e 30 17
def entCol (e : Nat) : Nat := bits e 26 4
def entLgrp (e : Nat) : Nat := bits e 22 4
def entLpos (e : Nat) : Nat := bits e 18 4
/-- CHK: the inverse of the XOR of bytes 1 to 7 (R298). -/
def entChk (e : Nat) : Nat := (List.range 7).foldl (fun a i => a ^^^ bits e (8 * (i + 1)) 8) 0 ^^^ 0xFF
def entGood (e : Nat) : Bool := decide (bits e 0 8 = entChk e)
/-- An entry with its CHK computed. -/
def entSeal (e : Nat) : Word := BitVec.ofNat 64 (setBits e 0 8 (entChk e))
/-- The bank of a spare row or column entry, as one number of the part. -/
def entBankKey (e : Nat) : Nat := entRace e * 1024 + bankNo (entPr e) (entSid e) (entBg e) (entBank e)
/-- The lane group of a lane entry, as one number of the part. -/
def entLaneKey (e : Nat) : Nat := entRace e * 16 + entPr e * 8 + entLgrp e

/-- The fold of R299 over the map in ascending order: entries applied, indices ignored (bad CHK or no spare left). -/
def mapScan (m : Tbl Word) : List Word × List Nat :=
  m.rows.foldl (fun (acc : List Word × List Nat) kv =>
    let e := kv.2.toNat
    let t := entType e
    if t = 0 ∨ t > 4 then acc
    else if !entGood e then (acc.1, acc.2 ++ [kv.1])
    else
      let used := acc.1.filter (fun x => entType x.toNat = t ∧
        (if t = 3 then entLaneKey x.toNat = entLaneKey e else entBankKey x.toNat = entBankKey e))
      let limit := if t = 1 then 8 else if t = 2 then 2 else if t = 3 then 1 else 1024
      if used.length < limit then (acc.1 ++ [kv.2], acc.2) else (acc.1, acc.2 ++ [kv.1])) ([], [])
/-- The entries that Dresser applies (R299). -/
def mapApplied (m : Tbl Word) : List Word := (mapScan m).1
/-- The entries that it ignores and counts in BADCHK (R299). -/
def mapBad (m : Tbl Word) : List Nat := (mapScan m).2
/-- Races retired by the map (R303). -/
def retiredMask (f : Fuses) : Nat :=
  (mapApplied f.map).foldl (fun a e => if entType e.toNat = 4 then a ||| 2 ^ entRace e.toNat else a) 0
/-- SPIN_REPAIR of a race from the lane entries (R262, R279, R299). -/
def laneRepairWord (f : Fuses) (race : Nat) : Nat :=
  (mapApplied f.map).foldl (fun a e =>
    let x := e.toNat
    if entType x = 3 ∧ entRace x = race then
      let g := entLgrp x
      let lo := if g < 4 then 16 * entPr x + 4 * g else if g = 4 then 32 + 4 * entPr x
        else if g = 5 then 44 + 4 * entPr x else 40
      setBits a lo 4 (entLpos x + 1)
    else a) 0

/-! ### Finding a register -/

/-- A register instance: where its word is kept (`key`, its own offset), its indices, its half, whether the access came through
a mirror offset (which ignores writes). -/
structure Loc where
  reg : Reg
  key : Nat
  idx : List Nat
  half : Nat
  mirror : Bool
deriving DecidableEq, Repr

/-- Indices of a distance from the base along the instance dimensions; none where no instance starts there. -/
def dimIdx : List (Nat × Nat) → Nat → Option (List Nat)
  | [], d => if d = 0 then some [] else none
  | (n, st) :: r, d => let i := d / st; if i < n then (dimIdx r (d % st)).map (i :: ·) else none

/-- Number of counters in a Tally bank (R396). -/
def bankSize (b : Nat) : Nat := ([80, 32, 128, 192, 32, 16, 16] : List Nat).getD b 0

/-- The register instance that starts at an offset. -/
def regAt (r : Reg) (off : Nat) : Option Loc :=
  let i := r.info
  let try_ := fun (o : Nat) (h : Nat) (mir : Bool) =>
    if i.base ≤ o then
      match dimIdx i.dims (o - i.base) with
      | some ix =>
        if r = .TLY_CNT ∧ ix.getD 1 0 ≥ bankSize (ix.getD 0 0) then none
        else some (⟨r, if mir then o else o + h * 0x80000, ix, if mir then 0 else h, mir⟩ : Loc)
      | none => none
    else none
  match try_ off 0 false, i.kind with
  | some l, _ => some l
  | none, .once => none
  | none, .half => if off ≥ 0x80000 then try_ (off - 0x80000) 1 false else none
  | none, .mirror => if off ≥ 0x80000 then try_ (off - 0x80000) 0 true else none

/-- The first register of a list with an instance at the offset. -/
def findReg : List Reg → Nat → Option Loc
  | [], _ => none
  | r :: rs, off => match regAt r off with
    | some l => some l
    | none => findReg rs off

/-- The register instance at an offset, mapped (R16). -/
def locate (off : Nat) : Option Loc := findReg Reg.all off

/-- Where the word of instance i (first index) of a register in a half is kept. -/
def Reg.key (r : Reg) (i h : Nat) : Nat :=
  r.info.base + (match r.info.dims with | (_, st) :: _ => i * st | [] => 0) + h * 0x80000
/-- The same with two indices. -/
def Reg.key2 (r : Reg) (i j h : Nat) : Nat :=
  r.info.base + (match r.info.dims with | (_, s0) :: (_, s1) :: _ => i * s0 + j * s1 | (_, s0) :: _ => i * s0 | [] => 0)
    + h * 0x80000

/-! ### Reset words (R17) -/

/-- The reset word of a register instance. Live bits are shown by `live`. -/
def resetWord (f : Fuses) (r : Reg) (key : Nat) : Word :=
  match r with
  | .RACE_SLOT_SHD | .RACE_SLOT_ACT =>
    if (key / 8) % 8 = 0 ∨ (key / 8) % 8 = 4 then 0x8000000090000000 else 0x8000000000000000
  | .BRK_SRC_CFG =>
    match srcRow ((key - 0xE00100) / 4) with
    | some s => BitVec.ofNat 64 s.dflt
    | none => 0
  | .SPIN_REPAIR => BitVec.ofNat 64 (laneRepairWord f ((key - 0x800808) / 0x10000))
  | _ => BitVec.ofNat 64 (r.fields.foldl (fun a x => a + x.rst * 2 ^ x.lo) 0)

/-- The word held for a register instance. -/
def State.raw (s : State) (r : Reg) (key : Nat) : Word := (s.regs.find? key).getD (resetWord s.ld r key)
/-- The word in force: a register whose write takes effect at the next Turn boundary keeps its earlier word until then. -/
def State.inForce (s : State) (r : Reg) (key : Nat) : Word := (s.eff.find? key).getD (s.raw r key)
/-- A register table with one word written. -/
def regsPut (f : Fuses) (t : Tbl Word) (r : Reg) (key : Nat) (w : Word) : Tbl Word :=
  if w = resetWord f r key then t.del key else t.ins key w
/-- Write a register's word. -/
def State.setRaw (s : State) (r : Reg) (key : Nat) (w : Word) : State := { s with regs := regsPut s.ld s.regs r key w }
/-- The value of a field in force, instance i of half h. -/
def State.fget (s : State) (f : Field) (i : Nat := 0) (h : Nat := 0) : Nat := f.of (s.inForce f.reg (f.reg.key i h))
/-- The value of a field as held. -/
def State.fheld (s : State) (f : Field) (i : Nat := 0) (h : Nat := 0) : Nat := f.of (s.raw f.reg (f.reg.key i h))
/-- A register table with one field written. -/
def State.regsF (s : State) (t : Tbl Word) (f : Field) (v : Nat) (i : Nat := 0) (h : Nat := 0) : Tbl Word :=
  let k := f.reg.key i h
  regsPut s.ld t f.reg k (f.put ((t.find? k).getD (resetWord s.ld f.reg k)) v)
/-- Write a field. -/
def State.fset (s : State) (f : Field) (v : Nat) (i : Nat := 0) (h : Nat := 0) : State :=
  { s with regs := s.regsF s.regs f v i h }
/-- Add to a saturating counter field. -/
def State.fadd (s : State) (f : Field) (n : Nat) (i : Nat := 0) (h : Nat := 0) : State :=
  s.fset f (satAdd f.w (s.fheld f i h) n) i h
/-- Add to a field that wraps. -/
def State.fwrap (s : State) (f : Field) (n : Nat) (i : Nat := 0) (h : Nat := 0) : State :=
  s.fset f ((s.fheld f i h + n) % 2 ^ f.w) i h
/-- A one-bit field as a Bool. -/
def State.fb (s : State) (f : Field) (i : Nat := 0) (h : Nat := 0) : Bool := s.fget f i h = 1

/-! ### Units by half or instance -/

def State.mod (s : State) (m : Nat) : ModSt := s.mods.get {} m
def State.setMod (s : State) (m : Nat) (x : ModSt) : State := { s with mods := s.mods.ins m x }
def State.race (s : State) (r : Nat) : Race := s.races.get {} r
def State.setRace (s : State) (r : Nat) (x : Race) : State := { s with races := s.races.ins r x }
def State.hst (s : State) (h : Nat) : Hst := if h = 0 then s.hstE else s.hstW
def State.setHst (s : State) (h : Nat) (x : Hst) : State :=
  { s with hstE := if h = 0 then x else s.hstE, hstW := if h = 0 then s.hstW else x }
def State.qrn (s : State) (h : Nat) : Qrn := if h = 0 then s.qrnE else s.qrnW
def State.setQrn (s : State) (h : Nat) (x : Qrn) : State :=
  { s with qrnE := if h = 0 then x else s.qrnE, qrnW := if h = 0 then s.qrnW else x }
def State.tly (s : State) (h : Nat) : Tly := if h = 0 then s.tlyE else s.tlyW
def State.setTly (s : State) (h : Nat) (x : Tly) : State :=
  { s with tlyE := if h = 0 then x else s.tlyE, tlyW := if h = 0 then s.tlyW else x }
def State.fan (s : State) (h : Nat) : Fan := if h = 0 then s.fanE else s.fanW
def State.setFan (s : State) (h : Nat) (x : Fan) : State :=
  { s with fanE := if h = 0 then x else s.fanE, fanW := if h = 0 then s.fanW else x }
def State.core (s : State) (h : Nat) : Core := if h = 0 then s.mil.east else s.mil.west
def State.setCore (s : State) (h : Nat) (x : Core) : State :=
  { s with mil := { s.mil with east := if h = 0 then x else s.mil.east, west := if h = 0 then s.mil.west else x } }

/-- The mc count since the model began (the model's own clock; Turns of 256 mc, R10). -/
def State.now (s : State) : Nat := s.clk.age * 256 + s.clk.mc
/-- The mc count of an mc of the present Turn; a command never lies before the mc already reached. -/
def State.at (s : State) (mc : Nat) : Nat := s.clk.age * 256 + max s.clk.mc (min mc 255)
/-- The clock moved to an mc of the present Turn. -/
def State.clkAt (s : State) (mc : Nat) : Clk := { s.clk with mc := max s.clk.mc (min mc 255) }

/-! ### Life cycle and unlock (R429, R438) -/

/-- BLANK, FACTORY, RETURNED or SCRAPPED: open by state. -/
def State.openByState (s : State) : Bool := s.ld.lc ∈ ([0, 1, 4, 5] : List Nat)
/-- The debug unlock is open. -/
def State.unlocked (s : State) : Bool := s.openByState || s.mmk.unlock ≠ 0
/-- FACTORY or RETURNED: fault injection and the fields reserved to them. -/
def State.factory (s : State) : Bool := s.ld.lc = 1 ∨ s.ld.lc = 4
/-- The UNLOCK field (R453). -/
def State.unlockCode (s : State) : Nat := if s.openByState then 1 else s.mmk.unlock
/-- Host service (R429). -/
def State.hostService (s : State) : Bool := s.ld.lc ≠ 0 ∧ s.ld.lc ≠ 5

/-! ### Races: tables and service -/

/-- Word j of the active or the shadow table. -/
def State.actWord (s : State) (r j : Nat) : Word := s.raw .RACE_SLOT_ACT (Reg.key2 .RACE_SLOT_ACT r j 0)
def State.shdWord (s : State) (r j : Nat) : Word := s.raw .RACE_SLOT_SHD (Reg.key2 .RACE_SLOT_SHD r j 0)
/-- The codes of a table's 128 entries (R206, R236): reserved codes behave as OPEN. -/
def tableCodes (ws : List Word) : List Nat :=
  (List.range 128).map (fun i => let c := bits (ws.getD (i / 16) 0).toNat (4 * (i % 16)) 4
    if c = 5 ∨ c = 6 ∨ c = 7 ∨ c = 10 ∨ c ≥ 11 then 0 else c)
def State.actTable (s : State) (r : Nat) : List Nat := tableCodes ((List.range 8).map (s.actWord r))
def State.shdTable (s : State) (r : Nat) : List Nat := tableCodes ((List.range 8).map (s.shdWord r))
/-- The table that the plan, the claims and Weir take for the next Turn: the latched one, or the active table as it stood at mc 48
of this Turn (R213). -/
def State.nextTable (s : State) (r : Nat) : List Nat :=
  match (s.race r).latch with
  | some ws => tableCodes ws
  | none => match (s.race r).act48 with
    | some ws => tableCodes ws
    | none => s.actTable r
/-- Entries of a code in a table. -/
def countCode (t : List Nat) (c : Nat) : Nat := countP (· = c) t

/-- The race is isolated (R303): decided or recorded. -/
def State.isolated (s : State) (r : Nat) : Bool :=
  bit (s.fheld Fld.DRS_ISOL_ISOL) r || (s.race r).isoAt.isSome
/-- The race is isolated or switched off for admission and Weir: from Turn t+1 of R304. -/
def State.raceOff (s : State) (r : Nat) : Bool :=
  (bit (s.fheld Fld.DRS_ISOL_ISOL) r && ((s.race r).isoAt.isNone || (s.race r).isoOff)) || (s.race r).isoDone

/-- The thermal step of a race: die step of its group, base step or current step, the highest (R369). -/
def State.thermStep (s : State) (r : Nat) : Nat := max (s.gov.dstep.get 0 (r / 8)) (max s.gov.bstep s.gov.istep)
/-- Held slots asked for at a step (R370). -/
def State.heldAt (s : State) (n : Nat) : Nat :=
  match n with
  | 0 => 0
  | 1 => s.fget Fld.GOV_STEP_CFG_HELD1
  | 2 => s.fget Fld.GOV_STEP_CFG_HELD2
  | 3 => s.fget Fld.GOV_STEP_CFG_HELD3
  | _ => s.fget Fld.GOV_STEP_CFG_HELD4
/-- Activation limit of a step (R370). -/
def State.aawAt (s : State) (n : Nat) : Nat :=
  match n with
  | 1 => s.fget Fld.GOV_STEP_CFG_AAW1
  | 2 => s.fget Fld.GOV_STEP_CFG_AAW2
  | 3 => s.fget Fld.GOV_STEP_CFG_AAW3
  | _ => s.fget Fld.GOV_STEP_CFG_AAW4
/-- AAW_EFF (R163, R370). -/
def State.aawEff (s : State) (r : Nat) : Nat :=
  let mx := s.fget Fld.RACE_TIM4_AAW_MAX r
  let n := (s.race r).step
  if n = 0 then mx else min mx (s.aawAt n)

/-! ### Domains (R25, R357, R374) -/

/-- The main domains are powered: RUN or IDLE, after the release of the reset; between a reset and its release their registers answer
OFF_DOMAIN (log entry 127). -/
def State.mainsOn (s : State) : Bool :=
  (s.gov.ps = .run || s.gov.ps = .idle) && (match s.boot.inReset with
    | none | some .half | some (.race _) => true
    | _ => false)

/-- The refresh engines run: also through a warm reset (R203, R454). -/
def State.refreshOn (s : State) : Bool := s.mainsOn || ((s.gov.ps = .run || s.gov.ps = .idle) && s.boot.inReset = some .warm)

/-- A host module's half runs and has the module. -/
def State.modThere (s : State) (m : Nat) : Bool := s.mainsOn && modFitted s.ld m && (m < 10 || s.boot.westUp)
/-- A domain is on and clocked (R374). In RUN a host module with EN = 0 is off. -/
def State.domainOn (s : State) (d : Nat) : Bool :=
  if d = 79 then !s.boot.aonDown
  else s.mainsOn &&
    (if d < 32 then !(s.race d).isoDone && (d < 16 || s.boot.westUp)
     else if d < 52 then s.modThere (d - 32) && s.fheld Fld.HEAD_MOD_CTRL_EN (d - 32) = 1
     else if d < 60 then
       portFitted s.ld (d - 52) && !(((s.hst ((d - 52) / 4)).drives.get {} ((d - 52) % 4)).lost)
     else if d = 64 ∨ d = 65 then hoistFitted s.ld && (d = 64 || s.boot.westUp)
     else if d = 77 then s.openByState || s.tst.acc1149 || s.tst.acc1838 || s.tst.inmode
     else if d ≥ 60 ∧ d ≤ 73 then d % 2 = 0 || s.boot.westUp
     else true)

/-- The domain that holds a register instance. -/
def regDomain (l : Loc) : Nat :=
  let i := l.idx.getD 0 0
  match l.reg with
  | .HEAD_MOD_CTRL | .HEAD_MOD_STATUS | .HEAD_MOD_ERR => 32 + i
  | .HOP_ORD_CFG | .HOP_AMAP_CFG | .HOP_AMAP_TOP | .HOP_STREAM | .SLU_SLOT_SWAP | .WEIR_CFG | .WEIR_STATUS | .WEIR_WM
  | .WEIR_GRP | .FLUME_CFG | .HOP_LOST_LOG | .LAY_STALL_CFG | .LAY_STALL_STATUS | .SLU_XP_CFG | .SLU_GP_CFG => 60 + l.half
  | .RACE_CTRL | .RACE_STATUS | .RACE_SCHED_CFG | .RACE_TIM0 | .RACE_TIM1 | .RACE_TIM2 | .RACE_TIM3 | .RACE_TIM4
  | .RACE_MR_CMD | .RACE_ERR | .RACE_REF_CFG | .RACE_REF_STAT | .RACE_REF_CNT | .RACE_SLOT_SHD | .RACE_SLOT_ACT
  | .RACE_SLOT_STAT | .SPIN_STAT | .SPIN_REPAIR | .SPIN_SID | .SPIN_DLY | .QRN_CNT | .QRN_PIN => i
  | .FAN_CFG | .FAN_CTRL => 66 + l.half
  | .QRN_WMAP_CFG | .QRN_WMAP_STAT | .QRN_SCRUB_CFG | .QRN_SCRUB_STAT | .QRN_ERR_CFG | .QRN_UE_LOG | .QRN_ROW_LOG =>
    68 + l.half
  | .DRS_CTRL | .DRS_STAT | .DRS_ISOL | .DRS_SOFT | .DRS_FUSE => 78
  | .HST_CFG | .HST_STATUS | .HST_CEIL | .HST_RATE | .HST_RESTORE => 64 + l.half
  | .GOV_SUP_STAT | .GOV_WAKE => 79
  | .GOV_TURN | .GOV_STATUS | .GOV_PWR_CFG | .GOV_PWR_CTRL | .GOV_BK_CFG | .GOV_BK_STAT | .GOV_AVS_CFG | .GOV_THERM_CFG
  | .GOV_STEP_CFG | .GOV_TEMP | .GOV_RST_CTRL => 74
  | .BRK_CTRL | .BRK_SAFE | .BRK_HIST_STAT | .BRK_INJ | .BRK_SRC_CFG | .BRK_SRC_STAT | .BRK_HIST_LO | .BRK_HIST_HI => 75
  | .TLY_CFG | .TLY_RING | .TLY_STAT | .TLY_SAMP_CFG | .TLY_SAMP0 | .TLY_SAMP1 | .TLY_BW_MOD | .TLY_BW_GRP | .TLY_HEAT_IDX
  | .TLY_HEAT_DATA | .TLY_USER | .TLY_CNT => 70 + l.half
  | .MIL_BOOT | .MIL_MB_REQ | .MIL_MB_RSP | .MIL_MB_CTRL | .MIL_FW_VER => 62 + l.half
  | .MIL_I3C_STAT | .MIL_I3C_CFG => 79
  | .MMK_FITTED | .MMK_LC | .MMK_UID | .MMK_STAT => 76
  | .TST_CTRL | .TST_STAT | .TST_LBIST_FAIL | .TST_LBIST_FAIL1 | .TST_MBIST_FAIL | .TST_IDCODE | .TST_DSEL => 77

/-- Half of a domain; device-wide domains count as East. -/
def domHalf (d : Nat) : Nat :=
  if d < 32 then d / 16 else if d < 52 then (d - 32) / 10 else if d < 60 then (d - 52) / 4 else if d ≤ 73 then d % 2 else 0
/-- The half that a MGMT offset reaches across the fabric (R410): that of the register's unit, that of the offset for a West mirror; none for
the device-wide units and AON, which use no fabric (R467). -/
def offsetHalf (off : Nat) : Option Nat :=
  match (match locate off with | some l => some l | none => if off < 4 then none else locate (off - 4)) with
  | some l => if l.mirror then some 1 else if regDomain l < 74 then some (domHalf (regDomain l)) else none
  | none => none

/-- Registers that only Miller firmware writes (R211, R239, R259, R377, R383, R408). -/
def Reg.fwOnly (r : Reg) : Bool :=
  r ∈ ([.RACE_SLOT_SHD, .SLU_SLOT_SWAP, .HOP_STREAM, .WEIR_GRP, .GOV_PWR_CTRL, .GOV_PWR_CFG, .GOV_THERM_CFG, .GOV_STEP_CFG]
    : List Reg) ++ ([.BRK_SRC_CFG, .TLY_CFG, .TLY_RING, .TLY_USER, .TLY_HEAT_DATA] : List Reg)

/-- Registers whose write takes effect at the next Turn boundary (R152, R204, R236, R239, R240, R259, R422). The stream table,
the timing registers, RACE_REF_CFG, SLU_XP_CFG, WEIR_CFG, WEIR_WM, and the thermal settings. -/
def Reg.delayed (r : Reg) : Bool :=
  r ∈ ([.RACE_TIM0, .RACE_TIM1, .RACE_TIM2, .RACE_TIM3, .RACE_TIM4, .RACE_REF_CFG, .SLU_XP_CFG, .HOP_STREAM] : List Reg)
    ++ ([.WEIR_CFG, .WEIR_WM, .GOV_THERM_CFG, .GOV_STEP_CFG] : List Reg)

end Sys2Proof.Machine
end

