-- ==== Sys2Proof/Machine/Ops.lean ====
section
/-!
DEFINITION. The operations that the commands share: counting an event (R394), raising a Brake source (R382 to R390) and the
safe state (R385), answering a request (R74), clearing reservations (R113), dropping a store (R126), the DRAM content and the
written map (R137 to R139), dirty pages (R310, R311), isolation (R303).
-/
namespace Sys2Proof.Machine

/-- A command whose event takes place under a condition: the new state then, and the state as it stands otherwise. -/
def when (c : Bool) (f : State → State) (s : State) : State := if c then f s else s
/-- A pulse of a pin counts from `hi` ns on, and not below `lo`; between them a free choice says (R477, R480). -/
def State.pulseSeen (s : State) (ns lo hi : Nat) : Bool := decide (hi ≤ ns) || (decide (lo ≤ ns) && Config.freeBool s.freeCtr)
/-- That choice is made. -/
def State.pulseDrawn (s : State) (ns lo hi : Nat) : State := if lo ≤ ns ∧ ns < hi then { s with freeCtr := s.freeCtr + 1 } else s
/-- Do f for every element in order. -/
def each {α : Type} (l : List α) (f : α → State → State) (s : State) : State := l.foldl (fun s x => f x s) s

/-! ### Tally (R394) -/

/-- Count n events in counter i of a bank, modulo 2^48. -/
def Tly.bump (t : Tly) (bank i n : Nat) : Tly :=
  { t with cnt := t.cnt.put 0 (256 * bank + i) ((t.cnt.get 0 (256 * bank + i) + n) % 2 ^ 48) }
def State.tally (s : State) (h bank i n : Nat) : State :=
  { s with tlyE := if h = 0 then s.tlyE.bump bank i n else s.tlyE
           tlyW := if h = 0 then s.tlyW else s.tlyW.bump bank i n }
/-- Event e of a module (bank 0), in its half. -/
def State.tallyMod (s : State) (m e n : Nat) : State := s.tally (modHalf m) 0 (8 * (m % 10) + e) n
/-- Event e of a class (bank 1). -/
def State.tallyCls (s : State) (h c e n : Nat) : State := s.tally h 1 (8 * c + e) n
/-- Event e of a race (bank 3). -/
def State.tallyRace (s : State) (r e n : Nat) : State := s.tally (raceHalf r) 3 (12 * (r % 16) + e) n
/-- Event e of the store bank (bank 5). -/
def State.tallyStore (s : State) (h e n : Nat) : State := s.tally h 5 e n

/-! ### Wake events (R359) -/

/-- The source is enabled; sources 7 to 9 always are. -/
def State.wakeOn (s : State) (c : Nat) : Bool := decide (c ≥ 7) || bit (s.fheld Fld.GOV_WAKE_EN) (c - 1)
/-- The source wakes the state (R359). -/
def State.wakeTable (s : State) (c : Nat) : Bool :=
  match s.gov.ps with
  | .run => false
  | .idle => c = 1 || c = 3 || c = 7 || c = 8 || c = 9
  | .furl | .fullFurl => (decide (1 ≤ c) && decide (c ≤ 5)) || (c = 6 && s.gov.drainFurl)
  | .off => c = 1 || c = 3 || c = 4
/-- The source would wake the state that is being entered. -/
def State.wakeLatches (c : Nat) (e : PState) : Bool :=
  match e with
  | .run => false
  | .idle => c = 1 || c = 3 || c = 7 || c = 8 || c = 9
  | .furl | .fullFurl => decide (1 ≤ c) && decide (c ≤ 5)
  | .off => c = 1 || c = 3 || c = 4
/-- A wake event: latched during an entry, otherwise the start of a wake; LAST records it. -/
def State.wakeEvent (s : State) (c : Nat) : State :=
  if !s.wakeOn c then s
  else
    match s.gov.entry with
    | some e => if State.wakeLatches c e then { s.fset Fld.GOV_WAKE_LAST c with gov := { s.gov with wakeLatch := some c } } else s
    | none =>
      if s.wakeTable c && s.gov.wake.isNone then { s.fset Fld.GOV_WAKE_LAST c with gov := { s.gov with wake := some (c, 0, 0) } } else s

/-! ### The Brake (R378 to R390) -/

/-- One raise of a source pair as the Brake sees it. `sev` names a severity that acts whatever is programmed (R382). -/
structure RaiseEv where
  src : Nat
  inst : Nat
  detail : Nat := 0
  wire : Bool := false
  esc : Bool := false
  inj : Bool := false
  quiet : Bool := false
  sev : Option Nat := none
deriving DecidableEq, Repr

/-- Key of a source pair. -/
def pairKey (src inst : Nat) : Nat := 64 * src + inst
/-- The severity in force of a source: in the mc of a write the old one (R383, R384). -/
def State.sevOf (s : State) (src : Nat) : Nat :=
  match s.brk.sevOld.find? src with
  | some (t, v) => if t = s.now then v else s.fheld Fld.BRK_SRC_CFG_SEV src
  | none => s.fheld Fld.BRK_SRC_CFG_SEV src
/-- The severity a raise acts at. -/
def State.evSev (s : State) (e : RaiseEv) : Nat := e.sev.getD (s.sevOf e.src)
/-- A source with races as instances (R381). -/
def srcIsRace (c : Nat) : Bool := c ∈ ([0x06, 0x10, 0x11, 0x12, 0x13, 0x18, 0x19, 0x1A, 0x1C] : List Nat)
/-- A source with host modules as instances (R381). -/
def srcIsMod (c : Nat) : Bool := c = 0x04 ∨ c = 0x05
/-- The half of an instance; device-wide sources act for East (R381, R382). -/
def instHalf (src inst : Nat) : Nat :=
  if srcIsRace src then inst / 16
  else if srcIsMod src then inst / 10
  else if src = Src.LAY_LINK then inst / 8
  else if src = Src.HST_DRIVE then inst / 4
  else if src ∈ ([0x03, 0x14, 0x20, 0x22, 0x23, 0x24] : List Nat) then inst
  else 0

/-- Sources raised in this mc (R384). -/
def State.raisedNow (s : State) : List Nat := if s.brk.justAt = s.now then s.brk.just else []
/-- Set the PEND bit (R390), and note the mc of the raise. -/
def State.pendSet (s : State) (src inst : Nat) : State :=
  ({ s with brk := { s.brk with just := pairKey src inst :: s.raisedNow, justAt := s.now } } : State).fset Fld.BRK_SRC_STAT_PEND
    (s.fheld Fld.BRK_SRC_STAT_PEND src ||| 2 ^ inst) src
/-- The two words of a history entry (R388). -/
def histLo (turn seq : Nat) : Word := BitVec.ofNat 64 (turn % 2 ^ 48 * 2 ^ 16 + seq % 2 ^ 16)
def histHi (e : RaiseEv) (sev : Nat) : Word :=
  BitVec.ofNat 64 (e.src % 256 * 2 ^ 56 + e.inst % 32 * 2 ^ 51 + sev % 8 * 2 ^ 48 + b2n e.inj * 2 ^ 47 + b2n e.esc * 2 ^ 46
    + b2n e.wire * 2 ^ 45 + e.detail % 2 ^ 40)
/-- Write a history entry, or count it in OVF while the ring is frozen (R389). -/
def State.histAdd (s : State) (e : RaiseEv) (sev : Nat) : State :=
  if s.fheld Fld.BRK_HIST_STAT_FROZEN = 1 then s.fadd Fld.BRK_HIST_STAT_OVF 1
  else
    let i := s.brk.seq % 16
    let s := s.setRaw .BRK_HIST_LO (Reg.key .BRK_HIST_LO i 0) (histLo s.clk.turn s.brk.seq)
    let s := s.setRaw .BRK_HIST_HI (Reg.key .BRK_HIST_HI i 0) (histHi e sev)
    let s := s.fset Fld.BRK_HIST_STAT_HEAD i
    { s with brk := { s.brk with seq := s.brk.seq + 1 } }

/-- A race already isolated, or a module already DOWN (R384). -/
def State.outOfService (s : State) (src inst : Nat) : Bool :=
  (srcIsRace src && s.isolated inst) || (srcIsMod src && (s.mod inst).st = .down)
/-- The instance has been named for a boundary. -/
def State.named (s : State) (src inst : Nat) : Bool :=
  (srcIsRace src && (inst ∈ s.brk.isoNext || inst ∈ s.brk.isoDue)) || (srcIsMod src && inst ∈ s.brk.downNext)

/-- The actions of severities 0 to 3 (R382), outside the safe state: interrupt, In-Band Interrupt with the wake from IDLE, and
the instance named for the next boundary. At severity 3 an instance already out of service has the history entry only (R384). -/
def State.brakeActs (s : State) (e : RaiseEv) (sev : Nat) (isolate : Bool) : State :=
  if sev = 3 && s.outOfService e.src e.inst then s
  else
    let int := decide (sev ≥ 1) && s.fb Fld.BRK_CTRL_INT_EN
    let ibi := decide (sev ≥ 2) && s.fb Fld.BRK_CTRL_IBI_EN && s.i3c.ibiMgmt
    let iso := decide (sev ≥ 3) && isolate && !s.named e.src e.inst
    let s := { s with
      out := { s.out with irq := if int then (instHalf e.src e.inst, e.src, e.inst) :: s.out.irq else s.out.irq
                          ibi := if ibi then ⟨0, e.src, e.inst, sev⟩ :: s.out.ibi else s.out.ibi }
      brk := { s.brk with isoNext := if iso && srcIsRace e.src then s.brk.isoNext ++ [e.inst] else s.brk.isoNext
                          downNext := if iso && srcIsMod e.src then s.brk.downNext ++ [e.inst] else s.brk.downNext } }
    if sev ≥ 2 then s.wakeEvent 0x9 else s

/-! ### Requests and responses -/

/-- The stream that a held response names. -/
def Resp.stream (r : Resp) : Nat := bits r.hdr.toNat 4 12
/-- The response a request gets (R74). -/
def Req.resp (q : Req) (code pmask mstat val now id : Nat) (cells : List Cell) : Resp :=
  { hdr := rspHdr code q.stream q.tag pmask mstat val, cells := cells, c0 := q.cls = 0, since := now, id := id, atom := Opc.atom q.opc }

/-- Answer a request: its response joins the module's transmit buffer (R55, R79). A request that has no response (R67), whose
response was discarded at a link restart, or that has been answered, gets none. -/
def State.answer (s : State) (id code pmask mstat val : Nat) (cells : List Cell) : State :=
  match s.hop.reqs.find? id with
  | none => s
  | some q =>
    if q.answered || !Opc.answered q.opc then s
    else
      let x := s.mod q.m
      let s := { s with
        hop := { s.hop with reqs := s.hop.reqs.ins id { q with answered := true } }
        mods := s.mods.ins q.m { x with tx := x.tx ++ [q.resp code pmask mstat val s.now id cells] } }
      if code = Rc.poison then s.tallyCls (modHalf q.m) q.cls 7 1 else s

/-- Change a request's record. -/
def State.updReq (s : State) (id : Nat) (f : Req → Req) : State :=
  match s.hop.reqs.find? id with
  | some q => { s with hop := { s.hop with reqs := s.hop.reqs.ins id (f q) } }
  | none => s

/-- A request's record satisfies p. -/
def State.reqIs (s : State) (id : Nat) (p : Req → Bool) : Bool :=
  match s.hop.reqs.find? id with | some q => p q | none => false

/-- Nothing more will happen to the request: performed or dropped, answered if it is answered at all, token acknowledged. -/
def Req.finished (q : Req) : Bool :=
  (q.phase = .performed || q.phase = .dropped || q.phase = .done) && (q.answered || !Opc.answered q.opc)
    && (q.tok = 0 || q.tok = 3 || q.phase = .dropped)
/-- Drop the record of a finished request, and give its Hopper entry back. -/
def State.reap (s : State) (id : Nat) : State :=
  match s.hop.reqs.find? id with
  | some q => if q.finished then { s with hop := { s.hop with reqs := s.hop.reqs.del id } } else s
  | none => s
/-- Not yet performed, dropped or done: a barrier that covers it waits (R120). -/
def Req.open_ (q : Req) : Bool := q.phase = .accepted || q.phase = .working

/-- The response code and PMASK of a read whose cells are bound. -/
def Req.readCode (q : Req) : Nat := if q.pmask = 0 then Rc.ok else Rc.poison
/-- Cells of memory that an addressed request names (R68). -/
def Req.cells (q : Req) : Nat := if q.opc = Opc.rd ∨ q.opc = Opc.wr ∨ q.opc = Opc.wrn then lenCells q.len else 1
/-- The byte address lies in a cell that the request names. -/
def Req.names (q : Req) (a : Nat) : Bool := Opc.addressed q.opc && decide (q.addr / 64 ≤ a / 64) && decide (a / 64 < q.addr / 64 + q.cells)
/-- Two requests name a cell in common. -/
def Req.meets (q o : Req) : Bool :=
  Opc.addressed q.opc && Opc.addressed o.opc && decide (q.addr / 64 < o.addr / 64 + o.cells) && decide (o.addr / 64 < q.addr / 64 + q.cells)
/-- The half that orders a request in a split: of its target, or else the one it landed in (R468, R469). -/
def Req.side (q : Req) : Nat := if Opc.addressed q.opc then q.target else q.landHalf
/-- Stream order holds between request `id` and another: in a split only within one half (R469). -/
def State.ordered (s : State) (id : Nat) (o : Req) : Bool := !s.lay.split || s.reqIs id (fun q => q.side = o.side)
/-- A request of the stream issued before number `id`, and ordered with it, satisfies p (R93). -/
def State.earlier (s : State) (id stream : Nat) (p : Req → Bool) : Bool :=
  s.hop.reqs.rows.any (fun kv => decide (kv.1 < id) && kv.2.stream = stream && s.ordered id kv.2 && p kv.2)
/-- Cells the request's response carries. -/
def Req.nCells (q : Req) : Nat :=
  if q.opc = Opc.rd then lenCells q.len else if q.opc = Opc.rdx ∨ q.opc = Opc.amo then 1 else 0
/-- Bind cell k of a read (R94, R99); the last one performs and answers it. -/
def State.bindCell (s : State) (id k : Nat) (c : Cell) (psn : Bool) : State :=
  match s.hop.reqs.find? id with
  | none => s
  | some q =>
    let q := { q with got := q.got.ins k c, pmask := if psn then q.pmask ||| 2 ^ k else q.pmask }
    let s := { s with hop := { s.hop with reqs := s.hop.reqs.ins id q } }
    if q.got.rows.length = q.nCells then
      let s := s.answer id q.readCode q.pmask 0 0 q.got.vals
      (s.updReq id (fun q => { q with phase := .performed })).reap id
    else s
/-- End a request with a code and no data: it is never performed (R126) or ends as `ph` says. -/
def State.endReq (s : State) (id code : Nat) (ph : ReqPhase) : State :=
  ((s.answer id code 0 0 0 []).updReq id (fun q => { q with phase := ph })).reap id

/-! ### Reservations (R110 to R113) -/

/-- Clear the reservations that satisfy p (stream, reservation). -/
def State.clearResv (s : State) (p : Nat → Resv → Bool) : State :=
  { s with hop := { s.hop with resv := s.hop.resv.keep (fun k r => !p k r) } }
/-- The reservation holds a cell that a write touches. -/
def Resv.holds (r : Resv) (a : Nat) : Bool := decide (r.base ≤ a) && decide (a < r.base + r.size)
/-- A store that becomes visible to a cell clears every reservation on its granule. -/
def State.touch (s : State) (a : Nat) : State := s.clearResv (fun _ r => r.holds a)
/-- Granule size (R110). -/
def State.granule (s : State) : Nat := 128 * 2 ^ s.fheld Fld.HOP_ORD_CFG_GRAN

/-! ### Places (R132) -/

def State.nsid (s : State) : Nat := nsidOf s.ld
def State.hashMask (s : State) : Nat := s.fheld Fld.HOP_AMAP_CFG_HASH_MASK
def State.place (s : State) (a : Nat) : Place := decodeAddr s.nsid s.hashMask a
/-- Race of a byte address. -/
def State.raceAt (s : State) (a : Nat) : Nat := (s.place a).race
/-- Written-map block number of a byte address: 32 × v + race (R137). -/
def State.blockOf (s : State) (a : Nat) : Nat := let p := s.place a; 32 * p.v + p.race
/-- The block is treated as WRITTEN: its map bit is set, or the half's map is off (R138, R147). -/
def State.isWritten (s : State) (a : Nat) : Bool :=
  s.dram.wmap.get false (s.blockOf a) || s.fheld Fld.QRN_WMAP_CFG_EN 0 (raceHalf (s.raceAt a)) = 0
/-- The epoch tag of a half (R282, R312). -/
def State.epochTag (s : State) (h : Nat) : Nat := (s.hst h).epoch % 8

/-! ### DRAM content -/

/-- What an unlisted cell of a block holds where the model fixes it: the zeros of the block's fill. -/
def Dram.base (d : Dram) (blk : Nat) : Option Codeword := (d.zeroed.find? blk).map (fun e => storeWord 0 false e)
/-- The codeword of a cell: number (byte address / 64) and block. Content that nothing has written since it was lost is
undefined (R138): a free value, log entry 9. -/
def Dram.word (d : Dram) (n blk : Nat) : Codeword :=
  match d.cells.find? n with
  | some w => w
  | none => (d.base blk).getD (Config.dramPowerOn (d.era * 2 ^ 34 + n))
/-- Store a codeword, keeping the canonical form. -/
def Dram.store (d : Dram) (n blk : Nat) (w : Codeword) : Dram :=
  { d with cells := if d.base blk = some w then d.cells.del n else d.cells.ins n w }
def State.cellWord (s : State) (a : Nat) : Codeword := s.dram.word (a / 64) (s.blockOf a)
def State.storeCell (s : State) (a : Nat) (w : Codeword) : State := { s with dram := s.dram.store (a / 64) (s.blockOf a) w }
/-- A fill is complete (R143): the block's map bit is set, and its unlisted cells are zeros of an epoch; a cell whose burst carried an
earlier epoch (R282) stays listed. -/
def State.zeroBlock (s : State) (blk epoch : Nat) : State :=
  { s with dram := { s.dram with
      cells := s.dram.cells.keep (fun n w => s.blockOf (n * 64) ≠ blk || w ≠ storeWord 0 false epoch)
      zeroed := s.dram.zeroed.ins blk epoch
      wmap := s.dram.wmap.ins blk true } }

/-! ### Dirty pages (R309 to R312) -/

/-- Half of a page: of its race. -/
def State.pageHalf (s : State) (a : Nat) : Nat := raceHalf (s.raceAt a)
/-- Mark the page of an address dirty by a store. -/
def Hst.markDirty (x : Hst) (page : Nat) : Hst :=
  { x with dirty := x.dirty.ins page true
           oldest := if (x.oldest.find? (page / 512)).isSome then x.oldest else x.oldest.ins (page / 512) x.epoch }
def State.dirtyAt (s : State) (a : Nat) : State :=
  if hoistFitted s.ld then
    let h := s.pageHalf a
    { s with hstE := if h = 0 then s.hstE.markDirty (a / 4096) else s.hstE
             hstW := if h = 0 then s.hstW else s.hstW.markDirty (a / 4096) }
  else s
/-- The dirty total (R311, R313). -/
def Hst.dirtyTotal (x : Hst) : Nat :=
  if x.resync then x.ceil
  else x.dirty.rows.length + x.inflight.length + 256 * x.held.length + 32 * x.granted.length
/-- No entry is handed out for stores (R320): the states that close them, the seal of a flush, headers not OPEN. -/
def Hst.shut (x : Hst) : Bool :=
  !(x.st = .serve || x.st = .steady || x.st = .alert || x.st = .flush) || x.sealing || !x.headerOpen
/-- FILL_RES (R320). -/
def fillRes : Nat := 32 * (8192 + 256)

/-! ### The safe state (R385, R386) -/

/-- The requests that the safe state answers FAULTED: everything that has a response and has not been answered. -/
def State.faultAll (s : State) : State :=
  each s.hop.reqs.keys (fun id s =>
    match s.hop.reqs.find? id with
    | none => s
    | some q =>
      if Opc.answered q.opc && !q.answered then
        let keep := Opc.tokened q.opc
        ((s.answer id Rc.faulted 0 0 0 []).updReq id (fun q => if keep then q else { q with phase := .dropped })).reap id
      else s) s
/-- A race in the safe state: it drops the reads of requests and background units; its stores stand. -/
def Race.quiet (x : Race) : Race := { x with rq := x.rq.filter (fun e => e.kind = .fau) }
/-- A runtime retraining of a race, running or asked for, is stopped (R276): its FAN_CTRL bit is cleared by hardware. -/
def State.stopRetrain (s : State) (r : Nat) : State :=
  let st := s.fheld Fld.SPIN_STAT_STATE r
  let h := r / 16
  let f := s.fan h
  let x := s.race r
  if f.running = some r || r ∈ f.queue then
    let s := s.fset Fld.FAN_CTRL_RETRAIN (setBits (s.fheld Fld.FAN_CTRL_RETRAIN 0 h) (r % 16) 1 0) 0 h
    let s := s.setFan h { queue := f.queue.filter (· ≠ r), running := if f.running = some r then none else f.running }
    let s := if st = 3 || (st = 4 && x.tr.checkFail) then s.fset Fld.SPIN_STAT_STATE 6 r else s
    s.setRace r { x with tr := { x.tr with retrain := false, hold := false, checkFail := false, saved := {}, savedDead := [] } }
  else s
/-- Every retraining stops at once (R276). -/
def State.stopRetrains (s : State) : State :=
  each (s.fanE.running.toList ++ s.fanW.running.toList ++ s.fanE.queue ++ s.fanW.queue) (fun r s => s.stopRetrain r) s
/-- Of the resets asked for, only those of R387 outlast the entry into the safe state; races that handed over for another go on (R456). -/
def Boot.inSafe (b : Boot) : Boot :=
  let ends := fun k : Option ResetKind => k.filter (fun k => k = .warm || k = .restartDrain || k = .powerOn)
  match ends b.pend with
  | some _ => { b with after := ends b.after }
  | none => { b with pend := ends b.after, after := none, settle := none, settled := false, closed := 0 }
/-- The levels at which the test controller's pads stand. -/
def Tst.pads (t : Tst) : BitVec 1248 × BitVec 984 × Bool × Bool := (t.bnd, t.tsv, t.drive, t.highz)
/-- Enter the safe state: SAFE, BRK_SAFE, the frozen history; requests are answered FAULTED, background reads stop, the test controller's
pads are latched, and the drain is given at the next boundary when Alert is in force. -/
def State.enterSafe (s : State) (e : RaiseEv) : State :=
  if s.brk.safe then s
  else
    let w : Word := BitVec.ofNat 64 (2 ^ 63 + b2n e.wire * 2 ^ 62 + e.inst % 32 * 2 ^ 57 + e.src % 256 * 2 ^ 49 + s.clk.turn % 2 ^ 48)
    let s := s.setRaw .BRK_SAFE (Reg.key .BRK_SAFE 0 0) w
    let s := s.fset Fld.BRK_HIST_STAT_FROZEN 1
    let s := s.faultAll.stopRetrains
    { s with
      brk := { s.brk with safe := true, safeAt := s.now }
      races := s.races.mapv (fun _ x => { x.quiet with inReset := false })
      boot := s.boot.inSafe, mil := { s.mil with softAt := none }
      out := { s.out with tstPads := some (s.out.tstPads.getD s.tst.pads) }
      gov := { s.gov with drainNext := s.gov.drainNext || (s.gov.alert && !s.gov.drain) } }

/-! ### Flume entries that close, and the scope of a barrier (R105, R118 to R120) -/

/-- Close the open entries that satisfy p. -/
def State.flumeClose (s : State) (p : FlumeEnt → Bool) : State :=
  { s with flume := mapIf (fun e => !e.closed && p e) (fun e => { e with closed := true }) s.flume }
/-- A stream in the scope of a barrier. -/
def State.inScope (s : State) (q : Req) (stream : Nat) : Bool :=
  if q.opc = Opc.barS then stream = q.stream
  else if q.opc = Opc.barG then s.fget Fld.HOP_STREAM_GROUP stream = q.grp
  else true
/-- The requests that a barrier covers (R119). -/
def State.covered (s : State) (id : Nat) (b : Req) : List (Nat × Req) :=
  s.hop.reqs.rows.filter (fun kv =>
    (kv.2.stream = b.stream ∧ kv.1 < id) ∨
      (kv.1 ≠ id ∧ kv.2.stream ≠ b.stream ∧ !Opc.barrier kv.2.opc ∧ s.inScope b kv.2.stream = true ∧ kv.2.turn ≤ b.turn))
/-- A barrier that has not completed covers the request. -/
def State.barCovers (s : State) (id : Nat) : Bool :=
  s.hop.reqs.rows.any (fun kv => Opc.barrier kv.2.opc && kv.2.open_ && (s.covered kv.1 kv.2).any (fun e => e.1 = id))
/-- What the acceptance of a request does to the ordering state at once: a barrier closes the open Flume entries in its scope
(R120), and a WRC ties its stream's reservation to its module (R113). -/
def State.onAccept (s : State) (q : Req) : State :=
  if Opc.barrier q.opc then s.flumeClose (fun e => s.inScope q e.stream)
  else if q.opc = Opc.wrc then
    { s with hop := { s.hop with resv := s.hop.resv.mapv (fun k r => if k = q.stream then { r with mods := q.m :: r.mods } else r) } }
  else s

/-! ### Raising sources (R384) -/

/-- Insert into a list of raises by code, then instance. -/
def insRaise (e : RaiseEv) : List RaiseEv → List RaiseEv
  | [] => [e]
  | x :: r => if pairKey e.src e.inst ≤ pairKey x.src x.inst then e :: x :: r else x :: insRaise e r
/-- An injection drives the pair at its source end until STOP (R392): what the source itself does is not seen. -/
def State.heldPair (s : State) (src inst : Nat) : Bool :=
  match s.brk.inj with
  | some (c, i, _, _) => decide (c = src) && decide (i = inst)
  | none => false
/-- A raise is seen: the Brake's own domain is on (R379), the pair is not broken (or the raise is the broken pair's own) nor driven by an injection, and a level source was
not active. -/
def State.raiseSeen (s : State) (e : RaiseEv) : Bool :=
  match srcRow e.src with
  | none => false
  | some r => s.mainsOn && decide (e.inst < r.n) && (e.wire || !s.brk.broken.get false (pairKey e.src e.inst))
      && (e.inj || e.wire || !s.heldPair e.src e.inst)
      && (e.wire || !r.lvl || !s.brk.cause.get false (pairKey e.src e.inst))
/-- The cause of a level source begins. A broken pair that acts under R380 shows no cause. -/
def State.causeOn (s : State) (e : RaiseEv) : State :=
  match srcRow e.src with
  | some r =>
    if r.lvl && !e.wire then { s with brk := { s.brk with cause := s.brk.cause.ins (pairKey e.src e.inst) true } } else s
  | none => s
/-- The cause of a level source ends (R390). A broken pair shows no clear (R380); behind a held injection the end is noted. -/
def State.causeOff (s : State) (src inst : Nat) : State :=
  if s.brk.broken.get false (pairKey src inst) then s
  else if s.heldPair src inst then { s with brk := { s.brk with under := false } }
  else { s with brk := { s.brk with cause := s.brk.cause.del (pairKey src inst) } }
/-- A raise behind a held injection is noted. -/
def State.noteUnder (s : State) (l : List RaiseEv) : State :=
  if l.any (fun e => !e.inj && !e.wire && s.heldPair e.src e.inst) then { s with brk := { s.brk with under := true } } else s
/-- One raise: PEND, history, and its actions. The fixed severity of GOV_TEMP is an escalation (R382). In the safe state only PEND and the history (R384). -/
def State.raiseOne (s : State) (e : RaiseEv) (isolate : Bool) : State :=
  let e := { e with esc := e.esc || e.src = Src.GOV_TEMP }
  let sev := s.evSev e
  let s := ((s.causeOn e).pendSet e.src e.inst).histAdd e sev
  if s.brk.safe then s else s.brakeActs e sev isolate
/-- The raises of one mc (R384): in ascending code and instance; the safe state is entered after the last entry, and no
isolation is made then. -/
def State.raiseAll (s : State) (l : List RaiseEv) : State :=
  let evs := (l.filter s.raiseSeen).foldr insRaise []
  let s := s.noteUnder l
  let four := evs.filter (fun e => s.evSev e = 4 ∧ !e.quiet)
  let t := each evs (fun e s => s.raiseOne e (four.isEmpty && !e.quiet)) s
  match four with
  | [] => t
  | e :: _ => t.enterSafe e
/-- Raise one source. -/
def State.raise (s : State) (src inst detail : Nat) : State := s.raiseAll [{ src := src, inst := inst, detail := detail }]

/-! ### Dropped stores (R124, R126) -/

/-- Set the LOST marks of a stream, its group and the device. -/
def State.markLost (s : State) (stream : Nat) : State :=
  let g := s.fget Fld.HOP_STREAM_GROUP stream
  { s with hop := { s.hop with lostS := s.hop.lostS.ins stream true, lostG := s.hop.lostG.ins g true, lostD := true } }
/-- Record a dropped store in HOP_LOST_LOG of its half (R129). -/
def State.logLost (s : State) (h stream a : Nat) : State :=
  if s.fheld Fld.HOP_LOST_LOG_VALID 0 h = 0 then
    s.setRaw .HOP_LOST_LOG (Reg.key .HOP_LOST_LOG 0 h)
      (BitVec.ofNat 64 (2 ^ 63 + stream % 4096 * 2 ^ 51 + 1 * 2 ^ 40 + (a / 64) % 2 ^ 34 * 2 ^ 6))
  else s.fadd Fld.HOP_LOST_LOG_COUNT 1 0 h
/-- Drop an accepted store of a stream to a cell. -/
def State.dropStore (s : State) (stream a : Nat) : State :=
  let r := s.raceAt a
  ((s.markLost stream).logLost (raceHalf r) stream a).raise Src.POND_LOST r ((a / 64) % 2 ^ 34)

/-! ### Link restart (R58) -/

/-- The module's state after it discards its replay buffers, verdicts, fences and held responses (R58, R113). -/
def ModSt.restarted (x : ModSt) (st : ModState) : ModSt :=
  { x with st := st, attempts := 0, replay := [], txSeq := 0, ack := 0x3FF, nak := false, dataQ := [], landed := 0, verdQ := [],
           fences := {}, tx := [], part := none, resend := [], hostNak := false, nakAck := none, hostAck := 0x3FF,
           sameRep := {}, repWin := 0, flitCt := 0, postRecal := none, ftime := 0, sent := {}, loss := [] }
/-- Streams with an RDX, AMO or WRC on the module whose response has not reached the host for certain (R59): not made, held, or in a flit
that is not acknowledged. -/
def State.lossStreams (s : State) (m : Nat) : List Nat :=
  let x := s.mod m
  (s.hop.reqs.vals.filter (fun q => q.m = m ∧ !q.answered ∧ Opc.atom q.opc = true)).map (fun q => q.stream)
    ++ ((x.tx ++ x.part.toList).filter (fun r => r.atom)).map Resp.stream ++ x.loss.map Prod.snd
/-- The held responses of a module are discarded: its requests get none (R58). The reservations that an RDX or WRC of the module carried are
lost, and any of a stream whose RDX, AMO or WRC has an unknown outcome (R59, R113). -/
def State.discardResp (s : State) (m : Nat) : State :=
  { s with hop := { s.hop with
      reqs := (s.hop.reqs.mapv (fun _ q => if q.m = m then { q with answered := true } else q)).keep (fun _ q => !q.finished)
      resv := s.hop.resv.keep (fun k r => !r.mods.contains m && !(s.lossStreams m).contains k) } }
/-- Entry to TRAIN (R57): the first attempt begins, at the RATE_MAX and X32_OK of this moment (R92). -/
def State.toTrain (s : State) (m : Nat) : State :=
  { s with mods := s.mods.ins m { (s.mod m).restarted .train with
      stAt := s.clk.age, rateCap := s.fget Fld.HEAD_MOD_CTRL_RATE_MAX m, x32Cap := s.fb Fld.HEAD_MOD_CTRL_X32_OK m } }
/-- A link restart: entry to TRAIN from OPEN, ACTIVE or RECAL (R58). -/
def State.linkRestart (s : State) (m : Nat) : State :=
  let s := s.discardResp m
  let s := s.toTrain m
  let s := s.fset Fld.HEAD_MOD_CTRL_RESTART 0 m
  let s := s.fset Fld.HEAD_MOD_CTRL_RECAL 0 m
  let s := s.fadd Fld.HEAD_MOD_STATUS_RESTARTS 1 m
  s.raise Src.HEAD_LINK m 0
/-- Enter RECAL (R57): flit exchange paused, everything kept but the counts of R89, which start again (log entry 97). -/
def State.enterRecal (s : State) (m : Nat) : State :=
  { s with mods := s.mods.ins m { s.mod m with st := .recal, stAt := s.clk.age, sameRep := {}, repWin := 0 } }

/-! ### Isolation (R303, R304) -/

/-- The isolation decision for a race: recorded, no further command, fills discarded, and the epoch noted in the half's headers (R339). -/
def State.isolMark (s : State) (r : Nat) : State :=
  let s := s.stopRetrain r
  let x := s.race r
  let s := s.fset Fld.DRS_ISOL_ISOL (s.fheld Fld.DRS_ISOL_ISOL ||| 2 ^ r)
  let s := s.setRace r { x with isoAt := some s.clk.age, run := false, fill := none, fillQ := [], filling := []
                                grantA := [], grantB := [], grantR := [] }
  let h := raceHalf r
  let hx := s.hst h
  let s := s.setHst h { hx with void := hx.void.ins r hx.epoch, hdrDue := true, granted := hx.granted.filter (fun b => b % 32 ≠ r)
                                asks := hx.asks.filter (fun b => b % 32 ≠ r) }
  { s with brk := { s.brk with isoNext := s.brk.isoNext.filter (· ≠ r), isoDue := s.brk.isoDue.filter (· ≠ r) } }
/-- A race is isolated, and DRS_ISOL raised. -/
def State.isolate (s : State) (r : Nat) : State := if s.isolated r then s else (s.isolMark r).raise Src.DRS_ISOL r 0

/-! ### Modes in which the device serves -/

/-- A half is serve-ready (R78, R334, R459). -/
def State.serveReady (s : State) (h : Nat) : Bool := if h = 0 then s.boot.readyE else s.boot.readyW
/-- The halves are split (R467). -/
def State.splitNow (s : State) : Bool := s.lay.split
/-- The race may issue commands: running, not isolated, its pads not held behind a wake (R358); an entry in progress latches the pads before
the races hand their SIDs over (R355). -/
def State.raceRuns (s : State) (r : Nat) : Bool := (s.race r).run && !s.isolated r && !(s.gov.pads && s.gov.entry.isNone)
/-- The race takes no store from the buffers: it is in reset, or its own reset settles (R460). -/
def State.raceHeld (s : State) (r : Nat) : Bool :=
  (s.race r).inReset || (s.boot.settle.isSome && (match s.boot.pend with | some (.race m) => bit m r | _ => false))
/-- The first race of a half to its last. -/
def halfRaces (h : Nat) : List Nat := (List.range 16).map (· + 16 * h)
def halfMods (h : Nat) : List Nat := (List.range 10).map (· + 10 * h)

end Sys2Proof.Machine
end

