-- ==== Sys2Proof/Machine/Queue.lean ====
section
/-!
DEFINITION. The queues of a race (R155, R156, R169) and their entries, and the budgets of the background units (R238, R316).
-/
namespace Sys2Proof.Machine

/-! ### Race queues as the buffers see them (R155, R156, R169) -/

def Race.wqAt (x : Race) (a : Nat) : Option WqEnt := x.wq.find? (fun e => e.addr = a)
/-- The cell is in the far-atomic unit, locked or waiting (R170). -/
def Race.inFau (x : Race) (a : Nat) : Bool := x.fau.any (fun e => e.addr = a)
/-- Regions of the fills of a race: the running one, then those that wait (R141). -/
def Race.fills (x : Race) : List Nat := (x.fill.map (fun f => f.v)).toList ++ x.fillQ
/-- Write-queue entries of the running fill: the next burst of each pseudo-race, which awaits issue (R155; log entry 96). -/
def Race.fillEnts (x : Race) : Nat :=
  match x.fill with
  | some f => (if f.doneA < 512 then 1 else 0) + (if f.doneB < 512 then 1 else 0)
  | none => 0
/-- Write-queue entries in use. -/
def Race.wqLevel (x : Race) : Nat := x.wq.length + x.fillEnts
/-- Write-queue entries free: those reserved for results of the far-atomic unit are not (R169). -/
def Race.wqRoom (x : Race) : Nat :=
  64 - x.wqLevel - ((x.fau.map (fun e => e.addr)).dedup.filter (fun a => (x.wqAt a).isNone)).length
/-- A store to the cell enters the race: a write-back that waits for a place gives way to it, and one from a read that waits or is under way
will (R286). -/
def Race.newer (x : Race) (a : Nat) : Race :=
  { x with backs := x.backs.filter (fun b => b.1 ≠ a), rq := mapIf (fun e => e.addr = a) (fun e => { e with stale := true }) x.rq
           flights := mapIf (fun f => f.addr = a) (fun f => { f with stale := true }) x.flights }
/-- Place a full store, of the host stores `strs`: it replaces an entry of its cell in place, or joins the queue (R156). -/
def Race.wqPut (x : Race) (a : Nat) (data : Cell) (psn : Bool) (epoch cls now : Nat) (own : WrOwner) (strs : List (Nat × Nat)) : Race :=
  let x := if own = .quern then x else x.newer a
  if (x.wqAt a).isSome then
    let f := fun e : WqEnt => { e with data := data, psn := psn, epoch := epoch, own := own, stores := strs }
    { x with wq := mapIf (fun e => e.addr = a) f x.wq }
  else
    { x with wq := x.wq ++ [⟨x.nextQ, a, data, psn, epoch, cls, now, own, strs⟩], nextQ := x.nextQ + 1, idleSince := none }
/-- Put the result of an atomic or a merge: the stores that the entry of its cell already held stay with it. -/
def Race.wqUpdate (x : Race) (a : Nat) (data : Cell) (psn : Bool) (epoch cls now id stream : Nat) : Race :=
  x.wqPut a data psn epoch cls now .host (((x.wqAt a).map (fun e => e.stores)).getD [] ++ [(id, stream)])
/-- Merge masked bytes into the entry of a cell; the entry's poison is kept (R289). -/
def Race.wqMerge (x : Race) (a : Nat) (data : Cell) (mask : BitVec 64) (epoch id stream : Nat) : Race :=
  let f := fun e : WqEnt => { e with data := mergeCell e.data data mask, epoch := epoch, own := .host, stores := e.stores ++ [(id, stream)] }
  { x.newer a with wq := mapIf (fun e => e.addr = a) f x.wq }
/-- Room in the read queue for n entries of a class: 8 of the 64 are for class 0 (R155), kept by letting classes 1 to 3 in only while the
queue as a whole holds at most 56 with them (log entry 94). -/
def Race.rqFits (x : Race) (cls n : Nat) : Bool := decide (x.rq.length + n ≤ (if cls = 0 then 64 else 56))
/-- A read joins the read queue. -/
def Race.rqPut (x : Race) (kind : RdKind) (id k a cls since : Nat) : Race :=
  { x with rq := x.rq ++ [{ qid := x.nextQ, kind := kind, id := id, k := k, addr := a, cls := cls, since := since }]
           nextQ := x.nextQ + 1, idleSince := none }

/-! ### Background budgets (R238, R244, R247, R316) -/

/-- Class of Hoist's requests: 1 in Alert and in a drain, else 3. -/
def State.hoistCls (s : State) : Nat := if s.gov.drain || s.gov.alert then 1 else 3
/-- Cells that background requests of a class may still present in this Turn. -/
def State.bgRoom (s : State) (cls : Nat) : Nat := if cls = 1 then s.weir.hLeft else s.weir.bgLeft
/-- Take n cells of a background budget. -/
def State.bgUse (s : State) (cls n : Nat) : State :=
  { s with weir := { s.weir with hLeft := if cls = 1 then s.weir.hLeft - n else s.weir.hLeft
                                 bgLeft := if cls = 1 then s.weir.bgLeft else s.weir.bgLeft - n } }

/-- The chunk of an address is DONE (R334): its requests are not held for a restore (R336). -/
def State.chunkDone (s : State) (a : Nat) : Bool := ((s.hst (raceHalf (s.raceAt a))).chunks.find? (a / 2 ^ 21)).isNone

end Sys2Proof.Machine
end

