-- ==== Sys2Proof/Machine/Timing.lean ====
section
/-!
DEFINITION. The timing rules of a race's command bus (R148 to R154, R163): the least distance of a command from each earlier
one, the activation windows, the data pins, and which commands are legal at an mc.
-/
namespace Sys2Proof.Machine

/-- The timing values in force of a race (R151, R152). -/
structure Tim where
  rcd : Nat
  rp : Nat
  ras : Nat
  rc : Nat
  rrdS : Nat
  rrdL : Nat
  rrdR : Nat
  faw : Nat
  ccdS : Nat
  ccdL : Nat
  ccdR : Nat
  rtp : Nat
  wr : Nat
  wtrS : Nat
  wtrL : Nat
  ppd : Nat
  rl : Nat
  wl : Nat
  cmd : Nat
  ret : Nat
  ta : Nat
  mrw : Nat
  mrd : Nat
  mrr : Nat
  refi : Nat
  rfcpb : Nat
  rfcab : Nat
  rfm : Nat
  rrefd : Nat
  rasmax : Nat
  xs : Nat
  sr : Nat
  xp : Nat
  pd : Nat
  aaw : Nat
deriving DecidableEq, Repr

def State.tim (s : State) (r : Nat) : Tim :=
  { rcd := s.fget Fld.RACE_TIM0_TRCD r, rp := s.fget Fld.RACE_TIM0_TRP r, ras := s.fget Fld.RACE_TIM0_TRAS r
    rc := max (s.fget Fld.RACE_TIM0_TRC r) (s.fget Fld.RACE_TIM0_TRAS r + s.fget Fld.RACE_TIM0_TRP r)
    rrdS := s.fget Fld.RACE_TIM0_TRRD_S r, rrdL := s.fget Fld.RACE_TIM0_TRRD_L r, rrdR := s.fget Fld.RACE_TIM0_TRRD_R r
    faw := s.fget Fld.RACE_TIM0_TFAW r, ccdS := s.fget Fld.RACE_TIM1_TCCD_S r, ccdL := s.fget Fld.RACE_TIM1_TCCD_L r
    ccdR := s.fget Fld.RACE_TIM1_TCCD_R r, rtp := s.fget Fld.RACE_TIM1_TRTP r, wr := s.fget Fld.RACE_TIM1_TWR r
    wtrS := s.fget Fld.RACE_TIM1_TWTR_S r, wtrL := s.fget Fld.RACE_TIM1_TWTR_L r, ppd := s.fget Fld.RACE_TIM1_TPPD r
    rl := s.fget Fld.RACE_TIM2_RL r, wl := s.fget Fld.RACE_TIM2_WL r, cmd := s.fget Fld.RACE_TIM2_TCMD r
    ret := s.fget Fld.RACE_TIM2_TRET r, ta := s.fget Fld.RACE_TIM2_TTA r, mrw := s.fget Fld.RACE_TIM2_TMRW r
    mrd := s.fget Fld.RACE_TIM2_TMRD r, mrr := s.fget Fld.RACE_TIM2_TMRR r, refi := s.fget Fld.RACE_TIM3_TREFI r
    rfcpb := s.fget Fld.RACE_TIM3_TRFCPB r, rfcab := s.fget Fld.RACE_TIM3_TRFCAB r, rfm := s.fget Fld.RACE_TIM3_TRFM r
    rrefd := s.fget Fld.RACE_TIM3_TRREFD r, rasmax := s.fget Fld.RACE_TIM4_TRASMAX r, xs := s.fget Fld.RACE_TIM4_TXS r
    sr := s.fget Fld.RACE_TIM4_TSR r, xp := s.fget Fld.RACE_TIM4_TXP r, pd := s.fget Fld.RACE_TIM4_TPD r
    aaw := s.fget Fld.RACE_TIM4_TAAW r }

/-- One burst (R151). -/
def tBURST : Nat := 2
/-- A read, a write or a mode-register read: it uses a column bus. -/
def Cmd.isCol (c : Cmd) : Bool := c = .rd || c = .wr || c = .mrr
/-- The command acts on every bank of its SID or race, in both pseudo-races (R148, R149). -/
def Cmd.wide (c : Cmd) : Bool := c = .sre || c = .srx || c = .pde || c = .pdx
/-- The race-wide commands. -/
def Cmd.power (c : Cmd) : Bool := c = .pde || c = .pdx

/-- Latency to the first mc of the data interval at the die (R153). -/
def Tim.lat (T : Tim) (c : Cmd) : Nat := if c = .wr then T.wl else if c = .mrr then T.mrr else T.rl
/-- First mc of the data interval of a column command issued in mc t. -/
def Tim.dataAt (T : Tim) (c : Cmd) (t : Nat) : Nat := t + T.cmd + T.lat c
/-- The mc of the strobe of a read (R174). -/
def Tim.strobe (T : Tim) (c : Cmd) (t : Nat) : Nat := T.dataAt c t + tBURST + T.ret

/-- The new command reaches the SID, the pseudo-race, the bank of an earlier one. A mode-register command names a die and no bank. -/
def hitsSid (p : CmdRec) (n : RowReq) : Bool := n.cmd.power || p.cmd.power || p.sid = n.sid
def hitsPr (p : CmdRec) (n : RowReq) : Bool := hitsSid p n && (n.cmd.wide || p.cmd.wide || p.pr = n.pr)
def hitsBank (p : CmdRec) (n : RowReq) : Bool :=
  !(n.cmd = .mrw || n.cmd = .mrr) && hitsPr p n && (n.cmd.wide || n.cmd = .refab || (p.bg = n.bg && p.bank = n.bank))

/-- The least distance of the rules of R151 from an earlier command to a new one. -/
def Tim.gap (T : Tim) (p : CmdRec) (n : RowReq) : Nat :=
  let sameB := hitsBank p n
  let sameS := p.sid = n.sid
  let sameG := p.bg = n.bg
  let ccd := if n.cmd.isCol ∧ p.pr = n.pr then (if sameS then (if sameG then T.ccdL else T.ccdS) else T.ccdR) else 0
  match p.cmd with
  | .act =>
    if n.cmd = .act then
      if sameB then max T.rc T.rrdL
      else if p.pr = n.pr then (if sameS then (if sameG then T.rrdL else T.rrdS) else T.rrdR)
      else 0
    else if (n.cmd = .rd ∨ n.cmd = .wr) ∧ sameB = true then T.rcd
    else if n.cmd = .pre ∧ sameB = true then T.ras else 0
  | .rd =>
    if n.cmd = .wr ∧ p.pr = n.pr then max ccd (T.rl + tBURST + T.ta - T.wl)
    else if n.cmd.isCol then ccd
    else if n.cmd = .pre ∧ sameB = true then T.rtp
    else if n.cmd = .pde then T.rl + tBURST + 1 else 0
  | .wr =>
    if n.cmd = .rd ∧ p.pr = n.pr ∧ sameS then max ccd (T.wl + tBURST + (if sameG then T.wtrL else T.wtrS))
    else if n.cmd.isCol then ccd
    else if n.cmd = .pre ∧ sameB = true then T.wl + tBURST + T.wr
    else if n.cmd = .pde then T.wl + tBURST + T.wr else 0
  | .pre =>
    if n.cmd = .pre then (if p.pr = n.pr then T.ppd else 0)
    else if (n.cmd = .act ∨ n.cmd = .refpb ∨ n.cmd = .rfm ∨ n.cmd = .refab ∨ n.cmd = .sre) ∧ sameB = true then T.rp else 0
  | .refpb | .rfm =>
    if sameB then (if p.cmd = .rfm then T.rfm else T.rfcpb)
    else if (n.cmd = .act ∨ n.cmd = .refpb ∨ n.cmd = .rfm) ∧ hitsPr p n = true then T.rrefd else 0
  | .refab => if hitsPr p n then T.rfcab else 0
  | .mrw => if hitsSid p n then (if n.cmd = .mrw then T.mrd else T.mrw) else 0
  | .mrr => if hitsSid p n then max ccd T.mrr else ccd
  | .sre => if n.cmd = .srx ∧ sameS then T.sr else 0
  | .srx => if hitsSid p n then T.xs else 0
  | .pde => if n.cmd = .pdx then T.pd else 0
  | .pdx => T.xp

/-- Two commands use the same bus of the race (R148): the row bus, or a pseudo-race's column bus. -/
def sameBus (p : CmdRec) (n : RowReq) : Bool :=
  if n.cmd.isCol then p.cmd.isCol && p.pr = n.pr else !p.cmd.isCol
/-- The data-pin rule (R153) between an earlier burst and a new one of the same pseudo-race; one burst in a slot (R154). -/
def Tim.pinsOk (T : Tim) (p : CmdRec) (n : RowReq) (ds : Nat) : Bool :=
  if !(p.cmd.isCol && n.cmd.isCol) || decide (p.pr ≠ n.pr) then true
  else
    decide (p.ds / 2 ≠ ds / 2)
      && (if ds ≥ p.ds then decide (ds ≥ p.ds + tBURST + (if n.cmd = .wr ∧ p.cmd ≠ .wr then T.ta else 0))
          else decide (p.ds ≥ ds + tBURST + (if n.cmd ≠ .wr ∧ p.cmd = .wr then T.ta else 0)))

/-- ACT commands of a pseudo-race (or of both: pr = none) to a SID within the last w mc. -/
def Race.actsIn (x : Race) (pr : Option Nat) (sid w t : Nat) : Nat :=
  countP (fun c : CmdRec => c.cmd = .act && c.sid = sid && (pr = none || pr = some c.pr) && decide (c.at_ + w > t)) x.hist

/-- Bank record of a request. -/
def Race.bankOf (x : Race) (n : RowReq) : Bank := x.banks.get {} (Sys2Proof.Machine.bankNo n.pr n.sid n.bg n.bank)
/-- Banks of a pseudo-race in a SID. -/
def bankKeys (pr sid : Nat) : List Nat := (List.range 32).map (fun i => (pr * 4 + sid) * 32 + i)
def Race.allClosed (x : Race) (pr sid : Nat) : Bool := (bankKeys pr sid).all (fun k => (x.banks.get {} k).row.isNone)

/-- The bank state a command needs (R149): ACT, REFpb and RFM a closed bank; RD and WR an open row; PRE an open row; REFab and
SRE every bank closed; power-down every bank of the race closed. -/
def Race.bankOk (x : Race) (nsid : Nat) (n : RowReq) : Bool :=
  let b := x.bankOf n
  match n.cmd with
  | .act | .refpb | .rfm => b.row.isNone
  | .rd | .wr => b.row = some n.row
  | .pre => b.row.isSome
  | .refab => x.allClosed n.pr n.sid
  | .sre => x.allClosed 0 n.sid && x.allClosed 1 n.sid
  | .pde => (List.range nsid).all (fun sd => x.allClosed 0 sd && x.allClosed 1 sd)
  | _ => true

/-- An ACT is not legal while the bank has an urgent refresh (R188), while its SID hands over (R199). -/
def Race.actOk (x : Race) (n : RowReq) : Bool :=
  n.cmd ≠ .act || (!(x.bankOf n).urgRef && !(x.bankOf n).urgRfm && (x.hand.find? n.sid).isNone)

/-- Self-refresh, power-down and the REFab that R203 asks for. -/
def Race.modeOk (x : Race) (n : RowReq) : Bool :=
  (x.pd.isNone || n.cmd = .pdx) && (n.cmd ≠ .pdx || x.pd.isSome)
    && (n.cmd.power || (if x.sref.get false n.sid then n.cmd = .srx else n.cmd ≠ .srx))
    && (x.mustRefab.isEmpty || n.cmd = .refab || n.cmd = .srx || n.cmd = .pdx)

/-- The command is legal in mc t (R151, R153, R163). -/
def State.legal (s : State) (r t : Nat) (n : RowReq) : Bool :=
  let x := s.race r
  let T := s.tim r
  x.modeOk n && x.bankOk s.nsid n && x.actOk n
    && x.hist.all (fun p => decide (p.at_ + T.gap p n ≤ t) && (!sameBus p n || decide (p.at_ < t)) && T.pinsOk p n (T.dataAt n.cmd t))
    && (n.cmd ≠ .act || (decide (x.actsIn (some n.pr) n.sid T.faw t < 4) && decide (x.actsIn none n.sid T.aaw t < s.aawEff r)))

/-- Longest look-back of the rules: records older than this are dropped. -/
def histKeep : Nat := 4600
/-- A command enters the record of the bus. -/
def Race.issue (x : Race) (n : RowReq) (t ds : Nat) : Race :=
  { x with hist := (⟨t, n.cmd, n.pr, n.sid, n.bg, n.bank, ds⟩ : CmdRec) :: x.hist.filter (fun p => decide (p.at_ + histKeep > t)) }
def Race.setBank (x : Race) (n : RowReq) (b : Bank) : Race :=
  { x with banks := x.banks.ins (Sys2Proof.Machine.bankNo n.pr n.sid n.bg n.bank) b }

/-- Place of a cell as a bank request. -/
def Place.req (p : Place) (c : Cmd) : RowReq := ⟨c, p.pr, p.sid, p.bg, p.bank, p.row⟩

end Sys2Proof.Machine
end

