-- ==== Sys2Proof/Machine/Select.lean ====
section
/-!
DEFINITION. What a race may issue (R154 to R165, R207, R214, R225): the owner of a slot, waiting entries, page policy, and the
choices pick_column and pick_row.
-/
namespace Sys2Proof.Machine

/-! ### Slots (R154, R205 to R209, R213 to R219, R243) -/

/-- The Turn (model's age) and slot of a data interval. -/
def turnOf (ds : Nat) : Nat := ds / 256
def slotOf (ds : Nat) : Nat := ds % 256 / 2

def Race.plan (x : Race) (pr : Nat) : Plan := if pr = 0 then x.planA else x.planB
def Race.setPlan (x : Race) (pr : Nat) (p : Plan) : Race :=
  { x with planA := if pr = 0 then p else x.planA, planB := if pr = 0 then x.planB else p }
/-- Entries taken outside the RFSH entries, as the section's example counts them in TAKEN_A and TAKEN_B (R183, R204). -/
def Plan.outside (p : Plan) : Nat := (p.taken.drop 1).sum
def Race.nextPlan (x : Race) (pr : Nat) : Plan := (if pr = 0 then x.nextA else x.nextB).getD {}
/-- The active table as it governs a command that issues in mc t, chosen in the mc before: a direct write that commits in mc m governs
the choices from mc m + 1 on (R217). -/
def State.actAt (s : State) (r t : Nat) : List Nat :=
  match (s.race r).actPrev with
  | some (m, ws) => if t ≤ m + 1 then tableCodes ws else s.actTable r
  | none => s.actTable r
/-- The table that governs a slot of a Turn for a command that issues in mc t (R214). -/
def State.tableFor (s : State) (r t turn : Nat) : List Nat :=
  if turn = s.clk.age then s.actAt r t
  else match (s.race r).latch with
    | some ws => tableCodes ws
    | none => s.actAt r t
def State.planFor (s : State) (r pr turn : Nat) : Plan :=
  if turn = s.clk.age then (s.race r).plan pr else (s.race r).nextPlan pr

/-- Thermal step decided for the next boundary (R369). -/
def State.thermNext (s : State) (r : Nat) : Nat :=
  max ((s.gov.dstepN.getD s.gov.dstep).get 0 (r / 8)) (max (s.gov.bstepN.getD s.gov.bstep) (s.gov.istepN.getD s.gov.istep))
/-- Slots withheld from data: after the plan, OPEN, C3, C2, C1, earliest first (R243). -/
def heldSlots (table : List Nat) (plan : Plan) (n : Nat) : List Nat :=
  let free := fun (c : Nat) => (List.range 128).filter (fun i => table.getD i 0 = c ∧ !(plan.slots.any (fun e => e.slot = i)))
  (free 0 ++ free 4 ++ free 3 ++ free 2).take n
def State.heldFor (s : State) (r pr t turn : Nat) : List Nat :=
  let n := if turn = s.clk.age then (s.race r).step else s.thermNext r
  if n = 0 then [] else heldSlots (s.tableFor r t turn) (s.planFor r pr turn) (s.heldAt n)

/-- Who a slot is for, under R207. -/
inductive Owner where
  | nobody | claim (fantail : Bool) | code (c : Nat)
deriving DecidableEq, Repr
/-- The owner, for a command that issues in mc t, of the slot of a data interval (R181, R207, R219, R228, R243). An unused RFSH or
unclaimed TRAIN entry is OPEN. -/
def State.owner (s : State) (r pr t ds : Nat) : Owner :=
  let turn := turnOf ds
  let i := slotOf ds
  let plan := s.planFor r pr turn
  let c := (s.tableFor r t turn).getD i 0
  let rev := (s.race r).revSlots.any (fun e => e.1 = pr && e.2 = turn * 128 + i)
  if plan.slots.any (fun e => e.slot = i) || rev || (s.heldFor r pr t turn).contains i then .nobody
  else if c = 9 then
    match plan.claims.find? (fun e => e.1 = i) with
    | some e => .claim e.2
    | none => .code 0
  else .code (if c = 8 then 0 else c)

/-! ### Waiting entries -/

/-- An entry that waits for a column command (R160). -/
structure Ent where
  qid : Nat
  addr : Nat
  cls : Nat
  since : Nat
  wr : Bool
  /-- it may go by the express lane, in the mc after its steer stage (R165) -/
  exp : Bool
  /-- earliest mc of its column command and of its ACT or PRE (R165) -/
  colMin : Nat
  rowMin : Nat
  place : Place
deriving DecidableEq, Repr

/-- Locked for an entry of number q: the unit holds an earlier one for the cell (R170). -/
def Race.lockedFor (x : Race) (q a : Nat) : Bool := x.fau.any (fun e => e.addr = a && decide (e.qid < q))
/-- An older read of the cell has not issued (R156). -/
def Race.readBefore (x : Race) (q a : Nat) : Bool := x.rq.any (fun e => e.addr = a && decide (e.qid < q))
/-- The unit entry needs an RD: first of its cell, no write-queue entry, not issued (R169). -/
def Race.needsRd (x : Race) (e : FauEnt) : Bool :=
  e.rdAt.isNone && (x.wqAt e.addr).isNone && !x.lockedFor e.qid e.addr
/-- Earliest mc of the column command of a read: a host read competes from the second mc after its steer stage and issues no earlier
than the third (R165); for the other reads the spec gives no such time and the next mc is taken (log entry 92). -/
def RqEnt.colMin (e : RqEnt) : Nat := if e.kind = .host then e.since + 3 else e.since + 1
/-- The read stands on the express lane (R164). -/
def State.onLane (s : State) (e : RqEnt) : Bool := e.kind = .host && s.reqIs e.id (fun q => q.express)
/-- The cells of every entry that a race holds, locked ones too: the bank number and row of each (R157). -/
def State.queuedRows (s : State) (r : Nat) : List (Nat × Nat) :=
  let x := s.race r
  (x.rq.map (fun e => e.addr) ++ x.wq.map (fun e => e.addr) ++ (x.fau.filter (fun e => e.rdAt.isNone && (x.wqAt e.addr).isNone)).map (fun e => e.addr)).map
    (fun a => let p := s.place a; (p.bankNo, p.row))
/-- A write-queue entry as it waits for its WR. -/
def State.wrEnt (s : State) (e : WqEnt) : Ent := ⟨e.qid, e.addr, e.cls, e.since, true, false, e.since + 1, e.since + 1, s.place e.addr⟩
/-- The entries of a race that wait. -/
def State.waiting (s : State) (r : Nat) : List Ent :=
  let x := s.race r
  let rd := (x.rq.filter (fun e => !x.lockedFor e.qid e.addr)).map (fun e =>
    (⟨e.qid, e.addr, e.cls, e.since, false, s.onLane e, e.colMin, e.since + 1, s.place e.addr⟩ : Ent))
  let wr := (x.wq.filter (fun e => !x.inFau e.addr && !x.readBefore e.qid e.addr)).map s.wrEnt
  let fa := (x.fau.filter (fun e => x.needsRd e)).map (fun e =>
    (⟨e.qid, e.addr, e.cls, e.since, false, false, e.since + 1, e.since + 1, s.place e.addr⟩ : Ent))
  rd ++ wr ++ fa
def Ent.cmd (e : Ent) : Cmd := if e.wr then .wr else .rd
def Ent.req (e : Ent) : RowReq := e.place.req e.cmd
/-- The bank of the entry is open on its row. -/
def Ent.hit (e : Ent) (x : Race) : Bool := (x.bankOf e.req).row = some e.place.row
/-- Oldest first, then lowest number. -/
def oldestEnt : List Ent → Option Ent
  | [] => none
  | e :: l => match oldestEnt l with
    | none => some e
    | some f => if f.since < e.since ∨ (f.since = e.since ∧ f.qid < e.qid) then some f else some e
/-- Older than AGE_LIMIT Turns (R162). -/
def State.aged (s : State) (r t : Nat) (e : Ent) : Bool := decide (t > e.since + 256 * s.fheld Fld.RACE_SCHED_CFG_AGE_LIMIT r)

/-- A class-0 entry waits for the bank, on a row it does not hold open (R158). -/
def closing (ents : List Ent) (x : Race) (n : RowReq) : Bool :=
  let b := x.bankOf n
  b.row.isSome && ents.any (fun e => e.cls = 0 && e.place.bankNo = Sys2Proof.Machine.bankNo n.pr n.sid n.bg n.bank && b.row ≠ some e.place.row)
/-- Any class-0 entry waits for the bank (R185). -/
def class0Waits (ents : List Ent) (k : Nat) : Bool := ents.any (fun e => e.cls = 0 && e.place.bankNo = k)

/-- In the safe state a race leaves self-refresh only for the stores that a settle or a drain must still write, and the reads of a drain (R330,
R460). -/
def State.safeNeeds (s : State) (r : Nat) : Bool :=
  let x := s.race r
  (s.gov.drain || (s.boot.settle.isSome && !s.boot.settled)) && (!x.rq.isEmpty || !x.wq.isEmpty || !x.fau.isEmpty || !x.fills.isEmpty
    || s.pond.any (fun e => e.race = r) || s.flume.any (fun e => e.race = r))
/-- Work of the race goes on: no safe state, or such stores. -/
def State.works (s : State) (r : Nat) : Bool := !s.brk.safe || s.safeNeeds r
/-- The race serves: it runs and its Spindle tracks or stands idle after a training (R266, R273, R275). -/
def State.serves (s : State) (r : Nat) : Bool :=
  let st := s.fheld Fld.SPIN_STAT_STATE r
  s.raceRuns r && s.works r && (st = 2 || st = 6) && !(s.race r).tr.hold

/-- The entry is ready in mc t (R160, R158, R165). -/
def State.ready (s : State) (r t : Nat) (ents : List Ent) (e : Ent) : Bool :=
  let x := s.race r
  e.hit x && (decide (e.colMin ≤ t) || (e.exp && t = e.since + 1))
    && (e.cls = 0 || !closing ents x e.req || (x.bankOf e.req).opener = some e.qid) && s.legal r t e.req

/-- may_take (R207) for a class: the data interval's slot. -/
def State.mayTake (s : State) (r t : Nat) (ents : List Ent) (e : Ent) : Bool :=
  match s.owner r e.place.pr t ((s.tim r).dataAt e.cmd t) with
  | .nobody | .claim _ => false
  | .code 2 => e.cls ≠ 0 || !(ents.any (fun f => f.cls = 1 && f.place.pr = e.place.pr && s.ready r t ents f))
  | .code _ => true
/-- may_take for a fill burst of pseudo-race pr (R207). -/
def State.mayFill (s : State) (r pr t : Nat) (ents : List Ent) : Bool :=
  match s.owner r pr t ((s.tim r).dataAt .wr t) with
  | .nobody | .claim _ => false
  | .code 1 => !(ents.any (fun f => f.cls = 0 && f.place.pr = pr))
  | .code _ => true
/-- The order of the classes in a slot (R207). -/
def classOrder (o : Owner) : List Nat :=
  match o with
  | .code 3 => [2, 1, 3]
  | .code 4 => [3, 1, 2]
  | _ => [1, 2, 3]

/-! ### Fill bursts (R141) -/

def Fill.done (f : Fill) (pr : Nat) : Nat := if pr = 0 then f.doneA else f.doneB
/-- Bank i of the order of a fill. -/
def State.fillReq (s : State) (f : Fill) (pr i : Nat) (c : Cmd) : RowReq := ⟨c, pr, f.v % s.nsid, i / 8, i % 8, f.v / s.nsid⟩
/-- The next burst of a running fill on pr is legal. -/
def State.fillReady (s : State) (r pr t : Nat) (ents : List Ent) : Bool :=
  match (s.race r).fill with
  | some f =>
    let n := s.fillReq f pr (f.done pr / 16) .wr
    decide (f.done pr < 512) && s.legal r t n && (!closing ents (s.race r) n || ((s.race r).bankOf n).opener = some 0)
  | none => false

/-! ### Fantail probes and the mode-register port (R173, R208, R226, R268, R269) -/

/-- Number of the probe row: outside the rows of the address map (R268). -/
def probeRow : Nat := 2 ^ 17
def Train.next (x : Train) (pr : Nat) : Nat := if pr = 0 then x.nextA else x.nextB
/-- Probe n of a round, or the first after it whose SID is not in self-refresh (R273). -/
def skipProbe (nsid n : Nat) (sref : Nat → Bool) : Nat :=
  (List.range nsid).foldl (fun n _ => if n < 6 * nsid ∧ sref (n / 6) = true then 6 * (n / 6 + 1) else n) n
/-- Command of probe j of a SID: RDL, RDH, WRL, WRH, RBL, RBH (R269). -/
def probeCmd (j : Nat) : Cmd := if j % 6 = 2 ∨ j % 6 = 3 then .wr else .rd
/-- Request of the next probe of pr. -/
def Race.probeReq (x : Race) (pr : Nat) (c : Cmd) : RowReq := ⟨c, pr, x.tr.next pr / 6, 3, 7, probeRow⟩
/-- Tracking runs for the race (R273). -/
def State.tracks (s : State) (r : Nat) : Bool := s.fheld Fld.SPIN_STAT_STATE r = 2 && s.fheld Fld.FAN_CFG_TRACK_EN 0 (raceHalf r) = 1
/-- The race makes its resume check (R278). -/
def State.checking (s : State) (r : Nat) : Bool := s.fheld Fld.SPIN_STAT_STATE r = 4
/-- pr has a probe left in its round, of a SID that is not in self-refresh (R269, R273). -/
def State.probing (s : State) (r pr : Nat) : Bool :=
  let x := s.race r
  (s.tracks r || s.checking r) && decide (x.tr.next pr < 6 * s.nsid) && !x.sref.get false (x.tr.next pr / 6)
/-- A probe may take the slot of a data interval: a TRAIN entry that Fantail has claimed; in a resume check, which goes back to back and
not in TRAIN slots, any slot that is no refresh slot (R208, R278). -/
def State.probeSlot (s : State) (r pr t ds : Nat) : Bool :=
  match s.owner r pr t ds with
  | .claim true => s.tracks r
  | .code _ => s.checking r
  | _ => false
/-- State of a race whose training has passed: tracking; idle where tracking is off, or stopped in power-down, in isolation, or with every
SID in self-refresh (R266, R273). -/
def State.trackState (s : State) (r : Nat) : Nat :=
  let x := s.race r
  if s.fheld Fld.FAN_CFG_TRACK_EN 0 (raceHalf r) = 1 && x.pd.isNone && !s.isolated r && (List.range s.nsid).any (fun sd => !x.sref.get false sd) then 2 else 6
/-- Tracking restarts: counts at zero, a new round (R273). -/
def Train.restart (x : Train) (age : Nat) : Train :=
  { x with failing := {}, pendC := {}, pendT := {}, nextA := 0, nextB := 0, await := [], roundAt := age, roundDone := false, lagged := false
           checkFail := false }
/-- STEP of a runtime retraining (R274, R279): 3 to 9 in the narrow steps, whose ends within their 96 µs are free (log entry 102). -/
def Train.narrowStep (x : Train) (age : Nat) : Nat :=
  if x.retrain && x.repaired then 3 + countP (fun i => decide (age ≥ x.retrainAt + 7 + Config.narrowEnd i)) (List.range 6) else 0
/-- A mode-register command waits (R173). -/
def State.mrWaits (s : State) (r : Nat) : Bool := (s.race r).mrAt.isSome && !(s.race r).mrIssued
def State.mrReq (s : State) (r : Nat) : RowReq :=
  ⟨if s.fheld Fld.RACE_MR_CMD_RNW r = 1 then .mrr else .mrw, s.fheld Fld.RACE_MR_CMD_PSR r, s.fheld Fld.RACE_MR_CMD_SID r, 0, 0, 0⟩
/-- The slot in which a command issued in mc t reaches the die (MRW) or moves data. -/
def State.mrSlot (s : State) (r t : Nat) : Nat :=
  if (s.mrReq r).cmd = .mrr then (s.tim r).dataAt .mrr t else t + (s.tim r).cmd

/-! ### pick_column (R160, R161, R225) -/

/-- WQ_HI in force: a value not above WQ_LO is used as WQ_LO + 1 (R175). -/
def State.wqHi (s : State) (r : Nat) : Nat := max (s.fheld Fld.RACE_SCHED_CFG_WQ_HI r) (s.fheld Fld.RACE_SCHED_CFG_WQ_LO r + 1)
/-- No read of classes 1 to 3 is ready in mc t. -/
def State.noRead (s : State) (r t : Nat) (ents : List Ent) : Bool := !(ents.any (fun e => !e.wr && e.cls ≠ 0 && s.ready r t ents e))
/-- The mc after the latest change of the race's queues and banks: from then on entries only become ready. -/
def Race.calmAt (x : Race) : Nat :=
  1 + (x.rq.map (fun e => e.since) ++ x.wq.map (fun e => e.since) ++ (x.hist.head?.map (fun c => c.at_)).toList).foldl max 0
/-- Write mode in mc t (R161). Above WQ_LO it lasts once entered, be it in an earlier mc that had no column command; at or below WQ_LO
it is entered anew in each mc in which the queue is not empty and no read is ready. -/
def State.writeMode (s : State) (r t : Nat) (ents : List Ent) : Bool :=
  let x := s.race r
  let n := x.wqLevel
  decide (n ≥ s.wqHi r) || (decide (n > 0) && s.noRead r t ents)
    || (decide (n > s.fheld Fld.RACE_SCHED_CFG_WQ_LO r) && (x.wmode || s.noRead r (min t x.calmAt) ents))
/-- Keep the mode as it stands in mc t before the race's queues or banks change. -/
def State.modeAt (s : State) (r t : Nat) : State := s.setRace r { s.race r with wmode := s.writeMode r t (s.waiting r) }
/-- The same, for a change of the queues in the present mc. -/
def State.modeLatch (s : State) (r : Nat) : State := s.modeAt r s.now

/-- Place of an entry's class in the order of the slot of its own data interval (R207). -/
def State.classRank (s : State) (r t : Nat) (e : Ent) : Nat :=
  (classOrder (s.owner r e.place.pr t ((s.tim r).dataAt e.cmd t))).findIdx (· = e.cls)
/-- The choice among the classes 1 to 3, each candidate judged by the owner of the slot that its own burst would take (R160, R214):
by place in the slot's order, then the mode's direction, then the aged, then the oldest (log entry 93). -/
def State.pickClass (s : State) (r t : Nat) (wr : Bool) (cand : List Ent) : List Nat → Option Ent
  | [] => none
  | k :: ks =>
    let mine := cand.filter (fun e => s.classRank r t e = k)
    let dir := mine.filter (fun e => e.wr = wr)
    let use := if dir.isEmpty then mine else dir
    let old := use.filter (fun e => s.aged r t e)
    match oldestEnt (if old.isEmpty then use else old) with
    | some e => some e
    | none => s.pickClass r t wr cand ks

/-- Column grants of a pseudo-race. -/
def Race.colGrants (x : Race) (pr : Nat) : List (ColPick × Nat) := if pr = 0 then x.grantA else x.grantB
/-- The column command of pseudo-race pr for mc t. -/
def State.pickColumn (s : State) (r pr t : Nat) : Option ColPick :=
  let T := s.tim r
  let preq := (s.race r).probeReq pr (probeCmd ((s.race r).tr.next pr))
  if !s.works r then none
  else if s.probeSlot r pr t (T.dataAt preq.cmd t) ∧ s.probing r pr ∧ s.legal r t preq then some .probe
  else if s.mrWaits r ∧ (s.mrReq r).cmd = .mrr ∧ (s.mrReq r).pr = pr ∧ s.owner r pr t (s.mrSlot r t) = .claim false
      ∧ s.legal r t (s.mrReq r) then some .mr
  else if !s.serves r then none
  else
    let ents := s.waiting r
    let rdy := ents.filter (fun e => e.place.pr = pr && s.ready r t ents e && s.mayTake r t ents e)
    match oldestEnt (rdy.filter (fun e => e.cls = 0)) with
    | some e => some (.ent e.qid)
    | none =>
      if s.fillReady r pr t ents && s.mayFill r pr t ents then some .fill
      else
        (s.pickClass r t (s.writeMode r t ents) (rdy.filter (fun e => e.cls ≠ 0)) [0, 1, 2]).map (fun e => .ent e.qid)

/-- The column command that issues in mc t is the one granted for it, or, where the Sluice's decision is not a command of its
own, the one that pick_column chooses. -/
def State.colGranted (s : State) (r pr t : Nat) (c : ColPick) : Bool :=
  match ((s.race r).colGrants pr).find? (fun g => g.2 = t) with
  | some g => g.1 = c
  | none => s.pickColumn r pr t = some c

/-! ### Refresh issue times (R181, R185) -/

/-- The mc in which the command of a refresh slot issues: tCMD before the slot's first mc (A) or second mc (B). -/
def State.refAt (s : State) (r pr turn slot : Nat) : Nat := turn * 256 + 2 * slot + pr - (s.tim r).cmd
def RefSlot.req (e : RefSlot) (pr : Nat) : RowReq := ⟨if e.rfm then .rfm else .refpb, pr, e.sid, e.bank / 8, e.bank % 8, 0⟩
def RefSlot.key (e : RefSlot) (pr : Nat) : Nat := (pr * 4 + e.sid) * 32 + e.bank
/-- Planned commands of pr not yet spent. -/
def Race.planned (x : Race) (pr : Nat) : List RefSlot := (x.plan pr).slots.filter (fun e => !e.spent)
/-- Urgent banks of pr, the lowest number first (log entry 133): key, and whether by RFM. -/
def Race.urgents (x : Race) (pr : Nat) : List (Nat × Bool) :=
  (x.banks.rows.filter (fun kv => kv.1 / 128 = pr ∧ (kv.2.urgRef = true ∨ kv.2.urgRfm = true))).map (fun kv => (kv.1, !kv.2.urgRef))
def keyReq (c : Cmd) (k : Nat) : RowReq := ⟨c, k / 128, k / 32 % 4, k / 8 % 4, k % 8, 0⟩
/-- Slots of a revocation of pr whose command issues in mc t (R227). -/
def State.revDue (s : State) (r pr t : Nat) : Bool :=
  (s.race r).revSlots.any (fun e => e.1 = pr && decide (s.refAt r pr (e.2 / 128) (e.2 % 128) = t))
/-- The refresh engine runs: started, enabled, not isolated. -/
def State.refRuns (s : State) (r : Nat) : Bool :=
  (s.race r).refOn && s.raceRuns r && s.fget Fld.RACE_REF_CFG_REF_EN r = 1
/-- Planned slots of pr not yet spent, with their Turn: of this Turn, and of the next once it is planned. -/
def State.dueSlots (s : State) (r pr : Nat) : List (Nat × RefSlot) :=
  ((s.race r).planned pr).map (fun e => (s.clk.age, e))
    ++ (((s.race r).nextPlan pr).slots.filter (fun e => !e.spent)).map (fun e => (s.clk.age + 1, e))
/-- Planned slot of pr whose command issues in mc t. -/
def State.slotDue (s : State) (r pr t : Nat) : Option (Nat × RefSlot) :=
  (s.dueSlots r pr).find? (fun e => s.refAt r pr e.1 e.2.slot = t)
/-- Take the i-th of each list in turn. -/
def interleave : List (List (Nat × Nat)) → Nat → List (Nat × Nat)
  | _, 0 => []
  | ls, n + 1 => ls.filterMap List.head? ++ interleave (ls.map List.tail) n
/-- SIDs in the order of the planner (R180). -/
def State.sidOrder (s : State) (r : Nat) : List Nat :=
  (List.range s.nsid).map (fun i => ((s.race r).sidTurn + i) % s.nsid)
/-- REFpb owed on pr in a race's lists, as (SID, bank), in the order of R180, that no unspent slot of the present Turn serves. -/
def State.owedIn (s : State) (x : Race) (r pr : Nat) : List (Nat × Nat) :=
  let planned := (x.planned pr).filter (fun e => !e.rfm)
  let ls := (s.sidOrder r).map (fun sd => ((x.owed.get [] (4 * pr + sd)).filter (fun b =>
    !(planned.any (fun e => e.sid = sd && e.bank = b)) && !x.sref.get false sd)).map (fun b => (sd, b)))
  interleave ls (ls.foldl (fun n l => max n l.length) 0)
def State.owedOf (s : State) (r pr : Nat) : List (Nat × Nat) := s.owedIn (s.race r) r pr
/-- RFM requests of pr, in order of crossing, that satisfy p (R183). -/
def Race.rfmsOf (x : Race) (pr : Nat) (p : Nat × Nat × Nat → Bool) : List Nat :=
  (x.rfmQ.filter (fun q => q.1 = pr && !(x.banks.get {} q.2.1).urgRfm && p q)).map (fun q => q.2.1)
/-- Commands that may stand in for a postponed one: later slots of the Turn, then owed REFpb and RFM requests the plan left out (R186). -/
def State.substitutes (s : State) (r pr turn slot : Nat) : List RowReq :=
  ((s.dueSlots r pr).filter (fun e => e.1 = turn && decide (e.2.slot > slot))).map (fun e => e.2.req pr)
    ++ (s.owedOf r pr).map (fun e => keyReq .refpb ((pr * 4 + e.1) * 32 + e.2))
    ++ ((s.race r).rfmsOf pr (fun q => !((s.dueSlots r pr).any (fun e => e.2.rfm && e.2.key pr = q.2.1)))).map (fun k => keyReq .rfm k)
/-- The slot is planned for an urgent refresh, or for one that has become urgent since: it keeps its place (R189). -/
def Race.urgentSlot (x : Race) (pr : Nat) (e : RefSlot) : Bool :=
  let b := x.banks.get {} (e.key pr)
  if e.rfm then b.urgRfm else b.urgRef
/-- The refresh command of pr that can issue in mc t: in a slot the urgent one that it is planned for, else an urgent one, else the planned
one, else one that stands in for it (R185, R186, R189). Of several urgent ones the lowest bank number goes first (log entry 133). -/
def State.refNow (s : State) (r pr t : Nat) (ents : List Ent) : Option RowReq :=
  let x := s.race r
  let due := s.slotDue r pr t
  let may := fun n : RowReq => !class0Waits ents (Sys2Proof.Machine.bankNo n.pr n.sid n.bg n.bank) && s.legal r t n
  let own := (due.filter (fun e => x.urgentSlot pr e.2 && s.legal r t (e.2.req pr))).map (fun e => e.2.req pr)
  let urg := if own.isSome then own
    else if due.isSome || s.revDue r pr t then
      ((x.urgents pr).map (fun u => keyReq (if u.2 then .rfm else .refpb) u.1)).find? (fun n => s.legal r t n)
    else none
  match urg with
  | some n => some n
  | none => match due with
    | some e => if may (e.2.req pr) then some (e.2.req pr)
        else (s.substitutes r pr e.1 e.2.slot).find? (fun n => may n && Sys2Proof.Machine.bankNo n.pr n.sid n.bg n.bank ≠ e.2.key pr)
    | none => none

/-! ### Page policy (R157) -/

/-- An urgent refresh of the bank waits (R188). -/
def Race.urgentAt (x : Race) (n : RowReq) : Bool := (x.bankOf n).urgRef || (x.bankOf n).urgRfm
/-- A planned refresh needs the bank closed: within tRP of its issue, and not one that a class-0 entry postpones (R185). -/
def State.refNeeds (s : State) (r t : Nat) (ents : List Ent) (n : RowReq) : Bool :=
  let k := Sys2Proof.Machine.bankNo n.pr n.sid n.bg n.bank
  s.refRuns r && !class0Waits ents k
    && (s.dueSlots r n.pr).any (fun e => e.2.key n.pr = k && decide (s.refAt r n.pr e.1 e.2.slot ≤ t + (s.tim r).rp))
/-- The open row of the bank is to be closed (R157, R162, R185, R199). -/
def State.rowDue (s : State) (r t : Nat) (ents : List Ent) (n : RowReq) : Bool :=
  let x := s.race r
  let b := x.bankOf n
  let k := Sys2Proof.Machine.bankNo n.pr n.sid n.bg n.bank
  let here := ents.filter (fun e => e.place.bankNo = k)
  let hits := (s.queuedRows r).any (fun e => e.1 = k && b.row = some e.2)
    || (match x.fill with | some f => b.row = some (f.v / s.nsid) && decide (f.done n.pr / 16 ≤ n.bg * 8 + n.bank) && f.v % s.nsid = n.sid | none => false)
    || (b.row = some probeRow && !b.used)
  let page := s.fheld Fld.RACE_CTRL_PAGE r
  b.row.isSome &&
    (decide (t ≥ b.actAt + (s.tim r).rasmax) || s.refNeeds r t ents n || x.urgentAt n || closing ents x n || (x.hand.find? n.sid).isSome
      || here.any (fun e => s.aged r t e && b.row ≠ some e.place.row)
      || (if page = 1 then b.used && !hits
          else if page = 2 then (match oldestEnt here with | some e => b.row ≠ some e.place.row | none => false)
          else (!hits && decide (t ≥ max b.actAt b.colAt + s.fheld Fld.RACE_SCHED_CFG_PAGE_IDLE r))
            || (decide (b.hits ≥ s.fheld Fld.RACE_SCHED_CFG_HIT_CAP r) && here.any (fun e => b.row ≠ some e.place.row))))

/-! ### pick_row (R160, R225) -/

/-- PRE or ACT that an entry needs. -/
def Ent.rowReq (e : Ent) (x : Race) : Option RowReq :=
  match (x.bankOf e.req).row with
  | none => some (e.place.req .act)
  | some w => if w = e.place.row then none else some (e.place.req .pre)
/-- Row commands of a fill, first wanted first: closing a bank it has finished, then its bank and the next (R141). A finished bank
that still waits for its PRE is not one of the two held open: the times of R142 leave no wait for it (DEDUCED, log entry 46). -/
def State.fillRows (s : State) (r : Nat) : List RowReq :=
  let x := s.race r
  match x.fill with
  | none => []
  | some f =>
    (List.range 2).flatMap (fun pr =>
      let i := f.done pr / 16
      let row := f.v / s.nsid
      let old := (List.range i).filterMap (fun j =>
        if (x.bankOf (s.fillReq f pr j .pre)).row = some row then some (s.fillReq f pr j .pre) else none)
      let open_ := fun j => if j < 32 then
          (match (x.bankOf (s.fillReq f pr j .act)).row with
          | none => [s.fillReq f pr j .act]
          | some w => if w = row then [] else [s.fillReq f pr j .pre])
        else []
      old ++ open_ i ++ open_ (i + 1))
/-- Row commands of the probes claimed in this Turn and, once it is planned, in the next (R208, R268), and a mode-register write in its
slot (R225). -/
def State.fanRows (s : State) (r t : Nat) (ents : List Ent) : List RowReq :=
  let x := s.race r
  let probes := (List.range 2).flatMap (fun pr =>
    let n := x.probeReq pr .act
    if s.probing r pr && (s.checking r || (x.plan pr).claims.any (fun e => e.2 && decide (s.clk.age * 256 + 2 * e.1 ≥ t))
          || (x.nextPlan pr).claims.any (fun e => e.2))
        && !class0Waits ents (Sys2Proof.Machine.bankNo pr n.sid 3 7) then
      (match (x.bankOf n).row with
      | none => [n]
      | some w => if w = probeRow then [] else [x.probeReq pr .pre])
    else [])
  let mr := if s.mrWaits r && (s.mrReq r).cmd = .mrw && s.owner r (s.mrReq r).pr t (s.mrSlot r t) = .claim false then [s.mrReq r] else []
  probes ++ mr
/-- PRE of every bank that is due. -/
def State.dueRows (s : State) (r t : Nat) (ents : List Ent) : List RowReq :=
  ((s.race r).banks.rows.filter (fun kv => kv.2.row.isSome)).filterMap (fun kv =>
    let n := keyReq .pre kv.1
    if s.rowDue r t ents n then some n else none)
/-- The oldest aged entry of a class that needs PRE or ACT, else the oldest. A row that a queued entry still hits is closed for
classes 1 to 3 only when R157 says so. -/
def State.classRows (s : State) (r t : Nat) (ents : List Ent) (c : Nat) : List RowReq :=
  let x := s.race r
  let hitWaits := fun (n : RowReq) =>
    let k := Sys2Proof.Machine.bankNo n.pr n.sid n.bg n.bank
    (s.queuedRows r).any (fun e => e.1 = k && (x.bankOf n).row = some e.2)
  let ok := ents.filter (fun e => e.cls = c && decide (e.rowMin ≤ t) && (match e.rowReq x with
    | some n => (n.cmd = .act || c = 0 || !hitWaits n || s.rowDue r t ents n) && s.legal r t n
    | none => false))
  let old := if c = 0 then [] else ok.filter (fun e => s.aged r t e)
  match oldestEnt (if old.isEmpty then ok else old) with
  | some e => (e.rowReq x).toList
  | none => []

/-- The last PRE of a SID, in either pseudo-race, lies tRP back and every bank of it is closed (R199 step 2). -/
def State.sidClosed (s : State) (r t sd : Nat) : Bool :=
  let x := s.race r
  x.allClosed 0 sd && x.allClosed 1 sd && x.hist.all (fun c => !(c.cmd = .pre && c.sid = sd) || decide (c.at_ + (s.tim r).rp ≤ t))
/-- Commands of the SIDs that are handing over: one REFab for each pseudo-race that owes a refresh, then SRE (R199). -/
def State.handRows (s : State) (r t : Nat) : List RowReq :=
  let x := s.race r
  (x.hand.keys.filter (fun sd => s.sidClosed r t sd)).flatMap (fun sd =>
    let needAb := fun pr => !x.handAb.contains (4 * pr + sd) && (!((x.owed.get [] (4 * pr + sd)).isEmpty) || (bankKeys pr sd).any (fun k => decide ((x.banks.get {} k).ppc > 0)))
    let ab := (List.range 2).filterMap (fun pr => if needAb pr then some (⟨.refab, pr, sd, 0, 0, 0⟩ : RowReq) else none)
    if ab.isEmpty then [⟨.sre, 0, sd, 0, 0, 0⟩] else ab)
/-- REFab that R203 asks for before any other command, once the race has left reset. -/
def Race.mustRows (x : Race) : List RowReq := if x.inReset then [] else x.mustRefab.map (fun k => ⟨.refab, k / 4, k % 4, 0, 0, 0⟩)

/-- SIDs in self-refresh resume when the race serves again: RUN or IDLE, or a wake, no safe state, no reset (R201, R203; log entry 130). -/
def State.srxRows (s : State) (r : Nat) : List RowReq :=
  let x := s.race r
  let on := s.works r && !x.inReset && s.gov.entry.isNone && (s.gov.ps = .run || s.gov.ps = .idle || s.gov.wake.isSome)
  if on then (x.sref.keys.filter (fun sd => x.sref.get false sd)).map (fun sd => ⟨.srx, 0, sd, 0, 0, 0⟩) else []
/-- The conditions of R172 hold: every bank closed, no entry, no refresh planned within the next Turn, no C0 and no TRAIN entry. -/
def State.pdIdle (s : State) (r : Nat) : Bool :=
  let x := s.race r
  x.banks.vals.all (fun b => b.row.isNone) && x.rq.isEmpty && x.wq.isEmpty && x.fau.isEmpty && x.fills.isEmpty
    && (x.planned 0).isEmpty && (x.planned 1).isEmpty && (x.nextPlan 0).slots.isEmpty && (x.nextPlan 1).slots.isEmpty
    && countCode (s.actTable r) 1 = 0 && countCode (s.actTable r) 9 = 0
/-- Note since when the conditions have held. -/
def State.pdNote (s : State) (r t : Nat) : State :=
  let x := s.race r
  s.setRace r { x with idleSince := if s.pdIdle r then (if x.idleSince.isSome then x.idleSince else some t) else none }
/-- Power-down is due (R172). -/
def State.pdeDue (s : State) (r t : Nat) : Bool :=
  let x := s.race r
  s.fb Fld.RACE_CTRL_PD_EN r && x.pd.isNone && s.serves r && s.pdIdle r
    && (match x.idleSince with | some t0 => decide (t ≥ t0 + 256 * s.fheld Fld.RACE_SCHED_CFG_PD_IDLE r) | none => false)
/-- Power-down ends (R172): a request, a plan with a command, a C0 or TRAIN entry. -/
def State.pdxDue (s : State) (r : Nat) : Bool :=
  let x := s.race r
  x.pd.isSome && (!x.rq.isEmpty || !x.wq.isEmpty || !x.fau.isEmpty || !x.fills.isEmpty || !(x.planned 0).isEmpty || !(x.planned 1).isEmpty
    || countCode (s.actTable r) 1 ≠ 0 || countCode (s.actTable r) 9 ≠ 0 || !x.hand.rows.isEmpty)

/-- The row commands that may go in mc t, first choice first (R160, R225). -/
def State.rowOffers (s : State) (r t : Nat) : List RowReq :=
  let x := s.race r
  let ents := s.waiting r
  let refs := if s.refRuns r && s.works r then (List.range 2).flatMap (fun pr => (s.refNow r pr t ents).toList) else []
  let urgent := refs.filter (fun n => x.urgentAt n)
  let urgPre := if s.refRuns r then
      (x.banks.rows.filter (fun kv => kv.2.row.isSome)).filterMap (fun kv =>
        if x.urgentAt (keyReq .pre kv.1) then some (keyReq .pre kv.1) else none)
    else []
  let sv := s.serves r
  x.mustRows ++ urgent ++ urgPre ++ refs.filter (fun n => !x.urgentAt n)
    ++ (if sv then s.classRows r t ents 0 ++ s.fillRows r else [])
    ++ s.fanRows r t ents
    ++ s.dueRows r t ents
    ++ (if sv then [1, 2, 3].flatMap (fun c => s.classRows r t ents c) else [])
    ++ (if s.pdeDue r t then [⟨.pde, 0, 0, 0, 0, 0⟩] else []) ++ (if s.pdxDue r then [⟨.pdx, 0, 0, 0, 0, 0⟩] else [])
    ++ s.handRows r t ++ s.srxRows r
/-- pick_row. -/
def State.pickRow (s : State) (r t : Nat) : Option RowReq :=
  if s.raceRuns r then (s.rowOffers r t).find? (fun n => s.legal r t n) else none
/-- The row command that issues in mc t is the one granted for it, or the one that pick_row chooses. -/
def State.rowGranted (s : State) (r t : Nat) (n : RowReq) : Bool :=
  match (s.race r).grantR.find? (fun g => g.2 = t) with
  | some g => g.1 = n
  | none => s.pickRow r t = some n

end Sys2Proof.Machine
end

