-- ==== Sys2Proof/Machine/Hopper.lean ====
section
/-!
DEFINITION. Hopper, Millpond and Flume: the meaning of every host request after its ACCEPT (R93 to R128), visibility tokens,
the drains into the race write queues, and barriers.
-/
namespace Sys2Proof.Machine

/-! ### What a request waits for -/

/-- An earlier barrier of its stream has not completed (R121). -/
def State.behindBar (s : State) (id stream : Nat) : Bool :=
  s.hop.reqs.rows.any (fun kv => decide (kv.1 < id) && kv.2.stream = stream && s.ordered id kv.2 && Opc.barrier kv.2.opc && kv.2.open_)
/-- The request has been accepted, its own command has not come yet, and no barrier holds it. -/
def State.fresh (s : State) (id opc : Nat) : Bool :=
  s.reqIs id (fun q => q.phase = .accepted && q.opc = opc && !s.behindBar id q.stream)
/-- Accepted and its command has not come (requests that may take their buffer entry behind a barrier, R121). -/
def State.freshBuf (s : State) (id opc : Nat) : Bool := s.reqIs id (fun q => q.phase = .accepted && q.opc = opc)

/-! ### Flume (R104 to R107) -/

/-- A request of a stream that is no WRN of the owner touches a block (R105). -/
def State.flumeTouch (s : State) (a cells : Nat) : State :=
  s.flumeClose (fun e => decide (e.blk = a / 256) && cells > 0)
/-- An entry of the block wrote the cell, for a request of an earlier number than `id`. -/
def FlumeEnt.wrote (e : FlumeEnt) (a id : Nat) : Bool :=
  decide (e.blk = a / 256) && (e.mask.find? ((a / 64) % 4)).isSome && (e.who.find? ((a / 64) % 4)).any (fun i => decide (i < id))
/-- Oldest open entry of a half. -/
def oldestOpen (l : List FlumeEnt) (h : Nat) : Option Nat :=
  ((l.filter (fun e => e.half = h ∧ !e.closed)).map (fun e => e.fid)).min?
/-- While the free entries stand below LOW_FREE, the oldest open entry closes at an event (R105). -/
def State.flumeLow (s : State) (h : Nat) : State :=
  let used := countP (fun e : FlumeEnt => e.half = h) s.flume
  if 256 - used < s.fget Fld.FLUME_CFG_LOW_FREE 0 h then
    match oldestOpen s.flume h with
    | some f => s.flumeClose (fun e => e.fid = f)
    | none => s
  else s

/-! ### Reads (R99, R139, R164, R336) -/

/-- Where a read cell gets its value. -/
inductive RdSrc where
  | value (c : Cell) (psn : Bool)
  | zero
  | race
  | wait
deriving DecidableEq, Repr

/-- The newest of a list of Millpond entries by a number. -/
def newest (f : PondEnt → Nat) : List PondEnt → Option PondEnt
  | [] => none
  | e :: r => match newest f r with
    | none => some e
    | some x => if f e ≥ f x then some e else some x

/-- Entries in the order in which they became visible (R98). -/
def insVis (e : PondEnt) : List PondEnt → List PondEnt
  | [] => [e]
  | x :: r => if e.vis ≤ x.vis then e :: x :: r else x :: insVis e r

/-- The source of a read cell of a stream, request number `id` (R99): its own newest write that is not visible, in Millpond or
Flume; the newest visible write; the race. A masked write or an atomic that has not merged makes the read wait. -/
def State.readSrc (s : State) (stream id a : Nat) : RdSrc :=
  let at_ := s.pond.filter (fun e => e.addr = a ∧ e.mask ≠ 0)
  let ownP := newest (fun e => e.id) (at_.filter (fun e => e.stream = stream ∧ e.vis = 0 ∧ e.id < id ∧ !e.tally))
  let ownF := s.flume.filter (fun e => e.stream = stream ∧ e.wrote a id = true)
  let other := s.flume.any (fun e => decide (e.stream ≠ stream) && e.wrote a id)
  let ahead := s.earlier id stream (fun o => o.names a && o.phase = .accepted
    && (Opc.store o.opc || !o.sent.contains ((a - o.addr) / 64)))
  let fNew := (ownF.map (fun e => e.who.get 0 ((a / 64) % 4))).foldl max 0
  let fromPond := fun (e : PondEnt) => if e.amo || e.masked then RdSrc.wait else .value e.data e.psn
  if other || ahead then .wait
  else
    match ownF.getLast?, ownP with
    | some f, none => .value (f.data.get 0 ((a / 64) % 4)) (bit f.psn ((a / 64) % 4))
    | some f, some e =>
      if e.id > fNew then fromPond e else .value (f.data.get 0 ((a / 64) % 4)) (bit f.psn ((a / 64) % 4))
    | none, some e => fromPond e
    | none, none =>
      match newest (fun e => e.vis) (at_.filter (fun e => e.vis ≠ 0)) with
      | some e => fromPond e
      | none =>
        if !s.isWritten a then .zero
        else
          let x := s.race (s.raceAt a)
          if x.inFau a then .wait
          else match x.wqAt a with
            | some w => .value w.data w.psn
            | none => .race

/-- The read may take the express lane (R164), as far as its bank goes: open on its row and not CLOSING, no older entry of the bank on
another row. -/
def State.express (s : State) (a : Nat) : Bool :=
  let p := s.place a
  let x := s.race p.race
  s.fb Fld.RACE_CTRL_EXP_EN p.race && (x.bankOf (p.req .rd)).row = some p.row && !closing (s.waiting p.race) x (p.req .rd)
    && !(x.rq.any (fun e => let q := s.place e.addr; q.bankNo = p.bankNo && q.row ≠ p.row))

/-- Bind cell k of a read whose value the buffers or the written map give; the bytes of a poisoned cell are free (R116). -/
def State.bindSrc (s : State) (id k : Nat) (src : RdSrc) : State :=
  match src with
  | .value c psn =>
    if psn then ({ s with freeCtr := s.freeCtr + 1 } : State).bindCell id k (Config.freeCell s.freeCtr) psn
    else s.bindCell id k c psn
  | .zero => s.bindCell id k 0 false
  | .race => s
  | .wait => s
/-- The Sluice of a column bus grants the queue entry in this mc, for the next (R165). -/
def State.laneGrants (s : State) (r pr qid : Nat) : Bool :=
  (((s.race r).colGrants pr).all (fun g => g.2 ≠ s.now + 1)) && s.pickColumn r pr (s.now + 1) == some (.ent qid)
/-- The grant stands. -/
def State.laneTake (s : State) (r pr qid : Nat) : State :=
  let x := s.race r
  let g := ((ColPick.ent qid, s.now + 1) : ColPick × Nat)
  s.setRace r { x with grantA := if pr = 0 then x.grantA ++ [g] else x.grantA, grantB := if pr = 0 then x.grantB else x.grantB ++ [g] }
/-- Bind the cells of a read that have a value at once, and steer to the race those that it reads; a cell that must wait for a
merge, an atomic, a lock or an earlier request of its stream is held alone (R99, R170), and its RD or RDX comes again. A read
that finds no room in the read queue is held whole, unless it goes by the express lane, which asks for none for the cell that the Sluice grants
in its mc (R164, R165). The value of a cell that the DRAM gives is settled by its place in the race's
order of the cell (R156, R170), and it is bound when its burst comes back (log entry 91). -/
def State.steerRead (s : State) (id : Nat) (q : Req) (cells : List Nat) : State :=
  let all := cells.map (fun k => (k, s.readSrc q.stream id (q.addr + 64 * k)))
  let srcs := all.filter (fun x => x.2 ≠ .wait)
  let toRace := srcs.filter (fun x => x.2 = .race)
  let x := s.race q.race
  let n := toRace.length
  let exp := q.sent.isEmpty && decide (n = q.nCells) && s.express q.addr
  let sent := q.sent ++ srcs.map Prod.fst
  let t := s.updReq id (fun q => { q with phase := if sent.length = q.nCells then .working else .accepted, express := exp, sent := sent })
  let t := if toRace.isEmpty then t else t.modeLatch q.race
  let y := toRace.foldl (fun (y : Race) kv => y.rqPut .host id kv.1 (q.addr + 64 * kv.1) q.cls s.now) (t.race q.race)
  let t := if toRace.isEmpty then t else t.setRace q.race y
  let fits := toRace.isEmpty || x.rqFits q.cls n
  let lane := exp && x.rqFits q.cls (n - 1) && t.laneGrants q.race (s.place q.addr).pr x.nextQ
  if srcs.isEmpty || !(fits || lane) then s
  else
    let s := if fits then t else t.laneTake q.race (s.place q.addr).pr x.nextQ
    let s := if srcs.any (fun x => match x.2 with | .value _ _ => true | _ => false) then s.tallyCls q.target q.cls 5 1 else s
    let s := if srcs.any (fun x => x.2 = .zero) then s.tallyCls q.target q.cls 6 1 else s
    each srcs (fun kv s => s.bindSrc id kv.1 kv.2) s

/-- A read whose command comes: OFF where its race is gone, held while its chunk is restored, else steered. -/
def State.doRead (s : State) (id mc : Nat) : State :=
  match s.hop.reqs.find? id with
  | none => s
  | some q =>
    let s := { s with clk := s.clkAt mc }
    let s := s.flumeClose (fun e => decide (e.blk = q.addr / 256))
    if s.raceOff q.race then s.endReq id Rc.off .dropped
    else if !s.chunkDone q.addr then s
    else s.steerRead id q ((List.range q.nCells).filter (fun k => !q.sent.contains k))

def execRd (id mc : Nat) (s : State) : Host.Outcome State Fault Refusal :=
  .next (when (s.fresh id Opc.rd) (fun s => s.doRead id mc) s)

/-- RDX also sets the stream's reservation on its granule (R110), in this step (log entry 129), unless its response has been discarded (R59);
a later WRC of the stream ties the reservation to its module (R113). -/
def execRdx (id mc : Nat) (s : State) : Host.Outcome State Fault Refusal :=
  .next (when (s.fresh id Opc.rdx)
    (fun s =>
      match s.hop.reqs.find? id with
      | none => s
      | some q =>
        let t := s.doRead id mc
        if t.reqIs id (fun q => q.phase = .accepted) || s.raceOff q.race || q.answered then t
        else
          let g := s.granule
          let later := t.hop.reqs.rows.filter (fun kv => decide (id < kv.1) && kv.2.stream = q.stream && kv.2.opc = Opc.wrc)
          { t with hop := { t.hop with resv := t.hop.resv.ins q.stream ⟨q.addr / g * g, g, q.m :: later.map (fun kv => kv.2.m)⟩ } }) s)

def execNop (id : Nat) (s : State) : Host.Outcome State Fault Refusal :=
  .next (when (s.fresh id Opc.nop) (fun s => (s.updReq id (fun q => { q with phase := .performed })).reap id) s)

/-! ### Stores: into Millpond and Flume (R31, R32, R104, R114) -/

/-- The Millpond entries of a store: one a cell, with its data. -/
def Req.pondEnts (q : Req) (id : Nat) : List PondEnt :=
  (List.range q.data.length).map (fun k =>
    { id := id, k := k, half := q.target, race := q.race, addr := q.addr + 64 * k, data := q.data.getD k 0
      mask := if q.opc = Opc.wrp ∨ q.opc = Opc.wrc then q.arg else fullMask
      psn := q.psn, amo := q.opc = Opc.amo, masked := q.opc = Opc.wrp ∨ q.opc = Opc.wrc, stream := q.stream, cls := q.cls })
/-- An accepted store's data reaches its Millpond entries. -/
def State.toPond (s : State) (id : Nat) : State :=
  match s.hop.reqs.find? id with
  | none => s
  | some q =>
    let s := s.flumeClose (fun e => decide (e.blk = q.addr / 256))
    let s := { s with pond := s.pond ++ q.pondEnts id }
    s.updReq id (fun q => { q with phase := .working, data := if q.opc = Opc.amo then q.data else [] })

def execWr (id : Nat) (s : State) : Host.Outcome State Fault Refusal := .next (when (s.freshBuf id Opc.wr) (fun s => s.toPond id) s)
def execWrp (id : Nat) (s : State) : Host.Outcome State Fault Refusal := .next (when (s.freshBuf id Opc.wrp) (fun s => s.toPond id) s)
def execWrc (id : Nat) (s : State) : Host.Outcome State Fault Refusal := .next (when (s.freshBuf id Opc.wrc) (fun s => s.toPond id) s)
def execAmo (id : Nat) (s : State) : Host.Outcome State Fault Refusal := .next (when (s.freshBuf id Opc.amo) (fun s => s.toPond id) s)

/-- An entry with the cells of a WRN combined into it. -/
def FlumeEnt.combine (e : FlumeEnt) (q : Req) (id now : Nat) : FlumeEnt :=
  let ks := List.range q.data.length
  let at_ := fun k => (q.addr / 64 + k) % 4
  let e := { e with ids := e.ids ++ [id], last := now
                    data := ks.foldl (fun t k => t.ins (at_ k) (q.data.getD k 0)) e.data
                    mask := ks.foldl (fun t k => t.ins (at_ k) fullMask) e.mask
                    who := ks.foldl (fun t k => t.ins (at_ k) id) e.who
                    psn := ks.foldl (fun p k => setBits p (at_ k) 1 (b2n q.psn)) e.psn }
  { e with closed := e.closed || decide (e.mask.rows.length = 4) }

/-- A WRN combines into its stream's open entry of the block, or opens a new one (R104). The entry closes at once behind a barrier that
covers the WRN, and where a later store of the stream to the block waits in Millpond already (R105). -/
def State.toFlume (s : State) (id : Nat) : State :=
  match s.hop.reqs.find? id with
  | none => s
  | some q =>
    let blk := q.addr / 256
    let mine := fun e : FlumeEnt => decide (e.blk = blk) && e.stream = q.stream && !e.closed
    let s := s.flumeClose (fun e => decide (e.blk = blk) && decide (e.stream ≠ q.stream))
    let joined := s.flume.any mine
    let s := if joined then { s with flume := mapIf mine (fun e => e.combine q id s.clk.age) s.flume }
      else
        let e : FlumeEnt := { fid := s.nextFid, half := q.target, blk := blk, race := q.race, stream := q.stream, cls := q.cls,
                                last := s.clk.age }
        { s with flume := s.flume ++ [e.combine q id s.clk.age], nextFid := s.nextFid + 1 }
    let s := s.tallyStore q.target (if joined then 2 else 1) 1
    let s := if joined then s else s.flumeLow q.target
    let later := s.pond.any (fun o => !o.tally && o.stream = q.stream && decide (o.addr / 256 = blk) && decide (id < o.id))
    let s := if s.barCovers id || later then s.flumeClose mine else s
    (s.dirtyAt q.addr).updReq id (fun q => { q with phase := .working, data := [] })

/-- An earlier RD or RDX of the stream has still to be bound to one of the request's cells (R100, R101). -/
def State.readAhead (s : State) (id : Nat) (q : Req) : Bool :=
  s.earlier id q.stream (fun o => (o.opc = Opc.rd || o.opc = Opc.rdx) && o.phase = .accepted && o.meets q)
/-- An earlier request of the stream to the request's block has not been taken up: its place in the block's order comes first. -/
def State.blockAhead (s : State) (id : Nat) (q : Req) : Bool :=
  s.earlier id q.stream (fun o => Opc.addressed o.opc && o.phase = .accepted && o.addr / 256 = q.addr / 256)
def execWrn (id : Nat) (s : State) : Host.Outcome State Fault Refusal :=
  .next (when (s.fresh id Opc.wrn && s.reqIs id (fun q => !s.blockAhead id q)) (fun s => s.toFlume id) s)

/-- An entry with no combine for IDLE Turns closes (R105). -/
def execFlumeIdleClose (fid : Nat) (s : State) : Host.Outcome State Fault Refusal :=
  .next (s.flumeClose (fun e => decide (e.fid = fid) && decide (e.last + s.fget Fld.FLUME_CFG_IDLE 0 e.half ≤ s.clk.age)))

/-! ### Tokens (R95, R96, R112) -/

/-- The conditions of R96 for releasing a token. -/
def State.canRelease (s : State) (id : Nat) (q : Req) : Bool :=
  Opc.tokened q.opc && q.phase = .working && q.tok = 0 && !s.behindBar id q.stream
    && s.hop.reqs.rows.all (fun kv => !(decide (kv.1 < id) && kv.2.stream = q.stream && s.ordered id kv.2 && Opc.tokened kv.2.opc)
        || kv.2.phase = .dropped
        || (decide (kv.2.tok ≥ 1) && (kv.2.tok = 3 || kv.2.target = q.target)))

def execTokenRelease (id : Nat) (s : State) : Host.Outcome State Fault Refusal :=
  .next (when (s.reqIs id (fun q => s.canRelease id q)) (fun s => s.updReq id (fun q => { q with tok := 1 })) s)

/-- Give the entries of a store the next places in the coherence order, and clear the reservations they touch (R98, R113). -/
def State.makeVisible (s : State) (id : Nat) (clear : Bool) : State :=
  let n := s.hop.visNext
  let addrs := (s.pond.filter (fun e => e.id = id ∧ !e.tally ∧ e.mask ≠ 0)).map (fun e => e.addr)
  let s := { s with pond := mapIf (fun e => decide (e.id = id) && !e.tally) (fun e => { e with vis := n + e.k }) s.pond
                    hop := { s.hop with visNext := n + 8 } }
  if clear then each addrs (fun a s => s.touch a) s else s
/-- Remove the Millpond entries of a request. -/
def State.pondDrop (s : State) (id : Nat) : State := { s with pond := s.pond.filter (fun e => e.tally || e.id ≠ id) }

/-- The Millpond of the target half applies a token (R95, R112, R114). -/
def State.applyToken (s : State) (id : Nat) (q : Req) : State :=
  let s := s.updReq id (fun q => { q with tok := 2 })
  let done := fun s : State => s.updReq id (fun q => { q with phase := .performed })
  if q.opc = Opc.amo then s.makeVisible id false
  else if q.opc = Opc.wrc then
    let held := match s.hop.resv.find? q.stream with | some r => r.holds q.addr | none => false
    let s := s.clearResv (fun k _ => k = q.stream)
    if !held then
      (((done s).pondDrop id).tallyStore q.target 13 1).endReq id Rc.resfail .performed
    else if q.arg = 0 then ((done s).pondDrop id).endReq id Rc.ok .performed
    else done (s.makeVisible id true)
  else if q.opc = Opc.wrp && q.arg = 0 then ((done s).pondDrop id).endReq id Rc.ok .performed
  else done (s.makeVisible id true)
/-- A token is applied in the order released, and behind the Flume entries its store is ordered after (R96, R105). It waits for an
earlier read of its stream to the same cells, which must not see the store (R100, R101); for an earlier WRN of its stream that has
not joined Flume; and for an AMO whose instant, its execution, is yet to come: one of its stream, or an applied one of any stream
on its cell (R98, R101, R114; an AMO behind it on one cell takes its place in the unit). -/
def State.canApply (s : State) (id : Nat) (q : Req) : Bool :=
  q.tok = 1 && !s.readAhead id q
    && !s.earlier id q.stream (fun o => o.opc = Opc.wrn && o.phase = .accepted && o.meets q)
    && !s.earlier id q.stream (fun o => o.opc = Opc.amo && o.open_ && !(q.opc = Opc.amo && o.meets q))
    && !(q.opc ≠ Opc.amo && s.pond.any (fun e => e.amo && decide (e.vis ≠ 0) && q.names e.addr))
    && s.hop.reqs.rows.all (fun kv => !(decide (kv.1 < id) && kv.2.stream = q.stream && s.ordered id kv.2 && Opc.tokened kv.2.opc)
      || kv.2.phase = .dropped || decide (kv.2.tok ≥ 2))
    && !(s.pond.any (fun e => decide (e.id = id) && !e.tally && s.flume.any (fun f => f.wrote e.addr id)))

def execTokenApply (id : Nat) (s : State) : Host.Outcome State Fault Refusal :=
  .next (when (s.reqIs id (fun q => s.canApply id q))
    (fun s => match s.hop.reqs.find? id with | some q => (s.applyToken id q).reap id | none => s) s)

def execTokenAck (id : Nat) (s : State) : Host.Outcome State Fault Refusal :=
  .next (when (s.reqIs id (fun q => q.tok = 2)) (fun s => (s.updReq id (fun q => { q with tok := 3 })).reap id) s)

/-! ### The drains (R31, R106, R140, R156) -/

/-- Nothing stands before the cell's entry: no earlier visible entry of the cell, no lock, its block WRITTEN, its chunk DONE. -/
def State.drainable (s : State) (e : PondEnt) : Bool :=
  e.vis ≠ 0 && s.isWritten e.addr && s.chunkDone e.addr && !s.raceOff e.race && !s.raceHeld e.race
    && !(s.race e.race).inFau e.addr
    && !(s.pond.any (fun o => o.addr = e.addr && decide (o.vis ≠ 0) && decide (o.vis < e.vis)))
/-- The response to a masked store whose bytes are in the write queue (R289). -/
def State.maskedDone (s : State) (id : Nat) (psn : Bool) : State :=
  if psn then s.answer id Rc.poison 1 0 0 [] |>.reap id else s.answer id Rc.ok 0 0 0 [] |>.reap id

/-- A visible Millpond entry enters its race's write queue: a full store in its place or as a new entry, a masked store into an
entry of its cell (R156). A masked store with no such entry goes through the far-atomic unit (FAU_TAKE). -/
def State.drainEnt (s : State) (e : PondEnt) : State :=
  let s := s.modeLatch e.race
  let x := s.race e.race
  let drop := fun s : State => { s with pond := s.pond.filter (fun o => !(o.id = e.id ∧ o.k = e.k ∧ o.tally = e.tally)) }
  let strs := if e.tally then [] else [(e.id, e.stream)]
  let own : WrOwner := if e.tally then .tally else .host
  match x.wqAt e.addr with
  | some w =>
    if e.masked then (drop (s.setRace e.race (x.wqMerge e.addr e.data e.mask (s.epochTag e.half) e.id e.stream))).maskedDone e.id w.psn
    else drop (s.setRace e.race (x.wqPut e.addr e.data e.psn (s.epochTag e.half) e.cls s.now own strs))
  | none =>
    if !e.masked && decide (x.wqRoom > 0) then
      drop (s.setRace e.race (x.wqPut e.addr e.data e.psn (s.epochTag e.half) e.cls s.now own strs))
    else s

def execMillpondDrain (id k : Nat) (s : State) : Host.Outcome State Fault Refusal :=
  .next (match s.pond.find? (fun e => e.id = id ∧ e.k = k ∧ !e.amo) with
    | some e => when (s.drainable e)
        (fun s => (s.drainEnt e).reap id) s
    | none => s)

/-- The cells of a Flume entry with their addresses. -/
def FlumeEnt.cellsOf (e : FlumeEnt) : List (Nat × Cell × Bool) :=
  e.mask.keys.map (fun c => (e.blk * 256 + 64 * c, e.data.get 0 c, bit e.psn c))
/-- A closed entry may enter its race: first of its block, block WRITTEN, room, no lock (R106), and no earlier write of its stream
to its cells still to become visible (R101). -/
def State.flumeReady (s : State) (e : FlumeEnt) : Bool :=
  let x := s.race e.race
  e.closed && s.isWritten (e.blk * 256) && s.chunkDone (e.blk * 256) && !s.raceOff e.race && !s.raceHeld e.race
    && decide (e.mask.rows.length ≤ x.wqRoom)
    && !(s.flume.any (fun o => o.blk = e.blk && decide (o.fid < e.fid)))
    && e.ids.all (fun i => !s.reqIs i (fun q => s.earlier i q.stream (fun o => Opc.tokened o.opc && o.open_ && o.meets q)))
    && e.cellsOf.all (fun c => !x.inFau c.1 && !(s.pond.any (fun o => o.addr = c.1 && decide (o.vis ≠ 0))))
/-- The entry is written into the race; its WRNs are performed and visible (R94, R107). -/
def State.flumeOut (s : State) (e : FlumeEnt) : State :=
  let s := s.modeLatch e.race
  let x := s.race e.race
  let y := e.cellsOf.foldl (fun (y : Race) c => y.wqPut c.1 c.2.1 c.2.2 (s.epochTag e.half) e.cls s.now .host [(e.who.get 0 (c.1 / 64 % 4), e.stream)]) x
  let s := { s.setRace e.race y with flume := s.flume.filter (fun o => o.fid ≠ e.fid) }
  let s := each e.cellsOf (fun c s => s.touch c.1) s
  each e.ids (fun id s => (s.updReq id (fun q => { q with phase := .performed })).reap id) s

def execFlumeEntryDrain (fid : Nat) (s : State) : Host.Outcome State Fault Refusal :=
  .next (match s.flume.find? (fun e => e.fid = fid) with
    | some e => when (s.flumeReady e) (fun s => s.flumeOut e) s
    | none => s)

/-! ### Barriers (R118 to R128) -/

/-- A barrier, whose record it has held since its ACCEPT (R122), is sent to both Hoppers (R119). -/
def State.startBar (s : State) (id : Nat) : State := s.updReq id (fun q => { q with phase := .working })

def execBarS (id : Nat) (s : State) : Host.Outcome State Fault Refusal := .next (when (s.fresh id Opc.barS) (fun s => s.startBar id) s)
def execBarG (id : Nat) (s : State) : Host.Outcome State Fault Refusal := .next (when (s.fresh id Opc.barG) (fun s => s.startBar id) s)
def execBarD (id : Nat) (s : State) : Host.Outcome State Fault Refusal := .next (when (s.fresh id Opc.barD) (fun s => s.startBar id) s)

/-- The half's part of the covered set is resolved. The set of a BAR.G or BAR.D takes in what is accepted in the barrier's own Turn,
so it is whole only when that Turn is over (R119). -/
def State.partClear (s : State) (half id : Nat) (q : Req) : Bool :=
  (q.opc = Opc.barS || decide (s.clk.age > q.turn)) && (s.covered id q).all (fun kv => !(kv.2.target = half && kv.2.open_))
def execBarrierPartResolved (half id : Nat) (s : State) : Host.Outcome State Fault Refusal :=
  .next (when (s.reqIs id (fun q => Opc.barrier q.opc && q.phase = .working && s.partClear half id q))
    (fun s => s.updReq id (fun q => { q with partE := q.partE || half = 0, partW := q.partW || half ≠ 0 })) s)

/-- The LOST mark of a barrier's scope (R124). -/
def State.lostMark (s : State) (q : Req) : Bool :=
  if q.opc = Opc.barS then s.hop.lostS.get false q.stream
  else if q.opc = Opc.barG then s.hop.lostG.get false q.grp else s.hop.lostD
/-- The same mark cleared. -/
def Hop.clearMark (x : Hop) (q : Req) : Hop :=
  if q.opc = Opc.barS then { x with lostS := x.lostS.del q.stream }
  else if q.opc = Opc.barG then { x with lostG := x.lostG.del q.grp } else { x with lostD := false }
/-- A covered request lies in the half that the split has cut off (R128). -/
def State.barCut (s : State) (id : Nat) (q : Req) : Bool :=
  q.cut || s.splitNow && (s.covered id q).any (fun kv => kv.2.target ≠ q.landHalf && kv.2.open_)
/-- The code of a barrier's response (R125). -/
def State.barCode (s : State) (id : Nat) (q : Req) : Nat :=
  if s.brk.safe then Rc.faulted else if s.barCut id q then Rc.unreach else if s.lostMark q then Rc.lost else Rc.ok

def execBarrierComplete (id : Nat) (s : State) : Host.Outcome State Fault Refusal :=
  .next (match s.hop.reqs.find? id with
    | none => s
    | some q =>
      when (Opc.barrier q.opc && q.phase = .working && ((q.partE && q.partW) || s.barCut id q))
        (fun s =>
          let code := s.barCode id q
          let s := { s with hop := if code = Rc.lost ∨ code = Rc.ok then s.hop.clearMark q else s.hop }
          let s := s.tallyStore q.home 11 1
          let s := if code = Rc.lost then s.tallyStore q.home 12 1 else s
          s.endReq id code .performed) s)

end Sys2Proof.Machine
end

