-- ==== Sys2Proof/Machine/Quern.lean ====
section
/-!
DEFINITION. Quern and Dresser (R280 to R306): counting and logging decode outcomes, correction and poison write-backs, scrub,
the row tracker, soft repairs, fuse burns and the steps of an isolation.
-/
namespace Sys2Proof.Machine

/-! ### Lanes and pins (R260, R261, R281) -/

/-- SPIN_REPAIR field of data group g of a pseudo-race: 0, or the failed position plus 1. -/
def State.groupRepair (s : State) (race pr g : Nat) : Nat := bits (s.raw .SPIN_REPAIR (Reg.key .SPIN_REPAIR race 0)).toNat (16 * pr + 4 * g) 4
/-- Physical position of a pin (R261): a repair moves the signals from the failed position up by one. -/
def State.pinPos (s : State) (race pr pin : Nat) : Nat :=
  let g := groupOfPin pin
  let p := if pin < 32 then pin % 8 else 8
  let f := s.groupRepair race pr g
  10 * g + (if f ≠ 0 ∧ p + 1 ≥ f then p + 1 else p)
/-- The pin lies on a lane listed as dead and unrepaired (R286, R294). -/
def State.deadPin (s : State) (race pr pin : Nat) : Bool := (64 * pr + s.pinPos race pr pin) ∈ (s.race race).tr.dead

/-! ### Counting and logging (R287, R289, R294 to R296) -/

/-- QRN_CNT and Tally for an outcome. -/
def State.countCE (s : State) (race : Nat) : State := (s.fadd Fld.QRN_CNT_CE 1 race).tallyStore (raceHalf race) 9 1
def State.countUE (s : State) (race : Nat) : State := (s.fadd Fld.QRN_CNT_UE 1 race).tallyStore (raceHalf race) 10 1
def State.countPsn (s : State) (race : Nat) : State := s.fadd Fld.QRN_CNT_PSN 1 race

/-- QRN_UE_LOG (R306): the first event with its source and cell; MULTI from the second on. -/
def State.logUE (s : State) (h src a : Nat) : State :=
  if s.fheld Fld.QRN_UE_LOG_VALID 0 h = 0 then
    s.setRaw .QRN_UE_LOG (Reg.key .QRN_UE_LOG 0 h) (BitVec.ofNat 64 (2 ^ 63 + src % 8 * 2 ^ 59 + (a / 64) % 2 ^ 34 * 2 ^ 6))
  else s.fset Fld.QRN_UE_LOG_MULTI 1 0 h
/-- Log and raise a UE or MISS (R296, R388). -/
def State.reportUE (s : State) (src a : Nat) : State :=
  let r := s.raceAt a
  (s.logUE (raceHalf r) src a).raise Src.QRN_UE r (src % 8 * 2 ^ 34 + (a / 64) % 2 ^ 34)

/-- Count the corrected symbols of a decode per pin, leaving out dead lanes, and raise QRN_PIN at the threshold (R294). CNT_A and CNT_B hold
the count that reached it (log entry 105). -/
def State.countPins (s : State) (race pr : Nat) (syms : List Nat) : State :=
  let h := raceHalf race
  each (syms.map pinOfSym) (fun pin s =>
    if s.deadPin race pr pin then s
    else
      let q := s.qrn h
      let k := (race * 2 + pr) * 64 + pin
      let n := q.pins.get 0 k + 1
      let s := s.setQrn h { q with pins := q.pins.ins k n }
      let hit := decide (n ≥ s.fget Fld.QRN_ERR_CFG_PIN_THR 0 h) && !(k ∈ q.pinHit)
      if hit then
        let q := s.qrn h
        let s := s.setQrn h { q with pinHit := q.pinHit ++ [k] }
        let lo := 32 * pr
        let w := (s.raw .QRN_PIN (Reg.key .QRN_PIN race 0)).toNat
        let w := setBits w lo 32 (2 ^ 31 + pin * 2 ^ 20 + n % 2 ^ 20)
        (s.setRaw .QRN_PIN (Reg.key .QRN_PIN race 0) (BitVec.ofNat 64 w)).raise Src.QRN_PIN race (pr * 2 ^ 6 + pin)
      else s) s

/-- A row as the tracker names it: the byte address of its first cell. -/
def rowBase (nsid mask a : Nat) : Nat := encodeAddr nsid mask { decodeAddr nsid mask a with col := 0 }

/-- Bank of a spare entry in use: fuse map and soft table (R298, R301). -/
def State.softEntries (s : State) : List (Nat × Nat) :=
  (List.range 64).map (fun i => (i, (s.raw .DRS_SOFT (Reg.key .DRS_SOFT i 0)).toNat))
def softState (w : Nat) : Nat := bits w 16 2
/-- Spare rows of a bank in use. -/
def State.sparesUsed (s : State) (bank : Nat) : Nat :=
  countP (fun e : Word => decide (entType e.toNat = 1) && decide (entBankKey e.toNat = bank)) (mapApplied s.ld.map)
    + countP (fun e : Nat × Nat => decide (softState e.2 ≠ 0) && decide (softState e.2 ≠ 3) && decide (entBankKey e.2 = bank)) s.softEntries
/-- Soft-table entry word of a row: TYPE 0x1 and the fields of R298, state PENDING. -/
def softWord (p : Place) (st : Nat) : Word :=
  BitVec.ofNat 64 (1 * 2 ^ 60 + p.race * 2 ^ 55 + p.pr * 2 ^ 54 + p.sid * 2 ^ 52 + p.bg * 2 ^ 50 + p.bank * 2 ^ 47 + p.row * 2 ^ 30 + st * 2 ^ 16)
/-- A request of a runtime retraining (R274): the FAN_CTRL bit is set and the race joins the half's queue. -/
def State.askRetrain (s : State) (race : Nat) : State :=
  let h := raceHalf race
  let f := s.fan h
  if race ∈ f.queue || f.running = some race then s
  else
    let s := s.fset Fld.FAN_CTRL_RETRAIN (s.fheld Fld.FAN_CTRL_RETRAIN 0 h ||| 2 ^ (race % 16)) 0 h
    s.setFan h { f with queue := f.queue ++ [race] }
/-- Queue a soft row repair (R300): none where no spare row or no table entry is free. -/
def State.queueRepair (s : State) (p : Place) : Option State :=
  match s.softEntries.find? (fun e => softState e.2 = 0) with
  | none => none
  | some (i, _) =>
    if s.sparesUsed (p.race * 1024 + p.bankNo) ≥ 8 then none
    else
      let s := s.setRaw .DRS_SOFT (Reg.key .DRS_SOFT i 0) (softWord p 1)
      some (s.askRetrain p.race)

/-- The row tracker (R295): a CE adds 1, a UE sets the count to the threshold; at the threshold QRN_ROW_LOG and QRN_ROW. -/
def State.trackRow (s : State) (a : Nat) (ue : Bool) : State :=
  let p := s.place a
  let h := raceHalf p.race
  let q := s.qrn h
  let base := rowBase s.nsid s.hashMask a
  let thr := s.fget Fld.QRN_ERR_CFG_ROW_THR 0 h
  let old := q.rows.find? (fun e => e.row = base)
  let cnt0 := (old.map (fun e => e.cnt)).getD 0
  let cnt := if ue then thr else cnt0 + 1
  let e : RowEnt := { row := base, cnt := cnt, raised := q.tick, ue := ue || (old.map (fun e => e.ue)).getD false, fresh := true }
  let rest := q.rows.filter (fun x => x.row ≠ base)
  let rest := if rest.length ≥ 64 then
      let lo := (rest.map (fun x => x.raised)).min?.getD 0
      rest.eraseP (fun x => x.raised = lo)
    else rest
  let s := s.setQrn h { q with rows := rest ++ [e], tick := q.tick + 1 }
  if cnt ≥ thr && decide (cnt0 < thr) then
    let w := 2 ^ 63 + p.race * 2 ^ 58 + p.pr * 2 ^ 57 + p.sid * 2 ^ 55 + p.bg * 2 ^ 53 + p.bank * 2 ^ 50 + p.row * 2 ^ 33 + b2n e.ue * 2 ^ 32
    let s := s.setRaw .QRN_ROW_LOG (Reg.key .QRN_ROW_LOG 0 h) (BitVec.ofNat 64 w)
    let s := s.raise Src.QRN_ROW p.race (bits w 33 25)
    if s.fb Fld.DRS_CTRL_AUTO_PPR then (s.queueRepair p).getD s else s
  else s

/-- What a corrected decode leaves behind: count, pins, row. -/
def State.noteCE (s : State) (a : Nat) (syms : List Nat) : State :=
  let p := s.place a
  ((s.countCE p.race).countPins p.race p.pr syms).trackRow a false

/-- Corrected symbols outside unrepaired dead lanes (R286). -/
def State.liveSyms (s : State) (a : Nat) (syms : List Nat) : Nat :=
  let p := s.place a
  countP (fun i => !s.deadPin p.race p.pr (pinOfSym i)) syms
/-- A write-back of the cell is dropped: it has an entry in the write queue or the unit, or a store to it has entered the race since
the read was selected (R286). -/
def State.backDrops (s : State) (a : Nat) (stale : Bool) : Bool :=
  let x := s.race (s.raceAt a)
  stale || (x.wqAt a).isSome || x.inFau a
/-- Queue a write-back of a cell as a class-3 write-queue entry, which counts against BG's budget (R291); without a free entry, or without
budget left in this Turn, it waits. -/
def State.writeBack (s : State) (a : Nat) (data : Cell) (psn : Bool) (epoch : Nat) (stale : Bool) : State :=
  let r := s.raceAt a
  if s.backDrops a stale then s
  else if (s.race r).wqRoom = 0 || s.bgRoom 3 = 0 then
    let x := s.race r
    s.setRace r { x with backs := x.backs.filter (fun b => b.1 ≠ a) ++ [(a, data, psn, epoch)] }
  else
    let s := (s.modeLatch r).bgUse 3 1
    s.setRace r ((s.race r).wqPut a data psn epoch 3 s.now .quern [])
/-- The write-back of a race that has waited longest takes an entry, once one is free and BG's budget admits it. -/
def State.backIn (s : State) (r now : Nat) : State :=
  let x := s.race r
  match x.backs with
  | [] => s
  | b :: rest =>
    if (x.wqAt b.1).isSome || x.inFau b.1 then s.setRace r { x with backs := rest }
    else if x.wqRoom = 0 || s.bgRoom 3 = 0 then s
    else (s.bgUse 3 1).setRace r { x.wqPut b.1 b.2.1 b.2.2.1 b.2.2.2 3 now .quern [] with backs := rest }
/-- The correction write-back of a CE (R286): it stores the epoch it read. -/
def State.correct (s : State) (a : Nat) (w : Codeword) (syms : List Nat) (stale : Bool) : State :=
  if s.liveSyms a syms ≥ s.fget Fld.QRN_ERR_CFG_WB_THR 0 (raceHalf (s.raceAt a)) then s.writeBack a (cwData w) false (cwEpoch w) stale else s
/-- The poison write-back of the scrubber (R292): counted, logged, raised and tracked unless the demand read was. Unless it is dropped
the page becomes dirty. -/
def State.poisonBack (s : State) (a : Nat) (w : Codeword) (report stale : Bool) : State :=
  let r := s.raceAt a
  let drop := s.backDrops a stale
  let s := s.writeBack a (cwData w) true (s.epochTag (raceHalf r)) stale
  let s := if drop then s else s.dirtyAt a
  if report then ((s.countUE r).reportUE 2 a).trackRow a true else s
/-- Put a cell into the scrubber's priority queue (R287). -/
def State.queueScrub (s : State) (a : Nat) : State :=
  let h := raceHalf (s.raceAt a)
  let q := s.qrn h
  s.setQrn h { q with prio := q.prio ++ [a] }

/-! ### Outcomes by reader (R285, R289, R292) -/

/-- A free cell: the bytes delivered for a poisoned or uncorrectable cell are undefined (R75, R283). Log entry 10. -/
def State.freeCellOf (s : State) : Cell := Config.freeCell s.freeCtr

/-- A demand read's burst decodes (R283, R285 to R287). -/
def State.demand (s : State) (id k a : Nat) (d : Decoded) (stale : Bool) : State :=
  match d.out with
  | .clean => s.bindCell id k (cwData d.word) false
  | .ce => ((s.noteCE a d.fixed).correct a d.word d.fixed stale).bindCell id k (cwData d.word) false
  | .poisoned =>
    let s := s.countPsn (s.raceAt a)
    let s := if d.fixed.isEmpty then s else s.noteCE a d.fixed
    ({ s with freeCtr := s.freeCtr + 1 }).bindCell id k s.freeCellOf true
  | .ue | .miss =>
    let src := if d.out = .miss then 4 else 0
    let s := (((s.countUE (s.raceAt a)).reportUE src a).trackRow a true).queueScrub a
    ({ s with freeCtr := s.freeCtr + 1 }).bindCell id k s.freeCellOf true

/-- A cell of the piece has been handled. -/
def State.pieceDone (s : State) (a : Nat) (prio : Bool) : State :=
  let h := raceHalf (s.raceAt a)
  if prio then s else s.setQrn h { s.qrn h with piece := (s.qrn h).piece.erase a, unread := (s.qrn h).unread.erase a }
/-- A cell is read once more (R292): by a read of the race, or, where the cell has come into the write queue, from its entry (R156),
which is sound; a cell in the unit, or one for which the read queue has no room or BG no budget (R291), waits. -/
def State.scrubAgain (s : State) (a : Nat) (prio : Bool) : State :=
  let r := s.raceAt a
  let h := raceHalf r
  let x := s.race r
  let waits := s.setQrn h { s.qrn h with again := (s.qrn h).again ++ [(a, prio)] }
  match x.wqAt a with
  | some w => if x.inFau a then waits else let s := s.pieceDone a prio; if w.psn then s else s.fadd Fld.QRN_CNT_TRANS 1 r
  | none =>
    if x.inFau a || !x.rqFits 3 1 || s.bgRoom 3 = 0 then waits
    else
      let s := (s.modeLatch r).bgUse 3 1
      let x := s.race r
      let y := x.rqPut (if prio then .scrubPrio else .scrub) 0 0 a 3 s.now
      s.setRace r { y with rq := mapIf (fun e => e.qid = x.nextQ) (fun e => { e with retry := true }) y.rq }
/-- A scrub cell decodes (R292). `prio`: queued by a demand read, which has reported it. -/
def State.scrubbed (s : State) (a : Nat) (prio retry : Bool) (d : Decoded) (stale : Bool) : State :=
  let r := s.raceAt a
  let h := raceHalf r
  let again := s.fb Fld.QRN_SCRUB_CFG_RETRY 0 h && !retry
  let s := if d.out = .ue && again then s else s.pieceDone a prio
  let s := if retry && (d.out = .clean || d.out = .ce) then s.fadd Fld.QRN_CNT_TRANS 1 r else s
  match d.out with
  | .clean => s
  | .poisoned => let s := s.countPsn r; if d.fixed.isEmpty then s else s.noteCE a d.fixed
  | .ce => (s.noteCE a d.fixed).correct a d.word d.fixed stale
  | .ue => if again then s.scrubAgain a prio else s.poisonBack a d.word (!prio) stale
  | .miss => if prio then s else (s.countUE r).reportUE 4 a

/-! ### Scrub walk (R290, R291) -/

/-- Cells of a piece: piece number within region v, in the order of R290 for a half. -/
def State.pieceCells (s : State) (h v piece : Nat) : List Nat :=
  let race := piece % 16 + 16 * h
  let pr := (piece / 16) % 2
  let bank := (piece / 32) % 8
  let bg := (piece / 256) % 4
  let p : Place := { v := v, sid := v % s.nsid, row := v / s.nsid, race := race, pr := pr, bg := bg, bank := bank, col := 0 }
  (List.range 16).map (fun c => encodeAddr s.nsid s.hashMask { p with col := c })
/-- The scrubber runs (R293). -/
def State.scrubOn (s : State) (h : Nat) : Bool :=
  s.fb Fld.QRN_SCRUB_CFG_EN 0 h && s.mainsOn && !s.brk.safe && !s.gov.drain
    && ((s.hst h).st = .off || (s.hst h).serveComplete)
/-- Start the next piece: its cells that are in WRITTEN blocks of a serving race and not in the write queue are read as class 3;
the position moves on (R290). -/
def State.startPiece (s : State) (h : Nat) : State :=
  let v := s.fheld Fld.QRN_SCRUB_STAT_V 0 h
  let piece := s.fheld Fld.QRN_SCRUB_STAT_PIECE 0 h
  let cells := s.pieceCells h v piece
  let a0 := cells.headD 0
  let p := s.place a0
  let x := s.race p.race
  let ok := s.isWritten a0 && !s.raceOff p.race && x.run && !x.sref.get false p.sid
  let todo := if ok then cells else []
  let last := decide (piece + 1 ≥ 1024)
  let v' := if last then (if v + 1 ≥ regionsOf s.ld then 0 else v + 1) else v
  let s := s.fset Fld.QRN_SCRUB_STAT_PIECE ((piece + 1) % 1024) 0 h
  let s := s.fset Fld.QRN_SCRUB_STAT_V v' 0 h
  let s := if last && decide (v + 1 ≥ regionsOf s.ld) then s.fwrap Fld.QRN_SCRUB_STAT_PASSES 1 0 h else s
  let q := s.qrn h
  (s.setQrn h { q with piece := todo, unread := todo, lastPiece := if q.waits then q.lastPiece else s.clk.age, waits := false }).tallyStore h 8 1

/-- Read cells of the piece, as the read queue and BG's budget admit them (R238, R291); a cell that has come into the write queue is not read
(R290), and one that the unit holds waits (R170). -/
def State.feedPiece (s : State) (h : Nat) : List Nat → State
  | [] => s
  | a :: rest =>
    let r := s.raceAt a
    let x := s.race r
    if (x.wqAt a).isSome then (s.pieceDone a false).feedPiece h rest
    else if x.inFau a then s.feedPiece h rest
    else if !x.rqFits 3 1 || s.bgRoom 3 = 0 then s
    else
      let s := (s.modeLatch r).bgUse 3 1
      let s := s.setRace r ((s.race r).rqPut .scrub 0 0 a 3 s.now)
      (s.setQrn h { s.qrn h with unread := (s.qrn h).unread.erase a }).feedPiece h rest

/-- A scrub piece is due (R291): LAG counts where its predecessor has not completed, and the piece starts once it has. A piece whose cells
have not all been read goes on. Cells of the priority queue are served ahead of the walk (R287): while one waits, no piece starts or reads on. -/
def execScrubPieceStart (half : Nat) (s : State) : Host.Outcome State Fault Refusal :=
  .next (when (decide (half < 2) && s.scrubOn half)
    (fun s =>
      let q := s.qrn half
      let due := decide (q.lastPiece + s.fget Fld.QRN_SCRUB_CFG_INTERVAL 0 half ≤ s.clk.age)
      let first := !q.prio.isEmpty || !q.again.isEmpty
      let s := if q.piece.isEmpty then (if (q.waits || due) && !first then s.startPiece half else s)
        else if due && !q.waits then (s.setQrn half { q with lastPiece := s.clk.age, waits := true }).fadd Fld.QRN_SCRUB_STAT_LAG 1 0 half
        else s
      if first then s else s.feedPiece half (s.qrn half).unread) s)

/-- The scrubber takes the oldest cell of its priority queue (R287). A cell whose store waits in the write queue is not read (R290);
one that the unit holds, or that finds no room in the read queue or no budget of BG (R291), keeps its place. -/
def State.prioCheck (s : State) (half a : Nat) (rest : List Nat) : State :=
  let r := s.raceAt a
  let x := s.race r
  let go := s.isWritten a && !s.raceOff r && (x.wqAt a).isNone
  if go && (x.inFau a || !x.rqFits 3 1 || s.bgRoom 3 = 0) then s
  else
    let s := s.setQrn half { s.qrn half with prio := rest }
    if go then
      let s := (s.modeLatch r).bgUse 3 1
      s.setRace r ((s.race r).rqPut .scrubPrio 0 0 a 3 s.now)
    else s
/-- A second read that has waited comes before the queue. -/
def execScrubPriorityCheck (half : Nat) (s : State) : Host.Outcome State Fault Refusal :=
  .next (when (s.scrubOn half && decide (half < 2)) (fun s =>
    match (s.qrn half).again, (s.qrn half).prio with
    | e :: rest, _ => (s.setQrn half { s.qrn half with again := rest }).scrubAgain e.1 e.2
    | [], a :: rest => s.prioCheck half a rest
    | [], [] => s) s)

/-- A window ends (R294, R295): pin counts restart; entries not raised in it are freed. -/
def execErrorWindowEnd (half : Nat) (s : State) : Host.Outcome State Fault Refusal :=
  .next (when (decide (half < 2) && decide (s.clk.turn % (s.fget Fld.QRN_ERR_CFG_WINDOW 0 half * 65536) = 0) && (s.qrn half).winAt ≠ some s.clk.age)
    (fun s =>
      let q := s.qrn half
      s.setQrn half { q with pins := {}, pinHit := [], winAt := some s.clk.age
                             rows := (q.rows.filter (fun e => e.fresh)).map (fun e => { e with fresh := false }) }) s)

/-! ### Fuse burns (R302) -/

/-- An entry whose CHK fails. -/
def badEntry (w : Word) : Word := BitVec.ofNat 64 (setBits w.toNat 0 8 (entChk w.toNat ^^^ 0xFF))

/-- A burn finishes: the fuse holds the entry, or an entry whose CHK fails; LAST is set, DRS_FUSE raised on failure. -/
def execFuseBurnComplete (good : Bool) (s : State) : Host.Outcome State Fault Refusal :=
  .next (match s.drs.burn with
    | none => s
    | some (i, w) =>
      let bad := badEntry w
      let s := { s with drs := { s.drs with burn := none }
                        fuse := { s.fuse with map := s.fuse.map.ins i (if good then w else bad) } }
      let s := s.fset Fld.DRS_STAT_LAST (if good then 1 else 2)
      if good then s else s.raise Src.DRS_FUSE 0 i)

/-! ### Isolation (R303, R304, R126) -/

/-- The decision is due: the Brake or a command named the race. -/
def execIsolationDecision (race : Nat) (s : State) : Host.Outcome State Fault Refusal :=
  .next (when (race ∈ s.brk.isoDue && !s.isolated race) (fun s => s.isolate race) s)

/-- Turns since the decision. -/
def State.isoAge (s : State) (race : Nat) : Option Nat := ((s.race race).isoAt).map (fun t => s.clk.age - t)
def State.isoReached (s : State) (race n : Nat) : Bool := match s.isoAge race with | some a => decide (a ≥ n) | none => false

/-- From Turn t+1 admission answers OFF, Weir counts the race off, reservations on its granules are lost (R113, R304). -/
def execIsolationAdmitOff (race : Nat) (s : State) : Host.Outcome State Fault Refusal :=
  .next (when (s.isoReached race 1 && !(s.race race).isoOff)
    (fun s => (s.setRace race { s.race race with isoOff := true }).clearResv (fun _ r => s.raceAt r.base = race)) s)

/-- The scrubber passes over the cells of a race whose reads are gone. -/
def State.scrubDrop (s : State) (race : Nat) : State :=
  let h := raceHalf race
  let keep := fun a : Nat => decide (s.raceAt a ≠ race)
  let q := s.qrn h
  s.setQrn h { q with piece := q.piece.filter keep, unread := q.unread.filter keep, again := q.again.filter (fun e => keep e.1) }
/-- At Turn t+2 every queued RD and RDX of the race is answered OFF (R304). -/
def State.readsOff (s : State) (race : Nat) : State :=
  let ids := (s.hop.reqs.rows.filter (fun kv => kv.2.race = race ∧ (kv.2.opc = Opc.rd ∨ kv.2.opc = Opc.rdx) ∧ kv.2.open_ = true)).map Prod.fst
  let x := s.race race
  let s := s.scrubDrop race
  each ids (fun id s => s.endReq id Rc.off .dropped) (s.setRace race { x with rq := [], isoReads := true })
def execIsolationReadsOff (race : Nat) (s : State) : Host.Outcome State Fault Refusal :=
  .next (when (s.isoReached race 2 && !(s.race race).isoReads) (fun s => s.readsOff race) s)

/-- The accepted stores buffered for a race, with number, stream and a cell address: in Millpond, where a store at work in the unit has its
entry still (R171), in Flume, in the write queue, and those whose data has not reached a buffer. -/
def State.lostStores (s : State) (race : Nat) : List (Nat × Nat × Nat) :=
  ((s.pond.filter (fun e => e.race = race && !e.tally)).map (fun e => (e.id, e.stream, e.addr)))
    ++ (s.flume.filter (fun e => e.race = race)).flatMap (fun e => e.ids.map (fun i =>
        (i, e.stream, match s.hop.reqs.find? i with | some q => q.addr | none => e.blk * 256)))
    ++ (s.race race).wq.flatMap (fun e => e.stores.map (fun t => (t.1, t.2, e.addr)))
    ++ (s.hop.reqs.rows.filter (fun kv => kv.2.race = race && Opc.store kv.2.opc && kv.2.phase = .accepted)).map (fun kv => (kv.1, kv.2.stream, kv.2.addr))
/-- Each store once, by its number, however many cells it has. -/
def storesOnce (l : List (Nat × Nat × Nat)) : List (Nat × Nat × Nat) :=
  l.foldl (fun acc e => if acc.any (fun o => o.1 = e.1) then acc else acc ++ [e]) []
/-- Drop every buffered store of a race (R126), each once. A dropped WRP or WRC that has not been answered answers LOST, an AMO OFF. -/
def State.dropRace (s : State) (race : Nat) : State :=
  let s := each (storesOnce (s.lostStores race)) (fun e s => s.dropStore e.2.1 e.2.2) s
  let s := { s with pond := s.pond.filter (fun e => e.race ≠ race), flume := s.flume.filter (fun e => e.race ≠ race) }
  let s := s.setRace race { s.race race with wq := [], fau := [], flights := [], isoDrop := true }
  let ids := (s.hop.reqs.rows.filter (fun kv => kv.2.race = race ∧ Opc.store kv.2.opc)).map Prod.fst
  each ids (fun id s => match s.hop.reqs.find? id with
    | none => s
    | some q =>
      s.endReq id (if q.opc = Opc.amo then Rc.off else Rc.lost) (if q.phase = .performed then .performed else .dropped)) s
def execIsolationStoreDrop (race : Nat) (s : State) : Host.Outcome State Fault Refusal :=
  .next (when ((s.isoAge race).isSome && !(s.race race).isoDrop) (fun s => s.dropRace race) s)

/-- At Turn t+64 the race's map bits clear and its domain switches off (R304); DRS_ISOL.ISOL keeps the record. -/
def execIsolationFinal (race : Nat) (s : State) : Host.Outcome State Fault Refusal :=
  .next (when (s.isoReached race 64 && !(s.race race).isoDone)
    (fun s => { s.setRace race { s.race race with isoDone := true, isoAt := none } with
      dram := { s.dram with wmap := s.dram.wmap.keep (fun b _ => b % 32 ≠ race)
                            zeroed := s.dram.zeroed.keep (fun b _ => b % 32 ≠ race) } }) s)

end Sys2Proof.Machine
end

