-- ==== Sys2Proof/Machine/Race.lean ====
section
/-!
DEFINITION. The commands of a race on its bus other than refresh (R148 to R175), its read returns and missing strobes (R174),
the far-atomic unit (R168 to R171), fills (R139 to R147), power-down (R172) and the mode-register port (R173).
-/
namespace Sys2Proof.Machine

/-- The race exists and may issue commands. -/
def State.raceCmd (s : State) (r : Nat) : Bool := decide (r < 32) && s.raceRuns r

/-! ### Row upkeep counts (R193 to R195) -/

/-- The tracked row with the lowest count, lowest slot first. -/
def lowTracked : List (Nat × Nat) → Option (Nat × Nat)
  | [] => none
  | e :: l => match lowTracked l with
    | none => some e
    | some f => if f.2 < e.2 then some f else some e
/-- The tracked row with the highest count, lowest entry first. -/
def highTracked : List (Nat × Nat) → Option (Nat × Nat)
  | [] => none
  | e :: l => match highTracked l with
    | none => some e
    | some f => if e.2 < f.2 then some f else some e
/-- The hot-row tracker on an ACT (R195). A replaced entry's count stays within its 8 bits (log entry 95). -/
def track (l : List (Nat × Nat)) (row : Nat) : List (Nat × Nat) :=
  if l.any (fun e => e.1 = row) then mapIf (fun e => e.1 = row) (fun e => (e.1, min (e.2 + 1) 255)) l
  else if l.length < 32 then l ++ [(row, 1)]
  else match lowTracked l with
    | some m => mapIf (fun e => e.1 = m.1) (fun _ => (row, min (m.2 + 1) 255)) l
    | none => l
/-- RAA_MAX in force: a value not above RFM_TH is used as RFM_TH + 1 (R204). -/
def State.raaMax (s : State) (r : Nat) : Nat := max (s.fget Fld.RACE_REF_CFG_RAA_MAX r) (s.fget Fld.RACE_REF_CFG_RFM_TH r + 1)
/-- One more urgent refresh arises on a pseudo-race; the second in a Turn makes the Turn a crowd, counted once for the race (R190). -/
def State.urgArises (s : State) (r pr : Nat) : State :=
  let x := s.race r
  let n := (if pr = 0 then x.urgA else x.urgB) + 1
  let s := s.setRace r { x with urgA := if pr = 0 then n else x.urgA, urgB := if pr = 0 then x.urgB else n }
  if n = 2 && decide ((if pr = 0 then x.urgB else x.urgA) < 2) then (s.fadd Fld.RACE_REF_CNT_CROWD 1 r).raise Src.RACE_REF r pr else s
/-- What an ACT opens its row for (R158): the entry that pick_row chose it for, or the fill. -/
def State.openerOf (s : State) (r t : Nat) (n : RowReq) : Option Nat :=
  let mine := (s.waiting r).filter (fun e => e.place.bankNo = Sys2Proof.Machine.bankNo n.pr n.sid n.bg n.bank && e.place.row = n.row && decide (e.rowMin ≤ t))
  let cls := fun c => (oldestEnt (mine.filter (fun e => e.cls = c))).map (fun e => e.qid)
  match cls 0 with
  | some q => some q
  | none =>
    if (s.fillRows r).any (fun m => m = n) then some 0
    else ([1, 2, 3].filterMap cls).head?
/-- An ACT of a bank: row open, RAA, tracker, RFM request and urgency (R193 to R195, R188). -/
def State.actBank (s : State) (r t : Nat) (n : RowReq) : State :=
  let s := s.modeAt r t
  let x := s.race r
  let b := x.bankOf n
  let raa := min (b.raa + 1) 255
  let want := s.fb Fld.RACE_REF_CFG_RFM_EN r && decide (raa ≥ s.fget Fld.RACE_REF_CFG_RFM_TH r)
  let ask := want && !b.rfmReq
  let urg := want && decide (raa ≥ s.raaMax r) && !b.urgRfm
  let k := Sys2Proof.Machine.bankNo n.pr n.sid n.bg n.bank
  let b := { b with row := some n.row, actAt := t, used := false, opener := s.openerOf r t n, hits := 0, raa := raa, rfmReq := b.rfmReq || ask
                    urgRfm := b.urgRfm || urg, trk := track b.trk n.row }
  let x := { x.setBank n b with rfmQ := if ask then x.rfmQ ++ [(n.pr, k, t)] else x.rfmQ, idleSince := none }
  let s := (s.setRace r (x.issue n t 0)).tallyRace r 0 1
  if urg then s.urgArises r n.pr else s

/-! ### ACT and PRE -/

def execDramAct (race mc pr sid bg bank row : Nat) (s : State) : Host.Outcome State Fault Refusal :=
  let t := s.at mc
  let n : RowReq := ⟨.act, pr, sid, bg, bank, row⟩
  .next (when (s.raceCmd race && s.legal race t n && s.rowGranted race t n)
    (fun s => { s.actBank race t n with clk := s.clkAt mc }) s)

/-- Close the row of a bank. -/
def State.preBank (s : State) (r t : Nat) (n : RowReq) : State :=
  let s := s.modeAt r t
  let x := s.race r
  (s.setRace r ((x.setBank n { x.bankOf n with row := none, hits := 0, used := false, opener := none }).issue n t 0)).pdNote r t
def execDramPre (race mc pr sid bg bank : Nat) (s : State) : Host.Outcome State Fault Refusal :=
  let t := s.at mc
  let n : RowReq := ⟨.pre, pr, sid, bg, bank, 0⟩
  let want := match s.pickRow race t with
    | some m => m.cmd = .pre && Sys2Proof.Machine.bankNo m.pr m.sid m.bg m.bank = Sys2Proof.Machine.bankNo pr sid bg bank
    | none => false
  let ok := match (s.race race).grantR.find? (fun g => g.2 = t) with
    | some g => decide ({ g.1 with row := 0 } = n)
    | none => want
  .next (when (s.raceCmd race && s.legal race t n && ok) (fun s => { s.preBank race t n with clk := s.clkAt mc }) s)

/-! ### Column commands -/

/-- The marks that a column command, of a queue entry or of the fill (0), leaves on its bank: used, its mc, the count toward HIT_CAP
(R157), the end of R158's exception. -/
def State.colBank (s : State) (r t : Nat) (n : RowReq) (qid : Option Nat) (conflict : Bool) : State :=
  let x := s.race r
  let b := x.bankOf n
  let b := { b with used := true, opener := if qid.isSome && b.opener = qid then none else b.opener, colAt := t, hits := if conflict then b.hits + 1 else 0 }
  s.setRace r ((x.setBank n b).issue n t ((s.tim r).dataAt n.cmd t))
/-- A conflicting entry waits for the bank of n. -/
def conflictWaits (ents : List Ent) (x : Race) (n : RowReq) : Bool :=
  ents.any (fun e => e.place.bankNo = Sys2Proof.Machine.bankNo n.pr n.sid n.bg n.bank && (x.bankOf n).row ≠ some e.place.row)
/-- Tally of a burst placed by an entry (R396): its command, the row hit, its class. -/
def State.tallyCol (s : State) (r : Nat) (e : Ent) (hit : Bool) : State :=
  let s := s.tallyRace r (if e.wr then 2 else 1) 1
  let s := if hit then s.tallyRace r 5 1 else s
  s.tallyRace r (7 + min e.cls 3) 1

/-- Issue the RD of a read-queue entry or of a unit entry. -/
def State.rdIssue (s : State) (r t : Nat) (e : Ent) : State :=
  let ents := s.waiting r
  let x := s.race r
  let hit := decide ((x.bankOf e.req).actAt ≤ e.since)
  let word := s.cellWord e.addr
  let mode := s.writeMode r t ents
  let s := s.colBank r t e.req (some e.qid) (conflictWaits ents x e.req)
  let x := { s.race r with wmode := mode }
  let at_ := (s.tim r).strobe .rd t
  let s := s.tallyCol r e hit
  match x.rq.find? (fun q => q.qid = e.qid) with
  | some q =>
    let f : Flight := { pr := e.place.pr, at_ := at_, mrr := false, qid := q.qid, kind := q.kind, id := q.id, k := q.k, addr := q.addr
                        word := word, retry := q.retry, stale := q.stale }
    let exp := q.kind = .host && s.reqIs q.id (fun h => h.express) && decide (t ≤ q.since + 1)
    let s := s.setRace r { x with rq := x.rq.filter (fun o => o.qid ≠ q.qid), flights := x.flights ++ [f] }
    if exp then (s.tallyRace r 6 1).tallyCls (raceHalf r) q.cls 4 1 else s
  | none =>
    let f : Flight := { pr := e.place.pr, at_ := at_, mrr := false, qid := e.qid, kind := .fau, id := 0, k := 0, addr := e.addr, word := word }
    s.setRace r { x with flights := x.flights ++ [f]
                         fau := mapIf (fun o => o.qid = e.qid) (fun o => { o with rdAt := some t }) x.fau }

/-- Column and distance from the centre of probe j % 6 (R268, R269): read columns 0 to 7, write columns 8 to 15, each used next in turn;
RBL and RBH read what WRL and WRH wrote, at the trained settings. -/
def Train.probePlace (x : Train) (k j m : Nat) : Nat × Int :=
  let rd := x.rdCol.get 0 k
  let wr := x.wrCol.get 0 k
  if j % 6 = 0 then (rd, -(m : Int)) else if j % 6 = 1 then (rd, m)
  else if j % 6 = 2 then (8 + wr, -(m : Int)) else if j % 6 = 3 then (8 + (wr + 1) % 8, m)
  else if j % 6 = 4 then (8 + wr, 0) else (8 + (wr + 1) % 8, 0)
/-- The probe row after probe j: the column that a write probe wrote, the columns that come next. -/
def Train.probeDone (x : Train) (k j : Nat) (c : Nat × Int) : Train :=
  if probeCmd j = .wr then { x with cols := x.cols.ins (16 * k + c.1) (Config.trackPattern c.1, c.2) }
  else if j % 6 = 1 then { x with rdCol := x.rdCol.put 0 k ((x.rdCol.get 0 k + 1) % 8) }
  else if j % 6 = 5 then { x with wrCol := x.wrCol.put 0 k ((x.wrCol.get 0 k + 2) % 8) }
  else x
/-- The claim on a slot is used. -/
def Race.dropClaim (x : Race) (pr age turn slot : Nat) : Race :=
  let f := fun p : Plan => { p with claims := p.claims.filter (fun e => e ≠ (slot, true)) }
  if turn = age then x.setPlan pr (f (x.plan pr))
  else if pr = 0 then { x with nextA := x.nextA.map f } else { x with nextB := x.nextB.map f }
/-- A Fantail probe burst (R269). A read probe is compared raw and never passes Quern. -/
def State.probeIssue (s : State) (r pr t : Nat) : State :=
  let s := s.modeAt r t
  let x := s.race r
  let j := x.tr.next pr
  let n := x.probeReq pr (probeCmd j)
  let k := 4 * pr + n.sid
  let c := x.tr.probePlace k j (s.fget Fld.FAN_CFG_TRK_M 0 (raceHalf r))
  let ds := (s.tim r).dataAt n.cmd t
  let held := (x.tr.cols.find? (16 * k + c.1)).getD (Config.trackPattern c.1, 0)
  let s := (s.colBank r t n none (conflictWaits (s.waiting r) x n)).tallyRace r (if probeCmd j = .wr then 2 else 1) 1
  let x := s.race r
  let tr := { x.tr with await := if j % 6 = 1 then x.tr.await ++ [(pr * 4 + j / 6) * 2] else if j % 6 = 5 then x.tr.await ++ [(pr * 4 + j / 6) * 2 + 1] else x.tr.await
                        nextA := if pr = 0 then j + 1 else x.tr.nextA, nextB := if pr = 0 then x.tr.nextB else j + 1 }
  let x := x.dropClaim pr s.clk.age (turnOf ds) (slotOf ds)
  let f : Flight := { pr := pr, at_ := (s.tim r).strobe .rd t, mrr := false, qid := 0, kind := .probe, id := j, k := c.1, addr := 0
                      word := held.1, off := c.2 }
  s.setRace r { x with tr := tr.probeDone k j c, flights := if probeCmd j = .wr then x.flights else x.flights ++ [f] }

/-- A column command issues as its Sluice granted it, whatever has come after the grant, or as pick_column chooses it (R224, R274). -/
def execDramRd (race mc : Nat) (src : ColSrc) (s : State) : Host.Outcome State Fault Refusal :=
  let t := s.at mc
  .next (match src with
    | .fill _ => s
    | .probe pr =>
      let n := (s.race race).probeReq pr (probeCmd ((s.race race).tr.next pr))
      when (s.raceCmd race && s.works race && n.cmd = .rd && s.legal race t n && s.colGranted race pr t .probe)
        (fun s => { s.probeIssue race pr t with clk := s.clkAt mc }) s
    | .queue qid =>
      match (s.waiting race).find? (fun e => e.qid = qid ∧ !e.wr) with
      | none => s
      | some e =>
        when (s.raceCmd race && s.legal race t e.req && s.colGranted race e.place.pr t (.ent qid))
          (fun s => { s.rdIssue race t e with clk := s.clkAt mc }) s)

/-- The fill that has waited longest begins, once the write queue has room for a burst of each pseudo-race (R141, R155). -/
def State.fillIn (s : State) (r t : Nat) : State :=
  let x := s.race r
  match x.fillQ with
  | v :: rest => if x.fill.isNone && decide (x.wqRoom ≥ 2) then s.setRace r { x with fill := some { v := v, at_ := t }, fillQ := rest } else s
  | [] => s
/-- Issue the WR of a write-queue entry: the full codeword is stored (R149, R282). -/
def State.wrIssue (s : State) (r t : Nat) (e : Ent) (w : WqEnt) : State :=
  let ents := s.waiting r
  let x := s.race r
  let hit := decide ((x.bankOf e.req).actAt ≤ e.since)
  let mode := s.writeMode r t ents
  let s := (s.colBank r t e.req (some e.qid) (conflictWaits ents x e.req)).tallyCol r e hit
  let x := s.race r
  let x := { x with wq := x.wq.filter (fun o => o.qid ≠ e.qid), wmode := mode && decide (x.wqLevel - 1 > s.fheld Fld.RACE_SCHED_CFG_WQ_LO r) }
  let s := ((s.setRace r x).backIn r t).fillIn r t
  s.storeCell w.addr (storeWord w.data w.psn w.epoch)
/-- Byte address of burst k of a fill on pr: the banks in order, 16 cells of each (R141). -/
def State.fillAddr (s : State) (f : Fill) (r pr k : Nat) : Nat :=
  encodeAddr s.nsid s.hashMask
    { v := f.v, sid := f.v % s.nsid, row := f.v / s.nsid, race := r, pr := pr, bg := k / 16 / 8, bank := k / 16 % 8, col := k % 16 }
/-- Issue a fill burst (R141): zeros with the epoch of the moment (R282). -/
def State.fillIssue (s : State) (r pr t : Nat) (f : Fill) : State :=
  let s := s.modeAt r t
  let ents := s.waiting r
  let n := s.fillReq f pr (f.done pr / 16) .wr
  let s := (s.colBank r t n (some 0) (conflictWaits ents (s.race r) n)).tallyRace r 2 1
  let s := s.tallyRace r 11 1
  let s := s.storeCell (s.fillAddr f r pr (f.done pr)) (storeWord 0 false (s.epochTag (raceHalf r)))
  let f := { f with doneA := if pr = 0 then f.doneA + 1 else f.doneA, doneB := if pr = 0 then f.doneB else f.doneB + 1 }
  (s.setRace r { s.race r with fill := some f }).backIn r t

def execDramWr (race mc : Nat) (src : ColSrc) (s : State) : Host.Outcome State Fault Refusal :=
  let t := s.at mc
  .next (match src with
    | .fill pr =>
      match (s.race race).fill with
      | none => s
      | some f =>
        when (s.raceCmd race && decide (pr < 2) && decide (f.done pr < 512) && s.legal race t (s.fillReq f pr (f.done pr / 16) .wr)
            && s.colGranted race pr t .fill)
          (fun s => { s.fillIssue race pr t f with clk := s.clkAt mc }) s
    | .probe pr =>
      let n := (s.race race).probeReq pr (probeCmd ((s.race race).tr.next pr))
      when (s.raceCmd race && s.works race && n.cmd = .wr && s.legal race t n && s.colGranted race pr t .probe)
        (fun s => { s.probeIssue race pr t with clk := s.clkAt mc }) s
    | .queue qid =>
      match (s.race race).wq.find? (fun e => e.qid = qid) with
      | some w =>
        let e := s.wrEnt w
        when (s.raceCmd race && s.legal race t e.req && s.colGranted race e.place.pr t (.ent qid))
          (fun s => { s.wrIssue race t e w with clk := s.clkAt mc }) s
      | none => s)

/-! ### Read returns (R174, R283) -/

/-- A strobe of pr arrived: its run of missing bursts and its timeout end. -/
def State.strobeSeen (s : State) (r pr : Nat) : State :=
  let x := s.race r
  let x := { x with missA := if pr = 0 then 0 else x.missA, missB := if pr = 0 then x.missB else 0
                    tmoA := if pr = 0 then false else x.tmoA, tmoB := if pr = 0 then x.tmoB else false }
  let s := s.setRace r x
  if x.tmoA || x.tmoB then s else s.causeOff Src.RACE_TMO r
/-- A missing burst of pr: counted; the TMO_CNT-th in succession begins a timeout. -/
def State.strobeMissed (s : State) (r pr : Nat) : State :=
  let x := s.race r
  let n := (if pr = 0 then x.missA else x.missB) + 1
  let was := x.tmoA || x.tmoB
  let mine := if pr = 0 then x.tmoA else x.tmoB
  let hit := decide (n ≥ s.fheld Fld.RACE_SCHED_CFG_TMO_CNT r) && !mine
  let s := s.fadd Fld.RACE_ERR_MISS 1 r
  let s := s.setRace r { x with missA := if pr = 0 then n else x.missA, missB := if pr = 0 then x.missB else n
                                tmoA := if pr = 0 then x.tmoA || hit else x.tmoA, tmoB := if pr = 0 then x.tmoB else x.tmoB || hit }
  if hit && !was then s.raise Src.RACE_TMO r pr else s
/-- Code of an outcome as a unit entry keeps it. -/
def outCode : Outcome → Nat
  | .clean => 0 | .ce => 1 | .poisoned => 2 | .ue => 3 | .miss => 4
/-- The mode-register port completes a command (R173). -/
def State.mrEnd (s : State) (r result : Nat) : State :=
  let s := s.fset Fld.RACE_MR_CMD_RESULT result r
  let s := s.fset Fld.RACE_MR_CMD_GO 0 r
  let s := s.fset Fld.RACE_MR_CMD_BUSY 0 r
  s.setRace r { s.race r with mrAt := none, mrIssued := false }
/-- A mode-register read returns: OP holds what the die's register holds, which the spec does not give (free value). -/
def State.mrBack (s : State) (r : Nat) : State :=
  let s := s.fset Fld.RACE_MR_CMD_OP (Config.freeNat s.freeCtr % 256) r
  { s with freeCtr := s.freeCtr + 1 }.mrEnd r 0
/-! ### The far-atomic unit (R114 to R117, R168 to R171, R289) -/

/-- The unit may take a Millpond entry: its block is WRITTEN and its chunk loaded, every earlier visible entry of the cell is in the
unit, and a write-queue entry exists or can be reserved (R169). -/
def State.fauCan (s : State) (r : Nat) (e : PondEnt) : Bool :=
  let x := s.race r
  e.race = r && e.vis ≠ 0 && (e.amo || e.masked) && s.isWritten e.addr && s.chunkDone e.addr && !s.raceOff r && !s.raceHeld r
    && !(x.fau.any (fun f => f.id = e.id && f.k = e.k))
    && !(s.pond.any (fun o => o.addr = e.addr && decide (o.vis ≠ 0) && decide (o.vis < e.vis) && !(x.fau.any (fun f => f.id = o.id && f.k = o.k))))
    && decide (x.fau.length < 16) && ((x.wqAt e.addr).isSome || x.inFau e.addr || decide (x.wqRoom > 0))
def State.fauTake (s : State) (r t : Nat) (e : PondEnt) : State :=
  let x := s.race r
  let f : FauEnt := { qid := x.nextQ, id := e.id, k := e.k, addr := e.addr, amo := e.amo, data := e.data, mask := e.mask, stream := e.stream, cls := e.cls, since := t }
  s.setRace r { x with fau := x.fau ++ [f], nextQ := x.nextQ + 1, idleSince := none }

/-- The unit takes an AMO or merge, reserves and locks; its RD issues in the next mc at the earliest (R171), by DRAM_RD. -/
def execFauTake (race mc id k : Nat) (s : State) : Host.Outcome State Fault Refusal :=
  .next (match s.pond.find? (fun e => e.id = id ∧ e.k = k ∧ !e.tally) with
    | none => s
    | some e => when (s.raceCmd race && s.fauCan race e)
        (fun s => { (s.modeLatch race).fauTake race (s.at mc) e with clk := s.clkAt mc }) s)

/-- What the unit read: outcome code, the cell, poison, and the decode where it came from the DRAM. -/
structure FauIn where
  code : Nat
  cell : Cell
  word : Codeword
  fixed : List Nat
  dram : Bool
deriving DecidableEq, Repr
/-- The operand of a unit entry in mc t: its write-queue entry, or its decoded read (R169). -/
def State.fauIn (s : State) (r t : Nat) (f : FauEnt) : Option FauIn :=
  let x := s.race r
  if x.lockedFor f.qid f.addr || decide (t < f.after) then none
  else match f.rdAt, f.back with
  | some t0, some (c, w, fx) =>
    if t ≥ (s.tim r).strobe .rd t0 + 3 then some ⟨c, if c = 4 then Config.freeCell s.freeCtr else cwData w, w, fx, true⟩ else none
  | none, _ => match x.wqAt f.addr with
    | some w => if t ≥ f.since + 1 then some ⟨if w.psn then 2 else 0, w.data, 0, [], false⟩ else none
    | none => none
  | _, _ => none
/-- Counting of a unit read: UE and MISS are logged with the source merge (R116, R289). -/
def State.fauCount (s : State) (a : Nat) (i : FauIn) : State :=
  let r := s.raceAt a
  if !i.dram then s
  else if i.code = 0 then s
  else if i.code = 1 then s.noteCE a i.fixed
  else if i.code = 2 then let s := s.countPsn r; if i.fixed.isEmpty then s else s.noteCE a i.fixed
  else ((s.countUE r).reportUE 1 a).trackRow a true
/-- Release the unit entry, executed in mc t, and its Millpond entry; the next entry of the cell executes no earlier than the next mc
(R169). -/
def State.fauFree (s : State) (r t : Nat) (f : FauEnt) : State :=
  let x := s.race r
  let rest := mapIf (fun o => o.addr = f.addr) (fun o => { o with after := t + 1 }) (x.fau.filter (fun o => o.qid ≠ f.qid))
  { s.setRace r { x with fau := rest } with
    pond := s.pond.filter (fun o => !(o.id = f.id ∧ o.k = f.k ∧ !o.tally)) }
/-- Execute an AMO (R115, R116). -/
def State.fauAmo (s : State) (r t : Nat) (f : FauEnt) (i : FauIn) (q : Req) : State :=
  let s := ((s.fauFree r t f).fauCount f.addr i).tallyStore (raceHalf r) 14 1
  if i.code ≥ 2 then ({ s with freeCtr := s.freeCtr + 1 }).bindCell f.id f.k (Config.freeCell s.freeCtr) true
  else
    let a := amoApply q.arg.toNat f.data i.cell
    let s := if a.2.1 then (s.setRace r ((s.race r).wqUpdate f.addr a.1 false (s.epochTag (raceHalf r)) f.cls s.now f.id f.stream)).touch f.addr
      else if i.code = 1 then s.correct f.addr i.word i.fixed false else s
    s.bindCell f.id f.k a.2.2 false
/-- Merge a masked store (R289). -/
def State.fauMerge (s : State) (r t : Nat) (f : FauEnt) (i : FauIn) : State :=
  let s := (s.fauFree r t f).fauCount f.addr i
  let s := if i.code = 4 then { s with freeCtr := s.freeCtr + 1 } else s
  let psn := decide (i.code ≥ 2)
  let s := s.setRace r ((s.race r).wqUpdate f.addr (mergeCell i.cell f.data f.mask) psn (s.epochTag (raceHalf r)) f.cls s.now f.id f.stream)
  s.maskedDone f.id psn

def execFauExecute (race mc id k : Nat) (s : State) : Host.Outcome State Fault Refusal :=
  let t := s.at mc
  .next (match (s.race race).fau.find? (fun f => f.id = id ∧ f.k = k) with
    | none => s
    | some f => match s.fauIn race t f, s.hop.reqs.find? id with
      | some i, q =>
        when (s.raceCmd race) (fun s =>
          let s := { s with clk := s.clkAt mc }.modeLatch race
          if f.amo then (match q with | some q => s.fauAmo race t f i q | none => s.fauFree race t f) else s.fauMerge race t f i) s
      | none, _ => s)

/-! ### Fills (R139 to R145, R320) -/

/-- A store of the block waits in Millpond or Flume (R140). -/
def State.fillWanted (s : State) (blk : Nat) : Bool :=
  s.pond.any (fun e => decide (e.vis ≠ 0) && s.blockOf e.addr = blk) || s.flume.any (fun e => e.closed && s.blockOf (e.blk * 256) = blk)
/-- Open a fill record, or queue the fill behind the running one (R141). -/
def State.openFill (s : State) (r v : Nat) : State :=
  let x := s.race r
  let x := { x with idleSince := none }
  (s.setRace r { x with fillQ := x.fillQ ++ [v] }).fillIn r s.now

/-- A store offered for an UNWRITTEN block asks for a fill; with its grant, or with no granary, the record opens. -/
def execFillOpen (race v : Nat) (s : State) : Host.Outcome State Fault Refusal :=
  let blk := 32 * v + race
  let x := s.race race
  let h := raceHalf race
  .next (when (s.raceCmd race && s.works race && decide (v < regionsOf s.ld) && !(s.dram.wmap.get false blk)
      && s.fget Fld.QRN_WMAP_CFG_EN 0 h = 1 && !(v ∈ x.fills) && s.fillWanted blk)
    (fun s =>
      let hx := s.hst h
      if !hoistFitted s.ld || blk ∈ hx.granted then
        (if x.fills.length < 4 && (!x.fills.isEmpty || decide (x.wqRoom ≥ 2)) then s.openFill race v else s)
      else if blk ∈ hx.asks then s else s.setHst h { hx with asks := hx.asks ++ [blk] }) s)

/-- Hoist may grant a fill now (R320). -/
def State.grantOk (s : State) (h : Nat) : Bool :=
  let x := s.hst h
  s.gov.drain || (decide (x.ceil ≥ fillRes + x.dirtyTotal + x.sNow + x.sNext + 32) && (decide (s.clk.mc < 112) || decide (s.clk.mc > 207)))
/-- Grants follow the order of asking; a granted fill counts in the dirty total at once. -/
def execFillGrant (race v : Nat) (s : State) : Host.Outcome State Fault Refusal :=
  let h := raceHalf race
  .next (when (hoistFitted s.ld && decide (race < 32) && (s.hst h).asks.head? = some (32 * v + race) && (!s.brk.safe || s.gov.drain) && s.grantOk h)
    (fun s =>
      let x := s.hst h
      s.setHst h { x with asks := x.asks.tail, granted := x.granted ++ [32 * v + race] }) s)

/-- The 32 pages of a block. -/
def State.blockPages (s : State) (r v : Nat) : List Nat :=
  let p : Place := { v := v, sid := v % s.nsid, row := v / s.nsid, race := r, pr := 0, bg := 0, bank := 0, col := 0 }
  let base := encodeAddr s.nsid s.hashMask p
  (List.range 32).map (fun i => (base + i * 65536) / 4096)
/-- The map bit sets, the record closes, the pages are dirty, the next fill begins once it has its places (R143, R310). -/
def State.finishFill (s : State) (r t : Nat) (f : Fill) : State :=
  let h := raceHalf r
  let s := s.zeroBlock (32 * f.v + r) (s.epochTag h)
  let s := s.fadd Fld.QRN_WMAP_STAT_FILLS 1 0 h
  let s := if t > f.at_ + 1280 then s.fadd Fld.QRN_WMAP_STAT_LATE 1 0 h else s
  let s := (each (s.blockPages r f.v) (fun p s => s.dirtyAt (p * 4096)) s).tallyStore h 3 1
  let hx := s.hst h
  let s := s.setHst h { hx with granted := hx.granted.filter (fun b => b ≠ 32 * f.v + r) }
  let x := s.race r
  (s.setRace r { x with fill := none }).fillIn r t
def execFillComplete (race mc : Nat) (s : State) : Host.Outcome State Fault Refusal :=
  .next (match (s.race race).fill with
    | some f => when (s.raceCmd race && decide (f.doneA ≥ 512) && decide (f.doneB ≥ 512))
        (fun s => { s.finishFill race (s.at mc) f with clk := s.clkAt mc }) s
    | none => s)

/-- The clear of a half's map ends: every bit 0, CLEAR reads 0 again (R147). -/
def execWmapClearComplete (half : Nat) (s : State) : Host.Outcome State Fault Refusal :=
  .next (when (decide (half < 2) && (s.qrn half).clearing)
    (fun s =>
      let s := s.setQrn half { s.qrn half with clearing := false }
      let s := s.fset Fld.QRN_WMAP_CFG_CLEAR 0 0 half
      { s with dram := { s.dram with wmap := s.dram.wmap.keep (fun b _ => b % 32 / 16 ≠ half)
                                     zeroed := s.dram.zeroed.keep (fun b _ => b % 32 / 16 ≠ half)
                                     era := s.dram.era + 1 } }) s)

/-! ### Power-down (R172) -/

/-- The grant stands, whatever has arrived since (R224); an arrival then ends the power-down. -/
def execPde (race mc : Nat) (s : State) : Host.Outcome State Fault Refusal :=
  let t := s.at mc
  let n : RowReq := { cmd := .pde }
  .next (when (s.raceCmd race && s.legal race t n && s.rowGranted race t n)
    (fun s =>
      let s := s.setRace race { (s.race race).issue n t 0 with pd := some t }
      { (if s.fheld Fld.SPIN_STAT_STATE race = 2 then s.fset Fld.SPIN_STAT_STATE 6 race else s) with clk := s.clkAt mc }) s)
/-- Power-down ends; tracking resumes with its counts at zero (R273). -/
def execPdx (race mc : Nat) (s : State) : Host.Outcome State Fault Refusal :=
  let t := s.at mc
  let n : RowReq := { cmd := .pdx }
  .next (when (s.raceCmd race && s.pdxDue race && s.legal race t n && s.rowGranted race t n)
    (fun s =>
      let s := s.setRace race { (s.race race).issue n t 0 with pd := none }
      let on := s.fheld Fld.SPIN_STAT_STATE race = 6 && s.trackState race = 2
      let s := if on then (s.setRace race { s.race race with tr := (s.race race).tr.restart s.clk.age }).fset Fld.SPIN_STAT_STATE 2 race else s
      { s with clk := s.clkAt mc }) s)

/-! ### The mode-register port (R173) -/

/-- MRW completes when it issues. -/
def execMrw (race mc : Nat) (s : State) : Host.Outcome State Fault Refusal :=
  let t := s.at mc
  let n := s.mrReq race
  .next (when (s.raceCmd race && s.mrWaits race && n.cmd = .mrw && s.legal race t n && s.rowGranted race t n)
    (fun s => { (s.setRace race ((s.race race).issue n t 0)).mrEnd race 0 with clk := s.clkAt mc }) s)
/-- MRR: the value comes back with its strobe. -/
def execMrr (race mc : Nat) (s : State) : Host.Outcome State Fault Refusal :=
  let t := s.at mc
  let n := s.mrReq race
  .next (when (s.raceCmd race && s.works race && s.mrWaits race && n.cmd = .mrr && s.legal race t n && s.colGranted race n.pr t .mr)
    (fun s =>
      let x := s.race race
      let T := s.tim race
      let f : Flight := { pr := n.pr, at_ := T.strobe .mrr t, mrr := true, qid := 0, kind := .probe, id := 0, k := 0, addr := 0 }
      { s.setRace race { x.issue n t (T.dataAt .mrr t) with flights := x.flights ++ [f], mrIssued := true } with clk := s.clkAt mc }) s)
/-- No free TRAIN entry within 64 Turns. -/
def execMrCmdTimeout (race : Nat) (s : State) : Host.Outcome State Fault Refusal :=
  .next (when (decide (race < 32) && s.mrWaits race && (match (s.race race).mrAt with | some t => decide (s.clk.age ≥ t + 64) | none => false))
    (fun s => s.mrEnd race 1) s)

end Sys2Proof.Machine
end

