-- ==== Sys2Proof/Machine/Refresh.lean ====
section
/-!
DEFINITION. The refresh engine (R176 to R204): dues, the plan of a Turn, postponement, urgent refreshes and revocations, row
upkeep, and the handover to self-refresh.
-/
namespace Sys2Proof.Machine

/-! ### Rates (R176 to R178) -/

/-- tREFI_eff of a rate code (R176). -/
def State.trefiEff (s : State) (r rate : Nat) : Nat := max 1 ((s.tim r).refi / 2 ^ min rate 2)
/-- Rate code a temperature calls for (R176). -/
def rateFor (t : Int) : Nat := if t ≤ 85 then 0 else if t ≤ 95 then 1 else 2
/-- Threshold above which a rate applies. -/
def rateThr (rate : Nat) : Int := if rate = 2 then 95 else 85
/-- The decision for a SID from its die's sample (R177, R178): new rate, samples counted, fallback. -/
def State.rateStep (s : State) (r sd : Nat) (t : TempRead) : Nat × Nat × Bool :=
  let x := s.race r
  let cur := x.rate.get 2 sd
  match t with
  | none => (2, 0, true)
  | some t =>
    let want := rateFor t
    if want ≥ cur then (want, 0, false)
    else if t + (s.fget Fld.RACE_REF_CFG_HYST_C r : Int) ≤ rateThr cur then
      let n := x.hyst.get 0 sd + 1
      if n ≥ s.fget Fld.RACE_REF_CFG_HYST_TURNS r then (cur - 1, 0, false) else (cur, n, x.fallback.get true sd)
    else (cur, 0, x.fallback.get true sd)
/-- Decide the rates of a race for the next Turn. -/
def State.decideRates (s : State) (r : Nat) : State :=
  let x := s.race r
  let steps := (List.range s.nsid).map (fun sd => (sd, s.rateStep r sd (s.gov.temps.getD (dieOf r sd) none)))
  let rate := steps.foldl (fun (t : Tbl Nat) e => t.ins e.1 e.2.1) {}
  let fb := steps.foldl (fun (t : Tbl Bool) e => t.ins e.1 e.2.2.2) {}
  let hy := steps.foldl (fun (t : Tbl Nat) e => t.put 0 e.1 e.2.2.1) {}
  s.setRace r { x with rateN := some (rate, fb), hyst := hy }

/-! ### Dues (R179, R180) -/

/-- One REFpb due after another: banks of the rotation. -/
def dueBanks (rot n : Nat) : List Nat := (List.range n).map (fun i => (rot + i) % 32)
/-- The update of R179 for one pseudo-race and SID. -/
def Race.dueStep (x : Race) (teff k : Nat) : Race :=
  let a := x.acc.get 0 k + 8192
  let n := a / teff
  { x with acc := x.acc.put 0 k (a % teff), owed := x.owed.put [] k (x.owed.get [] k ++ dueBanks (x.rot.get 0 k) n)
           rot := x.rot.put 0 k ((x.rot.get 0 k + n) % 32) }
/-- The race with the dues of the next Turn, at the rates decided for it, as its boundary will give them: what the plan counts on. -/
def State.withDues (s : State) (r : Nat) : Race :=
  let x := s.race r
  if !s.refRuns r then x
  else
    let rate := fun sd => (match x.rateN with | some t => t.1 | none => x.rate).get 2 sd
    let sids := (List.range s.nsid).filter (fun sd => !x.sref.get false sd)
    sids.foldl (fun (y : Race) sd => (y.dueStep (s.trefiEff r (rate sd)) sd).dueStep (s.trefiEff r (rate sd)) (4 + sd)) x
/-- The update of R179 at the boundary; a planned REFpb that issued in the last mc before it, ahead of its due, is settled. -/
def State.giveDues (s : State) (r : Nat) : State :=
  let y := s.withDues r
  let owed := y.early.foldl (fun (t : Tbl (List Nat)) k => t.put [] (k / 32) ((t.get [] (k / 32)).erase (k % 32))) y.owed
  s.setRace r { y with owed := owed, early := [] }

/-! ### Postponement (R186, R187) -/

/-- A REFpb of a bank is postponed: PPC rises; one whose PPC is 8 becomes urgent instead, and an urgent one is not postponed. -/
def State.postpone (s : State) (r k : Nat) : State :=
  let x := s.race r
  let b := x.banks.get {} k
  if b.urgRef then s
  else if b.ppc ≥ 8 then (s.setRace r { x with banks := x.banks.put {} k { b with urgRef := true } }).urgArises r (k / 128)
  else (s.setRace r { x with banks := x.banks.put {} k { b with ppc := b.ppc + 1 } }).fadd Fld.RACE_REF_CNT_POSTPONED 1 r

/-! ### The plan (R181 to R183, R208) -/

def ppcOf (x : Race) (pr : Nat) (e : Nat × Nat) : Nat := (x.banks.get {} ((pr * 4 + e.1) * 32 + e.2)).ppc
/-- The demand of R183 in its order: urgent refreshes; the REFpb that will be owed after the update for the next Turn; the RFM requests
that crossed by mc 47. -/
def State.demandOf (s : State) (r pr : Nat) : List RefSlot :=
  let x := s.race r
  let mk := fun (rfm urg : Bool) (k : Nat) => (⟨0, rfm, k / 32 % 4, k % 32, urg, false⟩ : RefSlot)
  let cur := x.planned pr
  let urg := ((x.urgents pr).map (fun u => mk u.2 true u.1)).filter (fun e => !(cur.any (fun c => c.sid = e.sid && c.bank = e.bank && c.rfm = e.rfm)))
  let owed := (s.owedIn (s.withDues r) r pr).filter (fun e => !((x.banks.get {} ((pr * 4 + e.1) * 32 + e.2)).urgRef))
  let post := (List.range 8).flatMap (fun i => owed.filter (fun e => ppcOf x pr e = 8 - i))
  let new := owed.filter (fun e => ppcOf x pr e = 0)
  let rfms := (x.rfmsOf pr (fun q => decide (q.2.2 ≤ s.clk.age * 256 + 47)
      && !(cur.any (fun c => c.rfm && c.key pr = q.2.1)))).take (s.fget Fld.RACE_REF_CFG_RFM_PER_TURN r)
  urg ++ (post ++ new).map (fun e => (⟨0, false, e.1, e.2, false, false⟩ : RefSlot)) ++ rfms.map (fun k => mk true false k)
/-- The slots a plan may take, in order (R182). -/
def planSlots (table : List Nat) : List Nat :=
  ([8, 0, 4, 3, 2] : List Nat).flatMap (fun c => (List.range 128).filter (fun i => table.getD i 0 = c))
/-- Entries taken by kind: RFSH, OPEN, C3, C2, C1. -/
def takenKinds (table : List Nat) (slots : List RefSlot) : List Nat :=
  ([8, 0, 4, 3, 2] : List Nat).map (fun c => countP (fun e : RefSlot => table.getD e.slot 0 = c) slots)
/-- Probes that tracking may claim in one Turn (R272): ceil(6 × nsid / ROUND). -/
def State.probeBudget (s : State) (r : Nat) : Nat :=
  let n := s.fget Fld.FAN_CFG_ROUND 0 (raceHalf r)
  (6 * s.nsid + n - 1) / max 1 n
/-- Claims of TRAIN entries for the next Turn: Fantail's probes first, within its budget, then the mode-register port (R208, R272). The
probes of this Turn's claims still to come are left out; a claim whose probe has issued is gone. Where a round begins with the next Turn,
its first probes claim. -/
def State.claimsOf (s : State) (r pr : Nat) (table : List Nat) : List (Nat × Bool) :=
  let train := (List.range 128).filter (fun i => table.getD i 0 = 9)
  let used := fun p : Nat => countP (fun e : Nat × Bool => e.2 && decide (2 * e.1 + 1 > s.clk.mc)) ((s.race r).plan p).claims
  let x := (s.race r).tr
  let left := fun p : Nat => 6 * s.nsid - (skipProbe s.nsid (x.next p) (fun sd => (s.race r).sref.get false sd) + used p)
  let fresh := left 0 = 0 && left 1 = 0 && decide (s.clk.age + 1 ≥ x.roundAt + s.fget Fld.FAN_CFG_ROUND 0 (raceHalf r))
  let n := if s.tracks r then min (if fresh then 6 * s.nsid else left pr) (min train.length (s.probeBudget r)) else 0
  let fan := (train.take n).map (fun i => (i, true))
  let mr := if s.mrWaits r && (s.mrReq r).pr = pr then ((train.drop n).take 1).map (fun i => (i, false)) else []
  fan ++ mr
/-- Put a demand into slots. -/
def State.fitPlan (s : State) (r pr : Nat) (table : List Nat) (dem : List RefSlot) : Plan :=
  let slots := List.zipWith (fun (e : RefSlot) i => { e with slot := i }) dem (planSlots table)
  { slots := slots, taken := takenKinds table slots, claims := s.claimsOf r pr table }
/-- Plan pr for the next Turn: the demand under the cap; every REFpb left out is postponed (R183). -/
def State.planPr (s : State) (r pr : Nat) : State :=
  let table := s.nextTable r
  let dem := s.demandOf r pr
  let cap := min (24 + s.fget Fld.RACE_REF_CFG_RFM_PER_TURN r) (planSlots table).length
  let plan := s.fitPlan r pr table (dem.take cap)
  let s := each ((dem.drop cap).filter (fun e => !e.rfm && !e.urgent)) (fun e s => s.postpone r (e.key pr)) s
  let x := s.race r
  s.setRace r { x with nextA := if pr = 0 then some plan else x.nextA, nextB := if pr = 0 then x.nextB else some plan }
/-- The refresh planning of a race (R183). A plan with a command ends the wait for power-down (R172). -/
def State.planRace (s : State) (r : Nat) : State :=
  if s.refRuns r then ((s.planPr r 0).planPr r 1).pdNote r s.now
  else
    let x := s.race r
    s.setRace r { x with nextA := some { claims := s.claimsOf r 0 (s.nextTable r) }, nextB := some { claims := s.claimsOf r 1 (s.nextTable r) } }
/-- The default plan of an overrun: REFpb to the next bank in rotation in each RFSH slot (R38). -/
def State.defaultPlan (s : State) (r pr : Nat) : Plan :=
  let x := s.race r
  let table := s.nextTable r
  let rfsh := (List.range 128).filter (fun i => table.getD i 0 = 8)
  let ls := ((s.sidOrder r).filter (fun sd => !x.sref.get false sd)).map (fun sd =>
    (x.owed.get [] (4 * pr + sd) ++ dueBanks (x.rot.get 0 (4 * pr + sd)) 32).map (fun b => (sd, b)))
  let dem := (interleave ls 128).map (fun e => (⟨0, false, e.1, e.2, false, false⟩ : RefSlot))
  let slots := if s.refRuns r then List.zipWith (fun (e : RefSlot) i => { e with slot := i }) dem rfsh else []
  { slots := slots, taken := takenKinds table slots, claims := [] }

/-- The refresh planning of every race, from mc 48, after the sample of the slot swaps (R35, R213). -/
def execRefreshPlanning (s : State) : Host.Outcome State Fault Refusal :=
  .next (when (s.refreshOn && decide (s.clk.mc ≤ 111) && !s.clk.planDone && (s.clk.swapDone || decide (s.clk.mc > 48) || !s.mainsOn))
    (fun s =>
      let s := each (List.range 32) (fun r s => s.planRace r) s
      { s with clk := { s.clk with mc := max s.clk.mc 48, planDone := true } }) s)

/-! ### Issuing refresh commands -/

/-- Change the slots of a Turn's plan. -/
def Race.mapSlots (x : Race) (pr age turn : Nat) (f : List RefSlot → List RefSlot) : Race :=
  if turn = age then x.setPlan pr { x.plan pr with slots := f (x.plan pr).slots }
  else if pr = 0 then { x with nextA := x.nextA.map (fun p => { p with slots := f p.slots }) }
  else { x with nextB := x.nextB.map (fun p => { p with slots := f p.slots }) }
/-- A slot whose command has gone elsewhere serves the next owed command that no slot serves, REFpb before RFM requests, or becomes OPEN
(R186). -/
def State.refill (s : State) (r pr turn slot : Nat) : State :=
  let x := s.race r
  let later := ((x.nextPlan pr).slots.filter (fun e => !e.rfm)).map (fun e => (e.sid, e.bank))
  let rfms := x.rfmsOf pr (fun q => !((s.dueSlots r pr).any (fun e => e.2.rfm && e.2.key pr = q.2.1)))
  let next := (((s.owedOf r pr).filter (fun e => !later.contains e)).map (fun e : Nat × Nat => (false, e.1, e.2))
    ++ rfms.map (fun k => (true, k / 32 % 4, k % 32))).head?
  let f := fun (l : List RefSlot) => match next with
    | some e => mapIf (fun (q : RefSlot) => q.slot = slot) (fun _ => ⟨slot, e.1, e.2.1, e.2.2, false, false⟩) l
    | none => l.filter (fun q => q.slot ≠ slot)
  s.setRace r (x.mapSlots pr s.clk.age turn f)
/-- The bank after REFpb or RFM (R186, R193, R194), and the row that the RFM names (R196). -/
def State.refBank (s : State) (r : Nat) (n : RowReq) : State :=
  let x := s.race r
  let b := x.bankOf n
  let k := Sys2Proof.Machine.bankNo n.pr n.sid n.bg n.bank
  if n.cmd = .rfm then
    let hot := if s.fb Fld.RACE_REF_CFG_HINT_EN r then
        (match highTracked b.trk with | some e => if e.2 = 0 then none else some e.1 | none => none) else none
    let x := { x with rfmName := hot }
    let b := { b with raa := b.raa - s.fget Fld.RACE_REF_CFG_RFM_DEC r, rfmReq := false, urgRfm := false
                      trk := match hot with | some w => mapIf (fun e => e.1 = w) (fun e => (e.1, 0)) b.trk | none => b.trk }
    s.setRace r { x.setBank n b with rfmQ := x.rfmQ.filter (fun q => q.2.1 ≠ k) }
  else
    let b := { b with ppc := 0, urgRef := false, raa := b.raa - s.fget Fld.RACE_REF_CFG_REF_DEC r }
    let key := 4 * n.pr + n.sid
    let bk := n.bg * 8 + n.bank
    let here := (x.owed.get [] key).contains bk
    s.setRace r { x.setBank n b with owed := if here then x.owed.put [] key ((x.owed.get [] key).erase bk) else x.owed
                                     early := if here then x.early else x.early ++ [32 * key + bk] }
/-- Issue a REFpb or RFM in mc t: in the slot due then, or in the slot of a revocation. Another slot that held it is refilled; the
command that the slot had planned is postponed, or keeps its place if urgent (R186, R189). -/
def State.refIssue (s : State) (r t : Nat) (n : RowReq) : State :=
  let s := s.modeAt r t
  let x := s.race r
  let urgent := (x.bankOf n).urgRef || (x.bankOf n).urgRfm
  let rfm := decide (n.cmd = .rfm)
  let k := Sys2Proof.Machine.bankNo n.pr n.sid n.bg n.bank
  let due := s.slotDue r n.pr t
  let others := (s.dueSlots r n.pr).filter (fun e => e.2.key n.pr = k && e.2.rfm = rfm && some e ≠ due)
  let s := s.refBank r n
  let s := s.setRace r ((s.race r).issue n t 0)
  let s := if rfm then (s.fadd Fld.RACE_REF_CNT_RFM 1 r).tallyRace r 4 1 else s.tallyRace r 3 1
  let s := if urgent then (s.fadd Fld.RACE_REF_CNT_URGENT 1 r).tally (raceHalf r) 6 12 1 else s
  let s := match due with
    | none => s
    | some (turn, e) =>
      let spent : RefSlot := ⟨e.slot, rfm, n.sid, n.bg * 8 + n.bank, urgent, true⟩
      let s := s.setRace r ((s.race r).mapSlots n.pr s.clk.age turn (mapIf (fun (q : RefSlot) => q.slot = e.slot) (fun _ => spent)))
      if e.key n.pr = k && e.rfm = rfm || e.urgent then s
      else if e.rfm then s.fadd Fld.RACE_REF_CNT_POSTPONED 1 r else s.postpone r (e.key n.pr)
  each (others.take 1) (fun e s => s.refill r n.pr e.1 e.2.slot) s

/-- REFpb of a SID: the refresh that can issue in that mc. -/
def execRefpb (race mc pr sid : Nat) (s : State) : Host.Outcome State Fault Refusal :=
  let t := s.at mc
  .next (match s.refNow race pr t (s.waiting race) with
    | some n => when (s.raceCmd race && s.refRuns race && n.cmd = .refpb && n.sid = sid && s.rowGranted race t n)
        (fun s => { s.refIssue race t n with clk := s.clkAt mc }) s
    | none => s)
def execRfm (race mc pr sid bg bank : Nat) (s : State) : Host.Outcome State Fault Refusal :=
  let t := s.at mc
  let n : RowReq := ⟨.rfm, pr, sid, bg, bank, 0⟩
  .next (when (s.raceCmd race && s.refRuns race && s.refNow race pr t (s.waiting race) = some n && s.rowGranted race t n)
    (fun s => { s.refIssue race t n with clk := s.clkAt mc }) s)

/-- The planned command of a slot is postponed, and the slot becomes OPEN (R186). -/
def State.postponeSlot (s : State) (r pr turn : Nat) (e : RefSlot) : State :=
  let s := s.setRace r ((s.race r).mapSlots pr s.clk.age turn (fun l => l.filter (fun q => q.slot ≠ e.slot)))
  if e.urgent then s else if e.rfm then s.fadd Fld.RACE_REF_CNT_POSTPONED 1 r else s.postpone r (e.key pr)

/-- At its mc a planned command issues, or another in its slot, or it is postponed; the row bus is as pick_row gives it (R185, R186, R188). -/
def execPlannedRefreshDue (race pr slot : Nat) (s : State) : Host.Outcome State Fault Refusal :=
  .next (match (s.dueSlots race pr).find? (fun e => e.2.slot = slot ∧ s.refAt race pr e.1 slot < (s.clk.age + 1) * 256) with
    | none => s
    | some (turn, e) =>
      let at_ := s.refAt race pr turn slot
      let t := max s.now at_
      when (s.raceCmd race && s.refRuns race && decide (pr < 2))
        (fun s =>
          let n := if t = at_ then s.refNow race pr t (s.waiting race) else none
          let c := s.clkAt (t % 256)
          match n with
          | some n => if s.rowGranted race t n then { s.refIssue race t n with clk := c } else { s.postponeSlot race pr turn e with clk := c }
          | none => { s.postponeSlot race pr turn e with clk := c }) s)

/-! ### Revocation (R227 to R229) -/

/-- The first slot (128 × Turn + slot) from a mc that is free of issued data. -/
def Race.freeSlot (x : Race) (pr : Nat) : Nat → Nat → Option Nat
  | 0, _ => none
  | n + 1, i => if x.hist.any (fun c => c.cmd.isCol && c.pr = pr && decide (c.ds / 2 = i)) then x.freeSlot pr n (i + 1) else some i
/-- Target slot of a revocation in mc t. -/
def State.revTarget (s : State) (r pr t : Nat) : Option Nat := (s.race r).freeSlot pr 128 ((t + (s.tim r).cmd + 1) / 2)
/-- The target slot of an urgent refresh whose bank is ready in mc t (R227); none where a refresh slot comes first that no other urgent one keeps, or the Turn has had its one
revocation. -/
def State.revocation (s : State) (r pr t : Nat) : Option Nat :=
  let x := s.race r
  match s.revTarget r pr t with
  | none => none
  | some g =>
    let sooner := fun k : Nat => (s.dueSlots r pr).any (fun e => decide (128 * e.1 + e.2.slot ≤ g) && decide (s.refAt r pr e.1 e.2.slot ≥ t)
      && (!x.urgentSlot pr e.2 || e.2.key pr = k))
    let ready := (x.urgents pr).any (fun u => s.legal r t (keyReq (if u.2 then .rfm else .refpb) u.1) && !sooner u.1)
    let held := x.revSlots.any (fun e => e.1 = pr && decide (s.refAt r pr (e.2 / 128) (e.2 % 128) ≥ t))
    if ready && !held && decide ((if pr = 0 then x.revA else x.revB) ≠ g / 128 + 1) then some g else none
/-- A grant of pr has data in the slot. -/
def State.grantIn (s : State) (r pr g : Nat) (c : ColPick × Nat) : Bool :=
  let T := s.tim r
  match c with
  | (.ent q, at_) => (s.waiting r).any (fun e => e.qid = q && decide (T.dataAt e.cmd at_ / 2 = g))
  | (.fill, at_) => decide (T.dataAt .wr at_ / 2 = g)
  | (.probe, at_) => decide (T.dataAt (probeCmd ((s.race r).tr.next pr)) at_ / 2 = g)
  | (.mr, at_) => decide (T.dataAt .mrr at_ / 2 = g)
def execRevocation (race pr mc : Nat) (s : State) : Host.Outcome State Fault Refusal :=
  .next (match s.revocation race pr (s.at mc) with
    | some g => when (s.raceCmd race && s.refRuns race && decide (pr < 2))
        (fun s =>
          let x := s.race race
          let keep := fun (l : List (ColPick × Nat)) => l.filter (fun c => !s.grantIn race pr g c)
          let x := { x with revSlots := x.revSlots ++ [(pr, g)], revA := if pr = 0 then g / 128 + 1 else x.revA
                            revB := if pr = 0 then x.revB else g / 128 + 1
                            grantA := if pr = 0 then keep x.grantA else x.grantA, grantB := if pr = 0 then x.grantB else keep x.grantB }
          let s := ((s.setRace race x).fadd Fld.RACE_REF_CNT_REVOKE 1 race).tally (raceHalf race) 6 13 1
          { s with clk := s.clkAt mc }) s
    | none => s)

/-! ### Self-refresh (R198 to R203) -/

/-- Change every bank of a pseudo-race in a SID. -/
def Race.mapBanks (x : Race) (pr sid : Nat) (f : Bank → Bank) : Race :=
  { x with banks := (bankKeys pr sid).foldl (fun (t : Tbl Bank) k => t.upd {} k f) x.banks }
/-- SIDs that a power state keeps (R198, R354). -/
def State.keepsSid (s : State) (sd : Nat) : Bool :=
  match s.gov.entry with
  | some .furl => bit (if s.gov.entryDrain then s.fget Fld.GOV_PWR_CFG_DRAIN_SIDS else s.fget Fld.GOV_PWR_CFG_KEEP_SIDS) sd
  | some .fullFurl => true
  | _ => false
/-- The race still holds work for the SID (R198). -/
def State.sidBusy (s : State) (r sd : Nat) : Bool :=
  let x := s.race r
  let on := fun a => (s.place a).sid = sd
  x.rq.any (fun e => on e.addr) || x.wq.any (fun e => on e.addr) || x.fau.any (fun e => on e.addr) || x.fills.any (fun v => v % s.nsid = sd)
/-- A handover is asked for (R199, R202, R203). -/
def State.handAsked (s : State) (r sd : Nat) : Bool :=
  !s.works r || (s.race r).inReset || (s.keepsSid sd && !s.sidBusy r sd)
def execSrHandover (race mc sid : Nat) (s : State) : Host.Outcome State Fault Refusal :=
  let x := s.race race
  .next (when (s.raceCmd race && decide (sid < s.nsid) && !x.sref.get false sid && (x.hand.find? sid).isNone && s.handAsked race sid)
    (fun s => { s.setRace race { x with hand := x.hand.ins sid (s.at mc), handAb := x.handAb.filter (fun k => k % 4 ≠ sid) } with
        clk := s.clkAt mc }) s)

/-- A REFab clears the owed REFpb and PPC of its pseudo-race in the SID (R199). -/
def execRefab (race mc pr sid : Nat) (s : State) : Host.Outcome State Fault Refusal :=
  let t := s.at mc
  let n : RowReq := ⟨.refab, pr, sid, 0, 0, 0⟩
  .next (when (s.raceCmd race && s.legal race t n && s.rowGranted race t n)
    (fun s =>
      let x := s.race race
      let x := (x.mapBanks pr sid (fun b => { b with ppc := 0, urgRef := false })).issue n t 0
      let done := if (x.hand.find? sid).isSome then x.handAb ++ [4 * pr + sid] else x.handAb
      { s.setRace race { x with owed := x.owed.del (4 * pr + sid), mustRefab := x.mustRefab.filter (· ≠ 4 * pr + sid), handAb := done } with
        clk := s.clkAt mc }) s)

/-- Self-refresh entry: the SRR lines carry the rate; no RFM request survives (R199, R200). In the safe state the last one latches the race's
Spindle pads, until a SID leaves self-refresh (R385). -/
def execSre (race mc sid : Nat) (s : State) : Host.Outcome State Fault Refusal :=
  let t := s.at mc
  let n : RowReq := ⟨.sre, 0, sid, 0, 0, 0⟩
  .next (when (s.raceCmd race && ((s.race race).hand.find? sid).isSome && s.legal race t n && s.rowGranted race t n)
    (fun s =>
      let x := s.race race
      let calm := fun b : Bank => { b with rfmReq := false, urgRfm := false }
      let y := ((x.mapBanks 0 sid calm).mapBanks 1 sid calm).issue n t 0
      let y := { y with sref := y.sref.ins sid true, hand := y.hand.del sid, rfmQ := y.rfmQ.filter (fun q => q.2.1 / 32 % 4 ≠ sid) }
      let y := { y with spinPads := s.brk.safe && (List.range s.nsid).all (fun sd => y.sref.get false sd) }
      { s.setRace race y with gov := { s.gov with srr := s.gov.srr.put 0 (dieOf race sid) (x.rate.get 2 sid) }, clk := s.clkAt mc }) s)

/-- Everything the engine keeps of a SID starts again at SRX (R201, R193, R197); so do the counts of its tracking (R273). -/
def Race.clearSid (x : Race) (sd : Nat) : Race :=
  let z := fun b : Bank => { b with ppc := 0, raa := 0, trk := [], urgRef := false, urgRfm := false, rfmReq := false }
  let y := (x.mapBanks 0 sd z).mapBanks 1 sd z
  { y with acc := (y.acc.del sd).del (4 + sd), owed := (y.owed.del sd).del (4 + sd), rfmQ := y.rfmQ.filter (fun q => q.2.1 / 32 % 4 ≠ sd) }
def execSrx (race mc sid : Nat) (s : State) : Host.Outcome State Fault Refusal :=
  let t := s.at mc
  let n : RowReq := ⟨.srx, 0, sid, 0, 0, 0⟩
  .next (when (s.raceCmd race && s.legal race t n && s.rowGranted race t n)
    (fun s =>
      let x := (s.race race).clearSid sid
      let tr := { x.tr with failing := x.tr.failing.keep (fun k _ => k / 96 % 4 ≠ sid) }
      { s.setRace race { x.issue n t 0 with sref := x.sref.del sid, tr := tr, spinPads := false } with clk := s.clkAt mc }) s)

/-- The refresh state of a race after a reset whose handover did not complete (R203): cleared, every RAA at RFM_TH, REFab first. A SID
that did reach self-refresh stays in it until its SRX. An RAA set to RFM_TH makes its RFM request at the bank's next ACT (log entry
100). -/
def State.handFail (s : State) (r : Nat) : State :=
  let x := s.race r
  let th := s.fget Fld.RACE_REF_CFG_RFM_TH r
  let ps := (List.range 2).flatMap (fun p => (List.range s.nsid).map (fun sd => (p, sd)))
  let y := (List.range s.nsid).foldl (fun (y : Race) sd => y.clearSid sd) x
  let y := ps.foldl (fun (y : Race) e => y.mapBanks e.1 e.2 (fun b => { b with raa := th, row := none })) y
  s.setRace r { y with hand := {}, handAb := [], mustRefab := ps.map (fun e => 4 * e.1 + e.2) }
/-- A handover for a reset has not completed within 4 Turns. -/
def execHandoverTimeout (race : Nat) (s : State) : Host.Outcome State Fault Refusal :=
  let x := s.race race
  .next (when (decide (race < 32) && x.inReset && x.mustRefab.isEmpty
      && x.hand.vals.any (fun t => decide (s.now ≥ t + 4 * 256)))
    (fun s => s.handFail race) s)
/-- Every SID of the race is in self-refresh, or its handover has failed. -/
def State.handedOver (s : State) (r : Nat) : Bool :=
  let x := s.race r
  !x.mustRefab.isEmpty || (List.range s.nsid).all (fun sd => x.sref.get false sd)

end Sys2Proof.Machine
end

