-- ==== Sys2Proof/Machine/Fantail.lean ====
section
/-!
DEFINITION. Fantail and the Spindle (R260 to R279): lane groups and repairs, full training, drift tracking, runtime retraining and
the resume check. Trained settings are what the sweeps of the part find; the spec gives no values for them (free values).
-/
namespace Sys2Proof.Machine

/-! ### Lanes (R260 to R262) -/

/-- Positions of a lane group: 0-3 data, 4 timing, 5 column command, 6 row command, 7 command clock. -/
def groupSize (g : Nat) : Nat := if g < 4 then 10 else if g = 4 then 6 else if g = 5 then 8 else if g = 6 then 11 else 4
/-- Place of a group's field in SPIN_REPAIR (R279); none for the command clock. -/
def repairLo (g pr : Nat) : Option Nat :=
  if g < 4 then some (16 * pr + 4 * g) else if g = 4 then some (32 + 4 * pr) else if g = 5 then some (44 + 4 * pr)
  else if g = 6 then some 40 else none
/-- Groups of a race, as (group, pseudo-race). -/
def laneGroups : List (Nat × Nat) :=
  [(0, 0), (1, 0), (2, 0), (3, 0), (4, 0), (5, 0), (0, 1), (1, 1), (2, 1), (3, 1), (4, 1), (5, 1), (6, 0), (7, 0)]
/-- Positions that a repair can serve: all but the WCK and CK lanes. -/
def repairable (g p : Nat) : Bool := g ≠ 7 && (g ≠ 4 || p = 4)
/-- The position is used under a repair field: the spare (the last position) only when the group is repaired. -/
def usedPos (g rep p : Nat) : Bool := if g = 7 then true else if rep = 0 then decide (p + 1 < groupSize g) else decide (p + 1 ≠ rep)
/-- The repair field after a lane test that finds the positions `bad` failed (R261): an existing repair stays; else the first failed
position in use takes the spare, if the spare is good. -/
def repairOf (g rep : Nat) (bad : List Nat) : Nat :=
  if rep ≠ 0 then rep
  else match bad.find? (fun p => repairable g p && usedPos g 0 p) with
    | some p => if bad.contains (groupSize g - 1) then 0 else p + 1
    | none => 0
/-- Failed positions still in use. -/
def leftBad (g rep : Nat) (bad : List Nat) : List Nat := bad.filter (fun p => usedPos g rep p && decide (p < groupSize g))
/-- A leg of WCK or CK with both TSVs failed (R261). -/
def legDead (bad : List Nat) : Bool := (bad.contains 0 && bad.contains 1) || (bad.contains 2 && bad.contains 3)
/-- What is left of a group fails the race (R262): a command lane, DVS, or a leg. -/
def groupFatal (g : Nat) (left : List Nat) : Bool :=
  if g < 4 then false
  else if g = 4 then left.contains 4 || legDead left
  else if g = 7 then legDead left
  else !left.isEmpty

/-- Result of applying repairs to a race: SPIN_REPAIR, unrepaired data lanes as 64 × pr + position, failure. -/
structure LaneOut where
  word : Nat
  dead : List Nat
  fatal : Bool
deriving DecidableEq, Repr
/-- Apply the failed lanes to the repair word of a race (R261, R262). -/
def applyLanes (word : Nat) (bad : Nat → Nat → List Nat) : LaneOut :=
  let out := laneGroups.foldl (fun (o : LaneOut) gp =>
    let b := bad gp.1 gp.2
    let rep := match repairLo gp.1 gp.2 with | some lo => bits o.word lo 4 | none => 0
    let new := repairOf gp.1 rep b
    let left := leftBad gp.1 new b
    { word := match repairLo gp.1 gp.2 with | some lo => setBits o.word lo 4 new | none => o.word
      dead := if gp.1 < 4 then o.dead ++ left.map (fun p => 64 * gp.2 + 10 * gp.1 + p) else o.dead
      fatal := o.fatal || groupFatal gp.1 left }) ⟨word, [], false⟩
  { out with fatal := out.fatal || (List.range 2).any (fun pr => decide (countP (fun d => d / 64 = pr) out.dead ≥ 2)) }
/-- UNREP bits of a pseudo-race from the unrepaired data lanes. -/
def unrepOf (dead : List Nat) (pr : Nat) : Nat :=
  (List.range 4).foldl (fun a g => if dead.any (fun d => d / 64 = pr && d % 64 / 10 = g) then a + 2 ^ g else a) 0

/-! ### Settings (R263, R279) -/

/-- Write one of the trained settings of a race: a free value, with the reserved bits zero. -/
def State.trainWord (s : State) (r : Reg) (key mask : Nat) : State :=
  { s.setRaw r key (BitVec.ofNat 64 (Config.freeNat s.freeCtr) &&& BitVec.ofNat 64 mask) with freeCtr := s.freeCtr + 1 }
/-- Offset of SPIN_DLY[n][p][s][d][w] and SPIN_SID[n][p]. -/
def dlyKey (race pr sid dir w : Nat) : Nat := 0x801000 + race * 0x10000 + pr * 0x200 + sid * 0x80 + dir * 0x40 + w * 8
def sidKey (race pr : Nat) : Nat := 0x800810 + race * 0x10000 + pr * 8
/-- Fields of word w of a direction: positions 0-41 for reads, 0-39 for writes. -/
def dlyMask (dir w : Nat) : Nat := if w < 5 then 0x7F7F7F7F7F7F7F7F else if dir = 0 then 0x7F7F else 0
/-- Registers that hold the trained settings of a race, with the bits they have. -/
def trainedKeys (nsid r : Nat) : List (Reg × Nat × Nat) :=
  (List.range 2).map (fun p => (Reg.SPIN_SID, sidKey r p, 2 ^ (16 * nsid) - 1))
    ++ (List.range 2).flatMap (fun p => (List.range nsid).flatMap (fun sd => (List.range 2).flatMap (fun d =>
        ((List.range 6).filter (fun w => dlyMask d w ≠ 0)).map (fun w => (Reg.SPIN_DLY, dlyKey r p sd d w, dlyMask d w)))))
/-- A training writes every delay, reference and phase of the race. -/
def State.trainSettings (s : State) (r : Nat) : State := each (trainedKeys s.nsid r) (fun e s => s.trainWord e.1 e.2.1 e.2.2) s

/-- Step 9 writes the tracking patterns into the read columns of the probe rows (R264, R268). -/
def Train.patterns (x : Train) (nsid : Nat) : Train :=
  let ks := (List.range 2).flatMap (fun p => (List.range nsid).flatMap (fun sd => (List.range 8).map (fun c => (4 * p + sd, c))))
  { x with rdCol := {}, wrCol := {}, cols := ks.foldl (fun (t : Tbl (Codeword × Int)) e => t.ins (16 * e.1 + e.2) (Config.trackPattern e.2, 0)) {} }
/-- A bit of UNREP_A or UNREP_B is set. -/
def State.unrep (s : State) (r : Nat) : Bool := s.fheld Fld.SPIN_STAT_UNREP_A r ≠ 0 || s.fheld Fld.SPIN_STAT_UNREP_B r ≠ 0
/-- The outcome of applying lanes is recorded: SPIN_REPAIR, UNREP, the dead list, RESULT; SPIN_LANE while a lane is unrepaired. -/
def State.recordLanes (s : State) (r : Nat) (o : LaneOut) : State :=
  let s := s.setRaw .SPIN_REPAIR (Reg.key .SPIN_REPAIR r 0) (BitVec.ofNat 64 o.word)
  let s := s.fset Fld.SPIN_STAT_UNREP_A (unrepOf o.dead 0) r
  let s := s.fset Fld.SPIN_STAT_UNREP_B (unrepOf o.dead 1) r
  let x := s.race r
  let s := s.setRace r { x with tr := { x.tr with dead := o.dead, deadSid := x.tr.deadSid.keep (fun d _ => o.dead.contains d) } }
  match o.dead with
  | [] => s.causeOff Src.SPIN_LANE r
  | d :: _ => s.raise Src.SPIN_LANE r (128 * (s.race r).tr.deadSid.get 0 d + d)
/-- A race ends a training in FAIL (R266). -/
def State.trainFail (s : State) (r : Nat) : State :=
  let s := s.fset Fld.SPIN_STAT_RESULT 3 r
  let s := s.fset Fld.SPIN_STAT_STATE 5 r
  s.raise Src.SPIN_TRAIN r 0

/-! ### Full training (R264 to R267) -/

/-- Races of a half in full training. -/
def State.training (s : State) (h : Nat) : List Nat := (halfRaces h).filter (fun r => (s.race r).tr.trainAt.isSome)
/-- Fantail starts the next race of its half, PAR at once, in order of number. -/
def execFullTraining (race : Nat) (s : State) : Host.Outcome State Fault Refusal :=
  let h := raceHalf race
  .next (when (decide (race < 32) && (s.boot.trainQ.filter (fun r => raceHalf r = h)).head? = some race && s.raceRuns race
      && decide ((s.training h).length < s.fget Fld.FAN_CFG_PAR 0 h)
      && (!s.ld.trainWait || s.fheld Fld.MIL_BOOT_GO = 1))
    (fun s =>
      let x := s.race race
      let s := s.setRace race { x with tr := { x.tr with trainAt := some s.clk.age } }
      let s := { s with boot := { s.boot with trainQ := s.boot.trainQ.filter (· ≠ race) } }
      (s.fset Fld.SPIN_STAT_STATE 1 race).fset Fld.SPIN_STAT_STEP 1 race) s)

/-- Step of R264 by the longest durations, in Turns since the start. -/
def trainStep (age : Nat) : Nat := countP (fun b => decide (age ≥ b)) [0, 125, 500, 750, 1750, 2500, 4000, 5000, 5125]

/-- A full training ends: lanes repaired or left, settings found, the outcome of R262 and R266. -/
def execTrainingComplete (race : Nat) (failed : List LanePos) (badWindow : Bool) (s : State) : Host.Outcome State Fault Refusal :=
  .next (when (decide (race < 32) && (s.race race).tr.trainAt.isSome && s.raceRuns race)
    (fun s =>
      let bad := fun g pr => (failed.filter (fun l => l.group = g ∧ l.pr = pr)).map (fun l => l.pos)
      let o := applyLanes (s.raw .SPIN_REPAIR (Reg.key .SPIN_REPAIR race 0)).toNat bad
      let x := s.race race
      let s := s.setRace race { x with refOn := true, tr := { x.tr.patterns s.nsid with trainAt := none } }
      let s := (s.fset Fld.SPIN_STAT_STEP 0 race).trainSettings race
      let s := s.recordLanes race o
      if o.fatal || badWindow then s.trainFail race
      else
        let s := s.fset Fld.SPIN_STAT_RESULT (if o.dead.isEmpty then 1 else 2) race
        let s := s.fset Fld.SPIN_STAT_STATE (s.trackState race) race
        let x := s.race race
        s.setRace race { x with tr := x.tr.restart s.clk.age }) s)

/-! ### Drift tracking (R269 to R273) -/

/-- The delay of a position, with a decision that waits (R270). -/
def State.centre (s : State) (r key : Nat) : Nat :=
  let pos := key % 48
  let k := key / 48
  match (s.race r).tr.pendC.find? key with
  | some v => v
  | none => bits (s.raw .SPIN_DLY (dlyKey r (k / 8) (k / 2 % 4) (k % 2) (pos / 8))).toNat (8 * (pos % 8)) 7
/-- A position carries a signal of its data or timing group. -/
def State.posUsed (s : State) (r pr pos : Nat) : Bool :=
  let w := (s.raw .SPIN_REPAIR (Reg.key .SPIN_REPAIR r 0)).toNat
  if pos < 40 then usedPos (pos / 10) (bits w (16 * pr + 4 * (pos / 10)) 4) (pos % 10)
  else if pos = 40 then usedPos 4 (bits w (32 + 4 * pr) 4) 4 else usedPos 4 (bits w (32 + 4 * pr) 4) 5
/-- A lane is found dead (R271). The cause of SPIN_LANE is a bit of UNREP (R381): a dead timing lane sets none. -/
def State.laneDead (s : State) (r pr sid pos : Nat) : State :=
  let x := s.race r
  let d := 64 * pr + pos
  if x.tr.dead.contains d then s
  else
    let two := pos ≥ 40 || x.tr.dead.any (fun e => e / 64 = pr && decide (e % 64 < 40))
    let s := s.setRace r { x with tr := { x.tr with dead := x.tr.dead ++ [d], deadSid := x.tr.deadSid.put 0 d sid } }
    let s := s.fset Fld.SPIN_STAT_UNREP_A (unrepOf (s.race r).tr.dead 0) r
    let s := s.fset Fld.SPIN_STAT_UNREP_B (unrepOf (s.race r).tr.dead 1) r
    let s := s.raise Src.SPIN_LANE r (sid * 2 ^ 7 + pr * 2 ^ 6 + pos)
    let s := if s.unrep r then s else s.causeOff Src.SPIN_LANE r
    let s := if two then s.raise Src.SPIN_TRAIN r 0 else s
    if s.fb Fld.FAN_CFG_AUTO_REPAIR 0 (raceHalf r) then s.askRetrain r else s
/-- The rule of R270 for one position; in a resume check a position in use that fails both probes asks for a retraining (R278). A centre
that would leave 0-127 is unstated: a free value. -/
def State.moveCentre (s : State) (r key : Nat) (lo hi : Bool) : State :=
  let x := s.race r
  let c := s.centre r key
  let free := (lo = hi) = false && ((hi && c = 127) || (lo && c = 0))
  let new := if free then Config.freeNat s.freeCtr % 128 else if hi then c + 1 else c - 1
  let tr := if lo = hi then x.tr else { x.tr with pendC := x.tr.pendC.ins key new, pendT := x.tr.pendT.ins (key / 96) s.clk.age }
  let n := if lo || hi then 0 else tr.failing.get 0 key + 1
  let tr := { tr with failing := tr.failing.put 0 key n }
  let s := { s.setRace r { x with tr := tr } with freeCtr := if free then s.freeCtr + 1 else s.freeCtr }
  if lo || hi then s
  else
    let s := s.fadd Fld.SPIN_STAT_EYE_LOW 1 r
    let k := key / 48
    let s := if s.checking r && s.posUsed r (k / 8) (key % 48) then s.setRace r { s.race r with tr := { (s.race r).tr with checkFail := true } } else s
    if n ≥ s.fget Fld.FAN_CFG_DEAD_RNDS 0 (raceHalf r) && s.posUsed r (k / 8) (key % 48) then s.laneDead r (k / 8) (k / 2 % 4) (key % 48) else s

def execProbeResult (race pr sid dir : Nat) (lowPass highPass : BitVec 42) (s : State) : Host.Outcome State Fault Refusal :=
  let k := (pr * 4 + sid) * 2 + dir
  .next (when (decide (race < 32) && k ∈ (s.race race).tr.await && (s.fheld Fld.SPIN_STAT_STATE race = 2 || s.checking race))
    (fun s =>
      let x := s.race race
      let s := s.setRace race { x with tr := { x.tr with await := x.tr.await.erase k } }
      each (List.range (if dir = 0 then 42 else 40)) (fun i s => s.moveCentre race (k * 48 + i) (bit lowPass.toNat i) (bit highPass.toNat i)) s) s)

/-- New centres of a pseudo-race and SID take effect at an mc of a later Turn without a data interval for that SID (R270). -/
def execCentreApply (race pr sid : Nat) (s : State) : Host.Outcome State Fault Refusal :=
  let x := s.race race
  let idle := x.hist.all (fun c => !(c.cmd.isCol && c.pr = pr && c.sid = sid && decide (c.ds ≤ s.now) && decide (s.now < c.ds + tBURST)))
  .next (when (decide (race < 32) && idle && (match x.tr.pendT.find? (pr * 4 + sid) with | some t => decide (s.clk.age > t) | none => false))
    (fun s =>
      let mine := x.tr.pendC.rows.filter (fun kv => kv.1 / 96 = pr * 4 + sid)
      let s := each mine (fun kv s =>
        let k := kv.1 / 48
        let key := dlyKey race (k / 8) (k / 2 % 4) (k % 2) (kv.1 % 48 / 8)
        s.setRaw .SPIN_DLY key (BitVec.ofNat 64 (setBits (s.raw .SPIN_DLY key).toNat (8 * (kv.1 % 8)) 7 kv.2))) s
      s.setRace race { x with tr := { x.tr with pendC := x.tr.pendC.keep (fun k _ => k / 96 ≠ pr * 4 + sid), pendT := x.tr.pendT.del (pr * 4 + sid) } }) s)

/-- A round has taken longer than 2 × ROUND Turns (R272). -/
def execTrackingLag (race : Nat) (s : State) : Host.Outcome State Fault Refusal :=
  let x := s.race race
  let h := raceHalf race
  .next (when (decide (race < 32) && s.fheld Fld.SPIN_STAT_STATE race = 2 && !s.isolated race && !x.tr.roundDone && !x.tr.lagged
      && decide (s.clk.age > x.tr.roundAt + 2 * s.fget Fld.FAN_CFG_ROUND 0 h))
    (fun s => ((s.setRace race { x with tr := { x.tr with lagged := true } }).fadd Fld.SPIN_STAT_LAG 1 race).raise Src.FAN_LAG h 0) s)

/-! ### Runtime retraining (R274 to R276, R300) -/

/-- The settings in force before a retraining. -/
def State.saveSettings (s : State) (r : Nat) : Tbl Word :=
  (trainedKeys s.nsid r).foldl (fun (t : Tbl Word) e => t.ins e.2.1 (s.raw e.1 e.2.1)) ((({} : Tbl Word)).ins (Reg.key .SPIN_REPAIR r 0) (s.raw .SPIN_REPAIR (Reg.key .SPIN_REPAIR r 0)))
/-- Begin a retraining of a race: step 1, the quiesce. `missed` names the soft entries whose copy will meet a missing burst, `errs` the errors
that its other read bursts will have. -/
def State.beginRetrain (s : State) (r : Nat) (missed : List Nat) (errs : List (Nat × List (Nat × Byte))) : State :=
  let h := raceHalf r
  let x := s.race r
  let f := s.fan h
  let s := s.setFan h { queue := f.queue.filter (· ≠ r), running := some r }
  let s := s.setRace r { x with tr := { x.tr with
    retrain := true, retrainAt := s.clk.age, repaired := false, copyMiss := missed, copyErr := errs, hold := true, checkFail := false
    saved := s.saveSettings r, savedDead := x.tr.dead } }
  s.fset Fld.SPIN_STAT_STATE 3 r
/-- A race can be retrained: trained and out of its resume check, or failed in that check (R274, R278). -/
def State.canRetrain (s : State) (r : Nat) : Bool :=
  let st := s.fheld Fld.SPIN_STAT_STATE r
  s.raceRuns r && (st = 2 || st = 6 || (st = 4 && (s.race r).tr.checkFail))
/-- The first request that can be served begins; a half retrains one race at a time (R274). Operands: as for the copies that its
step 2 makes. -/
def execRetrainStart (half : Nat) (s : State) (missed : List Nat := []) (errs : List (Nat × List (Nat × Byte)) := []) : Host.Outcome State Fault Refusal :=
  .next (match (s.fan half).queue.find? (fun r => s.canRetrain r) with
    | some r => when (decide (half < 2) && (s.fan half).running.isNone && !s.brk.safe && !s.gov.alert) (fun s => s.beginRetrain r missed errs) s
    | none => s)

/-- The copy of one PENDING soft row (R300 step 3): each cell is read as a burst and decoded, the outcomes count (R283, R294), and it is
written back, CE data corrected, UE cells poisoned. QRN_UE has no source for a row copy (R296). -/
def State.copyRow (s : State) (w : Nat) (errs : List (Nat × List (Nat × Byte))) : State :=
  let row := entRow w
  let sid := entSid w
  let p : Place := { v := row * s.nsid + sid, sid := sid, row := row, race := entRace w, pr := entPr w, bg := entBg w, bank := entBank w, col := 0 }
  each (List.range 16) (fun c s =>
    let a := encodeAddr s.nsid s.hashMask { p with col := c }
    if !s.isWritten a then s
    else
      let d := rsDecode (corrupt (s.cellWord a) ((errs.find? (fun e => e.1 = a)).map Prod.snd |>.getD []))
      match d.out with
      | .ue => ((s.countUE p.race).trackRow a true).storeCell a (storeWord (cwData d.word) true (s.epochTag (raceHalf p.race)))
      | .ce => (s.noteCE a d.fixed).storeCell a d.word
      | .poisoned => let s := s.countPsn p.race; if d.fixed.isEmpty then s else (s.noteCE a d.fixed).storeCell a d.word
      | _ => s) s
/-- Up to 8 PENDING soft entries of the race are copied and become APPLIED; one whose copy meets a missing burst becomes FAILED, its remap
unwritten (R300). -/
def State.applySoft (s : State) (r : Nat) (missed : List Nat) (errs : List (Nat × List (Nat × Byte))) : State :=
  let mine := (s.softEntries.filter (fun e => softState e.2 = 1 ∧ entRace e.2 = r)).take 8
  each mine (fun e s =>
    let end_ := fun (s : State) st => s.setRaw .DRS_SOFT (Reg.key .DRS_SOFT e.1 0) (BitVec.ofNat 64 (setBits e.2 16 2 st))
    if e.1 ∈ missed then end_ (s.countUE r) 3 else end_ (s.copyRow e.2 errs) 2) s
/-- Positions of lane group g of pr among dead lanes: 40 is position 4 of the timing group, 41 its spare (R260, R279). -/
def deadIn (dead : List Nat) (g pr : Nat) : List Nat :=
  dead.filterMap (fun d =>
    let p := d % 64
    if d / 64 ≠ pr then none
    else if p < 40 then (if p / 10 = g then some (p % 10) else none)
    else if g = 4 then some (p - 36) else none)
/-- Step 2 of a retraining (R274, R300): every dead lane whose group has a free spare is repaired, soft rows are copied; the narrow steps
begin, whose shares of their 96 µs the spec does not give (log entry 102). -/
def State.repairStep (s : State) (r : Nat) : State :=
  let x := s.race r
  let o := applyLanes (s.raw .SPIN_REPAIR (Reg.key .SPIN_REPAIR r 0)).toNat (deadIn x.tr.dead)
  let s := (s.applySoft r x.tr.copyMiss x.tr.copyErr).recordLanes r o
  let left := x.tr.dead.filter (fun d => decide (d % 64 ≥ 40) && s.posUsed r (d / 64) (d % 64))
  let y := s.race r
  s.setRace r { y with tr := { y.tr with dead := y.tr.dead ++ left, repaired := true } }
/-- A retraining ends: settings found anew; positions with no passing window even at full width are failed lanes, repaired where the spare
is free (R266); the outcome is that of R262; service resumes at the next Turn boundary. -/
def State.endRetrain (s : State) (r : Nat) (failed : List LanePos) (badWindow : Bool) : State :=
  let s := if (s.race r).tr.repaired then s else s.repairStep r
  let x := s.race r
  let bad := fun g pr => deadIn x.tr.dead g pr ++ (failed.filter (fun l => l.group = g ∧ l.pr = pr)).map (fun l => l.pos)
  let o := applyLanes (s.raw .SPIN_REPAIR (Reg.key .SPIN_REPAIR r 0)).toNat bad
  let s := ((s.trainSettings r).recordLanes r o).stopRetrain r
  let x := s.race r
  let t := (x.tr.patterns s.nsid).restart s.clk.age
  let s := s.setRace r { x with tr := { t with hold := true } }
  if o.fatal || badWindow then s.trainFail r
  else
    (s.fset Fld.SPIN_STAT_RESULT (if o.dead.isEmpty then 1 else 2) r).fset Fld.SPIN_STAT_STATE (s.trackState r) r
/-- The retraining of a half ends. Operands: the lanes that its windows leave failed, and whether step 9 found an uncorrectable burst. -/
def execRetrainComplete (half : Nat) (s : State) (failed : List LanePos := []) (badWindow : Bool := false) : Host.Outcome State Fault Refusal :=
  .next (match (s.fan half).running with
    | some r => when (decide (half < 2) && !s.brk.safe && s.raceRuns r) (fun s => s.endRetrain r failed badWindow) s
    | none => s)

/-- Alert aborts a retraining: the settings and the lane map before it return, service resumes, ABORTED is set (R276). -/
def State.abortRetrain (s : State) (r : Nat) : State :=
  let x := s.race r
  let back := (trainedKeys s.nsid r).foldl
    (fun (t : Tbl Word) (e : Reg × Nat × Nat) => match x.tr.saved.find? e.2.1 with | some w => regsPut s.ld t e.1 e.2.1 w | none => t) s.regs
  let s : State := { s with regs := back }
  let map := ((x.tr.saved.find? (Reg.key .SPIN_REPAIR r 0)).getD 0).toNat
  let s := s.recordLanes r ⟨map, x.tr.savedDead.filter (fun d => decide (d % 64 < 40)), false⟩
  let s := s.fset Fld.SPIN_STAT_ABORTED 1 r
  let s := (s.stopRetrain r).fset Fld.SPIN_STAT_STATE (s.trackState r) r
  let y := s.race r
  let t := y.tr.restart s.clk.age
  s.setRace r { y with tr := { t with dead := x.tr.savedDead } }
def execRetrainAbort (half : Nat) (s : State) : Host.Outcome State Fault Refusal :=
  .next (match (s.fan half).running with
    | some r => when (decide (half < 2) && s.gov.alert) (fun s => s.abortRetrain r) s
    | none => s)

/-- Every probe of the round has issued and every pair has its result. -/
def State.roundOver (s : State) (r : Nat) : Bool :=
  let t := (s.race r).tr
  decide (t.nextA ≥ 6 * s.nsid) && decide (t.nextB ≥ 6 * s.nsid) && t.await.isEmpty
/-- The resume check of a race ends with its round (R278): a position that failed both probes starts a runtime retraining at once, or, while
the half retrains another race or cannot, as soon as its turn comes. -/
def execResumeCheck (race : Nat) (doubleFail : Bool) (s : State) : Host.Outcome State Fault Refusal :=
  let h := raceHalf race
  .next (when (decide (race < 32) && s.checking race && s.raceRuns race && s.roundOver race && !(race ∈ (s.fan h).queue)
      && doubleFail == (s.race race).tr.checkFail)
    (fun s =>
      let s := s.fwrap Fld.SPIN_STAT_ROUNDS 1 race
      if (s.race race).tr.checkFail then
        let s := s.askRetrain race
        if (s.fan h).running.isNone && !s.brk.safe && !s.gov.alert then s.beginRetrain race [] [] else s
      else
        let s := s.fset Fld.SPIN_STAT_STATE (s.trackState race) race
        let x := s.race race
        let t := x.tr.restart s.clk.age
        s.setRace race { x with tr := { t with hold := false } }) s)

end Sys2Proof.Machine
end

