-- ==== Sys2Proof/Machine/Tally.lean ====
section
/-!
DEFINITION. Tally (R394 to R408): snapshots and the dump ring, bandwidth windows, the sampler, the heat map, the split read of
a counter.
-/
namespace Sys2Proof.Machine

/-! ### The heat map (R405, R406) -/

/-- act of R405. -/
def heatAct (n : Nat) : Nat := if n = 0 then 0 else min 255 (16 * (1 + n.log2))
/-- One update of a half's levels with the counts n of an interval. -/
def Tly.heatWith (t : Tly) (n : Tbl Nat) (decay : Nat) : Tly :=
  let keys := (t.heat.keys ++ n.keys).dedup
  { t with heat := keys.foldl (fun (u : Tbl Nat) v =>
      let l := t.heat.get 0 v
      u.put 0 v (max (heatAct (n.get 0 v)) (l - min l decay))) {} }
/-- The further update with the counts of the interval in progress (R406), which start again. -/
def State.heatUpdate (s : State) (h : Nat) : State :=
  let t := s.tly h
  s.setTly h { t.heatWith t.heatN (s.fget Fld.TLY_CFG_DECAY 0 h) with heatN := {} }

/-! ### Snapshots and records (R398 to R402) -/

/-- A record or a snapshot without one is abandoned: MISSED and STATE counter 15 (R399). -/
def State.missRecord (s : State) (h : Nat) : State :=
  let t := s.tly h
  ((s.setTly h { t with stage := 0, put := 0, missedSince := t.missedSince + 1 }).fadd Fld.TLY_STAT_MISSED 1 0 h).tally h 6 15 1
/-- Hoist holds the half's store entries at zero (R320). -/
def State.storesShut (s : State) (h : Nat) : Bool := hoistFitted s.ld && decide ((s.hst h).sNow = 0)
/-- What the boundary into the Turn `turn` latches for a half: every counter and the heat counts for a snapshot (R398, R405), the
counts of a bandwidth window that ends (R403); the latched counts start again. -/
def State.tallyLatch (s : State) (turn h : Nat) : State :=
  let t := s.tly h
  let t := if turn % 65536 = 0 then { t with latch := some (t.cnt, t.heatN), heatN := {} } else t
  let t := if turn % 2 ^ (10 + min 10 (s.fheld Fld.TLY_CFG_WBITS 0 h)) = 0 then
      { t with bwLatch := if t.bwPart then none else some [t.bwModR, t.bwModW, t.bwGrpR, t.bwGrpW], bwPart := false
               bwModR := {}, bwModW := {}, bwGrpR := {}, bwGrpW := {} }
    else t
  s.setTly h t
/-- The snapshot of one half, of the counters `cnt` and heat counts `n` latched for it: heat updated, the ring as written taken, the old
record abandoned where it has not ended, the next one begun. -/
def State.snapshot (s : State) (h : Nat) (cnt n : Tbl Nat) : State :=
  let t := s.tly h
  let busy := decide (t.stage ≠ 0)
  let s := s.setTly h { t.heatWith n (s.fget Fld.TLY_CFG_DECAY 0 h) with
    snap := cnt, snapTurn := s.clk.turn, latch := none, ring := s.raw .TLY_RING (Reg.key .TLY_RING 0 h) }
  let s := if busy then s.missRecord h else s
  if s.fheld Fld.TLY_CFG_RING_EN 0 h = 1 then
    if s.storesShut h || s.brk.safe then s.missRecord h else s.setTly h { s.tly h with stage := 1, put := 0 }
  else s

def execTallySnapshot (s : State) : Host.Outcome State Fault Refusal :=
  .next (when (s.mainsOn && decide (s.clk.turn % 65536 = 0))
    (fun s => [0, 1].foldl (fun (s : State) h => match (s.tly h).latch with
      | some (cnt, n) => s.snapshot h cnt n
      | none => s) s) s)

/-- The header cell of a record (R400). -/
def recHeader (turn seq half missed : Nat) (valid : Bool) : Cell :=
  BitVec.ofNat 512 (turn % 2 ^ 48 + seq % 2 ^ 32 * 2 ^ 64 + half * 2 ^ 96 + b2n valid * 2 ^ 104 + 496 * 2 ^ 112
    + missed % 2 ^ 32 * 2 ^ 128 + 1 * 2 ^ 160)
/-- Bank and index of counter j of a record. -/
def cntPlace (j : Nat) : Nat × Nat :=
  if j < 80 then (0, j) else if j < 112 then (1, j - 80) else if j < 240 then (2, j - 112) else if j < 432 then (3, j - 240)
  else if j < 464 then (4, j - 432) else if j < 480 then (5, j - 464) else (6, j - 480)
/-- Counter j as latched. -/
def Tly.snapAt (t : Tly) (j : Nat) : Nat :=
  if j < 496 then t.snap.get 0 (256 * (cntPlace j).1 + (cntPlace j).2) else 0
/-- Cell c (1 to 63) of a record: eight counters. -/
def Tly.recCell (t : Tly) (c : Nat) : Cell :=
  BitVec.ofNat 512 ((List.range 8).map (fun i => t.snapAt (8 * (c - 1) + i) * 2 ^ (64 * i))).sum
/-- Byte address of the record being written. -/
def Tly.recBase (t : Tly) : Nat :=
  bits t.ring.toNat 12 28 * 4096 + 4096 * (t.recSeq % max 1 (bits t.ring.toNat 48 16))
/-- A store of a record has been retired by the stall watchdog (R49): the record that it belongs to is abandoned. -/
def State.recError (s : State) (a : Nat) : State :=
  each [0, 1] (fun h s =>
    let t := s.tly h
    if t.stage ≠ 0 && decide (t.recBase ≤ a) && decide (a < t.recBase + 4096) then s.missRecord h else s) s
/-- A store of a record: it belongs to no stream, enters Millpond and is visible there (R399); its page is dirty, and an
unrestored chunk that it falls into holds it. -/
def State.tallyPut (s : State) (a : Nat) (c : Cell) : State :=
  let r := s.raceAt a
  let h := raceHalf r
  let id := s.hop.nextId
  let e : PondEnt := { id := id, k := 0, half := h, race := r, addr := a, data := c, mask := fullMask, psn := false,
                       vis := s.hop.visNext, tally := true, stream := 0, cls := 3 }
  let s := { s with pond := s.pond ++ [e], hop := { s.hop with nextId := id + 1, visNext := s.hop.visNext + 1 } }
  let s := ((s.touch a).dirtyAt a).tallyStore h 0 1
  let hx := s.hst h
  let v := a / 2 ^ 21
  if (hx.chunks.find? v).isSome && !(v ∈ hx.held) then s.setHst h { hx with held := hx.held ++ [v] } else s
/-- The cells of a stage. -/
def Tly.stageCells (t : Tly) (h : Nat) : List (Nat × Cell) :=
  match t.stage with
  | 1 => [(t.recBase, recHeader t.snapTurn t.recSeq h t.missedSince false)]
  | 2 => (List.range 63).map (fun i => (t.recBase + 64 * (i + 1), t.recCell (i + 1)))
  | _ => [(t.recBase, recHeader t.snapTurn t.recSeq h t.missedSince true)]
/-- The last stage ends the record. -/
def State.endRecord (s : State) (h : Nat) : State :=
  let t := s.tly h
  ((s.setTly h { t with stage := 0, put := 0, recSeq := t.recSeq + 1, missedSince := 0 }).fset Fld.TLY_STAT_SEQ (t.recSeq % 2 ^ 32) 0 h).tallyStore h 15 1
/-- Millpond of a half has an entry outside the class-0 reserve. -/
def State.pondRoom (s : State) (h : Nat) : Bool := decide (countP (fun e : PondEnt => e.half = h) s.pond < 8192 - 32)
/-- Write cells of a stage as BG's budget and Millpond admit them (R238, R399), behind an applied AMO of the cell, whose instant is its
execution (R98), and behind the Flume entries that wrote the cell, which it closes (R105); answers those that are left. -/
def State.dumpCells (s : State) : List (Nat × Cell) → State × Nat
  | [] => (s, 0)
  | c :: rest =>
    let s := s.flumeClose (fun e => decide (e.blk = c.1 / 256))
    if s.flume.any (fun e => decide (e.blk = c.1 / 256) && (e.mask.find? (c.1 / 64 % 4)).isSome) || s.bgRoom 3 = 0 || !s.pondRoom (raceHalf (s.raceAt c.1)) || s.pond.any (fun e => e.amo && decide (e.vis ≠ 0) && e.addr = c.1) then (s, rest.length + 1)
    else ((s.bgUse 3 1).tallyPut c.1 c.2).dumpCells rest
/-- Write the next stage of a record, or what is left of it. A store of an isolated race is answered OFF and abandons it; so does one
that cannot reach its half (log entry 109). -/
def State.dumpStage (s : State) (h : Nat) : State :=
  let t := s.tly h
  let cs := (t.stageCells h).drop t.put
  if cs.any (fun c => s.raceOff (s.raceAt c.1) || (s.splitNow && raceHalf (s.raceAt c.1) ≠ h)) then s.missRecord h
  else
    let out := s.dumpCells cs
    let s := out.1
    if out.2 ≠ 0 then s.setTly h { s.tly h with put := t.put + (cs.length - out.2) }
    else if t.stage = 3 then s.endRecord h
    else s.setTly h { s.tly h with stage := t.stage + 1, put := 0 }
def execTallyDumpStage (half : Nat) (s : State) : Host.Outcome State Fault Refusal :=
  .next (when (decide (half < 2) && decide ((s.tly half).stage ≠ 0) && s.mainsOn && !s.brk.safe && !s.storesShut half)
    (fun s => s.dumpStage half) s)

/-! ### Bandwidth windows (R403) -/

/-- Cells as units of 256 B, saturating in 32 bits. -/
def bwUnits (n : Nat) : Nat := min (n / 4) (2 ^ 32 - 1)
def bwWord (rd wr : Nat) : Word := BitVec.ofNat 64 (bwUnits rd * 2 ^ 32 + bwUnits wr)
/-- Load the bandwidth registers with the counts of the window just ended: modules' reads and stores, then groups'. -/
def State.bwLoad (s : State) (h : Nat) (w : List (Tbl Nat)) : State :=
  let at_ := fun i k => (w.getD i {}).get 0 k
  let s := each (List.range 10) (fun j s => s.setRaw .TLY_BW_MOD (Reg.key .TLY_BW_MOD j h) (bwWord (at_ 0 j) (at_ 1 j))) s
  let s := each (List.range 64) (fun g s => s.setRaw .TLY_BW_GRP (Reg.key .TLY_BW_GRP g h) (bwWord (at_ 2 g) (at_ 3 g))) s
  s.fset Fld.TLY_STAT_BWVALID 1 0 h
/-- The counts that the boundary latched at a window's end are loaded; of a window discarded by a write of WBITS none were latched. -/
def execBandwidthWindowEnd (half : Nat) (s : State) : Host.Outcome State Fault Refusal :=
  .next (match (s.tly half).bwLatch with
    | none => s
    | some w => when (decide (half < 2) && s.mainsOn) (fun s => (s.setTly half { s.tly half with bwLatch := none }).bwLoad half w) s)

/-! ### The sampler (R404) -/

/-- The capture completes: the first response cell has left, or the request is a WR or WRN. -/
def State.sampDone (s : State) (id : Nat) : Bool :=
  match s.hop.reqs.find? id with
  | none => !(s.mods.vals.any (fun m => m.tx.any (fun r => r.id = id)))
  | some q => !Opc.answered q.opc || (q.answered && !((s.mod q.m).tx.any (fun r => r.id = id)))
/-- Interrupt code of the sampler toward the Miller core, the model's own number. -/
def irqSample : Nat := 0x200
def execSampleCapture (half mc : Nat) (s : State) : Host.Outcome State Fault Refusal :=
  .next (match (s.tly half).sampReq with
    | none => s
    | some id => when (decide (half < 2) && s.mainsOn && s.sampDone id)
        (fun s =>
          let t := s.tly half
          let lat := min 32767 (s.at mc - t.sampLand)
          let s := s.setRaw .TLY_SAMP1 (Reg.key .TLY_SAMP1 0 half) (BitVec.ofNat 64 (2 ^ 63 + lat * 2 ^ 48 + t.sampTurn % 2 ^ 48))
          { s.setTly half { t with sampReq := none } with
            clk := s.clkAt mc, out := { s.out with irq := (half, irqSample, 0) :: s.out.irq } }) s)

/-! ### Reading a counter in halves (R397) -/

def State.cntOf (s : State) (h bank i : Nat) : Nat := (s.tly h).cnt.get 0 (256 * bank + i)
/-- A 32-bit read of the low half latches bits [47:32]. -/
def execTlyCntLowRead (half bank i : Nat) (s : State) : Host.Outcome State Fault Refusal :=
  .next (when (decide (half < 2) && decide (i < bankSize bank) && s.domainOn (70 + half))
    (fun s =>
      let c := s.cntOf half bank i
      { s.setTly half { s.tly half with lowLatch := some (256 * bank + i, c / 2 ^ 32, s.clk.age) } with
        reply := { mstat := St.ok, val := BitVec.ofNat 64 (c % 2 ^ 32) } }) s)
/-- What a 32-bit read of the high half returns. -/
def State.cntHigh (s : State) (h bank i : Nat) : Nat :=
  match (s.tly h).lowLatch with
  | some (k, hi, age) => if k = 256 * bank + i ∧ s.clk.age ≤ age + 16 then hi else s.cntOf h bank i / 2 ^ 32
  | none => s.cntOf h bank i / 2 ^ 32

end Sys2Proof.Machine
end

