-- ==== Sys2Proof/Machine/Hoist.lean ====
section
/-!
DEFINITION. Hoist and the Granary (R307 to R342): the ceiling, write-behind, epochs and resync, drives and their loss, attach,
restore, demand fill, drain and seal.
-/
namespace Sys2Proof.Machine

/-! ### Places in the image (R309, R322, R323, R338) -/

/-- Drives of a half. -/
def State.nh (s : State) : Nat := nhOf s.ld
def State.regions (s : State) : Nat := regionsOf s.ld
/-- Turns of n ms (R10: a Turn is 160 ns). -/
def msTurns (n : Nat) : Nat := n * 6250
def Hst.drive (x : Hst) (i : Nat) : Drive := x.drives.get {} i
def Hst.setDrive (x : Hst) (i : Nat) (d : Drive) : Hst := { x with drives := x.drives.ins i d }
/-- Drive i of the half serves. -/
def Hst.live (x : Hst) (i : Nat) : Bool := (x.drive i).up && !(x.drive i).lost
/-- Live drives of a half, ascending. -/
def Hst.liveDrives (x : Hst) (nh : Nat) : List Nat := (List.range nh).filter (fun i => x.live i)
/-- Drive and slot of chunk v; none where its drive is lost and no relocation holds it. -/
def Hst.home (x : Hst) (nh v : Nat) : Option (Nat × Nat) :=
  match x.placed.find? v with
  | some w => if (x.drive (w / 2 ^ 40)).lost then none else some (w / 2 ^ 40, w % 2 ^ 40)
  | none => if nh = 0 || (x.drive (v % nh)).lost then none else some (v % nh, v / nh)
/-- Pages of chunk v: those of the region whose races lie in the half, in ascending address. -/
def State.chunkPages (s : State) (h v : Nat) : List Nat :=
  ((List.range 512).map (· + 512 * v)).filter (fun p => raceHalf (s.raceAt (p * 4096)) = h)
/-- The logical block of page j of the chunk in a slot (R322). -/
def slotLba (slot j : Nat) : Nat := 1024 + 256 * slot + j
/-- Logical blocks that a drive needs for its own chunks (R323). -/
def State.ownLbas (s : State) : Nat := slotLba (ceilDiv s.regions (max 1 s.nh)) 0

/-! ### Rates and the ceiling (R317 to R319) -/

/-- Usable backup energy as published. -/
def State.emeas (s : State) : Nat := s.fheld Fld.GOV_BK_STAT_EMEAS
/-- The ceiling of a half in pages: R317 in whole numbers, rates in units of 125 MB/s. -/
def State.ceilOf (s : State) (h : Nat) : Nat :=
  let x := s.hst h
  let p := s.fheld Fld.HST_CFG_P_DRAIN
  let e := s.emeas
  if p = 0 || e = 0 then 0
  else
    let num := e * s.fheld Fld.HST_CFG_DERATE - (2 + s.fheld Fld.HST_CFG_T_SEAL) * p
    let b := (((x.liveDrives s.nh).map (fun i => (x.drive i).wr)).sum) * 125000000
    num * b * s.fheld Fld.HST_CFG_WDERATE / (1000 * p * 1000 * 4096)
/-- The cause of HST_CEIL begins or ends: the dirty total exceeds the ceiling (R319, R381). -/
def State.ceilCause (s : State) (h : Nat) : State :=
  let x := s.hst h
  if x.dirtyTotal > x.ceil && !x.ceilRaised then (s.setHst h { x with ceilRaised := true }).raise Src.HST_CEIL h 0
  else if x.dirtyTotal ≤ x.ceil && x.ceilRaised then (s.setHst h { x with ceilRaised := false }).causeOff Src.HST_CEIL h
  else s
/-- A ceiling computation. -/
def State.newCeil (s : State) (h : Nat) : State := (s.setHst h { s.hst h with ceil := s.ceilOf h }).ceilCause h

/-! ### Headers (R324) -/

/-- The header that a reader takes from a drive: of its valid copies, the one with the higher SEQ. -/
def Drive.hdr (d : Drive) : Option Hdr :=
  match d.hdrA, d.hdrB with
  | some a, some b => if b.seq > a.seq then some b else some a
  | some a, none => some a
  | none, b => b
/-- Write a header into the copy whose SEQ is lower; a copy that holds none counts as lower still. -/
def Drive.putHdr (d : Drive) (h : Hdr) : Drive :=
  let intoA := match d.hdrA, d.hdrB with
    | none, _ => true
    | some _, none => false
    | some a, some b => decide (a.seq < b.seq)
  if intoA then { d with hdrA := some h } else { d with hdrB := some h }
/-- UNIT: the first 8 bytes of the digest of certificate 0 (R434). -/
def State.unitTag (s : State) : Nat := bits (Config.sha384 ((Config.certsOf s.fuse.certs).getD 0 [])).toNat 0 64
/-- The epochs of data that is not yet in the image: of dirty pages by chunk, and of pages whose write has not completed (R312). -/
def Hst.openEpochs (x : Hst) : List Nat :=
  x.oldest.vals ++ (x.stage.filter (fun w => !w.reloc)).map (fun w => w.epoch) ++ (x.cmds.filter (fun c => c.kind = 0 && !c.reloc)).map (fun c => c.epoch)
/-- C: the oldest epoch with a dirty chunk, or E. -/
def Hst.commit (x : Hst) : Nat := (x.openEpochs.min?).getD x.epoch
/-- The header of drive i in a state. -/
def State.mkHdr (s : State) (h i st : Nat) : Hdr :=
  let x := s.hst h
  { half := h, drive := i, nh := s.nh, enc := x.encOn, bmapValid := st = 3, heatValid := st = 3, state := st
    failed := x.lostOrder.take 3, seq := x.seq, turn := s.clk.turn, epoch := x.epoch, commit := if st = 3 then x.epoch else x.commit
    unit := s.unitTag, regions := s.regions, gen := x.gen, void := x.void, wrate := max 1 (min 255 (x.drive i).wr)
    rrate := min 255 (x.drive i).rd, wkey := x.wkey }
/-- Write a header in a state to every live drive. SEQ goes up by one. -/
def State.writeHdrs (s : State) (h st : Nat) : State :=
  let x := s.hst h
  let s := s.setHst h { x with seq := x.seq + 1, hdrDue := false }
  let x := s.hst h
  s.setHst h ((x.liveDrives s.nh).foldl (fun (y : Hst) i => y.setDrive i ((y.drive i).putHdr (s.mkHdr h i st))) x)
/-- A Flush for every live drive of half h (R324, R337). -/
def Hst.flushes (x : Hst) (h nh age : Nat) : Hst :=
  (x.liveDrives nh).foldl (fun (y : Hst) i =>
    { y with cmds := y.cmds ++ [{ cid := y.nextCid, port := 4 * h + i, kind := 3, v := 0, since := age, sub := true }], nextCid := y.nextCid + 1 }) x
/-- The header OPEN, and a Flush, on every live drive. -/
def State.stampHdrs (s : State) (h : Nat) : State :=
  let s := s.writeHdrs h 2
  s.setHst h ((s.hst h).flushes h s.nh s.clk.age)
/-- The header OPEN on every live drive: stores may be admitted (R320, R328, R334). -/
def State.openHdrs (s : State) (h : Nat) : State :=
  let s := s.stampHdrs h
  s.setHst h { s.hst h with headerOpen := true }

/-! ### Staging (R46, R337) -/

/-- Chunks at LOADING or on their way to the DRAM. -/
def Hst.loading (x : Hst) : Nat := countP (fun kv : Nat × Chunk => kv.2 = .loading) x.chunks.rows
/-- Pages that write-behind holds in staging: being read, or written and not complete. -/
def Hst.staged (x : Hst) : Nat :=
  (x.stage.map (fun w => w.pages.length)).sum + ((x.cmds.filter (fun c => c.kind = 0)).map (fun c => c.pages.length)).sum
/-- Pages of staging SRAM that are free: 16 MiB of a half, 1 MiB for each chunk that is loading. -/
def Hst.stageRoom (x : Hst) : Nat := 4096 - 256 * x.loading - x.staged
/-- Write commands of a drive, queued in pair 1 or being read for it. -/
def Hst.writesOf (x : Hst) (port : Nat) : Nat :=
  countP (fun c : DrvCmd => c.port = port && c.kind = 0) x.cmds + countP (fun w : HWrite => w.port = port) x.stage

/-! ### Pages as they are copied (R315, R325) -/

/-- Accepted stores to a page before request number n that have not entered its race's write queue: the copy waits for them. -/
def State.pageBusy (s : State) (page n : Nat) : Bool :=
  let inP := fun a : Nat => decide (a / 4096 = page)
  s.pond.any (fun e => inP e.addr && decide (e.id < n)) || s.flume.any (fun e => inP (e.blk * 256) && e.ids.any (fun i => decide (i < n)))
    || s.hop.reqs.rows.any (fun kv => Opc.store kv.2.opc && kv.2.open_ && inP kv.2.addr && decide (kv.1 < n))
    || (s.race (s.raceAt (page * 4096))).fau.any (fun e => inP e.addr && decide (e.id < n))
    || (s.race (s.raceAt (page * 4096 + 2048))).fau.any (fun e => inP e.addr && decide (e.id < n))
/-- The half of a page holds data to copy: its block is WRITTEN and its race is not isolated. -/
def State.halfLive (s : State) (a : Nat) : Bool := s.isWritten a && !(s.isolated (s.raceAt a))
/-- The read of a cell for command `wid` (0: the scan) is still under way: its race may have dropped it in the safe state or at its reset. -/
def State.hoistPend (s : State) (wid a : Nat) : Bool :=
  let x := s.race (s.raceAt a)
  x.rq.any (fun e => e.kind = .hoist && e.id = wid && e.addr = a) || x.flights.any (fun f => f.kind = .hoist && f.id = wid && f.addr = a)
/-- The snapshot of a page: the halves that hold data, their cells to read. -/
def State.snapPage (s : State) (page : Nat) : HPage :=
  let w := fun i : Nat => s.halfLive (page * 4096 + 2048 * i)
  { page := page, w0 := w 0, w1 := w 1, todo := (List.range 64).filter (fun c => w (c / 32)) }
/-- What a cell gave: its data, or poison. -/
def HPage.take (p : HPage) (c : Nat) (data : Option Cell) : HPage :=
  let q := { p with todo := p.todo.erase c, await := p.await.erase c }
  match data with
  | some d => { q with cells := q.cells.ins c d }
  | none => { q with pmask := q.pmask ||| 2 ^ c }
/-- Cells of half w leave the copy: its race has been isolated since the snapshot (R339). -/
def HPage.dropHalf (p : HPage) (w : Nat) : HPage :=
  let keep := fun c : Nat => decide (c / 32 ≠ w)
  { p with w0 := p.w0 && w ≠ 0, w1 := p.w1 && w ≠ 1, todo := p.todo.filter keep, await := p.await.filter keep
           pmask := (List.range 64).foldl (fun m c => if keep c && bit p.pmask c then m ||| 2 ^ c else m) 0, cells := p.cells.keep (fun c _ => keep c) }
/-- Cells whose read was dropped are to be read again. -/
def HPage.rework (p : HPage) (lost : List Nat) : HPage :=
  { p with todo := p.todo ++ lost, await := p.await.filter (fun c => !lost.contains c) }
def HPage.done (p : HPage) : Bool := p.todo.isEmpty && p.await.isEmpty
/-- The page record that a copy writes: EPOCH is E at the snapshot. -/
def Hst.pageOut (x : Hst) (e : Nat) (p : HPage) : Nat × PageRec :=
  (p.page, { pmask := p.pmask, epoch := e, w0 := p.w0, w1 := p.w1, gen := x.gen % 65536, cells := p.cells })
/-- Change a page of a staged command. -/
def Hst.setPage (x : Hst) (wid page : Nat) (f : HPage → HPage) : Hst :=
  { x with stage := mapIf (fun w => w.wid = wid) (fun w => { w with pages := mapIf (fun p => p.page = page) f w.pages }) x.stage }
/-- Staged commands whose pages have all been read become Write commands, which wait for the grant of their granary port (R46, R235). -/
def Hst.submit (x : Hst) (age : Nat) : Hst :=
  (x.stage.filter (fun w => w.pages.all HPage.done)).foldl (fun (y : Hst) w =>
    let c : DrvCmd := { cid := y.nextCid, port := w.port, kind := 0, v := w.v, lba := w.lba, pages := w.pages.map (y.pageOut w.at_), reloc := w.reloc
                        epoch := w.epoch, since := age, sub := true }
    { y with cmds := y.cmds ++ [c]
             nextCid := y.nextCid + 1, stage := y.stage.filter (fun o => o.wid ≠ w.wid) }) x
/-- What a Hoist read reports: UE and MISS with SRC 3; a CE counts, and queues no write-back (R286, R315, R296). -/
def State.hoistReport (s : State) (a : Nat) (d : Decoded) : State :=
  match d.out with
  | .clean => s
  | .ce => s.noteCE a d.fixed
  | .poisoned => let s := s.countPsn (s.raceAt a); if d.fixed.isEmpty then s else s.noteCE a d.fixed
  | .ue | .miss => ((s.countUE (s.raceAt a)).reportUE 3 a).trackRow a true
/-- The data a copy takes from a decode: poison where it is POISONED, UE or MISS. -/
def copyData (d : Decoded) : Option Cell :=
  match d.out with
  | .clean | .ce => some (cwData d.word)
  | _ => none
/-- A cell of the scan of R313 has been read: its page is dirty where its tag is one looked for, or unknown. -/
def State.scanGot (s : State) (h a : Nat) (tag : Option Nat) : State :=
  let x := s.hst h
  let hit := match tag with | some t => x.scanTags.contains t | none => true
  let y := if hit then x.markDirty (a / 4096) else x
  s.setHst h { y with scanning := y.scanning.erase a }
/-- A Hoist read returns to its owner: command `wid`, or 0 the scan (R174, R313, R315). -/
def State.hoistGot (s : State) (wid a : Nat) (d : Decoded) : State :=
  let h := raceHalf (s.raceAt a)
  let s := s.hoistReport a d
  if wid = 0 then s.scanGot h a (match d.out with | .clean | .ce | .poisoned => some (cwEpoch d.word) | _ => none)
  else s.setHst h (((s.hst h).setPage wid (a / 4096) (fun p => if p.await.contains (a / 64 % 64) then p.take (a / 64 % 64) (copyData d) else p)).submit s.clk.age)

/-- What presents a cell to its race for a Hoist read. -/
inductive Fed where
  /-- answered from its write-queue entry -/
  | entry (w : WqEnt)
  /-- in the read queue -/
  | queued
  /-- neither budget nor room, or the unit holds the cell -/
  | waits
deriving DecidableEq, Repr
/-- Present a cell: the budget of Hoist's class, the read queue of the race (R46, R155, R156, R238). -/
def State.hoistRead (s : State) (wid a : Nat) : State × Fed :=
  let r := s.raceAt a
  let c := s.hoistCls
  if (s.race r).inFau a then (s, .waits)
  else match (s.race r).wqAt a with
  | some w => (s, .entry w)
  | none =>
    if s.raceHeld r || !(s.race r).rqFits c 1 || s.bgRoom c = 0 then (s, .waits)
    else
      let s := (s.modeLatch r).bgUse c 1
      (s.setRace r ((s.race r).rqPut .hoist wid 0 a c s.now), .queued)
/-- Read the cells of a page of command `wid`, while they can be presented. -/
def State.feedPage (s : State) (h wid page : Nat) : List Nat → State
  | [] => s
  | c :: rest =>
    let out := s.hoistRead wid (page * 4096 + 64 * c)
    match out.2 with
    | .entry w => (out.1.setHst h ((out.1.hst h).setPage wid page (fun p => p.take c (if w.psn then none else some w.data)))).feedPage h wid page rest
    | .queued => (out.1.setHst h ((out.1.hst h).setPage wid page (fun p => { p with todo := p.todo.erase c, await := p.await ++ [c] }))).feedPage h wid page rest
    | .waits => out.1
/-- Read on for a staged command: halves of a race isolated since leave it, a page with an earlier store on its way waits, reads that were
dropped are made again. -/
def State.feedWrite (s : State) (h : Nat) (w : HWrite) : State :=
  each w.pages (fun p s =>
    let drop := (List.range 2).filter (fun i => (if i = 0 then p.w0 else p.w1) && !s.halfLive (p.page * 4096 + 2048 * i))
    let s := each drop (fun i s => s.setHst h ((s.hst h).setPage w.wid p.page (fun q => q.dropHalf i))) s
    let lost := p.await.filter (fun c => !drop.contains (c / 32) && !s.hoistPend w.wid (p.page * 4096 + 64 * c))
    let s := if lost.isEmpty then s else s.setHst h ((s.hst h).setPage w.wid p.page (fun q => q.rework lost))
    if s.pageBusy p.page w.before then s
    else s.feedPage h w.wid p.page ((p.todo ++ lost).filter (fun c => !drop.contains (c / 32)))) s
/-- Read on for every staged command, oldest first, and submit those that are complete. -/
def State.feedStage (s : State) (h : Nat) : State :=
  let s := each (s.hst h).stage (fun w s => s.feedWrite h w) s
  s.setHst h ((s.hst h).submit s.clk.age)

/-! ### Write-behind (R314 to R316, R329) -/

/-- Runs of consecutive indices, each at most 64 long. -/
def runsOf : List Nat → List (List Nat)
  | [] => []
  | a :: r => match runsOf r with
    | (b :: l) :: rest => if a + 1 = b ∧ (b :: l).length < 64 then (a :: b :: l) :: rest else [a] :: (b :: l) :: rest
    | [] :: rest => [a] :: rest
    | [] => [[a]]
/-- Chunks with store-dirty pages that have a place in the image, by (oldest epoch, region). -/
def State.dirtyChunks (s : State) (h : Nat) : List Nat :=
  let x := s.hst h
  ((x.dirty.keys.map (· / 512)).dedup).filter (fun v => (x.home s.nh v).isSome)
/-- Pages that a Write command carries which has not completed. -/
def Hst.outPages (x : Hst) : List Nat :=
  x.stage.flatMap (fun w => w.pages.map HPage.page) ++ (x.cmds.filter (fun c => c.kind = 0)).flatMap (fun c => c.pages.map Prod.fst)
/-- A dirty page whose last copy has reached its drive: the next copy follows that one (log entry 139). -/
def Hst.ready (x : Hst) (p : Nat) : Bool := (x.dirty.find? p).isSome && !(x.outPages.contains p)
/-- Chunk v goes before chunk u: its data is not exposed by a relocation, or has the older dirty epoch, or the lower region (R314). -/
def Hst.before (x : Hst) (e : Nat → Nat) (v u : Nat) : Bool :=
  let exp := fun w : Nat => (x.exposed.find? w).isSome
  if exp v ≠ exp u then exp u else decide (e v < e u) || (e v = e u && decide (v < u))
/-- The first of a list of chunks by a dirty epoch. -/
def Hst.firstBy (x : Hst) (e : Nat → Nat) (l : List Nat) : Option Nat :=
  l.foldl (fun (b : Option Nat) v =>
    match b with
    | none => some v
    | some u => if x.before e v u then some v else b) none
/-- Relocated chunks with pages still to be handed to their drive; one that is not DONE is restored first (R338). -/
def State.relocChunks (s : State) (h : Nat) : List Nat :=
  let x := s.hst h
  (x.exposed.rows.filter (fun kv => decide (kv.2 < 256) && (x.home s.nh kv.1).isSome && (x.chunks.find? kv.1).isNone)).map Prod.fst
/-- The chunk that write-behind takes next: relocation work after all store-dirty pages (R314, R338). -/
def State.nextChunk (s : State) (h : Nat) : Option (Nat × Bool) :=
  let x := s.hst h
  match x.firstBy (fun w => x.oldest.get x.epoch w) ((s.dirtyChunks h).filter (fun v => x.dirty.keys.any (fun p => decide (p / 512 = v) && x.ready p))) with
  | some v => some (v, false)
  | none => (x.firstBy (fun w => x.relocEp.get x.epoch w) ((s.relocChunks h).filter (fun v => !(x.outPages.any (fun p => decide (p / 512 = v)))))).map
      (fun v => (v, true))
/-- Snapshot the pages of one Write command into staging: they leave the dirty map and count as in flight until their write completes. -/
def State.stageWrite (s : State) (h v port lba : Nat) (pages : List Nat) (reloc : Bool) : State :=
  let x := s.hst h
  let w : HWrite := { wid := x.nextWid, port := port, v := v, reloc := reloc, lba := lba, at_ := x.epoch, epoch := x.oldest.get x.epoch v, before := s.hop.nextId, pages := pages.map s.snapPage }
  let x := { x with dirty := pages.foldl (fun (t : Tbl Bool) p => t.del p) x.dirty
                    inflight := if reloc then x.inflight else x.inflight ++ pages
                    stage := x.stage ++ [w], nextWid := x.nextWid + 1 }
  let gone := !(x.dirty.keys.any (fun p => p / 512 = v))
  s.setHst h { x with oldest := if gone then x.oldest.del v else x.oldest }
/-- Every accepted store of the half has reached its race, and no fill of the half is open (R329 steps 1 to 3). -/
def State.gathered (s : State) (h : Nat) : Bool :=
  !(s.pond.any (fun e => e.half = h)) && !(s.flume.any (fun e => e.half = h))
    && !(s.hop.reqs.vals.any (fun q => q.target = h && Opc.store q.opc && q.open_))
    && (halfRaces h).all (fun r => (s.race r).fau.isEmpty && (s.race r).fill.isNone) && (s.hst h).held.isEmpty
/-- Hoist writes behind: in service, or in a drain once the buffers are empty. -/
def State.writesBehind (s : State) (h : Nat) : Bool :=
  let x := s.hst h
  match x.st with
  | .serve | .steady | .alert | .flush => x.headerOpen && !s.brk.safe
  | .drain => s.gathered h
  | _ => false
/-- Snapshot the next chunk's dirty pages into Write commands of runs of pages. -/
def State.writeBehind (s : State) (h v : Nat) (reloc : Bool) : State :=
  let x := s.hst h
  match x.home s.nh v with
  | none => s
  | some (i, slot) =>
    let all := s.chunkPages h v
    if reloc then
      let k := x.exposed.get 0 v
      (s.setHst h { x with exposed := x.exposed.ins v (k + 64) }).stageWrite h v (4 * h + i) (slotLba slot k) ((all.drop k).take 64) true
    else
      let idx := (List.range all.length).filter (fun j => x.ready (all.getD j 0))
      let room := 64 - x.writesOf (4 * h + i)
      each ((runsOf idx).take room) (fun run s => s.stageWrite h v (4 * h + i) (slotLba slot (run.headD 0)) (run.map (fun j => all.getD j 0)) false) s
/-- The chunk's drive serves and its queue and the staging SRAM have room for its pages. -/
def State.mayStage (s : State) (h v : Nat) : Bool :=
  let x := s.hst h
  match x.home s.nh v with
  | some (i, _) => x.live i && decide (x.writesOf (4 * h + i) < 64) && decide (x.stageRoom ≥ 256)
  | none => false
/-- Write-behind reads on for what it has staged; with nothing left to read it snapshots the next chunk (R314, R315). -/
def execWriteBehindIssue (half : Nat) (s : State) : Host.Outcome State Fault Refusal :=
  .next (when (decide (half < 2) && hoistFitted s.ld && s.writesBehind half)
    (fun s =>
      let s := s.feedStage half
      let idle := (s.hst half).stage.all (fun w => w.pages.all (fun p => p.todo.isEmpty))
      match s.nextChunk half with
      | some (v, reloc) => if idle && s.mayStage half v then (s.writeBehind half v reloc).feedStage half else s
      | none => s) s)

/-! ### Drives (R331, R335, R337, R338) -/

/-- Chunks that drive d holds, its own and those relocated onto it, ascending. -/
def Hst.chunksOn (x : Hst) (nh regions d : Nat) : List Nat :=
  (List.range regions).filter (fun v =>
    match x.placed.find? v with
    | some w => w / 2 ^ 40 = d
    | none => v % nh = d && !(v ∈ x.unplaced))
/-- No live drive holds the chunks' data. -/
def Hst.strip (x : Hst) (l : List Nat) : Hst := { x with bare := l.foldl (fun (t : Tbl Bool) v => t.ins v true) x.bare }
/-- Relocate the chunks of drive d, the m-th lost of the half (R338): until it has been copied, their data is exposed. -/
def Hst.relocate (x : Hst) (nh regions d : Nat) : Hst :=
  let chunks := x.chunksOn nh regions d
  let x := x.strip chunks
  let surv := (List.range nh).filter (fun i => i ≠ d ∧ !(x.drive i).lost ∧ !(i ∈ x.lostOrder))
  let sm := surv.length
  let y := (chunks.zipIdx).foldl (fun (y : Hst) e =>
    let v := e.1
    let q := e.2
    if sm = 0 then { y with placed := y.placed.del v, unplaced := y.unplaced ++ [v], exposed := y.exposed.del v }
    else
      let i := surv.getD (q % sm) 0
      let slot := x.relocBase + q / sm
      let top := slotLba slot 256
      if top ≤ (x.drive i).lbas ∧ top ≤ 2 ^ 30 then
        { y with placed := y.placed.ins v (i * 2 ^ 40 + slot), exposed := y.exposed.ins v 0, relocEp := y.relocEp.ins v y.epoch }
      else { y with placed := y.placed.del v, unplaced := y.unplaced ++ [v], exposed := y.exposed.del v }) x
  { y with relocBase := x.relocBase + (if sm = 0 then 0 else ceilDiv chunks.length sm) }
/-- The pages of the commands of a drive that will not complete: their bits are set again, a relocation starts over. -/
def Hst.unissue (x : Hst) (c : DrvCmd) : Hst :=
  if c.kind > 2 then x
  else if c.kind ≠ 0 then { x with badReads := if c.v ∈ x.badReads then x.badReads else x.badReads ++ [c.v] }
  else if c.reloc then { x with exposed := if (x.exposed.find? c.v).isSome then x.exposed.ins c.v 0 else x.exposed }
  else
    let ps := c.pages.map Prod.fst
    { x with inflight := ps.foldl List.erase x.inflight
             dirty := ps.foldl (fun (t : Tbl Bool) p => t.ins p true) x.dirty
             oldest := x.oldest.ins c.v (min c.epoch (x.oldest.get c.epoch c.v)) }
/-- Pages of a staged command that will not be written: as for a Write command that fails (R311). -/
def Hst.unstage (x : Hst) (w : HWrite) : Hst :=
  { x.unissue { cid := 0, port := w.port, kind := 0, v := w.v, pages := w.pages.map (x.pageOut w.at_), reloc := w.reloc, epoch := w.epoch } with
    stage := x.stage.filter (fun o => o.wid ≠ w.wid) }
/-- A drive is lost: HST_DRIVE and FAILDRV; in a drain its remaining pages are abandoned, otherwise its chunks are relocated. -/
def State.loseDrive (s : State) (port : Nat) : State :=
  let h := port / 4
  let i := port % 4
  let x := s.hst h
  if (x.drive i).lost then s
  else
    let mine := x.cmds.filter (fun c => c.port = port)
    let x := { x with cmds := x.cmds.filter (fun c => c.port ≠ port) }
    let x := mine.foldl (fun (y : Hst) c => y.unissue c) x
    let x := (x.stage.filter (fun w => w.port = port)).foldl (fun (y : Hst) w => y.unstage w) x
    let x := if x.lostOrder.isEmpty then { x with relocBase := ceilDiv s.regions (max 1 s.nh) } else x
    let y := if x.st = .drain then
        { x.strip (x.chunksOn s.nh s.regions i) with
          dirty := x.dirty.keep (fun p _ => match x.home s.nh (p / 512) with | some (j, _) => j ≠ i | none => false) }
      else x.relocate s.nh s.regions i
    let y := y.setDrive i { y.drive i with lost := true, up := false }
    let y := { y with lostOrder := y.lostOrder ++ [i] }
    let y := { y with oldest := y.oldest.keep (fun v _ => y.dirty.keys.any (fun p => p / 512 = v)) }
    ((s.setHst h { y with hdrDue := true }).newCeil h).raise Src.HST_DRIVE port 0

/-- The times since when each drive has held 32 or more Write, or restore Read, commands (R318). -/
def Hst.depths (x : Hst) (age : Nat) : Hst :=
  let since := fun (n : Nat) (t : Option Nat) => if n < 32 then none else some (t.getD age)
  { x with drives := ⟨x.drives.rows.map (fun kv => (kv.1, { kv.2 with
      wrBusy := since (countP (fun c : DrvCmd => c.port % 4 = kv.1 && c.kind = 0 && !c.sub) x.cmds) kv.2.wrBusy
      rdBusy := since (countP (fun c : DrvCmd => c.port % 4 = kv.1 && c.kind = 1 && !c.sub) x.cmds) kv.2.rdBusy }))⟩ }
/-- The write command's pages are in the image. -/
def State.writeDone (s : State) (h : Nat) (c : DrvCmd) : State :=
  let x := s.hst h
  let i := c.port % 4
  let d := x.drive i
  let ps := c.pages.map Prod.fst
  let x := x.setDrive i { d with pages := c.pages.zipIdx.foldl (fun (t : Tbl PageRec) e => t.ins (c.lba + e.2) e.1.2) d.pages }
  let x : Hst := if c.reloc then x else { x with inflight := ps.foldl List.erase x.inflight }
  let x : Hst := if c.reloc && decide (x.exposed.get 0 c.v ≥ 256) && !(x.cmds.any (fun o => o.reloc && o.v = c.v)) && !(x.stage.any (fun o => o.reloc && o.v = c.v)) then
      { x with exposed := x.exposed.del c.v, relocEp := x.relocEp.del c.v, bare := x.bare.del c.v } else x
  (s.setHst h x).tallyStore h 4 ps.length
/-- A command of a drive by its number, once it has been submitted. -/
def Hst.cmdAt (x : Hst) (port cid : Nat) : Option DrvCmd := x.cmds.find? (fun c => c.port = port && c.cid = cid && !c.sub)
/-- A drive command completes, or fails with an error status. -/
def execDriveCommandComplete (port cid : Nat) (good : Bool) (s : State) : Host.Outcome State Fault Refusal :=
  let h := port / 4
  .next (match (s.hst h).cmdAt port cid with
    | none => s
    | some c => when (decide (port < 8) && (s.hst h).live (port % 4))
        (fun s =>
          let x := s.hst h
          let s := s.setHst h ({ x with cmds := x.cmds.filter (fun o => !(o.port = port ∧ o.cid = cid)) }.depths s.clk.age)
          let s := if !good then s.setHst h ((s.hst h).unissue c) else if c.kind = 0 then s.writeDone h c else s
          s.ceilCause h) s)

/-- The timeout of a command in Turns (R337): IO_TMO, for a Flush and for Get Log Page outside a drain 1 s. -/
def State.timeoutOf (s : State) (c : DrvCmd) : Nat :=
  msTurns (if c.kind > 2 && (s.hst (c.port / 4)).st ≠ .drain then 1000 else s.fheld Fld.HST_CFG_IO_TMO)
/-- A command exceeds its timeout: one controller reset and reissue, then the drive is lost; in a drain it is lost at once. -/
def execDriveCommandTimeout (port cid : Nat) (s : State) : Host.Outcome State Fault Refusal :=
  let h := port / 4
  .next (match (s.hst h).cmdAt port cid with
    | none => s
    | some c => when (decide (port < 8) && decide (s.clk.age ≥ c.since + s.timeoutOf c))
        (fun s =>
          let x := s.hst h
          let d := x.drive (port % 4)
          let again := match d.ctrlReset with | some t => decide (s.clk.age < t + msTurns 1000) | none => false
          if x.st = .drain || again then s.loseDrive port
          else
            let x := x.setDrive (port % 4) { d with ctrlReset := some s.clk.age }
            s.setHst h { x with cmds := mapIf (fun o => o.port = port && !o.sub) (fun o => { o with since := s.clk.age }) x.cmds }) s)

/-- A rate window of a drive ends (R318): it counts for writes, and for reads, where 32 or more commands were queued throughout; the lowest
of the last 16 counts, at least one unit. -/
def execDriveRateWindow (port wrRate rdRate : Nat) (s : State) : Host.Outcome State Fault Refusal :=
  let h := port / 4
  .next (when (decide (port < 8) && hoistFitted s.ld && (s.hst h).live (port % 4) && decide (s.clk.turn % 65536 = 0)
      && ((s.hst h).drive (port % 4)).winAt ≠ some s.clk.age)
    (fun s =>
      let x := s.hst h
      let d := x.drive (port % 4)
      let full := fun t : Option Nat => match t with | some t => decide (s.clk.age ≥ t + 65536) | none => false
      let w := if full d.wrBusy then (max 1 (min 255 wrRate) :: d.wr16).take 16 else d.wr16
      let r := if full d.rdBusy then (max 1 (min 255 rdRate) :: d.rd16).take 16 else d.rd16
      let d := { d with wr16 := w, rd16 := r, wr := w.min?.getD d.wr, rd := r.min?.getD d.rd, winAt := some s.clk.age }
      (s.setHst h (x.setDrive (port % 4) d)).newCeil h) s)

/-! ### Headroom, epochs, resync (R312, R313, R320) -/

/-- Headroom of a half is zero. -/
def Hst.noHeadroom (x : Hst) : Bool := decide (x.ceil ≤ fillRes + x.dirtyTotal)
/-- Headroom has been zero for 65,536 Turns. -/
def execHeadroomPress (half : Nat) (s : State) : Host.Outcome State Fault Refusal :=
  let x := s.hst half
  .next (when (decide (half < 2) && hoistFitted s.ld && !x.pressRaised && x.noHeadroom
      && (match x.zeroSince with | some t => decide (s.clk.age ≥ t + 65536) | none => false))
    (fun s => (s.setHst half { x with pressRaised := true }).raise Src.HST_PRESS half 0) s)

/-- Hoist has been released and its domain is on: it counts epochs. -/
def State.hoistOn (s : State) (h : Nat) : Bool := decide (h < 2) && hoistFitted s.ld && (s.hst h).st ≠ .off && s.domainOn (64 + h)
/-- E advances at a multiple of 65,536 Turns, unless a chunk still holds data of epoch E − 6; then the advance waits. -/
def execEpochAdvance (half : Nat) (s : State) : Host.Outcome State Fault Refusal :=
  let x := s.hst half
  .next (when (s.hoistOn half && decide (x.advAt ≠ some s.clk.age)
      && (decide (s.clk.turn % 65536 = 0) || x.advanceHeld))
    (fun s =>
      if x.openEpochs.any (fun e => decide (e + 6 ≤ x.epoch)) then s.setHst half { x with advanceHeld := true }
      else
        let s := s.setHst half { x with epoch := (x.epoch + 1) % 2 ^ 32, advanceHeld := false, advAt := some s.clk.age, returned := [] }
        if x.headerOpen then s.stampHdrs half else s) s)

/-- Tags of the epochs from C to E. -/
def tagWindow (c e : Nat) : List Nat := (List.range (e - c + 1)).map (fun i => (c + i) % 8)
/-- C: the commit epoch of the last header written. -/
def State.lastCommit (s : State) (h : Nat) : Nat :=
  let x := s.hst h
  (((x.liveDrives s.nh).filterMap (fun i => (x.drive i).hdr)).head?.map (fun d => d.commit)).getD x.commit
/-- The page halves of a written-map block. -/
def State.blockHalves (s : State) (blk : Nat) : List Nat :=
  (s.blockPages (blk % 32) (blk / 32)).flatMap (fun p => [2 * p, 2 * p + 1].filter (fun q => s.raceAt (q / 2 * 4096 + q % 2 * 2048) = blk % 32))
/-- What the scan reads: the page halves of every WRITTEN block of the half (R313). -/
def State.scanHalves (s : State) (h : Nat) : List Nat :=
  let blocks := if s.fheld Fld.QRN_WMAP_CFG_EN 0 h = 1 then s.dram.wmap.keys.filter (fun b => raceHalf (b % 32) = h)
    else (List.range s.regions).flatMap (fun v => (halfRaces h).map (fun r => 32 * v + r))
  blocks.flatMap s.blockHalves
/-- The dirty map fails its parity check: HST_MAP and a resync; the dirty total stands at the ceiling. -/
def execDirtyMapParityError (half : Nat) (s : State) : Host.Outcome State Fault Refusal :=
  let x := s.hst half
  .next (when (s.hoistOn half && !x.resync)
    (fun s => (s.setHst half { x with resync := true, scan := s.scanHalves half, scanAt := 0, scanning := [], scanTags := tagWindow (s.lastCommit half) x.epoch }).raise
      Src.HST_MAP half 0) s)

/-- Read on for the scan as class-3 reads: the cells of the next page half; a cell in the write queue shows its tag there. -/
def State.feedScan (s : State) (h hp : Nat) : List Nat → State
  | [] => s.setHst h { s.hst h with scan := (s.hst h).scan.tail, scanAt := 0 }
  | i :: rest =>
    let a := hp / 2 * 4096 + hp % 2 * 2048 + 64 * i
    let out := s.hoistRead 0 a
    let next := fun s : State => s.setHst h { s.hst h with scanAt := i + 1 }
    if !s.halfLive a then (next s).feedScan h hp rest
    else match out.2 with
      | .entry w => ((next out.1).scanGot h a (some w.epoch)).feedScan h hp rest
      | .queued => let t := next out.1; (t.setHst h { t.hst h with scanning := (t.hst h).scanning ++ [a] }).feedScan h hp rest
      | .waits => out.1
/-- Cells of the scan whose read was dropped are read again. -/
def State.rescan (s : State) (h : Nat) (l : List Nat) : State :=
  each l (fun a s =>
    let out := s.hoistRead 0 a
    match out.2 with
    | .entry w => out.1.scanGot h a (some w.epoch)
    | _ => out.1) s
/-- The scan reads on; read out, it ends: the cause of HST_MAP ends. Reads of a race that has been isolated meanwhile do not return. -/
def execResyncComplete (half : Nat) (s : State) : Host.Outcome State Fault Refusal :=
  let x := s.hst half
  .next (when (decide (half < 2) && x.resync && (!s.brk.safe || s.gov.drain))
    (fun s => match x.scan with
      | hp :: _ => s.feedScan half hp ((List.range 32).drop x.scanAt)
      | [] =>
        let left := x.scanning.filter (fun a => s.halfLive a)
        if left.isEmpty then ((s.setHst half { x with resync := false, scanning := [] }).causeOff Src.HST_MAP half).ceilCause half
        else s.rescan half (left.filter (fun a => !s.hoistPend 0 a))) s)

/-! ### Attach (R332, R333) -/

/-- Headers of the drives that are up. -/
def State.hdrsOf (s : State) (h : Nat) : List (Nat × Hdr) :=
  (((s.hst h).liveDrives s.nh).filterMap (fun i => ((s.hst h).drive i).hdr.map (fun d => (i, d))))
/-- Every fitted drive of the half is up, unfit or lost. -/
def State.drivesKnown (s : State) (h : Nat) : Bool :=
  (List.range s.nh).all (fun i => ((s.hst h).drive i).up || ((s.hst h).drive i).lost || ((s.hst h).drive i).unfit)
/-- The header that stands for the image: the highest SEQ. -/
def topHdr : List (Nat × Hdr) → Option Hdr
  | [] => none
  | (_, d) :: r => match topHdr r with
    | none => some d
    | some e => if d.seq ≥ e.seq then some d else some e
/-- A drive of the half fails R321 that a list of lost drives does not name. -/
def State.unfitNeeded (s : State) (h : Nat) (failed : List Nat) : Bool :=
  (List.range s.nh).any (fun i => ((s.hst h).drive i).unfit && !(i ∈ failed))
/-- REASON of a refusal; 0 where the image is accepted (R326, R333). -/
def State.reasonOf (s : State) (h : Nat) : Nat :=
  let hs := s.hdrsOf h
  match topHdr hs with
  | none => if s.unfitNeeded h [] then 4 else 1
  | some d =>
    if hs.any (fun e => e.2.unit ≠ s.unitTag) || (d.enc && s.ld.enc && !Config.unwrapOk s.ld.lc d.wkey) then 2
    else if hs.any (fun e => e.2.regions ≠ s.regions ∨ e.2.half ≠ h ∨ e.2.nh ≠ s.nh) then 3
    else if s.unfitNeeded h d.failed then 4
    else if d.enc && !s.ld.enc then 5
    else 0
/-- IMAGE: 1 empty, 2 clean, 3 unclean. -/
def imageOf (hs : List (Nat × Hdr)) : Nat :=
  match topHdr hs with
  | none => 0
  | some d =>
    if hs.any (fun e => e.2.seq ≠ d.seq ∨ e.2.state ≠ d.state) then 3
    else if d.state = 1 then 1 else if d.state = 3 then 2 else 3
/-- Take the image's numbers from its header: epoch, generation, the drives it names lost with their relocations. What of a relocation the
survivors are known not to hold is exposed again. A race that is isolated now is void to this epoch; one that was isolated in it, and serves
now, has its stores wait for the next (R339). -/
def State.adopt (s : State) (h : Nat) (d : Hdr) (image : Nat) : State :=
  let x := s.hst h
  let x := { x with epoch := max 1 d.epoch, gen := d.gen, seq := d.seq, void := (halfRaces h).foldl (fun (t : Tbl Nat) r => if s.isolated r then t.ins r (max 1 d.epoch) else t) d.void, wkey := d.wkey, encOn := d.enc, image := image
                    relocBase := ceilDiv s.regions (max 1 s.nh), placed := {}, unplaced := [], exposed := {}, relocEp := {}, lostOrder := [] }
  let lose := fun (y : Hst) (i : Nat) =>
    let y := y.relocate s.nh s.regions i
    { y.setDrive i { y.drive i with lost := true, up := false } with lostOrder := y.lostOrder ++ [i] }
  let y := d.failed.foldl lose x
  let open_ := (y.placed.keys.filter (fun v => (x.bare.find? v).isSome))
  let y := { y with returned := (x.returned ++ (halfRaces h).filter (fun r => !s.isolated r && decide (d.void.get 0 r ≥ max 1 d.epoch))).dedup
                    bare := x.bare, exposed := open_.foldl (fun (t : Tbl Nat) v => t.ins v 0) {}
                    relocEp := open_.foldl (fun (t : Tbl Nat) v => t.ins v y.epoch) {} }
  let s := s.setHst h (((s.hst h).lostOrder.filter (fun i => !(i ∈ d.failed))).foldl lose y)
  each (d.failed.filter (fun i => decide (i < s.nh) && !(x.drive i).lost)) (fun i s => s.raise Src.HST_DRIVE (4 * h + i) 0) s
/-- The image is judged once every drive is known; a refusal makes Hoist FAILED. -/
def State.judgeImage (s : State) (h : Nat) : State :=
  let x := s.hst h
  if x.judged || !s.drivesKnown h then s
  else if x.keptImage then s.setHst h { x with judged := true }
  else
    let hs := s.hdrsOf h
    let reason := s.reasonOf h
    let s := s.setHst h { x with judged := true }
    if reason ≠ 0 then
      (s.setHst h { s.hst h with st := .failed, reason := reason }).raise Src.HST_IMAGE h 0
    else
      match topHdr hs with
      | none => s
      | some d =>
        let image := imageOf hs
        let s := (s.adopt h d image).newCeil h
        if image = 3 then s.raise Src.HST_IMAGE h 0 else s
/-- The drain signal in ATTACH or LOAD (R332): SEALED at once, or DRAIN where the kept image's headers are OPEN. -/
def State.attachDrain (s : State) (h : Nat) : State :=
  let x := s.hst h
  if s.gov.drain && x.judged && (x.st = .attach || x.st = .load) then
    s.setHst h { x with st := if x.keptImage || x.headerOpen then .drain else .sealed }
  else s

/-- A drive shows itself: header copies, block map, heat map and capacity. Its pages are those this model wrote where its header is the
one it wrote last. A drive that fails R321, or has no room for its own chunks, is not attached. -/
def Drive.shown (d : Drive) (need : Nat) (i : DriveId) : Drive :=
  if i.meets && decide (i.lbas ≥ need) then
    let e : Drive := { d with up := true, unfit := false, lbas := i.lbas, hdrA := hdrRead i.copyA, hdrB := hdrRead i.copyB, bmap := i.bmap, heat := i.heat
                              wr16 := [], rd16 := [], ctrlReset := none }
    let same := d.hdr = e.hdr
    { e with pages := if same then d.pages else {}, old := d.old || !same
             wr := (e.hdr.map (fun h => h.wrate)).getD 1, rd := (e.hdr.map (fun h => h.rrate)).getD 0 }
  else { d with up := false, unfit := true, lbas := i.lbas, hdrA := none, hdrB := none, bmap := [], heat := [], pages := {}, old := true }
/-- The half's Hoist reads drive i. -/
def Hst.read (x : Hst) (need : Nat) (i : DriveId) : Hst :=
  let d := (x.drive (i.port % 4)).shown need i
  { x.setDrive (i.port % 4) d with bare := if d.hdr = (x.drive (i.port % 4)).hdr then x.bare else {} }
/-- The heat map of the image (R406): level zero where HEAT_VALID is 0. -/
def State.loadHeat (s : State) (h : Nat) : State :=
  let x := s.hst h
  let heat := if (s.hdrsOf h).any (fun e => e.2.heatValid) then
      match (x.liveDrives s.nh).head? with
      | some i => (x.drive i).heat.foldl (fun (t : Tbl Nat) e => t.put 0 e.1 (min 255 e.2)) ({} : Tbl Nat)
      | none => {}
    else {}
  (s.setTly h { s.tly h with heat := heat }).setHst h { x with heatDue := false }
/-- After a wake every drive is up or lost: the heat map is loaded, the header reads OPEN (R328). -/
def State.drivesUp (s : State) (h : Nat) : State :=
  let s := if (s.hst h).heatDue then s.loadHeat h else s
  (s.openHdrs h).newCeil h
/-- Hoist attaches the drives that are ready: in ATTACH they are read; after a wake they are enabled again and the header reads
OPEN once every drive is known (R328). -/
def State.attach (s : State) (h : Nat) (ready : List DriveId) : State :=
  let x := s.hst h
  let mine := ready.filter (fun i => i.port / 4 = h ∧ portFitted s.ld i.port ∧ !(x.drive (i.port % 4)).lost ∧ !(x.drive (i.port % 4)).up ∧ !(x.drive (i.port % 4)).unfit)
  if x.st = .attach && !x.keptImage then
    let s := s.setHst h (mine.foldl (fun (y : Hst) i => y.read s.ownLbas i) x)
    (s.judgeImage h).attachDrain h
  else
    let s := s.setHst h (mine.foldl (fun (y : Hst) i => y.setDrive (i.port % 4) { y.drive (i.port % 4) with up := true }) x)
    if s.drivesKnown h then
      if x.st = .attach then (s.judgeImage h).attachDrain h
      else s.drivesUp h
    else s
def execHoistAttach (half : Nat) (ready : List DriveId) (s : State) : Host.Outcome State Fault Refusal :=
  let x := s.hst half
  .next (when (decide (half < 2) && hoistFitted s.ld && s.domainOn (64 + half) && s.gov.ps = .run && !s.gov.pads
      && (x.st = .attach || ((x.st = .serve || x.st = .steady) && !x.headerOpen)))
    (fun s => s.attach half ready) s)
/-- A drive not ready within 1 s is lost (R333). -/
def execDriveAttachTimeout (port : Nat) (s : State) : Host.Outcome State Fault Refusal :=
  let h := port / 4
  let x := s.hst h
  .next (when (decide (port < 8) && portFitted s.ld port && !(x.drive (port % 4)).up && !(x.drive (port % 4)).lost && !(x.drive (port % 4)).unfit
      && s.domainOn (64 + h) && (x.st = .attach || ((x.st = .serve || x.st = .steady) && !x.headerOpen))
      && decide (s.clk.age ≥ x.attachAt + msTurns 1000))
    (fun s =>
      let s := s.loseDrive port
      if s.drivesKnown h then
        if (s.hst h).st = .attach then (s.judgeImage h).attachDrain h else s.drivesUp h
      else s) s)

/-! ### Restore (R334 to R336) -/

/-- The heat level of a chunk as loaded. -/
def State.heatOf (s : State) (h v : Nat) : Nat := (s.tly h).heat.get 0 v
/-- PENDING chunks in the order of R334. -/
def State.restoreOrder (s : State) (h : Nat) : List Nat :=
  let p := ((s.hst h).chunks.rows.filter (fun kv => kv.2 = .pending)).map Prod.fst
  ((List.range 256).reverse).flatMap (fun l => p.filter (fun v => s.heatOf h v = l))
/-- Chunks of HOT_MAX/2. -/
def State.hotCount (s : State) : Nat := s.fheld Fld.HST_CFG_HOT_MAX * 512
/-- Issue the four Read commands of a chunk and take it to LOADING. -/
def State.issueReads (s : State) (h v kind : Nat) : State :=
  let x := s.hst h
  let x := { x with chunks := x.chunks.ins v .loading }
  s.setHst h (match x.home s.nh v with
    | none => x
    | some (i, slot) =>
      { x with cmds := x.cmds ++ (List.range 4).map (fun j =>
                 { cid := x.nextCid + j, port := 4 * h + i, kind := kind, v := v, lba := slotLba slot (64 * j), since := s.clk.age, sub := true })
               nextCid := x.nextCid + 4 })
/-- Staging and a queue pair of the chunk's drive have room for its reads (R337): 1 MiB, four commands of 64. -/
def State.mayRead (s : State) (h v kind : Nat) : Bool :=
  let x := s.hst h
  match x.home s.nh v with
  | none => true
  | some (i, _) => decide (x.stageRoom ≥ 256) && decide (countP (fun c : DrvCmd => c.port = 4 * h + i && c.kind = kind) x.cmds + 4 ≤ 64)
/-- The background restore takes chunks in order while staging has room (R337): the hot set in LOAD, the rest in SERVE. -/
def State.restoreMore (s : State) (h : Nat) : State :=
  let x := s.hst h
  let may := (x.st = .load || (x.st = .serve && x.headerOpen)) && !s.gov.alert && !s.gov.drain && !s.brk.safe
  if may then
    let order := (s.restoreOrder h).filter (fun v => x.st = .serve || v ∈ x.hot)
    each (order.take (x.stageRoom / 256)) (fun v s => if s.mayRead h v 1 then s.issueReads h v 1 else s) s
  else s
/-- The page record a restore reads: what this model wrote, or what the drive holds from before. A relocated chunk that has not been copied
has none where it now lies. -/
def State.pageRec (s : State) (h v page : Nat) : Option PageRec :=
  let x := s.hst h
  match x.home s.nh v with
  | none => none
  | some (i, slot) =>
    let lba := slotLba slot ((s.chunkPages h v).findIdx (· = page))
    match (x.drive i).pages.find? lba with
    | some p => some p
    | none =>
      let word := fun c : Nat => Config.drivePage (4 * h + i) lba c
      let tail := (word 64).toNat
      let bit_ := fun w : Nat =>
        let a := page * 4096 + 2048 * w
        if x.image = 3 then bit tail (96 + w)
        else (x.drive i).bmap.contains ((a / 2 ^ 21) * 16 + (s.raceAt a) % 16)
      if !(x.drive i).old || (x.bare.find? v).isSome then none
      else some { pmask := bits tail 0 64, epoch := bits tail 64 32, w0 := bit_ 0, w1 := bit_ 1, gen := bits tail 112 16
                  cells := (List.range 64).foldl (fun (t : Tbl Cell) c => t.ins c (cwData (word c))) {} }
/-- A page half is valid for restore (R325). -/
def PageRec.valid (p : PageRec) (w gen void : Nat) : Bool :=
  (if w = 0 then p.w0 else p.w1) && p.gen = gen % 65536 && decide (p.epoch > void)
/-- What restore writes into half w of a page (R335): none where it writes nothing; else whether as poison, and the page record. -/
def State.restorePlan (s : State) (h v page w : Nat) (good : Bool) : Option (Bool × Option PageRec) :=
  let x := s.hst h
  let a0 := page * 4096 + 2048 * w
  let r := s.raceAt a0
  if s.isolated r then none
  else
    let p := if good then s.pageRec h v page else none
    if (match p with | some q => q.valid w x.gen (x.void.get 0 r) | none => false) then some (false, p)
    else if s.isWritten a0 && (p.isNone || (x.drive (v % max 1 s.nh)).lost) then some (true, none)
    else none
/-- Write one cell for a restore, if its race's write queue and the budget admit it. -/
def State.putRestore (s : State) (a : Nat) (data : Option Cell) : Option State :=
  let r := s.raceAt a
  let c := s.hoistCls
  if s.raceHeld r || (s.race r).inFau a || s.bgRoom c = 0 || ((s.race r).wqRoom = 0 && ((s.race r).wqAt a).isNone) then none
  else
    let s := (s.modeLatch r).bgUse c 1
    some ((s.setRace r ((s.race r).wqPut a (data.getD 0) data.isNone (s.epochTag (raceHalf r)) c s.now .hoist [])).touch a)
/-- Write cells of a page half into their race's write queue, as full stores of Hoist's class (R46, R288, R335), while the queue and the
budget admit them: the record's data, zeros with POISON for a cell of its PMASK or of a half without a record. Restore writes make no page
dirty (R310). -/
def State.restoreCells (s : State) (h v page w : Nat) (rec_ : Option PageRec) : List Nat → State
  | [] =>
    let x := s.hst h
    s.setHst h { x with jobs := x.jobs.upd { left := [], good := false, demand := false } v (fun j => { j with left := j.left.tail, at_ := 0 }) }
  | i :: rest =>
    let a := page * 4096 + w * 2048 + 64 * i
    let k := a / 64 % 64
    match s.putRestore a (match rec_ with | some q => if bit q.pmask k then none else some (q.cells.get 0 k) | none => none) with
    | none => s
    | some s =>
      let x := s.hst h
      (s.setHst h { x with jobs := x.jobs.upd { left := [], good := false, demand := false } v (fun j => { j with at_ := i + 1 }) }).restoreCells h v page w rec_ rest
/-- Write on for a chunk: the next of its page halves (2 × page + half). -/
def State.restoreHalf (s : State) (h v : Nat) (j : HRestore) (hp : Nat) : State :=
  let page := hp / 2
  let w := hp % 2
  let x := s.hst h
  let set := fun (s : State) (j : HRestore) => s.setHst h { s.hst h with jobs := (s.hst h).jobs.ins v j }
  match s.restorePlan h v page w j.good with
  | none => set s { j with left := j.left.tail, at_ := 0 }
  | some (poison, q) =>
    let s := if x.image = 3 && !poison then
        { s with dram := { s.dram with wmap := s.dram.wmap.ins (s.blockOf (page * 4096 + 2048 * w)) true } } else s
    (set s { j with poison := j.poison || poison }).restoreCells h v page w q ((List.range 32).drop j.at_)
/-- Write again the cells of a chunk whose writes the stall watchdog has retired (R49; log entry 140). -/
def State.redoCells (s : State) (h v : Nat) : List (Nat × Cell × Bool) → State
  | [] => s
  | e :: rest =>
    match s.putRestore e.1 (if e.2.2 then none else some e.2.1) with
    | none => s
    | some s =>
      let x := s.hst h
      (s.setHst h { x with jobs := x.jobs.upd { left := [], good := false, demand := false } v (fun j => { j with redo := rest }) }).redoCells h v rest
/-- Write on for a chunk until its halves are written or one waits. -/
def State.restoreOn (s : State) (h v : Nat) : List Nat → State
  | [] => s
  | hp :: rest =>
    match (s.hst h).jobs.find? v with
    | none => s
    | some j =>
      if j.left.head? ≠ some hp then s
      else (s.restoreHalf h v j hp).restoreOn h v rest
/-- The chunk's data has entered its races: it is DONE. The first time it counts, and a chunk written as poison counts in LOST and raises HST_DRIVE. -/
def State.chunkEnd (s : State) (h v : Nat) (j : HRestore) : State :=
  let x := s.hst h
  let lost := (j.poison || !j.good) && !j.again
  let s := s.setHst h { x with chunks := x.chunks.del v, jobs := x.jobs.del v, held := x.held.filter (· ≠ v), badReads := x.badReads.filter (· ≠ v)
                               demanded := x.demanded.filter (· ≠ v), lostChunks := x.lostChunks + (if lost then 1 else 0) }
  let s := if j.again then s else s.tallyStore h (if j.demand then 6 else 5) 1
  let i := v % max 1 s.nh
  if lost then
    let s := s.raise Src.HST_DRIVE (4 * h + i) 0
    if ((s.hst h).drive i).lost then s else s.causeOff Src.HST_DRIVE (4 * h + i)
  else s
/-- The chunk's commands. -/
def Hst.readsOf (x : Hst) (v : Nat) : List DrvCmd := x.cmds.filter (fun c => c.v = v ∧ (c.kind = 1 ∨ c.kind = 2))
/-- The work of a chunk whose reads have completed. -/
def State.restoreJob (s : State) (h v : Nat) (good : Bool) : HRestore :=
  let x := s.hst h
  (x.jobs.find? v).getD { left := (s.chunkPages h v).flatMap (fun p => [2 * p, 2 * p + 1])
                          good := good && !(v ∈ x.badReads) && (x.home s.nh v).isSome, demand := v ∈ x.demanded }
/-- The reads of a LOADING chunk have all completed: its halves are written, as the races' queues and the budget admit them, and with the
last it is DONE. In a drain only a chunk that holds an accepted store goes on (R329). -/
def execChunkRestoreComplete (half v : Nat) (good : Bool) (s : State) : Host.Outcome State Fault Refusal :=
  let x := s.hst half
  .next (when (decide (half < 2) && hoistFitted s.ld && x.chunks.find? v = some .loading && (x.readsOf v).isEmpty
      && (if s.gov.drain then decide (v ∈ x.held) else !s.brk.safe))
    (fun s =>
      let j := s.restoreJob half v good
      let s := ((s.setHst half { s.hst half with jobs := (s.hst half).jobs.ins v j }).redoCells half v j.redo).restoreOn half v j.left
      match (s.hst half).jobs.find? v with
      | some j => if j.left.isEmpty && j.redo.isEmpty then (s.chunkEnd half v j).restoreMore half else s
      | none => s) s)

/-- An accepted request waits on the chunk (R336). -/
def State.chunkWanted (s : State) (h v : Nat) : Bool :=
  v ∈ (s.hst h).held || s.hop.reqs.vals.any (fun q => Opc.addressed q.opc && q.target = h && q.addr / 2 ^ 21 = v && q.open_)
/-- The chunk's reads go to the demand-fill queue; in a drain only for a chunk that holds an accepted store (R329). -/
def execDemandFillIssue (half v : Nat) (s : State) : Host.Outcome State Fault Refusal :=
  let x := s.hst half
  .next (when (decide (half < 2) && hoistFitted s.ld && x.chunks.find? v = some .pending && x.headerOpen
      && (x.st = .serve || x.st = .alert || (x.st = .drain && v ∈ x.held)) && (!s.brk.safe || s.gov.drain)
      && s.mayRead half v 2 && s.chunkWanted half v)
    (fun s => (s.setHst half { x with demanded := x.demanded ++ [v] }).issueReads half v 2) s)

/-- Chunks of an image (R334): those with a written block in a clean one, every chunk of an unclean one, less the chunks of the
SIDs that stayed in self-refresh since the seal. -/
def State.imageChunks (s : State) (h : Nat) : List Nat :=
  let x := s.hst h
  let all := if x.image = 3 then List.range s.regions
    else (((x.liveDrives s.nh).flatMap (fun i => (x.drive i).bmap)).map (· / 16)).dedup.filter (fun v => decide (v < s.regions))
  if x.image = 1 then [] else if x.image = 3 then all else all.filter (fun v => !bit s.gov.kept (v % s.nsid))
/-- Leave ATTACH: written map from the block maps, heat map, chunks, hot set (R334, R406); after a reset that kept the DRAM every
chunk is DONE (R455). -/
def State.loadStart (s : State) (h : Nat) : State :=
  let x := s.hst h
  if x.keptImage then s.setHst h { x with st := .load, chunks := {}, hot := [], totalChunks := s.regions }
  else
    let bm := if x.image = 2 then ((x.liveDrives s.nh).flatMap (fun i => (x.drive i).bmap)).dedup else []
    let map := bm.foldl (fun (t : Tbl Bool) b => if b / 16 < s.regions then t.ins (32 * (b / 16) + 16 * h + b % 16) true else t) s.dram.wmap
    let s : State := { s.loadHeat h with dram := { s.dram with wmap := map } }
    let x := s.hst h
    let ch := s.imageChunks h
    let s := s.setHst h { x with st := .load, chunks := ch.foldl (fun (t : Tbl Chunk) v => t.ins v .pending) {}, totalChunks := s.regions, lostChunks := 0 }
    let hot := if x.image = 3 then ch else (s.restoreOrder h).take s.hotCount
    (s.setHst h { s.hst h with hot := hot }).restoreMore h
def execHoistLoadStart (half : Nat) (s : State) : Host.Outcome State Fault Refusal :=
  let x := s.hst half
  .next (when (decide (half < 2) && hoistFitted s.ld && x.st = .attach && x.judged && s.fheld Fld.MIL_BOOT_GO = 1 && !s.gov.drain)
    (fun s => s.loadStart half) s)

/-! ### Progress at a Turn boundary (R328, R334, R455, R459) -/

/-- Every live race of a half has a training result (R267). -/
def State.trainedHalf (s : State) (h : Nat) : Bool :=
  (halfRaces h).all (fun r => s.isolated r || s.fheld Fld.SPIN_STAT_RESULT r ≠ 0)
/-- A half becomes serve-ready: HASH_MASK is locked (R136), the first capacitance test is due (R352). -/
def State.setReady (s : State) (h : Nat) : State :=
  let s := s.fset Fld.HOP_AMAP_CFG_LOCK 1
  let s := { s with boot := { s.boot with readyE := s.boot.readyE || h = 0, readyW := s.boot.readyW || h ≠ 0 } }
  { s with gov := { s.gov with testAt := if s.gov.testAt.isNone then some s.clk.age else s.gov.testAt } }
/-- LOAD to SERVE at serve-ready, SERVE to STEADY when every chunk is DONE, the seal phase of FLUSH, HST_PRESS and HST_CEIL. -/
def State.hoistTick (s : State) (h : Nat) : State :=
  let x := s.hst h
  if !hoistFitted s.ld then
    let ready := s.fheld Fld.MIL_BOOT_GO = 1 && s.trainedHalf h && s.boot.rest.isNone && (h = 0 || s.boot.westUp) && !s.serveReady h && !s.gov.mfSample
    if ready then s.setReady h else s
  else
    let s := if x.st = .load && x.hot.all (fun v => (x.chunks.find? v).isNone) && !x.headerOpen && !s.gov.drain then s.openHdrs h else s
    let x := s.hst h
    let s := if x.st = .load && x.headerOpen && x.hot.all (fun v => (x.chunks.find? v).isNone) && s.trainedHalf h && !s.gov.mfSample && !s.gov.drain then
        (s.setHst h { x with st := .serve }).setReady h else s
    let x := s.hst h
    let s := if x.st = .serve && x.chunks.rows.isEmpty && x.headerOpen then s.setHst h { x with st := .steady, serveComplete := true } else s
    let x := s.hst h
    let zero := if x.noHeadroom then (if x.zeroSince.isNone then some s.clk.age else x.zeroSince) else none
    let x : Hst := { x with sealing := decide (x.st = HState.flush) && (x.sealing || x.dirtyTotal = 0), zeroSince := zero }
    let s := s.setHst h (x.depths s.clk.age)
    let s := if x.hdrDue && x.headerOpen then s.stampHdrs h else s
    let s := if x.pressRaised && !x.noHeadroom then (s.setHst h { s.hst h with pressRaised := false }).causeOff Src.HST_PRESS h else s
    (s.attachDrain h).ceilCause h |>.restoreMore h

/-! ### Seal (R329) -/

/-- Nothing is left to copy. -/
def State.copied (s : State) (h : Nat) : Bool :=
  let x := s.hst h
  x.cmds.all (fun c => c.kind ≠ 0) && x.stage.isEmpty && x.inflight.isEmpty && (s.dirtyChunks h).isEmpty && (s.relocChunks h).isEmpty && s.gathered h && x.granted.isEmpty && !x.resync
/-- Block map of a half: bit numbers v × 16 + race. -/
def State.bmapOf (s : State) (h : Nat) : List Nat :=
  (s.dram.wmap.keys.filter (fun b => raceHalf (b % 32) = h)).map (fun b => (b / 32) * 16 + b % 16)
/-- Write the maps and the SEALED header, each with a Flush, which completes the earlier ones; Hoist reports its seal. -/
def State.seal (s : State) (h : Nat) : State :=
  let s := if (s.hst h).st = .flush then s.heatUpdate h else s
  let s := s.writeHdrs h 3
  let x := s.hst h
  let bm := s.bmapOf h
  let x := (x.liveDrives s.nh).foldl (fun (y : Hst) i => y.setDrive i { y.drive i with bmap := bm, heat := (s.tly h).heat.rows }) x
  s.setHst h { x with st := .sealed, headerOpen := false, sealing := false, keptImage := false, image := 2, dirty := {}, oldest := {}
                      cmds := x.cmds.filter (fun c => c.kind ≠ 3) }
def execHoistSeal (half : Nat) (s : State) : Host.Outcome State Fault Refusal :=
  let x := s.hst half
  .next (when (decide (half < 2) && hoistFitted s.ld && s.copied half && (x.st = .drain || (x.st = .flush && x.sealing && x.sNow = 0)))
    (fun s => s.seal half) s)

/-! ### Alert, drain and entries as Hoist takes them (R327, R328) -/

def Hst.onAlert (x : Hst) : Hst :=
  if x.st = .serve || x.st = .steady || x.st = .flush then { x with back := x.st, st := .alert, sealing := false } else x
def Hst.offAlert (x : Hst) : Hst := if x.st = .alert then { x with st := x.back } else x
/-- The drain signal: ALERT to DRAIN; ATTACH and LOAD wait for `attachDrain`. -/
def Hst.onDrain (x : Hst) : Hst :=
  if x.st = .alert || x.st = .serve || x.st = .steady || x.st = .flush then { x with st := .drain, sealing := false } else x
/-- An entry to FURL, FULL FURL or OFF asks for a flush. -/
def Hst.onEntry (x : Hst) : Hst := if x.st = .steady then { x with st := .flush } else x
/-- An abandoned entry: the flush ends, and a sealed image is opened again. -/
def State.entryOff (s : State) (h : Nat) : State :=
  let x := s.hst h
  if x.st = .flush then s.setHst h { x with st := .steady, sealing := false }
  else if x.st = .sealed && !s.gov.drain then (s.setHst h { x with st := .steady }).openHdrs h
  else s

/-- A wake from FURL or FULL FURL (R328): chunks with a written block in a SID that was not kept are PENDING; the drives are to be
enabled again before the header reads OPEN. Where no chunk can be restored, the map bits of those blocks are cleared (R146). -/
def State.hoistWake (s : State) (h kept : Nat) (full : Bool) : State :=
  let x := s.hst h
  if !hoistFitted s.ld || x.st ≠ .sealed then
    if full then s
    else { s with dram := { s.dram with wmap := s.dram.wmap.keep (fun b _ => raceHalf (b % 32) ≠ h || bit kept ((b / 32) % s.nsid)) } }
  else
    let lost := if full then [] else
      ((s.dram.wmap.keys.filter (fun b => raceHalf (b % 32) = h && !bit kept ((b / 32) % s.nsid))).map (· / 32)).dedup
    let up := (List.range s.nh).foldl (fun (y : Hst) i => y.setDrive i { y.drive i with up := false }) x
    let up := { up with chunks := lost.foldl (fun (t : Tbl Chunk) v => t.ins v .pending) {}, hot := [], totalChunks := s.regions
                        st := if lost.isEmpty then .steady else .serve, serveComplete := lost.isEmpty, headerOpen := false, attachAt := s.clk.age
                        heatDue := !full }
    { s.setHst h up with out := { s.out with gpPerst := false } }

/-! ### Format (R325, R424) -/

/-- The all-zero metadata pages of the calibration burst: 64 MiB in the first 64 slots (R318). -/
def burstPages : Tbl PageRec :=
  ⟨(List.range 16384).map (fun i => (slotLba 0 i, { pmask := 0, epoch := 0, w0 := false, w1 := false, gen := 0, cells := {} }))⟩
/-- A drive as the format leaves it: LBAs 0 to 1023 zero, the burst's pages, nothing valid elsewhere; the rate that the burst measures is a
free value (log entry 65). -/
def Drive.formatted (d : Drive) (rate : Nat) : Drive :=
  { d with hdrA := none, hdrB := none, bmap := [], heat := [], pages := burstPages, old := false, wr := max 1 (min 255 rate), wr16 := [] }
/-- The 512-bit key that a format draws from the Millmark generator, two of its outputs (R326). -/
def drawKey (n : Nat) : Nat := ((Config.rng n).toNat + 2 ^ 384 * (Config.rng (n + 1)).toNat) % 2 ^ 512
/-- What a half holds after GRAN_FORMAT: a new generation, its key, no page valid, the rates of the calibration burst. Chunks of drives that
are lost lie where R338 puts them. -/
def State.formatted (s : State) (h : Nat) : Hst :=
  let x := s.hst h
  let x := x.cmds.foldl (fun (y : Hst) c => y.unissue c) { x with cmds := x.cmds.filter (fun c => c.kind = 4) }
  let x := x.stage.foldl (fun (y : Hst) w => y.unstage w) x
  let x := { x with gen := x.gen + 1, epoch := 1, void := {}, wkey := if s.ld.enc then Config.wrapKey s.ld.lc (drawKey s.mmk.draws) else 0
                    encOn := s.ld.enc, oldest := x.oldest.mapv (fun _ _ => 1), advanceHeld := false, image := 1, reason := 0
                    placed := {}, unplaced := [], relocBase := ceilDiv s.regions (max 1 s.nh) }
  let x := (List.range s.nh).foldl (fun (y : Hst) i => y.setDrive i ((y.drive i).formatted (Config.freeNat (s.freeCtr + i)))) x
  let x := x.lostOrder.foldl (fun (y : Hst) i => { y.relocate s.nh s.regions i with lostOrder := y.lostOrder ++ [i] }) { x with lostOrder := [] }
  { x with exposed := {}, relocEp := {}, bare := {}, jobs := {}, demanded := [] }
/-- GRAN_FORMAT of a half. From FAILED the headers read FORMATTED and the image is judged again; from STEADY they read OPEN, and everything
WRITTEN is relocation work (R424). -/
def State.formatHalf (s : State) (h : Nat) : State :=
  let failed := (s.hst h).st = .failed
  let s := { s.setHst h (s.formatted h) with freeCtr := s.freeCtr + 4, mmk := { s.mmk with draws := s.mmk.draws + (if s.ld.enc then 2 else 0) } }
  if failed then
    let s := s.writeHdrs h 1
    (s.setHst h { s.hst h with st := .attach, judged := false, keptImage := false, headerOpen := false, attachAt := s.clk.age }).judgeImage h
  else
    let all := (s.dram.wmap.keys.filter (fun b => raceHalf (b % 32) = h)).map (· / 32)
    let s := s.writeHdrs h 2
    let y := s.hst h
    (s.setHst h { y with exposed := all.foldl (fun (t : Tbl Nat) v => t.ins v 0) {}, relocEp := all.foldl (fun (t : Tbl Nat) v => t.ins v 1) {}
                         headerOpen := true }).newCeil h

end Sys2Proof.Machine
end

