-- ==== Sys2Proof/Machine/Layshaft.lean ====
section
/-!
DEFINITION. Layshaft: cross-half links (R42, R43), the stall watchdog (R48 to R52), the split of the halves and the rejoin
(R467 to R470).
-/
namespace Sys2Proof.Machine

/-! ### Cross-half links (R43) -/

def Lay.live (l : Lay) (dir : Nat) : Nat := if dir = 0 then l.liveEW else l.liveWE
def Lay.loseLink (l : Lay) (dir link : Nat) : Lay :=
  let m := setBits (l.live dir) link 1 0
  let l := { l with liveEW := if dir = 0 then m else l.liveEW, liveWE := if dir = 0 then l.liveWE else m
                    fails := l.fails.del (8 * dir + link) }
  { l with splitPend := l.splitPend || m = 0 }
/-- Live links of a direction, ascending: a stream's cells use number (stream mod L) of them (R42). -/
def Lay.links (l : Lay) (dir : Nat) : List Nat := (List.range 8).filter (fun i => bit (l.live dir) i)
def Lay.linkOf (l : Lay) (dir stream : Nat) : Option Nat := (l.links dir)[stream % (l.links dir).length]?

/-- Where the record of a Layshaft or granary Sluice is kept. -/
def sluKey : SluiceId → Nat
  | .row r => r
  | .col r pr => 32 + 2 * r + pr
  | .xp half n out => 1000 + (half * 64 + n) * 16 + out
  | .link dir n => 4000 + 8 * dir + n
  | .gport p => 5000 + p
def Lay.sluice (l : Lay) (id : SluiceId) : Slu := l.slu.get {} (sluKey id)

/-- The packet holds the Sluice's last grant, whose transfer has not begun to the Sluice's knowledge (R223). -/
def Slu.granted (x : Slu) (p : Parked) : Bool := x.grant.any (fun g => g.1 = p.key) && x.grantCh = p.ch
/-- Port of a cross-half link under which cells wait that come from a lost link (R43). -/
def replayPort : Nat := 255
/-- The packets that wait at the links of a direction find the link of their stream under the links now live; the cells of the lost
link's replay buffer come first, as the oldest of their stream; a packet that a link still live has granted goes by that link (R42, R43, R224). -/
def Lay.remap (l : Lay) (dir lost : Nat) : Lay :=
  let gone := (l.sluice (.link dir lost)).replay.reverse.map (fun p => { p with port := replayPort })
  let waiting := (List.range 8).flatMap (fun n => let x := l.sluice (.link dir n)
    if n = lost then x.pend else x.pend.filter (fun p => !x.granted p))
  let all := gone ++ waiting.filter (fun p => !(gone.any (fun g => g.key = p.key && g.ch = p.ch)))
  let clear := fun (x : Slu) (n : Nat) => if n = lost then { x with pend := [], replay := [], places := [], grant := none } else { x with pend := x.pend.filter (fun p => x.granted p) }
  let slu := (List.range 8).foldl (fun (t : Tbl Slu) n => t.ins (sluKey (.link dir n)) (clear (l.sluice (.link dir n)) n)) l.slu
  let slu := all.foldl (fun (t : Tbl Slu) p => match l.linkOf dir p.stream with
    | some n => let x := t.get {} (sluKey (.link dir n))
      t.ins (sluKey (.link dir n)) { x with pend := x.pend ++ [p] }
    | none => t) slu
  { l with slu := slu }

/-- A cell fails its CRC and is replayed from the link's replay buffer, which a good replay empties; a link whose replay fails three
times in succession is lost, LAY_LINK is raised, and its streams are remapped over the links left (R42, R43). Link ports: East 0-7,
West 8-15 (R381). -/
def execLayLinkReplay (dir link : Nat) (good : Bool) (s : State) : Host.Outcome State Fault Refusal :=
  .next (when (bit (s.lay.live dir) link && decide (link < 8) && decide (dir < 2))
    (fun s =>
      let k := 8 * dir + link
      let s := s.tally dir 4 (4 * link + 3) 1
      let n := if good then 0 else s.lay.fails.get 0 k + 1
      if n ≥ 3 then ({ s with lay := (s.lay.loseLink dir link).remap dir link }).raise Src.LAY_LINK k 0
      else
        let x := s.lay.sluice (.link dir link)
        let slu := if good then s.lay.slu.ins (sluKey (.link dir link)) { x with replay := [] } else s.lay.slu
        { s with lay := { s.lay with fails := s.lay.fails.put 0 k n, slu := slu } }) s)

/-! ### Split and rejoin -/

/-- Drop a store that was crossing at the split: logged in its landing half (R468). -/
def State.dropCrossing (s : State) (q : Req) : State :=
  ((s.markLost q.stream).logLost q.landHalf q.stream q.addr).raise Src.POND_LOST q.race ((q.addr / 64) % 2 ^ 34)
/-- What the split does to one request (R468). -/
def State.splitReq (s : State) (id : Nat) : State :=
  match s.hop.reqs.find? id with
  | none => s
  | some q =>
    let cross := Opc.addressed q.opc && q.target ≠ q.landHalf
    if Opc.barrier q.opc then s
    else if cross && q.phase = .accepted then
      let s := if Opc.store q.opc then s.dropCrossing q else s
      s.endReq id Rc.unreach .dropped
    else
      let s := s.updReq id (fun q => { q with tok := if q.tok = 2 then 3 else q.tok })
      if cross && !q.answered && Opc.answered q.opc then
        if Opc.store q.opc then (s.answer id Rc.unreach 0 0 0 []).reap id
        else
          let x := s.race q.race
          let s := s.setRace q.race { x with rq := x.rq.filter (fun e => !(e.kind = .host && e.id = id)) }
          s.endReq id Rc.unreach .dropped
      else s.reap id

/-- From the Turn after all 8 links of one direction are lost the halves operate split (R467): crossing work is resolved, and
reservations of streams whose home is the other half from their granule are lost (R113). -/
def execSplit (s : State) : Host.Outcome State Fault Refusal :=
  .next (when ((s.lay.splitPend || s.lay.liveEW = 0 || s.lay.liveWE = 0) && !s.lay.split)
    (fun s =>
      let s := { s with lay := { s.lay with split := true, splitPend := false, retrained := false } }
      let s := { s with hop := { s.hop with reqs := s.hop.reqs.mapv (fun id q => { q with cut := q.cut || (Opc.barrier q.opc && s.barCut id q) }) } }
      let s := each s.hop.reqs.keys (fun id s => s.splitReq id) s
      s.clearResv (fun k r => decide (s.fget Fld.HOP_STREAM_HOME k ≠ raceHalf (s.raceAt r.base)))) s)

/-- After a West half reset has trained the cross-half links and West is serve-ready, SPLIT clears (R470). -/
def execSplitRejoin (s : State) : Host.Outcome State Fault Refusal :=
  .next (when (s.lay.split && s.lay.retrained && s.boot.readyW && s.lay.liveEW ≠ 0 && s.lay.liveWE ≠ 0)
    (fun s => { s with lay := { s.lay with split := false, retrained := false } }) s)

/-! ### The stall watchdog (R48 to R52) -/

/-- A point that R52 names. -/
def wdPoint (p : Nat) : Bool := decide (p ≤ 0x2A) || p = 0x30
/-- Its channels: the three of a crosspoint or a cross-half link port, REQ alone elsewhere (R48). -/
def wdChan (p vc : Nat) : Bool := if 0x10 ≤ p ∧ p ≤ 0x27 then decide (vc < 3) else vc = 0
def chanOf (vc : Nat) : Chan := if vc = 0 then .req else if vc = 1 then .rsp else .snp

/-- A background request, and where it stands (R49): a read or a write in a race's queue, a Tally store in Millpond, a drive command that
waits for its granary port, a packet whose request stands nowhere else. -/
inductive BackReq where
  | read (race : Nat) (e : RqEnt) | write (race : Nat) (e : WqEnt) | store (e : PondEnt) | sub (port cid : Nat) | packet (key : Nat)
deriving DecidableEq, Repr
/-- Number by which a granary port mux knows a drive command of a half: numbers below 2^32 are firmware's (R235). -/
def subKey (h cid : Nat) : Nat := 2 ^ 32 + 2 * cid + h
/-- Number of the packet of a background unit's cell at crosspoints and links; host requests go by their own numbers (log entry 141). -/
def backKey (a : Nat) : Nat := 2 ^ 40 + a / 64
/-- The number of a background request's packet. -/
def BackReq.key : BackReq → Nat
  | .read _ e => backKey e.addr
  | .write _ e => backKey e.addr
  | .store e => backKey e.addr
  | .sub p cid => subKey (p / 4) cid
  | .packet k => k

/-- What stands at the head of a point's queue (R48, R49): a number that tells it from any other at that point, the host request it
belongs to, or the background request that it is, and the stream of an accepted write. -/
structure WdHead where
  tag : Nat
  since : Nat
  req : Option Nat := none
  back : Option BackReq := none
  write : Bool := false
  stream : Nat := 0
deriving DecidableEq, Repr

/-- The oldest of a list of heads. -/
def WdHead.oldest : List WdHead → Option WdHead
  | [] => none
  | a :: l => match WdHead.oldest l with
    | none => some a
    | some b => if b.since < a.since then some b else some a
/-- The head that a host request is. -/
def State.wdReq (s : State) (id tag since : Nat) : WdHead :=
  match s.hop.reqs.find? id with
  | some q => { tag := tag, since := since, req := some id, write := Opc.store q.opc && q.opc ≠ Opc.amo, stream := q.stream }
  | none => { tag := tag, since := since }
/-- The entries that wait in a race's queues. -/
def State.wdRace (s : State) (r : Nat) : List WdHead :=
  let x := s.race r
  x.rq.map (fun e => if e.kind = .host then s.wdReq e.id e.qid e.since else { tag := e.qid, since := e.since, back := some (.read r e) })
    ++ x.wq.map (fun e => if e.own = .host then { tag := e.qid, since := e.since, write := true, stream := (e.stores.head?.map Prod.snd).getD 0 }
      else { tag := e.qid, since := e.since, back := some (.write r e) })
    ++ x.fau.map (fun e => { s.wdReq e.id e.qid e.since with write := !e.amo })
/-- What the packet of a background unit's cell stands for: the read or the write of the cell in its race, or Tally's store of it. -/
def State.backOf (s : State) (key : Nat) : BackReq :=
  let a := 64 * (key - 2 ^ 40)
  let r := s.raceAt a
  let x := s.race r
  match x.rq.find? (fun e => e.kind ≠ .host && e.addr / 64 = a / 64) with
  | some e => .read r e
  | none => match s.pond.find? (fun e => e.tally && e.addr / 64 = a / 64) with
    | some e => .store e
    | none => match x.wq.find? (fun e => e.own ≠ .host && e.addr / 64 = a / 64) with
      | some e => .write r e
      | none => .packet key
/-- The packets that wait ungranted at a crosspoint or a link on a channel. A host request's key is its number (R49). -/
def State.wdSlu (s : State) (id : SluiceId) (c : Chan) : List WdHead :=
  let x := s.lay.sluice id
  (x.pend.filter (fun p => p.ch = c && !x.granted p)).map (fun p =>
    if p.key < 2 ^ 40 then s.wdReq p.key p.key p.since else { tag := p.key, since := p.since, back := some (s.backOf p.key) })
/-- The submissions that wait ungranted at a granary port (R51): Hoist's, and firmware's. -/
def State.wdGp (s : State) (p : Nat) : List WdHead :=
  let x := s.lay.sluice (.gport p)
  let h := p / 4
  ((s.hst h).cmds.filter (fun c => c.port = p && c.sub)).map (fun c => { tag := subKey h c.cid, since := 256 * c.since, back := some (.sub p c.cid) })
    ++ (x.pend.filter (fun q => decide (q.key < 2 ^ 32) && !x.granted q)).map (fun q => { tag := q.key, since := q.since, back := some (.packet q.key) })
/-- The head of the queue at a point of a half on a channel. A request held for its chunk is at the head of none (R336). -/
def State.wdHead (s : State) (half point vc : Nat) : Option WdHead :=
  WdHead.oldest
    (if point < 0x10 then s.wdRace (16 * half + point)
     else if point < 0x20 then (List.range 16).flatMap (fun o => s.wdSlu (.xp half (point - 0x10) o) (chanOf vc))
     else if point < 0x28 then s.wdSlu (.link half (point - 0x20)) (chanOf vc)
     else if point = 0x28 then (s.hop.reqs.rows.filter (fun kv => kv.2.landHalf = half && kv.2.phase = .accepted
       && !(Opc.addressed kv.2.opc && !s.chunkDone kv.2.addr))).map (fun kv => s.wdReq kv.1 kv.1 kv.2.land)
     else if point = 0x29 then (s.pond.filter (fun e => e.half = half && decide (e.vis ≠ 0) && s.chunkDone e.addr)).map (fun e =>
       if e.tally then { tag := 16 * e.vis + e.k, since := e.vis, back := some (.store e) }
       else { tag := 16 * e.vis + e.k, since := e.vis, write := !e.amo, req := if e.amo then some e.id else none, stream := e.stream })
     else if point = 0x2A then (s.flume.filter (fun e => e.half = half && e.closed && s.chunkDone (e.blk * 256))).map
       (fun e => { tag := e.fid, since := e.fid, write := true, stream := e.stream })
     else if point = 0x30 then (List.range 4).flatMap (fun p => s.wdGp (4 * half + p))
     else [])
/-- Key of a point's channel. -/
def wdKey (half point vc : Nat) : Nat := 1024 * half + 4 * point + vc
/-- Every channel of every point of a half. -/
def wdKeys : List (Nat × Nat) := (List.range 0x31).flatMap (fun p => (List.range 3).filterMap (fun vc => if wdPoint p && wdChan p vc then some (p, vc) else none))
/-- Stores wait on a race that is in reset or in a settle (R461). -/
def State.wdHolds (s : State) (r : Nat) : Bool :=
  let x := s.race r
  let settles := s.boot.settle.isSome && !s.boot.settled && (match s.boot.pend with | some .half => decide (r ≥ 16) | some _ => true | none => false)
  (s.raceHeld r || settles) && (!x.rq.isEmpty || !x.wq.isEmpty || !x.fau.isEmpty || s.pond.any (fun e => e.race = r)
    || s.hop.reqs.vals.any (fun q => q.race = r && Opc.addressed q.opc && q.open_))
/-- The count of a point stands still: of a race's command bus while the race retrains (R275), of that and of the Millpond drain while stores
or requests wait on a race in reset or in settle (R461). -/
def State.wdPaused (s : State) (half point : Nat) : Bool :=
  if point < 0x10 then s.fheld Fld.SPIN_STAT_STATE (16 * half + point) = 3 || s.wdHolds (16 * half + point)
  else point = 0x29 && (halfRaces half).any s.wdHolds
/-- At the boundary: a request that came to the head of its queue in the Turn just over has waited since that Turn; one still there goes on;
a pause does not count. -/
def State.wdTick (s : State) : State :=
  let one := fun (t : Tbl (Nat × Nat)) (half : Nat) (pv : Nat × Nat) =>
    let k := wdKey half pv.1 pv.2
    match s.wdHead half pv.1 pv.2 with
    | none => t.del k
    | some w => match t.find? k with
      | some (tag, since) =>
        if tag = w.tag then (if s.wdPaused half pv.1 then t.ins k (tag, since + 1) else t) else t.ins k (w.tag, s.clk.age - 1)
      | none => t.ins k (w.tag, s.clk.age - 1)
  { s with lay := { s.lay with heads := [0, 1].foldl (fun t half => wdKeys.foldl (fun t pv => one t half pv) t) s.lay.heads } }

/-- Drop a request's packets from every crosspoint and link, or a submission from the granary port muxes. -/
def Lay.dropKey (l : Lay) (gp : Bool) (k : Nat) : Lay :=
  { l with slu := l.slu.mapv (fun i x => if gp ≠ decide (i ≥ 5000) then x
      else { x with pend := x.pend.filter (fun p => p.key ≠ k), places := x.places.filter (fun p => p.1 ≠ k), replay := x.replay.filter (fun p => p.key ≠ k) }) }
/-- Retire a request with FAULTED: its resources at every rank are released and its stream's reservation is lost (R49). -/
def State.retire (s : State) (id : Nat) (q : Req) : State :=
  let x := s.race q.race
  let s := if Opc.addressed q.opc then
      s.setRace q.race { x with rq := x.rq.filter (fun e => !((e.kind = .host || e.kind = .fau) && e.id = id))
                                fau := x.fau.filter (fun e => e.id ≠ id) }
    else s
  let s := { s with lay := s.lay.dropKey false id }
  ((s.pondDrop id).clearResv (fun k _ => k = q.stream)).endReq id Rc.faulted .dropped

/-- A watchdog point fires on its head: `bad` takes a background request out and tells its owner. The next head inherits the queue with age 0
(R52's example). No race is isolated in the safe state (R384). LAY_STALL_STATUS keeps REPEAT of an earlier firing until it is cleared (log entry 90). -/
def State.wdFire (s : State) (half point vc : Nat) (w : WdHead) (bad : BackReq → State → State) : State :=
  let key := wdKey half point vc
  let again := match s.lay.fired.find? key with
    | some t => decide (s.clk.age ≤ t + s.fget Fld.LAY_STALL_CFG_ESC_WINDOW 0 half)
    | none => false
  let s := if w.write then s
    else match w.req with
      | some id => (match s.hop.reqs.find? id with
        | some q => if Opc.barrier q.opc then s else s.retire id q
        | none => s)
      | none => match w.back with
        | some b => bad b { s with lay := s.lay.dropKey (point = 0x30) b.key }
        | none => s
  let heads := match s.wdHead half point vc with
    | some n => s.lay.heads.ins key (n.tag, s.clk.age)
    | none => s.lay.heads.del key
  let s := { s with lay := { s.lay with fired := s.lay.fired.ins key s.clk.age, heads := heads } }
  let rep := again || s.fheld Fld.LAY_STALL_STATUS_REPEAT 0 half = 1
  let v := 2 ^ 31 + b2n rep * 2 ^ 30 + b2n w.write * 2 ^ 29 + point % 256 * 2 ^ 16 + vc % 4 * 2 ^ 14 + w.stream % 4096
  let s := s.setRaw .LAY_STALL_STATUS (Reg.key .LAY_STALL_STATUS 0 half) (BitVec.ofNat 64 v)
  let detail := v % 2 ^ 30
  if again then
    if point < 16 then
      let t := s.raiseAll [{ src := Src.LAY_STALL, inst := half, detail := detail, esc := true, sev := some 3 }]
      if s.brk.safe then t else t.isolate (16 * half + point)
    else s.raiseAll [{ src := Src.LAY_STALL, inst := half, detail := detail, esc := true, sev := some 4 }]
  else s.raise Src.LAY_STALL half detail
/-- The request that a point fires on: at the head of its queue for LIMIT Turns without a grant (R48). -/
def State.wdDue (s : State) (half point vc : Nat) : Option WdHead :=
  match s.wdHead half point vc, s.lay.heads.find? (wdKey half point vc) with
  | some w, some (tag, since) =>
    if tag = w.tag && decide (s.clk.age ≥ since + s.fget Fld.LAY_STALL_CFG_LIMIT 0 half) && !s.wdPaused half point then some w else none
  | _, _ => none

end Sys2Proof.Machine
end

