-- ==== Sys2Proof/Machine/Reset.lean ====
section
/-!
DEFINITION. What each reset and power state leaves (R19, R146, R203, R305, R349, R364, R431, R442, R454 to R463, R470): registers by
Kept code, DRAM, races, Hoist, and the other units. The commands that ask for resets and release them are in Bringup.
-/
namespace Sys2Proof.Machine

/-! ### Registers by Kept code (R19) -/

/-- A register word with the fields of the given codes kept and the others at their reset values. -/
def keepWord (r : Reg) (old rst : Word) (kept : List Kept) : Word :=
  r.fields.foldl (fun w f => if f.kept ∈ kept then f.put w (f.of old) else w) rst
/-- The registers of the selected instances reset: fields of the given codes are kept. Registers that `whole` names are not reset. -/
def State.rekey (s : State) (sel : Loc → Bool) (kept : List Kept) (whole : Reg → Bool) : State :=
  let hit := fun k : Nat => match locate k with | some l => sel l && !whole l.reg | none => false
  let t := s.regs.rows.foldl (fun (t : Tbl Word) kv =>
    match locate kv.1 with
    | none => t
    | some l =>
      let w := if sel l && !whole l.reg then keepWord l.reg kv.2 (resetWord s.ld l.reg kv.1) kept else kv.2
      regsPut s.ld t l.reg kv.1 w) {}
  { s with regs := t, eff := s.eff.keep (fun k _ => !hit k) }
/-- Spindle, Fantail and refresh registers: a warm reset leaves these units running (R454). -/
def Reg.runsOn (r : Reg) : Bool :=
  r ∈ ([.SPIN_STAT, .SPIN_SID, .SPIN_DLY, .SPIN_REPAIR, .RACE_REF_STAT, .RACE_REF_CNT] : List Reg)

/-! ### Fuses, unlock, isolation -/

/-- Millmark checks the chain of what the fuses hold (R434). -/
def Fuses.chainOk (f : Fuses) : Bool :=
  f.certsDone && f.unitKey.isSome && Config.certChainOk f.certs (f.unitKey.getD 0) f.keyFuse f.uid
/-- Fields with Kept code F are loaded again at every reset; a burned life-cycle advance takes effect (R431); the chain is checked. -/
def State.reload (s : State) : State :=
  let f : Fuses := { s.fuse with lc := s.fuse.lcNext.getD s.fuse.lc, lcNext := none }
  { s with fuse := f, ld := f, mmk := { s.mmk with certOk := f.chainOk } }
/-- The reset that is due brings RETURNED or SCRAPPED into force: it is carried out as a power-on reset (R431). -/
def State.lcPower (s : State) : Bool := match s.fuse.lcNext with | some c => decide (c ≥ 4) | none => false
/-- The debug unlock gained and the test access it opened close (R442); an unlock by state, with its access, cannot be closed. -/
def State.closeUnlock (s : State) : State :=
  let t := { s with mmk := { s.mmk with unlock := 0 } }
  if s.openByState then t
  else { t with tst := { s.tst with acc1149 := false, acc1838 := false, dsel := 0, drive := false, highz := false, ir := 0xFF } }
/-- A staged image that has not been activated is lost at any reset (R428); one whose activation is under way is being loaded. -/
def State.dropStages (s : State) : State :=
  if s.mil.east.bg.any (fun v => v.opc = 0x04) then s
  else { s with mil := { s.mil with east := { s.mil.east with stage := {} }, west := { s.mil.west with stage := {} } } }
/-- At any reset the unlock closes, the nonce expires and a staged image is lost (R428, R439, R442). -/
def State.endUnlock (s : State) : State :=
  let t := s.closeUnlock.dropStages
  { t with mmk := { t.mmk with nonce := none, respR := none } }

/-! ### Burns (R302, R415, R430, R431, R433, R440) -/

/-- The bytes of a bit vector, byte 0 lowest. -/
def leBytes (n x : Nat) : List Byte := (List.range n).map (fun i => BitVec.ofNat 8 (bits x (8 * i) 8))
/-- MMK_ADVANCE burns its target: the unit key on the way to FACTORY, the passphrase record on the way to FIELD, the state cells. -/
def State.burnAdvance (s : State) (t : Nat) : State :=
  let f := s.fuse
  let f := if s.ld.lc = 0 ∧ t = 1 then { f with unitKey := some (Config.unitPublicKey s.mmk.draws), keySlot := f.keyVoid } else f
  let salt := BitVec.ofNat 128 (Config.rng s.mmk.draws).toNat
  let f := if t = 3 then
      { f with pass := s.mmk.cand.map (fun p => (salt, Config.sha384 (leBytes 16 salt.toNat ++ p))) }
    else f
  { s with fuse := { f with lcNext := some t }, mmk := { s.mmk with draws := s.mmk.draws + 1 } }
/-- An advance that is interrupted leaves the old state or the new one (R431); a key generation that is interrupted voids its slot. -/
def State.cutAdvance (s : State) : State :=
  match s.mil.east.bg with
  | some v =>
    if v.opc = 0x74 then
      let t := { s with freeCtr := s.freeCtr + 1, mil := { s.mil with east := { s.mil.east with bg := none } } }
      if Config.freeBool s.freeCtr then t.burnAdvance s.mil.east.bgAux
      else if s.ld.lc = 0 then { t with fuse := { t.fuse with keyVoid := min 2 (t.fuse.keyVoid + 1) } } else t
    else s
  | none => s
/-- A fuse burn that is interrupted leaves an entry whose CHK fails (R302). -/
def State.cutBurn (s : State) : State :=
  match s.drs.burn with
  | some (i, w) => { s with drs := { s.drs with burn := none }, fuse := { s.fuse with map := s.fuse.map.ins i (badEntry w) } }
  | none => s
/-- What a loss of the Miller and Dresser domains interrupts. -/
def State.cutBurns (s : State) : State := s.cutAdvance.cutBurn
/-- Millmark after a reset that loses its N fields: a failed CRYPTO test holds until a later one passes (R443). -/
def Mmk.again (m : Mmk) : Mmk := { draws := m.draws, certOk := m.certOk, fails := m.fails, cryptoBad := m.cryptoBad }
/-- SPDM sessions end with the East core; addresses, endpoint and enables stay in AON. -/
def I3c.again (x : I3c) : I3c := { x with spdmVer := false, spdmNeg := false, rsp := [] }
/-- The written map of the races of a mask is cleared (R304, R305). -/
def State.dropMap (s : State) (mask : Nat) : State :=
  if mask = 0 then s
  else { s with dram := { s.dram with wmap := s.dram.wmap.keep (fun b _ => !bit mask (b % 32)), zeroed := s.dram.zeroed.keep (fun b _ => !bit mask (b % 32)) } }
/-- A race is back in service: its first store waits for the next epoch advance of its half (R339). -/
def State.comeBack (s : State) (r : Nat) : State :=
  let h := raceHalf r
  let hx := s.hst h
  s.setHst h { hx with returned := if r ∈ hx.returned then hx.returned else hx.returned ++ [r] }
/-- DRS_ISOL at a reset, which read `old` before it: the races of the mask lose their isolation, and serve with every block UNWRITTEN; those
that a retirement entry names are isolated again, by the steps of R304 (R303, R305). -/
def State.clearIsol (s : State) (old mask : Nat) : State :=
  let ret := retiredMask s.ld
  let left := (List.range 32).foldl (fun a r => if bit old r && !bit mask r then a + 2 ^ r else a) 0
  let s := (s.fset Fld.DRS_ISOL_ISOL left).dropMap (old &&& mask)
  let s := each ((List.range 32).filter (fun r => !bit left r)) (fun r s => s.causeOff Src.DRS_ISOL r) s
  let s := each ((List.range 32).filter (fun r => bit (old &&& mask) r && !bit ret r)) (fun r s => s.comeBack r) s
  each ((List.range 32).filter (fun r => bit ret r && !bit left r)) (fun r s => s.isolMark r) s
/-- ISOL as it stands. -/
def State.isolWord (s : State) : Nat := s.fheld Fld.DRS_ISOL_ISOL

/-! ### DRAM (R146, R203, R364) -/

/-- The DRAM of the SIDs outside a mask is lost; the map is not changed. -/
def State.loseSids (s : State) (kept : Nat) : State :=
  let lives := fun v : Nat => bit kept (v % s.nsid)
  { s with dram := { s.dram with cells := s.dram.cells.keep (fun n _ => lives (n / 32768)), zeroed := s.dram.zeroed.keep (fun b _ => lives (b / 32))
                                 era := s.dram.era + 1 } }
/-- Written-map bits of lost SIDs are cleared. -/
def State.clearMap (s : State) (kept : Nat) : State :=
  { s with dram := { s.dram with wmap := s.dram.wmap.keep (fun b _ => bit kept ((b / 32) % s.nsid)) } }

/-! ### Races and Hoist -/

/-- A race after a warm reset: its queues are empty; refresh, the state of the dies and training go on (R203, R277, R454). -/
def Race.warm (x : Race) : Race :=
  { x with rq := [], wq := [], fau := [], flights := [], backs := [], wmode := false, idleSince := none, fill := none, fillQ := []
           rqLvl := 0, wqLvl := 0, grantA := [], grantB := [], grantR := [], missA := 0, missB := 0, tmoA := false, tmoB := false
           mrAt := none, mrIssued := false, latch := none, actPrev := none, act48 := none, admPend := false, admLatch := false
           inReset := false, spinPads := false, filling := [], isoAt := none, isoDone := x.isoDone || x.isoAt.isSome, step := 0 }
/-- A race in FURL: its training results and table stand, its SIDs are in self-refresh or lost, so that dues, counts and trackers start
again (R201, R203, R277). -/
def Race.furl (x : Race) : Race :=
  { run := x.run, refOn := x.refOn, sref := x.sref, admC1 := x.admC1, nextQ := x.nextQ, hist := x.hist
    isoDone := x.isoDone || x.isoAt.isSome, tr := { dead := x.tr.dead, deadSid := x.tr.deadSid } }
/-- A race after its own reset: only what the DRAM itself holds is left, self-refresh and the commands just issued; where the
handover failed, every RAA at RFM_TH and the REFab that must come first (R203). -/
def Race.reborn (x : Race) (th : Nat) : Race :=
  { banks := if x.mustRefab.isEmpty then {} else x.banks.mapv (fun _ _ => { raa := th })
    hist := x.hist, sref := x.sref, mustRefab := x.mustRefab, nextQ := x.nextQ }
/-- Hoist after a reset that keeps the DRAM: its maps and epoch stay, its commands and staged pages are taken back, it waits for its release
(R455). The page halves of a scan whose reads it ends are read again. -/
def Hst.passage (x : Hst) : Hst :=
  let y := x.cmds.foldl (fun (y : Hst) c => y.unissue c) { x with cmds := [] }
  let y := x.stage.foldl (fun (y : Hst) w => y.unstage w) y
  { y with st := .off, keptImage := x.headerOpen, chunks := {}, hot := [], held := [], granted := [], asks := [], sNow := 0, sNext := 0
           judged := false, sealing := false, serveComplete := false, resync := x.resync, badReads := [], jobs := {}, demanded := []
           scan := ((x.scanning.map (· / 2048)) ++ x.scan).dedup, scanAt := 0, scanning := []
           drives := y.drives.mapv (fun _ d => { d with up := false }) }
/-- Hoist after a reset that loses its maps: the drives are what they are. -/
def Hst.fresh (x : Hst) : Hst :=
  { bare := x.bare
    drives := x.drives.mapv (fun _ d =>
      { lbas := d.lbas, hdrA := d.hdrA, hdrB := d.hdrB, bmap := d.bmap, heat := d.heat, pages := d.pages, old := d.old }) }
/-- Tally with nothing kept, inside a bandwidth window: the first full one is the next (R403). -/
def Tly.cut : Tly := { bwPart := true }
/-- Tally after a warm reset: counters, records and levels stay (Kept code W). -/
def Tly.warm (t : Tly) : Tly := { cnt := t.cnt, recSeq := t.recSeq, missedSince := t.missedSince, heat := t.heat, bwPart := true }
/-- FULL FURL keeps Tally; the bandwidth window in progress has a gap and is left out (log entry 109). -/
def Tly.pause (t : Tly) : Tly := { t with bwPart := true, bwLatch := none }
/-- The blocks of chunks whose restore a reset ends are UNWRITTEN (R146, R455; log entry 22). -/
def State.cutRestore (s : State) (h : Nat) : State :=
  let open_ := (s.hst h).chunks
  { s with dram := { s.dram with wmap := s.dram.wmap.keep (fun b _ => raceHalf (b % 32) ≠ h || (open_.find? (b / 32)).isNone) } }
/-- A Miller core after a reset that keeps its image (R428). -/
def Core.again (c : Core) : Core := { img := c.img }
/-- Miller after such a reset; the read pointer belongs to the I3C target, which stands in AON (R411, R464). -/
def Mil.again (m : Mil) : Mil := { east := m.east.again, west := m.west.again, ptr := m.ptr }
/-- Governor after a reset: what AON watches stays. -/
def Gov.again (g : Gov) : Gov :=
  { ps := .run, dip := g.dip, belowWarn := g.belowWarn, belowRel := g.belowRel, vddOkSince := g.vddOkSince, mfLatch := g.mfLatch
    mfLevel := g.mfLevel, mfOkSince := g.mfOkSince, lowS := g.lowS, lowH := g.lowH, lowX := g.lowX, aonB := g.aonB, pads := g.pads
    kept := g.kept, wakeFailPend := g.wakeFailPend, srr := g.srr }

/-- Causes that a reset does not end: no capacitance test has passed, no valid reading has come since the raise (R381, R387). -/
def Brk.outlast (b : Brk) : Tbl Bool := b.cause.keep (fun k _ => decide (k / 64 = Src.GOV_BK) || decide (k / 64 = Src.GOV_TSENS))
/-- The pairs whose rails are equal by themselves: a reset of the Brake ends an injection (R392). -/
def Brk.rails (b : Brk) : Tbl Bool :=
  match b.inj with
  | some (c, i, 2, _) => b.equal.del (pairKey c i)
  | _ => b.equal
/-- RST_CAUSE is loaded at each reset (R377). -/
def State.setCause (s : State) (c : Nat) : State := s.fset Fld.GOV_STATUS_RST_CAUSE c
/-- Requests of the halves named are discarded with their responses (R460 step 4); every reservation is lost (R113). -/
def State.discardReqs (s : State) (p : Req → Bool) : State :=
  { s with hop := { s.hop with reqs := s.hop.reqs.keep (fun _ q => !p q), resv := {} } }

/-- A reset of the test controller frees its latched pads, unless a power state holds them (R358, R385). -/
def State.freedPads (s : State) (held : Bool) : Out := { s.out with tstPads := if held then s.out.tstPads else none }

/-! ### The resets -/

/-- Power-on reset, brown-out (R349) and, with the A fields kept, exit from OFF (R364): everything at its reset value. -/
def State.powerOn (s : State) (cause : Nat) (keepA : Bool) : State :=
  let old := s.isolWord
  let s := s.cutBurns.reload
  let a := if keepA then s.rekey (fun _ => true) [.a] (fun _ => false) else { s with regs := {}, eff := {} }
  let g : Gov := { s.gov.again with pads := keepA && s.gov.pads, kept := 0, wakeFailPend := keepA && s.gov.wakeFailPend
                                    srr := if keepA then s.gov.srr else {} }
  let t : State :=
    { pending := s.pending, regs := a.regs, fuse := s.fuse, ld := s.ld, freeCtr := s.freeCtr, out := s.freedPads (keepA && s.gov.pads)
      clk := { turn := if keepA then s.clk.turn else 0, age := s.clk.age, refclk := s.clk.refclk }
      dram := { era := s.dram.era + 1 }, hstE := s.hstE.fresh, hstW := s.hstW.fresh, gov := g, brk := { equal := s.brk.rails }
      mmk := { draws := s.mmk.draws, certOk := s.mmk.certOk, fails := if keepA then s.mmk.fails else 0 }
      tlyE := { bwPart := keepA }, tlyW := { bwPart := keepA }, mil := if keepA then { ptr := s.mil.ptr } else {}, i3c := if keepA then s.i3c.again else {} }
  (t.setCause cause).clearIsol old (2 ^ 32 - 1)

/-- Warm reset (R454) and, with K and W lost and training lost, the mailbox soft reset: DRAM, maps and image kept. -/
def State.warmCore (s : State) (soft : Bool) (cause : Nat) : State :=
  let old := s.isolWord
  let s := s.cutBurns.reload.endUnlock
  let kept : List Kept := if soft then [.a] else [.a, .k, .w]
  let s := ((s.cutRestore 0).cutRestore 1).stopRetrains
  let s := s.rekey (fun l => regDomain l ≠ 79) kept (fun r => !soft && r.runsOn)
  let s := s.discardReqs (fun _ => true)
  let s := s.dropMap ((List.range 32).foldl (fun a r => if (s.race r).isoAt.isSome then a + 2 ^ r else a) 0)
  let t : State := { s with
    mods := {}, pond := [], flume := [], races := s.races.mapv (fun r x => if soft then x.reborn (s.fget Fld.RACE_REF_CFG_RFM_TH r) else x.warm)
    lay := { liveEW := s.lay.liveEW, liveWE := s.lay.liveWE, split := s.lay.split }
    weir := {}, fanE := {}, fanW := {}, qrnE := {}, qrnW := {}, drs := {}, hstE := s.hstE.passage, hstW := s.hstW.passage
    gov := { s.gov.again with kept := s.gov.kept }
    brk := { seq := if soft then 0 else s.brk.seq, equal := s.brk.rails, cause := s.brk.outlast }
    tlyE := if soft then Tly.cut else s.tlyE.warm, tlyW := if soft then Tly.cut else s.tlyW.warm
    mil := s.mil.again, mmk := s.mmk.again, tst := {}, boot := {}, i3c := s.i3c.again, out := s.freedPads s.gov.pads }
  let t := t.setCause cause
  t.clearIsol old (if soft then 2 ^ 32 - 1 else 0)

/-- Restart after drain (R350): kept SIDs only; the image comes back by restore. -/
def State.drainRestart (s : State) : State :=
  let old := s.isolWord
  let s := s.cutBurns.reload.endUnlock
  let s := s.rekey (fun l => regDomain l ≠ 79) [.a] (fun _ => false)
  let s := ((s.loseSids s.gov.kept).clearMap s.gov.kept).discardReqs (fun _ => true)
  let t : State := { s with
    mods := {}, pond := [], flume := [], races := s.races.mapv (fun r x => x.reborn (s.fget Fld.RACE_REF_CFG_RFM_TH r))
    lay := { liveEW := s.lay.liveEW, liveWE := s.lay.liveWE, split := s.lay.split }
    weir := {}, fanE := {}, fanW := {}, qrnE := {}, qrnW := {}, drs := {}, hstE := s.hstE.fresh, hstW := s.hstW.fresh
    gov := s.gov.again, brk := { equal := s.brk.rails, cause := s.brk.outlast }, tlyE := Tly.cut, tlyW := Tly.cut
    mil := s.mil.again, mmk := s.mmk.again, tst := {}, boot := { inReset := some .restartDrain }
    i3c := s.i3c.again, out := s.freedPads s.gov.pads }
  (t.setCause 6).clearIsol old (2 ^ 32 - 1)

/-- The West half is reset with its DRAM kept (R454); the cross-half links train again, with an outcome of their own (R470). -/
def State.halfCore (s : State) : State :=
  let s := s.reload.endUnlock
  let s := s.cutRestore 1
  let s := s.rekey (fun l => domHalf (regDomain l) = 1) [.a] (fun _ => false)
  let s := s.discardReqs (fun q => q.landHalf = 1 ∨ (Opc.addressed q.opc ∧ q.target = 1) ∨ (Opc.barrier q.opc ∧ q.home = 1))
  let ew := Config.freeNat s.freeCtr % 256
  let we := Config.freeNat (s.freeCtr + 1) % 256
  let lay := if s.lay.split then { s.lay with liveEW := ew, liveWE := we, retrained := true, splitPend := false } else s.lay
  let t : State := { s with
    freeCtr := s.freeCtr + 2, lay := lay, mods := s.mods.keep (fun m _ => modHalf m = 0)
    pond := s.pond.filter (fun e => e.half = 0), flume := s.flume.filter (fun e => e.half = 0)
    races := ⟨s.races.rows.map (fun kv => if kv.1 < 16 then kv else (kv.1, kv.2.reborn (s.fget Fld.RACE_REF_CFG_RFM_TH kv.1)))⟩
    fanW := {}, qrnW := {}, hstW := s.hstW.passage, tlyW := Tly.cut, mil := { s.mil with west := s.mil.west.again }
    brk := { s.brk with cause := s.brk.cause.keep (fun k _ => decide (instHalf (k / 64) (k % 64) = 0) || decide (k / 64 = Src.DRS_ISOL)) }
    boot := { s.boot with inReset := some .half, westUp := false, readyW := false, pend := none, settle := none, settled := false
                          closed := 0, trainQ := s.boot.trainQ.filter (fun r => r < 16) } }
  let t := t.clearIsol s.isolWord 0xFFFF0000
  let t := t.setCause 4
  if t.lay.split && (ew = 0 || we = 0) then t.raise Src.LAY_LINK 8 0 else t

/-- One race and its Spindle slice are reset (R454, R305). Reads that wait in it are discarded (R460). -/
def State.raceCore (s : State) (r : Nat) : State :=
  let old := s.isolWord
  let s := s.reload.endUnlock
  let s := s.rekey (fun l => regDomain l = r) [.a] (fun _ => false)
  let ids := ((s.race r).rq.filter (fun e => e.kind = .host)).map (fun e => e.id)
  let s := { s with hop := { s.hop with reqs := s.hop.reqs.keep (fun k _ => !(k ∈ ids)), resv := {} } }
  let s := s.stopRetrain r
  let s := (s.scrubDrop r).setRace r ((s.race r).reborn (s.fget Fld.RACE_REF_CFG_RFM_TH r))
  let s := { s with boot := { s.boot with trainQ := s.boot.trainQ.filter (· ≠ r) } }
  let s := s.clearIsol old (2 ^ r)
  let s := (s.causeOff Src.RACE_TMO r).causeOff Src.SPIN_LANE r
  if bit (retiredMask s.ld) r then s.raise Src.DRS_ISOL r 0 else s

/-! ### Broken pairs, and the pairs read afresh (R380, R387) -/

/-- DETAIL of BRK_WIRE (R388). -/
def wireDetail (src inst : Nat) : Nat := inst % 32 * 256 + src % 256
/-- The rails of a pair have been equal for 4 mc (R380): the pair is broken; a pair whose source has severity 4 acts at once. -/
def State.breakPair (s : State) (src inst : Nat) (inj quiet : Bool) : State :=
  let k := pairKey src inst
  let acts := decide (s.sevOf src = 4) && !s.brk.broken.get false k
  let s := { s with brk := { s.brk with
    broken := s.brk.broken.ins k true, equal := s.brk.equal.ins k true
    wirePair := if s.brk.cause.get false (pairKey Src.BRK_WIRE 0) then s.brk.wirePair else k } }
  let wire : RaiseEv := { src := Src.BRK_WIRE, inst := 0, detail := wireDetail src inst, inj := inj, quiet := quiet }
  let own : RaiseEv := { src := src, inst := inst, wire := true, inj := inj, quiet := quiet, sev := some 4 }
  s.raiseAll (if acts then [own, wire] else [wire])
/-- DETAIL of SPIN_LANE for a race that holds unrepaired dead lanes: the first of them, and the SID in which it was found. -/
def State.laneDetail (s : State) (r : Nat) : Nat :=
  let x := (s.race r).tr
  match x.dead.filter (fun d => decide (d % 64 < 40)) with
  | d :: _ => 128 * x.deadSid.get 0 d + d
  | [] => 0
/-- Level sources whose cause is active when the Brake reads the pairs afresh (R387): what the units hold, and the causes that a reset
leaves standing by their definition (R381), no test passed and no valid reading since the raise. -/
def State.lasting (s : State) : List RaiseEv :=
  let at_ := fun (src : Nat) (l : List Nat) => l.map (fun i => ({ src := src, inst := i } : RaiseEv))
  let one := fun (src i : Nat) (b : Bool) => if b then [({ src := src, inst := i } : RaiseEv)] else []
  ((List.range 32).filter (fun r => s.unrep r)).map (fun r => ({ src := Src.SPIN_LANE, inst := r, detail := s.laneDetail r } : RaiseEv))
    ++ at_ Src.DRS_ISOL ((List.range 32).filter (fun r => bit (s.fheld Fld.DRS_ISOL_ISOL) r))
    ++ at_ Src.HST_DRIVE ((List.range 8).filter (fun p => portFitted s.ld p && ((s.hst (p / 4)).drives.get {} (p % 4)).lost))
    ++ at_ Src.HST_MAP ((List.range 2).filter (fun h => (s.hst h).resync))
    ++ at_ Src.GOV_BK ((List.range 1).filter (fun i => s.brk.cause.get false (pairKey Src.GOV_BK i)))
    ++ at_ Src.GOV_TSENS ((List.range 24).filter (fun i => s.brk.cause.get false (pairKey Src.GOV_TSENS i)))
    ++ one Src.GOV_RAIL 0 s.gov.lowS ++ one Src.GOV_RAIL 1 s.gov.lowH ++ one Src.GOV_RAIL 2 s.gov.lowX ++ one Src.GOV_AON 0 s.gov.aonB
/-- DRS_FUSE for the entries that Dresser ignores (R299). -/
def State.badFuses (s : State) : State := s.raiseAll ((mapBad s.ld.map).map (fun i => { src := Src.DRS_FUSE, inst := 0, detail := i }))
/-- The Brake reads every pair afresh: pairs with equal rails are broken at once, causes that last raise anew. -/
def State.readAfresh (s : State) : State :=
  let wires := s.brk.equal.keys
  let last := s.lasting
  let s := { s with brk := { s.brk with cause := {}, broken := {} }
                    hstE := { s.hstE with ceilRaised := false, pressRaised := false }
                    hstW := { s.hstW with ceilRaised := false, pressRaised := false } }
  (each wires (fun k s => s.breakPair (k / 64) (k % 64) false false) s).raiseAll last

/-! ### Release (R24, R57, R267, R277, R333, R455, R458) -/

/-- A race comes out of its reset: it runs and trains in full unless it is retired (R267, R277, R305). -/
def State.startRace (s : State) (r : Nat) (train : Bool) : State :=
  if s.isolated r then s
  else
    let s := s.setRace r { s.race r with run := true, inReset := false }
    if train then { s with boot := { s.boot with trainQ := (s.boot.trainQ.filter (· < r)) ++ [r] ++ (s.boot.trainQ.filter (· > r)) } } else s
/-- Modules of a half at their release: TRAIN where they are enabled and the life cycle serves, else DISABLED. -/
def State.startMods (s : State) (l : List Nat) : State :=
  each l (fun m s =>
    let s := { s with mods := s.mods.ins m { st := .disabled }, out := { s.out with ucieIdle := s.out.ucieIdle && s.gov.pads } }
    if modFitted s.ld m && s.fheld Fld.HEAD_MOD_CTRL_EN m = 1 && s.hostService && !s.tst.inmode then s.toTrain m else s) s
/-- Hoist of a half begins to attach. -/
def State.startHoist (s : State) (h : Nat) : State :=
  if hoistFitted s.ld && s.hostService && !s.tst.inmode then
    { s.setHst h { s.hst h with st := .attach, attachAt := s.clk.age, judged := false } with out := { s.out with gpPerst := false } }
  else s
/-- The races of a release: those that keep their training go on with it. -/
def State.startRaces (s : State) (l : List Nat) (keep : Bool) : State :=
  if s.tst.inmode then s
  else each l (fun r s => s.startRace r (!keep || (s.fheld Fld.SPIN_STAT_RESULT r = 0 && (s.race r).tr.trainAt.isNone))) s
/-- What the device's release lets wait 0.1 ms: West, the modules, the races, both Hoists. -/
def State.releaseRest (s : State) (keep : Bool) : State :=
  let s := { s with boot := { s.boot with rest := none, westUp := true }, mil := { s.mil with west := { s.mil.west with up := true } } }
  (((s.startMods (List.range 20)).startRaces (List.range 32) keep).startHoist 0).startHoist 1
/-- At the boundary: East releases them 625 Turns after its own release. -/
def State.restTick (s : State) : State :=
  match s.boot.rest with
  | some (t, keep) => if s.boot.inReset.isNone && decide (s.clk.age ≥ t + 625) then s.releaseRest keep else s
  | none => s

/-! ### Low-power states (R354, R355) -/

/-- A host module through FURL or FULL FURL: the trained settings of an ACTIVE one are stored (R354). FULL FURL retains the rest; after FURL
its state is at its reset value, but for DISABLED and DOWN, and its link fields are lost (R19). -/
def ModSt.furl (x : ModSt) (full : Bool) : ModSt :=
  let x := { x with wasActive := x.st = .active, keptRate := x.rate, keptX32 := x.x32 }
  if full then x
  else { x.restarted (if x.st = .disabled ∨ x.st = .down then x.st else .train) with rate := 0, x32 := false }
/-- Governor's own domain through FURL: its N fields, counts and samples are lost (R19, R377). -/
def Gov.furl (g : Gov) : Gov :=
  { g with alert := false, alertNext := none, alertDue := none, drain := false, drainNext := false, drainDue := false, mfSample := false
           dipSample := false, okSample := false, mfCount := 0, epMains := false, endMains := false, dstep := {}, bstep := 0, istep := 0
           dfall := {}, bfall := 0, iLow := 0, dstepN := none, bstepN := none, istepN := none, temps := [], inval := {}, lastT := {}
           vbkQ := [], testDone := false, bkTest := false, bkHold := false, curAt := none }
/-- What FURL leaves of the registers: A and K in Keep SRAM and AON; FULL FURL keeps all. The unlock closes. -/
def State.furlDown (s : State) (full : Bool) (kept : Nat) : State :=
  let s := s.cutBurns.closeUnlock
  let s := { s with hop := { s.hop with resv := {} } }
  let s := { s with mods := s.mods.mapv (fun _ x => x.furl full) }
  if full then { s with tlyE := s.tlyE.pause, tlyW := s.tlyW.pause }
  else
    let s := s.rekey (fun l => regDomain l ≠ 79) [.a, .k] (fun _ => false)
    let s := s.loseSids kept
    { s with races := s.races.mapv (fun _ x => x.furl), lay := { liveEW := s.lay.liveEW, liveWE := s.lay.liveWE, split := s.lay.split }, weir := {}, fanE := {}, fanW := {}
             qrnE := {}, qrnW := {}, tlyE := Tly.cut, tlyW := Tly.cut, drs := {}, brk := { equal := s.brk.rails, cause := s.brk.outlast }, gov := s.gov.furl
             mil := s.mil.again, tst := {}, mmk := s.mmk.again, i3c := s.i3c.again }

end Sys2Proof.Machine
end

