-- ==== Sys2Proof/Machine/Headrace.lean ====
section
/-!
DEFINITION. Headrace, the host link (R53 to R92): module states, landing and judging a flit (R71 to R87), sending one (R73, R81,
R83, R87, R89), and the admission of R78 with the pools of R246.
-/
namespace Sys2Proof.Machine

/-! ### Admission (R78, R242, R246) -/

/-- HINT of a DEFER for lack of budget, by level (R245). -/
def levelHint (l : Nat) : Nat := ([1, 1, 2, 4, 8, 15, 15, 15] : List Nat).getD l 15
/-- Key of a (group, class). -/
def gcKey (g c : Nat) : Nat := 4 * g + c

/-- What the pools are asked for by one header (R78 step 9). -/
structure Need where
  m : Nat
  grp : Nat
  cls : Nat
  opc : Nat
  /-- cells of budget: cells of memory named; none for requests without an address -/
  cells : Nat
  target : Nat
  home : Nat
  rsp : Bool
  rspCells : Nat
deriving DecidableEq, Repr

/-- Millpond entries it needs: one a cell (R31). -/
def Need.pond (n : Need) : Nat := if Opc.pond n.opc then n.cells else 0
/-- Flume entries it needs. -/
def Need.flume (n : Need) : Nat := if n.opc = Opc.wrn then 1 else 0

/-- Response headers and cells of the transmit buffer in use or reserved (R79), of class 0 or of the other classes; the cells still to go
of a response whose header has left are held too. -/
def State.txUse (s : State) (m : Nat) (c0 : Bool) : Nat × Nat :=
  let x := s.mod m
  let held := x.tx.filter (fun r => r.c0 = c0)
  let open_ := s.hop.reqs.vals.filter (fun q => q.m = m ∧ !q.answered ∧ Opc.answered q.opc ∧ (decide (q.cls = 0)) = c0)
  let begun := match x.part with | some r => if r.c0 = c0 then r.cells.length else 0 | none => 0
  (held.length + open_.length, (held.map (fun r => r.cells.length)).sum + begun + (open_.map Req.nCells).sum)
/-- Barrier records of a half in use (R122). -/
def State.barUse (s : State) (h : Nat) : Nat :=
  countP (fun q : Req => Opc.barrier q.opc && q.home = h && q.open_) s.hop.reqs.vals
/-- Class-0 reserve entries of a half in use: Hopper, Millpond (R246). -/
def State.c0Hop (s : State) (h : Nat) : Nat := countP (fun q : Req => decide (q.cls = 0) && q.landHalf = h) s.hop.reqs.vals
def State.c0Pond (s : State) (h : Nat) : Nat :=
  countP (fun e : PondEnt => decide (e.cls = 0) && e.half = h) s.pond
    + ((s.hop.reqs.vals.filter (fun q => q.cls = 0 ∧ q.target = h ∧ Opc.pond q.opc ∧ q.phase = .accepted)).map
        (fun q => q.data.length)).sum
/-- Floor cells of a (group, class) that a module has left this Turn (R246). -/
def State.floorLeft (s : State) (x : ModSt) (k : Nat) : Nat := s.weir.floor - x.floorUsed.get 0 k

/-- Step 9 of R78: none where every entry is there, else the HINT of the DEFER. -/
def State.lacks (s : State) (n : Need) : Option Nat :=
  let x := s.mod n.m
  let k := gcKey n.grp n.cls
  if n.cls = 0 then
    let rate := s.fget Fld.WEIR_GRP_C0_RATE n.grp
    let onMod := bit (s.fget Fld.WEIR_GRP_C0_MODS n.grp) n.m
    let used := x.c0used.get 0 n.grp
    let tx := s.txUse n.m true
    let lim := if hoistFitted s.ld then min 32 (s.hst n.target).sNow else 32
    if used + n.cells > x.c0cap.get 0 n.grp && n.cells > 0 && (!onMod || rate = 0) then some 15
    else if used + n.cells > x.c0cap.get 0 n.grp && n.cells > 0 then some 1
    else if s.c0Hop (modHalf n.m) ≥ 32 then some 1
    else if n.pond > 0 && s.c0Pond n.target + n.pond > lim then some 1
    else if n.flume > (if n.target = 0 then x.flumeE else x.flumeW) then some 1
    else if n.rsp && (decide (tx.1 + 1 > 16) || decide (tx.2 + n.rspCells > 16)) then some 1
    else if Opc.barrier n.opc && decide (s.barUse n.home ≥ 256) then some 1
    else none
  else
    let cellsLeft := (x.slice.find? k).getD (s.floorLeft x k)
    let tx := s.txUse n.m false
    let hint := levelHint (s.weir.level.get 0 k)
    if n.cells > cellsLeft || x.hop = 0 || n.pond > (if n.target = 0 then x.pondE else x.pondW)
      || n.flume > (if n.target = 0 then x.flumeE else x.flumeW)
      || (n.rsp && (decide (tx.1 + 1 > 1024 - 16) || decide (tx.2 + n.rspCells > 1024 - 16)))
      || (Opc.barrier n.opc && decide (s.barUse n.home ≥ 256)) then some hint
    else none

/-- The pools after an ACCEPT (R78 step 10). -/
def ModSt.take (x : ModSt) (n : Need) : ModSt :=
  let k := gcKey n.grp n.cls
  let x := { x with demand := x.demand.upd 0 k (· + 1) }
  let x := { x with flumeE := if n.target = 0 then x.flumeE - n.flume else x.flumeE
                    flumeW := if n.target = 0 then x.flumeW else x.flumeW - n.flume }
  if n.cls = 0 then { x with c0used := x.c0used.upd 0 n.grp (· + n.cells) }
  else
    { x with
      hop := x.hop - 1
      pondE := if n.target = 0 then x.pondE - n.pond else x.pondE
      pondW := if n.target = 0 then x.pondW else x.pondW - n.pond
      slice := match x.slice.find? k with
        | some c => x.slice.ins k (c - n.cells)
        | none => x.slice
      floorUsed := if (x.slice.find? k).isSome then x.floorUsed else x.floorUsed.upd 0 k (· + n.cells) }

/-- Step 7 of R78: the half or halves that serve the request are serve-ready and their admission is open. During a
settle the admission of a half affected defers every request other than MGMT that lands there (R460). -/
def State.servesReq (s : State) (h : ReqHdr) (land target home : Nat) : Bool :=
  let open_ := fun x : Nat => s.serveReady x && !s.gov.closed && !bit s.boot.closed x
  if h.opc = Opc.mgmt then true
  else if bit s.boot.closed land then false
  else if Opc.addressed h.opc then open_ target
  else if h.opc = Opc.barS ∨ h.opc = Opc.barG then open_ home
  else if h.opc = Opc.barD then open_ 0 && open_ 1
  else open_ land

/-- What the sampler does with an accepted request (R404): its trigger count, and the request it captures. -/
def State.sample (s : State) (m id : Nat) (q : Req) : State :=
  let h := modHalf m
  let t := s.tly h
  if s.fget Fld.TLY_SAMP_CFG_EN 0 h = 1 ∧ s.fget Fld.TLY_SAMP_CFG_MOD 0 h = m % 10 then
    let valid := s.fheld Fld.TLY_SAMP1_VALID 0 h = 1
    let trig := decide (t.sampCt + 1 ≥ s.fget Fld.TLY_SAMP_CFG_PERIOD 0 h)
    let pend : Option Nat := if trig then (if valid then none else some 0) else t.sampTrig.map (· + 1)
    let ct := if trig then 0 else t.sampCt + 1
    let drop := trig && valid
    let s := if drop then s.fadd Fld.TLY_STAT_DROPPED 1 0 h else s
    match pend with
    | some k =>
      if !valid && t.sampReq.isNone && k ≤ 16 then
        let w : Word := BitVec.ofNat 64 ((if Opc.addressed q.opc then (q.addr / 64) % 2 ^ 34 else 0) * 2 ^ 30
          + q.stream * 2 ^ 18 + q.opc * 2 ^ 13 + q.cls * 2 ^ 11 + k)
        let s := s.setRaw .TLY_SAMP0 (Reg.key .TLY_SAMP0 0 h) w
        s.setTly h { t with sampCt := ct, sampTrig := none, sampReq := some id, sampLand := q.land, sampTurn := q.tstamp }
      else s.setTly h { t with sampCt := ct, sampTrig := if k < 16 then some k else none }
    | none => s.setTly h { t with sampCt := ct, sampTrig := none }
  else s

/-- Accept a request: it takes the next number (numbers ascend in issue order, R84), and its counts are made. -/
def State.accept (s : State) (n : Need) (h : ReqHdr) (mc : Nat) (data : List Cell) : State :=
  let id := s.hop.nextId
  let race := if Opc.addressed h.opc then s.raceAt h.addr else 0
  let land := modHalf n.m
  let store := Opc.store h.opc
  let q : Req := { m := n.m, opc := h.opc, stream := h.stream, tag := h.tag,
                   addr := if h.opc = Opc.mgmt then h.raw else h.addr, len := h.len, arg := BitVec.ofNat 64 h.arg, data := data,
                   psn := (h.opc = Opc.wr ∨ h.opc = Opc.wrn) && h.psn, cls := n.cls, grp := n.grp, landHalf := land,
                   home := n.home, target := n.target, race := race, turn := s.clk.age, land := s.at mc,
                   tstamp := s.clk.turn, c0 := n.cls = 0 }
  let s := { s with hop := { s.hop with reqs := s.hop.reqs.ins id q, nextId := id + 1 }
                    mods := s.mods.ins n.m ((s.mod n.m).take n) }
  let s := s.onAccept q
  let s := (((s.tallyMod n.m 2 1).tallyMod n.m 5 data.length).tallyCls land n.cls 0 1)
  let s := if Opc.addressed h.opc then
      let e := if store then 1 else 0
      let s := ((s.tallyCls land n.cls (2 + e) n.cells).tally land 2 (2 * n.grp + e) n.cells)
      let s := if Opc.pond h.opc then s.tallyStore n.target 0 n.pond else s
      let t := s.tly land
      let tt := s.tly n.target
      let s := s.setTly land { t with
        bwModR := if store then t.bwModR else t.bwModR.upd 0 (n.m % 10) (· + n.cells)
        bwModW := if store then t.bwModW.upd 0 (n.m % 10) (· + n.cells) else t.bwModW
        bwGrpR := if store then t.bwGrpR else t.bwGrpR.upd 0 n.grp (· + n.cells)
        bwGrpW := if store then t.bwGrpW.upd 0 n.grp (· + n.cells) else t.bwGrpW }
      let tt := if n.target = land then s.tly land else tt
      s.setTly n.target { tt with heatN := tt.heatN.upd 0 (h.addr / 2 ^ 21) (fun c => min 65535 (c + n.cells)) }
    else s
  let s := if Opc.pond h.opc then s.dirtyAt h.addr else s
  let v := h.addr / 2 ^ 21
  let hx := s.hst n.target
  let s := if store && (hx.chunks.find? v).isSome && !(v ∈ hx.held) then s.setHst n.target { hx with held := hx.held ++ [v] } else s
  s.sample n.m id q

/-- The request needs the other half than the one it landed in: its target, or for MGMT the half of its register (R78 step 5, R410); BAR.D
needs both. -/
def State.crosses (s : State) (h : ReqHdr) (land target : Nat) : Bool :=
  (Opc.addressed h.opc && target ≠ land) || h.opc = Opc.barD
    || (h.opc = Opc.mgmt && (match offsetHalf h.offset with | some d => decide (d ≠ land) | none => false))
/-- Judge one header (R78): the state after it and the verdict byte. `bad`: the flit has a protocol error. -/
def State.judge (s : State) (m mc : Nat) (bad : Bool) (h : ReqHdr) (data : List Cell) : State × Nat :=
  let land := modHalf m
  let race := s.raceAt h.addr
  let target := if Opc.addressed h.opc then raceHalf race else land
  -- during a split each half is the home of what lands in it (R469)
  let home := if s.splitNow then land else s.fget Fld.HOP_STREAM_HOME h.stream
  let cls := s.fget Fld.HOP_STREAM_CLASS h.stream
  let grp := s.fget Fld.HOP_STREAM_GROUP h.stream
  let x := s.mod m
  let final := fun (code : Nat) => (s.tallyMod m 4 1, verdict code 0)
  let defer := fun (s : State) (hint : Nat) =>
    let x := s.mod m
    let s := { s with mods := s.mods.ins m { x with fences := x.fences.ins h.stream hint
                                                    demand := x.demand.upd 0 (gcKey grp cls) (· + 1) } }
    let s := (s.tallyMod m 3 1).tallyCls land cls 1 1
    let s := if cls = 0 then (s.fadd Fld.WEIR_STATUS_C0_DEFER 1).tally land 6 14 1 else s
    (s, verdict Rc.defer hint)
  if s.brk.safe then final Rc.faulted
  else if bad || h.malformed (topOf s.ld) then final Rc.faulted
  else if s.fget Fld.HOP_STREAM_EN h.stream = 0 then final Rc.faulted
  else if h.opc = Opc.amo && !s.ld.fatom then final Rc.off
  else if s.splitNow && s.crosses h land target then final Rc.unreach
  else if Opc.addressed h.opc && s.raceOff race then final Rc.off
  else if !s.servesReq h land target home then defer s 15
  else
    match (if h.rty then none else x.fences.find? h.stream) with
    | some hint => defer s hint
    | none =>
      let s := if h.rty then { s with mods := s.mods.ins m { x with fences := x.fences.del h.stream } } else s
      let n : Need := { m := m, grp := grp, cls := cls, opc := h.opc, cells := if Opc.addressed h.opc then h.cells else 0,
                        target := target, home := home, rsp := Opc.answered h.opc, rspCells := h.rspCells }
      let waits : Option Nat := if Opc.store h.opc && (s.hst target).returned.contains race then some 15 else s.lacks n
      match waits with
      | some hint =>
        let s := if Opc.store h.opc && hoistFitted s.ld && (s.hst target).sNow = 0 then s.tallyStore target 7 1 else s
        defer s hint
      | none => (s.accept n h mc data, verdict Rc.ok 0)

/-! ### Receiving a flit -/

/-- Valid data cells of a flit in queue order (R71). -/
def flitCells (f : Flit) : List Cell :=
  (List.range 3).filterMap (fun i => if bit (flCv f) i then some (flCell f (i + 1)) else none)
/-- Headers by slot; an all-zero slot is empty. -/
def flitHdrs (f : Flit) : List (Option ReqHdr) :=
  (List.range 3).map (fun i => if flSlot f i = 0 then none else some (ReqHdr.parse (flSlot f i)))
/-- Claims in slot order (R71): the cells of each slot and those left; none where a claim is unknown or too large. -/
def claims : List (Option ReqHdr) → List (Cell × Nat) → Option (List (List Cell) × List (Cell × Nat))
  | [], q => some ([], q)
  | none :: r, q => (claims r q).map (fun x => ([] :: x.1, x.2))
  | some h :: r, q =>
    match h.claim with
    | none => none
    | some k => if q.length < k then none else (claims r (q.drop k)).map (fun x => ((q.take k).map Prod.fst :: x.1, x.2))

/-- Use the ACK and NAK of a flit with a good CRC (R87). -/
def ModSt.useAck (x : ModSt) (ack : Nat) (nak : Bool) : ModSt :=
  let hit := x.replay.any (fun e => e.1 = ack)
  let kept := if hit then (x.replay.dropWhile (fun e => e.1 ≠ ack)).drop 1 else x.replay
  let kept2 := if hit then x.resend.filter (fun e => kept.any (fun k => k.1 = e.1)) else x.resend
  let start := nak && (!x.hostNak || x.nakAck ≠ some ack)
  { x with
    replay := kept
    resend := if start then kept else kept2
    hostAck := ack
    hostNak := nak
    nakAck := if start then some ack else if nak then x.nakAck else none
    sent := x.sent.keep (fun q _ => kept.any (fun k => k.1 = q))
    loss := x.loss.filter (fun e => kept.any (fun k => k.1 = e.1))
    sameRep := x.sameRep.keep (fun q _ => kept.any (fun k => k.1 = q))
    postRecal := if hit then x.postRecal.map (fun _ => 0) else x.postRecal }

/-- Judge the headers of a landed flit in slot order. -/
def State.judgeAll (s : State) (m mc : Nat) (bad : Bool) : List (Option ReqHdr) → List (List Cell) → State × List Nat
  | [], _ => (s, [])
  | none :: r, cs => let x := s.judgeAll m mc bad r (cs.drop 1); (x.1, 0 :: x.2)
  | some h :: r, cs =>
    let y := s.judge m mc bad h (cs.headD [])
    let x := y.1.judgeAll m mc bad r (cs.drop 1)
    (x.1, y.2 :: x.2)

/-- A host request lands (R355): the idle count starts again, and wake source 0x8 fires (R359). -/
def State.landing (s : State) : State := { s with gov := { s.gov with idleTurns := 0 } }.wakeEvent 0x8
/-- A flit lands (R71, R72, R78, R81). -/
def State.land (s : State) (m mc : Nat) (f : Flit) : State :=
  let x := s.mod m
  let hdrs := flitHdrs f
  let n := x.landed + 1
  let q := x.dataQ ++ (flitCells f).map (fun c => (c, n))
  let cl := claims hdrs q
  let resv := hdrs.any (fun h => match h with | some h => h.reservedSet | none => false)
  let stale := match cl with | some (_, rest) => rest.any (fun e => decide (e.2 < n)) | none => true
  let bad := resv || stale
  let any := hdrs.any Option.isSome
  let x := { x with ack := flSeq f, nak := false, landed := n
                    dataQ := if bad then [] else (match cl with | some (_, rest) => rest | none => []) }
  let s := { s with mods := s.mods.ins m x }
  let s := if hdrs.any (fun h => match h with | some h => h.opc ≠ Opc.nop | none => false) then s.landing else s
  let s := s.tallyMod m 0 1
  let s := if bad then (s.fadd Fld.HEAD_MOD_ERR_PROTO 1 m).raise Src.HEAD_PROTO m 0 else s
  let y := s.judgeAll m mc bad hdrs (match cl with | some (cs, _) => cs | none => [])
  if any then
    let z := y.1.mod m
    { y.1 with mods := y.1.mods.ins m { z with verdQ := z.verdQ ++ [(flSeq f, y.2)] } }
  else y.1

/-- A null flit with a header or data mark that R65 requires to be zero: a protocol error with no header to answer (R72). -/
def State.badNull (s : State) (m : Nat) : State :=
  (({ s with mods := s.mods.ins m { s.mod m with dataQ := [] } } : State).fadd Fld.HEAD_MOD_ERR_PROTO 1 m).raise Src.HEAD_PROTO m 0
/-- Turns of a TRAIN attempt (10 ms), of the wait in OPEN (1 ms), of a RECAL (4 us) (R57). -/
def trainTurns : Nat := 62500
def openTurns : Nat := 6250
def recalTurns : Nat := 25
/-- The module exchanges flits: ACTIVE, or OPEN within its 1 ms (R57). -/
def ModSt.takes (x : ModSt) (age : Nat) : Bool := x.st = .active || (x.st = .open_ && decide (age ≤ x.stAt + openTurns))
/-- A downstream flit arrives (R57, R63 to R65, R83, R87). A null flit that holds the number next expected ends a NAK, though it takes
no number (log entry 98); one with another number is discarded, its marks unread. -/
def State.flitIn (s : State) (m mc : Nat) (f : Flit) : State :=
  let x := s.mod m
  if !x.takes s.clk.age then s
  else if !flGood f then
    let s := s.fadd Fld.HEAD_MOD_ERR_CRC 1 m
    { s with mods := s.mods.ins m { x with nak := true } }
  else
    let x : ModSt := { (x.useAck (flAck f) (flNak f)) with st := .active }
    let next := (x.ack + 1) % 1024
    if flNull f then
      let s := { s with mods := s.mods.ins m { x with nak := flSeq f ≠ next } }
      if flSeq f = next && ((flitHdrs f).any Option.isSome || flCv f ≠ 0) then s.badNull m else s
    else if flSeq f ≠ next || decide (x.verdQ.length ≥ 64) then { s with mods := s.mods.ins m { x with nak := true } }
    else ({ s with mods := s.mods.ins m x }).land m mc f

/-- The module is out of reset, its domain on and its pads not held (R358). -/
def State.modOn (s : State) (m : Nat) : Bool := s.domainOn (32 + m) && s.boot.rest.isNone && !s.gov.pads
def execFlitReceive (m mc : Nat) (flit : Flit) (s : State) : Host.Outcome State Fault Refusal :=
  .next (when (modFitted s.ld m && s.modOn m) (fun s => { s with clk := s.clkAt mc }.flitIn m mc flit) s)

/-! ### Sending a flit (R73, R81, R83, R87, R248) -/

/-- The next response header: class 0 first, oldest first (R248). -/
def nextResp (l : List Resp) : Option Resp :=
  match l.find? (fun r => r.c0) with
  | some r => some r
  | none => l.head?
/-- Fill header slots: n slots and `room` data cells left. Answers headers, cells, what is left of a begun response, the rest. -/
def packResp : Nat → Nat → List Resp → List (BitVec 128) × List Cell × Option Resp × List Resp
  | 0, _, l => ([], [], none, l)
  | n + 1, room, l =>
    match nextResp l with
    | none => ([], [], none, l)
    | some r =>
      if r.cells.length > 0 ∧ room = 0 then ([], [], none, l)
      else
        let now := r.cells.take room
        let left := r.cells.drop room
        let x := packResp n (room - now.length) (l.erase r)
        (r.hdr :: x.1, now ++ x.2.1, if left.isEmpty then x.2.2.1 else some { r with cells := left }, x.2.2.2)

/-- The upstream flit of an active module that is not replaying, and the module after it (R65, R73, R83). -/
def ModSt.newFlit (x : ModSt) : Flit × ModSt :=
  let pc := match x.part with | some r => r.cells.take 3 | none => []
  let pl := match x.part with | some r => (if r.cells.length > 3 then some { r with cells := r.cells.drop 3 } else none) | none => none
  let full := decide (x.replay.length ≥ 64)
  let pk := if pl.isSome || full then ([], [], none, x.tx) else packResp 3 (3 - pc.length) x.tx
  let cells := pc ++ pk.2.1
  let atoms := ((x.part.toList ++ x.tx.filter (fun r => !pk.2.2.2.contains r)).filter (fun r => r.atom)).map Resp.stream
  let ver := x.verdQ.head?
  if full || (ver.isNone && pk.1.isEmpty && cells.isEmpty) then
    (flBuild [] [] 0 x.txSeq x.ack 0 x.nak true false [], x)
  else
    let f := flBuild pk.1 cells (2 ^ cells.length - 1) x.txSeq x.ack ((ver.map Prod.fst).getD 0) x.nak false ver.isSome
      ((ver.map Prod.snd).getD [])
    (f, { x with verdQ := x.verdQ.drop 1, tx := pk.2.2.2, part := if pl.isSome then pl else pk.2.2.1
                 replay := x.replay ++ [(x.txSeq, f)], sent := x.sent.ins x.txSeq x.ftime, txSeq := (x.txSeq + 1) % 1024
                 loss := x.loss ++ atoms.map (fun st => (x.txSeq, st)) })

/-- Cells of data in a flit. -/
def flNCells (f : Flit) : Nat := countP (fun i => bit (flCv f) i) (List.range 3)

/-- A replayed flit leaves (R87, R89): counted, and the triggers of RECAL and of a link restart. The window of 65,536 flit times is a fixed
one (log entry 97). -/
def State.sendReplay (s : State) (m : Nat) (e : Nat × Flit) (rest : List (Nat × Flit)) : State :=
  let x := s.mod m
  let f := flRefresh e.2 x.ack x.nak
  let n := x.sameRep.get 0 e.1 + 1
  let thr := s.fget Fld.HEAD_MOD_CTRL_RECAL_THR m
  let x := { x with resend := rest, up := f, sameRep := x.sameRep.ins e.1 n, sent := x.sent.ins e.1 x.ftime, repWin := x.repWin + 1, postRecal := x.postRecal.map (· + 1) }
  let s := { s with mods := s.mods.ins m x }
  let s := (s.fadd Fld.HEAD_MOD_ERR_REPLAY 1 m).tallyMod m 7 1
  if (x.postRecal.getD 0) ≥ 4 then s.linkRestart m
  else if n ≥ 4 || (thr ≠ 0 && decide (x.repWin > thr)) then s.enterRecal m
  else s

/-- One flit time of an open or active module. -/
def State.flitOut (s : State) (m : Nat) : State :=
  let x := s.mod m
  let tick := { x with flitCt := (x.flitCt + 1) % 65536, repWin := if x.flitCt + 1 ≥ 65536 then 0 else x.repWin
                       ftime := x.ftime + 1 }
  let s1 := { s with mods := s.mods.ins m tick }
  if x.st = .open_ then
    { s with mods := s.mods.ins m { tick with up := flBuild [] [] 0 x.txSeq x.ack 0 x.nak true false [] } }
  else if x.st = .active then
    match x.resend with
    | e :: rest => s1.sendReplay m e rest
    | [] =>
      let y := tick.newFlit
      let s2 := { s with mods := s.mods.ins m { y.2 with up := y.1 } }
      if flNull y.1 then s2 else (s2.tallyMod m 1 1).tallyMod m 6 (flNCells y.1)
  else s

def execUpstreamFlitSend (m mc : Nat) (s : State) : Host.Outcome State Fault Refusal :=
  .next (when (modFitted s.ld m && s.modOn m) (fun s => { s with clk := s.clkAt mc }.flitOut m) s)

/-- The oldest unacknowledged flit has waited 256 flit times (R87): resend from it. -/
def execReplayTimeout (m : Nat) (s : State) : Host.Outcome State Fault Refusal :=
  let x := s.mod m
  .next (match x.replay with
    | [] => s
    | e :: _ => when (s.modOn m && x.st = .active && decide (x.ftime ≥ x.sent.get 0 e.1 + 256))
      (fun s => { s with mods := s.mods.ins m { x with resend := x.replay, sent := x.sent.ins e.1 x.ftime } }) s)

/-! ### Module states (R57) -/

/-- A module leaves service for DISABLED or DOWN: its held responses are discarded as at a link restart (R57 to R59). -/
def State.modOff (s : State) (m : Nat) (st : ModState) : State :=
  let s := (s.discardResp m).fset Fld.HEAD_MOD_CTRL_RECAL 0 m
  { s with mods := s.mods.ins m { (s.mod m).restarted st with stAt := s.clk.age } }

/-- What a write of HEAD_MOD_CTRL does beside storing its fields (R57, R92): old and new word of an existing module. Where the life cycle
gives no host service, and in test mode, every module stays DISABLED (R429, R451). A RESTART that finds
the module in TRAIN or DISABLED, and a RECAL outside ACTIVE, are dropped and their bits read 0 (log entry 99). -/
def hookModCtrl (m : Nat) (old new : Word) (s : State) : State :=
  let en := bit new.toNat 0
  let was := bit old.toNat 0
  let x := s.mod m
  let s := s.fset Fld.HEAD_MOD_CTRL_RESTART 0 m
  let s := s.fset Fld.HEAD_MOD_CTRL_RECAL (b2n (en && x.st = .recal && bit old.toNat 6)) m
  if was && !en then s.modOff m .disabled
  else if !was && en then (if s.hostService && !s.tst.inmode then s.toTrain m else s)
  else if bit new.toNat 1 && en then
    match x.st with
    | .down => s.toTrain m
    | .open_ | .active | .recal => s.linkRestart m
    | .train | .disabled => s
  else if bit new.toNat 6 && x.st = .active then
    (s.fset Fld.HEAD_MOD_CTRL_RECAL 1 m).enterRecal m
  else s

def execHostRecalRequest (m : Nat) (s : State) : Host.Outcome State Fault Refusal :=
  .next (when (modFitted s.ld m && s.modOn m && (s.mod m).st = .active) (fun s => s.enterRecal m) s)

/-- UCIe training reaches link active within its attempt (R57, R60): at a rate not above the RATE_MAX, and at x32 only under the X32_OK,
that stood at the entry to TRAIN. Each degrade to x32 raises HEAD_LINK. -/
def execUcieLinkActive (m rate repaired : Nat) (x32 : Bool) (s : State) : Host.Outcome State Fault Refusal :=
  let x := s.mod m
  .next (when (modFitted s.ld m && s.modOn m && x.st = .train && decide (s.clk.age ≤ x.stAt + trainTurns) && decide (rate ≤ x.rateCap)
      && (!x32 || x.x32Cap))
    (fun s =>
      let s := { s with mods := s.mods.ins m { x with st := .open_, stAt := s.clk.age, attempts := 0, rate := rate, x32 := x32 } }
      let s := s.fset Fld.HEAD_MOD_STATUS_REPAIRED repaired m
      if x32 then s.raise Src.HEAD_LINK m 0 else s) s)

def execTrainAttemptTimeout (m : Nat) (s : State) : Host.Outcome State Fault Refusal :=
  let x := s.mod m
  .next (when (modFitted s.ld m && s.modOn m && x.st = .train && decide (s.clk.age ≥ x.stAt + trainTurns))
    (fun s =>
      if x.attempts + 1 ≥ 3 then ({ s with mods := s.mods.ins m { x.restarted .down with stAt := s.clk.age } }).raise Src.HEAD_LINK m 0
      else { s with mods := s.mods.ins m { x with attempts := x.attempts + 1, stAt := s.clk.age } }) s)

def execOpenTimeout (m : Nat) (s : State) : Host.Outcome State Fault Refusal :=
  .next (when (modFitted s.ld m && s.modOn m && (s.mod m).st = .open_ && decide (s.clk.age ≥ (s.mod m).stAt + openTurns)) (fun s => s.linkRestart m) s)

def execRecalComplete (m repaired : Nat) (s : State) : Host.Outcome State Fault Refusal :=
  .next (when (modFitted s.ld m && s.modOn m && (s.mod m).st = .recal && decide (s.clk.age ≤ (s.mod m).stAt + recalTurns))
    (fun s =>
      let s := { s with mods := s.mods.ins m { s.mod m with st := .active, stAt := s.clk.age, postRecal := some 0 } }
      (s.fset Fld.HEAD_MOD_STATUS_REPAIRED repaired m).fset Fld.HEAD_MOD_CTRL_RECAL 0 m) s)

def execRecalTimeout (m : Nat) (s : State) : Host.Outcome State Fault Refusal :=
  .next (when (modFitted s.ld m && s.modOn m && (s.mod m).st = .recal && decide (s.clk.age ≥ (s.mod m).stAt + recalTurns)) (fun s => s.linkRestart m) s)

end Sys2Proof.Machine
end

