-- ==== Sys2Proof/Machine/Weir.lean ====
section
/-!
DEFINITION. Weir (R237 to R259): usable slots, f1 and budgets, levels, the drain limit, and the distribution of slices and entries
to the modules; with the limit of R320 on store entries.
-/
namespace Sys2Proof.Machine

/-! ### Usable capacity (R243, R275) -/

/-- Fitted modules. -/
def State.modsFitted (s : State) : List Nat := (List.range 20).filter (fun m => modFitted s.ld m)
/-- A pseudo-race of the race is live for the next Turn. -/
def State.live (s : State) (r : Nat) : Bool := !s.raceOff r && !((s.race r).isoAt.isSome) && (r < 16 || s.boot.westUp || s.boot.readyW)
/-- Plan and held slots of pr for the next Turn. -/
def State.heldNext (s : State) (r pr : Nat) : List Nat :=
  let n := s.thermNext r
  if n = 0 then [] else heldSlots (s.nextTable r) ((s.race r).nextPlan pr) (s.heldAt n)
/-- u(p). -/
def State.usable (s : State) (r pr : Nat) : Nat :=
  if !s.live r || (s.race r).tr.retrain then 0
  else 128 - ((s.race r).nextPlan pr).slots.length - countCode (s.nextTable r) 9 - (s.heldNext r pr).length
/-- c1(p): C1 entries that neither the plan nor Governor has taken. -/
def State.c1Of (s : State) (r pr : Nat) : Nat :=
  if !s.live r then 0
  else
    let t := s.nextTable r
    let held := s.heldNext r pr
    countP (fun i => decide (t.getD i 0 = 2) && !(((s.race r).nextPlan pr).slots.any (fun e => e.slot = i)) && !held.contains i) (List.range 128)
/-- C1 entries of p that refresh takes or Governor holds. -/
def State.c1Taken (s : State) (r pr : Nat) : Nat := if s.live r then countCode (s.nextTable r) 2 - s.c1Of r pr else 0
/-- Sum over the pseudo-races. -/
def sumPr (f : Nat → Nat → Nat) : Nat := ((List.range 32).map (fun r => f r 0 + f r 1)).sum

/-! ### Budgets (R244, R247) -/

/-- ACCEPT and DEFER counts of a (group, class) on a module in this Turn. -/
def ModSt.count (x : ModSt) (k : Nat) : Nat := x.demand.get 0 k
/-- The (group, class) is demanding: counted in this Turn or the last. -/
def State.demanding (s : State) (k : Nat) : Bool :=
  s.modsFitted.any (fun m => decide ((s.mod m).demand.get 0 k + (s.mod m).demandOld.get 0 k > 0))
/-- Hoist has pages to copy, a scan to read or a chunk to write. -/
def Hst.works (x : Hst) : Bool :=
  !x.stage.isEmpty || !x.jobs.rows.isEmpty || !x.scan.isEmpty
    || (x.headerOpen && (!x.dirty.rows.isEmpty || x.exposed.rows.any (fun kv => decide (kv.2 < 256) && (x.chunks.find? kv.1).isNone)))
/-- Alert in the next Turn, as the Alert window of this Turn has decided (R35, R37, R346). -/
def State.alertAhead (s : State) : Bool := s.gov.alertNext.getD (s.gov.alertDue.getD s.gov.alert)
/-- A drain in the next Turn: its signal has been given (R329, R348). -/
def State.drainAhead (s : State) : Bool := s.gov.drain || s.gov.drainDue
/-- A background unit has class-3 work: the pseudo-group BG is demanding. Hoist's requests are class 1 in Alert and in a drain (R238). -/
def State.bgWork (s : State) : Bool :=
  let quern := fun q : Qrn => !q.piece.isEmpty || !q.prio.isEmpty || !q.again.isEmpty
  quern s.qrnE || quern s.qrnW || s.tlyE.stage ≠ 0 || s.tlyW.stage ≠ 0
    || (!s.alertAhead && !s.drainAhead && (s.hstE.works || s.hstW.works))
/-- Groups that demand a class. -/
def State.groupsOf (s : State) (c : Nat) : List Nat := (List.range 64).filter (fun g => s.demanding (gcKey g c))
/-- Admitted class-1 slots n1. -/
def State.n1 (s : State) : Nat := 2 * ((List.range 32).map (fun r => (s.race r).admC1)).sum
def State.a0 (s : State) : Nat := s.fheld Fld.WEIR_STATUS_A0

/-- f1 as a fraction, and what limits it: by C1 entries that refresh or Governor took, by capacity (R244, R259). -/
structure F1 where
  num : Nat
  den : Nat
  held : Bool
  cap : Bool
deriving DecidableEq, Repr
/-- a/b < c/d. -/
def fracLt (a b c d : Nat) : Bool := decide (a * d < c * b)
/-- f1 of n1 admitted slots, of which c1 are left after refresh and Governor took `taken` of the tables that run, the room for classes 1 to
3, the sum of the shares and Hoist's part. -/
def F1.of (n1 c1 taken room S hst : Nat) : F1 :=
  if n1 = 0 then ⟨1, 1, false, false⟩
  else
    let d3 := n1 * (S * (1000 - hst) + 1000 * hst)
    let a : F1 := if c1 < n1 then ⟨c1, n1, decide (taken > 0), false⟩ else ⟨1, 1, false, false⟩
    if d3 = 0 then a
    else if fracLt (room * 10 ^ 6) d3 a.num a.den then ⟨room * 10 ^ 6, d3, false, true⟩ else a

/-- Factor of a level, as numerator over 64 (R245). -/
def levelFactor (l : Nat) : Nat := ([64, 48, 32, 16, 8, 4, 2, 1] : List Nat).getD l 1

/-- Scale the entries of a budget table that satisfy p down so that their sum falls by `cut`; answers what is left to cut. -/
def cutBudget (t : Tbl Nat) (p : Nat → Bool) (cut : Nat) : Tbl Nat × Nat :=
  let sum := ((t.keep (fun k _ => p k)).vals).sum
  if cut = 0 then (t, 0)
  else if sum ≤ cut then (t.keep (fun k _ => !p k), cut - sum)
  else (t.mapv (fun k v => if p k then v * (sum - cut) / sum else v), 0)

/-- The result of a Weir recalculation. -/
structure WeirOut where
  f1 : F1
  budget : Tbl Nat
  hoist1 : Nat
deriving DecidableEq, Repr
/-- The budgets of R244 and R247, keyed 4 × group + class (BG: group 64). Class-1 excess is kept apart until the drain limit has
been taken. The levels are those before this window's own change (log entry 138). -/
def State.weirCalc (s : State) : WeirOut :=
  let cap := sumPr s.usable
  let a0 := s.a0
  let room := cap - a0
  let n1 := s.n1
  let alert := s.alertAhead
  let drain := s.drainAhead
  let hst := if alert && hoistFitted s.ld then s.fget Fld.WEIR_CFG_ALERT_HST else 0
  let g1 := s.groupsOf 1
  let share := fun g => s.fget Fld.WEIR_GRP_SHARE1 g
  let S := (g1.map share).sum
  let f := F1.of n1 (sumPr s.c1Of) (sumPr s.c1Taken) room S hst
  let assured := g1.map (fun g => (g, if n1 = 0 then 0 else share g * n1 * (1000 - hst) * f.num / (10 ^ 6 * f.den)))
  let hoist1 := if n1 = 0 then hst * room / 1000 else hst * n1 * f.num / (1000 * f.den)
  let free := room - (assured.map Prod.snd).sum - hoist1
  let w2 := fun g => s.fget Fld.WEIR_GRP_W2 g
  let w3 := fun g => s.fget Fld.WEIR_GRP_W3 g
  -- whose part it is, its weight, the (group, class) whose level scales it: a class-1 excess goes as (g, 2)
  let asks : List (Nat × Nat × Nat) := g1.map (fun g => (gcKey g 1, w2 g, gcKey g 2)) ++ (s.groupsOf 2).map (fun g => (gcKey g 2, w2 g, gcKey g 2))
    ++ (s.groupsOf 3).map (fun g => (gcKey g 3, w3 g, gcKey g 3)) ++ (if s.bgWork then [(gcKey 64 3, 4, gcKey 64 3)] else [])
  let sumW := (asks.map (fun a => a.2.1)).sum
  let part := fun (a : Nat × Nat × Nat) =>
    let b := if sumW = 0 then 0 else free * a.2.1 * levelFactor (s.weir.level.get 0 a.2.2) / (sumW * 64)
    if alert then b / 2 else b
  let excess := asks.foldl (fun (t : Tbl Nat) a => t.put 0 a.1 (part a)) {}
  let ass := assured.foldl (fun (t : Tbl Nat) e => t.put 0 (gcKey e.1 1) e.2) {}
  let host := fun k => decide (k < 256)
  let total := ((excess.keep (fun k _ => host k)).vals).sum + ass.vals.sum
  let cut := if drain then total - (cap / 4 - a0) else 0
  let x3 := cutBudget excess (fun k => host k && k % 4 = 3) cut
  let x2 := cutBudget x3.1 (fun k => host k && k % 4 = 2) x3.2
  let x1 := cutBudget x2.1 (fun k => host k && k % 4 = 1) x2.2
  let xa := cutBudget ass (fun _ => true) x1.2
  -- in a drain Hoist's budget is what the host's limit leaves (R316)
  { f1 := f, hoist1 := if drain && hoistFitted s.ld then cap - cap / 4 else hoist1
    budget := xa.1.rows.foldl (fun (t : Tbl Nat) kv => t.put 0 kv.1 (t.get 0 kv.1 + kv.2)) x1.1 }

/-! ### Levels (R245) -/

/-- A HIGH value not above its LOW value is used as LOW + 1. -/
def State.rqHigh (s : State) (r : Nat) : Nat := max (s.fget Fld.WEIR_WM_RQ_HIGH r) (s.fget Fld.WEIR_WM_RQ_LOW r + 1)
def State.wqHigh (s : State) (r : Nat) : Nat := max (s.fget Fld.WEIR_WM_WQ_HIGH r) (s.fget Fld.WEIR_WM_WQ_LOW r + 1)
def State.hot (s : State) (r : Nat) : Bool := decide ((s.race r).rqLvl ≥ s.rqHigh r) || decide ((s.race r).wqLvl ≥ s.wqHigh r)
def State.cool (s : State) (r : Nat) : Bool :=
  decide ((s.race r).rqLvl ≤ s.fget Fld.WEIR_WM_RQ_LOW r) && decide ((s.race r).wqLvl ≤ s.fget Fld.WEIR_WM_WQ_LOW r)
/-- Hopper and Millpond entries in use by a (group, class). -/
def State.entriesOf (s : State) (k : Nat) : Nat :=
  countP (fun q : Req => q.cls ≠ 0 && gcKey q.grp q.cls = k) s.hop.reqs.vals
    + countP (fun e : PondEnt => !e.tally && e.cls ≠ 0 && gcKey (s.fget Fld.HOP_STREAM_GROUP e.stream) e.cls = k) s.pond
/-- Entries that classes 1 to 3 may use: both Hoppers and both Millponds less the reserves. -/
def entriesAll : Nat := 2 * (4096 - 32) + 2 * (8192 - 32)
/-- The (group, class) holds more entries than its part, in proportion to its budget of this Turn. -/
def State.overShare (s : State) (k : Nat) : Bool :=
  let sum := s.weir.budget.vals.sum
  let use := s.entriesOf k
  decide (use > 0) && decide (use * sum > entriesAll * s.weir.budget.get 0 k)
/-- The levels and the cool count for the next Turn. -/
def State.nextLevels (s : State) : Tbl Nat × Nat :=
  let live := (List.range 32).filter s.live
  let ks := (List.range 64).flatMap (fun g => [gcKey g 1, gcKey g 2, gcKey g 3])
  if live.any s.hot then
    (ks.foldl (fun (t : Tbl Nat) k => if s.overShare k then t.put 0 k (min 7 (t.get 0 k + 1)) else t) s.weir.level, 0)
  else if live.all s.cool then
    if s.weir.cool + 1 ≥ s.fget Fld.WEIR_CFG_RELAX_TURNS then ((s.weir.level.mapv (fun _ l => l - 1)).keep (fun _ l => l ≠ 0), 0)
    else (s.weir.level, s.weir.cool + 1)
  else (s.weir.level, 0)

/-- The limit on store entries of a half for the next Turn (R320); no limit without a granary. -/
def State.storeLimit (s : State) (h : Nat) : Nat :=
  if !hoistFitted s.ld then 8192 + 256
  else
    let x := s.hst h
    if x.shut || s.drainAhead then 0 else x.ceil - fillRes - x.dirtyTotal - x.sNow

def execWeirRecalculation (s : State) : Host.Outcome State Fault Refusal :=
  .next (when (s.mainsOn && decide (s.clk.mc ≤ 207) && !s.clk.weirDone && !(s.gov.ps = .idle))
    (fun s =>
      let o := s.weirCalc
      let w := { s.weir with
        budgetN := some o.budget, hoist1N := o.hoist1, f1N := some (1000 * o.f1.num / o.f1.den), heldN := o.f1.held, capN := o.f1.cap
        alertN := s.alertAhead, drainN := s.drainAhead, isolN := (List.range 32).any (fun r => s.raceOff r || (s.race r).isoAt.isSome)
        hotN := (List.range 32).any (fun r => s.live r && s.hot r), levelN := some s.nextLevels
        sE := s.storeLimit 0, sW := s.storeLimit 1 }
      { s with weir := w, clk := { s.clk with mc := max s.clk.mc 112, weirDone := true } }) s)

/-! ### Distribution (R246) -/

/-- The slices of a module: its part of each budget, by its ACCEPT and DEFER counts of this Turn, whole cells, none where it rounds
to zero. -/
def State.slices (s : State) (budget : Tbl Nat) (m : Nat) : Tbl Nat :=
  (budget.keep (fun k _ => decide (k < 256))).rows.foldl (fun (t : Tbl Nat) kv =>
    let total := (s.modsFitted.map (fun j => (s.mod j).count kv.1)).sum
    t.put 0 kv.1 (if total = 0 then 0 else kv.2 * (s.mod m).count kv.1 / total)) {}
/-- Hand n entries out one at a time in ascending order, `floor` to each at most. -/
def floorHand (mods : List Nat) (floor n : Nat) : Tbl Nat :=
  let k := mods.length
  let per := if k = 0 then 0 else min floor (n / k)
  let extra := if per < floor then n - per * k else 0
  (mods.zipIdx).foldl (fun (t : Tbl Nat) e => t.put 0 e.1 (per + (if e.2 < extra then 1 else 0))) {}
/-- FLOOR entries to each module first, the rest in proportion to the slices. -/
def handOut (mods : List Nat) (floor n : Nat) (wt : Nat → Nat) : Tbl Nat :=
  let base := floorHand mods floor n
  let rest := n - base.vals.sum
  let sum := (mods.map wt).sum
  mods.foldl (fun (t : Tbl Nat) m => t.put 0 m (base.get 0 m + (if sum = 0 then 0 else rest * wt m / sum))) {}
/-- Store entries of a half for classes 1 to 3: bounded by the free entries and by the limit less the class-0 reserve (R320). -/
def storeRoom (limit free : Nat) : Nat := if limit < 32 then 0 else min free (limit - 32)

def State.distribute (s : State) : State :=
  let budget := s.weir.budgetN.getD s.weir.budget
  let mods := s.modsFitted
  let floor := s.fget Fld.WEIR_CFG_FLOOR
  let sl := mods.foldl (fun (t : Tbl (Tbl Nat)) m => t.ins m (s.slices budget m)) {}
  let wt := fun m => ((sl.get {} m).vals).sum
  let fr := fun i => s.weir.free0.getD i 0
  let east := mods.filter (fun m => modHalf m = 0)
  let west := mods.filter (fun m => modHalf m ≠ 0)
  let hopE := handOut east floor (fr 0) wt
  let hopW := handOut west floor (fr 1) wt
  let pE := handOut mods floor (storeRoom s.weir.sE (fr 2)) wt
  let pW := handOut mods floor (storeRoom s.weir.sW (fr 3)) wt
  let fE := handOut mods floor (min (fr 4) (storeRoom s.weir.sE (fr 2 + fr 4) - pE.vals.sum)) wt
  let fW := handOut mods floor (min (fr 5) (storeRoom s.weir.sW (fr 3 + fr 5) - pW.vals.sum)) wt
  let pool := mods.foldl (fun (t : Tbl Pool) m => t.ins m
    { slice := sl.get {} m, hop := hopE.get 0 m + hopW.get 0 m, pondE := pE.get 0 m, pondW := pW.get 0 m
      flumeE := fE.get 0 m, flumeW := fW.get 0 m }) {}
  let used := fun (lim : Nat) (a b : Tbl Nat) => if lim < 32 then lim else 32 + a.vals.sum + b.vals.sum
  let setS := fun (x : Hst) n => { x with sNext := n }
  { s with weir := { s.weir with poolN := some pool, floorN := floor }
           hstE := setS s.hstE (used s.weir.sE pE fE), hstW := setS s.hstW (used s.weir.sW pW fW) }
def execDistribution (s : State) : Host.Outcome State Fault Refusal :=
  .next (when (s.mainsOn && !s.clk.distDone && !(s.gov.ps = .idle))
    (fun s =>
      let s := s.distribute
      { s with clk := { s.clk with mc := max s.clk.mc 208, distDone := true } }) s)

/-! ### The bound and guarantee admission (R249 to R254) -/

/-- A0: the sum over the groups of C0_RATE × fitted modules in C0_MODS (R241). -/
def State.allowance (s : State) : Nat :=
  ((List.range 64).map (fun g => s.fheld Fld.WEIR_GRP_C0_RATE g
    * countP (fun m => bit (s.fheld Fld.WEIR_GRP_C0_MODS g) m) s.modsFitted)).sum
/-- Flit time of a module in thirds of a nanosecond (R56): rate codes 8, 16, 24, 32 GT/s. -/
def flitThirds (rate : Nat) (x32 : Bool) : Nat :=
  (match rate with | 0 => 12 | 1 => 6 | 2 => 4 | _ => 3) * (if x32 then 2 else 1)
/-- Places of the C0 entries of a table. -/
def c0Places (t : List Nat) : List Nat := (List.range t.length).filter (fun i => t.getD i 0 = 1)
/-- Largest gap of a table, counted cyclically (R254). -/
def tableGap (t : List Nat) : Nat :=
  match c0Places t with
  | [] => 0
  | a :: l => ((List.zipWith (fun x y => y - x) (a :: l) (l ++ [a + 128])).foldl max 0)
/-- Gap from the last C0 entry of one table to the first of the next; 0 where the first holds none. -/
def joinGap (a b : List Nat) : Nat :=
  match (c0Places a).getLast?, (c0Places b).head? with
  | some x, some y => y + 128 - x
  | _, _ => 0
/-- D of R250 in mc: gap g, allowance a0, crossing x. -/
def State.boundMc (s : State) (r g a0 x : Nat) : Nat :=
  let T := s.tim r
  let k0 := 4 * a0 - 1
  let p := 1 + 2 * x
  let cross := 4 * x + p * (6 + k0)
  let bank := max T.ras (T.rcd + T.wl + tBURST + T.wr) + T.rp + max T.rfcpb T.rfm + T.rcd
  let ta := T.wl + tBURST + T.wtrL
  4 + cross + 2 + bank + T.aaw + ta + (2 * ((k0 + 1 + 2) * g) - 2) + (T.cmd + T.rl + tBURST + T.ret) + 2 + cross + 2
/-- The bound in thirds of a nanosecond: the (2 + ceil(n0 / 3))-th flit boundary at or after D, with flit time f. -/
def State.boundThirds (s : State) (r g a0 x f : Nat) : Nat :=
  (ceilDiv (15 * s.boundMc r g a0 x) (8 * f) + 1 + ceilDiv (4 * a0 - 1) 3) * f
/-- Modules that may send class-0 requests. -/
def State.c0Mods (s : State) : List Nat :=
  s.modsFitted.filter (fun m => (List.range 64).any (fun g => bit (s.fheld Fld.WEIR_GRP_C0_MODS g) m && decide (s.fheld Fld.WEIR_GRP_C0_RATE g > 0)))
/-- x(r): such a module lies in the other half. -/
def State.crossOf (s : State) (r : Nat) : Nat := if s.c0Mods.any (fun m => modHalf m ≠ raceHalf r) then 1 else 0
/-- Longest flit time of a module in any C0_MODS. -/
def State.longestFlit (s : State) : Nat :=
  (s.modsFitted.filter (fun m => (List.range 64).any (fun g => bit (s.fheld Fld.WEIR_GRP_C0_MODS g) m))).foldl
    (fun n m => max n (flitThirds (s.mod m).rate (s.mod m).x32)) 3
/-- commit_check of R254 for a race, its shadow table against its active one: 0 where it passes, else the check that fails. -/
def State.commitCheck (s : State) (r : Nat) : Nat :=
  let sh := s.shdTable r
  let nref := 24 + s.fheld Fld.RACE_REF_CFG_RFM_PER_TURN r
  let c0 := countCode sh 1
  let c1 := countCode sh 2
  let a0 := s.a0
  if c0 + c1 > 78 * (128 - nref) / 100 then 1
  else if 128 - c0 - c1 - countCode sh 9 < nref then 2
  else if a0 = 0 then 0
  else if c0 = 0 then 3
  else if s.boundThirds r (max (tableGap sh) (joinGap (s.actTable r) sh)) a0 (s.crossOf r) s.longestFlit > 1260 then 4
  else 0
/-- The bound of a race for its shadow table, in ns rounded up; 0 without an allowance. -/
def State.boundNs (s : State) (r : Nat) : Nat :=
  if s.a0 = 0 then 0
  else ceilDiv (s.boundThirds r (max (tableGap (s.shdTable r)) (joinGap (s.actTable r) (s.shdTable r))) s.a0 (s.crossOf r) s.longestFlit) 3

end Sys2Proof.Machine
end

