-- ==== Sys2Proof/Machine/Governor.lean ====
section
/-!
DEFINITION. Governor and AON (R343 to R377): supplies and Alert, the drain signal, backup energy, power states with their entry
handshake and wake, WATCH, heat and current.
-/
namespace Sys2Proof.Machine

/-! ### Supplies (R343 to R345, R349) -/

/-- Turns of n hours. -/
def hourTurns (n : Nat) : Nat := n * 22500000000
/-- RUN or IDLE. -/
def State.awake (s : State) : Bool := s.gov.ps = .run || s.gov.ps = .idle
/-- MIN_VDD: the lowest VDD seen, in mV above 0.600 V. -/
def Gov.seeVdd (g : Gov) (mv : Nat) : Gov := { g with minVdd := min g.minVdd (min 255 (mv - 600)) }
/-- A rail's undervoltage cause begins or ends. -/
def State.railCause (s : State) (inst : Nat) (below : Bool) : State :=
  if below then s.raise Src.GOV_RAIL inst 0 else s.causeOff Src.GOV_RAIL inst
/-- A confirmed crossing takes effect. -/
def State.cross (s : State) (rail : Rail) (below : Bool) (mv : Nat) : State :=
  let g := s.gov
  match rail with
  | .vddWarn => { s with gov := { g.seeVdd mv with belowWarn := below, dip := g.dip || below
                                                   belowRel := g.belowRel || below } }
  | .vddRelease =>
    { s with gov := { g.seeVdd mv with belowRel := below, vddOkSince := if below then g.vddOkSince else s.now } }
  | .vddReset => if below then (({ s with gov := g.seeVdd mv }).powerOn 2 false) else s
  | .vddRetention => { s with gov := { g with retLost := g.retLost || below } }
  | .vddqS => ({ s with gov := { g with lowS := below } }).railCause 0 below
  | .vddqH => ({ s with gov := { g with lowH := below } }).railCause 1 below
  | .vaux => ({ s with gov := { g with lowX := below } }).railCause 2 below
def execSupplyCrossing (rail : Rail) (below : Bool) (mv : Nat) (s : State) : Host.Outcome State Fault Refusal :=
  .next (when (if rail = .vddRetention then s.gov.ps = .furl || s.gov.ps = .fullFurl else s.awake && !s.boot.aonDown)
    (fun s => s.cross rail below mv) s)

/-- AON is lost: nothing of the block works until the next power-up, which is a power-on reset (R344). -/
def State.loseAon (s : State) : State :=
  let t := s.powerOn 1 false
  { t with boot := { t.boot with aonDown := true } }
/-- AON switches to VAON_B; GOV_AON while MAIN_FAIL is clear. Below both levels AON is lost. -/
def execAonSupplySwitch (backupOk : Bool) (s : State) : Host.Outcome State Fault Refusal :=
  .next (when (!s.boot.aonDown && !s.gov.aonB)
    (fun s =>
      if backupOk then
        let t := { s with gov := { s.gov with aonB := true } }
        if s.gov.mfLevel then t else t.raise Src.GOV_AON 0 0
      else s.loseAon) s)
def execAonSupplyReturn (s : State) : Host.Outcome State Fault Refusal :=
  .next (when (!s.boot.aonDown && s.gov.aonB) (fun s => ({ s with gov := { s.gov with aonB := false } }).causeOff Src.GOV_AON 0) s)
/-- A capacitance test in progress ends with no result: BK_TEST is released (R352). -/
def State.stopTest (s : State) : State :=
  if s.gov.bkTest then { s.fset Fld.GOV_BK_STAT_TEST 0 with gov := { s.gov with bkTest := false } } else s
/-- AON latches an assertion of 80 ns or more, which stops a capacitance test at once (R352); one below 40 ns has no effect (R345, R477). -/
def execMainFailAssert (ns : Nat) (s : State) : Host.Outcome State Fault Refusal :=
  .next (when (s.pulseSeen ns 40 80 && !s.boot.aonDown)
    (fun s => { s with gov := { s.gov with mfLatch := true, mfLevel := true } }.stopTest) (s.pulseDrawn ns 40 80))

/-! ### Power states: asking the domains (R355 to R357) -/

/-- What a domain answers to an entry: 0 READY, 1 DELAY, 2 REFUSE (R356). -/
def State.domAnswer (s : State) (e : PState) (d : Nat) : Nat :=
  let idle := decide (e = .idle)
  let delay := fun b : Bool => if b then 1 else 0
  if d < 32 then
    let x := s.race d
    if idle then delay (x.rq.any (fun q => q.kind = .host) || x.wq.any (fun q => !q.stores.isEmpty) || !x.fau.isEmpty)
    else delay ((List.range s.nsid).any (fun sd => s.keepsSid sd && s.sidBusy d sd) || !x.hand.rows.isEmpty)
  else if d < 52 then
    let x := s.mod (d - 32)
    delay (!x.tx.isEmpty || x.part.isSome || !x.resend.isEmpty || x.st = .recal)
  else if d < 60 then 0
  else if d < 62 then
    let h := d - 60
    delay (s.hop.reqs.vals.any (fun q => q.landHalf = h) || s.pond.any (fun p => p.half = h && !(idle && p.tally)) || s.flume.any (fun p => p.half = h))
  else if d < 64 then
    let c := s.core (d - 62)
    let own := fun v : Serve => decide (v.opc = 0x40) && s.gov.entryCore = some (d - 62)
    let busy := fun v : Option Serve => match v with | some v => !(idle && own v) | none => false
    delay (busy c.cur || busy c.bg || !c.queue.isEmpty)
  else if idle then 0
  else if d < 66 then
    let x := s.hst (d - 64)
    delay (!(x.st = .sealed || (s.gov.entryDrain && x.st = .failed)))
  else if d < 68 then delay ((s.fan (d - 66)).running.isSome || !(s.training (d - 66)).isEmpty)
  else if d < 70 then delay (!(s.qrn (d - 68)).piece.isEmpty)
  else if d < 72 then delay ((s.tly (d - 70)).stage ≠ 0)
  else if d = 77 then (if s.openByState || s.tst.acc1149 || s.tst.acc1838 then 2 else 0)
  else if d = 78 then (if s.drs.burn.isSome then 2 else 0)
  else 0
/-- Domains that are on. -/
def State.onDomains (s : State) : List Nat := (List.range 80).filter s.domainOn

/-- An entry ends without its state: RESULT and REFUSER, admission open again, Hoist back to service. `res` none: no result (IDLE not
reached). -/
def State.abandon (s : State) (res : Option (Nat × Nat)) : State :=
  let s := match res with
    | some (r, d) => (s.fset Fld.GOV_PWR_CTRL_RESULT r).fset Fld.GOV_PWR_CTRL_REFUSER d
    | none => s
  let s := (s.fset Fld.GOV_PWR_CTRL_GO 0).fset Fld.GOV_PWR_CTRL_BUSY 0
  let s := { s with gov := { s.gov with entry := none, allReady := false, ready := [], closed := false, entryAuto := false
                                        entryCore := none, idleTurns := 0 } }
  (s.entryOff 0).entryOff 1
/-- Every domain is READY (R358): for a state other than IDLE, PERST# is asserted toward the drives and the UCIe lanes go to electrical idle,
then the pads are latched. -/
def State.latchPads (s : State) (e : PState) : State :=
  if e = .idle then s
  else { s with gov := { s.gov with pads := true }
                out := { s.out with gpPerst := true, ucieIdle := true, tstPads := some (s.out.tstPads.getD s.tst.pads) } }
/-- Governor asks every domain at a Turn boundary; one that has answered READY stays ready. -/
def State.askTick (s : State) : State :=
  match s.gov.entry with
  | none => s
  | some e =>
    if s.gov.allReady then s
    else
      let on := s.onDomains
      match (on.find? (fun d => d ∉ s.gov.ready && s.domAnswer e d = 2)), s.gov.entryDrain with
      | some d, false => s.abandon (some (1, d))
      | _, _ =>
        let ready := on.filter (fun d => d ∈ s.gov.ready || s.domAnswer e d = 0)
        let all := on.all (fun d => d ∈ ready) || (s.gov.entryDrain && decide (s.clk.age ≥ s.gov.entryAt + 64))
        if e = .idle && !all && decide (s.clk.age ≥ s.gov.entryAt + 16) then s.abandon none
        else
          let t := { s with gov := { s.gov with ready := ready, allReady := all, closed := s.gov.closed || e ≠ .idle } }
          if all then t.latchPads e else t

/-- The code of a power state (R377). -/
def PState.code : PState → Nat
  | .run => 0 | .idle => 1 | .furl => 2 | .fullFurl => 3 | .off => 4
def PState.of : Nat → Option PState
  | 0 => some .run | 1 => some .idle | 2 => some .furl | 3 => some .fullFurl | 4 => some .off | _ => none
/-- A request of a state begins its entry; RUN is answered at once. The unlock closes at the first request of FURL, FULL FURL or
OFF (R442). -/
def State.requestState (s : State) (p : PState) (core : Option Nat) (auto drain : Bool) : State :=
  let s := if auto then s else ((s.fset Fld.GOV_PWR_CTRL_REQ p.code).fset Fld.GOV_PWR_CTRL_RESULT 0).fset Fld.GOV_PWR_CTRL_REFUSER 0
  if p = .run then
    { s.fset Fld.GOV_PWR_CTRL_GO 0 with gov := { s.gov with ps := if s.gov.ps = .idle then .run else s.gov.ps, idleTurns := 0 } }
  else if p = s.gov.ps then s.fset Fld.GOV_PWR_CTRL_GO 0
  else
    let s := (if auto then s else s.fset Fld.GOV_PWR_CTRL_GO 1).fset Fld.GOV_PWR_CTRL_BUSY 1
    let s := if p = .idle then s else s.closeUnlock
    let s := { s with gov := { s.gov with entry := some p, entryAt := s.clk.age, entryAuto := auto, entryDrain := drain, entryCore := core
                                          ready := [], allReady := false, avsFail := false } }
    if s.gov.alert && !drain then s.abandon (some (3, 0)) else s

/-- Firmware writes GOV_PWR_CTRL.GO. A request during another entry, or of a reserved state, has no effect; in the safe state none
is made (R355). -/
def execPowerStateRequest (half req : Nat) (s : State) : Host.Outcome State Fault Refusal :=
  .next (match PState.of req with
    | some p => when (decide (half < 2) && s.awake && s.mainsOn && s.gov.entry.isNone && !s.brk.safe)
        (fun s => s.requestState p (some half) false false) s
    | none => s)
/-- Auto-idle asks for IDLE. -/
def execAutoIdle (s : State) : Host.Outcome State Fault Refusal :=
  .next (when (s.gov.ps = .run && s.mainsOn && s.fb Fld.GOV_PWR_CFG_AUTO_IDLE && s.gov.entry.isNone && !s.brk.safe && !s.gov.alert && !s.gov.drain
      && decide (s.gov.idleTurns ≥ s.fget Fld.GOV_PWR_CFG_IDLE_AFTER))
    (fun s => s.requestState .idle none true false) s)
/-- ENTRY_TMO ms have passed without every domain READY. -/
def execPowerEntryTimeout (s : State) : Host.Outcome State Fault Refusal :=
  .next (match s.gov.entry with
    | some e => when (!(e = .idle) && !s.gov.allReady && !s.gov.entryDrain
        && decide (s.clk.age ≥ s.gov.entryAt + msTurns (s.fget Fld.GOV_PWR_CFG_ENTRY_TMO)))
        (fun s => s.abandon (some (2, (s.onDomains.find? (fun d => d ∉ s.gov.ready && s.domAnswer e d = 1)).getD 0))) s
    | none => s)

/-! ### Completing an entry (R354, R355, R358, R364) -/

/-- SIDs that a state keeps in self-refresh. -/
def State.keptBy (s : State) (e : PState) : Nat :=
  let fit := 2 ^ s.nsid
  match e with
  | .furl => (if s.gov.entryDrain then s.fget Fld.GOV_PWR_CFG_DRAIN_SIDS else s.fget Fld.GOV_PWR_CFG_KEEP_SIDS) % fit
  | .fullFurl => fit - 1
  | _ => 0
/-- Every SID to be kept has been handed over by every race that runs. -/
def State.handedAll (s : State) (e : PState) : Bool :=
  (List.range 32).all (fun r => !s.raceRuns r || (List.range s.nsid).all (fun sd => !bit (s.keptBy e) sd || (s.race r).sref.get false sd))
/-- Rail levels of a state in mV: VDD, VDDQ_S, VDDQ_H (R365). -/
def railsOf : PState → Nat × Nat × Nat
  | .run | .idle => (750, 400, 450)
  | .fullFurl => (650, 0, 0)
  | .furl => (600, 0, 0)
  | .off => (0, 0, 0)
/-- The rails stand at a state's levels. -/
def Gov.setRails (g : Gov) (p : PState) : Gov := { g with vdd := (railsOf p).1, vddqS := (railsOf p).2.1, vddqH := (railsOf p).2.2 }
/-- The rails stand at a state's levels. -/
def Gov.railsAt (g : Gov) (p : PState) : Bool := (g.vdd, g.vddqS, g.vddqH) = railsOf p
/-- One acknowledged step of lowering the rails to a state's levels (R365, R367; log entry 64): VDDQ_H and VDDQ_S are turned off by one write
each, VDD moves by STEP_MV at most; a target of 0 turns it off. -/
def Gov.lower (g : Gov) (stepMv : Nat) (p : PState) : Gov :=
  let t := railsOf p
  if g.vddqH ≠ t.2.2 then { g with vddqH := t.2.2 }
  else if g.vddqS ≠ t.2.1 then { g with vddqS := t.2.1 }
  else { g with vdd := if t.1 = 0 then 0 else max t.1 (g.vdd - stepMv) }
/-- The state whose levels the rails are being lowered to: that of an entry whose domains are READY and whose SIDs are handed over, or that
to which a failed wake returns (R355, R362). -/
def State.lowering (s : State) : Option PState :=
  match s.gov.entry with
  | some e => if s.gov.allReady && s.handedAll e && !(e = .idle) && !s.gov.avsFail then some e else none
  | none => if !s.awake && (s.gov.wake.isNone || s.gov.wakeWait) && !s.gov.railsAt s.gov.ps then some s.gov.ps else none
/-- The state is entered. -/
def State.enterState (s : State) (e : PState) : State :=
  let kept := s.keptBy e
  let s := if e = .run then s else s.stopTest
  let s := match e with
    | .furl => s.furlDown false kept
    | .fullFurl => s.furlDown true kept
    | .off => s.loseSids 0
    | _ => s
  let s := ((s.fset Fld.GOV_PWR_CTRL_GO 0).fset Fld.GOV_PWR_CTRL_BUSY 0).fset Fld.GOV_PWR_CTRL_RESULT 0
  let g := { s.gov with ps := e, entry := none, allReady := false, ready := [], entryAuto := false, entryCore := none, avsFail := false }
  let g := if e = .idle then g
    else { g with kept := kept, watchMf := false, sleepAt := s.clk.age, watchAt := s.clk.age, drainFurl := s.gov.entryDrain, retLost := false, watchHyst := {}
                  srr := if s.fget Fld.GOV_PWR_CFG_WATCH_MS = 0 then (List.range 16).foldl (fun (t : Tbl Nat) d => t.put 0 d 2) {} else g.srr }
  let s := { s with gov := { g with wake := g.wakeLatch.map (fun c => (c, 0, 0)), wakeLatch := none }
                    boot := if e = .idle then s.boot else { s.boot with pend := none } }
  s
def execPowerStateEntryComplete (s : State) : Host.Outcome State Fault Refusal :=
  .next (match s.gov.entry with
    | some e => when (s.gov.allReady && s.handedAll e && (e = .idle || s.gov.avsFail || s.gov.railsAt e)) (fun s => s.enterState e) s
    | none => s)
/-! ### Waking (R359 to R362) -/

/-- An address match of a target that holds a dynamic address; target 0 management, 1 attestation. -/
def execWakeI3cMatch (target : Nat) (s : State) : Host.Outcome State Fault Refusal :=
  .next (when (!s.boot.aonDown && (if target = 0 then s.i3c.mgmtAddr.isSome else decide (target = 1) && s.i3c.attAddr.isSome))
    (fun s => s.wakeEvent 1) s)
def execWakeSideband (m : Nat) (s : State) : Host.Outcome State Fault Refusal :=
  .next (when (modFitted s.ld m && s.fheld Fld.HEAD_MOD_CTRL_EN m = 1) (fun s => s.wakeEvent 2) s)
def execWakeNLow (ns : Nat) (s : State) : Host.Outcome State Fault Refusal :=
  .next (when (s.pulseSeen ns 500 1000 && !s.boot.aonDown) (fun s => s.wakeEvent 3) (s.pulseDrawn ns 500 1000))
def execWakeTimer (s : State) : Host.Outcome State Fault Refusal :=
  .next (when (!s.awake && decide (s.clk.age ≥ s.gov.sleepAt + msTurns (s.fheld Fld.GOV_WAKE_TIMER_MS))) (fun s => s.wakeEvent 4) s)
/-- MAIN_FAIL has been clear for MAIN_OK ms in the furl after a drain. -/
def execWakeMainsReturn (s : State) : Host.Outcome State Fault Refusal :=
  .next (when (s.gov.ps = .furl && s.gov.drainFurl && !s.gov.mfLevel
      && decide (s.now ≥ s.gov.mfOkSince + 256 * msTurns (s.fget Fld.GOV_PWR_CFG_MAIN_OK)))
    (fun s => s.wakeEvent 6) s)

/-- Races and modules after a wake from FURL or FULL FURL: the resume check of trained races, a recalibration of the modules that
were ACTIVE (R361). -/
def State.resumeUnits (s : State) : State :=
  let s := each (List.range 32) (fun r s =>
    let x := s.race r
    if s.isolated r || !x.run then s
    else
      let ok := s.fheld Fld.SPIN_STAT_RESULT r = 1 || s.fheld Fld.SPIN_STAT_RESULT r = 2
      let s := s.setRace r { x with refOn := true, tr := { x.tr.restart s.clk.age with hold := ok } }
      if ok then s.fset Fld.SPIN_STAT_STATE 4 r else s) s
  each (List.range 20) (fun m s =>
    if modFitted s.ld m && s.fheld Fld.HEAD_MOD_CTRL_EN m = 1 then
      let x := s.mod m
      if x.wasActive then
        ({ s with mods := s.mods.ins m { x with wasActive := false, rate := x.keptRate, x32 := x.keptX32 } } : State).enterRecal m
      else match x.st with
        | .train => s.toTrain m
        | .open_ | .active | .recal => s.linkRestart m
        | .disabled | .down => s
    else s) s
/-- The held pads are released after a wake; races and modules resume (R358, R361). -/
def State.releasePads (s : State) : State :=
  let t := { s with gov := { s.gov with pads := false, resume := false }, out := { s.out with ucieIdle := false, tstPads := none } }
  if s.gov.resume then t.resumeUnits else t
/-- Firmware writes PAD_RELEASE. -/
def execPadRelease (half : Nat) (s : State) : Host.Outcome State Fault Refusal :=
  .next (when (decide (half < 2) && s.mainsOn && s.gov.pads) (fun s => s.releasePads) s)
/-- The wake is complete: fields of Kept code F are loaded again (R19); a burned advance to RETURNED or SCRAPPED makes it a power-on reset
(R431; log entry 104). The SRR lines stay as AON drives them (R200). -/
def State.wakeUp (s : State) : State :=
  let full := decide (s.gov.ps = .fullFurl)
  let g := s.gov
  let pend := g.wakeFailPend
  if s.lcPower then s.powerOn 1 false
  else if g.ps = .off || g.retLost then
    -- a retry of the power-on sequence has no wake source
    let t := s.powerOn (match g.wake with | some (0, _, _) => 1 | _ => 7) true
    if pend then { t with gov := { t.gov with wakeFailPend := true } } else t
  else if g.drainFurl then s.drainRestart
  else
    let s := s.reload
    let s := { s with gov := { g.setRails .run with ps := .run, wake := none, closed := false, idleTurns := 0, wakeFailPend := false, resume := true
                                                    minVdd := if full then g.minVdd else 0xFF }
                      mil := { east := { s.mil.east with up := true }, west := { s.mil.west with up := s.boot.westUp } } }
    let s := (s.hoistWake 0 g.kept full).hoistWake 1 g.kept full
    -- the Brake was off in FURL, held in FULL FURL (R379): it sees what its pairs show now
    let s := if full then s.raiseAll s.lasting else s.readAfresh
    if pend then s.raise Src.GOV_WAKE 0 0 else s
/-- The sequence begins, or completes once every rail has been acknowledged; from IDLE it is one step. -/
def execWakeSequence (s : State) : Host.Outcome State Fault Refusal :=
  .next (match s.gov.wake with
    | none => s
    | some (c, st, n) =>
      if s.gov.ps = .idle then { s with gov := { s.gov with ps := .run, wake := none, idleTurns := 0 } }
      else if s.gov.wakeWait then s
      else if st = 0 then { s with gov := { s.gov with wake := some (c, 1, n) } }
      else when (decide (st ≥ 4)) (fun s => s.wakeUp) s)

/-- A regulator acknowledges: the next step of the rail, or the next rail (R367). -/
def Gov.ack (g : Gov) (stepMv c st n : Nat) : Gov :=
  if st = 1 then
    let v := if g.vdd = 0 then 750 else min 750 (g.vdd + stepMv)
    { g with vdd := v, wake := some (c, if v = 750 then 2 else 1, n) }
  else if st = 2 then { g with vddqS := 400, wake := some (c, 3, n) }
  else if st = 3 then { g with vddqH := 450, wake := some (c, 4, n) }
  else g
def execRegulatorAck (s : State) : Host.Outcome State Fault Refusal :=
  .next (match s.lowering, s.gov.wake with
    | some p, _ => { s with gov := s.gov.lower (s.fheld Fld.GOV_AVS_CFG_STEP_MV) p }
    | none, some (c, st, n) => when (!s.gov.wakeWait) (fun s => { s with gov := s.gov.ack (s.fheld Fld.GOV_AVS_CFG_STEP_MV) c st n }) s
    | none, none => s)
/-- No acknowledgement (why 1 to 3: VDD, VDDQ_S, VDDQ_H) or no oscillator (4): GOV_AVS in RUN and in an entry, which then leaves the rails as
they stand (R367); the first or second failure of a wake otherwise, after which the rails return (R362); AVS_ERR counts each missing acknowledgement (log entry 107). -/
def State.wakeFails (s : State) (why c n : Nat) : State :=
  let g := s.gov
  if n = 0 then { s with gov := { g with wakeWait := true, failAt := s.clk.age, wake := some (c, 0, 0) } }
  else
    let s := (s.fset Fld.GOV_WAKE_FAIL 1).fset Fld.GOV_WAKE_FAIL_WHY why
    { s with gov := { g with wake := none, wakeWait := false, wakeFailPend := true }
             out := if s.i3c.ibiMgmt then { s.out with ibi := ⟨0, 0x101, why, 0⟩ :: s.out.ibi } else s.out }
def execRegulatorAckTimeout (why : Nat) (s : State) : Host.Outcome State Fault Refusal :=
  .next (when (decide (1 ≤ why) && decide (why ≤ 4) && !s.boot.aonDown)
    (fun s =>
      let s := if why ≤ 3 then s.fadd Fld.GOV_SUP_STAT_AVS_ERR 1 else s
      if s.gov.ps = .run || (s.awake && s.gov.entry.isSome) then
        (if why ≤ 3 then ({ s with gov := { s.gov with avsFail := s.gov.avsFail || s.lowering.isSome } } : State).raise Src.GOV_AVS (why - 1) 0 else s)
      else
        match s.gov.wake with
        | some (c, st, n) => if st ≥ 1 && !s.gov.wakeWait then s.wakeFails why c n else s
        | none => s) s)
/-- 200 µs after a failed first attempt the sequence runs once more. -/
def execWakeRetry (s : State) : Host.Outcome State Fault Refusal :=
  .next (match s.gov.wake with
    | some (c, _, _) => when (s.gov.wakeWait && decide (s.clk.age ≥ s.gov.failAt + 1250))
        (fun s => { s with gov := { s.gov with wakeWait := false, wake := some (c, 1, 1) } }) s
    | none => s)

/-! ### Alert and the drain signal (R346 to R350) -/

/-- Alert comes into force. -/
def State.alertOn (s : State) : State :=
  let g := s.gov
  let s := { s with gov := { g with alert := true, alertDue := none, epStart := s.clk.age }
                    flume := s.flume.map (fun (e : FlumeEnt) => { e with closed := true }), hstE := s.hstE.onAlert, hstW := s.hstW.onAlert }
  let s := s.stopTest
  let s := if s.gov.entry.isSome && !s.gov.allReady then s.abandon (some (3, 0)) else s
  s.wakeEvent 7
def execAlertEnter (s : State) : Host.Outcome State Fault Refusal :=
  .next (when (s.gov.alertDue = some true && !s.gov.alert) (fun s => s.alertOn) s)
/-- Alert ends: the episode is counted, the drain disarmed. -/
def execAlertEnd (s : State) : Host.Outcome State Fault Refusal :=
  .next (when (s.gov.alertDue = some false && s.gov.alert && !s.gov.drain)
    (fun s =>
      let mains := s.gov.endMains
      let s := { s with gov := { s.gov with alert := false, alertDue := none, idleTurns := 0 }
                        hstE := s.hstE.offAlert, hstW := s.hstW.offAlert }
      s.fadd (if mains then Fld.GOV_SUP_STAT_MAINS else Fld.GOV_SUP_STAT_DIPS) 1) s)
/-- A fill that the safe state stopped starts again from its first burst (R460). -/
def Race.refill (x : Race) : Race := { x with fill := x.fill.map (fun f => { f with doneA := 0, doneB := 0 }) }
/-- The drain signal: both Hoists drain, a pending reset is discarded (R456). -/
def execDrainSignal (s : State) : Host.Outcome State Fault Refusal :=
  .next (when (s.gov.drainDue && !s.gov.drain)
    (fun s =>
      let s := s.fadd Fld.GOV_SUP_STAT_DRAINS 1
      let s := (s.heatUpdate 0).heatUpdate 1
      { s with gov := { s.gov with drain := true, drainDue := false, drainNext := false }, hstE := s.hstE.onDrain, hstW := s.hstW.onDrain
               races := if s.brk.safe then s.races.mapv (fun _ x => x.refill) else s.races
               boot := { s.boot with pend := none, after := none, settle := none, settled := false, closed := 0 } }) s)
/-- Every fitted Hoist has sealed or is FAILED: the furl after a drain is asked for (R350). -/
def State.drainFurlTick (s : State) : State :=
  let ok := fun x : Hst => x.st = .sealed || x.st = .failed || x.st = .off
  if s.gov.drain && s.gov.entry.isNone && s.awake && (!hoistFitted s.ld || (ok s.hstE && ok s.hstW)) then
    s.requestState .furl none true true
  else s

/-! ### Backup energy (R351, R352) -/

/-- EMEAS of the capacitor model: CBK in 10 mF, voltages in mV. -/
def emeasOf (c vbk vmin : Nat) : Nat := if vbk ≤ vmin then 0 else min 4095 (c * (vbk * vbk - vmin * vmin) / 200000000)
/-- Publish EMEAS; Hoist computes its ceilings. -/
def State.setEmeas (s : State) (e : Nat) : State := ((s.fset Fld.GOV_BK_STAT_EMEAS e).newCeil 0).newCeil 1
def State.publish (s : State) : State :=
  let vbk := (s.gov.vbkQ.filter (fun e => decide (s.clk.age < e.1 + 65536))).head?.elim s.gov.vbkNow Prod.snd
  let s := s.fset Fld.GOV_BK_STAT_VBK (min 65535 vbk)
  let nom := s.fheld Fld.GOV_BK_CFG_CBK_NOM
  let c := if s.gov.testDone then min nom (s.fheld Fld.GOV_BK_STAT_CBK) else nom
  let e := if s.gov.bkTest || s.gov.bkHold then s.emeas
    else if s.fheld Fld.GOV_BK_CFG_MODE = 1 then (match s.gov.setBk with
      | some (v, t) => if s.clk.age ≥ t + msTurns 10000 then 0 else v
      | none => 0)
    else emeasOf c vbk (s.fheld Fld.GOV_BK_CFG_VBK_MIN)
  s.setEmeas e
def execEmeasPublish (s : State) : Host.Outcome State Fault Refusal :=
  .next (when (s.mainsOn && decide (s.clk.turn % 65536 = 0) )
    (fun s => s.publish) s)
/-- MODE 1 without a SET_BACKUP for 10 s. -/
def execEmeasExpire (s : State) : Host.Outcome State Fault Refusal :=
  .next (when (s.mainsOn && s.fheld Fld.GOV_BK_CFG_MODE = 1 && !s.gov.bkTest && !s.gov.bkHold && (match s.gov.setBk with
      | some (_, t) => decide (s.clk.age ≥ t + msTurns 10000)
      | none => true))
    (fun s => s.setEmeas 0) s)
def execCapacitanceTestStart (s : State) : Host.Outcome State Fault Refusal :=
  .next (when (s.gov.ps = .run && s.mainsOn && !s.gov.alert && !s.gov.mfSample && !s.gov.mfLatch && !s.gov.mfLevel && !s.gov.bkTest
      && (match s.gov.testAt with | some t => decide (s.clk.age ≥ t) | none => false))
    (fun s => { s.fset Fld.GOV_BK_STAT_TEST 1 with
      gov := { s.gov with bkTest := true, bkHold := true, testPre := s.gov.vbkNow, testFrom := s.clk.age
                          testAt := some (s.clk.age + hourTurns (s.fheld Fld.GOV_BK_CFG_BK_PERIOD)) } }) s)
/-- The test's outcome (R352). `recovered`: VBK has returned to its value before the test. -/
def State.endTest (s : State) (dv : Nat) (recovered : Bool) : State :=
  let s := { s with gov := { s.gov with bkTest := false, bkHold := !recovered } }
  if dv < 10 then
    { s.fset Fld.GOV_BK_STAT_TEST 4 with gov := { s.gov with testAt := some (s.clk.age + hourTurns 1) } }
  else
    let c := s.fheld Fld.GOV_BK_CFG_ITEST * s.fheld Fld.GOV_BK_CFG_TTEST / dv
    let low := decide (2 * c < s.fheld Fld.GOV_BK_CFG_CBK_NOM)
    let s := (s.fset Fld.GOV_BK_STAT_CBK (min 65535 c)).fset Fld.GOV_BK_STAT_TEST (if low then 3 else 2)
    let s := { s with gov := { s.gov with testDone := true } }
    if low then s.raise Src.GOV_BK 0 0 else s.causeOff Src.GOV_BK 0
def execCapacitanceTestEnd (dv : Nat) (recovered : Bool) (s : State) : Host.Outcome State Fault Refusal :=
  .next (when (s.gov.bkTest && decide (s.clk.age ≥ s.gov.testFrom + msTurns (s.fheld Fld.GOV_BK_CFG_TTEST)))
    (fun s => (s.endTest dv recovered).publish) s)

/-! ### Heat and current (R368 to R371) -/

/-- A reading that counts: it arrived and lies in -40 to 150 °C. -/
def validTemp (t : TempRead) : TempRead := match t with | some v => if v < -40 ∨ v > 150 then none else some v | none => none
/-- The sensor is fitted. -/
def State.sensorFitted (s : State) (d : Nat) : Bool := decide (d < 4 * s.nsid) || (decide (16 ≤ d) && decide (d < 24))
/-- A temperature as the 8 bits of GOV_TEMP. -/
def tempByte (t : Int) : Nat := (t % 256).toNat
/-- One sensor's sample (R368): GOV_TEMP, and the causes that end. -/
def State.sampleTemp (s : State) (d : Nat) (t : TempRead) : State :=
  let k := Reg.key .GOV_TEMP d 0
  match t with
  | none =>
    let s := s.setRaw .GOV_TEMP k (BitVec.ofNat 64 (bits (s.raw .GOV_TEMP k).toNat 0 8))
    { s with gov := { s.gov with inval := s.gov.inval.put 0 d (s.gov.inval.get 0 d + 1) } }
  | some v =>
    let s := s.setRaw .GOV_TEMP k (BitVec.ofNat 64 (2 ^ 31 + tempByte v))
    let s := { s with gov := { s.gov with inval := s.gov.inval.put 0 d 0, lastT := s.gov.lastT.ins d v } }
    let s := s.causeOff Src.GOV_TSENS d
    if v > 110 then s else s.causeOff Src.GOV_TEMP d
/-- What a sample raises: GOV_TEMP above 110 °C, GOV_TSENS at the third invalid reading in succession. -/
def State.tempRaises (s : State) (d : Nat) (t : TempRead) : List RaiseEv :=
  match t with
  | none => if s.gov.inval.get 0 d + 1 = 3 then [{ src := Src.GOV_TSENS, inst := d }] else []
  | some v => if v > 110 then [{ src := Src.GOV_TEMP, inst := d, detail := tempByte v }] else []
/-- Governor reads every fitted sensor. -/
def State.sampleTemps (s : State) (temps : List TempRead) : State :=
  let l := (List.range 24).map (fun d => if s.sensorFitted d then validTemp (temps.getD d none) else none)
  let fit := (List.range 24).filter s.sensorFitted
  let evs := fit.flatMap (fun d => s.tempRaises d (l.getD d none))
  let s := { s with gov := { s.gov with temps := l } }
  (each fit (fun d s => s.sampleTemp d (l.getD d none)) s).raiseAll evs

/-- Highest n whose threshold the temperature reaches. -/
def stepAt (thr : List Nat) (t : Int) : Nat := countP (fun h => decide ((h : Int) ≤ t)) thr
/-- Step, fall count: rises at once, falls one step after 64 samples 2 °C below the threshold with every sensor valid (R369). -/
def stepNext (thr : List Nat) (cur cnt : Nat) (allValid : Bool) (hot : Option Int) : Nat × Nat :=
  match hot with
  | none => (cur, 0)
  | some t =>
    let want := stepAt thr t
    if want ≥ cur then (want, 0)
    else if allValid && decide (t + 2 ≤ (thr.getD (cur - 1) 0 : Int)) then (if cnt + 1 ≥ 64 then (cur - 1, 0) else (cur, cnt + 1))
    else (cur, 0)
/-- Hottest of a list of sensors by last valid readings, and whether all read valid now. -/
def Gov.hottest (g : Gov) (ds : List Nat) : Option Int × Bool :=
  ((ds.filterMap (fun d => g.lastT.find? d)).max?, ds.all (fun d => (g.temps.getD d none).isSome))
def State.dieThr (s : State) : List Nat :=
  [s.fget Fld.GOV_THERM_CFG_T1, s.fget Fld.GOV_THERM_CFG_T2, s.fget Fld.GOV_THERM_CFG_T3, s.fget Fld.GOV_THERM_CFG_T4]
def State.baseThr (s : State) : List Nat :=
  [s.fget Fld.GOV_THERM_CFG_B1, s.fget Fld.GOV_THERM_CFG_B2, s.fget Fld.GOV_THERM_CFG_B3, s.fget Fld.GOV_THERM_CFG_B4]
/-- The steps decided for the next boundary. -/
def State.decideSteps (s : State) : State :=
  let g := s.gov
  let die := (List.range 4).map (fun q =>
    let h := g.hottest ((List.range s.nsid).map (fun sd => 4 * sd + q))
    (q, stepNext s.dieThr (g.dstep.get 0 q) (g.dfall.get 0 q) h.2 h.1))
  let hb := g.hottest ((List.range 8).map (· + 16))
  let b := stepNext s.baseThr g.bstep g.bfall hb.2 hb.1
  { s with gov := { g with dstepN := some (die.foldl (fun (t : Tbl Nat) e => t.put 0 e.1 e.2.1) {})
                           dfall := die.foldl (fun (t : Tbl Nat) e => t.put 0 e.1 e.2.2) {}, bstepN := some b.1, bfall := b.2 } }
/-- The conditions of R347: the sample at mc 0 found MAIN_FAIL and VDD clear for 20 µs (32,000 mc), and no drain signal has been given. -/
def State.alertClear (s : State) : Bool := s.gov.okSample && !s.gov.drain
/-- Alert decided for the next boundary. -/
def State.decideAlert (s : State) : State :=
  let g := s.gov
  let n := if g.alert then (if s.alertClear && !g.dipSample then some false else none)
    else if g.dipSample || g.mfSample then some true else none
  { s with gov := { g with alertNext := n } }
/-- The Alert and thermal window (R35, R369): Alert, steps and refresh rates for the next Turn. -/
def execAlertThermalDecision (s : State) : Host.Outcome State Fault Refusal :=
  .next (when (s.mainsOn && decide (s.clk.mc ≤ 47) && !s.clk.alertDone)
    (fun s =>
      let s := s.decideAlert.decideSteps
      let s := each ((List.range 32).filter s.raceRuns) (fun r s => s.decideRates r) s
      { s with clk := { s.clk with alertDone := true } }) s)

/-- The current reading (R371): one step up at or above I_LIM, one down after 16 readings below 90 %. -/
def Gov.current (g : Gov) (lim amps : Nat) : Gov :=
  if amps ≥ lim then { g with istepN := some (min 4 (g.istep + 1)), iLow := 0 }
  else if 10 * amps < 9 * lim then
    (if g.iLow + 1 ≥ 16 then { g with istepN := some (g.istep - 1), iLow := 0 } else { g with iLow := g.iLow + 1 })
  else { g with iLow := 0 }
def execCurrentSample (amps : Nat) (s : State) : Host.Outcome State Fault Refusal :=
  .next (when (s.mainsOn && decide (s.clk.turn % 64 = 0) && decide (s.gov.curAt ≠ some s.clk.age))
    (fun s => { s with gov := { s.gov.current (s.fheld Fld.GOV_AVS_CFG_I_LIM) amps with curAt := some s.clk.age } }) s)

/-! ### WATCH (R363) -/

/-- The SRR rate of a kept die from a WATCH sample, under R176 and R177; samples stand for Turns, and the hysteresis is that of the
die's lowest race (log entry 131). -/
def State.watchRate (s : State) (d : Nat) (t : TempRead) : Nat × Nat :=
  let r := 8 * (d % 4)
  let cur := s.gov.srr.get 0 d
  match t with
  | none => (2, 0)
  | some v =>
    let want := rateFor v
    if want ≥ cur then (want, 0)
    else if v + (s.fheld Fld.RACE_REF_CFG_HYST_C r : Int) ≤ rateThr cur then
      let n := s.gov.watchHyst.get 0 d + 1
      if n ≥ s.fheld Fld.RACE_REF_CFG_HYST_TURNS r then (cur - 1, 0) else (cur, n)
    else (cur, 0)
/-- A WATCH sample; MAINS counts a MAIN_FAIL at the first sample of the low-power state that finds it (log entry 108). -/
def State.watch (s : State) (temps : List TempRead) (vdd vbk : Nat) (mainFail : Bool) : State :=
  let dies := (List.range (4 * s.nsid)).filter (fun d => bit s.gov.kept (d / 4))
  let new := dies.map (fun d => (d, s.watchRate d (validTemp (temps.getD d none))))
  let g := { s.gov.seeVdd vdd with
    srr := new.foldl (fun (t : Tbl Nat) e => t.put 0 e.1 e.2.1) s.gov.srr
    watchHyst := new.foldl (fun (t : Tbl Nat) e => t.put 0 e.1 e.2.2) s.gov.watchHyst
    mfLevel := mainFail, watchMf := mainFail, vbkNow := vbk * max 1 (s.fheld Fld.GOV_BK_CFG_RATIO), watchAt := s.clk.age, mfOkSince := if mainFail || s.gov.mfLevel then s.now else s.gov.mfOkSince }
  let newFail := mainFail && !s.gov.watchMf
  let s := { s with gov := g }
  let s := if newFail then s.fadd Fld.GOV_SUP_STAT_MAINS 1 else s
  let lim : Int := s.fget Fld.GOV_PWR_CFG_WT_MAX
  let hot := (List.range (4 * s.nsid)).any (fun d => match validTemp (temps.getD d none) with | some v => decide (v ≥ lim) | none => false)
  if hot then s.wakeEvent 5 else s
def execWatchSample (temps : List TempRead) (vdd vbk : Nat) (mainFail : Bool) (s : State) : Host.Outcome State Fault Refusal :=
  .next (when ((s.gov.ps = .furl || s.gov.ps = .fullFurl) && decide (s.fget Fld.GOV_PWR_CFG_WATCH_MS ≥ 1)
      && decide (s.clk.age ≥ s.gov.watchAt + msTurns (s.fget Fld.GOV_PWR_CFG_WATCH_MS)))
    (fun s => s.watch temps vdd vbk mainFail) s)

end Sys2Proof.Machine
end

