-- ==== Sys2Proof/Machine/Turn.lean ====
section
/-!
DEFINITION. The Turn (R10 to R12, R35 to R39): what the boundary samples, latches and puts in force in every unit, the sample of the
slot swaps, an overrun window, and the split read of the Turn counter.
-/
namespace Sys2Proof.Machine

/-! ### Governor at mc 0 (R35, R343 to R352) -/

/-- The sample of MAIN_FAIL, VDD and VBK at mc 0. Operands: VDD and VBK_SENSE in mV, the level of MAIN_FAIL. VBK is read every 16
Turns (R480). -/
def State.sampleSupplies (s : State) (vdd vbk : Nat) (mainFail : Bool) : State :=
  let g := s.gov.seeVdd vdd
  let fail := g.mfLatch || mainFail
  let t0 := s.clk.age * 256
  let mfOk := if mainFail then t0 + 256 else if fail then t0 else g.mfOkSince
  let read := decide (s.clk.turn % 16 = 0)
  let v := vbk * max 1 (s.fheld Fld.GOV_BK_CFG_RATIO)
  let stop := g.bkTest && fail
  -- an episode begins with the sample that decides its Alert
  let episode := g.alert || g.alertDue = some true || g.alertNext = some true
  -- where an Alert ends at this boundary, the sample belongs to the next episode (R347)
  let ends := g.alert && g.alertNext = some false
  let g := { g with
    mfSample := fail, mfLatch := mainFail, mfLevel := mainFail, mfOkSince := mfOk
    mfCount := (if episode && !ends then g.mfCount else 0) + b2n fail
    epMains := (episode && !ends && g.epMains) || fail, endMains := if ends then g.epMains else g.endMains
    okSample := !fail && decide (t0 ≥ mfOk + 32000) && !g.belowRel && !g.belowWarn && decide (t0 ≥ g.vddOkSince + 32000)
    dipSample := g.dip, dip := g.belowWarn
    vbkNow := if read then v else g.vbkNow
    vbkQ := if read then g.vbkQ.filter (fun e => decide (e.2 < v) && decide (s.clk.age < e.1 + 65536)) ++ [(s.clk.age, v)] else g.vbkQ
    bkTest := g.bkTest && !stop, bkHold := g.bkHold && !(read && !g.bkTest && decide (v ≥ g.testPre)) }
  let s := { s with gov := g }
  if stop then s.fset Fld.GOV_BK_STAT_TEST 0 else s
/-- At mc 0 of a Turn in which Governor's domain is off or in reset, AON's latch of MAIN_FAIL is read and cleared as in every Turn (R345). -/
def Gov.watchMain (g : Gov) (age : Nat) (mainFail : Bool) : Gov :=
  { g with mfLatch := mainFail, mfLevel := mainFail
           mfOkSince := if mainFail then (age + 1) * 256 else if g.mfLatch then age * 256 else g.mfOkSince }
/-- Alert and the drain signal that fall due at this boundary (R346 to R348, R385). -/
def Gov.dueNow (g : Gov) (age : Nat) (sag : Bool) : Gov :=
  let due := if g.alertNext.isNone then g.alertDue else g.alertNext
  let long := g.alert && (decide (g.mfCount ≥ 12500) || (sag && decide (age ≥ g.epStart + 12500)))
  { g with alertDue := due, alertNext := none, drainDue := g.drainDue || long || g.drainNext }
/-- Steps decided in the last Turn come into force (R369, R371). -/
def Gov.stepsNow (g : Gov) : Gov :=
  { g with dstep := g.dstepN.getD g.dstep, bstep := g.bstepN.getD g.bstep, istep := g.istepN.getD g.istep
           dstepN := none, bstepN := none, istepN := none }

/-! ### Tally's Turn counts (R396) -/

/-- STATE events 0 to 11 of a half for the Turn that ends. -/
def State.turnEvents (s : State) (h : Nat) : List Nat :=
  let live := (halfRaces h).filter (fun r => !s.raceOff r)
  let rates := live.flatMap (fun r => (List.range s.nsid).map (fun sd => (s.race r).rate.get 2 sd))
  let flag := fun (b : Bool) (e : Nat) => if b then [e] else []
  flag (s.gov.ps = .run) 0 ++ flag (s.gov.ps = .idle) 1 ++ flag s.gov.alert 2 ++ flag s.gov.drain 3
    ++ flag (decide (s.fheld Fld.WEIR_STATUS_F1 < 1000)) 4
    ++ [1, 2, 3, 4].flatMap (fun n => flag (live.any (fun r => (s.race r).step = n)) (4 + n))
    ++ flag (rates.any (· = 1)) 9 ++ flag (rates.any (· = 2)) 10 ++ flag (live.any s.hot) 11
def State.countTurn (s : State) (h : Nat) : State := each (s.turnEvents h) (fun e s => s.tally h 6 e 1) s

/-- Tally of the halves that run latches at the boundary (R398, R403). -/
def State.latchTallies (s : State) : State :=
  let turn := (s.clk.turn + 1) % 2 ^ 48
  let s := s.tallyLatch turn 0
  if s.boot.westUp then s.tallyLatch turn 1 else s

/-! ### Races -/

/-- The latched table becomes active (R212, R236): GEN, DIRECT, ADMIT; direct writes are overwritten (R220). A race without a latch loses
its request, and its ADMIT where COMMIT_SLOTS asked (R215). -/
def State.swapRace (s : State) (r : Nat) : State :=
  let x := s.race r
  match x.latch with
  | none =>
    if x.admPend then (s.setRace r { x with admPend := false }).fset Fld.RACE_SLOT_STAT_ADMIT 0 r
    else s
  | some ws =>
    let s := each ((List.range 8).zip ws) (fun e s => s.setRaw .RACE_SLOT_ACT (Reg.key2 .RACE_SLOT_ACT r e.1 0) e.2) s
    let s := ((s.fwrap Fld.RACE_SLOT_STAT_GEN 1 r).fset Fld.RACE_SLOT_STAT_DIRECT 0 r).fset Fld.RACE_SLOT_STAT_ADMIT (b2n x.admLatch) r
    s.setRace r { x with latch := none, actPrev := none, admLatch := false, admC1 := if x.admLatch then countCode (tableCodes ws) 2 else x.admC1 }
/-- The outcome of a COMMIT_SLOTS whose races have all been served (R423): those without a swap, and the Turn that begins. -/
def State.noteSwap (s : State) (left : Nat) : State :=
  match s.mil.commit, s.mil.swapped with
  | some (mask, _), none =>
    if mask &&& left = 0 then
      let no := (List.range 32).foldl (fun a r => if bit mask r && (s.race r).latch.isNone then a + 2 ^ r else a) 0
      { s with mil := { s.mil with swapped := some (no, (s.clk.turn + 1) % 2 ^ 48) } }
    else s
  | _, _ => s
/-- Swap requests end at the boundary that their sample preceded. -/
def State.swapAll (s : State) : State :=
  if s.clk.swapDone then
    let due := (List.range 32).filter (fun r => (s.race r).latch.isSome || bit s.clk.swapNo r)
    let left := due.foldl (fun a r => setBits a r 1 0) (s.fheld Fld.SLU_SLOT_SWAP_RACES)
    (each due (fun r s => s.swapRace r) (s.noteSwap left)).fset Fld.SLU_SLOT_SWAP_RACES left
  else s

/-- A tracking round: done when every probe has its result; a new one begins ROUND Turns after the last, once its probes have issued; SIDs in
self-refresh are passed over (R269, R272, R273). -/
def Train.roundTick (x : Train) (nsid round age : Nat) (sref : Nat → Bool) : Train :=
  let x := { x with nextA := skipProbe nsid x.nextA sref, nextB := skipProbe nsid x.nextB sref }
  let issued := decide (x.nextA ≥ 6 * nsid) && decide (x.nextB ≥ 6 * nsid)
  let done := x.roundDone || (issued && x.await.isEmpty)
  if issued && decide (age ≥ x.roundAt + round) then { x with nextA := 0, nextB := 0, roundAt := age, roundDone := false, lagged := false }
  else { x with roundDone := done }
/-- Tracking of a race at the boundary, which goes on in a warm reset (R273, R454). -/
def State.trackOn (s : State) (r : Nat) : State :=
  let st := s.fheld Fld.SPIN_STAT_STATE r
  if st = 2 ∨ st = 6 then
    let x := s.race r
    let x := { x with tr := { x.tr with hold := false } }
    if st ≠ s.trackState r then
      (s.setRace r { x with tr := x.tr.restart s.clk.age }).fset Fld.SPIN_STAT_STATE (s.trackState r) r
    else if st = 2 then
      let t := x.tr.roundTick s.nsid (s.fget Fld.FAN_CFG_ROUND 0 (raceHalf r)) s.clk.age (fun sd => x.sref.get false sd)
      let s1 := s.setRace r { x with tr := t }
      if t.roundDone && !x.tr.roundDone || (!x.tr.roundDone && decide (t.roundAt ≠ x.tr.roundAt)) then s1.fwrap Fld.SPIN_STAT_ROUNDS 1 r else s1
    else s.setRace r x
  else s
/-- Fantail's bookkeeping of a race at the boundary. -/
def State.trackTick (s : State) (r : Nat) : State :=
  let x := s.race r
  let h := raceHalf r
  let st := s.fheld Fld.SPIN_STAT_STATE r
  if st = 2 ∨ st = 6 then s.trackOn r
  else if st = 1 then
    -- refresh starts at step 3 of the full training (R264, R267)
    match x.tr.trainAt with
    | some t => if s.clk.age ≥ t + 500 then s.setRace r { x with refOn := true } else s
    | none => s
  else if st = 3 then
    -- the quiesce has taken its 1 µs (R274)
    if !x.tr.repaired && decide (s.clk.age ≥ x.tr.retrainAt + 7) then s.repairStep r else s
  else if st = 4 && s.gov.alert && r ∈ (s.fan h).queue then
    -- no retraining begins in Alert: the race resumes service so that the drain can read it (R276)
    (s.setRace r { x with tr := x.tr.restart s.clk.age }).fset Fld.SPIN_STAT_STATE (s.trackState r) r
  else s
/-- A race at the boundary: rates, dues and plan in force, the thermal step, latched queue levels (R35, R38, R177, R369). -/
def State.raceTick (s : State) (r : Nat) : State :=
  let s := s.giveDues r
  let pA := s.defaultPlan r 0
  let pB := s.defaultPlan r 1
  let x := s.race r
  let y : Race := { x with
    rate := (x.rateN.map Prod.fst).getD x.rate, fallback := (x.rateN.map Prod.snd).getD x.fallback, rateN := none
    planA := x.nextA.getD pA, planB := x.nextB.getD pB, nextA := none, nextB := none, urgA := 0, urgB := 0, act48 := none
    revSlots := x.revSlots.filter (fun e => decide (e.2 / 128 ≥ s.clk.age)), sidTurn := (x.sidTurn + 1) % max 1 s.nsid
    step := s.thermStep r, rqLvl := x.rq.length, wqLvl := x.wqLevel }
  (s.setRace r y).pdNote r (s.clk.age * 256)

/-! ### Weir and the modules -/

/-- The results of Weir's window come into force (R244, R258, R259), and the background units' budgets of the Turn (R238): BG's, at least
FLOOR cells (log entry 103), and Hoist's of class 1. Every Turn with f1 below 1 in which SCALED reads 0 sets it. -/
def State.weirTick (s : State) : State :=
  let w := s.weir
  let bg := fun (b : Tbl Nat) (floor : Nat) => max (b.get 0 (gcKey 64 3)) floor
  let scale := fun (s : State) (f : Nat) =>
    if f < 1000 && s.fheld Fld.WEIR_STATUS_SCALED = 0 then (s.fset Fld.WEIR_STATUS_SCALED 1).raise Src.WEIR_SCALE 0 0 else s
  match w.budgetN with
  | none => scale { s with weir := { w with bgLeft := bg w.budget w.floor, hLeft := w.hoist1 } } w.f1
  | some b =>
    let f := w.f1N.getD w.f1
    let lv := w.levelN.getD (w.level, w.cool)
    let s := { s with weir := { w with budget := b, budgetN := none, f1 := f, f1N := none, level := lv.1, cool := lv.2, levelN := none
                                       hoist1 := w.hoist1N, floor := w.floorN, bgLeft := bg b w.floorN, hLeft := w.hoist1N } }
    let s := ((s.fset Fld.WEIR_STATUS_F1 f).fset Fld.WEIR_STATUS_HELD (b2n w.heldN)).fset Fld.WEIR_STATUS_CAPACITY (b2n w.capN)
    let s := ((s.fset Fld.WEIR_STATUS_ALERT (b2n w.alertN)).fset Fld.WEIR_STATUS_DRAIN (b2n w.drainN)).fset Fld.WEIR_STATUS_ISOL (b2n w.isolN)
    scale (s.fset Fld.WEIR_STATUS_F1_MIN (min f (s.fheld Fld.WEIR_STATUS_F1_MIN))) f
/-- The class-0 allowance that each group has on module m (R242). -/
def State.c0Loads (s : State) (m : Nat) : Tbl Nat :=
  (List.range 64).foldl (fun (t : Tbl Nat) g => t.put 0 g (if bit (s.fget Fld.WEIR_GRP_C0_MODS g) m then s.fget Fld.WEIR_GRP_C0_RATE g else 0)) {}
/-- A module's pools for the new Turn: its class-0 counters; the entries of a new distribution; without one the slices as last handed out and
the entries that are left (R38, R242, R246). -/
def ModSt.newTurn (x : ModSt) (c0 : Tbl Nat) (new : Option Pool) (old : Pool) : ModSt :=
  let x := { x with floorUsed := {}, c0cap := c0, c0used := {}, demandOld := x.demand, demand := {} }
  match new with
  | some p => { x with slice := p.slice, hop := p.hop, pondE := p.pondE, pondW := p.pondW, flumeE := p.flumeE, flumeW := p.flumeW }
  | none => { x with slice := old.slice }
/-- Entries in use by classes 1 to 3, accepted stores on their way included: Hopper, Millpond and Flume, East then West (R246). -/
def State.entriesUsed (s : State) : List Nat :=
  let reqs := s.hop.reqs.vals
  let way := fun (h : Nat) (p : Req → Bool) => ((reqs.filter (fun q => p q && q.target = h && q.phase = .accepted && q.cls ≠ 0)).map (fun q => q.data.length)).sum
  [0, 1].map (fun h => countP (fun q : Req => q.landHalf = h && q.cls ≠ 0) reqs)
    ++ [0, 1].map (fun h => countP (fun e : PondEnt => e.half = h && e.cls ≠ 0) s.pond + way h (fun q => Opc.pond q.opc))
    ++ [0, 1].map (fun h => countP (fun e : FlumeEnt => e.half = h) s.flume
        + countP (fun q : Req => q.opc = Opc.wrn && q.target = h && q.phase = .accepted) reqs)
/-- Pools and store entries of the new Turn. -/
def State.poolTick (s : State) (fresh : Bool) : State :=
  let new := if fresh then s.weir.poolN else none
  let old := s.weir.pool
  let mods := s.modsFitted.foldl (fun (t : Tbl ModSt) m => t.ins m ((s.mod m).newTurn (s.c0Loads m) (new.map (fun p => p.get {} m)) (old.get {} m))) s.mods
  let adv := fun (x : Hst) => if new.isSome then { x with sNow := x.sNext, sNext := 0 } else { x with sNext := 0 }
  let s := { s with mods := mods, weir := { s.weir with poolN := none, pool := new.getD old }, hstE := adv s.hstE, hstW := adv s.hstW }
  let cap := [4096 - 32, 4096 - 32, 8192 - 32, 8192 - 32, 256, 256]
  { s with weir := { s.weir with free0 := List.zipWith (· - ·) cap s.entriesUsed } }

/-! ### Resets that wait (R456, R460) -/

/-- Races that a reset covers. -/
def ResetKind.races : ResetKind → List Nat
  | .half => halfRaces 1
  | .race m => (List.range 32).filter (fun r => bit m r)
  | _ => List.range 32
/-- Halves whose admission its settle closes, as bits. -/
def ResetKind.halves : ResetKind → Nat
  | .half => 2
  | .race m => (if m % 2 ^ 16 ≠ 0 then 1 else 0) + (if m / 2 ^ 16 ≠ 0 then 2 else 0)
  | _ => 3
/-- A settle begins: admission closes, Flume entries close; in the safe state stopped fills start again (R460). -/
def State.startSettle (s : State) (k : ResetKind) : State :=
  let flume := match k with
    | .race _ => s.flume
    | .half => s.flume.map (fun (e : FlumeEnt) => { e with closed := e.closed || e.half = 1 })
    | _ => s.flume.map (fun (e : FlumeEnt) => { e with closed := true })
  { s with boot := { s.boot with settle := some s.clk.age, settled := false, closed := k.halves }, flume := flume
           races := if s.brk.safe then s.races.mapv (fun _ x => x.refill) else s.races }
/-- A pending reset starts to settle outside Alert and entries. -/
def State.resetTick (s : State) : State :=
  match s.boot.pend with
  | some k => if s.boot.settle.isNone && s.boot.inReset.isNone && !s.gov.alert && s.gov.alertDue ≠ some true && s.gov.entry.isNone && s.awake then s.startSettle k else s
  | none => s

/-! ### The boundary -/

/-- The flush of an entry to FURL, FULL FURL or OFF is asked of both Hoists. -/
def State.entryTick (s : State) : State :=
  match s.gov.entry with
  | some .furl | some .fullFurl | some .off =>
    if s.gov.entryDrain then s else { s with hstE := s.hstE.onEntry, hstW := s.hstW.onEntry }
  | _ => s
/-- The boundary of what the Brake named comes (R382): modules go DOWN, races are to be isolated. -/
def State.downTick (s : State) : State :=
  let l := s.brk.downNext
  each l (fun m s => if (s.mod m).st = .disabled then s else s.modOff m .down)
    { s with brk := { s.brk with downNext := [], isoDue := s.brk.isoDue ++ s.brk.isoNext, isoNext := [] } }
/-- The clock at the boundary. The Turn counter stands in OFF (R12). -/
def Clk.next (c : Clk) (off : Bool) : Clk :=
  { c with turn := if off then c.turn else (c.turn + 1) % 2 ^ 48, age := c.age + 1, mc := 0, alertDone := false, swapDone := false, swapLate := 0, swapNo := 0
           planDone := false, weirDone := false, distDone := false }
/-- What the boundary does while the main domains are on. -/
def State.boundary (s : State) (temps : List TempRead) (vdd vbk : Nat) (mainFail : Bool) : State :=
  let s := s.countTurn 0
  let s := if s.boot.westUp then s.countTurn 1 else s
  let s := s.latchTallies
  let s := s.swapAll
  let fresh := s.weir.budgetN.isSome
  let s := { s with clk := s.clk.next false, eff := {}, gov := s.gov.stepsNow }
  let s := s.sampleSupplies vdd vbk mainFail
  let s := { s with gov := s.gov.dueNow s.clk.age (s.fb Fld.GOV_PWR_CFG_SAG_DRAIN) }
  let s := each (List.range 32) (fun r s => (s.raceTick r).trackTick r) s
  let s := s.restTick.weirTick.poolTick fresh
  let s := each (List.range 32) (fun r s => (s.backIn r s.now).fillIn r s.now) s
  let s := (s.downTick.entryTick.hoistTick 0).hoistTick 1
  let s := { s with gov := { s.gov with idleTurns := s.gov.idleTurns + 1 } }
  let s := ((s.flumeLow 0).flumeLow 1).wdTick
  (s.askTick.drainFurlTick.resetTick).sampleTemps temps

/-- mc 0 of the next Turn (R10, R35). In a warm reset the refresh engines go on (R203). -/
def execTurnBoundary (temps : List TempRead) (vdd vbk : Nat) (mainFail : Bool) (s : State) : Host.Outcome State Fault Refusal :=
  .next (if s.mainsOn then s.boundary temps vdd vbk mainFail
    else if s.refreshOn then
      each (List.range 32) (fun r s => (s.raceTick r).trackOn r) { s with gov := s.gov.watchMain (s.clk.age + 1) mainFail, clk := s.clk.next false }
    else { s with gov := s.gov.watchMain (s.clk.age + 1) mainFail, clk := s.clk.next (s.gov.ps = .off || s.boot.aonDown || (s.boot.inReset = some .powerOn && !s.boot.bist)) })

/-! ### Slot swaps and overruns (R36, R38, R212, R215) -/

/-- At mc 48 every race whose bit was set by mc 47 latches its shadow table; one that is isolated or off then is to take no swap (R36,
R215). -/
def execSlotSwapSample (s : State) : Host.Outcome State Fault Refusal :=
  .next (when (s.mainsOn && decide (s.clk.mc ≤ 48) && !s.clk.swapDone)
    (fun s =>
      let asked := (List.range 32).filter (fun r => bit (s.fheld Fld.SLU_SLOT_SWAP_RACES) r && !bit s.clk.swapLate r)
      let want := asked.filter (fun r => !s.isolated r && (s.race r).run)
      let no := asked.filter (fun r => s.isolated r || !(s.race r).run)
      let s := each want (fun r s => s.setRace r { s.race r with
        latch := some ((List.range 8).map (s.shdWord r)), admLatch := (s.race r).admPend, admPend := false }) s
      { s with clk := { s.clk with mc := 48, swapDone := true, swapNo := no.foldl (fun a r => a + 2 ^ r) 0 } }) s)

/-- Every race takes its default plan for the next Turn (R38): the plan that the Weir window of this Turn and the owners of its slots go
by. -/
def State.defaultPlans (s : State) : State :=
  each (List.range 32) (fun r s => s.setRace r { s.race r with nextA := some (s.defaultPlan r 0), nextB := some (s.defaultPlan r 1) }) s
/-- A window has not completed by its last mc: its results stay out, those of the Turn before stand (R38). -/
def execTurnOverrun (win : TurnWindow) (s : State) : Host.Outcome State Fault Refusal :=
  let open_ := match win with
    | .alertThermal => !s.clk.alertDone
    | .refreshPlan => !s.clk.planDone
    | .weir => !s.clk.weirDone && !(s.gov.ps = .idle)
    | .distribution => !s.clk.distDone && !(s.gov.ps = .idle)
  .next (when (s.mainsOn && open_)
    (fun s =>
      let c := s.clk
      let c := match win with
        | .alertThermal => { c with alertDone := true, mc := max c.mc 48 }
        | .refreshPlan => { c with planDone := true, mc := max c.mc 112 }
        | .weir => { c with weirDone := true, mc := max c.mc 208 }
        | .distribution => { c with distDone := true, mc := 255 }
      let s : State := { s with clk := c }
      (if win = .refreshPlan then s.defaultPlans else s).raise Src.TURN_OVERRUN 0 0) s)

/-! ### Reading the counter in halves (R39) -/

/-- A 32-bit read of the low half latches bits [47:32]. -/
def execGovTurnLowRead (s : State) : Host.Outcome State Fault Refusal :=
  .next (when (s.domainOn 74)
    (fun s => { s with clk := { s.clk with lowLatch := some (s.clk.turn / 2 ^ 32, s.clk.age) }
                       reply := { mstat := St.ok, val := BitVec.ofNat 64 (s.clk.turn % 2 ^ 32) } }) s)
/-- What a 32-bit read of the high half returns: within 16 Turns of the low read the latch, a second such read too (log entry 101). -/
def State.turnHigh (s : State) : Nat :=
  match s.clk.lowLatch with
  | some (hi, age) => if s.clk.age ≤ age + 16 then hi else s.clk.turn / 2 ^ 32
  | none => s.clk.turn / 2 ^ 32

end Sys2Proof.Machine
end

