-- ==== Sys2Proof/Machine/Brake.lean ====
section
/-!
DEFINITION. The Brake (R378 to R393): raises, broken pairs, clearing, injection, and the fresh reading of the pairs at a release. The
entry into the safe state and the actions by severity are in Ops.
-/
namespace Sys2Proof.Machine

/-- The domain of a source pair (R379): while it is off the pair reads clear. -/
def srcDomain (src inst : Nat) : Nat :=
  if srcIsRace src then (if src = Src.POND_LOST then 60 + inst / 16 else if src = Src.QRN_ROW ∨ src = Src.QRN_PIN then 68 + inst / 16
    else if src = Src.DRS_ISOL then 78 else inst)
  else if srcIsMod src then 32 + inst
  else if src = Src.LAY_LINK then 60 + inst / 8
  else if src = Src.LAY_STALL then 60 + inst
  else if src = Src.WEIR_SCALE then 60
  else if src = Src.FAN_LAG then 66 + inst
  else if src = Src.DRS_FUSE then 78
  else if src = Src.HST_DRIVE then 64 + inst / 4
  else if src ∈ ([0x20, 0x22, 0x23, 0x24] : List Nat) then 64 + inst
  else if src = Src.GOV_RAIL ∨ src = Src.GOV_AON then 79
  else if src = Src.BRK_WIRE then 75
  else 74
/-- The instance exists. -/
def pairExists (src inst : Nat) : Bool := match srcRow src with | some r => decide (inst < r.n) | none => false
/-- The Brake reads the pair: its own domain and the source's are on. -/
def State.pairLive (s : State) (src inst : Nat) : Bool := pairExists src inst && s.domainOn 75 && s.domainOn (srcDomain src inst)

def execBrakeRaise (src inst detail : Nat) (s : State) : Host.Outcome State Fault Refusal :=
  .next (when (s.pairLive src inst) (fun s => s.raise src inst detail) s)

def execBrokenWire (src inst : Nat) (s : State) : Host.Outcome State Fault Refusal :=
  .next (when (s.pairLive src inst) (fun s => s.breakPair src inst false false) s)
/-- The rails of a pair are unequal again: the cause of the BRK_WIRE raise that named it ends; the pair stays broken (R380, R381). -/
def State.mendPair (s : State) (src inst : Nat) : State :=
  let k := pairKey src inst
  let s := { s with brk := { s.brk with equal := s.brk.equal.del k } }
  if s.brk.wirePair = k then s.causeOff Src.BRK_WIRE 0 else s
def execPairRailsUnequal (src inst : Nat) (s : State) : Host.Outcome State Fault Refusal :=
  .next (when (s.brk.equal.get false (pairKey src inst)) (fun s => s.mendPair src inst) s)

/-- ACTIVE of a source, as a mask (R390): the pair of a domain that is off reads clear (R379). -/
def State.activeMask (s : State) (src : Nat) : Nat :=
  (List.range 32).foldl (fun a i => if s.brk.cause.get false (pairKey src i) && s.domainOn (srcDomain src i) then a + 2 ^ i else a) 0
/-- Instances of a source raised in this mc, as a mask (R384). -/
def State.justMask (s : State) (src : Nat) : Nat :=
  (List.range 32).foldl (fun a i => if pairKey src i ∈ s.raisedNow then a + 2 ^ i else a) 0
/-- Clear PEND bits (R391): bits whose cause is active stay, and the answer says so; a raise of the same mc wins (R384). -/
def State.pendClear (s : State) (src mask : Nat) : State × Bool :=
  let act := s.activeMask src
  let old := s.fheld Fld.BRK_SRC_STAT_PEND src
  let fit := match srcRow src with | some r => 2 ^ r.n | none => 1
  let m := mask % fit
  (s.fset Fld.BRK_SRC_STAT_PEND (old &&& (2 ^ 32 - 1 - (m &&& (2 ^ 32 - 1 - (act ||| s.justMask src))))) src, m &&& act ≠ 0)

/-- End a held injection (R392): the pair shows its source again. -/
def State.injStop (s : State) : State :=
  match s.brk.inj with
  | none => s
  | some (c, i, mode, _) =>
    let lasts := s.brk.under
    let s := { s with brk := { s.brk with inj := none, under := false } }
    if mode = 1 then (if lasts then s else s.causeOff c i) else s.mendPair c i
/-- Start an injection (R392). A pair already broken shows nothing, nor one whose domain is off (R379); the reserved mode drives nothing.
A new injection ends one held; one into a broken pair has no effect at all. -/
def State.injStart (s : State) (c i mode : Nat) (quiet : Bool) : State :=
  let k := pairKey c i
  if s.brk.broken.get false k then s else
  let s := s.injStop
  let e : RaiseEv := { src := c, inst := i, inj := true, quiet := quiet }
  let was := s.brk.cause.get false k
  if !s.pairLive c i then s
  else if mode = 0 then (let t := s.raiseAll [e]; if was then t else t.causeOff c i)
  else if mode = 1 then
    let t := s.raiseAll [e]
    { t with brk := { t.brk with inj := some (c, i, 1, quiet), under := was } }
  else if mode = 2 then
    let t := s.breakPair c i true quiet
    { t with brk := { t.brk with inj := some (c, i, 2, quiet) } }
  else s

end Sys2Proof.Machine
end

