-- ==== Sys2Proof/Machine/Access.lean ====
section
/-!
DEFINITION. Access to the registers of the management window (R16 to R21, R39, R90, R91, R397, R407, R409, R486, R487): what a read shows,
the order of the checks, what a write stores and what it sets going. Every path (MGMT, I3C, firmware) uses `regRead` and `regWrite`.
-/
namespace Sys2Proof.Machine

/-! ### What a register shows (live bits) -/

/-- A word with fields put into it. -/
def putAll (w : Word) (l : List (Field × Nat)) : Word := l.foldl (fun w e => e.1.put w e.2) w
/-- Mask of the numbers below n that satisfy p. -/
def maskOf (n : Nat) (p : Nat → Bool) : Nat := (List.range n).foldl (fun a i => if p i then a + 2 ^ i else a) 0

/-- Code of a module state (R92). -/
def ModState.code : ModState → Nat
  | .disabled => 0 | .train => 1 | .open_ => 2 | .active => 3 | .recal => 4 | .down => 5
/-- Code of a state of Hoist (R327). -/
def HState.code : HState → Nat
  | .off => 0 | .attach => 1 | .load => 2 | .serve => 3 | .steady => 4 | .alert => 5 | .drain => 6 | .flush => 7 | .sealed => 8 | .failed => 9
/-- BUSY of a stream: a request accepted and neither performed nor answered (R239). -/
def State.streamBusy (s : State) (st : Nat) : Bool := s.hop.reqs.vals.any (fun q => q.stream = st && q.open_ && !q.answered)
/-- Bring-up rank of a half, and the PHASE it shows (R458, R471): FAILED ranks with ATTACH. -/
def State.phaseOf (s : State) (h : Nat) : Nat × Nat :=
  let x := s.hst h
  if s.tst.inmode then (9, 7)
  else if !s.mainsOn || (h = 1 && !s.boot.westUp) then (0, 0)
  else if s.ld.trainWait && s.fheld Fld.MIL_BOOT_GO = 0 then (1, 1)
  else if !s.trainedHalf h then (2, 2)
  else if !hoistFitted s.ld then (if s.serveReady h then (6, 6) else (3, 3))
  else match x.st with
    | .off | .attach => (3, 3)
    | .failed => (3, 8)
    | .load => (4, 4)
    | .serve => (5, 5)
    | _ => (6, 6)
def State.phase (s : State) : Nat := let e := s.phaseOf 0; let w := s.phaseOf 1; if e.1 ≤ w.1 then e.2 else w.2
/-- Header fields of the image that a core runs (R412): MINOR, BUILD, SVN, SOURCE. -/
def State.imgOf (s : State) (h : Nat) : Nat × Nat × Nat × Nat :=
  let g := (s.core h).img
  if g.loaded then (g.minor, g.build, g.svn, 1)
  else (Config.romMinor s.ld.version % 256, Config.romBuild s.ld.version % 65536, Config.romSvn s.ld.version % 256, 0)
/-- Little-endian bytes of a table of bytes. -/
def stageNat (t : Tbl Byte) (off n : Nat) : Nat := leNat ((List.range n).map (fun i => ((t.find? (off + i)).getD 0).toNat))
/-- A complete image is held (R427): its header and as many body bytes as LENGTH says. -/
def Core.complete (c : Core) : Bool :=
  let total := 256 + stageNat c.stage 12 4
  decide (256 ≤ countP (fun k => decide (k < 256)) c.stage.keys) && decide (total ≤ 524288)
    && decide (total ≤ countP (fun k => decide (k < total)) c.stage.keys)
/-- Firmware version word (R412). -/
def State.fwVer (s : State) (h : Nat) : Word :=
  let g := s.imgOf h
  putAll 0 [(Fld.MIL_FW_VER_MAJOR, 3), (Fld.MIL_FW_VER_MINOR, g.1), (Fld.MIL_FW_VER_BUILD, g.2.1), (Fld.MIL_FW_VER_SVN, g.2.2.1),
    (Fld.MIL_FW_VER_SVN_MIN, s.ld.svnMin), (Fld.MIL_FW_VER_STAGED, b2n (s.core h).complete), (Fld.MIL_FW_VER_SOURCE, g.2.2.2)]
/-- ACC_1149 and ACC_1838 (R448, R450). -/
def State.acc1149 (s : State) : Bool := s.openByState || s.tst.acc1149
def State.acc1838 (s : State) : Bool := s.openByState || s.tst.acc1838
/-- The challenge nonce that is valid: it expires 30 s after its issue (R439). -/
def State.nonceLive (s : State) : Option (BitVec 384) := s.mmk.nonce.filter (fun _ => decide (s.clk.age < s.mmk.nonceAt + msTurns 30000))
/-- Heat levels of the group of four regions (R408). -/
def State.heatWord (s : State) (h grp : Nat) : Nat :=
  (List.range 4).foldl (fun a k => a + (s.tly h).heat.get 0 (4 * grp + k) % 256 * 2 ^ (8 * k)) 0
/-- Groups of four regions (R408). -/
def State.heatGroups (s : State) : Nat := max 1 (regionsOf s.ld / 4)
/-- Mailbox box of an instance: done flag. -/
def State.mbDone (s : State) (h box : Nat) : Bool := s.fheld Fld.MIL_MB_CTRL_DONE box h = 1
def State.mbBusy (s : State) (h box : Nat) : Bool := s.fheld Fld.MIL_MB_CTRL_BUSY box h = 1

/-- Live bits of the chapters on the host link, the fabric, the address map and the races. RATE and FALLBACK of RACE_REF_STAT read 0
before the first decision (log entry 132). -/
def State.liveA (s : State) (l : Loc) (w : Word) : Word :=
  let i := l.idx.getD 0 0
  let x := s.race i
  match l.reg with
  | .MMK_FITTED => putAll 0 [(Fld.MMK_FITTED_ENC, b2n s.ld.enc), (Fld.MMK_FITTED_FATOM, b2n s.ld.fatom), (Fld.MMK_FITTED_DENS, s.ld.dens),
      (Fld.MMK_FITTED_DIES, s.ld.dies), (Fld.MMK_FITTED_GPORTS, s.ld.gports), (Fld.MMK_FITTED_HMODS, s.ld.hmods)]
  | .GOV_TURN => BitVec.ofNat 64 (s.clk.turn % 2 ^ 48)
  | .HEAD_MOD_STATUS => putAll w [(Fld.HEAD_MOD_STATUS_STATE, (s.mod i).st.code), (Fld.HEAD_MOD_STATUS_RATE, (s.mod i).rate),
      (Fld.HEAD_MOD_STATUS_X32, b2n (s.mod i).x32)]
  | .HOP_STREAM => putAll w [(Fld.HOP_STREAM_BUSY, b2n (s.streamBusy i))]
  | .HOP_AMAP_CFG => putAll w [(Fld.HOP_AMAP_CFG_ROWBITS, rowbitsOf s.ld), (Fld.HOP_AMAP_CFG_NSID, s.ld.dies)]
  | .HOP_AMAP_TOP => putAll w [(Fld.HOP_AMAP_TOP_REGIONS, regionsOf s.ld)]
  | .QRN_WMAP_STAT => putAll w
      [(Fld.QRN_WMAP_STAT_ACTIVE, countP (fun r => (s.race r).fill.isSome) (halfRaces l.half)),
       (Fld.QRN_WMAP_STAT_QUEUED, min 63 ((halfRaces l.half).map (fun r => (s.race r).fillQ.length)).sum)]
  | .RACE_STATUS => putAll 0 [(Fld.RACE_STATUS_RQ, x.rq.length), (Fld.RACE_STATUS_WQ, x.wqLevel), (Fld.RACE_STATUS_AAW_EFF, s.aawEff i),
      (Fld.RACE_STATUS_FAU, x.fau.length), (Fld.RACE_STATUS_WMODE, b2n (s.writeMode i s.now (s.waiting i))), (Fld.RACE_STATUS_PD, b2n x.pd.isSome)]
  | .RACE_REF_STAT =>
    let ppc := fun pr : Nat => (x.banks.rows.filter (fun kv => kv.1 / 128 = pr)).foldl (fun m kv => max m kv.2.ppc) 0
    putAll 0 [(Fld.RACE_REF_STAT_TAKEN_A, x.planA.outside), (Fld.RACE_REF_STAT_TAKEN_B, x.planB.outside),
      (Fld.RACE_REF_STAT_PPC_A, ppc 0), (Fld.RACE_REF_STAT_PPC_B, ppc 1), (Fld.RACE_REF_STAT_SREF, maskOf 4 (fun sd => x.sref.get false sd)),
      (Fld.RACE_REF_STAT_FALLBACK, maskOf 4 (fun sd => x.fallback.get false sd)),
      (Fld.RACE_REF_STAT_RATE, (List.range 4).foldl (fun a sd => a + x.rate.get 0 sd % 4 * 4 ^ sd) 0)]
  | .RACE_SLOT_STAT =>
    let t := s.actTable i
    putAll w [(Fld.RACE_SLOT_STAT_N_C0, countCode t 1), (Fld.RACE_SLOT_STAT_N_C1, countCode t 2), (Fld.RACE_SLOT_STAT_N_RFSH, countCode t 8),
      (Fld.RACE_SLOT_STAT_N_TRAIN, countCode t 9), (Fld.RACE_SLOT_STAT_PEND, b2n x.latch.isSome)]
  | .WEIR_STATUS => if s.fheld Fld.WEIR_STATUS_A0 = 0 then putAll w [(Fld.WEIR_STATUS_BOUND, 0)] else w
  | .SPIN_STAT => putAll w [(Fld.SPIN_STAT_STEP, match x.tr.trainAt with | some t => trainStep (s.clk.age - t) | none => x.tr.narrowStep s.clk.age)]
  | _ => w

/-- Live bits of repair, Hoist and Governor. -/
def State.liveB (s : State) (l : Loc) (w : Word) : Word :=
  let i := l.idx.getD 0 0
  let h := l.half
  let x := s.hst h
  let rates := fun f : Drive → Nat => (List.range 4).foldl (fun a d => a + (if d < s.nh then f (x.drive d) % 256 else 0) * 2 ^ (8 * d)) 0
  match l.reg with
  | .DRS_STAT => putAll w [(Fld.DRS_STAT_USED, countP (fun e => decide (e ≠ 0)) s.ld.map.vals), (Fld.DRS_STAT_BADCHK, min 255 (mapBad s.ld.map).length),
      (Fld.DRS_STAT_SOFT, countP (fun e => decide (softState e.2 ≠ 0)) s.softEntries), (Fld.DRS_STAT_BURN, b2n s.drs.burn.isSome)]
  | .DRS_ISOL => putAll w [(Fld.DRS_ISOL_RETIRED, retiredMask s.ld)]
  | .DRS_FUSE => (s.fuse.map.find? i).getD 0
  | .HST_STATUS =>
    if !hoistFitted s.ld then 0
    else putAll 0 [(Fld.HST_STATUS_EPOCH, x.epoch), (Fld.HST_STATUS_STATE, x.st.code), (Fld.HST_STATUS_IMAGE, x.image),
      (Fld.HST_STATUS_FAILDRV, maskOf 4 (fun d => (x.drive d).lost)), (Fld.HST_STATUS_RELOC, b2n (!x.exposed.rows.isEmpty)),
      (Fld.HST_STATUS_ENC, b2n x.encOn), (Fld.HST_STATUS_REASON, x.reason), (Fld.HST_STATUS_EMEAS, s.emeas)]
  | .HST_CEIL => BitVec.ofNat 64 (min (2 ^ 32 - 1) x.ceil * 2 ^ 32 + min (2 ^ 32 - 1) x.dirtyTotal)
  | .HST_RATE => BitVec.ofNat 64 (rates (fun d => d.rd) * 2 ^ 32 + rates (fun d => d.wr))
  | .HST_RESTORE => putAll 0 [(Fld.HST_RESTORE_DONE, x.totalChunks - x.chunks.rows.length), (Fld.HST_RESTORE_TOTAL, x.totalChunks),
      (Fld.HST_RESTORE_LOST, x.lostChunks)]
  | .GOV_STATUS => putAll w
      [(Fld.GOV_STATUS_STATE, s.gov.ps.code), (Fld.GOV_STATUS_ALERT, b2n s.gov.alert), (Fld.GOV_STATUS_DRAIN, b2n s.gov.drain),
       (Fld.GOV_STATUS_MAIN_FAIL, b2n s.gov.mfSample), (Fld.GOV_STATUS_AON_B, b2n s.gov.aonB), (Fld.GOV_STATUS_PADS, b2n s.gov.pads),
       (Fld.GOV_STATUS_BSTEP, s.gov.bstep), (Fld.GOV_STATUS_ISTEP, s.gov.istep),
       (Fld.GOV_STATUS_DSTEP, (List.range 4).foldl (fun a q => a + s.gov.dstep.get 0 q % 8 * 8 ^ q) 0)]
  | .GOV_SUP_STAT => putAll w [(Fld.GOV_SUP_STAT_MIN_VDD, s.gov.minVdd)]
  | _ => w

/-- Live bits of Brake, Tally, Miller, Millmark and the test controller. -/
def State.liveC (s : State) (l : Loc) (w : Word) : Word :=
  let i := l.idx.getD 0 0
  let j := l.idx.getD 1 0
  let h := l.half
  match l.reg with
  | .BRK_CTRL => putAll w [(Fld.BRK_CTRL_SAFE, b2n s.brk.safe)]
  | .BRK_SRC_CFG => match srcRow i with
    | some r => putAll w [(Fld.BRK_SRC_CFG_FIXED, b2n r.fixed), (Fld.BRK_SRC_CFG_PERMIT, r.permit)]
    | none => 0
  | .BRK_SRC_STAT => putAll w [(Fld.BRK_SRC_STAT_ACTIVE, s.activeMask i)]
  | .TLY_STAT => putAll w [(Fld.TLY_STAT_DUMPING, b2n ((s.tly h).stage ≠ 0))]
  | .TLY_CNT => BitVec.ofNat 64 (s.cntOf h i j)
  | .TLY_HEAT_DATA => BitVec.ofNat 64 (s.heatWord h (s.fheld Fld.TLY_HEAT_IDX_IDX 0 h % s.heatGroups))
  | .MIL_MB_RSP => if s.mbDone h i then w else 0
  | .MIL_MB_CTRL => putAll w ([(Fld.MIL_MB_CTRL_PATH, if i < 6 then 0 else 1)] ++ (if i < 6 then [(Fld.MIL_MB_CTRL_IBI_DONE, 0)] else []))
  | .MIL_FW_VER => s.fwVer h
  | .MIL_BOOT => putAll w [(Fld.MIL_BOOT_TRAIN_WAIT, b2n s.ld.trainWait), (Fld.MIL_BOOT_SPLIT, b2n s.lay.split),
      (Fld.MIL_BOOT_READY_W, b2n s.boot.readyW), (Fld.MIL_BOOT_READY_E, b2n s.boot.readyE), (Fld.MIL_BOOT_PHASE, s.phase)]
  | .MMK_LC => putAll w
      [(Fld.MMK_LC_FAILS, min 8 s.mmk.fails), (Fld.MMK_LC_PASS_SET, b2n s.ld.pass.isSome), (Fld.MMK_LC_PASS_HELD, b2n s.mmk.cand.isSome),
       (Fld.MMK_LC_UNLOCK, s.unlockCode), (Fld.MMK_LC_NONCE, b2n s.nonceLive.isSome), (Fld.MMK_LC_PEND, b2n s.fuse.lcNext.isSome),
       (Fld.MMK_LC_NEXT, s.fuse.lcNext.getD s.ld.lc), (Fld.MMK_LC_STATE, s.ld.lc)]
  | .MMK_UID => s.ld.uid
  | .MMK_STAT => putAll 0
      [(Fld.MMK_STAT_KEYSLOT, s.ld.keySlot), (Fld.MMK_STAT_KEY, b2n s.ld.unitKey.isSome), (Fld.MMK_STAT_CERT, b2n s.mmk.certOk),
       (Fld.MMK_STAT_RNG_OK, b2n s.mmk.rngOk), (Fld.MMK_STAT_ST_BUSY, b2n s.mmk.stBusy), (Fld.MMK_STAT_ST_FAIL, s.mmk.stFail)]
  | .TST_CTRL => putAll w [(Fld.TST_CTRL_ACC_1838, b2n s.acc1838), (Fld.TST_CTRL_ACC_1149, b2n s.acc1149)]
  | .TST_STAT => putAll w [(Fld.TST_STAT_INMODE, b2n s.tst.inmode)]
  | .TST_IDCODE => BitVec.ofNat 64 (s.ld.version % 16 * 2 ^ 28 + 0x5E3A * 2 ^ 12 + s.ld.mfr % 2048 * 2 + 1)
  | .TST_DSEL => BitVec.ofNat 64 s.tst.dsel.toNat
  | _ => w
/-- The word a register instance shows. -/
def State.shown (s : State) (l : Loc) : Word := s.liveC l (s.liveB l (s.liveA l (s.raw l.reg l.key)))

/-! ### The checks of an access (R21, R91, R407, R409, R486) -/

/-- An access that finds its register: the instance, and the bits it reaches (0 all, 1 low half, 2 high half of 64). -/
structure Acs where
  loc : Loc
  part : Nat
deriving DecidableEq, Repr
/-- The register that an access of a width reaches (R486). -/
def findAcs (off : Nat) (w64 : Bool) : Option Acs :=
  if w64 then
    if off % 8 ≠ 0 then none
    else match locate off with
      | some l => if l.reg.info.wide then some ⟨l, 0⟩ else none
      | none => none
  else if off % 4 ≠ 0 then none
  else match locate off with
    | some l => some ⟨l, if l.reg.info.wide then 1 else 0⟩
    | none => if off < 4 then none else match locate (off - 4) with
      | some l => if l.reg.info.wide then some ⟨l, 2⟩ else none
      | none => none
/-- A mailbox register. -/
def Reg.mailbox (r : Reg) : Bool := r = .MIL_MB_REQ || r = .MIL_MB_RSP || r = .MIL_MB_CTRL
/-- HEAD_MOD_CTRL of a module whose domain only its EN keeps off: it takes the write that sets EN (R57, R374). -/
def State.enables (s : State) (l : Loc) : Bool := l.reg = .HEAD_MOD_CTRL && s.modThere (l.idx.getD 0 0)
/-- The checks of a register access, in their order: MGMT_EN, user mode, mapping and width, domain, mailbox path. -/
def State.acs (s : State) (path : Path) (off : Nat) (w64 rd : Bool) : Except Nat Acs :=
  let user := match path with | .mgmt m => bit (s.fheld Fld.TLY_USER_MODS) m | _ => false
  let closed := match path with | .mgmt m => decide (s.fheld Fld.HEAD_MOD_CTRL_MGMT_EN m = 0) | _ => false
  let may := match findAcs off w64 with
    | some a => rd && a.loc.reg = .TLY_CNT && bit (s.fheld Fld.TLY_CFG_USER_OK 0 a.loc.half) (a.loc.idx.getD 0 0)
    | none => false
  if closed then .error St.denied
  else if user && !may then .error St.denied
  else match findAcs off w64 with
    | none => .error St.badarg
    | some a =>
      if !s.domainOn (regDomain a.loc) && (rd || !s.enables a.loc) then .error St.offDomain
      else
        let box := a.loc.idx.getD 0 0
        let wrong := match path with | .mgmt _ => decide (box ≥ 6) | .i3c => decide (box < 6) | .fw _ => false
        if a.loc.reg.mailbox && wrong then .error St.denied else .ok a
/-- The value of a part of a word. -/
def partOf (w : Word) (part : Nat) : Word :=
  if part = 0 then w else if part = 1 then BitVec.ofNat 64 (w.toNat % 2 ^ 32) else BitVec.ofNat 64 (w.toNat / 2 ^ 32)
/-- The answer of an access (R91); over I3C, MIL_I3C_STAT keeps it (R411). -/
def State.answered (s : State) (path : Path) (st : Nat) (v : Word) : State :=
  let s := { s with reply := { mstat := st, val := v } }
  match path with | .i3c => s.fset Fld.MIL_I3C_STAT_MSTAT st | _ => s
/-- The next group of the heat registers (R408). -/
def State.heatStep (s : State) (h : Nat) : State := s.fset Fld.TLY_HEAT_IDX_IDX ((s.fheld Fld.TLY_HEAT_IDX_IDX 0 h % s.heatGroups + 1) % s.heatGroups) 0 h

/-! ### Reads -/

/-- A read that finds its register: value, and what the read itself changes. -/
def State.readAt (s : State) (a : Acs) : State × Word :=
  let l := a.loc
  let v := partOf (s.shown l) a.part
  let i := l.idx.getD 0 0
  let j := l.idx.getD 1 0
  match l.reg, a.part with
  | .GOV_TURN, 1 => ({ s with clk := { s.clk with lowLatch := some (s.clk.turn / 2 ^ 32, s.clk.age) } }, v)
  | .GOV_TURN, 2 => (s, BitVec.ofNat 64 s.turnHigh)
  | .TLY_CNT, 1 => (s.setTly l.half { s.tly l.half with lowLatch := some (256 * i + j, s.cntOf l.half i j / 2 ^ 32, s.clk.age) }, v)
  | .TLY_CNT, 2 => (s, BitVec.ofNat 64 (s.cntHigh l.half i j))
  | .TLY_HEAT_DATA, _ => (s.heatStep l.half, v)
  | _, _ => (s, v)
/-- A read of the window. A read of MIL_I3C_STAT leaves it unchanged. -/
def State.regRead (s : State) (path : Path) (off : Nat) (w64 : Bool) : State :=
  match s.acs path off w64 true with
  | .error e => s.answered path e 0
  | .ok a =>
    let r := s.readAt a
    if a.loc.reg = .MIL_I3C_STAT then { r.1 with reply := { mstat := St.ok, val := r.2 } } else r.1.answered path St.ok r.2

/-! ### What a write stores -/

/-- New value of a field by its access code (R18): old, written, mask of the bits reached. -/
def Field.merge (f : Field) (o n m : Nat) : Nat :=
  let full := 2 ^ f.w - 1
  match f.acc with
  | .rw | .rwl => (o &&& (full - m)) ||| (n &&& m)
  | .w1c => o &&& (full - (n &&& m))
  | .rws => o ||| (n &&& m)
  | .wo => n &&& m
  | .ro => o
/-- The register word that a write leaves, before limits. -/
def mergeWord (r : Reg) (old nv mk : Word) : Word :=
  r.fields.foldl (fun w f => f.put w (f.merge (f.of old) (f.of nv) (f.of mk))) old
/-- Fields with limits: a value outside is stored as the nearest bound. -/
def limits1 : List (Field × Nat × Nat) :=
  [(Fld.LAY_STALL_CFG_ESC_WINDOW, 1, 255), (Fld.LAY_STALL_CFG_LIMIT, 16, 4095), (Fld.FLUME_CFG_LOW_FREE, 1, 255), (Fld.FLUME_CFG_IDLE, 1, 255),
   (Fld.RACE_SCHED_CFG_TMO_CNT, 1, 15), (Fld.RACE_SCHED_CFG_PD_IDLE, 1, 255), (Fld.RACE_SCHED_CFG_AGE_LIMIT, 1, 255),
   (Fld.RACE_SCHED_CFG_HIT_CAP, 1, 255), (Fld.RACE_SCHED_CFG_PAGE_IDLE, 1, 255), (Fld.RACE_SCHED_CFG_WQ_LO, 0, 63), (Fld.RACE_SCHED_CFG_WQ_HI, 1, 64),
   (Fld.RACE_TIM1_TCCD_L, 2, 255), (Fld.RACE_TIM1_TCCD_S, 2, 255), (Fld.RACE_TIM4_AAW_MAX, 4, 63), (Fld.RACE_REF_CFG_RFM_TH, 8, 255),
   (Fld.RACE_REF_CFG_RFM_PER_TURN, 1, 8), (Fld.RACE_REF_CFG_HYST_C, 1, 15), (Fld.RACE_REF_CFG_HYST_TURNS, 1, 255)]
def limits2 : List (Field × Nat × Nat) :=
  [(Fld.SLU_XP_CFG_XP_AGE, 8, 255), (Fld.SLU_XP_CFG_W3, 1, 15), (Fld.SLU_XP_CFG_W2, 1, 15), (Fld.SLU_XP_CFG_W1, 1, 15),
   (Fld.SLU_GP_CFG_FW_EVERY, 2, 255), (Fld.SLU_GP_CFG_WB_EVERY, 2, 255), (Fld.WEIR_CFG_ALERT_HST, 0, 500), (Fld.WEIR_CFG_RELAX_TURNS, 1, 15),
   (Fld.WEIR_CFG_FLOOR, 1, 15), (Fld.WEIR_WM_RQ_HIGH, 0, 64), (Fld.WEIR_WM_RQ_LOW, 0, 64), (Fld.WEIR_WM_WQ_HIGH, 0, 64), (Fld.WEIR_WM_WQ_LOW, 0, 64),
   (Fld.WEIR_GRP_W3, 1, 15), (Fld.WEIR_GRP_W2, 1, 15), (Fld.FAN_CFG_PAR, 1, 16), (Fld.FAN_CFG_ROUND, 4, 255), (Fld.FAN_CFG_TRK_M, 2, 32),
   (Fld.FAN_CFG_DEAD_RNDS, 1, 15), (Fld.QRN_SCRUB_CFG_INTERVAL, 16, 65535), (Fld.QRN_ERR_CFG_WINDOW, 1, 255), (Fld.QRN_ERR_CFG_PIN_THR, 1, 255),
   (Fld.QRN_ERR_CFG_ROW_THR, 1, 255), (Fld.QRN_ERR_CFG_WB_THR, 1, 3)]
def limits3 : List (Field × Nat × Nat) :=
  [(Fld.HST_CFG_DERATE, 100, 1000), (Fld.HST_CFG_WDERATE, 100, 1000), (Fld.HST_CFG_T_SEAL, 1, 255), (Fld.HST_CFG_IO_TMO, 1, 255),
   (Fld.GOV_PWR_CFG_WATCH_MS, 0, 1000), (Fld.GOV_PWR_CFG_ENTRY_TMO, 1, 4095), (Fld.GOV_PWR_CFG_IDLE_AFTER, 1, 255), (Fld.GOV_PWR_CFG_MAIN_OK, 1, 255),
   (Fld.GOV_WAKE_TIMER_MS, 1, 4095), (Fld.GOV_BK_CFG_BK_PERIOD, 1, 127), (Fld.GOV_BK_CFG_TTEST, 1, 255), (Fld.GOV_BK_CFG_RATIO, 1, 255),
   (Fld.GOV_AVS_CFG_OSC_TMO, 1, 255), (Fld.GOV_AVS_CFG_ACK_TMO, 1, 255), (Fld.GOV_AVS_CFG_STEP_MV, 5, 50), (Fld.GOV_STEP_CFG_AAW4, 4, 63),
   (Fld.GOV_STEP_CFG_AAW3, 4, 63), (Fld.GOV_STEP_CFG_AAW2, 4, 63), (Fld.GOV_STEP_CFG_AAW1, 4, 63), (Fld.TLY_CFG_WBITS, 0, 10),
   (Fld.TLY_RING_COUNT, 1, 65535), (Fld.TLY_SAMP_CFG_PERIOD, 1, 65535)]
/-- A word with the limits of its fields applied. -/
def limitWord (r : Reg) (w : Word) : Word :=
  (limits1 ++ limits2 ++ limits3).foldl (fun w e => if e.1.reg = r then e.1.put w (max e.2.1 (min e.2.2 (e.1.of w))) else w) w
/-- A field keeps its old value where the new one is not honoured. -/
def holdIf (c : Bool) (f : Field) (old new : Word) : Word := if c then f.put new (f.of old) else new
/-- Thresholds that ascend and stay at or below 105 °C (R377). -/
def thermOk (w : Word) : Bool :=
  let b := fun i : Nat => bits w.toNat (8 * i) 8
  decide (b 7 < b 6) && decide (b 6 < b 5) && decide (b 5 < b 4) && decide (b 3 < b 2) && decide (b 2 < b 1) && decide (b 1 < b 0)
    && (List.range 8).all (fun i => decide (b i ≤ 105))
/-- A slot word with reserved codes stored as OPEN, and whether there was one (R206). -/
def slotWord (w : Word) : Word × Bool :=
  let c := fun i : Nat => bits w.toNat (4 * i) 4
  let bad := fun i : Nat => decide (c i ≥ 5) && decide (c i ≠ 8) && decide (c i ≠ 9)
  ((List.range 16).foldl (fun (a : Word) i => if bad i then BitVec.ofNat 64 (setBits a.toNat (4 * i) 4 0) else a) w, (List.range 16).any bad)
/-- A ring that is taken (R402): BASE below TOP and no byte of it at TOP or beyond. -/
def State.ringOk (s : State) (w : Word) : Bool :=
  let base := Fld.TLY_RING_BASE.of w * 4096
  decide (base < topOf s.ld) && decide (base + Fld.TLY_RING_COUNT.of w * 4096 ≤ topOf s.ld)
/-- Values that a write does not change: reserved codes, and settings closed by the moment. -/
def State.honoured (s : State) (l : Loc) (old new : Word) : Word :=
  match l.reg with
  | .HOP_ORD_CFG => holdIf (Fld.HOP_ORD_CFG_GRAN.of new = 3) Fld.HOP_ORD_CFG_GRAN old new
  | .RACE_CTRL => holdIf (Fld.RACE_CTRL_PAGE.of new = 3) Fld.RACE_CTRL_PAGE old new
  | .QRN_WMAP_CFG => holdIf (s.serveReady l.half) Fld.QRN_WMAP_CFG_CLEAR old new
  | .GOV_THERM_CFG => if thermOk new then new else old
  | .TLY_SAMP_CFG => holdIf (Fld.TLY_SAMP_CFG_MOD.of new > 9) Fld.TLY_SAMP_CFG_MOD old new
  | .TLY_RING => if s.ringOk new then new else old
  | .BRK_SRC_CFG => match srcRow (l.idx.getD 0 0) with
    | some r => if !r.fixed && bit r.permit (Fld.BRK_SRC_CFG_SEV.of new) then new else old
    | none => old
  | .RACE_MR_CMD => if Fld.RACE_MR_CMD_BUSY.of old = 1 then old else new
  | .RACE_SLOT_SHD | .RACE_SLOT_ACT => (slotWord new).1
  | .MIL_MB_CTRL => if l.idx.getD 0 0 < 6 then Fld.MIL_MB_CTRL_IBI_DONE.put new 0 else new
  | .HOP_STREAM =>
    let st := l.idx.getD 0 0
    let moves := Fld.HOP_STREAM_GROUP.of new ≠ Fld.HOP_STREAM_GROUP.of old || Fld.HOP_STREAM_CLASS.of new ≠ Fld.HOP_STREAM_CLASS.of old
      || Fld.HOP_STREAM_HOME.of new ≠ Fld.HOP_STREAM_HOME.of old
    if moves && (s.fget Fld.HOP_STREAM_EN st = 1 || s.streamBusy st) then old else new
  | _ => new

/-! ### Refusals of a write -/

/-- A write would change a locked RWL field (R136, R152, R487). -/
def State.rwlLocked (s : State) (l : Loc) (old new : Word) : Bool :=
  let locked := match l.reg with
    | .HOP_AMAP_CFG => s.fheld Fld.HOP_AMAP_CFG_LOCK = 1
    | .RACE_TIM0 | .RACE_TIM1 | .RACE_TIM2 | .RACE_TIM3 | .RACE_TIM4 => s.fheld Fld.RACE_CTRL_TLOCK (l.idx.getD 0 0) = 1
    | _ => false
  locked && l.reg.fields.any (fun f => f.acc = .rwl && decide (f.of old ≠ f.of new))
/-- A write would switch a setting off that only the debug unlock, or only FACTORY and RETURNED, lets be switched off (R51, R147, R204,
R279, R429, R438): the register is closed to it (R91). -/
def State.closedTo (s : State) (r : Reg) (old new : Word) : Bool :=
  let ends := fun f : Field => decide (f.of old = 1) && decide (f.of new = 0)
  match r with
  | .LAY_STALL_CFG => ends Fld.LAY_STALL_CFG_EN && !s.unlocked
  | .RACE_REF_CFG => (ends Fld.RACE_REF_CFG_RFM_EN && !s.unlocked) || (ends Fld.RACE_REF_CFG_REF_EN && !s.factory)
  | .FAN_CFG => ends Fld.FAN_CFG_TRACK_EN && !s.unlocked
  | .QRN_WMAP_CFG => ends Fld.QRN_WMAP_CFG_EN && !s.factory
  | _ => false
/-- TST_CTRL [5:3]. -/
def armBits (w : Word) : Nat := bits w.toNat 3 3
/-- The status that refuses a write, if one does (R91, R211, R216, R279, R383, R392, R412, R413, R453, R456). -/
def State.refuses (s : State) (path : Path) (l : Loc) (old new nv : Word) : Option Nat :=
  let fw := match path with | .fw _ => true | _ => false
  let i := l.idx.getD 0 0
  let h := l.half
  if l.reg.fwOnly && !fw then some St.denied
  else match l.reg with
  | .HEAD_MOD_CTRL => if !s.domainOn (regDomain l) && Fld.HEAD_MOD_CTRL_EN.of new = 0 then some St.offDomain else none
  | .RACE_SLOT_ACT | .SPIN_DLY => if s.unlocked then none else some St.locked
  | .TST_CTRL => if !s.openByState && decide (armBits old ≠ armBits new) then some St.locked else none
  | .MIL_MB_REQ => if s.mbBusy h i || s.mbDone h i then some St.busy else none
  | .MIL_MB_CTRL => if Fld.MIL_MB_CTRL_GO.of nv = 1 && (s.mbBusy h i || s.mbDone h i) then some St.busy else none
  | .BRK_INJ =>
    if !s.factory then some St.locked
    else if Fld.BRK_INJ_GO.of nv = 1 && !pairExists (Fld.BRK_INJ_SRC.of new) (Fld.BRK_INJ_INST.of new) then some St.badarg else none
  | .GOV_RST_CTRL =>
    if s.brk.safe && (Fld.GOV_RST_CTRL_HALF_W.of nv = 1 || Fld.GOV_RST_CTRL_RACE.of nv ≠ 0) then some St.denied else none
  | _ => if s.rwlLocked l old new || s.closedTo l.reg old new then some St.locked else none

/-! ### Resets asked for (R454, R456) -/

/-- Place in the order of depth: the smaller is the deeper. -/
def ResetKind.rank : ResetKind → Nat
  | .powerOn => 0 | .restartDrain => 1 | .soft => 2 | .warm => 3 | .half => 4 | .race _ => 5
/-- The deeper of two requests; race resets join. -/
def ResetKind.join : ResetKind → ResetKind → ResetKind
  | .race a, .race b => .race (a ||| b)
  | a, b => if b.rank < a.rank then b else a
/-- A reset is requested: it waits for Alert or an entry to end and for its settle; during a settle a deeper one, or a race reset of
further races, follows it. In the safe state only a warm reset counts. -/
def State.askReset (s : State) (k : ResetKind) : State :=
  if !s.awake || !s.mainsOn || s.gov.drain || (s.brk.safe && k.rank ≠ 3) then s
  else
    match s.boot.pend with
    | none => { s with boot := { s.boot with pend := some k } }
    | some p =>
      if s.boot.settle.isNone then { s with boot := { s.boot with pend := some (p.join k) } }
      else
        let more := match p, k with
          | .race a, .race b => decide (a ||| b ≠ a)
          | _, _ => decide (k.rank < p.rank)
        if more then { s with boot := { s.boot with after := some (match s.boot.after with | some a => a.join k | none => k) } } else s

/-! ### What a write sets going -/

/-- A doorbell (R413, R414): BUSY, the request frozen, the box queued at its core; its place among all doorbells and its Turn are noted. -/
def State.ring (s : State) (h box : Nat) : State :=
  let s := s.fset Fld.MIL_MB_CTRL_BUSY 1 box h
  let s := { s with mil := { s.mil with rings := s.mil.rings + 1, rung := s.mil.rung.ins (8 * h + box) (s.mil.rings, s.clk.age) } }
  s.setCore h { s.core h with queue := (s.core h).queue ++ [(h, box)] }
/-- Place of a doorbell in the order in which GO was written, and the Turn (age) of that write. -/
def State.rungOf (s : State) (e : Nat × Nat) : Nat × Nat := s.mil.rung.get (0, 0) (8 * e.1 + e.2)
/-- A doorbell joins a core's queue in that order (R414). -/
def State.insRung (s : State) (e : Nat × Nat) : List (Nat × Nat) → List (Nat × Nat)
  | [] => [e]
  | x :: r => if (s.rungOf e).1 < (s.rungOf x).1 then e :: x :: r else x :: s.insRung e r
/-- A mailbox is released: every REQ and RSP word is zero (R412). -/
def State.releaseBox (s : State) (h box : Nat) : State :=
  each (List.range 8) (fun w s => (s.setRaw .MIL_MB_REQ (Reg.key2 .MIL_MB_REQ box w h) 0).setRaw .MIL_MB_RSP (Reg.key2 .MIL_MB_RSP box w h) 0) s
/-- The status a mode-register command ends with at once: DENIED for the race's own addresses while the unlock is closed (R173). -/
def State.startMr (s : State) (r : Nat) (w : Word) : State :=
  if Fld.RACE_MR_CMD_MA.of w < 0x20 && !s.unlocked then (s.fset Fld.RACE_MR_CMD_RESULT 2 r).fset Fld.RACE_MR_CMD_GO 0 r
  else
    let s := s.fset Fld.RACE_MR_CMD_BUSY 1 r
    s.setRace r { s.race r with mrAt := some s.clk.age, mrIssued := false }
/-- With the map of a half off no fill occurs (R147): its fills, those waiting and those asked for end. -/
def State.endFills (s : State) (h : Nat) : State :=
  let s := { s with races := s.races.mapv (fun r x => if raceHalf r = h then { x with fill := none, fillQ := [] } else x) }
  s.setHst h { s.hst h with asks := [], granted := [] }
/-- A direct write: the table before it is kept, for the choices of its mc (R217) and, after mc 47, for the plan and Weir of this Turn
(R213, R219). -/
def State.keepTable (s : State) (r : Nat) (was : List Word) : State :=
  let x := s.race r
  let prev := match x.actPrev with
    | some (m, ws) => if m = s.now then (m, ws) else (s.now, was)
    | none => (s.now, was)
  s.setRace r { x with actPrev := some prev, act48 := if s.clk.mc < 48 || x.act48.isSome then x.act48 else some was }
/-- Effects beyond the stored word, after it is stored: `nv` is what was written, `new` what is held. -/
def State.writeHook (s : State) (path : Path) (l : Loc) (old new nv : Word) : State :=
  let i := l.idx.getD 0 0
  let h := l.half
  let cleared := fun (f : Field) => f.of nv = 1
  let set := fun (f : Field) => f.of old = 0 && f.of new = 1
  match l.reg with
  | .HEAD_MOD_CTRL => hookModCtrl i old new s
  | .HOP_ORD_CFG => if Fld.HOP_ORD_CFG_GRAN.of old ≠ Fld.HOP_ORD_CFG_GRAN.of new then s.clearResv (fun _ _ => true) else s
  | .LAY_STALL_STATUS => if cleared Fld.LAY_STALL_STATUS_VALID then s.setRaw l.reg l.key 0 else s
  | .HOP_LOST_LOG => if cleared Fld.HOP_LOST_LOG_VALID then s.setRaw l.reg l.key 0 else s
  | .QRN_UE_LOG => if cleared Fld.QRN_UE_LOG_VALID then s.setRaw l.reg l.key 0 else s
  | .QRN_ROW_LOG => if cleared Fld.QRN_ROW_LOG_VALID then s.setRaw l.reg l.key 0 else s
  | .BRK_SAFE => if cleared Fld.BRK_SAFE_VALID then s.setRaw l.reg l.key 0 else s
  | .WEIR_STATUS => if cleared Fld.WEIR_STATUS_SCALED then s.fset Fld.WEIR_STATUS_F1_MIN (s.fheld Fld.WEIR_STATUS_F1) else s
  | .QRN_WMAP_CFG =>
    let s := if set Fld.QRN_WMAP_CFG_CLEAR then s.setQrn h { s.qrn h with clearing := true } else s
    if Fld.QRN_WMAP_CFG_EN.of new = 0 then s.endFills h else s
  | .RACE_MR_CMD => if Fld.RACE_MR_CMD_BUSY.of old = 0 && set Fld.RACE_MR_CMD_GO then s.startMr i new else s
  | .RACE_SLOT_SHD => if (slotWord nv).2 then s.fset Fld.RACE_SLOT_STAT_BADCODE 1 i else s
  | .RACE_SLOT_ACT =>
    let s := if (slotWord nv).2 then s.fset Fld.RACE_SLOT_STAT_BADCODE 1 i else s
    let s := s.keepTable i ((List.range 8).map (fun j => if j = l.idx.getD 1 0 then old else s.actWord i j))
    (s.fset Fld.RACE_SLOT_STAT_DIRECT 1 i).fset Fld.RACE_SLOT_STAT_ADMIT 0 i
  | .SLU_SLOT_SWAP =>
    if s.clk.mc < 48 then s
    else { s with clk := { s.clk with swapLate := s.clk.swapLate ||| (Fld.SLU_SLOT_SWAP_RACES.of new &&& (Fld.SLU_SLOT_SWAP_RACES.of old ^^^ 0xFFFFFFFF)) } }
  | .FAN_CTRL =>
    let asked := (List.range 16).filter (fun k => bit (Fld.FAN_CTRL_RETRAIN.of new) k && !bit (Fld.FAN_CTRL_RETRAIN.of old) k)
    let s := s.fset Fld.FAN_CTRL_RETRAIN (Fld.FAN_CTRL_RETRAIN.of old) 0 h
    each asked (fun k s => if s.raceRuns (16 * h + k) then s.askRetrain (16 * h + k) else s) s
  | .HOP_STREAM =>
    if Fld.HOP_STREAM_HOME.of old ≠ Fld.HOP_STREAM_HOME.of new then s.clearResv (fun k _ => k = i) else s
  | .WEIR_GRP => s.fset Fld.WEIR_STATUS_A0 s.allowance
  | .GOV_SUP_STAT => if Fld.GOV_SUP_STAT_DIPS.of nv = 0 then { s with gov := { s.gov with minVdd := 0xFF } } else s
  | .GOV_PWR_CTRL =>
    let s := if set Fld.GOV_PWR_CTRL_PAD_RELEASE then
        (if s.gov.pads then s.releasePads else s).fset Fld.GOV_PWR_CTRL_PAD_RELEASE 0 else s
    if set Fld.GOV_PWR_CTRL_GO then
      match PState.of (Fld.GOV_PWR_CTRL_REQ.of new), path with
      | some p, .fw c => if s.awake && s.gov.entry.isNone && !s.brk.safe then s.requestState p (some c) false false else s.fset Fld.GOV_PWR_CTRL_GO 0
      | _, _ => s.fset Fld.GOV_PWR_CTRL_GO 0
    else s
  | .GOV_RST_CTRL =>
    let s := if Fld.GOV_RST_CTRL_WARM.of nv = 1 then s.askReset .warm else s
    let s := if Fld.GOV_RST_CTRL_HALF_W.of nv = 1 then s.askReset .half else s
    if Fld.GOV_RST_CTRL_RACE.of nv ≠ 0 then s.askReset (.race (Fld.GOV_RST_CTRL_RACE.of nv)) else s
  | .BRK_INJ =>
    let s := (s.fset Fld.BRK_INJ_GO 0).fset Fld.BRK_INJ_STOP 0
    let s := if Fld.BRK_INJ_STOP.of nv = 1 then s.injStop else s
    if Fld.BRK_INJ_GO.of nv = 1 then
      s.injStart (Fld.BRK_INJ_SRC.of new) (Fld.BRK_INJ_INST.of new) (Fld.BRK_INJ_MODE.of new) (Fld.BRK_INJ_QUIET.of new = 1)
    else s
  | .BRK_SRC_CFG =>
    let was := match s.brk.sevOld.find? i with | some (t, v) => if t = s.now then v else Fld.BRK_SRC_CFG_SEV.of old | none => Fld.BRK_SRC_CFG_SEV.of old
    { s with brk := { s.brk with sevOld := s.brk.sevOld.ins i (s.now, was) } }
  | .BRK_SRC_STAT =>
    let r := (s.setRaw l.reg l.key old).pendClear i (Fld.BRK_SRC_STAT_PEND.of nv)
    if r.2 then r.1.fset Fld.BRK_CTRL_CLR_REFUSED 1 else r.1
  | .TLY_CFG =>
    if Fld.TLY_CFG_WBITS.of old ≠ Fld.TLY_CFG_WBITS.of new then
      (s.setTly h { s.tly h with bwPart := true, bwLatch := none, bwModR := {}, bwModW := {}, bwGrpR := {}, bwGrpW := {} }).fset Fld.TLY_STAT_BWVALID 0 0 h
    else s
  | .TLY_HEAT_DATA =>
    let g := s.fheld Fld.TLY_HEAT_IDX_IDX 0 h % s.heatGroups
    let heat := (List.range 4).foldl (fun (t : Tbl Nat) k => t.put 0 (4 * g + k) (bits new.toNat (8 * k) 8)) (s.tly h).heat
    ((s.setTly h { s.tly h with heat := heat }).setRaw l.reg l.key 0).heatStep h
  | .MIL_MB_CTRL =>
    let s := if cleared Fld.MIL_MB_CTRL_DONE && Fld.MIL_MB_CTRL_DONE.of old = 1 then s.releaseBox h i else s
    if Fld.MIL_MB_CTRL_GO.of nv = 1 then s.ring h i else s
  | .MIL_I3C_CFG => if Fld.MIL_I3C_CFG_ATT_EN.of new = 0 then { s with i3c := { s.i3c with attAddr := none } } else s
  | .TST_CTRL => if Fld.TST_CTRL_EXIT.of nv = 1 then (s.fset Fld.TST_CTRL_TESTMODE 0).askReset .warm else s
  | _ => s

/-- The mask and the written value of an access, as bits of the whole register. -/
def writtenBits (a : Acs) (val : Word) : Word × Word :=
  let v := val.toNat % 2 ^ 32
  if a.part = 1 then (BitVec.ofNat 64 (2 ^ 32 - 1), BitVec.ofNat 64 v)
  else if a.part = 2 then (BitVec.ofNat 64 ((2 ^ 32 - 1) * 2 ^ 32), BitVec.ofNat 64 (v * 2 ^ 32))
  else if a.loc.reg.info.wide then (BitVec.allOnes 64, val)
  else (BitVec.ofNat 64 (2 ^ 32 - 1), BitVec.ofNat 64 v)
/-- The bits that a read of the register would show there, where they differ from the word kept: HEAT_DATA keeps its levels in the heat map. -/
def State.oldWord (s : State) (l : Loc) : Word := if l.reg = .TLY_HEAT_DATA then s.shown l else s.raw l.reg l.key
/-- Store a write: a register whose write takes effect at the next boundary keeps its word in force until then. -/
def State.store (s : State) (path : Path) (l : Loc) (old new nv : Word) : State :=
  let t := s.setRaw l.reg l.key new
  let t := if l.reg.delayed && (s.eff.find? l.key).isNone && decide (new ≠ old) then { t with eff := t.eff.ins l.key old } else t
  t.writeHook path l old new nv
/-- A write that a ring register does not take sets BADRING (R402). -/
def State.badRing (s : State) (l : Loc) (new : Word) : State :=
  if l.reg = .TLY_RING && !s.ringOk new then s.fset Fld.TLY_STAT_BADRING 1 0 l.half else s
/-- A write of the window (R18, R486): checked, merged by access code, limited, stored, and acted on. -/
def State.regWrite (s : State) (path : Path) (off : Nat) (w64 : Bool) (val : Word) : State :=
  match s.acs path off w64 false with
  | .error e => s.answered path e 0
  | .ok a =>
    let l := a.loc
    let m := writtenBits a val
    let old := s.oldWord l
    let raw := limitWord l.reg (mergeWord l.reg old m.2 m.1)
    match s.refuses path l old raw m.2 with
    | some e => s.answered path e 0
    | none =>
      if l.mirror || (l.reg = .BRK_SRC_CFG && (srcRow (l.idx.getD 0 0)).isNone) || (l.reg = .BRK_SRC_STAT && (srcRow (l.idx.getD 0 0)).isNone) then
        s.answered path St.ok 0
      else
        let new := s.honoured l old raw
        let nv := if l.reg = .GOV_SUP_STAT && a.part = 1 then BitVec.allOnes 64 else if l.reg = .RACE_SLOT_SHD || l.reg = .RACE_SLOT_ACT then raw else m.2
        ((s.store path l old new nv).badRing l raw).answered path St.ok 0

/-! ### Requests for one field -/

/-- A write of a whole register instance, 64 bits wide where the register is. -/
def State.writeReg (s : State) (path : Path) (r : Reg) (key : Nat) (val : Word) : State := s.regWrite path key r.info.wide val
/-- A write of a register that changes only a field: the other RW fields are written as held, the acting bits as 0. -/
def State.writeField (s : State) (path : Path) (f : Field) (v : Nat) (i : Nat := 0) (h : Nat := 0) : State :=
  let k := f.reg.key i h
  let held := f.reg.fields.foldl (fun (w : Word) x => if x.acc = .rw ∨ x.acc = .rwl then w else x.put w 0) (s.raw f.reg k)
  s.writeReg path f.reg k (f.put held v)

end Sys2Proof.Machine
end

