-- ==== Sys2Proof/Machine/Miller.lean ====
section
/-!
DEFINITION. Miller's mailboxes (R409 to R421) and the commands on identity, status and firmware (R422, R425, R427). A doorbell is queued by
a write of GO (Access); MAILBOX_SERVICE_START takes the oldest one and makes the checks 1 to 6 of R420; the command's own row makes its own
checks and its effect, and replies; a background command replies with COMMAND_COMPLETE (Commands).
-/
namespace Sys2Proof.Machine

/-! ### The request of a mailbox (R417) -/

/-- Request word w of the mailbox in service. -/
def State.mbWord (s : State) (v : Serve) (w : Nat) : Word := s.raw .MIL_MB_REQ (Reg.key2 .MIL_MB_REQ v.box w v.half)
/-- ARG as one number, byte 0 lowest; bytes at or beyond NARG are zero. -/
def State.argAll (s : State) (v : Serve) : Nat :=
  ((List.range 7).foldl (fun a w => a + (s.mbWord v (w + 1)).toNat * 2 ^ (64 * w)) 0) % 2 ^ (8 * min 56 (mbNarg (s.mbWord v 0)))
/-- n bytes of ARG from an offset. -/
def State.arg (s : State) (v : Serve) (off n : Nat) : Nat := bits (s.argAll v) (8 * off) (8 * n)

/-! ### Replies (R412, R413, R418) -/

/-- RESULT as one number from fields (offset, bytes, value). -/
def results (l : List (Nat × Nat × Nat)) : Nat := l.foldl (fun a e => a + e.2.2 % 2 ^ (8 * e.2.1) * 2 ^ (8 * e.1)) 0
/-- The In-Band Interrupt number of a mailbox; a convention of the model. -/
def ibiMailbox : Nat := 0x100
/-- Write a reply: the words, DONE; BUSY and GO clear; the In-Band Interrupt of mailboxes 6 and 7. -/
def State.putReply (s : State) (v : Serve) (st det res : Nat) : State :=
  let w0 := s.mbWord v 0
  let s := s.setRaw .MIL_MB_RSP (Reg.key2 .MIL_MB_RSP v.box 0 v.half) (mbReply (mbOpc w0) (mbTag w0) st det)
  let s := each (List.range 7) (fun w s =>
    s.setRaw .MIL_MB_RSP (Reg.key2 .MIL_MB_RSP v.box (w + 1) v.half) (BitVec.ofNat 64 (bits res (64 * w) 64))) s
  let s := ((s.fset Fld.MIL_MB_CTRL_DONE 1 v.box v.half).fset Fld.MIL_MB_CTRL_BUSY 0 v.box v.half).fset Fld.MIL_MB_CTRL_GO 0 v.box v.half
  if s.fheld Fld.MIL_MB_CTRL_IBI_DONE v.box v.half = 1 && decide (v.box ≥ 6) && s.i3c.ibiMgmt then
    { s with out := { s.out with ibi := ⟨0, ibiMailbox, 8 * v.half + v.box, 0⟩ :: s.out.ibi } }
  else s
/-- The command in service on a core is answered. -/
def State.endCur (s : State) (c st det res : Nat) : State :=
  match (s.core c).cur with
  | none => s
  | some v => let t := s.putReply v st det res; t.setCore c { t.core c with cur := none }
/-- The background command of a core is answered. -/
def State.endBg (s : State) (c st det res : Nat) : State :=
  match (s.core c).bg with
  | none => s
  | some v => let t := s.putReply v st det res; t.setCore c { t.core c with bg := none, bgAux := 0 }
def State.okCur (s : State) (c : Nat) (l : List (Nat × Nat × Nat)) : State := s.endCur c St.ok 0 (results l)
/-- BADARG with the request byte of an ARG byte (R420). -/
def State.badCur (s : State) (c off : Nat) : State := s.endCur c St.badarg (8 + off) 0
def State.denyCur (s : State) (c det : Nat) : State := s.endCur c St.denied det 0
/-- The command in service becomes the core's background command. -/
def State.toBg (s : State) (c aux : Nat) : State :=
  let k := s.core c
  s.setCore c { k with cur := none, bg := k.cur, bgAux := aux }
/-- Carry out the command in service on a core where its opcode is the one given. -/
def State.serve (s : State) (c opc : Nat) (f : Serve → State → State) : State :=
  match (s.core c).cur with
  | some v => if c < 2 ∧ v.opc = opc then f v s else s
  | none => s
/-- The first of a list of checks that fails gives the reply: status and DETAIL; none fails: carry on. -/
def State.checked (s : State) (c : Nat) (l : List (Bool × Nat × Nat)) (f : State → State) : State :=
  match l.find? (fun e => e.1) with
  | some (_, st, det) => s.endCur c st det 0
  | none => f s
/-- An argument check: BADARG at an ARG byte. -/
def badAt (b : Bool) (off : Nat) : Bool × Nat × Nat := (b, St.badarg, 8 + off)
/-- The register a command returns, as a read shows it. -/
def State.see (s : State) (r : Reg) (i : Nat := 0) (h : Nat := 0) : Nat := (s.shown ⟨r, r.key i h, [i], h, false⟩).toNat

/-! ### The checks before service (R410, R414, R420, R421) -/

/-- Opcodes that the tables of R422 list. -/
def opDefined (o : Nat) : Bool :=
  o ∈ [0x00, 0x01, 0x02, 0x03, 0x04, 0x05, 0x06] ∨ (o / 8 = 2 ∧ o % 8 ≤ 7) ∨ (o / 16 ∈ [2, 3, 4, 5, 6] ∧ o % 16 < 4) ∨ o / 8 = 14
/-- Commands that run on the core of the mailbox's half; the others run on East. -/
def opHere (o : Nat) : Bool := o ∈ [0x00, 0x01, 0x03, 0x05, 0x30, 0x33]
/-- Background commands; FW_LOAD in mode 1. -/
def opLong (o mode : Nat) : Bool := o ∈ [0x04, 0x22, 0x31, 0x33, 0x40, 0x74, 0x76] ∨ (o = 0x03 ∧ mode = 1)
/-- Opcodes served in the safe state (R421). -/
def opSafe (o : Nat) : Bool :=
  o ∈ [0x00, 0x01, 0x02, 0x11, 0x13, 0x15, 0x30, 0x33, 0x43, 0x50, 0x51, 0x52, 0x53, 0x70, 0x71, 0x72, 0x73, 0x75]
/-- The bits of a register that its fields take. -/
def regMask (r : Reg) : Nat := r.fields.foldl (fun a f => a + (2 ^ f.w - 1) * 2 ^ f.lo) 0
/-- ARG bytes (offset, count) that a command's table row names; register values are given with their own mask. -/
def argBytes (o b0 : Nat) : List (Nat × Nat) :=
  if o = 0x03 then (if b0 = 1 then [(0, 1), (4, 4), (8, 12)] else [(0, 1), (4, 4), (8, 48)])
  else if o = 0x10 ∨ o = 0x11 then [(0, 2)]
  else if o = 0x14 then [(0, 6), (8, 48)]
  else if o ∈ [0x15, 0x16, 0x17, 0x20, 0x32] then [(0, 4)]
  else if o = 0x21 then [(0, 5), (8, 4)]
  else if o = 0x22 then (if b0 = 0 ∨ b0 = 2 then [(0, 2)] else if b0 = 1 then [(0, 4)] else if b0 = 3 then [(0, 1), (8, 8)] else [(0, 1), (4, 2)])
  else if o ∈ [0x31, 0x50] then [(0, 2)]
  else if o = 0x33 ∨ o = 0x63 then (if o = 0x33 then [(0, 2), (4, 4)] else [(0, 2), (4, 4), (8, 48)])
  else if o = 0x51 ∨ o = 0x75 then [(0, 1), (4, 4)]
  else if o = 0x52 then [(0, 5)]
  else if o = 0x71 ∨ o = 0x72 then [(0, 1), (8, 48)]
  else if o ∈ [0x04, 0x12, 0x13, 0x23, 0x30, 0x40, 0x60, 0x61, 0x74, 0x76, 0x77] then [(0, 1)]
  else []
/-- Register values in ARG: offset and register. -/
def argRegs (o : Nat) : List (Nat × Reg) :=
  if o = 0x10 then [(4, .HOP_STREAM)] else if o = 0x12 then [(8, .WEIR_GRP)] else if o = 0x41 then [(0, .GOV_PWR_CFG)]
  else if o = 0x42 then [(0, .GOV_THERM_CFG), (8, .GOV_STEP_CFG)] else if o = 0x60 then [(4, .TLY_CFG)]
  else if o = 0x61 then [(8, .TLY_RING)] else if o = 0x62 then [(0, .TLY_USER)] else []
/-- The bits of ARG that the command uses. -/
def argMask (o b0 : Nat) : Nat :=
  (argBytes o b0).foldl (fun a e => a + (2 ^ (8 * e.2) - 1) * 2 ^ (8 * e.1)) 0 + (argRegs o).foldl (fun a e => a + regMask e.2 * 2 ^ (8 * e.1)) 0
/-- The lowest byte of a number that is not zero. -/
def firstByte (n x : Nat) : Option Nat := (List.range n).find? (fun i => decide (bits x (8 * i) 8 ≠ 0))
/-- Request byte of the first field that step 1 refuses (R417, R420). -/
def badField (w0 : Word) (a : Nat) : Option Nat :=
  let o := mbOpc w0
  if !opDefined o then some 0
  else if bits w0.toNat 8 8 ≠ 0 then some 1
  else if mbNarg w0 > 56 then some 4
  else match firstByte 3 (bits w0.toNat 40 24) with
    | some i => some (5 + i)
    | none => (firstByte 56 (a - (a &&& argMask o (a % 256)))).map (8 + ·)
/-- The command names a unit of the half other than h (R410). -/
def namesOther (o a h : Nat) : Bool :=
  let b := fun i : Nat => bits a (8 * i) 8
  if o ∈ [0x14, 0x16, 0x17, 0x20] then decide (bits a (16 * (1 - h)) 16 ≠ 0)
  else if o ∈ [0x15, 0x21, 0x23] then decide (b 0 / 16 = 1 - h)
  else if o = 0x22 then decide (b 0 = 1 ∨ b 0 = 2) && decide (b 1 / 16 = 1 - h)
  else if o ∈ [0x30, 0x61, 0x63] then decide (b 0 = 1 - h)
  else if o = 0x31 ∨ o = 0x60 then bit (b 0) (1 - h)
  else if o = 0x33 then decide (b 0 / 4 = 1 - h)
  else decide (o = 0x04)
/-- A fetch of an image touches cells of the half other than h. -/
def State.fetchCrosses (s : State) (o a h : Nat) : Bool :=
  decide (o = 0x03) && decide (a % 256 = 1)
    && (List.range ((bits a 128 32 + 63) / 64)).any (fun k => decide (raceHalf (s.raceAt (bits a 64 64 + 64 * k)) ≠ h))
/-- Step 2: the domain that is not fitted. -/
def State.unfitted (s : State) (c o a : Nat) : Option Nat :=
  if o / 16 ≠ 3 then none
  else if !hoistFitted s.ld then some (64 + c)
  else if o = 0x33 ∧ a % 256 < 8 ∧ portFitted s.ld (a % 256) = false then some (52 + a % 256)
  else none
/-- Step 5: DETAIL of LOCKED, for the commands that are closed as a whole (R392, R448, R450). -/
def State.lockedBy (s : State) (o : Nat) : Option Nat :=
  if o = 0x52 ∧ s.factory = false then some 1
  else if o = 0x77 ∧ s.unlocked = false then some 2
  else none
/-- Steps 1 to 6 of R420 on core c: status and DETAIL of the first that fails. -/
def State.early (s : State) (c : Nat) (v : Serve) : Option (Nat × Nat) :=
  let w0 := s.mbWord v 0
  let a := s.argAll v
  let o := mbOpc w0
  match badField w0 a with
  | some d => some (St.badarg, d)
  | none => match s.unfitted c o a with
    | some d => some (St.notFitted, d)
    | none =>
      if s.brk.safe && !opSafe o then some (St.denied, 1)
      else if s.splitNow && (namesOther o a c || s.fetchCrosses o a c || (!opHere o && decide (c ≠ 0 ∨ v.half ≠ 0))) then some (St.denied, 3)
      else match s.lockedBy o with
        | some d => some (St.locked, d)
        | none => match (s.core c).bg with
          | some g => if opLong o (a % 256) then some (St.busy, g.opc) else none
          | none => none
/-- SELFTEST goes to the background at once: its tests are its rows (R443). -/
def State.startTests (s : State) (c : Nat) (v : Serve) : State :=
  let m := s.arg v 0 1
  if m > 7 then s.endCur c St.locked 1 0
  else let t := s.toBg c m; { t with mmk := { t.mmk with stBusy := true, stFail := 0 } }
/-- The oldest doorbell of a core is served, relayed to East, or answered by a check. -/
def State.startService (s : State) (c : Nat) : State :=
  let k := s.core c
  match k.queue with
  | [] => s
  | (h, box) :: rest =>
    let s := s.setCore c { k with queue := rest }
    let v0 : Serve := ⟨h, box, 0⟩
    let v : Serve := { v0 with opc := mbOpc (s.mbWord v0 0) }
    if c = 1 && opDefined v.opc && !opHere v.opc && !s.splitNow then
      s.setCore 0 { s.core 0 with queue := s.insRung (h, box) (s.core 0).queue }
    else match s.early c v with
      | some e => s.putReply v e.1 e.2 0
      | none =>
        let t := s.setCore c { s.core c with cur := some v }
        if v.opc = 0x76 then t.startTests c v else t
/-- A core may start a service: it runs, serves no short command, and no image is being activated (R414, R427). -/
def State.coreFree (s : State) (c : Nat) : Bool :=
  decide (c < 2) && s.domainOn (62 + c) && (s.core c).up && (s.core c).cur.isNone
    && (match s.mil.east.bg with | some v => decide (v.opc ≠ 0x04) | none => true)
def execMailboxServiceStart (core : Nat) (s : State) : Host.Outcome State Fault Refusal :=
  .next (when (s.coreFree core) (fun s => s.startService core) s)

/-! ### Identity and status (0x00 to 0x02) -/

def State.cmdPing (s : State) (c : Nat) : State := s.serve c 0x00 (fun _ s => s.okCur c [(0, 8, (s.fwVer c).toNat)])
def execPing (core : Nat) (s : State) : Host.Outcome State Fault Refusal := .next (s.cmdPing core)
/-- The digest of the unit certificate (R434). -/
def State.certDigest (s : State) : BitVec 384 := Config.sha384 ((Config.certsOf s.fuse.certs).getD 0 [])
def State.cmdGetId (s : State) (c : Nat) : State :=
  s.serve c 0x01 (fun _ s =>
    s.okCur c [(0, 4, s.see .MMK_FITTED), (4, 1, s.ld.lc), (5, 1, b2n s.unlocked), (8, 48, s.certDigest.toNat)])
def execGetId (core : Nat) (s : State) : Host.Outcome State Fault Refusal := .next (s.cmdGetId core)
/-- Both halves are serve-ready; serve-complete goes with it where no granary port is fitted. -/
def State.readyBoth (s : State) : Bool := s.boot.readyE && s.boot.readyW
def State.completeBoth (s : State) : Bool := s.readyBoth && (!hoistFitted s.ld || (s.hstE.serveComplete && s.hstW.serveComplete))
def State.cmdGetStatus (s : State) (c : Nat) : State :=
  s.serve c 0x02 (fun _ s =>
    let hs := fun (h : Nat) => if h = 1 && (s.splitNow || !s.domainOn 65) then 0 else s.see .HST_STATUS 0 h
    let flags := b2n s.readyBoth + 2 * b2n s.completeBoth + 4 * b2n s.splitNow
    s.okCur c [(0, 8, s.see .GOV_STATUS), (8, 8, hs 0), (16, 8, hs 1), (24, 8, s.see .WEIR_STATUS), (32, 4, s.see .BRK_CTRL),
      (36, 1, flags), (40, 8, s.clk.turn)])
def execGetStatus (core : Nat) (s : State) : Host.Outcome State Fault Refusal := .next (s.cmdGetStatus core)

/-! ### Firmware (0x03 to 0x06, R427) -/

/-- The largest image in bytes. -/
def imageMax : Nat := 524288
def Core.hold (k : Core) (off : Nat) (l : List Byte) : Core :=
  { k with stage := (l.zipIdx).foldl (fun (t : Tbl Byte) e => t.ins (off + e.2) e.1) k.stage }
/-- Mode 0 (or a mode that does not exist, which is refused). -/
def State.cmdFwLoad (s : State) (c : Nat) : State :=
  s.serve c 0x03 (fun v s =>
    let mode := s.arg v 0 1
    if mode = 1 then s
    else
      let off := s.arg v 4 4
      let n := mbNarg (s.mbWord v 0) - 8
      s.checked c [badAt (decide (mode > 1)) 0, badAt (decide (off + n > imageMax)) 4] (fun s =>
        let s := s.setCore c ((s.core c).hold off ((List.range n).map (fun i => BitVec.ofNat 8 (s.arg v (8 + i) 1))))
        s.okCur c [(0, 4, (s.core c).stage.rows.length)]))
def execFwLoadData (core : Nat) (s : State) : Host.Outcome State Fault Refusal := .next (s.cmdFwLoad core)
/-- A cell as a visible read gives it: the newest visible full store in Millpond, or else the write queue, the written map or the die,
with the bytes of the masked stores after it merged in (R99); poisoned bytes are free (log entry 10). -/
def State.coreCell (s : State) (a : Nat) : Cell :=
  let vis := s.pond.filter (fun e => e.addr = a ∧ e.vis ≠ 0 ∧ e.mask ≠ 0 ∧ !e.amo)
  let under := fun n : Nat => vis.filter (fun e => e.vis > n)
  let full := newest (fun e => e.vis) (vis.filter (fun e => !e.masked))
  let base := match full with
    | some e => if e.psn then Config.freeCell (s.freeCtr + a / 64) else e.data
    | none =>
      if !s.isWritten a then 0
      else match (s.race (s.raceAt a)).wqAt a with
        | some w => if w.psn then Config.freeCell (s.freeCtr + a / 64) else w.data
        | none => (copyData (rsDecode (s.cellWord a))).getD (Config.freeCell (s.freeCtr + a / 64))
  ((under ((full.map (fun e => e.vis)).getD 0)).foldr insVis []).foldl (fun c e => mergeCell c e.data e.mask) base
/-- Bytes of working memory from an address aligned to 64 bytes. -/
def State.coreBytes (s : State) (a n : Nat) : List Byte :=
  (List.range n).map (fun i => BitVec.ofNat 8 (cellByte (s.coreCell (a + i / 64 * 64)) (i % 64)))
/-- The memory that a core may fetch from is serve-ready: both halves, its own during a split. -/
def State.fetchReady (s : State) (c : Nat) : Bool := if s.splitNow then s.serveReady c else s.readyBoth
/-- Mode 1 starts: the image bytes are fetched in the background. -/
def State.cmdFwFetch (s : State) (c : Nat) : State :=
  s.serve c 0x03 (fun v s =>
    if s.arg v 0 1 ≠ 1 then s
    else
      let a := s.arg v 8 8
      let n := s.arg v 16 4
      s.checked c [badAt (decide (s.arg v 4 4 + n > imageMax)) 4, badAt (decide (a % 64 ≠ 0) || decide (a + n > topOf s.ld)) 8,
        (!s.fetchReady c, St.denied, 4)] (fun s => s.toBg c 0))
def execFwLoadFetch (core : Nat) (s : State) : Host.Outcome State Fault Refusal := .next (s.cmdFwFetch core)
/-- The fetch ends: the bytes are held. -/
def State.fetchDone (s : State) (c : Nat) (v : Serve) : State :=
  let n := s.arg v 16 4
  let s := s.setCore c ((s.core c).hold (s.arg v 4 4) (s.coreBytes (s.arg v 8 8) n))
  ({ s with freeCtr := s.freeCtr + 2 ^ 40 }).endBg c St.ok 0 (results [(0, 4, (s.core c).stage.rows.length)])

/-- Bytes of the staged image. -/
def Core.bytes (k : Core) (off n : Nat) : List Byte := (List.range n).map (fun i => k.stage.get 0 (off + i))
/-- MAGIC, MAJOR, LENGTH, DIGEST and SIG verify. -/
def State.imageOk (s : State) (k : Core) : Bool :=
  let len := stageNat k.stage 12 4
  decide (stageNat k.stage 0 4 = 0x5746594B) && decide (stageNat k.stage 4 1 = 3) && decide (len ≤ imageMax - 256)
    && decide ((Config.sha384 (k.bytes 256 len)).toNat = stageNat k.stage 16 48)
    && Config.ecdsaVerify (Config.firmwareKeyOf s.ld.keyFuse) (Config.sha384 (k.bytes 0 64)) (BitVec.ofNat 768 (stageNat k.stage 64 96))
def Core.image (k : Core) : Image :=
  { minor := stageNat k.stage 5 1, build := stageNat k.stage 6 2, svn := stageNat k.stage 8 1, loaded := true
    digest := BitVec.ofNat 384 (stageNat k.stage 16 48) }
/-- What an activation needs of the device. -/
def State.mayActivate (s : State) : Bool :=
  let ok := fun (x : Hst) => x.st = .steady || x.st = .failed || x.st = .off
  s.awake && !s.gov.alert && !s.gov.drain && !s.brk.safe && s.gov.entry.isNone && ok s.hstE && ok s.hstW && s.mil.west.bg.isNone
def State.cmdFwActivate (s : State) (c : Nat) : State :=
  s.serve c 0x04 (fun v s =>
    let k := s.core 0
    s.checked c [badAt (decide (s.arg v 0 1 > 1)) 0, (!k.complete, St.denied, 0x12), (!s.imageOk k, St.denied, 0x10),
      (decide (k.image.svn < s.ld.svnMin), St.denied, 0x11), (!s.mayActivate, St.denied, 4)] (fun s => s.toBg c 0))
def execFwActivate (core : Nat) (s : State) : Host.Outcome State Fault Refusal := .next (s.cmdFwActivate core)
/-- The new image runs in both cores; BURN_SVN raises SVN_MIN. -/
def State.activate (s : State) (v : Serve) : State :=
  let g := s.mil.east.image
  let svn := if s.arg v 0 1 = 1 then max s.ld.svnMin g.svn else s.ld.svnMin
  let go := fun k : Core => { k with img := g, stage := {} }
  let s := { s with mil := { s.mil with east := go s.mil.east, west := go s.mil.west }
                    fuse := { s.fuse with svnMin := svn }, ld := { s.ld with svnMin := svn } }
  s.endBg 0 St.ok 0 (results [(0, 8, (s.fwVer 0).toNat)])
def State.cmdFwDiscard (s : State) (c : Nat) : State :=
  s.serve c 0x05 (fun _ s => (s.setCore c { s.core c with stage := {} }).okCur c [])
def execFwDiscard (core : Nat) (s : State) : Host.Outcome State Fault Refusal := .next (s.cmdFwDiscard core)
/-- The reply comes first; the reset begins 64 Turns later (R425). -/
def State.cmdSoftReset (s : State) (c : Nat) : State :=
  s.serve c 0x06 (fun _ s =>
    s.checked c [(s.gov.alert || s.gov.drain, St.denied, 4)] (fun s =>
      ({ s with mil := { s.mil with softAt := some (s.mil.softAt.getD s.clk.age) } }).okCur c []))
def execSoftReset (core : Nat) (s : State) : Host.Outcome State Fault Refusal := .next (s.cmdSoftReset core)

end Sys2Proof.Machine
end

