-- ==== Sys2Proof/Machine/Commands.lean ====
section
/-!
DEFINITION. The mailbox commands on streams, groups and slot tables, training and repair, granary, power, Brake and Tally (R422 to R426),
their own checks in the order of the command tables, and the end of the background commands.
-/
namespace Sys2Proof.Machine

/-- Firmware of core c writes a register instance whole. -/
def State.fwWrite (s : State) (c : Nat) (r : Reg) (key val : Nat) : State := s.writeReg (.fw c) r key (BitVec.ofNat 64 val)
/-- The races of a mask, ascending. -/
def racesOf (m : Nat) : List Nat := (List.range 32).filter (fun r => bit m r)
/-- A named race is off or isolated: OFF_DOMAIN with its number. -/
def State.offRace (s : State) (l : List Nat) : Bool × Nat × Nat :=
  match l.find? (fun r => s.isolated r || !s.domainOn r) with
  | some r => (true, St.offDomain, r)
  | none => (false, 0, 0)
/-- A domain that the command needs is off. -/
def State.offDom (s : State) (d : Nat) : Bool × Nat × Nat := (!s.domainOn d, St.offDomain, d)

/-! ### Streams and groups (0x10 to 0x13, R240, R241) -/

/-- The word that a write of the stream table would leave, and whether R240 refuses it. -/
def State.streamHeld (s : State) (st val : Nat) : Bool :=
  let l : Loc := ⟨.HOP_STREAM, Reg.key .HOP_STREAM st 0, [st], 0, false⟩
  let old := s.raw .HOP_STREAM l.key
  let new := limitWord .HOP_STREAM (mergeWord .HOP_STREAM old (BitVec.ofNat 64 val) (BitVec.allOnes 64))
  decide (s.honoured l old new ≠ new)
def State.cmdSetStream (s : State) (c : Nat) : State :=
  s.serve c 0x10 (fun v s =>
    let st := s.arg v 0 2
    let val := s.arg v 4 4
    s.checked c [badAt (decide (st > 4095)) 0, (s.streamHeld st val, St.busy, 0)] (fun s =>
      (s.fwWrite c .HOP_STREAM (Reg.key .HOP_STREAM st 0) val).okCur c []))
def execSetStream (core : Nat) (s : State) : Host.Outcome State Fault Refusal := .next (s.cmdSetStream core)
def State.cmdGetStream (s : State) (c : Nat) : State :=
  s.serve c 0x11 (fun v s =>
    let st := s.arg v 0 2
    s.checked c [badAt (decide (st > 4095)) 0] (fun s => s.okCur c [(0, 4, s.see .HOP_STREAM st)]))
def execGetStream (core : Nat) (s : State) : Host.Outcome State Fault Refusal := .next (s.cmdGetStream core)

/-- The argument checks of a contract, lowest byte first: SHARE1, C0_RATE, C0_MODS at bytes 0, 4 and 5 of the value (R241). -/
def State.groupArgs (s : State) (w : Word) : List (Bool × Nat × Nat) :=
  let mods := Fld.WEIR_GRP_C0_MODS.of w
  [badAt (decide (Fld.WEIR_GRP_SHARE1.of w > 1000)) 8, badAt (decide (Fld.WEIR_GRP_C0_RATE.of w = 3)) 12,
   badAt ((List.range 20).any (fun m => bit mods m && !modFitted s.ld m)) 13]
/-- The active table of a race fails check 3 or 4 of R254. -/
def State.boundFails (s : State) (r : Nat) : Bool :=
  let t := s.actTable r
  decide (countCode t 1 = 0) || decide (s.boundThirds r (tableGap t) s.allowance (s.crossOf r) s.longestFlit > 1260)
/-- What the contracts as a whole exceed, in a state with the change made: DETAIL of OVERCOMMIT. -/
def State.overcommit (s : State) : Option Nat :=
  if ((List.range 64).map (fun g => s.fheld Fld.WEIR_GRP_SHARE1 g)).sum > 1000 then some 0xFF01
  else if s.allowance > 2 then some 0xFF02
  else if s.allowance = 0 then none
  else ((List.range 32).find? s.boundFails).map (fun r => r * 256 + 3)
def State.cmdSetGroup (s : State) (c : Nat) : State :=
  s.serve c 0x12 (fun v s =>
    let g := s.arg v 0 1
    let w : Word := BitVec.ofNat 64 (s.arg v 8 8)
    s.checked c (badAt (decide (g > 63)) 0 :: s.groupArgs w) (fun s =>
      match (s.setRaw .WEIR_GRP (Reg.key .WEIR_GRP g 0) w).overcommit with
      | some d => s.endCur c St.overcommit d 0
      | none => (s.fwWrite c .WEIR_GRP (Reg.key .WEIR_GRP g 0) w.toNat).okCur c []))
def execSetGroup (core : Nat) (s : State) : Host.Outcome State Fault Refusal := .next (s.cmdSetGroup core)
def State.cmdGetGroup (s : State) (c : Nat) : State :=
  s.serve c 0x13 (fun v s =>
    let g := s.arg v 0 1
    s.checked c [badAt (decide (g > 63)) 0] (fun s => s.okCur c [(0, 8, s.see .WEIR_GRP g)]))
def execGetGroup (core : Nat) (s : State) : Host.Outcome State Fault Refusal := .next (s.cmdGetGroup core)

/-! ### Slot tables (0x14 to 0x17, R210, R254, R423) -/

def State.cmdSetSlots (s : State) (c : Nat) : State :=
  s.serve c 0x14 (fun v s =>
    let races := racesOf (s.arg v 0 4)
    let first := s.arg v 4 1
    let n := s.arg v 5 1
    s.checked c [badAt (decide (first > 7)) 4, badAt (decide (n = 0) || decide (n > 6) || decide (first + n > 8)) 5, s.offRace races] (fun s =>
      (each races (fun r s =>
        each (List.range n) (fun k s => s.fwWrite c .RACE_SLOT_SHD (Reg.key2 .RACE_SLOT_SHD r (first + k) 0) (s.arg v (8 + 8 * k) 8)) s) s).okCur c []))
def execSetSlots (core : Nat) (s : State) : Host.Outcome State Fault Refusal := .next (s.cmdSetSlots core)
def State.cmdGetSlots (s : State) (c : Nat) : State :=
  s.serve c 0x15 (fun v s =>
    let r := s.arg v 0 1
    let first := s.arg v 2 1
    let n := s.arg v 3 1
    s.checked c [badAt (decide (r > 31)) 0, badAt (decide (s.arg v 1 1 > 1)) 1, badAt (decide (first > 7)) 2,
        badAt (decide (n = 0) || decide (n > 6) || decide (first + n > 8)) 3, s.offRace [r]] (fun s =>
      let word := fun k => if s.arg v 1 1 = 1 then s.actWord r (first + k) else s.shdWord r (first + k)
      s.okCur c ((List.range n).map (fun k => (8 * k, 8, (word k).toNat)) ++ [(48, 8, s.see .RACE_SLOT_STAT r)])))
def execGetSlots (core : Nat) (s : State) : Host.Outcome State Fault Refusal := .next (s.cmdGetSlots core)
/-- The checks of COMMIT_SLOTS: a race off, or the first race and check that fail. -/
def State.slotChecks (s : State) (races : List Nat) : List (Bool × Nat × Nat) :=
  [s.offRace races,
   match races.find? (fun r => decide (s.commitCheck r ≠ 0)) with
   | some r => (true, St.overcommit, r * 256 + s.commitCheck r)
   | none => (false, 0, 0)]
/-- The largest bound over the races, in ns. -/
def State.maxBound (s : State) (races : List Nat) : Nat := (races.map s.boundNs).foldl max 0
/-- All races pass: the swap is requested for all of them; the reply waits for the boundary. -/
def State.cmdCommit (s : State) (c : Nat) : State :=
  s.serve c 0x16 (fun v s =>
    let mask := s.arg v 0 4
    let races := racesOf mask
    if s.mil.commit.isSome then s
    else s.checked c (s.slotChecks races) (fun s =>
      let b := s.maxBound races
      let s := s.writeField (.fw c) Fld.SLU_SLOT_SWAP_RACES mask
      let s := s.fset Fld.WEIR_STATUS_BOUND (min 511 b)
      let s := each races (fun r s => s.setRace r { s.race r with admPend := true }) s
      { s with mil := { s.mil with commit := some (mask, b), swapped := none } }))
def execCommitSlots (core : Nat) (s : State) : Host.Outcome State Fault Refusal := .next (s.cmdCommit core)
/-- The reply of COMMIT_SLOTS, after the boundary of the swap. -/
def State.commitDone (s : State) (c : Nat) : State :=
  match s.mil.commit, s.mil.swapped with
  | some (_, b), some (no, turn) =>
    ({ s with mil := { s.mil with commit := none, swapped := none } }).okCur c [(0, 2, b), (4, 4, no), (8, 8, turn)]
  | _, _ => s
def State.cmdCheckSlots (s : State) (c : Nat) : State :=
  s.serve c 0x17 (fun v s =>
    let races := racesOf (s.arg v 0 4)
    s.checked c (s.slotChecks races) (fun s => s.okCur c [(0, 2, s.maxBound races)]))
def execCheckSlots (core : Nat) (s : State) : Host.Outcome State Fault Refusal := .next (s.cmdCheckSlots core)

/-! ### Training and repair (0x20 to 0x23, R274, R300, R302, R303) -/

def State.cmdRetrain (s : State) (c : Nat) : State :=
  s.serve c 0x20 (fun v s =>
    let races := racesOf (s.arg v 0 4)
    s.checked c [s.offRace races, (s.gov.alert, St.denied, 4)] (fun s =>
      (each races (fun r s => if s.raceRuns r then s.askRetrain r else s) s).okCur c []))
def execRetrain (core : Nat) (s : State) : Host.Outcome State Fault Refusal := .next (s.cmdRetrain core)
/-- The row that REPAIR_ROW names. -/
def State.repairPlace (s : State) (v : Serve) : Place :=
  { race := s.arg v 0 1, pr := s.arg v 1 1, sid := s.arg v 2 1, bg := s.arg v 3 1, bank := s.arg v 4 1, row := s.arg v 8 4
    v := s.arg v 8 4 * s.nsid + s.arg v 2 1, col := 0 }
def State.cmdRepairRow (s : State) (c : Nat) : State :=
  s.serve c 0x21 (fun v s =>
    let p := s.repairPlace v
    s.checked c [badAt (decide (p.race > 31)) 0, badAt (decide (p.pr > 1)) 1, badAt (decide (p.sid ≥ s.nsid)) 2, badAt (decide (p.bg > 3)) 3,
        badAt (decide (p.bank > 7)) 4, badAt (decide (p.row ≥ 2 ^ rowbitsOf s.ld)) 8, s.offRace [p.race]] (fun s =>
      match s.queueRepair p, s.softEntries.find? (fun e => softState e.2 = 0) with
      | some t, some (i, _) => t.okCur c [(0, 1, i)]
      | _, _ => s.denyCur c 5))
def execRepairRow (core : Nat) (s : State) : Host.Outcome State Fault Refusal := .next (s.cmdRepairRow core)

/-- The life-cycle states in which an entry of a TYPE is burned (R302). -/
def typeOk (lc t : Nat) : Bool :=
  (t ∈ [1, 3, 4] ∧ lc ∈ [1, 2, 3, 4]) ∨ (t ∈ [2, 15] ∧ lc ∈ [1, 4])
/-- The lowest blank entry of the fuse map. -/
def State.blankFuse (s : State) : Option Nat := (List.range 1024).find? (fun i => decide ((s.fuse.map.find? i).getD 0 = 0))
/-- Burn an entry at an index: the checks of R302, then the burn in the background. -/
def State.burnAt (s : State) (c t : Nat) (i : Option Nat) (w : Word) : State :=
  let bad := !(s.gov.ps = .run) || s.gov.lowX || s.gov.alert
  if !typeOk s.ld.lc t then s.endCur c St.locked 1 0
  else if s.drs.burn.isSome then s.endCur c St.busy 0x22 0
  else if bad then (s.fset Fld.DRS_STAT_LAST 3).denyCur c 4
  else match i with
    | none => s.denyCur c 5
    | some i => ({ s with drs := { s.drs with burn := some (i, w) } }).toBg c i
/-- FUSE_REPAIR with one SOURCE. -/
def State.fuseCmd (s : State) (c src : Nat) (f : Serve → State → State) : State :=
  s.serve c 0x22 (fun v s => if s.arg v 0 1 = src then f v s else s)
/-- SOURCE 0: a copy of an APPLIED soft row. -/
def State.cmdFuseSoft (s : State) (c : Nat) : State :=
  s.fuseCmd c 0 (fun v s =>
    let w := (s.raw .DRS_SOFT (Reg.key .DRS_SOFT (s.arg v 1 1) 0)).toNat
    s.checked c [badAt (decide (s.arg v 1 1 > 63)) 1, (decide (softState w ≠ 2), St.denied, 4)] (fun s =>
      s.burnAt c 1 s.blankFuse (entSeal (w / 2 ^ 18 * 2 ^ 18))))
def execFuseRepairSoftRow (core : Nat) (s : State) : Host.Outcome State Fault Refusal := .next (s.cmdFuseSoft core)
/-- The repair of a lane group that is in force: failed position plus 1, or 0. -/
def State.laneFix (s : State) (r pr g : Nat) : Nat :=
  match repairLo g pr with
  | some lo => bits (s.raw .SPIN_REPAIR (Reg.key .SPIN_REPAIR r 0)).toNat lo 4
  | none => 0
/-- The fuse entry of a lane repair; the row command group belongs to no pseudo-race. -/
def laneEntry (r pr g n : Nat) : Word :=
  entSeal (3 * 2 ^ 60 + r * 2 ^ 55 + (if g = 6 then 0 else pr) * 2 ^ 54 + g * 2 ^ 22 + (n - 1) * 2 ^ 18)
/-- SOURCE 1: a copy of a lane repair of SPIN_REPAIR. -/
def State.cmdFuseLane (s : State) (c : Nat) : State :=
  s.fuseCmd c 1 (fun v s =>
    let r := s.arg v 1 1
    let pr := s.arg v 2 1
    let g := s.arg v 3 1
    let n := s.laneFix r pr g
    s.checked c [badAt (decide (r > 31)) 1, badAt (decide (pr > 1)) 2, badAt (decide (g > 6)) 3, (decide (n = 0), St.denied, 4)] (fun s =>
      s.burnAt c 3 s.blankFuse (laneEntry r pr g n)))
def execFuseRepairLane (core : Nat) (s : State) : Host.Outcome State Fault Refusal := .next (s.cmdFuseLane core)
/-- SOURCE 2: a race retired. -/
def State.cmdFuseRetire (s : State) (c : Nat) : State :=
  s.fuseCmd c 2 (fun v s =>
    let r := s.arg v 1 1
    s.checked c [badAt (decide (r > 31)) 1] (fun s => s.burnAt c 4 s.blankFuse (entSeal (4 * 2 ^ 60 + r * 2 ^ 55))))
def execFuseRepairRetire (core : Nat) (s : State) : Host.Outcome State Fault Refusal := .next (s.cmdFuseRetire core)
/-- SOURCE 3: a raw entry, its CHK computed; a SOURCE that does not exist is refused. -/
def State.cmdFuseRaw (s : State) (c : Nat) : State :=
  s.serve c 0x22 (fun v s =>
    let src := s.arg v 0 1
    if src < 3 ∨ src = 4 then s
    else s.checked c [badAt (decide (src > 4)) 0] (fun s =>
      let w := s.arg v 8 8
      s.burnAt c (entType w) s.blankFuse (entSeal w)))
def execFuseRepairRaw (core : Nat) (s : State) : Host.Outcome State Fault Refusal := .next (s.cmdFuseRaw core)
/-- SOURCE 4: the TYPE of an entry burned to 0xF. -/
def State.cmdFuseRevoke (s : State) (c : Nat) : State :=
  s.fuseCmd c 4 (fun v s =>
    let i := s.arg v 4 2
    let w := (s.fuse.map.find? i).getD 0
    s.checked c [badAt (decide (i > 1023) || decide (w = 0)) 4] (fun s =>
      s.burnAt c 15 (some i) (BitVec.ofNat 64 (setBits w.toNat 60 4 15))))
def execFuseRepairRevoke (core : Nat) (s : State) : Host.Outcome State Fault Refusal := .next (s.cmdFuseRevoke core)
def State.cmdIsolate (s : State) (c : Nat) : State :=
  s.serve c 0x23 (fun v s =>
    let r := s.arg v 0 1
    s.checked c [badAt (decide (r > 31)) 0] (fun s => (s.isolate r).okCur c []))
def execIsolateRace (core : Nat) (s : State) : Host.Outcome State Fault Refusal := .next (s.cmdIsolate core)

/-! ### Granary (0x30 to 0x33) -/

def State.cmdGranStatus (s : State) (c : Nat) : State :=
  s.serve c 0x30 (fun v s =>
    let h := s.arg v 0 1
    s.checked c [badAt (decide (h > 1)) 0, s.offDom (64 + h)] (fun s =>
      s.okCur c [(0, 8, s.see .HST_STATUS 0 h), (8, 8, s.see .HST_CEIL 0 h), (16, 8, s.see .HST_RATE 0 h), (24, 8, s.see .HST_RESTORE 0 h)]))
def execGranStatus (core : Nat) (s : State) : Host.Outcome State Fault Refusal := .next (s.cmdGranStatus core)
/-- The halves of a mask. -/
def halvesOf (m : Nat) : List Nat := (List.range 2).filter (fun h => bit m h)
def State.cmdGranFormat (s : State) (c : Nat) : State :=
  s.serve c 0x31 (fun v s =>
    let l := halvesOf (s.arg v 0 1)
    let ok := fun h => (s.hst h).st = .failed || (s.hst h).st = .steady
    s.checked c [badAt (decide (s.arg v 0 1 > 3)) 0, badAt (decide (s.arg v 1 1 ≠ 0xA5)) 1, (!s.hostService || !l.all ok, St.denied, 4)] (fun s =>
      (each l (fun h s => s.formatHalf h) s).toBg c 0))
def execGranFormat (core : Nat) (s : State) : Host.Outcome State Fault Refusal := .next (s.cmdGranFormat core)
/-- SET_BACKUP: the usable energy of MODE 1 (R351), held to the width of EMEAS. A capacitance test holds EMEAS at the value before it (R352). -/
def State.cmdSetBackup (s : State) (c : Nat) : State :=
  s.serve c 0x32 (fun v s =>
    let e := min 4095 (s.arg v 0 4)
    s.checked c [(decide (s.fheld Fld.GOV_BK_CFG_MODE = 0), St.denied, 4)] (fun s =>
      let t : State := { s with gov := { s.gov with setBk := some (e, s.clk.age) } }
      (if s.gov.bkTest || s.gov.bkHold then t else t.setEmeas e).okCur c []))
def execSetBackup (core : Nat) (s : State) : Host.Outcome State Fault Refusal := .next (s.cmdSetBackup core)
/-- The drive of a granary port is lost. -/
def State.driveLost (s : State) (p : Nat) : Bool := ((s.hst (p / 4)).drive (p % 4)).lost
/-- GRAN_LOG sends a Get Log Page to its drive by the firmware port of the granary mux (R235); the reply waits for it (R337). -/
def State.cmdGranLog (s : State) (c : Nat) : State :=
  s.serve c 0x33 (fun v s =>
    let p := s.arg v 0 1
    s.checked c [badAt (decide (p > 7)) 0, (s.driveLost p, St.offDomain, 52 + p)] (fun s =>
      let x := s.hst (p / 4)
      let cmd : DrvCmd := { cid := x.nextCid, port := p, kind := 4, v := 0, since := s.clk.age, sub := true }
      if x.live (p % 4) then (s.setHst (p / 4) { x with cmds := x.cmds ++ [cmd], nextCid := x.nextCid + 1 }).toBg c cmd.cid
      else s.toBg c 0))
def execGranLog (core : Nat) (s : State) : Host.Outcome State Fault Refusal := .next (s.cmdGranLog core)

/-! ### Power (0x40 to 0x43, R426) -/

/-- SET_POWER writes GOV_PWR_CTRL; it is answered when the request ends, or when every domain but the host modules and Miller is READY. -/
def State.cmdSetPower (s : State) (c : Nat) : State :=
  s.serve c 0x40 (fun v s =>
    let q := s.arg v 0 1
    s.checked c [badAt (decide (q > 4)) 0, (s.gov.entry.isSome, St.busy, 0)] (fun s =>
      (s.fwWrite c .GOV_PWR_CTRL (Reg.key .GOV_PWR_CTRL 0 0) (Fld.GOV_PWR_CTRL_GO.put (Fld.GOV_PWR_CTRL_REQ.put 0 q) 1).toNat).toBg c 0))
def execSetPower (core : Nat) (s : State) : Host.Outcome State Fault Refusal := .next (s.cmdSetPower core)
/-- Every domain but the host modules and Miller has answered READY. -/
def State.readyButMiller (s : State) : Bool :=
  s.onDomains.all (fun d => d ∈ s.gov.ready || (decide (32 ≤ d) && decide (d < 52)) || d = 62 || d = 63)
/-- SET_POWER may be answered (R426). -/
def State.powerAnswered (s : State) : Bool :=
  match s.gov.entry with
  | none => true
  | some e => s.gov.entryCore.isNone || (!(e = .idle) && s.readyButMiller)
def State.cmdSetPwrCfg (s : State) (c : Nat) : State :=
  s.serve c 0x41 (fun v s => (s.fwWrite c .GOV_PWR_CFG (Reg.key .GOV_PWR_CFG 0 0) (s.arg v 0 8)).okCur c [])
def execSetPwrCfg (core : Nat) (s : State) : Host.Outcome State Fault Refusal := .next (s.cmdSetPwrCfg core)
/-- The lowest byte of the thresholds that is above 105 °C or does not ascend (R377). -/
def thermBad (w : Nat) : Option Nat :=
  let b := fun i : Nat => bits w (8 * i) 8
  (List.range 8).find? (fun i => decide (b i > 105) || (decide (i ≠ 7 ∧ i ≠ 3) && decide (b i ≤ b (i + 1))))
def State.cmdSetTherm (s : State) (c : Nat) : State :=
  s.serve c 0x42 (fun v s =>
    match thermBad (s.arg v 0 8) with
    | some i => s.badCur c i
    | none =>
      ((s.fwWrite c .GOV_THERM_CFG (Reg.key .GOV_THERM_CFG 0 0) (s.arg v 0 8)).fwWrite c .GOV_STEP_CFG (Reg.key .GOV_STEP_CFG 0 0)
        (s.arg v 8 8)).okCur c [])
def execSetTherm (core : Nat) (s : State) : Host.Outcome State Fault Refusal := .next (s.cmdSetTherm core)
def State.cmdGetPower (s : State) (c : Nat) : State :=
  s.serve c 0x43 (fun _ s =>
    s.okCur c [(0, 8, s.see .GOV_STATUS), (8, 4, s.see .GOV_WAKE), (12, 4, s.see .GOV_PWR_CTRL), (16, 8, s.see .GOV_SUP_STAT),
      (24, 8, s.see .GOV_BK_STAT)])
def execGetPower (core : Nat) (s : State) : Host.Outcome State Fault Refusal := .next (s.cmdGetPower core)

/-! ### Brake (0x50 to 0x53, R383, R389, R391, R392) -/

/-- A severity that a source may be given: permitted, and no change of a FIXED one. -/
def State.sevMay (s : State) (src sev : Nat) : Bool :=
  match srcRow src with
  | some r => if r.fixed then decide (sev = s.sevOf src) else bit r.permit sev
  | none => false
def State.cmdSetSev (s : State) (c : Nat) : State :=
  s.serve c 0x50 (fun v s =>
    let src := s.arg v 0 1
    let sev := s.arg v 1 1
    s.checked c [badAt (srcRow src).isNone 0, badAt (!s.sevMay src sev) 1] (fun s =>
      (s.fwWrite c .BRK_SRC_CFG (Reg.key .BRK_SRC_CFG src 0) (Fld.BRK_SRC_CFG_SEV.put 0 sev).toNat).okCur c []))
def execSetSev (core : Nat) (s : State) : Host.Outcome State Fault Refusal := .next (s.cmdSetSev core)
/-- The answer gives the bits named that are still set. -/
def State.cmdClear (s : State) (c : Nat) : State :=
  s.serve c 0x51 (fun v s =>
    let src := s.arg v 0 1
    s.checked c [badAt (srcRow src).isNone 0] (fun s =>
      let t := (s.pendClear src (s.arg v 4 4)).1
      let left := s.arg v 4 4 &&& t.fheld Fld.BRK_SRC_STAT_PEND src
      t.endCur c (if left = 0 then St.ok else St.causeActive) 0 (results [(0, 4, left)])))
def execClear (core : Nat) (s : State) : Host.Outcome State Fault Refusal := .next (s.cmdClear core)
/-- The argument checks of INJECT. -/
def injectArgs (src inst mode quiet stop : Nat) : List (Bool × Nat × Nat) :=
  [badAt (srcRow src).isNone 0, badAt (!pairExists src inst) 1, badAt (decide (mode > 2)) 2, badAt (decide (quiet > 1)) 3,
   badAt (decide (stop > 1)) 4]
/-- INJECT and INJECT_STOP by the STOP byte. -/
def State.cmdInject (s : State) (c : Nat) (stop : Bool) : State :=
  s.serve c 0x52 (fun v s =>
    let a := fun i => s.arg v i 1
    if decide (a 4 = 1) ≠ stop then s
    else s.checked c (injectArgs (a 0) (a 1) (a 2) (a 3) (a 4)) (fun s =>
      (if stop then s.injStop else s.injStart (a 0) (a 1) (a 2) (a 3 = 1)).okCur c []))
def execInject (core : Nat) (s : State) : Host.Outcome State Fault Refusal := .next (s.cmdInject core false)
def execInjectStop (core : Nat) (s : State) : Host.Outcome State Fault Refusal := .next (s.cmdInject core true)
def State.cmdHistRelease (s : State) (c : Nat) : State :=
  s.serve c 0x53 (fun _ s =>
    let ovf := s.fheld Fld.BRK_HIST_STAT_OVF
    (s.writeField (.fw c) Fld.BRK_HIST_STAT_FROZEN 1).okCur c [(0, 2, ovf)])
def execHistRelease (core : Nat) (s : State) : Host.Outcome State Fault Refusal := .next (s.cmdHistRelease core)

/-! ### Tally (0x60 to 0x63) -/

/-- The Tally domains of the halves named are on. -/
def State.offTally (s : State) (l : List Nat) : Bool × Nat × Nat :=
  match l.find? (fun h => !s.domainOn (70 + h)) with
  | some h => (true, St.offDomain, 70 + h)
  | none => (false, 0, 0)
def State.cmdTlyCfg (s : State) (c : Nat) : State :=
  s.serve c 0x60 (fun v s =>
    let l := halvesOf (s.arg v 0 1)
    s.checked c [badAt (decide (s.arg v 0 1 > 3)) 0, s.offTally l] (fun s =>
      (each l (fun h s => s.fwWrite c .TLY_CFG (Reg.key .TLY_CFG 0 h) (s.arg v 4 4)) s).okCur c []))
def execTlySetCfg (core : Nat) (s : State) : Host.Outcome State Fault Refusal := .next (s.cmdTlyCfg core)
def State.cmdTlyRing (s : State) (c : Nat) : State :=
  s.serve c 0x61 (fun v s =>
    let h := s.arg v 0 1
    let w : Word := limitWord .TLY_RING (BitVec.ofNat 64 (s.arg v 8 8))
    s.checked c [badAt (decide (h > 1)) 0, badAt (!s.ringOk w) 8, s.offTally [h]] (fun s =>
      (s.fwWrite c .TLY_RING (Reg.key .TLY_RING 0 h) w.toNat).okCur c []))
def execTlySetRing (core : Nat) (s : State) : Host.Outcome State Fault Refusal := .next (s.cmdTlyRing core)
def State.cmdTlyUser (s : State) (c : Nat) : State :=
  s.serve c 0x62 (fun v s => (s.fwWrite c .TLY_USER (Reg.key .TLY_USER 0 0) (s.arg v 0 4)).okCur c [])
def execTlySetUser (core : Nat) (s : State) : Host.Outcome State Fault Refusal := .next (s.cmdTlyUser core)
/-- TLY_HEAT: twelve groups from IDX, through TLY_HEAT_IDX and TLY_HEAT_DATA, which advance and wrap. -/
def State.cmdHeat (s : State) (c op : Nat) : State :=
  s.serve c 0x63 (fun v s =>
    let h := s.arg v 0 1
    let o := s.arg v 1 1
    let idx := s.arg v 4 4
    if o ≠ op ∧ (o = 0 ∨ o = 1 ∨ op = 1) then s
    else s.checked c [badAt (decide (h > 1)) 0, badAt (decide (o > 1)) 1, badAt (decide (idx ≥ s.heatGroups)) 4, s.offTally [h]] (fun s =>
      let lv := (List.range 12).map (fun k => (4 * k, 4, s.heatWord h ((idx + k) % s.heatGroups)))
      let s := s.fset Fld.TLY_HEAT_IDX_IDX idx 0 h
      let t := each (List.range 12) (fun k s =>
        if op = 1 then s.fwWrite c .TLY_HEAT_DATA (Reg.key .TLY_HEAT_DATA 0 h) (s.arg v (8 + 4 * k) 4) else s.heatStep h) s
      t.okCur c (if op = 1 then [] else lv)))
def execTlyHeatRead (core : Nat) (s : State) : Host.Outcome State Fault Refusal := .next (s.cmdHeat core 0)
def execTlyHeatWrite (core : Nat) (s : State) : Host.Outcome State Fault Refusal := .next (s.cmdHeat core 1)

end Sys2Proof.Machine
end

