-- ==== Sys2Proof/Machine/Millmark.lean ====
section
/-!
DEFINITION. Millmark and the test controller (R429 to R453): the debug unlock, the life cycle, certificates, self-test, test access, the TAP
instructions, and attestation by SPDM. Message codes of SPDM and MCTP are those of the DMTF documents that R436 names (PRESUMED, log entry 44).
-/
namespace Sys2Proof.Machine

/-! ### The debug unlock (R438 to R442) -/

/-- A failed CRYPTO test answers the commands 0x70 to 0x75 (R443). -/
def State.noCrypto (s : State) : Bool × Nat × Nat := (s.mmk.cryptoBad, St.denied, 4)
def State.cmdChallenge (s : State) (c : Nat) : State :=
  s.serve c 0x70 (fun _ s =>
    s.checked c [s.noCrypto] (fun s =>
      let n := Config.rng s.mmk.draws
      ({ s with mmk := { s.mmk with nonce := some n, nonceAt := s.clk.age, draws := s.mmk.draws + 1 } }).okCur c [(0, 48, n.toNat)]))
def execMmkChallenge (core : Nat) (s : State) : Host.Outcome State Fault Refusal := .next (s.cmdChallenge core)
/-- The message M (R439). -/
def State.unlockMsg (s : State) (nonce : BitVec 384) : List Byte :=
  [0x4B, 0x59, 0x55, 0x4E, 0x4C, 0x4B, 0x30, 0x31] ++ leBytes 48 nonce.toNat ++ leBytes 8 s.ld.uid.toNat ++ [BitVec.ofNat 8 s.ld.lc]
/-- PART 0, and a PART that does not exist. -/
def State.cmdResponseR (s : State) (c : Nat) : State :=
  s.serve c 0x71 (fun v s =>
    if s.arg v 0 1 = 1 then s
    else s.checked c [s.noCrypto, badAt (decide (s.arg v 0 1 > 1)) 0] (fun s =>
      ({ s with mmk := { s.mmk with respR := some (BitVec.ofNat 384 (s.arg v 8 48)) } }).okCur c []))
def execMmkResponseR (core : Nat) (s : State) : Host.Outcome State Fault Refusal := .next (s.cmdResponseR core)
/-- PART 1 verifies: the signature r then s of M under the service key. -/
def State.responseOk (s : State) (r sg : BitVec 384) : Bool :=
  match s.nonceLive with
  | none => false
  | some n => Config.ecdsaVerify (Config.serviceKeyOf s.ld.keyFuse) (Config.sha384 (s.unlockMsg n)) (BitVec.ofNat 768 (r.toNat + sg.toNat * 2 ^ 384))
def State.cmdResponseS (s : State) (c : Nat) : State :=
  s.serve c 0x71 (fun v s =>
    if s.arg v 0 1 ≠ 1 then s
    else s.checked c [s.noCrypto] (fun s =>
      match s.mmk.respR with
      | none => s.badCur c 0
      | some r =>
        let ok := s.responseOk r (BitVec.ofNat 384 (s.arg v 8 48))
        let t := { s with mmk := { s.mmk with nonce := none, respR := none, unlock := if ok then 2 else s.mmk.unlock } }
        if ok then t.okCur c [] else t.denyCur c 0x10))
def execMmkResponseS (core : Nat) (s : State) : Host.Outcome State Fault Refusal := .next (s.cmdResponseS core)
/-- A nonce expires 30 s after it is issued. -/
def execNonceExpire (s : State) : Host.Outcome State Fault Refusal :=
  .next (when (s.mmk.nonce.isSome && decide (s.clk.age ≥ s.mmk.nonceAt + msTurns 30000)) (fun s => { s with mmk := { s.mmk with nonce := none } }) s)
/-- The passphrase matches the record of the fuses (R440). -/
def State.passOk (s : State) (p : List Byte) : Bool :=
  match s.ld.pass with
  | some (salt, d) => decide (Config.sha384 (leBytes 16 salt.toNat ++ p) = d)
  | none => false
def State.cmdPass (s : State) (c : Nat) : State :=
  s.serve c 0x72 (fun v s =>
    let n := s.arg v 0 1
    let p := (List.range n).map (fun i => BitVec.ofNat 8 (s.arg v (8 + i) 1))
    s.checked c [s.noCrypto, (decide (s.ld.lc ≠ 2) && decide (s.ld.lc ≠ 3), St.locked, 1), badAt (decide (n < 8) || decide (n > 48)) 0] (fun s =>
      if s.ld.lc = 2 then ({ s with mmk := { s.mmk with cand := some p } }).okCur c []
      else if s.mmk.fails ≥ 8 then s.denyCur c 0x10
      else if s.passOk p then ({ s with mmk := { s.mmk with unlock := if s.mmk.unlock = 2 then 2 else 3 } }).okCur c []
      else ({ s with mmk := { s.mmk with fails := s.mmk.fails + 1 } }).denyCur c 0x10))
def execMmkPassphrase (core : Nat) (s : State) : Host.Outcome State Fault Refusal := .next (s.cmdPass core)
/-- MMK_LOCK; an unlock by state stays (R442). -/
def State.cmdLock (s : State) (c : Nat) : State :=
  s.serve c 0x73 (fun _ s => s.checked c [s.noCrypto] (fun s => (if s.openByState then s else s.closeUnlock).okCur c []))
def execMmkLock (core : Nat) (s : State) : Host.Outcome State Fault Refusal := .next (s.cmdLock core)

/-! ### Life cycle and certificates (R430, R434) -/

/-- A transition of R430 with its condition. -/
def State.mayAdvance (s : State) (t : Nat) : Bool :=
  let lc := s.ld.lc
  (lc = 0 && t = 1 && s.fuse.keyFuseDone)
    || (lc = 1 && t = 2 && s.mmk.certOk)
    || (lc = 2 && t = 3 && s.mmk.cand.isSome)
    || (lc = 3 && t = 4 && s.mmk.unlock = 2)
    || (t = 5 && decide (1 ≤ lc) && decide (lc ≤ 4) && (s.openByState || s.mmk.unlock = 2))
def State.cmdAdvance (s : State) (c : Nat) : State :=
  s.serve c 0x74 (fun v s =>
    let t := s.arg v 0 1
    s.checked c [s.noCrypto, (s.fuse.lcNext.isSome || !s.mayAdvance t, St.locked, 1),
        (!(s.gov.ps = .run) || s.gov.lowX || s.gov.alert, St.denied, 4), (decide (s.ld.lc = 0 ∧ s.fuse.keyVoid ≥ 2), St.denied, 5)] (fun s =>
      s.toBg c t))
def execMmkAdvance (core : Nat) (s : State) : Host.Outcome State Fault Refusal := .next (s.cmdAdvance core)
/-- The burn ends. -/
def State.advanceDone (s : State) (c : Nat) : State := (s.burnAdvance (s.core c).bgAux).endBg c St.ok 0 0
def State.cmdCert (s : State) (c : Nat) : State :=
  s.serve c 0x75 (fun v s =>
    let chain := if s.fuse.certsDone then Config.certsOf s.fuse.certs else []
    let i := s.arg v 0 1
    let cert := chain.getD i []
    let off := s.arg v 4 4
    s.checked c [s.noCrypto, badAt (decide (i ≥ chain.length)) 0, badAt (decide (off ≥ cert.length)) 4] (fun s =>
      s.okCur c ([(0, 4, cert.length)] ++ (List.range 48).map (fun k => (8 + k, 1, ((cert.drop off).getD k 0).toNat)))))
def execMmkCert (core : Nat) (s : State) : Host.Outcome State Fault Refusal := .next (s.cmdCert core)

/-! ### Field self-test (R443) -/

/-- Test bit b of the SELFTEST in the background is run. -/
def State.runTest (s : State) (c b : Nat) (f : State → State × Bool) : State :=
  match (s.core c).bg with
  | some v =>
    if c < 2 ∧ v.opc = 0x76 ∧ bit (s.core c).bgAux b = true then
      let r := f s
      let t := r.1
      let t := t.setCore c { t.core c with bgAux := setBits (t.core c).bgAux b 1 0 }
      { t with mmk := { t.mmk with stFail := if r.2 then setBits t.mmk.stFail b 1 1 else t.mmk.stFail } }
    else s
  | none => s
/-- CRYPTO. RNG_OK tells the generator's part of a failure, which the spec leaves to the part. -/
def State.testCrypto (s : State) (c : Nat) (failed : Bool) : State :=
  s.runTest c 0 (fun s =>
    ({ s with freeCtr := s.freeCtr + 1, mmk := { s.mmk with cryptoBad := failed, rngOk := !failed || Config.freeBool s.freeCtr } }, failed))
def execSelftestCrypto (core : Nat) (failed : Bool) (s : State) : Host.Outcome State Fault Refusal := .next (s.testCrypto core failed)
/-- WIRE: the pairs whose source has no cause active; those that do not follow are broken. -/
def State.testWire (s : State) (c : Nat) (badPairs : List (Nat × Nat)) : State :=
  s.runTest c 1 (fun s =>
    let bad := badPairs.filter (fun p => s.pairLive p.1 p.2 && !s.brk.cause.get false (pairKey p.1 p.2) && !s.heldPair p.1 p.2)
    (each bad (fun p s => s.breakPair p.1 p.2 false false) s, !bad.isEmpty))
def execSelftestWire (core : Nat) (badPairs : List (Nat × Nat)) (s : State) : Host.Outcome State Fault Refusal := .next (s.testWire core badPairs)
/-- The fuses as loaded differ from the fuses as they are; the certificate store is no fuse. -/
def State.fusesDiffer (s : State) : Bool := decide ({ s.fuse with certs := s.ld.certs, certsDone := s.ld.certsDone } ≠ s.ld)
/-- The first entry of the fuse map that differs; 0 where only other fuses do. -/
def State.fuseIndex (s : State) : Nat :=
  ((s.fuse.map.keys ++ s.ld.map.keys).filter (fun i => decide (s.fuse.map.find? i ≠ s.ld.map.find? i))).min?.getD 0
def State.testFuse (s : State) (c : Nat) : State :=
  s.runTest c 2 (fun s => if s.fusesDiffer then (s.raise Src.DRS_FUSE 0 s.fuseIndex, true) else (s, false))
def execSelftestFuse (core : Nat) (s : State) : Host.Outcome State Fault Refusal := .next (s.testFuse core)
def State.testsDone (s : State) (c : Nat) : State :=
  ({ s with mmk := { s.mmk with stBusy := false } }).endBg c St.ok 0 (results [(0, 1, s.mmk.stFail)])

/-! ### Test access and the TAP (R448 to R451) -/

/-- TEST_ACCESS does its two bits in two parts, and answers after both. -/
def State.cmdAccess (s : State) (c b : Nat) : State :=
  s.serve c 0x77 (fun v s =>
    let m := s.arg v 0 1
    s.checked c [badAt (decide (m > 3)) 0] (fun s =>
      let on := bit m b && !s.openByState
      let t := if b = 0 then { s with tst := { s.tst with acc1149 := on, ir := if on || s.openByState then s.tst.ir else 0xFF } }
        else { s with tst := { s.tst with acc1838 := on, dsel := if on || s.openByState then s.tst.dsel else 0 } }
      let p := setBits (t.core c).parts b 1 1
      if p = 3 then (t.setCore c { t.core c with parts := 0 }).okCur c [] else t.setCore c { t.core c with parts := p }))
def execTestAccess1149 (core : Nat) (s : State) : Host.Outcome State Fault Refusal := .next (s.cmdAccess core 0)
def execTestAccess1838 (core : Nat) (s : State) : Host.Outcome State Fault Refusal := .next (s.cmdAccess core 1)

/-- The instruction register takes a code, and the data register shifts out a value; driving and high impedance belong to the instruction. -/
def State.tap (s : State) (ir : Nat) (out : Nat) (drive highz : Bool) : State :=
  { s with tst := { s.tst with ir := ir, tdo := BitVec.ofNat 65536 out, drive := drive, highz := highz } }
/-- BYPASS: its bit captures zero. -/
def State.tapBypass (s : State) : State := s.tap 0xFF 0 false false
/-- An instruction that is available is carried out; any other selects BYPASS. AON must stand for the TAP to run. -/
def State.tapDo (s : State) (avail : Bool) (f : State → State) : State :=
  if s.boot.aonDown then s else if avail then f s else s.tapBypass
/-- The TAP is open; test mode. -/
def State.tapTest (s : State) : Bool := s.acc1149 && s.tst.inmode
def execBypass (_tdi : BitVec 1) (s : State) : Host.Outcome State Fault Refusal := .next (s.tapDo false id)
/-- The chain of the dies selected: the highest die leaves first, the base die last. -/
def State.idChain (s : State) : Nat :=
  let dies := ((List.range 16).filter (fun d => bit s.tst.dsel.toNat d && s.acc1838)).reverse
  dies.foldr (fun d acc => (Config.dieIdcode d).toNat + acc * 2 ^ 32) (s.see .TST_IDCODE)
def execIdcode (s : State) : Host.Outcome State Fault Refusal := .next (s.tapDo s.acc1149 (fun s => s.tap 0x01 s.idChain false false))
def execSamplePreload (pads tdi : BitVec 1248) (s : State) : Host.Outcome State Fault Refusal :=
  .next (s.tapDo s.acc1149 (fun s =>
    let t := s.tap 0x02 pads.toNat false false
    { t with tst := { t.tst with bnd := tdi } }))
def execExtest (pads tdi : BitVec 1248) (s : State) : Host.Outcome State Fault Refusal :=
  .next (s.tapDo s.tapTest (fun s =>
    let t := s.tap 0x03 pads.toNat true false
    { t with tst := { t.tst with bnd := tdi } }))
/-- CLAMP drives the pads from the boundary register with BYPASS selected. -/
def execClamp (_tdi : BitVec 1) (s : State) : Host.Outcome State Fault Refusal := .next (s.tapDo s.tapTest (fun s => s.tap 0x04 0 true false))
def execHighz (_tdi : BitVec 1) (s : State) : Host.Outcome State Fault Refusal := .next (s.tapDo s.tapTest (fun s => s.tap 0x05 0 false true))
/-- DSEL, where the TAP and IEEE 1838 access are open: bits of unfitted dies are ignored. -/
def execDsel (dies : BitVec 16) (s : State) : Host.Outcome State Fault Refusal :=
  .next (s.tapDo (s.acc1149 && s.acc1838) (fun s =>
    let t := s.tap 0x10 s.tst.dsel.toNat false false
    { t with tst := { t.tst with dsel := BitVec.ofNat 16 (dies.toNat % 2 ^ (4 * s.nsid)) } }))
def execTsvtest (captured tdi : BitVec 984) (s : State) : Host.Outcome State Fault Refusal :=
  .next (s.tapDo s.tapTest (fun s =>
    let t := s.tap 0x11 captured.toNat false false
    { t with tst := { t.tst with tsv := tdi } }))
/-- TSTCTL reaches TST_CTRL in the states that are open by state. -/
def execTstctl (tdi : BitVec 32) (s : State) : Host.Outcome State Fault Refusal :=
  .next (s.tapDo s.openByState (fun s =>
    let t := s.tap 0x20 (s.see .TST_CTRL) false false
    { t.fwWrite 0 .TST_CTRL (Reg.key .TST_CTRL 0 0) tdi.toNat with reply := s.reply }))
/-- KEYFUSE: one-time-programmable cells take ones only. -/
def execKeyfuse (tdi : BitVec 1024) (s : State) : Host.Outcome State Fault Refusal :=
  .next (s.tapDo (decide (s.ld.lc = 0)) (fun s =>
    let t := s.tap 0x21 s.fuse.keyFuse.toNat false false
    { t with fuse := { t.fuse with keyFuse := t.fuse.keyFuse ||| tdi, keyFuseDone := true } }))
/-- CERTLOAD: the store is written once. -/
def execCertload (tdi : BitVec 65536) (s : State) : Host.Outcome State Fault Refusal :=
  .next (s.tapDo (decide (s.ld.lc = 1) && !s.fuse.certsDone) (fun s =>
    let t := s.tap 0x22 0 false false
    { t with fuse := { t.fuse with certs := tdi, certsDone := true } }))
/-- PUBKEY: MMK_UID, then the unit public key. -/
def execPubkey (s : State) : Host.Outcome State Fault Refusal :=
  .next (s.tapDo (decide (s.ld.lc = 1)) (fun s => s.tap 0x23 (s.ld.uid.toNat + (s.ld.unitKey.getD 0).toNat * 2 ^ 64) false false))

/-! ### Attestation (R436, R437) -/

/-- The attestation target takes a transfer: it has an address, no HDR mode runs, and the East core serves it; otherwise a NACK. -/
def State.attUp (s : State) : Bool :=
  !s.boot.aonDown && s.i3c.attAddr.isSome && !s.i3c.hdr && s.fheld Fld.MIL_I3C_CFG_ATT_EN = 1 && s.domainOn 62 && s.mil.east.up
/-- An SPDM response leaves: version 1.3, its code, and its parameters and body. -/
def State.spdm (s : State) (code : Nat) (body : List Byte) : State :=
  { s with i3c := { s.i3c with rsp := 0x13 :: BitVec.ofNat 8 code :: body } }
/-- ERROR with a code: 0x01 InvalidRequest, 0x04 UnexpectedRequest, 0x05 Unspecified. -/
def State.spdmError (s : State) (code : Nat) : State := s.spdm 0x7F [BitVec.ofNat 8 code, 0]
/-- A request is served: in BLANK and SCRAPPED, and after a failed CRYPTO test, by ERROR; `early` names a request that comes before the
negotiation it needs. -/
def State.spdmDo (s : State) (early : Bool) (f : State → State) : State :=
  if !s.attUp then s
  else if !s.hostService || s.mmk.cryptoBad then s.spdmError 0x05
  else if early then s.spdmError 0x04
  else f s
/-- Set Endpoint ID of MCTP. -/
def execSetEndpointId (eid : Byte) (s : State) : Host.Outcome State Fault Refusal :=
  .next (when s.attUp (fun s => { s with i3c := { s.i3c with eid := eid } }) s)
def execGetVersion (s : State) : Host.Outcome State Fault Refusal :=
  .next (s.spdmDo false (fun s =>
    ({ s with i3c := { s.i3c with spdmVer := true, spdmNeg := false } }).spdm 0x04 (Config.spdmBody 0x04 [])))
def execGetCapabilities (body : List Byte) (s : State) : Host.Outcome State Fault Refusal :=
  .next (s.spdmDo (!s.i3c.spdmVer) (fun s => s.spdm 0x61 (Config.spdmBody 0x61 body)))
def execNegotiateAlgorithms (body : List Byte) (s : State) : Host.Outcome State Fault Refusal :=
  .next (s.spdmDo (!s.i3c.spdmVer) (fun s => ({ s with i3c := { s.i3c with spdmNeg := true } }).spdm 0x63 (Config.spdmBody 0x63 body)))
/-- The chain of slot 0, root first. -/
def State.spdmChain (s : State) : List Byte :=
  Config.spdmBody 0x10 (if s.fuse.certsDone then (Config.certsOf s.fuse.certs).reverse.flatten else [])
def execGetDigests (s : State) : Host.Outcome State Fault Refusal :=
  .next (s.spdmDo (!s.i3c.spdmNeg) (fun s => s.spdm 0x01 ([0, 1] ++ leBytes 48 (Config.sha384 s.spdmChain).toNat)))
/-- Only slot 0 is used. -/
def execGetCertificate (slot off len : Nat) (s : State) : Host.Outcome State Fault Refusal :=
  .next (s.spdmDo (!s.i3c.spdmNeg) (fun s =>
    let part := (s.spdmChain.drop off).take len
    let rest := s.spdmChain.length - off - part.length
    if slot ≠ 0 ∨ off ≥ s.spdmChain.length then s.spdmError 0x01
    else s.spdm 0x02 ([0, 0] ++ leBytes 2 part.length ++ leBytes 2 rest ++ part)))
/-- A signature by the unit key over what the message and its exchange hash to. -/
def spdmSigned (code : Nat) (body : List Byte) : List Byte :=
  body ++ leBytes 96 (Config.unitSign (Config.sha384 (Config.spdmBody code body))).toNat
def execChallenge (slot : Nat) (body : List Byte) (s : State) : Host.Outcome State Fault Refusal :=
  .next (s.spdmDo (!s.i3c.spdmNeg) (fun s =>
    if slot ≠ 0 then s.spdmError 0x01
    else s.spdm 0x03 (spdmSigned 0x03 ([0, 1] ++ leBytes 48 (Config.sha384 s.spdmChain).toNat ++ Config.spdmBody 0x03 body))))
/-- The content of a measurement block, with its value type. -/
def State.measure (s : State) (i : Nat) : Nat × List Byte :=
  let g := s.mil.east.img
  let digest := if g.loaded then g.digest else Config.romBodyDigest
  let lc := s.see .MMK_LC
  if i = 1 then (0x00, leBytes 48 Config.romDigest.toNat)
  else if i = 2 then (0x01, leBytes 48 digest.toNat)
  else if i = 3 then (0x82, leBytes 4 (s.see .MMK_FITTED) ++ [BitVec.ofNat 8 s.ld.lc, BitVec.ofNat 8 (bits lc 4 4), BitVec.ofNat 8 (s.imgOf 0).2.2.1,
    BitVec.ofNat 8 s.ld.svnMin])
  else (0x85, [BitVec.ofNat 8 s.unlockCode, BitVec.ofNat 8 (s.see .TST_CTRL % 4), BitVec.ofNat 8 (b2n s.tst.inmode)])
/-- A block in DMTF measurement format: index, specification, sizes, type, content. -/
def State.block (s : State) (i : Nat) : List Byte :=
  let m := s.measure i
  [BitVec.ofNat 8 i, 1] ++ leBytes 2 (m.2.length + 3) ++ [BitVec.ofNat 8 m.1] ++ leBytes 2 m.2.length ++ m.2
/-- Index 0 asks for the number of blocks, 0xFF for all of them. -/
def execGetMeasurements (index : Nat) (signed : Bool) (body : List Byte) (s : State) : Host.Outcome State Fault Refusal :=
  .next (s.spdmDo (!s.i3c.spdmNeg) (fun s =>
    let l := if index = 0xFF then [1, 2, 3, 4] else if 1 ≤ index ∧ index ≤ 4 then [index] else []
    let rec_ := l.flatMap s.block
    if index ≠ 0 ∧ l = [] then s.spdmError 0x01
    else
      let m := [if index = 0 then 4 else 0, 0, BitVec.ofNat 8 l.length] ++ leBytes 3 rec_.length ++ rec_ ++ Config.spdmBody 0x60 body
      s.spdm 0x60 (if signed then spdmSigned 0x60 m else m)))

/-! ### The end of a command (R414), and its interruption (R415) -/

/-- FUSE_REPAIR ends when its burn has. -/
def State.fuseDone (s : State) (c : Nat) : State :=
  let i := (s.core c).bgAux
  s.endBg c St.ok 0 (results [(0, 2, i), (8, 8, ((s.fuse.map.find? i).getD 0).toNat)])
/-- The log bytes that the drive returns; OFF_DOMAIN where it has been lost meanwhile. -/
def State.logDone (s : State) (c : Nat) (v : Serve) : State :=
  let p := s.arg v 0 1
  if s.driveLost p then s.endBg c St.offDomain (52 + p) 0
  else
    let l := Config.driveLog p (s.arg v 1 1) (s.arg v 4 4)
    s.endBg c St.ok 0 (results ((List.range 48).map (fun k => (k, 1, (l.getD k 0).toNat))))
/-- What holds back the end of the background command of a core. -/
def State.bgWaits (s : State) (c : Nat) (v : Serve) : Bool :=
  if v.opc = 0x04 then s.mil.east.cur.isSome || s.mil.west.cur.isSome
  else if v.opc = 0x22 then s.drs.burn.isSome
  else if v.opc = 0x33 then
    let p := s.arg v 0 1
    (s.hst (p / 4)).cmds.any (fun d => d.kind = 4 && d.port = p && d.cid = (s.core c).bgAux)
  else if v.opc = 0x40 then !s.powerAnswered
  else if v.opc = 0x76 then decide ((s.core c).bgAux ≠ 0)
  else false
/-- The effect that the background command still owes, and its reply. -/
def State.bgEnd (s : State) (c : Nat) (v : Serve) : State :=
  if v.opc = 0x03 then s.fetchDone c v
  else if v.opc = 0x04 then s.activate v
  else if v.opc = 0x22 then s.fuseDone c
  else if v.opc = 0x33 then s.logDone c v
  else if v.opc = 0x40 then s.endBg c St.ok 0 (results [(0, 1, s.fheld Fld.GOV_PWR_CTRL_RESULT), (1, 1, s.fheld Fld.GOV_PWR_CTRL_REFUSER)])
  else if v.opc = 0x74 then s.advanceDone c
  else if v.opc = 0x76 then s.testsDone c
  else s.endBg c St.ok 0 0
/-- COMMIT_SLOTS whose swap has taken place is answered first, then the background command. -/
def State.complete (s : State) (c : Nat) : State :=
  if c = 0 && s.mil.swapped.isSome && (match s.mil.east.cur with | some v => decide (v.opc = 0x16) | none => false) then s.commitDone 0
  else match (s.core c).bg with
    | some v => if s.bgWaits c v then s else s.bgEnd c v
    | none => s
def execCommandComplete (core : Nat) (s : State) : Host.Outcome State Fault Refusal :=
  .next (when (decide (core < 2) && s.domainOn (62 + core)) (fun s => s.complete core) s)

/-- The short command in service on a core, carried out by its opcode. -/
def State.carryOut (s : State) (c o : Nat) : State :=
  if o < 0x10 then
    if o = 0x03 then s.cmdFwLoad c else if o = 0x05 then s.cmdFwDiscard c else if o = 0x06 then s.cmdSoftReset c else s
  else if o < 0x20 then
    if o = 0x10 then s.cmdSetStream c else if o = 0x12 then s.cmdSetGroup c else if o = 0x14 then s.cmdSetSlots c
    else if o = 0x16 then s.cmdCommit c else s
  else if o < 0x40 then
    if o = 0x20 then s.cmdRetrain c else if o = 0x21 then s.cmdRepairRow c else if o = 0x23 then s.cmdIsolate c
    else if o = 0x22 then ((((s.cmdFuseSoft c).cmdFuseLane c).cmdFuseRetire c).cmdFuseRaw c).cmdFuseRevoke c
    else if o = 0x31 then s.cmdGranFormat c else if o = 0x32 then s.cmdSetBackup c else s
  else if o < 0x60 then
    if o = 0x40 then s.cmdSetPower c else if o = 0x41 then s.cmdSetPwrCfg c else if o = 0x42 then s.cmdSetTherm c
    else if o = 0x50 then s.cmdSetSev c else if o = 0x51 then s.cmdClear c
    else if o = 0x52 then (s.cmdInject c false).cmdInject c true else if o = 0x53 then s.cmdHistRelease c else s
  else if o < 0x70 then
    if o = 0x60 then s.cmdTlyCfg c else if o = 0x61 then s.cmdTlyRing c else if o = 0x62 then s.cmdTlyUser c
    else if o = 0x63 then (s.cmdHeat c 0).cmdHeat c 1 else s
  else if o = 0x70 then s.cmdChallenge c else if o = 0x71 then (s.cmdResponseR c).cmdResponseS c else if o = 0x72 then s.cmdPass c
  else if o = 0x73 then s.cmdLock c else if o = 0x77 then (s.cmdAccess c 0).cmdAccess c 1 else s
/-- Commands of a core stop in the middle of their work: the effect of each is unknown (R415, R416), so that a free choice says whether it
takes place. What it would have replied or signalled is not sent. -/
def State.cutCore (s : State) (c : Nat) (p : Serve → Bool) : State :=
  let sent := s.out.ibi
  let k := s.core c
  let cur := k.cur.filter p
  let bg := k.bg.filter p
  let n := s.freeCtr
  let s := { s with freeCtr := n + 2 }
  let s := match cur with
    | some v =>
      let t := if Config.freeBool n then s.carryOut c v.opc else s
      let t := t.setCore c { t.core c with cur := none, bg := k.bg, bgAux := k.bgAux, parts := 0 }
      if v.opc = 0x16 then { t with mil := { t.mil with commit := none, swapped := none } } else t
    | none => s
  let s := match bg with
    | some v =>
      let t := if v.opc = 0x74 ∧ c = 0 then s.cutAdvance else if Config.freeBool (n + 1) then s.bgEnd c v else s
      let t := t.setCore c { t.core c with bg := none, bgAux := 0 }
      if v.opc = 0x76 then { t with mmk := { t.mmk with stBusy := false } } else t
    | none => s
  { s with out := { s.out with ibi := sent } }
/-- BUSY has held for 10 s (R415). -/
def State.overdue (s : State) (h box : Nat) : Bool := s.mbBusy h box && decide (s.clk.age ≥ (s.rungOf (h, box)).2 + msTurns 10000)
/-- A mailbox is answered by hardware: TIMEOUT, DETAIL 0xFFFF (R415). -/
def State.timeOut (s : State) (v : Serve) : State := s.putReply v St.timeout 0xFFFF 0
/-- BUSY has held for 10 s: the mailbox and every command in progress on the core of its half are answered TIMEOUT, and the core restarts
from its image. A command relayed to East is cut off there with its mailbox's answer. -/
def State.mailboxTimeout (s : State) (h box : Nat) : State :=
  let mine := fun v : Serve => v.half = h && v.box = box
  let k := s.core h
  let all := (k.cur.toList ++ k.bg.toList).filter (fun v => !mine v)
  let s := (s.cutCore h (fun _ => true)).cutCore (1 - h) mine
  let s := each (⟨h, box, 0⟩ :: all) (fun v s => s.timeOut v) s
  let drop := fun (k : Core) => { k with queue := k.queue.filter (fun e => e ≠ (h, box)) }
  { s with mil := { s.mil with east := drop s.mil.east, west := drop s.mil.west } }
def execMailboxTimeout (half box : Nat) (s : State) : Host.Outcome State Fault Refusal :=
  .next (when (decide (half < 2) && decide (box < 8) && s.domainOn (62 + half) && s.overdue half box) (fun s => s.mailboxTimeout half box) s)

end Sys2Proof.Machine
end

