-- ==== Sys2Proof/Machine/Bringup.lean ====
section
/-!
DEFINITION. Resets and bring-up (R444, R451, R454 to R471): the pins and commands that ask for a reset, the settle of the stores it covers,
each reset, its release, and the commands of the I3C bus that AON takes (R376, R464 to R466, R480).
-/
namespace Sys2Proof.Machine

/-! ### Asking (R425, R454, R466) -/

/-- WRST_N counts from 1 µs, in RUN and IDLE; below 0.5 µs it is ignored (R480). -/
def execWrstNLow (ns : Nat) (s : State) : Host.Outcome State Fault Refusal :=
  .next (when (s.pulseSeen ns 500 1000) (fun s => s.askReset .warm) (s.pulseDrawn ns 500 1000))
/-- 64 Turns after the reply of SOFT_RESET. -/
def execSoftResetStart (s : State) : Host.Outcome State Fault Refusal :=
  .next (match s.mil.softAt with
    | some t => when (decide (s.clk.age ≥ t + 64)) (fun s => ({ s with mil := { s.mil with softAt := none } }).askReset .soft) s
    | none => s)

/-! ### The settle (R460, R461) -/

/-- The race still holds stores of its own: write queue, far-atomic unit, fills. -/
def Race.holdsStores (x : Race) : Bool := !x.wq.isEmpty || !x.fau.isEmpty || x.fill.isSome || !x.fillQ.isEmpty
/-- Stores of the buffers that a reset covers, for a race. -/
def State.buffered (s : State) (k : ResetKind) (r : Nat) : Bool :=
  match k with
  | .race _ => false
  | _ => s.pond.any (fun e => e.race = r) || s.flume.any (fun e => e.race = r)
    || s.hop.reqs.vals.any (fun q => Opc.store q.opc && q.open_ && q.race = r)
/-- A live race still holds stores that the reset covers. -/
def State.holding (s : State) (k : ResetKind) (r : Nat) : Bool := !s.isolated r && ((s.race r).holdsStores || s.buffered k r)
/-- The settle ends: races whose isolation has not yet dropped its stores drop them; a deeper request made meanwhile starts its own settle;
otherwise the races of a half, race or soft reset hand their SIDs over (R203, R456). -/
def State.endSettle (s : State) (k : ResetKind) : State :=
  let s := each (k.races.filter (fun r => (s.race r).isoAt.isSome && !(s.race r).isoDrop)) (fun r s => s.dropRace r) s
  let deeper := match s.boot.after with | some a => decide (a.rank < k.rank) | none => false
  if deeper then { s with boot := { s.boot with pend := s.boot.after, after := none, settle := none, settled := false, closed := 0 } }
  else
    let hand := match k with | .warm => [] | _ => k.races.filter (fun r => s.raceRuns r)
    each hand (fun r s => s.setRace r { s.race r with inReset := true }) { s with boot := { s.boot with settled := true } }
/-- A pending reset is settling. -/
def State.settling (s : State) (p : ResetKind → Bool) : Bool :=
  s.boot.settle.isSome && !s.boot.settled && (match s.boot.pend with | some k => p k | none => false)
def execSettleComplete (s : State) : Host.Outcome State Fault Refusal :=
  .next (match s.boot.pend with
    | some k => when (s.settling (fun k => k.races.all (fun r => !s.holding k r))) (fun s => s.endSettle k) s
    | none => s)
/-- At 256 Turns the races that still hold stores are isolated, and their stores dropped. -/
def execSettleTimeout (s : State) : Host.Outcome State Fault Refusal :=
  .next (match s.boot.pend, s.boot.settle with
    | some k, some t => when (s.settling (fun _ => true) && decide (s.clk.age ≥ t + 256))
        (fun s => (each (k.races.filter (fun r => s.holding k r)) (fun r s => (s.isolate r).dropRace r) s).endSettle k) s
    | _, _ => s)

/-! ### The resets (R444, R451, R454) -/

/-- The races of a reset have handed their SIDs over. -/
def State.handed (s : State) (l : List Nat) : Bool := l.all (fun r => !s.raceRuns r || s.handedOver r)
/-- The reset asked for is settled. -/
def State.settledFor (s : State) (p : ResetKind → Bool) : Bool :=
  s.boot.settled && s.boot.inReset.isNone && (match s.boot.pend with | some k => p k | none => false)
/-- The life cycle after the reset permits built-in tests and test mode. -/
def State.testNext (s : State) : Bool := s.fuse.lcNext.getD s.ld.lc ∈ ([0, 1, 4, 5] : List Nat)
/-- The next warm reset is a BIST reset. -/
def State.armed (s : State) : Bool := s.testNext && (s.fheld Fld.TST_CTRL_ARM_LBIST = 1 || s.fheld Fld.TST_CTRL_ARM_MBIST = 1)
/-- Results of MBIST and LBIST: masks that the part gives (R445, R446), domains that LBIST does not cover reading 0. -/
def State.bist (s : State) : State :=
  let n := s.freeCtr
  let code := fun bad : Nat => if bad = 0 then 1 else 2
  let mb := s.fheld Fld.TST_CTRL_ARM_MBIST = 1
  let lb := s.fheld Fld.TST_CTRL_ARM_LBIST = 1
  let m := Config.bistFail n % 2 ^ 20
  let l := Config.bistFail (n + 1) % 2 ^ 80 &&& (2 ^ 80 - 1 - (2 ^ 72 + 2 ^ 73 + 2 ^ 76 + 2 ^ 77 + 2 ^ 79))
  let s := { s with freeCtr := n + 2 }
  let s := if mb then (s.fset Fld.TST_MBIST_FAIL_ARR m).fset Fld.TST_STAT_MBIST (code m) else s
  let s := if lb then ((s.fset Fld.TST_LBIST_FAIL_DOM (l % 2 ^ 64)).fset Fld.TST_LBIST_FAIL1_DOM (l / 2 ^ 64)).fset Fld.TST_STAT_LBIST (code l) else s
  (s.fset Fld.TST_CTRL_ARM_MBIST 0).fset Fld.TST_CTRL_ARM_LBIST 0
/-- A BIST reset: power-on of every domain but AON, Millmark and the test controller, recorded as warm. -/
def State.bistReset (s : State) : State :=
  let keepReg := fun k : Nat => match locate k with | some l => regDomain l = 76 || regDomain l = 77 | none => false
  let t := s.powerOn 3 true
  let regs := (s.regs.keep (fun k _ => keepReg k)).rows.foldl (fun (t : Tbl Word) kv => t.ins kv.1 kv.2) t.regs
  let t := { t with regs := regs, boot := { t.boot with bist := true }, mmk := { s.mmk with unlock := 0, nonce := none, respR := none, stBusy := false, draws := t.mmk.draws }
                    tst := { s.tst with inmode := false } }
  t.bist
/-- Warm and soft reset, once settled: a life cycle that needs it makes it a power-on reset (R431), armed tests a BIST reset. -/
def State.warmReset (s : State) (k : ResetKind) : State :=
  let s := (s.cutCore 0 (fun _ => true)).cutCore 1 (fun _ => true)
  let after := s.boot.after
  let soft := decide (k = .soft)
  if s.lcPower then s.powerOn 1 false
  else if !soft && s.armed then s.bistReset
  else
    let t := s.warmCore soft (if soft then 5 else 3)
    { t with boot := { t.boot with inReset := some k, after := after } }
def execWarmReset (s : State) : Host.Outcome State Fault Refusal :=
  .next (match s.boot.pend with
    | some k => when (s.settledFor (fun k => k = .warm || k = .soft) && (k = .warm || s.handed (List.range 32))) (fun s => s.warmReset k) s
    | none => s)
/-- The half reset; commands that West's mailboxes placed on East end with them. -/
def State.halfReset (s : State) : State :=
  let s := (s.cutCore 1 (fun _ => true)).cutCore 0 (fun v => v.half = 1)
  let s := s.setCore 0 { s.core 0 with queue := (s.core 0).queue.filter (fun e => e.1 = 0) }
  if s.lcPower then s.powerOn 1 false else s.halfCore
def execHalfReset (s : State) : Host.Outcome State Fault Refusal :=
  .next (when (s.settledFor (fun k => k = .half) && s.handed (halfRaces 1)) (fun s => s.halfReset) s)
/-- One race of the reset is done; after the last the next request is taken up. -/
def State.raceDone (s : State) (m r : Nat) : State :=
  let left := setBits m r 1 0
  let s := s.fset Fld.GOV_RST_CTRL_RACE (setBits (s.fheld Fld.GOV_RST_CTRL_RACE) r 1 0)
  if left = 0 then { s with boot := { s.boot with pend := s.boot.after, after := none, settle := none, settled := false, closed := 0 } }
  else { s with boot := { s.boot with pend := some (.race left) } }
def execRaceReset (race : Nat) (s : State) : Host.Outcome State Fault Refusal :=
  .next (match s.boot.pend with
    | some (.race m) => when (decide (race < 32) && bit m race && s.settledFor (fun _ => true) && s.handed [race])
        (fun s => if s.lcPower then s.powerOn 1 false else (((s.raceCore race).startRace race true).raceDone m race).badFuses) s
    | _ => s)

/-! ### Power-on (R344, R362, R457) -/

/-- The sequence of R457. A VAUX below its level is a failed step: one retry, then OFF with WAKE_FAIL; what FAIL_WHY names then is not given. -/
def State.powerUp (s : State) (vauxOk : Bool) : State :=
  let second := s.gov.wakeWait
  let t := s.powerOn 1 false
  if vauxOk then t
  else
    let t := { t with freeCtr := t.freeCtr + 1, gov := { t.gov with ps := .off, pads := true, wake := some (0, 0, 0) } }
    let t := { t with gov := t.gov.setRails .off }
    t.wakeFails (Config.freeNat s.freeCtr % 8) 0 (if second then 1 else 0)
/-- VAON_M has become valid after AON was lost, or the retry of a failed attempt is due. -/
def State.powerDue (s : State) : Bool :=
  s.boot.aonDown || (s.boot.inReset = some .powerOn && !s.i3c.slotOk
    && (!s.gov.wakeWait || decide (s.clk.age ≥ s.gov.failAt + 1250)) && (s.gov.ps = .run || s.gov.wakeWait))
def execPowerOnReset (vauxOk : Bool) (s : State) : Host.Outcome State Fault Refusal :=
  .next (when s.powerDue (fun s => s.powerUp vauxOk) s)
def execAonLost (s : State) : Host.Outcome State Fault Refusal := .next (when (!s.boot.aonDown) (fun s => s.loseAon) s)
/-- Without REFCLK the PLLs hold over; links and drives follow their own rules. -/
def execRefclkStop (s : State) : Host.Outcome State Fault Refusal :=
  .next (when s.awake (fun s => { s with clk := { s.clk with refclk := false } }) s)

/-! ### Release (R57, R267, R299, R333, R387, R434, R457, R458, R465) -/

/-- SLOT is sampled; at the first sampling after an AON power-on it sets ATT_EN. -/
def State.takeSlot (s : State) (slot : Nat) : State :=
  let t := s.fset Fld.MIL_BOOT_SLOT slot
  if t.i3c.slotOk then t
  else ({ t with i3c := { t.i3c with slotOk := true } } : State).fset Fld.MIL_I3C_CFG_ATT_EN (if slot < 48 then 1 else 0)
/-- Test mode is entered at a reset recorded as warm, where TESTMODE is set and the life cycle permits it; DRAM contents are undefined, and no written-map
bit vouches for them (R146). -/
def State.enterTest (s : State) : State :=
  if s.fheld Fld.TST_CTRL_TESTMODE = 1 && s.openByState && s.fheld Fld.GOV_STATUS_RST_CAUSE = 3 then
    { (s.loseSids 0).clearMap 0 with tst := { s.tst with inmode := true } }
  else s
/-- The whole device is released: East's Miller core runs first, and West, modules, races and Hoists wait for it (R24, R458). -/
def State.releaseAll (s : State) (k : ResetKind) (slot : Nat) : State :=
  let wf := s.gov.wakeFailPend
  let s := (s.takeSlot slot).enterTest
  let s := { s with boot := { s.boot with inReset := none, bist := false, westUp := false, rest := some (s.clk.age, decide (k = ResetKind.warm))
                                          readyE := false, readyW := false, pend := s.boot.after, after := none
                                          settle := none, settled := false, closed := 0, trainQ := [] }
                    gov := { s.gov with wakeFailPend := false }
                    mods := (List.range 20).foldl (fun (t : Tbl ModSt) m => t.ins m { st := if s.fheld Fld.HEAD_MOD_CTRL_EN m = 1 then .train else .disabled }) {}
                    mil := { s.mil with east := { s.mil.east with up := true } } }
  let s := s.readAfresh.badFuses
  if wf then s.raise Src.GOV_WAKE 0 0 else s
/-- The West half is released. -/
def State.releaseWest (s : State) (slot : Nat) : State :=
  let s := s.takeSlot slot
  let s := { s with boot := { s.boot with inReset := none, westUp := true, pend := s.boot.after, after := none }
                    mil := { s.mil with west := { s.mil.west with up := true } }
                    hstW := { s.hstW with ceilRaised := false, pressRaised := false } }
  let s := s.fset Fld.GOV_RST_CTRL_HALF_W 0
  let s := ((s.startMods (halfMods 1)).startRaces (halfRaces 1) false).startHoist 1
  (s.raiseAll (s.lasting.filter (fun e => !s.brk.cause.get false (pairKey e.src e.inst)))).badFuses
/-- A reset is released. -/
def execResetRelease (slot : BitVec 6) (s : State) : Host.Outcome State Fault Refusal :=
  .next (match s.boot.inReset with
    | some k =>
      when (!s.boot.aonDown && s.awake) (fun s => if k = .half then s.releaseWest slot.toNat else s.releaseAll k slot.toNat) s
    | none => s)

/-! ### The I3C bus (R376, R464 to R466, R480) -/

/-- The targets follow the bus. -/
def State.bus (s : State) : Bool := !s.boot.aonDown && !s.i3c.hdr
/-- What a target sends in ENTDAA (R464): its provisional ID in [63:16], BCR 0x0A, DCR 0x00. -/
def State.targetId (s : State) (target : Nat) : Word :=
  let pid := Config.mipiMfr.toNat * 2 ^ 33 + 0x5E3A * 2 ^ 16 + target * 2 ^ 12 + s.fheld Fld.MIL_BOOT_SLOT
  BitVec.ofNat 64 (pid * 2 ^ 16 + 0x0A * 2 ^ 8)
/-- ENTDAA: a target that takes part and has no address sends its ID and takes one. -/
def execEntdaa (target : Nat) (addr : BitVec 7) (s : State) : Host.Outcome State Fault Refusal :=
  .next (when (s.bus && s.i3c.slotOk)
    (fun s =>
      let id : Reply := { mstat := St.ok, val := s.targetId target }
      if target = 0 ∧ s.i3c.mgmtAddr.isNone then { s with i3c := { s.i3c with mgmtAddr := some addr }, reply := id }
      else if target = 1 ∧ s.i3c.attAddr.isNone ∧ s.fheld Fld.MIL_I3C_CFG_ATT_EN = 1 then { s with i3c := { s.i3c with attAddr := some addr }, reply := id }
      else s) s)
/-- GETSTATUS: bits [15:8] as R376 gives them; the rest is the bus standard's, a free value. -/
def State.getStatus (s : State) : State :=
  let w := b2n (decide (s.fheld Fld.GOV_WAKE_FAIL = 1)) * 2 ^ 15 + s.gov.ps.code * 2 ^ 12 + b2n s.gov.alert * 2 ^ 11 + Config.freeNat s.freeCtr % 256
  { s with freeCtr := s.freeCtr + 1, reply := { mstat := St.ok, val := BitVec.ofNat 64 w } }
def execGetstatus (s : State) : Host.Outcome State Fault Refusal :=
  .next (when (s.bus && s.i3c.mgmtAddr.isSome) (fun s => s.getStatus) s)
def execKyGo (s : State) : Host.Outcome State Fault Refusal := .next (when (s.bus && s.awake) (fun s => s.fset Fld.MIL_BOOT_GO 1) s)
/-- KY_POWER: firmware requests the state as SET_POWER does. -/
def execKyPower (req : Nat) (s : State) : Host.Outcome State Fault Refusal :=
  .next (match PState.of req with
    | some p => when (s.bus && s.awake && s.mainsOn && s.gov.entry.isNone && !s.brk.safe) (fun s => s.requestState p none false false) s
    | none => s)
def execKyWarm (defByte : Byte) (s : State) : Host.Outcome State Fault Refusal :=
  .next (when (s.bus && decide (defByte = 0xA5)) (fun s => s.askReset .warm) s)
def execKyWake (s : State) : Host.Outcome State Fault Refusal := .next (when (s.bus && !s.awake) (fun s => s.wakeEvent 1) s)
def execEnthdr (s : State) : Host.Outcome State Fault Refusal :=
  .next (when (!s.boot.aonDown) (fun s => { s with i3c := { s.i3c with hdr := true } }) s)
def execHdrExitPattern (s : State) : Host.Outcome State Fault Refusal := .next { s with i3c := { s.i3c with hdr := false } }
/-- The controller enables or disables In-Band Interrupts of a target. -/
def execControllerIbiEnable (target : Nat) (en : Bool) (s : State) : Host.Outcome State Fault Refusal :=
  .next (when s.bus
    (fun s => if target = 0 then { s with i3c := { s.i3c with ibiMgmt := en } }
      else if target = 1 then { s with i3c := { s.i3c with ibiAtt := en } } else s) s)

end Sys2Proof.Machine
end

