-- ==== Sys2Proof/Machine/Returns.lean ====
section
/-!
DEFINITION. What reaches an owner from a race: the return of a read burst, a missing burst, a stray strobe (R174, R286, R292, R315), and the
stall watchdog's firing, which returns an error to the unit that a background request belongs to (R49).
-/
namespace Sys2Proof.Machine

/-! ### Bursts (R174) -/

/-- A burst reaches its owner with its decode. -/
def State.deliver (s : State) (r : Nat) (f : Flight) (d : Decoded) : State :=
  let s := s.setRace r { s.race r with flights := (s.race r).flights.erase f }
  if f.mrr then s.mrBack r
  else match f.kind with
    | .host => s.demand f.id f.k f.addr d f.stale
    | .scrub => s.scrubbed f.addr false f.retry d f.stale
    | .scrubPrio => s.scrubbed f.addr true f.retry d f.stale
    | .hoist => s.hoistGot f.id f.addr d
    | .fau => s.setRace r { s.race r with fau := mapIf (fun e => e.qid = f.qid) (fun e => { e with back := some (outCode d.out, d.word, d.fixed) }) (s.race r).fau }
    | .probe => s
/-- Within 2 mc of the expected strobe. -/
def Flight.due (f : Flight) (pr t : Nat) : Bool := f.pr = pr && decide (t ≤ f.at_ + 2) && decide (f.at_ ≤ t + 2)

def execReadBurstReturn (race pr mc : Nat) (err : List (Nat × Byte)) (s : State) : Host.Outcome State Fault Refusal :=
  .next (match (s.race race).flights.find? (fun f => f.due pr (s.at mc)) with
    | none => s
    | some f => ({ s with clk := s.clkAt mc }.strobeSeen race pr).deliver race f (rsDecode (corrupt f.word err)))
def execMissingBurst (race pr mc : Nat) (s : State) : Host.Outcome State Fault Refusal :=
  .next (match (s.race race).flights.find? (fun f => f.pr = pr ∧ f.at_ + 2 < s.at mc) with
    | none => s
    | some f => ({ s with clk := s.clkAt mc }.strobeMissed race pr).deliver race f ⟨.miss, 0, []⟩)
/-- A strobe outside every window is ignored and counted. -/
def execStrayStrobe (race pr : Nat) (s : State) : Host.Outcome State Fault Refusal :=
  .next (when (decide (race < 32) && !((s.race race).flights.any (fun f => f.due pr s.now))) (fun s => s.fadd Fld.RACE_ERR_STRAY 1 race) s)

/-! ### The stall watchdog fires (R48 to R50) -/

/-- A cell of a restored chunk whose write has been retired is written again, as part of its chunk (log entry 140). -/
def State.redoCell (s : State) (e : WqEnt) : State :=
  let h := raceHalf (s.raceAt e.addr)
  let v := e.addr / 2 ^ 21
  let x := s.hst h
  let job : HRestore := match x.jobs.find? v with
    | some j => { j with redo := j.redo ++ [(e.addr, e.data, e.psn)] }
    | none => { left := [], good := true, demand := false, redo := [(e.addr, e.data, e.psn)], again := true }
  s.setHst h { x with jobs := x.jobs.ins v job, chunks := x.chunks.ins v .loading }
/-- A retired background request leaves its queue, and its owner makes of the error what follows (R49): the scrubber passes over the cell,
Hoist copies it as poison, a scan takes its tag as unknown, a correction is dropped, a restored cell is written again, Tally abandons its
record, a submission has failed. -/
def State.backError (b : BackReq) (s : State) : State :=
  match b with
  | .read r e =>
    let s := s.setRace r { s.race r with rq := (s.race r).rq.erase e }
    (match e.kind with
    | .scrub => s.pieceDone e.addr false
    | .scrubPrio => s.pieceDone e.addr true
    | .hoist =>
      let h := raceHalf (s.raceAt e.addr)
      let c := e.addr / 64 % 64
      if e.id = 0 then s.scanGot h e.addr none
      else s.setHst h (((s.hst h).setPage e.id (e.addr / 4096) (fun p => if p.await.contains c then p.take c none else p)).submit s.clk.age)
    | _ => s)
  | .write r e =>
    let s := s.setRace r { s.race r with wq := (s.race r).wq.erase e }
    (match e.own with
    | .hoist => s.redoCell e
    | .tally => s.recError e.addr
    | _ => s)
  | .store e => ({ s with pond := s.pond.erase e }).recError e.addr
  | .sub port cid =>
    let x := s.hst (port / 4)
    let gone := fun c : DrvCmd => c.port = port && c.cid = cid && c.sub
    let x := (x.cmds.filter gone).foldl (fun (y : Hst) c => y.unissue c) { x with cmds := x.cmds.filter (fun c => !gone c) }
    (s.setHst (port / 4) x).ceilCause (port / 4)
  | .packet _ => s
/-- A point fires once its head has waited LIMIT Turns. The command names the head by its number at the point. -/
def execStallWatchdogFire (half point vc head : Nat) (s : State) : Host.Outcome State Fault Refusal :=
  .next (match s.wdDue half point vc with
    | some w => when (decide (half < 2) && w.tag == head && wdPoint point && wdChan point vc && s.fget Fld.LAY_STALL_CFG_EN 0 half = 1)
        (fun s => s.wdFire half point vc w State.backError) s
    | none => s)

end Sys2Proof.Machine
end

