-- ==== Sys2Proof/Machine/Sluice.lean ====
section
/-!
DEFINITION. The Sluices (R221 to R235): a decision at a race's command bus, a crosspoint output, a cross-half link port or a
granary port mux; pending queues, ages, the channels and classes of a Layshaft port, the order of a granary port.
-/
namespace Sys2Proof.Machine

/-- Half whose settings the Sluice uses. -/
def sluHalf : SluiceId → Nat
  | .row r => raceHalf r
  | .col r _ => raceHalf r
  | .xp half _ _ => half
  | .link dir _ => dir
  | .gport p => p / 4

/-! ### Pending queues (R223) -/

/-- The new requests that their ports can present: one a port (R221). A port keeps 8 entries for each channel, none of which borrows
another's buffer (R41); with its 7 unreserved entries full it presents class 0 only, and with all 8 full nothing. Whatever its class, a
request takes an unreserved entry first (log entry 134). -/
def admitOffers (pend : List Parked) (offers : List Offer) : List Parked :=
  offers.foldl (fun (acc : List Parked) o =>
    let n := countP (fun p : Parked => p.port = o.port && p.ch = o.ch) pend
    if acc.any (fun p => p.port = o.port) || pend.any (fun p => p.port = o.port && p.ch = o.ch && p.key = o.key) then acc
    else if n ≥ 8 || (n ≥ 7 && o.cls ≠ 0) then acc
    else acc ++ [⟨o.port, o.key, o.cls, o.ch, o.since, o.cells, o.stream⟩]) []
/-- A cross-half link takes the cells of the streams that R42 gives it; a granary port takes firmware's submissions from outside, Hoist's own
it finds itself; every other Sluice takes any. -/
def State.mayOffer (s : State) (id : SluiceId) (o : Offer) : Bool :=
  match id with
  | .link dir n => s.lay.linkOf dir o.stream = some n && o.port ≠ replayPort
  | .gport _ => o.port = 4 && decide (o.key < 2 ^ 32)
  | _ => true
/-- The queue of a drive that a command goes to (R337): 0 admin, 1 writes and Flush, 2 restore, 3 demand fill. -/
def DrvCmd.pair (c : DrvCmd) : Nat := if c.kind = 4 then 0 else if c.kind = 1 then 2 else if c.kind = 2 then 3 else 1
/-- The command's queue at its drive has room: depth 32 of the admin queue, 64 of a pair (R337). -/
def Hst.pairFree (x : Hst) (c : DrvCmd) : Bool :=
  decide (countP (fun o : DrvCmd => o.port = c.port && !o.sub && o.pair = c.pair) x.cmds < (if c.pair = 0 then 32 else 64))
/-- Hoist's submissions that wait for a grant of granary port p, under the port that R235 gives their kind. -/
def State.subOffers (s : State) (p : Nat) : List Offer :=
  let x := s.hst (p / 4)
  let of := fun c : DrvCmd => if c.kind = 4 then 4 else if c.kind = 2 then 1 else if c.kind = 1 then 2 else if x.st = .drain then 0 else 3
  (x.cmds.filter (fun c => c.port = p && c.sub && x.pairFree c)).map (fun c =>
    { port := of c, key := subKey (p / 4) c.cid, cls := s.hoistCls, ch := .req, since := 256 * c.since, cells := 0, stream := 0 })
/-- A submission of Hoist is granted: it goes to its drive (R235), and its timeout runs from here (R51). -/
def State.subGrant (s : State) (p key : Nat) : State :=
  let h := p / 4
  let x := s.hst h
  s.setHst h { x with cmds := mapIf (fun c => c.port = p && c.sub && subKey h c.cid = key) (fun c => { c with sub := false, since := s.clk.age }) x.cmds }

/-! ### Credits (R41, R231, R233) -/

/-- REQ places of a next hop outside the 4 reserved for class 0: 44 behind a cross-half link; at a crosspoint input the spec gives no
number (a constant of the part). -/
def freePlaces : SluiceId → Nat
  | .link _ _ => 44
  | _ => Config.xpPlaces
/-- A credit for a REQ packet is held: class 0 uses reserved and unreserved places, the reserved ones first; classes 1 to 3 use
unreserved places only. -/
def Slu.credit (x : Slu) (unres cls : Nat) : Bool :=
  let res := countP (fun p : Nat × Bool => p.2) x.places
  let rest := countP (fun p : Nat × Bool => !p.2) x.places
  if cls = 0 then decide (res + rest < unres + 4) else decide ((res - 4) + rest < unres)
/-- A packet that can be offered: one of RSP or SNP always, one of REQ while a credit is held at the next hop. -/
def Slu.offered (x : Slu) (unres : Nat) (p : Parked) : Bool := p.ch ≠ .req || x.credit unres p.cls

/-- Oldest first, then lowest port number (R223). -/
def oldestOf : List Parked → Option Parked
  | [] => none
  | p :: l => match oldestOf l with
    | none => some p
    | some q => if q.since < p.since ∨ (q.since = p.since ∧ q.port < p.port) then some q else some p
/-- Beats of a packet (R230). -/
def Parked.beats (p : Parked) : Nat := if p.cells ≤ 2 then 1 else 2

/-! ### Layshaft ports (R231, R232, R248) -/

/-- Class 0 before the others, oldest first: the choice within RSP and SNP (R248). -/
def pickRsp (l : List Parked) : Option Parked :=
  let z := l.filter (fun p => p.cls = 0)
  oldestOf (if z.isEmpty then l else z)
def Slu.deficit (x : Slu) (c : Nat) : Nat := if c = 1 then x.def1 else if c = 2 then x.def2 else x.def3
def Slu.setDef (x : Slu) (c v : Nat) : Slu :=
  { x with def1 := if c = 1 then v else x.def1, def2 := if c = 2 then v else x.def2, def3 := if c = 3 then v else x.def3 }
def State.xpWeight (s : State) (h c : Nat) : Nat :=
  if c = 1 then s.fget Fld.SLU_XP_CFG_W1 0 h else if c = 2 then s.fget Fld.SLU_XP_CFG_W2 0 h else s.fget Fld.SLU_XP_CFG_W3 0 h
/-- One pass of the round: the first class with a packet that its deficit covers. -/
def Slu.drrPass (x : Slu) (l : List Parked) : List Nat → Option Parked
  | [] => none
  | c :: cs => match oldestOf (l.filter (fun p => p.cls = c)) with
    | some p => if x.deficit c ≥ p.beats then some p else x.drrPass l cs
    | none => x.drrPass l cs
/-- A new round: each class with packets gains its weight, the others lose their deficit. -/
def State.drrRound (s : State) (h : Nat) (x : Slu) (l : List Parked) : Slu :=
  [1, 2, 3].foldl (fun (x : Slu) c => x.setDef c (if l.any (fun p => p.cls = c) then x.deficit c + s.xpWeight h c else 0)) x
/-- The choice within REQ: class 0, aged packets, then deficit round-robin in beats (R232; log entry 136). -/
def State.pickReq (s : State) (h t : Nat) (x : Slu) (l : List Parked) : Option (Parked × Slu) :=
  let z := l.filter (fun p => p.cls = 0)
  let old := l.filter (fun p => decide (t ≥ p.since + s.fget Fld.SLU_XP_CFG_XP_AGE 0 h))
  let pay := fun (x : Slu) (p : Parked) => x.setDef p.cls (x.deficit p.cls - p.beats)
  match oldestOf z with
  | some p => some (p, x)
  | none => match oldestOf old with
    | some p => some (p, pay x p)
    | none =>
      match x.drrPass l [1, 2, 3] with
      | some p => some (p, pay x p)
      | none =>
        let x1 := s.drrRound h x l
        match x1.drrPass l [1, 2, 3] with
        | some p => some (p, pay x1 p)
        | none =>
          let x2 := s.drrRound h x1 l
          (x2.drrPass l [1, 2, 3]).map (fun p => (p, pay x2 p))
/-- The packet an output port sends next (R231); only packets that can be offered count as waiting (log entry 135). -/
def State.pickPacket (s : State) (h t : Nat) (x : Slu) (l : List Parked) : Option (Parked × Slu) :=
  let ch := fun c => l.filter (fun p => p.ch = c)
  let others := !(ch .req).isEmpty || !(ch .rsp).isEmpty
  let snpOk := !(ch .snp).isEmpty && (!others || (match x.lastSnp with | some b => decide (t + 1 ≥ b + 4) | none => true))
  if snpOk then (pickRsp (ch .snp)).map (fun p => (p, x))
  else if !(ch .rsp).isEmpty && ((ch .req).isEmpty || x.reqWon) then
    (pickRsp (ch .rsp)).map (fun p => (p, if (ch .req).isEmpty then x else { x with reqWon := false }))
  else (s.pickReq h t x (ch .req)).map (fun e => (e.1, if (ch .rsp).isEmpty then e.2 else { e.2 with reqWon := true }))

/-! ### Granary port mux (R235) -/

/-- Ports in order: 0 drain, 1 demand fill, 2 restore, 3 write-behind, 4 firmware; with the two exceptions, counted
since the port's last grant (log entry 137). -/
def State.pickSubmission (s : State) (h : Nat) (x : Slu) (l : List Parked) : Option (Parked × Slu) :=
  let at_ := fun p => oldestOf (l.filter (fun q => q.port = p))
  let fw := if x.sinceFw + 1 ≥ s.fget Fld.SLU_GP_CFG_FW_EVERY 0 h then at_ 4 else none
  let wb := if x.sinceWb + 1 ≥ s.fget Fld.SLU_GP_CFG_WB_EVERY 0 h then at_ 3 else none
  let pick := match fw with
    | some p => some p
    | none => match wb with
      | some p => some p
      | none => ([0, 1, 2, 3, 4].filterMap at_).head?
  pick.map (fun p => (p, { x with sinceFw := if p.port = 4 then 0 else x.sinceFw + 1, sinceWb := if p.port = 3 then 0 else x.sinceWb + 1 }))

/-! ### The decision -/

/-- Grants whose transfer has begun leave their pending entries (R223). -/
def Slu.settleGrant (x : Slu) (t : Nat) : Slu :=
  match x.grant with
  | some (_, b) => if b ≤ t then { x with pend := x.pend.filter (fun p => !x.granted p), grant := none } else x
  | none => x
/-- The record of a Sluice after a packet is granted in mc t: its transfer, the SNP beat, the place it takes at the next hop, the
replay buffer of a link (R43, R222, R231, R233). -/
def Slu.send (x : Slu) (id : SluiceId) (t n : Nat) (p : Parked) : Slu :=
  let x := { x with busyTo := t + 1 + n, grant := some (p.key, t + 1), grantCh := p.ch }
  match id with
  | .gport _ => x
  | .link _ _ => { x with lastSnp := if p.ch = .snp then some (t + n) else x.lastSnp
                          places := if p.ch = .req then (p.key, decide (p.cls = 0)) :: x.places else x.places
                          replay := (p :: x.replay).take 16 }
  | _ => { x with lastSnp := if p.ch = .snp then some (t + n) else x.lastSnp
                  places := if p.ch = .req then (p.key, decide (p.cls = 0)) :: x.places else x.places }
/-- The decision of a Layshaft or granary Sluice in mc t, where that mc is the last beat of its transfer or it is idle (R221): the
winner's transfer begins in the next mc, the losers stay parked with their ages. `freed` names the packets whose places the next hop has
given back. At a granary port a parked submission that Hoist has withdrawn, or that has another port now, leaves. -/
def State.sluDecide (s : State) (id : SluiceId) (t : Nat) (offers : List Offer) (freed : List Nat) : State :=
  let k := sluKey id
  let h := sluHalf id
  let x := (s.lay.slu.get {} k).settleGrant t
  let x := { x with places := x.places.filter (fun p => p.1 ∉ freed) }
  let put := fun (s : State) (x : Slu) => { s with lay := { s.lay with slu := s.lay.slu.ins k x } }
  if t + 1 < x.busyTo then put s x
  else
    let gp := match id with | .gport _ => true | _ => false
    let subs := match id with | .gport p => s.subOffers p | _ => []
    let pend := if gp then x.pend.filter (fun p => decide (p.key < 2 ^ 32) || x.granted p || subs.any (fun o => o.key = p.key && o.port = p.port)) else x.pend
    let all := pend ++ admitOffers pend (offers.filter (fun o => s.mayOffer id o) ++ subs)
    let x := { x with pend := all }
    match (if gp then s.pickSubmission h x all else s.pickPacket h t x (all.filter (fun p => x.offered (freePlaces id) p))) with
    | none => put s x
    | some (p, x) =>
      let n := if gp then 4 else p.beats
      let s := put s (x.send id t n p)
      match id with
      | .gport g => s.subGrant g p.key
      | .link dir l => s.tally dir 4 (4 * l + (match p.ch with | .req => 0 | .rsp => 1 | .snp => 2)) n
      | _ => s
/-- The decision of a race's command bus in mc t for mc t + 1 (R225); a grant already made for that mc stands (R224). -/
def State.rowDecide (s : State) (r t : Nat) : State :=
  let x := s.race r
  if x.grantR.any (fun g => g.2 = t + 1) then s
  else s.setRace r { x with grantR := x.grantR.filter (fun g => g.2 ≥ t) ++ ((s.pickRow r (t + 1)).map (fun n => (n, t + 1))).toList }
def State.colDecide (s : State) (r pr t : Nat) : State :=
  let g := if s.raceRuns r then (s.pickColumn r pr (t + 1)).map (fun c => (c, t + 1)) else none
  let x := s.race r
  let add := fun (l : List (ColPick × Nat)) => l.filter (fun g => g.2 ≥ t) ++ g.toList
  if (x.colGrants pr).any (fun g => g.2 = t + 1) then s
  else s.setRace r { x with grantA := if pr = 0 then add x.grantA else x.grantA, grantB := if pr = 0 then x.grantB else add x.grantB }

def execSluiceDecision (at_ : SluiceId) (mc : Nat) (offers : List Offer) (s : State)
    (freed : List Nat := []) : Host.Outcome State Fault Refusal :=
  let t := s.at mc
  .next ({ (match at_ with
    | .row r => when (decide (r < 32)) (fun s => s.rowDecide r t) s
    | .col r pr => when (decide (r < 32) && decide (pr < 2)) (fun s => s.colDecide r pr t) s
    | id => s.sluDecide id t offers freed) with clk := s.clkAt mc })

end Sys2Proof.Machine
end

