-- ==== Sys2Proof/Machine/Window.lean ====
section
/-!
DEFINITION. The commands that access registers: writes by MGMT, I3C and firmware (R18), the requests that a single field makes, MGMT
requests of host modules (R90, R91), and the private transfers of the I3C management target (R411).
-/
namespace Sys2Proof.Machine

def execRegisterWrite (path : Path) (off : BitVec 24) (w64 : Bool) (val : Word) (s : State) : Host.Outcome State Fault Refusal :=
  .next (s.regWrite path off.toNat w64 val)

/-! ### Host link, fabric, Hopper, address map -/

def execModuleEnable (path : Path) (m : Nat) (en : Bool) (s : State) : Host.Outcome State Fault Refusal :=
  .next (when (decide (m < 20)) (fun s => s.writeField path Fld.HEAD_MOD_CTRL_EN (b2n en) m) s)
def execRecal (path : Path) (m : Nat) (s : State) : Host.Outcome State Fault Refusal :=
  .next (when (decide (m < 20)) (fun s => s.writeField path Fld.HEAD_MOD_CTRL_RECAL 1 m) s)
def execRestart (path : Path) (m : Nat) (s : State) : Host.Outcome State Fault Refusal :=
  .next (when (decide (m < 20)) (fun s => s.writeField path Fld.HEAD_MOD_CTRL_RESTART 1 m) s)
/-- The clear of R52, as the half's firmware makes it. -/
def execLayStallStatusClear (half : Nat) (s : State) : Host.Outcome State Fault Refusal :=
  .next (when (decide (half < 2)) (fun s => s.writeField (.fw half) Fld.LAY_STALL_STATUS_VALID 1 0 half) s)
def execGranWrite (path : Path) (gran : Nat) (s : State) : Host.Outcome State Fault Refusal :=
  .next (s.writeField path Fld.HOP_ORD_CFG_GRAN gran)
def execHopLostLogClear (path : Path) (half : Nat) (s : State) : Host.Outcome State Fault Refusal :=
  .next (when (decide (half < 2)) (fun s => s.writeField path Fld.HOP_LOST_LOG_VALID 1 0 half) s)
def execHashLock (path : Path) (s : State) : Host.Outcome State Fault Refusal :=
  .next (s.writeField path Fld.HOP_AMAP_CFG_LOCK 1)
def execWmapClear (path : Path) (half : Nat) (s : State) : Host.Outcome State Fault Refusal :=
  .next (when (decide (half < 2)) (fun s => s.writeField path Fld.QRN_WMAP_CFG_CLEAR 1 0 half) s)

/-! ### Races, slot tables, regulation, training -/

def execMrCmd (path : Path) (race : Nat) (val : Word) (s : State) : Host.Outcome State Fault Refusal :=
  .next (when (decide (race < 32)) (fun s => s.writeReg path .RACE_MR_CMD (Reg.key .RACE_MR_CMD race 0) (Fld.RACE_MR_CMD_GO.put val 1)) s)
def execTimingLock (path : Path) (race : Nat) (s : State) : Host.Outcome State Fault Refusal :=
  .next (when (decide (race < 32)) (fun s => s.writeField path Fld.RACE_CTRL_TLOCK 1 race) s)
def execSlotSwapRequest (path : Path) (races : Nat) (s : State) : Host.Outcome State Fault Refusal :=
  .next (s.writeField path Fld.SLU_SLOT_SWAP_RACES races)
def execSlotDirectWrite (path : Path) (race j : Nat) (val : Word) (s : State) : Host.Outcome State Fault Refusal :=
  .next (when (decide (race < 32) && decide (j < 8)) (fun s => s.writeReg path .RACE_SLOT_ACT (Reg.key2 .RACE_SLOT_ACT race j 0) val) s)
def execSlotStatBadcodeClear (path : Path) (race : Nat) (s : State) : Host.Outcome State Fault Refusal :=
  .next (when (decide (race < 32)) (fun s => s.writeField path Fld.RACE_SLOT_STAT_BADCODE 1 race) s)
def execWeirScaledClear (path : Path) (s : State) : Host.Outcome State Fault Refusal :=
  .next (s.writeField path Fld.WEIR_STATUS_SCALED 1)
def execRetrainRequest (path : Path) (half i : Nat) (s : State) : Host.Outcome State Fault Refusal :=
  .next (when (decide (half < 2) && decide (i < 16)) (fun s => s.writeField path Fld.FAN_CTRL_RETRAIN (2 ^ i) 0 half) s)
def execQrnUeLogClear (path : Path) (half : Nat) (s : State) : Host.Outcome State Fault Refusal :=
  .next (when (decide (half < 2)) (fun s => s.writeField path Fld.QRN_UE_LOG_VALID 1 0 half) s)
def execQrnRowLogClear (path : Path) (half : Nat) (s : State) : Host.Outcome State Fault Refusal :=
  .next (when (decide (half < 2)) (fun s => s.writeField path Fld.QRN_ROW_LOG_VALID 1 0 half) s)

/-! ### Brake and Tally -/

def execBrakePendClear (path : Path) (src mask : Nat) (s : State) : Host.Outcome State Fault Refusal :=
  .next (when (decide (src < 64)) (fun s => s.writeField path Fld.BRK_SRC_STAT_PEND mask src) s)
def execClrRefusedClear (path : Path) (s : State) : Host.Outcome State Fault Refusal :=
  .next (s.writeField path Fld.BRK_CTRL_CLR_REFUSED 1)
def execBrkSafeClear (path : Path) (s : State) : Host.Outcome State Fault Refusal :=
  .next (s.writeField path Fld.BRK_SAFE_VALID 1)
def execHistUnfreeze (path : Path) (s : State) : Host.Outcome State Fault Refusal :=
  .next (s.writeField path Fld.BRK_HIST_STAT_FROZEN 1)
def execBrkInjGo (path : Path) (val : Word) (s : State) : Host.Outcome State Fault Refusal :=
  .next (s.writeReg path .BRK_INJ (Reg.key .BRK_INJ 0 0) (Fld.BRK_INJ_GO.put val 1))
def execBrkInjStop (path : Path) (s : State) : Host.Outcome State Fault Refusal :=
  .next (s.writeField path Fld.BRK_INJ_STOP 1)
def execSampleRelease (path : Path) (half : Nat) (s : State) : Host.Outcome State Fault Refusal :=
  .next (when (decide (half < 2)) (fun s => s.writeField path Fld.TLY_SAMP1_VALID 1 0 half) s)
/-- A read (none) or a write of TLY_HEAT_DATA. -/
def execHeatDataAccess (path : Path) (half : Nat) (wr : Option (BitVec 32)) (s : State) : Host.Outcome State Fault Refusal :=
  .next (when (decide (half < 2))
    (fun s => match wr with
      | none => s.regRead path (Reg.key .TLY_HEAT_DATA 0 half) false
      | some v => s.regWrite path (Reg.key .TLY_HEAT_DATA 0 half) false (BitVec.ofNat 64 v.toNat)) s)

/-! ### Mailboxes, bring-up, resets, test mode -/

def execDoorbell (path : Path) (half box : Nat) (s : State) : Host.Outcome State Fault Refusal :=
  .next (when (decide (half < 2) && decide (box < 8)) (fun s => s.writeField path Fld.MIL_MB_CTRL_GO 1 box half) s)
def execMailboxRelease (path : Path) (half box : Nat) (s : State) : Host.Outcome State Fault Refusal :=
  .next (when (decide (half < 2) && decide (box < 8)) (fun s => s.writeField path Fld.MIL_MB_CTRL_DONE 1 box half) s)
def execBootGo (path : Path) (s : State) : Host.Outcome State Fault Refusal :=
  .next (s.writeField path Fld.MIL_BOOT_GO 1)
def execAttEnWrite (path : Path) (en : Bool) (s : State) : Host.Outcome State Fault Refusal :=
  .next (s.writeField path Fld.MIL_I3C_CFG_ATT_EN (b2n en))
def execTestModeExit (path : Path) (s : State) : Host.Outcome State Fault Refusal :=
  .next (s.writeField path Fld.TST_CTRL_EXIT 1)
def execWarmResetRequest (path : Path) (s : State) : Host.Outcome State Fault Refusal :=
  .next (s.writeField path Fld.GOV_RST_CTRL_WARM 1)
def execHalfResetRequest (path : Path) (s : State) : Host.Outcome State Fault Refusal :=
  .next (s.writeField path Fld.GOV_RST_CTRL_HALF_W 1)
def execRaceResetRequest (path : Path) (races : Nat) (s : State) : Host.Outcome State Fault Refusal :=
  .next (s.writeField path Fld.GOV_RST_CTRL_RACE races)

/-! ### MGMT (R90, R91) -/

/-- WNR, W64 and OFFSET of a MGMT request. -/
def Req.mgWrite (q : Req) : Bool := bit q.addr 25
def Req.mgWide (q : Req) : Bool := bit q.addr 24
def Req.mgOff (q : Req) : Nat := bits q.addr 0 24
/-- The access of a MGMT request. -/
def State.mgAccess (s : State) (q : Req) : State :=
  if q.mgWrite then s.regWrite (.mgmt q.m) q.mgOff q.mgWide q.arg else s.regRead (.mgmt q.m) q.mgOff q.mgWide
/-- An earlier MGMT of the stream has not been performed. -/
def State.mgBehind (s : State) (id stream : Nat) : Bool :=
  s.hop.reqs.rows.any (fun kv => decide (kv.1 < id) && kv.2.stream = stream && s.ordered id kv.2 && kv.2.opc = Opc.mgmt && kv.2.open_)
/-- Perform a MGMT request and answer it: CODE OK, MSTAT and, for a read, VALUE. -/
def State.doMgmt (s : State) (id : Nat) (q : Req) : State :=
  let t := s.mgAccess q
  let v := if q.mgWrite then 0 else t.reply.val.toNat
  ((t.answer id Rc.ok 0 t.reply.mstat v []).updReq id (fun q => { q with phase := .performed })).reap id
def execMgmt (id : Nat) (s : State) : Host.Outcome State Fault Refusal :=
  .next (match s.hop.reqs.find? id with
    | some q => when (s.fresh id Opc.mgmt && !s.mgBehind id q.stream && s.mainsOn) (fun s => s.doMgmt id q) s
    | none => s)

/-! ### I3C private transfers (R411) -/

/-- The management target takes transfers: it holds a dynamic address and no HDR mode runs (R464, R480). -/
def State.i3cUp (s : State) : Bool := !s.boot.aonDown && s.i3c.mgmtAddr.isSome && !s.i3c.hdr
def bytesNat (l : List Byte) : Nat := leNat (l.map BitVec.toNat)
/-- A transfer that makes no access. -/
def State.i3cBad (s : State) : State := s.answered .i3c St.badarg 0
/-- A write sets the pointer and writes where it carries data. -/
def State.i3cWrite (s : State) (bytes : List Byte) : State :=
  let off := bytesNat (bytes.take 3)
  let v := BitVec.ofNat 64 (bytesNat (bytes.drop 3))
  let n := bytes.length
  let p := { s with mil := { s.mil with ptr := off } }
  if n = 3 then p
  else if n = 7 && off % 4 = 0 then p.regWrite .i3c off false v
  else if n = 11 && off % 8 = 0 then p.regWrite .i3c off true v
  else s.i3cBad
def execI3cPrivateWrite (bytes : List Byte) (s : State) : Host.Outcome State Fault Refusal :=
  .next (when s.i3cUp (fun s => s.i3cWrite bytes) s)
def State.i3cRead (s : State) (len : Nat) : State :=
  if len = 4 && s.mil.ptr % 4 = 0 then s.regRead .i3c s.mil.ptr false
  else if len = 8 && s.mil.ptr % 8 = 0 then s.regRead .i3c s.mil.ptr true
  else s.i3cBad
def execI3cPrivateRead (len : Nat) (s : State) : Host.Outcome State Fault Refusal :=
  .next (when s.i3cUp (fun s => s.i3cRead len) s)

end Sys2Proof.Machine
end

