-- ==== Sys2Proof/Machine/Dispatch.lean ====
section
/-! DEFINITION. The dispatch: one arm for each command, in the order of the table. -/
namespace Sys2Proof.Machine

/-- The effect of a command on everything but the queue. -/
def exec (i : Instr) (s : State) : Host.Outcome State Fault Refusal :=
  match i with
  | .turnBoundary temps vdd vbk mainFail => Sys2Proof.Machine.execTurnBoundary temps vdd vbk mainFail s
  | .alertThermalDecision => Sys2Proof.Machine.execAlertThermalDecision s
  | .slotSwapSample => Sys2Proof.Machine.execSlotSwapSample s
  | .refreshPlanning => Sys2Proof.Machine.execRefreshPlanning s
  | .weirRecalculation => Sys2Proof.Machine.execWeirRecalculation s
  | .distribution => Sys2Proof.Machine.execDistribution s
  | .turnOverrun win => Sys2Proof.Machine.execTurnOverrun win s
  | .govTurnLowRead => Sys2Proof.Machine.execGovTurnLowRead s
  | .registerWrite path off w64 val => Sys2Proof.Machine.execRegisterWrite path off w64 val s
  | .layLinkReplay dir link good => Sys2Proof.Machine.execLayLinkReplay dir link good s
  | .split => Sys2Proof.Machine.execSplit s
  | .splitRejoin => Sys2Proof.Machine.execSplitRejoin s
  | .stallWatchdogFire half point vc head => Sys2Proof.Machine.execStallWatchdogFire half point vc head s
  | .layStallStatusClear half => Sys2Proof.Machine.execLayStallStatusClear half s
  | .sluiceDecision at_ mc offers freed => Sys2Proof.Machine.execSluiceDecision at_ mc offers s freed
  | .flitReceive m mc flit => Sys2Proof.Machine.execFlitReceive m mc flit s
  | .upstreamFlitSend m mc => Sys2Proof.Machine.execUpstreamFlitSend m mc s
  | .replayTimeout m => Sys2Proof.Machine.execReplayTimeout m s
  | .moduleEnable path m en => Sys2Proof.Machine.execModuleEnable path m en s
  | .recal path m => Sys2Proof.Machine.execRecal path m s
  | .restart path m => Sys2Proof.Machine.execRestart path m s
  | .hostRecalRequest m => Sys2Proof.Machine.execHostRecalRequest m s
  | .ucieLinkActive m rate repaired x32 => Sys2Proof.Machine.execUcieLinkActive m rate repaired x32 s
  | .trainAttemptTimeout m => Sys2Proof.Machine.execTrainAttemptTimeout m s
  | .openTimeout m => Sys2Proof.Machine.execOpenTimeout m s
  | .recalComplete m repaired => Sys2Proof.Machine.execRecalComplete m repaired s
  | .recalTimeout m => Sys2Proof.Machine.execRecalTimeout m s
  | .nop id => Sys2Proof.Machine.execNop id s
  | .rd id mc => Sys2Proof.Machine.execRd id mc s
  | .rdx id mc => Sys2Proof.Machine.execRdx id mc s
  | .wr id => Sys2Proof.Machine.execWr id s
  | .wrp id => Sys2Proof.Machine.execWrp id s
  | .wrn id => Sys2Proof.Machine.execWrn id s
  | .wrc id => Sys2Proof.Machine.execWrc id s
  | .amo id => Sys2Proof.Machine.execAmo id s
  | .barS id => Sys2Proof.Machine.execBarS id s
  | .barG id => Sys2Proof.Machine.execBarG id s
  | .barD id => Sys2Proof.Machine.execBarD id s
  | .mgmt id => Sys2Proof.Machine.execMgmt id s
  | .tokenRelease id => Sys2Proof.Machine.execTokenRelease id s
  | .tokenApply id => Sys2Proof.Machine.execTokenApply id s
  | .tokenAck id => Sys2Proof.Machine.execTokenAck id s
  | .millpondDrain id k => Sys2Proof.Machine.execMillpondDrain id k s
  | .flumeIdleClose fid => Sys2Proof.Machine.execFlumeIdleClose fid s
  | .flumeEntryDrain fid => Sys2Proof.Machine.execFlumeEntryDrain fid s
  | .barrierPartResolved half id => Sys2Proof.Machine.execBarrierPartResolved half id s
  | .barrierComplete id => Sys2Proof.Machine.execBarrierComplete id s
  | .granWrite path gran => Sys2Proof.Machine.execGranWrite path gran s
  | .hopLostLogClear path half => Sys2Proof.Machine.execHopLostLogClear path half s
  | .hashLock path => Sys2Proof.Machine.execHashLock path s
  | .fillOpen race v => Sys2Proof.Machine.execFillOpen race v s
  | .fillGrant race v => Sys2Proof.Machine.execFillGrant race v s
  | .fillComplete race mc => Sys2Proof.Machine.execFillComplete race mc s
  | .wmapClear path half => Sys2Proof.Machine.execWmapClear path half s
  | .wmapClearComplete half => Sys2Proof.Machine.execWmapClearComplete half s
  | .dramAct race mc pr sid bg bank row => Sys2Proof.Machine.execDramAct race mc pr sid bg bank row s
  | .dramRd race mc src => Sys2Proof.Machine.execDramRd race mc src s
  | .dramWr race mc src => Sys2Proof.Machine.execDramWr race mc src s
  | .dramPre race mc pr sid bg bank => Sys2Proof.Machine.execDramPre race mc pr sid bg bank s
  | .refpb race mc pr sid => Sys2Proof.Machine.execRefpb race mc pr sid s
  | .refab race mc pr sid => Sys2Proof.Machine.execRefab race mc pr sid s
  | .rfm race mc pr sid bg bank => Sys2Proof.Machine.execRfm race mc pr sid bg bank s
  | .mrw race mc => Sys2Proof.Machine.execMrw race mc s
  | .mrr race mc => Sys2Proof.Machine.execMrr race mc s
  | .sre race mc sid => Sys2Proof.Machine.execSre race mc sid s
  | .srx race mc sid => Sys2Proof.Machine.execSrx race mc sid s
  | .pde race mc => Sys2Proof.Machine.execPde race mc s
  | .pdx race mc => Sys2Proof.Machine.execPdx race mc s
  | .readBurstReturn race pr mc err => Sys2Proof.Machine.execReadBurstReturn race pr mc err s
  | .missingBurst race pr mc => Sys2Proof.Machine.execMissingBurst race pr mc s
  | .strayStrobe race pr => Sys2Proof.Machine.execStrayStrobe race pr s
  | .fauTake race mc id k => Sys2Proof.Machine.execFauTake race mc id k s
  | .fauExecute race mc id k => Sys2Proof.Machine.execFauExecute race mc id k s
  | .mrCmd path race val => Sys2Proof.Machine.execMrCmd path race val s
  | .mrCmdTimeout race => Sys2Proof.Machine.execMrCmdTimeout race s
  | .timingLock path race => Sys2Proof.Machine.execTimingLock path race s
  | .plannedRefreshDue race pr slot => Sys2Proof.Machine.execPlannedRefreshDue race pr slot s
  | .revocation race pr mc => Sys2Proof.Machine.execRevocation race pr mc s
  | .srHandover race mc sid => Sys2Proof.Machine.execSrHandover race mc sid s
  | .handoverTimeout race => Sys2Proof.Machine.execHandoverTimeout race s
  | .slotSwapRequest path races => Sys2Proof.Machine.execSlotSwapRequest path races s
  | .slotDirectWrite path race j val => Sys2Proof.Machine.execSlotDirectWrite path race j val s
  | .slotStatBadcodeClear path race => Sys2Proof.Machine.execSlotStatBadcodeClear path race s
  | .weirScaledClear path => Sys2Proof.Machine.execWeirScaledClear path s
  | .fullTraining race => Sys2Proof.Machine.execFullTraining race s
  | .trainingComplete race failed badWindow => Sys2Proof.Machine.execTrainingComplete race failed badWindow s
  | .probeResult race pr sid dir lowPass highPass => Sys2Proof.Machine.execProbeResult race pr sid dir lowPass highPass s
  | .centreApply race pr sid => Sys2Proof.Machine.execCentreApply race pr sid s
  | .trackingLag race => Sys2Proof.Machine.execTrackingLag race s
  | .retrainRequest path half idx => Sys2Proof.Machine.execRetrainRequest path half idx s
  | .retrainStart half missed errs => Sys2Proof.Machine.execRetrainStart half s missed errs
  | .retrainComplete half failed badWindow => Sys2Proof.Machine.execRetrainComplete half s failed badWindow
  | .retrainAbort half => Sys2Proof.Machine.execRetrainAbort half s
  | .resumeCheck race doubleFail => Sys2Proof.Machine.execResumeCheck race doubleFail s
  | .scrubPieceStart half => Sys2Proof.Machine.execScrubPieceStart half s
  | .scrubPriorityCheck half => Sys2Proof.Machine.execScrubPriorityCheck half s
  | .errorWindowEnd half => Sys2Proof.Machine.execErrorWindowEnd half s
  | .qrnUeLogClear path half => Sys2Proof.Machine.execQrnUeLogClear path half s
  | .qrnRowLogClear path half => Sys2Proof.Machine.execQrnRowLogClear path half s
  | .fuseBurnComplete good => Sys2Proof.Machine.execFuseBurnComplete good s
  | .isolationDecision race => Sys2Proof.Machine.execIsolationDecision race s
  | .isolationAdmitOff race => Sys2Proof.Machine.execIsolationAdmitOff race s
  | .isolationReadsOff race => Sys2Proof.Machine.execIsolationReadsOff race s
  | .isolationStoreDrop race => Sys2Proof.Machine.execIsolationStoreDrop race s
  | .isolationFinal race => Sys2Proof.Machine.execIsolationFinal race s
  | .writeBehindIssue half => Sys2Proof.Machine.execWriteBehindIssue half s
  | .driveCommandComplete port cid good => Sys2Proof.Machine.execDriveCommandComplete port cid good s
  | .driveCommandTimeout port cid => Sys2Proof.Machine.execDriveCommandTimeout port cid s
  | .driveRateWindow port wrRate rdRate => Sys2Proof.Machine.execDriveRateWindow port wrRate rdRate s
  | .headroomPress half => Sys2Proof.Machine.execHeadroomPress half s
  | .epochAdvance half => Sys2Proof.Machine.execEpochAdvance half s
  | .dirtyMapParityError half => Sys2Proof.Machine.execDirtyMapParityError half s
  | .resyncComplete half => Sys2Proof.Machine.execResyncComplete half s
  | .hoistAttach half ready => Sys2Proof.Machine.execHoistAttach half ready s
  | .driveAttachTimeout port => Sys2Proof.Machine.execDriveAttachTimeout port s
  | .hoistLoadStart half => Sys2Proof.Machine.execHoistLoadStart half s
  | .chunkRestoreComplete half v good => Sys2Proof.Machine.execChunkRestoreComplete half v good s
  | .demandFillIssue half v => Sys2Proof.Machine.execDemandFillIssue half v s
  | .hoistSeal half => Sys2Proof.Machine.execHoistSeal half s
  | .supplyCrossing rail below mv => Sys2Proof.Machine.execSupplyCrossing rail below mv s
  | .aonSupplySwitch backupOk => Sys2Proof.Machine.execAonSupplySwitch backupOk s
  | .aonSupplyReturn => Sys2Proof.Machine.execAonSupplyReturn s
  | .mainFailAssert ns => Sys2Proof.Machine.execMainFailAssert ns s
  | .alertEnter => Sys2Proof.Machine.execAlertEnter s
  | .alertEnd => Sys2Proof.Machine.execAlertEnd s
  | .drainSignal => Sys2Proof.Machine.execDrainSignal s
  | .emeasPublish => Sys2Proof.Machine.execEmeasPublish s
  | .emeasExpire => Sys2Proof.Machine.execEmeasExpire s
  | .capacitanceTestStart => Sys2Proof.Machine.execCapacitanceTestStart s
  | .capacitanceTestEnd dv recovered => Sys2Proof.Machine.execCapacitanceTestEnd dv recovered s
  | .powerStateRequest half req => Sys2Proof.Machine.execPowerStateRequest half req s
  | .autoIdle => Sys2Proof.Machine.execAutoIdle s
  | .powerStateEntryComplete => Sys2Proof.Machine.execPowerStateEntryComplete s
  | .powerEntryTimeout => Sys2Proof.Machine.execPowerEntryTimeout s
  | .padRelease half => Sys2Proof.Machine.execPadRelease half s
  | .wakeI3cMatch target => Sys2Proof.Machine.execWakeI3cMatch target s
  | .wakeSideband m => Sys2Proof.Machine.execWakeSideband m s
  | .wakeNLow ns => Sys2Proof.Machine.execWakeNLow ns s
  | .wakeTimer => Sys2Proof.Machine.execWakeTimer s
  | .wakeMainsReturn => Sys2Proof.Machine.execWakeMainsReturn s
  | .wakeSequence => Sys2Proof.Machine.execWakeSequence s
  | .regulatorAck => Sys2Proof.Machine.execRegulatorAck s
  | .regulatorAckTimeout why => Sys2Proof.Machine.execRegulatorAckTimeout why s
  | .wakeRetry => Sys2Proof.Machine.execWakeRetry s
  | .watchSample temps vdd vbk mainFail => Sys2Proof.Machine.execWatchSample temps vdd vbk mainFail s
  | .currentSample amps => Sys2Proof.Machine.execCurrentSample amps s
  | .brakeRaise src inst detail => Sys2Proof.Machine.execBrakeRaise src inst detail s
  | .brokenWire src inst => Sys2Proof.Machine.execBrokenWire src inst s
  | .brakePendClear path src mask => Sys2Proof.Machine.execBrakePendClear path src mask s
  | .clrRefusedClear path => Sys2Proof.Machine.execClrRefusedClear path s
  | .brkSafeClear path => Sys2Proof.Machine.execBrkSafeClear path s
  | .histUnfreeze path => Sys2Proof.Machine.execHistUnfreeze path s
  | .brkInjGo path val => Sys2Proof.Machine.execBrkInjGo path val s
  | .brkInjStop path => Sys2Proof.Machine.execBrkInjStop path s
  | .tallySnapshot => Sys2Proof.Machine.execTallySnapshot s
  | .tallyDumpStage half => Sys2Proof.Machine.execTallyDumpStage half s
  | .bandwidthWindowEnd half => Sys2Proof.Machine.execBandwidthWindowEnd half s
  | .sampleCapture half mc => Sys2Proof.Machine.execSampleCapture half mc s
  | .sampleRelease path half => Sys2Proof.Machine.execSampleRelease path half s
  | .tlyCntLowRead half bank idx => Sys2Proof.Machine.execTlyCntLowRead half bank idx s
  | .heatDataAccess path half wr => Sys2Proof.Machine.execHeatDataAccess path half wr s
  | .i3cPrivateWrite bytes => Sys2Proof.Machine.execI3cPrivateWrite bytes s
  | .i3cPrivateRead len => Sys2Proof.Machine.execI3cPrivateRead len s
  | .doorbell path half box => Sys2Proof.Machine.execDoorbell path half box s
  | .mailboxServiceStart core => Sys2Proof.Machine.execMailboxServiceStart core s
  | .commandComplete core => Sys2Proof.Machine.execCommandComplete core s
  | .mailboxRelease path half box => Sys2Proof.Machine.execMailboxRelease path half box s
  | .mailboxTimeout half box => Sys2Proof.Machine.execMailboxTimeout half box s
  | .ping core => Sys2Proof.Machine.execPing core s
  | .getId core => Sys2Proof.Machine.execGetId core s
  | .getStatus core => Sys2Proof.Machine.execGetStatus core s
  | .fwLoadData core => Sys2Proof.Machine.execFwLoadData core s
  | .fwLoadFetch core => Sys2Proof.Machine.execFwLoadFetch core s
  | .fwActivate core => Sys2Proof.Machine.execFwActivate core s
  | .fwDiscard core => Sys2Proof.Machine.execFwDiscard core s
  | .softReset core => Sys2Proof.Machine.execSoftReset core s
  | .setStream core => Sys2Proof.Machine.execSetStream core s
  | .getStream core => Sys2Proof.Machine.execGetStream core s
  | .setGroup core => Sys2Proof.Machine.execSetGroup core s
  | .getGroup core => Sys2Proof.Machine.execGetGroup core s
  | .setSlots core => Sys2Proof.Machine.execSetSlots core s
  | .getSlots core => Sys2Proof.Machine.execGetSlots core s
  | .commitSlots core => Sys2Proof.Machine.execCommitSlots core s
  | .checkSlots core => Sys2Proof.Machine.execCheckSlots core s
  | .retrain core => Sys2Proof.Machine.execRetrain core s
  | .repairRow core => Sys2Proof.Machine.execRepairRow core s
  | .fuseRepairSoftRow core => Sys2Proof.Machine.execFuseRepairSoftRow core s
  | .fuseRepairLane core => Sys2Proof.Machine.execFuseRepairLane core s
  | .fuseRepairRetire core => Sys2Proof.Machine.execFuseRepairRetire core s
  | .fuseRepairRaw core => Sys2Proof.Machine.execFuseRepairRaw core s
  | .fuseRepairRevoke core => Sys2Proof.Machine.execFuseRepairRevoke core s
  | .isolateRace core => Sys2Proof.Machine.execIsolateRace core s
  | .granStatus core => Sys2Proof.Machine.execGranStatus core s
  | .granFormat core => Sys2Proof.Machine.execGranFormat core s
  | .setBackup core => Sys2Proof.Machine.execSetBackup core s
  | .granLog core => Sys2Proof.Machine.execGranLog core s
  | .setPower core => Sys2Proof.Machine.execSetPower core s
  | .setPwrCfg core => Sys2Proof.Machine.execSetPwrCfg core s
  | .setTherm core => Sys2Proof.Machine.execSetTherm core s
  | .getPower core => Sys2Proof.Machine.execGetPower core s
  | .setSev core => Sys2Proof.Machine.execSetSev core s
  | .clear core => Sys2Proof.Machine.execClear core s
  | .inject core => Sys2Proof.Machine.execInject core s
  | .injectStop core => Sys2Proof.Machine.execInjectStop core s
  | .histRelease core => Sys2Proof.Machine.execHistRelease core s
  | .tlySetCfg core => Sys2Proof.Machine.execTlySetCfg core s
  | .tlySetRing core => Sys2Proof.Machine.execTlySetRing core s
  | .tlySetUser core => Sys2Proof.Machine.execTlySetUser core s
  | .tlyHeatRead core => Sys2Proof.Machine.execTlyHeatRead core s
  | .tlyHeatWrite core => Sys2Proof.Machine.execTlyHeatWrite core s
  | .mmkChallenge core => Sys2Proof.Machine.execMmkChallenge core s
  | .mmkResponseR core => Sys2Proof.Machine.execMmkResponseR core s
  | .mmkResponseS core => Sys2Proof.Machine.execMmkResponseS core s
  | .nonceExpire => Sys2Proof.Machine.execNonceExpire s
  | .mmkPassphrase core => Sys2Proof.Machine.execMmkPassphrase core s
  | .mmkLock core => Sys2Proof.Machine.execMmkLock core s
  | .mmkAdvance core => Sys2Proof.Machine.execMmkAdvance core s
  | .mmkCert core => Sys2Proof.Machine.execMmkCert core s
  | .selftestCrypto core failed => Sys2Proof.Machine.execSelftestCrypto core failed s
  | .selftestWire core badPairs => Sys2Proof.Machine.execSelftestWire core badPairs s
  | .selftestFuse core => Sys2Proof.Machine.execSelftestFuse core s
  | .testAccess1149 core => Sys2Proof.Machine.execTestAccess1149 core s
  | .testAccess1838 core => Sys2Proof.Machine.execTestAccess1838 core s
  | .testModeExit path => Sys2Proof.Machine.execTestModeExit path s
  | .bypass tdi => Sys2Proof.Machine.execBypass tdi s
  | .idcode => Sys2Proof.Machine.execIdcode s
  | .samplePreload pads tdi => Sys2Proof.Machine.execSamplePreload pads tdi s
  | .extest pads tdi => Sys2Proof.Machine.execExtest pads tdi s
  | .clamp tdi => Sys2Proof.Machine.execClamp tdi s
  | .highz tdi => Sys2Proof.Machine.execHighz tdi s
  | .dsel dies => Sys2Proof.Machine.execDsel dies s
  | .tsvtest captured tdi => Sys2Proof.Machine.execTsvtest captured tdi s
  | .tstctl tdi => Sys2Proof.Machine.execTstctl tdi s
  | .keyfuse tdi => Sys2Proof.Machine.execKeyfuse tdi s
  | .certload tdi => Sys2Proof.Machine.execCertload tdi s
  | .pubkey => Sys2Proof.Machine.execPubkey s
  | .setEndpointId eid => Sys2Proof.Machine.execSetEndpointId eid s
  | .getVersion => Sys2Proof.Machine.execGetVersion s
  | .getCapabilities body => Sys2Proof.Machine.execGetCapabilities body s
  | .negotiateAlgorithms body => Sys2Proof.Machine.execNegotiateAlgorithms body s
  | .getDigests => Sys2Proof.Machine.execGetDigests s
  | .getCertificate slot off len => Sys2Proof.Machine.execGetCertificate slot off len s
  | .challenge slot body => Sys2Proof.Machine.execChallenge slot body s
  | .getMeasurements index signed body => Sys2Proof.Machine.execGetMeasurements index signed body s
  | .entdaa target addr => Sys2Proof.Machine.execEntdaa target addr s
  | .getstatus => Sys2Proof.Machine.execGetstatus s
  | .kyGo => Sys2Proof.Machine.execKyGo s
  | .kyPower req => Sys2Proof.Machine.execKyPower req s
  | .kyWarm defByte => Sys2Proof.Machine.execKyWarm defByte s
  | .kyWake => Sys2Proof.Machine.execKyWake s
  | .bootGo path => Sys2Proof.Machine.execBootGo path s
  | .attEnWrite path en => Sys2Proof.Machine.execAttEnWrite path en s
  | .powerOnReset vauxOk => Sys2Proof.Machine.execPowerOnReset vauxOk s
  | .resetRelease slot => Sys2Proof.Machine.execResetRelease slot s
  | .wrstNLow ns => Sys2Proof.Machine.execWrstNLow ns s
  | .warmResetRequest path => Sys2Proof.Machine.execWarmResetRequest path s
  | .halfResetRequest path => Sys2Proof.Machine.execHalfResetRequest path s
  | .raceResetRequest path races => Sys2Proof.Machine.execRaceResetRequest path races s
  | .softResetStart => Sys2Proof.Machine.execSoftResetStart s
  | .settleComplete => Sys2Proof.Machine.execSettleComplete s
  | .settleTimeout => Sys2Proof.Machine.execSettleTimeout s
  | .warmReset => Sys2Proof.Machine.execWarmReset s
  | .halfReset => Sys2Proof.Machine.execHalfReset s
  | .raceReset race => Sys2Proof.Machine.execRaceReset race s
  | .aonLost => Sys2Proof.Machine.execAonLost s
  | .refclkStop => Sys2Proof.Machine.execRefclkStop s
  | .pairRailsUnequal src inst => Sys2Proof.Machine.execPairRailsUnequal src inst s
  | .enthdr => Sys2Proof.Machine.execEnthdr s
  | .hdrExitPattern => Sys2Proof.Machine.execHdrExitPattern s
  | .controllerIbiEnable target en => Sys2Proof.Machine.execControllerIbiEnable target en s

end Sys2Proof.Machine
end

