-- ==== Sys2Proof/Safety.lean ====
section
/-!
DEFINITION. The terms of the claims: a tidy state, a command that completes, which commands store to the DRAM or burn fuses, and
what raising a Brake source may change.
-/
namespace Sys2Proof.Machine

/-- The DRAM content is in canonical form. -/
def Dram.wf (d : Dram) : Bool := d.cells.wf && d.zeroed.wf && d.wmap.wf

/-- A tidy state: the register tables and the DRAM content in canonical form, the clock in its bounds (R10, R12). -/
def State.tidy (s : State) : Bool :=
  s.regs.wf && s.eff.wf && s.dram.wf && decide (s.clk.mc ≤ 255) && decide (s.clk.turn < 2 ^ 48)

/-- The command completes in s: exec answers a next state, of which P holds. -/
def Completes (c : Instr) (s : State) (P : State → Prop) : Prop := ∃ t, exec c s = .next t ∧ P t

/-- No command added or taken, no change of the DRAM content and the written map, none of the fuses. -/
def Intact (s t : State) : Prop := t.pending = s.pending ∧ t.dram = s.dram ∧ t.fuse = s.fuse

/-- Only the registers at the offsets ks may change: nothing else of the state, and no other register. -/
def OnlyRegs (s t : State) (ks : List Nat) : Prop :=
  ({ t with regs := s.regs } : State) = s ∧ ∀ r k, k ∉ ks → t.raw r k = s.raw r k

/-- A wake from source c has begun (R359): GOV_WAKE.LAST names it, nothing else changes. -/
def Woken (c : Nat) (s t : State) : Prop :=
  t.gov = { s.gov with wake := some (c, 0, 0) } ∧ t.fheld Fld.GOV_WAKE_LAST = c ∧ ({ t with gov := s.gov, regs := s.regs } : State) = s
    ∧ ∀ r k, k ≠ Reg.key .GOV_WAKE 0 0 → t.raw r k = s.raw r k

/-- The latest command in a race's history: command n issued at mc count t0, its data at ds (R150, R153). -/
def Issued (race : Nat) (n : RowReq) (t0 ds : Nat) (t : State) : Prop :=
  (t.race race).hist.head? = some ⟨t0, n.cmd, n.pr, n.sid, n.bg, n.bank, ds⟩

/-- Banks and self-refresh of every race but one stand, and what waits in the half's store buffers stands. -/
def OtherRaces (race : Nat) (s t : State) : Prop :=
  (∀ r, r ≠ race → (t.race r).banks = (s.race r).banks ∧ (t.race r).sref = (s.race r).sref) ∧ t.pond = s.pond ∧ t.flume = s.flume

/-- Only race r's record, the clock and the Tally counters may change. -/
def AtRace (race : Nat) (s t : State) : Prop :=
  ({ t with races := s.races, clk := s.clk, tlyE := s.tlyE, tlyW := s.tlyW } : State) = s ∧ ∀ r, r ≠ race → t.race r = s.race r

/-- A write of val to the window passes every check of R21, R91 and the chapters: it reaches its register and is not refused. -/
def State.grantsWrite (s : State) (path : Path) (off : Nat) (w64 : Bool) (val : Word) : Bool :=
  match s.acs path off w64 false with
  | .error _ => false
  | .ok a =>
    let m := writtenBits a val
    let old := s.oldWord a.loc
    (s.refuses path a.loc old (limitWord a.loc.reg (mergeWord a.loc.reg old m.2 m.1)) m.2).isNone

/-- The word that a one-field command writes: v in field f, the other stored fields as held, the acting bits 0. -/
def State.oneField (s : State) (f : Field) (v i h : Nat) : Word :=
  f.put (f.reg.fields.foldl (fun (w : Word) x => if x.acc = .rw ∨ x.acc = .rwl then w else x.put w 0) (s.raw f.reg (f.reg.key i h))) v

/-- A one-field command passes every check. -/
def State.grantsField (s : State) (path : Path) (f : Field) (v i h : Nat) : Bool :=
  s.grantsWrite path (f.reg.key i h) f.reg.info.wide (s.oneField f v i h)

/-- The reply to the last access is OK without a value. -/
def Answered (t : State) : Prop := t.reply = { mstat := St.ok, val := 0 }

/-- A window access that changed only the registers at ks: answered OK, and nothing else changed but MIL_I3C_STAT over I3C (R411). -/
def Wrote (path : Path) (ks : List Nat) (s t : State) : Prop :=
  Answered t ∧ ({ t with regs := s.regs, reply := s.reply } : State) = s
    ∧ ∀ r k, k ∉ ks → (path = .i3c → k ≠ Reg.key .MIL_I3C_STAT 0 0) → t.raw r k = s.raw r k

/-- A link restart of module m (R58): TRAIN, nothing held or to replay, sequence numbers at zero, counted, HEAD_LINK raised, its
reservations lost. -/
def Restarted (m : Nat) (s t : State) : Prop :=
  (t.mod m).st = .train ∧ (t.mod m).tx = [] ∧ (t.mod m).replay = [] ∧ (t.mod m).verdQ = [] ∧ (t.mod m).fences = {}
    ∧ (t.mod m).txSeq = 0 ∧ (∀ st r, t.hop.resv.find? st = some r → m ∉ r.mods)
    ∧ t.fheld Fld.HEAD_MOD_STATUS_RESTARTS m = satAdd Fld.HEAD_MOD_STATUS_RESTARTS.w (s.fheld Fld.HEAD_MOD_STATUS_RESTARTS m) 1
    ∧ (s.raiseSeen { src := Src.HEAD_LINK, inst := m, detail := 0 } = true → bit (t.fheld Fld.BRK_SRC_STAT_PEND Src.HEAD_LINK) m = true)
    ∧ t.pond = s.pond ∧ t.flume = s.flume

/-- The command in service on core c, asked for in s through mailbox v, has been answered in t (R413, R418): opcode and TAG of the request, status,
DETAIL and the RESULT bytes in the reply words, DONE set, BUSY clear, the core free for the next. -/
def Replied (s t : State) (c : Nat) (v : Serve) (st det res : Nat) : Prop :=
  (t.core c).cur = none ∧ t.fheld Fld.MIL_MB_CTRL_DONE v.box v.half = 1 ∧ t.fheld Fld.MIL_MB_CTRL_BUSY v.box v.half = 0
    ∧ t.raw .MIL_MB_RSP (Reg.key2 .MIL_MB_RSP v.box 0 v.half) = mbReply (mbOpc (s.mbWord v 0)) (mbTag (s.mbWord v 0)) st det
    ∧ ∀ w, w < 7 → t.raw .MIL_MB_RSP (Reg.key2 .MIL_MB_RSP v.box (w + 1) v.half) = BitVec.ofNat 64 (bits res (64 * w) 64)

/-- Nothing but mailbox v's reply registers, Miller's records and what leaves the block may change. -/
def OnlyMailbox (v : Serve) (s t : State) : Prop :=
  ({ t with regs := s.regs, mil := s.mil, out := s.out } : State) = s
    ∧ ∀ r k, (∀ w, w < 8 → k ≠ Reg.key2 .MIL_MB_RSP v.box w v.half) → k ≠ Reg.key .MIL_MB_CTRL v.box v.half → t.raw r k = s.raw r k

/-- The command in service on core c has become its background command (R414): no reply yet, the mailbox stays BUSY. -/
def InBackground (s t : State) (c : Nat) (v : Serve) : Prop :=
  (t.core c).cur = none ∧ (t.core c).bg = some v ∧ t.fheld Fld.MIL_MB_CTRL_BUSY v.box v.half = s.fheld Fld.MIL_MB_CTRL_BUSY v.box v.half

/-- Commands that may change the DRAM content or the written map: column writes, fills, restores, repairs that copy a row, the end of
an isolation, and the events that lose or give back power or reset. -/
def storesDram : Instr → Bool
  | .turnBoundary .. | .dramWr .. | .fillComplete .. | .wmapClearComplete .. | .isolationFinal .. | .retrainComplete .. | .chunkRestoreComplete ..
  | .hoistLoadStart .. | .supplyCrossing .. | .aonSupplySwitch .. | .aonLost | .powerStateEntryComplete | .wakeSequence
  | .powerOnReset .. | .resetRelease .. | .warmReset | .halfReset | .raceReset .. => true
  | _ => false

/-- Commands that may change what the fuses hold: burns, the end of a command that burns, and the events that interrupt a burn or load
the fuses anew. -/
def burnsFuses : Instr → Bool
  | .fuseBurnComplete .. | .commandComplete .. | .mailboxTimeout .. | .keyfuse .. | .certload .. | .supplyCrossing .. | .aonSupplySwitch ..
  | .aonLost | .powerStateEntryComplete | .wakeSequence | .powerOnReset .. | .warmReset | .halfReset | .raceReset .. => true
  | _ => false

/-- No race holds a read, a store, an atomic or a burst, and none runs. -/
def Emptied (t : State) : Prop :=
  ∀ r, r < 32 → (t.race r).rq = [] ∧ (t.race r).wq = [] ∧ (t.race r).fau = [] ∧ (t.race r).flights = [] ∧ (t.race r).run = false

/-- t is s but for what the Brake does when sources are raised (R382 to R390): the Brake's own registers and records, requests answered,
background reads stopped and resets dropped at an entry into the safe state (R385, R387), retrainings stopped (R276), a wake or a drain asked of Governor,
and what leaves the block. -/
structure Raised (s t : State) : Prop where
  rest : ({ t with regs := s.regs, mods := s.mods, hop := s.hop, races := s.races, fanE := s.fanE, fanW := s.fanW, gov := s.gov
                   boot := s.boot, mil := s.mil, brk := s.brk, out := s.out } : State) = s
  /-- of a module only the responses it holds may change -/
  mods : ∀ m, ({ t.mod m with tx := (s.mod m).tx } : ModSt) = s.mod m
  /-- of the Hopper only the requests may change: no reservation and no LOST mark -/
  hop : ({ t.hop with reqs := s.hop.reqs } : Hop) = s.hop
  /-- of a reset asked for only what the entry into the safe state drops (R387), and Miller's soft reset with it -/
  boot : ({ t.boot with pend := s.boot.pend, after := s.boot.after, settle := s.boot.settle, settled := s.boot.settled
                        closed := s.boot.closed } : Boot) = s.boot
  mil : ({ t.mil with softAt := s.mil.softAt } : Mil) = s.mil
  gov : ({ t.gov with wake := s.gov.wake, wakeLatch := s.gov.wakeLatch, drainNext := s.gov.drainNext } : Gov) = s.gov
  /-- of a race only waiting reads, the marks of a stopped retraining and of a reset dropped may change -/
  races : ∀ r, ({ t.race r with rq := (s.race r).rq, tr := (s.race r).tr, inReset := (s.race r).inReset } : Race) = s.race r
  /-- of the registers only those of the Brake, FAN_CTRL, SPIN_STAT and GOV_WAKE (its LAST, R359) may change -/
  regs : s.regs.wf = true → t.regs.wf = true ∧
    ∀ r k, (∀ h, k ≠ Reg.key .FAN_CTRL 0 h) → (∀ i, k ≠ Reg.key .SPIN_STAT i 0) → k ≠ Reg.key .GOV_WAKE 0 0 → (k < 0xE00000 ∨ 0xE01000 ≤ k) → t.raw r k = s.raw r k

end Sys2Proof.Machine
end

