-- ==== Sys2Proof/Certificates/Slice0/Obligations.lean ====
section
/-!
DEFINITION. The statements for the provers. Each command of the block completes in the states that a clause names, and the clause
says what the next state holds and what stands as it was; the last statements say what every step keeps.
-/
section
open Sys2Proof Sys2Proof.Machine

/-- Log entry 2, the model's own convention: a step takes the command at the front of the queue and is exec of it on the rest. The model's own reading
or choice enters here by log entry 2. -/
def Obligations.StepRunsTheFrontCommand : Prop :=
  ∀ (s : State) (c : Instr) (rest : List Instr), s.pending = c :: rest → step s = exec c { s with pending := rest }

/-- Log entry 2: with an empty queue the block idles; with a command waiting every step answers a next state, from which exactly that command has
gone. No command and no state ends a run. The model's own reading or choice enters here by log entries 2, 87. -/
def Obligations.EveryStepAnswers : Prop :=
  ∀ s : State, (s.pending = [] → step s = .next s) ∧ ∀ c rest, s.pending = c :: rest → ∃ t, step s = .next t ∧ t.pending = rest

/-- Every step keeps a state tidy: the register tables and the DRAM content in canonical form, the Turn counter in its 48 bits and the place in the
Turn below 256 mc (R10, R12). The model's own reading or choice enters here by log entry 5. -/
def Obligations.StepKeepsTidy : Prop :=
  ∀ s t : State, s.tidy = true → step s = .next t → t.tidy = true

/-- The state after reset is tidy. The registers whose word after reset the spec writes out (in the layouts of R147, R236, R259, R279, R342 and R377)
hold it in each of their places, the Turn counter stands at 0, no block is written, no command waits and power-on reset is asserted. The model's own
reading or choice enters here by log entries 1, 7. -/
def Obligations.ResetHoldsTheSpecsValues : Prop :=
  State.reset.tidy = true ∧ State.reset.pending = [] ∧ State.reset.clk.turn = 0 ∧ State.reset.boot.inReset = some .powerOn
    ∧ (∀ blk, State.reset.dram.wmap.get false blk = false)
    ∧ ∀ i h, h < 2 →
      (locate (Reg.key .HOP_AMAP_CFG 0 0)).map State.reset.shown = some 0x0011301F
      ∧ State.reset.raw .SLU_XP_CFG (Reg.key .SLU_XP_CFG 0 h) = 0x40000148
      ∧ State.reset.raw .WEIR_CFG (Reg.key .WEIR_CFG 0 h) = 0x3E800404
      ∧ (i < 32 → State.reset.raw .WEIR_WM (Reg.key .WEIR_WM i h) = 0x30103818)
      ∧ State.reset.raw .FAN_CFG (Reg.key .FAN_CFG 0 h) = 0x40100C41
      ∧ State.reset.raw .HST_CFG (Reg.key .HST_CFG 0 h) = 0x000C83840A040C80
      ∧ State.reset.raw .GOV_WAKE (Reg.key .GOV_WAKE 0 0) = 0x0003E86E
      ∧ State.reset.raw .GOV_THERM_CFG (Reg.key .GOV_THERM_CFG 0 0) = 0x5F61636562646668

/-- R52, R112, R138, R143, R144, R298 and R305, for whole runs: whatever the state, no command but a column write, a fill, a restore, a row repair,
the end of an isolation and the events that take or give back power or reset changes the DRAM content or the written map; and no command but a burn, a
mailbox command that ends with one and the events that interrupt a burn or power the part changes a fuse. -/
def Obligations.OnlyNamedCommandsStore : Prop :=
  ∀ (s t : State) (c : Instr), exec c s = .next t →
    (storesDram c = false → t.dram = s.dram) ∧ (burnsFuses c = false → t.fuse = s.fuse)

/-- R10 to R12: time never runs backwards. Between Turn boundaries no command moves the count of boundaries back, and the free values already used are
not used again (the count of them is the model's own field). The model's own reading or choice enters here by log entries 5, 6. -/
def Obligations.TimeNeverRunsBack : Prop :=
  ∀ (s t : State), step s = .next t → s.clk.age ≤ t.clk.age ∧ s.freeCtr ≤ t.freeCtr

/-- R10, R12, R24, R35, R203, R458: mc 0 of the next Turn, from every state. Time goes on by one Turn and every window of the new Turn is still to
come. While the main domains are on, the Turn counter goes on and what was decided in the Turn before comes into force: Alert's decision, to be taken
by its own command, the thermal and current steps, Weir's budgets, the refresh plans; and 0.1 ms after East, West runs. In a warm reset the counter
goes on and the refresh plans come into force, and modules, requests, buffers and the DRAM content stand; otherwise nothing but the clock and AON's
record of MAIN_FAIL changes, and the counter stands in OFF, without AON and in a power-on reset. The model's own reading or choice enters here by log
entries 5, 16. -/
def Obligations.TurnBoundaryAdvancesTime : Prop :=
  ∀ (temps : List TempRead) (vdd vbk : Nat) (mainFail : Bool) (s : State),
    Completes (.turnBoundary temps vdd vbk mainFail) s (fun t => t.pending = s.pending ∧ t.fuse = s.fuse
      ∧ t.clk.mc = 0 ∧ t.clk.age = s.clk.age + 1
      ∧ t.clk.alertDone = false ∧ t.clk.swapDone = false ∧ t.clk.planDone = false ∧ t.clk.weirDone = false ∧ t.clk.distDone = false
      ∧ (s.mainsOn = true → t.clk.turn = (s.clk.turn + 1) % 2 ^ 48
        ∧ t.gov.dstep = s.gov.dstepN.getD s.gov.dstep ∧ t.gov.bstep = s.gov.bstepN.getD s.gov.bstep ∧ t.gov.istep = s.gov.istepN.getD s.gov.istep
        ∧ (∀ d, s.gov.alertNext = some d → t.gov.alertDue = some d)
        ∧ (∀ a k, s.boot.rest = some (a, k) → s.boot.inReset = none → a + 625 ≤ s.clk.age + 1 →
            t.boot.westUp = true ∧ t.boot.rest = none)
        ∧ (∀ b, s.weir.budgetN = some b → t.weir.budget = b)
        ∧ (∀ r p, r < 32 → (s.race r).nextA = some p → (t.race r).planA = p) ∧ (∀ r p, r < 32 → (s.race r).nextB = some p → (t.race r).planB = p))
      ∧ (s.mainsOn = false → s.refreshOn = true → t.clk.turn = (s.clk.turn + 1) % 2 ^ 48
        ∧ t.mods = s.mods ∧ t.hop = s.hop ∧ t.pond = s.pond ∧ t.flume = s.flume ∧ t.dram = s.dram
        ∧ (∀ r p, r < 32 → (s.race r).nextA = some p → (t.race r).planA = p) ∧ (∀ r p, r < 32 → (s.race r).nextB = some p → (t.race r).planB = p))
      ∧ (s.refreshOn = false → ({ t with clk := s.clk, gov := s.gov } : State) = s
        ∧ t.gov = { s.gov with mfLatch := mainFail, mfLevel := mainFail
                               mfOkSince := if mainFail then (s.clk.age + 2) * 256 else if s.gov.mfLatch then (s.clk.age + 1) * 256 else s.gov.mfOkSince }
        ∧ t.clk.turn = (if s.gov.ps = .off ∨ s.boot.aonDown = true ∨ (s.boot.inReset = some .powerOn ∧ s.boot.bist = false) then s.clk.turn
            else (s.clk.turn + 1) % 2 ^ 48)))

/-- R35, R36, R177, R182, R183, R212, R215, R243 to R246, R369: the windows of a Turn, each in its part of the Turn and once, and what each decides
for the next Turn. The Alert and thermal decision: Alert, the steps of the dies and of the base die, the refresh rate of every SID. The sample of the
slot swaps at mc 48 latches the shadow table of every race whose bit was set by mc 47 and which is neither isolated nor off. The refresh planning puts
the demand of each pseudo-race, up to its cap, into the slots its table gives for it. Weir's recalculation holds the budgets, f1 and the levels ready.
The distribution gives each fitted module its part of every budget by its counts of this Turn, and no more entries of a Hopper than are free. -/
def Obligations.TurnWindowsRunInPlace : Prop :=
  ∀ s : State, s.mainsOn = true →
    (s.clk.mc ≤ 47 → s.clk.alertDone = false → Completes .alertThermalDecision s (fun t =>
      t.clk = { s.clk with alertDone := true }
      ∧ t.gov.alertNext = (if s.gov.alert then (if s.alertClear && !s.gov.dipSample then some false else none)
          else if s.gov.dipSample || s.gov.mfSample then some true else none)
      ∧ (∀ q, q < 4 → let h := s.gov.hottest ((List.range s.nsid).map (fun sd => 4 * sd + q))
          t.gov.dstepN.map (fun d => d.get 0 q) = some (stepNext s.dieThr (s.gov.dstep.get 0 q) (s.gov.dfall.get 0 q) h.2 h.1).1)
      ∧ (let h := s.gov.hottest ((List.range 8).map (· + 16))
         t.gov.bstepN = some (stepNext s.baseThr s.gov.bstep s.gov.bfall h.2 h.1).1)
      ∧ ({ t.gov with alertNext := s.gov.alertNext, dstepN := s.gov.dstepN, dfall := s.gov.dfall, bstepN := s.gov.bstepN, bfall := s.gov.bfall } : Gov) = s.gov
      ∧ (∀ r, r < 32 → s.raceRuns r = true → ∀ sd, sd < s.nsid →
          (t.race r).rateN.map (fun p => (p.1.get 2 sd, p.2.get true sd))
            = some ((s.rateStep r sd (s.gov.temps.getD (dieOf r sd) none)).1, (s.rateStep r sd (s.gov.temps.getD (dieOf r sd) none)).2.2))
      ∧ (∀ r, ({ t.race r with rateN := (s.race r).rateN, hyst := (s.race r).hyst } : Race) = s.race r)
      ∧ ({ t with gov := s.gov, races := s.races, clk := s.clk } : State) = s))
    ∧ (s.clk.mc ≤ 48 → s.clk.swapDone = false → Completes .slotSwapSample s (fun t =>
      t.clk = { s.clk with mc := 48, swapDone := true, swapNo := t.clk.swapNo }
      ∧ ({ t with races := s.races, clk := s.clk } : State) = s
      ∧ ∀ r, r < 32 → let asked := bit (s.fheld Fld.SLU_SLOT_SWAP_RACES) r && !bit s.clk.swapLate r
          let serves := !s.isolated r && (s.race r).run
          bit t.clk.swapNo r = (asked && !serves)
          ∧ t.race r = (if asked && serves then { s.race r with
              latch := some ((List.range 8).map (s.shdWord r)), admLatch := (s.race r).admPend, admPend := false } else s.race r)))
    ∧ (s.clk.mc ≤ 111 → s.clk.planDone = false → s.clk.swapDone = true ∨ 48 < s.clk.mc → Completes .refreshPlanning s (fun t =>
      Intact s t ∧ t.clk = { s.clk with mc := max s.clk.mc 48, planDone := true }
      ∧ (∀ r pr, r < 32 → pr < 2 → s.refRuns r = true → ((t.race r).nextPlan pr).slots
          = List.zipWith (fun (e : RefSlot) i => { e with slot := i })
              ((s.demandOf r pr).take (min (24 + s.fget Fld.RACE_REF_CFG_RFM_PER_TURN r) (planSlots (s.nextTable r)).length)) (planSlots (s.nextTable r)))
      ∧ (∀ r, (t.race r).planA = (s.race r).planA ∧ (t.race r).planB = (s.race r).planB ∧ (t.race r).latch = (s.race r).latch)
      ∧ t.weir = s.weir ∧ t.pond = s.pond ∧ t.flume = s.flume))
    ∧ (s.clk.mc ≤ 207 → s.clk.weirDone = false → s.gov.ps ≠ .idle → Completes .weirRecalculation s (fun t =>
      t = { s with clk := { s.clk with mc := max s.clk.mc 112, weirDone := true }
                   weir := { s.weir with
                     budgetN := some s.weirCalc.budget, hoist1N := s.weirCalc.hoist1, f1N := some (1000 * s.weirCalc.f1.num / s.weirCalc.f1.den)
                     heldN := s.weirCalc.f1.held, capN := s.weirCalc.f1.cap, alertN := s.alertAhead, drainN := s.drainAhead
                     isolN := (List.range 32).any (fun r => s.raceOff r || (s.race r).isoAt.isSome)
                     hotN := (List.range 32).any (fun r => s.live r && s.hot r), levelN := some s.nextLevels
                     sE := s.storeLimit 0, sW := s.storeLimit 1 } }))
    ∧ (s.clk.distDone = false → s.gov.ps ≠ .idle → (s.weir.budgetN.getD s.weir.budget).wf = true → Completes .distribution s (fun t =>
      t.clk = { s.clk with mc := max s.clk.mc 208, distDone := true }
      ∧ ({ t with clk := s.clk, weir := { t.weir with poolN := s.weir.poolN, floorN := s.weir.floorN }
                  hstE := { t.hstE with sNext := s.hstE.sNext }, hstW := { t.hstW with sNext := s.hstW.sNext } } : State) = s
      ∧ t.weir.floorN = s.fget Fld.WEIR_CFG_FLOOR
      ∧ ∃ p, t.weir.poolN = some p
        ∧ (∀ m k, m ∈ s.modsFitted → k < 256 → let total := (s.modsFitted.map (fun j => (s.mod j).count k)).sum
            (p.get {} m).slice.get 0 k = if total = 0 then 0 else (s.weir.budgetN.getD s.weir.budget).get 0 k * (s.mod m).count k / total)
        ∧ ∀ h, h < 2 → ((s.modsFitted.filter (fun m => modHalf m = h)).map (fun m => (p.get {} m).hop)).sum ≤ s.weir.free0.getD h 0))

/-- R38: a window that has not completed by its last mc is over without a result, TURN_OVERRUN is raised, and nothing else changes, but that after a
planning overrun every race has its default plan for the next Turn, whose commands stand in RFSH entries only. R39: a read of the low half of GOV_TURN
answers bits [31:0] and latches bits [47:32] with the time of the read; the read of the high half answers the latched value for 16 Turns, and the live
bits after them. The model's own reading or choice enters here by log entries 5, 101. -/
def Obligations.OverrunsAndTurnReads : Prop :=
  (∀ s : State, s.mainsOn = true →
    (s.clk.alertDone = false → Completes (.turnOverrun .alertThermal) s (fun t =>
      let u : State := { s with clk := { s.clk with alertDone := true, mc := max s.clk.mc 48 } }
      t = u.raise Src.TURN_OVERRUN 0 0 ∧ Raised u t))
    ∧ (s.clk.planDone = false → Completes (.turnOverrun .refreshPlan) s (fun t =>
      let u : State := { s with clk := { s.clk with planDone := true, mc := max s.clk.mc 112 } }
      t = u.defaultPlans.raise Src.TURN_OVERRUN 0 0 ∧ Raised u.defaultPlans t
      ∧ ∀ r pr, r < 32 → pr < 2 → (t.race r).nextPlan pr = s.defaultPlan r pr
          ∧ ∀ e ∈ ((t.race r).nextPlan pr).slots, (s.nextTable r).getD e.slot 0 = 8))
    ∧ (s.clk.weirDone = false → s.gov.ps ≠ .idle → Completes (.turnOverrun .weir) s (fun t =>
      let u : State := { s with clk := { s.clk with weirDone := true, mc := max s.clk.mc 208 } }
      t = u.raise Src.TURN_OVERRUN 0 0 ∧ Raised u t))
    ∧ (s.clk.distDone = false → s.gov.ps ≠ .idle → Completes (.turnOverrun .distribution) s (fun t =>
      let u : State := { s with clk := { s.clk with distDone := true, mc := 255 } }
      t = u.raise Src.TURN_OVERRUN 0 0 ∧ Raised u t)))
  ∧ (∀ s : State, s.domainOn 74 = true →
    Completes .govTurnLowRead s (fun t =>
      t = { s with clk := { s.clk with lowLatch := some (s.clk.turn / 2 ^ 32, s.clk.age) }
                   reply := { mstat := St.ok, val := BitVec.ofNat 64 (s.clk.turn % 2 ^ 32) } }
      ∧ ∀ n turn, ({ t with clk := { t.clk with age := s.clk.age + n, turn := turn } } : State).turnHigh =
          (if n ≤ 16 then s.clk.turn / 2 ^ 32 else turn / 2 ^ 32)))

/-- R343, R345, R349, R352, R364: what a confirmed crossing of each supply level does, and an assertion of MAIN_FAIL, which also stops a capacitance
test and has no effect below 40 ns; between 40 and 80 ns it may have. In RUN or IDLE, in reset too: VDD at the warning level is noted for the next
sample, VDD at the release level with its time; VDDQ_S, VDDQ_H and VAUX below their level raise GOV_RAIL with the rail's instance, and their return
ends its cause; VDD below the reset level is a brown-out: a power-on reset with cause 2. In FURL and FULL FURL VDD below the retention level is noted.
R344, R478: AON goes over to the backup supply (GOV_AON is raised while MAIN_FAIL is clear) and back (its cause ends); below both levels, and at a
loss of AON, everything is lost until the next power-up, which is a power-on reset. A loss of the reference clock is noted, and nothing else changes.
The model's own reading or choice enters here by log entry 84. -/
def Obligations.SuppliesAreWatched : Prop :=
  (∀ (s : State) (below : Bool) (mv ns : Nat),
    (s.awake = true → s.boot.aonDown = false →
      Completes (.supplyCrossing .vddWarn below mv) s (fun t => t = { s with gov := { s.gov with
        minVdd := min s.gov.minVdd (min 255 (mv - 600)), belowWarn := below, dip := s.gov.dip || below, belowRel := s.gov.belowRel || below } })
      ∧ Completes (.supplyCrossing .vddRelease below mv) s (fun t => t = { s with gov := { s.gov with
        minVdd := min s.gov.minVdd (min 255 (mv - 600)), belowRel := below, vddOkSince := if below then s.gov.vddOkSince else s.now } })
      ∧ Completes (.supplyCrossing .vddqS below mv) s (fun t => let u : State := { s with gov := { s.gov with lowS := below } }
          t = (if below then u.raise Src.GOV_RAIL 0 0 else u.causeOff Src.GOV_RAIL 0) ∧ Raised u t)
      ∧ Completes (.supplyCrossing .vddqH below mv) s (fun t => let u : State := { s with gov := { s.gov with lowH := below } }
          t = (if below then u.raise Src.GOV_RAIL 1 0 else u.causeOff Src.GOV_RAIL 1) ∧ Raised u t)
      ∧ Completes (.supplyCrossing .vaux below mv) s (fun t => let u : State := { s with gov := { s.gov with lowX := below } }
          t = (if below then u.raise Src.GOV_RAIL 2 0 else u.causeOff Src.GOV_RAIL 2) ∧ Raised u t)
      ∧ Completes (.supplyCrossing .vddReset true mv) s (fun t =>
        t.pending = s.pending ∧ t.clk.turn = 0 ∧ t.boot = {} ∧ t.mods = {} ∧ Emptied t ∧ t.hop = {} ∧ t.pond = [] ∧ t.flume = []
          ∧ t.dram.cells = {} ∧ t.dram.wmap = {} ∧ t.fheld Fld.GOV_STATUS_RST_CAUSE = 2)
      ∧ Completes (.supplyCrossing .vddReset false mv) s (fun t => t = s))
    ∧ (s.gov.ps = .furl ∨ s.gov.ps = .fullFurl →
      Completes (.supplyCrossing .vddRetention below mv) s (fun t => t = { s with gov := { s.gov with retLost := s.gov.retLost || below } }))
    ∧ (80 ≤ ns → s.boot.aonDown = false → s.regs.wf = true →
      Completes (.mainFailAssert ns) s (fun t =>
        ({ t with regs := s.regs } : State) = { s with gov := { s.gov with mfLatch := true, mfLevel := true, bkTest := false } }
        ∧ (s.gov.bkTest = false → t.regs = s.regs) ∧ (s.gov.bkTest = true → t.fheld Fld.GOV_BK_STAT_TEST = 0
            ∧ ∀ k, k ≠ Reg.key .GOV_BK_STAT 0 0 → t.regs.find? k = s.regs.find? k)))
    ∧ (ns < 40 → Completes (.mainFailAssert ns) s (fun t => t = s))
    ∧ (40 ≤ ns → ns < 80 → Completes (.mainFailAssert ns) s (fun t => Intact s t ∧ t.clk = s.clk
        ∧ (t.gov = s.gov ∧ t.regs = s.regs ∨ t.gov = { s.gov with mfLatch := true, mfLevel := true, bkTest := false }))))
  ∧ (∀ s : State,
    (s.boot.aonDown = false → s.gov.aonB = false →
      Completes (.aonSupplySwitch true) s (fun t => let u : State := { s with gov := { s.gov with aonB := true } }
        t = (if s.gov.mfLevel then u else u.raise Src.GOV_AON 0 0) ∧ Raised u t)
      ∧ Completes (.aonSupplySwitch false) s (fun t => t.pending = s.pending ∧ t.boot = { aonDown := true } ∧ t.clk.turn = 0 ∧ t.mods = {}
          ∧ Emptied t ∧ t.hop = {} ∧ t.pond = [] ∧ t.flume = [] ∧ t.dram.cells = {} ∧ t.dram.wmap = {}))
    ∧ (s.boot.aonDown = false → Completes .aonLost s (fun t =>
        t.pending = s.pending ∧ t.boot = { aonDown := true } ∧ t.clk.turn = 0 ∧ t.mods = {} ∧ Emptied t ∧ t.hop = {} ∧ t.pond = []
        ∧ t.flume = [] ∧ t.dram.cells = {} ∧ t.dram.wmap = {} ∧ t.fheld Fld.GOV_STATUS_RST_CAUSE = 1))
    ∧ (s.boot.aonDown = false → s.gov.aonB = true → Completes .aonSupplyReturn s (fun t =>
        t.gov = { s.gov with aonB := false } ∧ ({ t with gov := s.gov, brk := s.brk } : State) = s
        ∧ (s.brk.broken.get false (pairKey Src.GOV_AON 0) = false → s.brk.inj = none → s.brk.cause.wf = true →
            t.brk = { s.brk with cause := s.brk.cause.del (pairKey Src.GOV_AON 0) } ∧ t.brk.cause.get false (pairKey Src.GOV_AON 0) = false)))
    ∧ (s.awake = true → Completes .refclkStop s (fun t => t = { s with clk := { s.clk with refclk := false } })))

/-- R346 to R350, R385: Alert comes into force (Flume entries close, both Hoists go to their Alert state, a capacitance test ends, an entry whose
domains have not all answered is given up), and ends, its episode counted as MAINS or DIPS; the drain signal is counted, starts both Hoists' drain and
discards a reset that waits. R351, R352: EMEAS is published every 65,536 Turns, from the capacitor model or, for a backup that reports itself, as it
reported, 0 after 10 s of silence; a capacitance test starts when it is due, and its end reports the capacitance. The model's own reading or choice
enters here by log entry 69. -/
def Obligations.AlertDrainAndBackupEnergy : Prop :=
  (∀ (s : State), s.regs.wf = true →
    (s.gov.alertDue = some true → s.gov.alert = false → Completes .alertEnter s (fun t => Intact s t ∧ t.clk = s.clk ∧ t.gov.alert = true
      ∧ t.gov.alertDue = none ∧ t.gov.epStart = s.clk.age ∧ t.gov.bkTest = false
      ∧ t.flume = s.flume.map (fun e => { e with closed := true })
      ∧ t.mods = s.mods ∧ t.hop = s.hop ∧ t.pond = s.pond ∧ t.races = s.races
      ∧ (s.gov.entry = none → t.hstE = s.hstE.onAlert ∧ t.hstW = s.hstW.onAlert ∧ t.gov.entry = none)
      ∧ (s.gov.entry.isSome = true → s.gov.allReady = false → t.gov.entry = none ∧ t.fheld Fld.GOV_PWR_CTRL_BUSY = 0
          ∧ t.fheld Fld.GOV_PWR_CTRL_RESULT = 3)))
    ∧ (s.gov.alertDue = some false → s.gov.alert = true → s.gov.drain = false → Completes .alertEnd s (fun t =>
      t = ({ s with gov := { s.gov with alert := false, alertDue := none, idleTurns := 0 }
                    hstE := s.hstE.offAlert, hstW := s.hstW.offAlert } : State).fadd
            (if s.gov.endMains then Fld.GOV_SUP_STAT_MAINS else Fld.GOV_SUP_STAT_DIPS) 1
      ∧ (s.gov.endMains = true → t.fheld Fld.GOV_SUP_STAT_MAINS = satAdd Fld.GOV_SUP_STAT_MAINS.w (s.fheld Fld.GOV_SUP_STAT_MAINS) 1
          ∧ t.fheld Fld.GOV_SUP_STAT_DIPS = s.fheld Fld.GOV_SUP_STAT_DIPS)
      ∧ (s.gov.endMains = false → t.fheld Fld.GOV_SUP_STAT_DIPS = satAdd Fld.GOV_SUP_STAT_DIPS.w (s.fheld Fld.GOV_SUP_STAT_DIPS) 1
          ∧ t.fheld Fld.GOV_SUP_STAT_MAINS = s.fheld Fld.GOV_SUP_STAT_MAINS)))
    ∧ (s.gov.drainDue = true → s.gov.drain = false → Completes .drainSignal s (fun t => Intact s t ∧ t.clk = s.clk
      ∧ t.gov = { s.gov with drain := true, drainDue := false, drainNext := false } ∧ t.hstE = s.hstE.onDrain ∧ t.hstW = s.hstW.onDrain
      ∧ t.boot = { s.boot with pend := none, after := none, settle := none, settled := false, closed := 0 }
      ∧ t.fheld Fld.GOV_SUP_STAT_DRAINS = satAdd Fld.GOV_SUP_STAT_DRAINS.w (s.fheld Fld.GOV_SUP_STAT_DRAINS) 1
      ∧ t.mods = s.mods ∧ t.hop = s.hop ∧ t.pond = s.pond ∧ t.flume = s.flume)))
  ∧ (∀ (s : State) (dv : Nat) (recovered : Bool), s.regs.wf = true →
    (s.mainsOn = true → s.clk.turn % 65536 = 0 →
      Completes .emeasPublish s (fun t => let v := (s.gov.vbkQ.filter (fun e => decide (s.clk.age < e.1 + 65536))).head?.elim s.gov.vbkNow Prod.snd
        Intact s t ∧ t.clk = s.clk
        ∧ ({ t.gov with wake := s.gov.wake, wakeLatch := s.gov.wakeLatch, drainNext := s.gov.drainNext } : Gov) = s.gov ∧ t.fheld Fld.GOV_BK_STAT_VBK = min 65535 v
        ∧ (s.fheld Fld.GOV_BK_CFG_MODE ≠ 1 → s.gov.bkTest = false → s.gov.bkHold = false →
            t.fheld Fld.GOV_BK_STAT_EMEAS = emeasOf (if s.gov.testDone then min (s.fheld Fld.GOV_BK_CFG_CBK_NOM) (s.fheld Fld.GOV_BK_STAT_CBK)
              else s.fheld Fld.GOV_BK_CFG_CBK_NOM) v (s.fheld Fld.GOV_BK_CFG_VBK_MIN))
        ∧ (s.gov.bkTest = true ∨ s.gov.bkHold = true → t.fheld Fld.GOV_BK_STAT_EMEAS = s.fheld Fld.GOV_BK_STAT_EMEAS)
        ∧ (s.fheld Fld.GOV_BK_CFG_MODE = 1 → s.gov.bkTest = false → s.gov.bkHold = false → ∀ e a, s.gov.setBk = some (e, a) → e < 4096 →
            t.fheld Fld.GOV_BK_STAT_EMEAS = (if s.clk.age ≥ a + msTurns 10000 then 0 else e))))
    ∧ (s.mainsOn = true → s.fheld Fld.GOV_BK_CFG_MODE = 1 → s.gov.bkTest = false → s.gov.bkHold = false →
        (∀ v a, s.gov.setBk = some (v, a) → s.clk.age ≥ a + msTurns 10000) →
      Completes .emeasExpire s (fun t => Intact s t ∧ t.clk = s.clk
        ∧ ({ t.gov with wake := s.gov.wake, wakeLatch := s.gov.wakeLatch, drainNext := s.gov.drainNext } : Gov) = s.gov
        ∧ t.fheld Fld.GOV_BK_STAT_EMEAS = 0 ∧ t = s.setEmeas 0))
    ∧ (s.gov.ps = .run → s.mainsOn = true → s.gov.alert = false → s.gov.mfSample = false → s.gov.mfLatch = false →
        s.gov.mfLevel = false → s.gov.bkTest = false →
        (∃ a, s.gov.testAt = some a ∧ s.clk.age ≥ a) →
      Completes .capacitanceTestStart s (fun t => t = { s.fset Fld.GOV_BK_STAT_TEST 1 with
          gov := { s.gov with bkTest := true, bkHold := true, testPre := s.gov.vbkNow, testFrom := s.clk.age
                              testAt := some (s.clk.age + hourTurns (s.fheld Fld.GOV_BK_CFG_BK_PERIOD)) } }
        ∧ t.fheld Fld.GOV_BK_STAT_TEST = 1))
    ∧ (s.gov.bkTest = true → s.clk.age ≥ s.gov.testFrom + msTurns (s.fheld Fld.GOV_BK_CFG_TTEST) →
      Completes (.capacitanceTestEnd dv recovered) s (fun t => Intact s t ∧ t.clk = s.clk ∧ t.gov.bkTest = false ∧ t.gov.bkHold = !recovered
        ∧ t.pond = s.pond ∧ t.flume = s.flume
        ∧ (dv < 10 → t.fheld Fld.GOV_BK_STAT_TEST = 4 ∧ t.gov.testAt = some (s.clk.age + hourTurns 1))
        ∧ (10 ≤ dv → let c := s.fheld Fld.GOV_BK_CFG_ITEST * s.fheld Fld.GOV_BK_CFG_TTEST / dv
            t.fheld Fld.GOV_BK_STAT_CBK = min 65535 c ∧ t.gov.testDone = true
            ∧ t.fheld Fld.GOV_BK_STAT_TEST = (if 2 * c < s.fheld Fld.GOV_BK_CFG_CBK_NOM then 3 else 2)
            ∧ (2 * c < s.fheld Fld.GOV_BK_CFG_CBK_NOM → s.raiseSeen { src := Src.GOV_BK, inst := 0 } = true →
                bit (t.fheld Fld.BRK_SRC_STAT_PEND Src.GOV_BK) 0 = true)))))

/-- R355, R357, R358, R361, R377, R442: the entry into a power state. A request of RUN is answered at once; one of another state is recorded, closes
an unlock before a low-power state, and the domains are asked; in Alert it ends at once with RESULT 3; a reserved code and a request in the safe state
do nothing. Auto-idle asks for IDLE without a record of the request; an entry whose domains do not answer in ENTRY_TMO ends with RESULT 2 and the
domain that did not; once its domains are READY and its SIDs handed over the rails are lowered by one acknowledged step at a time, VDDQ_H, VDDQ_S,
then VDD by STEP_MV, and at its levels, or where an acknowledgement stayed out, the state is in force with RESULT 0, and of the DRAM stands what the
state keeps. A write releases the held pads; after a wake the races then make their resume check and the modules recalibrate or train. The model's own
reading or choice enters here by log entry 64. -/
def Obligations.PowerEntriesRun : Prop :=
  ∀ (s : State) (half : Nat), s.regs.wf = true → s.mainsOn = true → s.awake = true →
    (half < 2 → s.gov.entry = none → s.brk.safe = false →
      Completes (.powerStateRequest half 0) s (fun t => Intact s t ∧ t.gov = { s.gov with ps := .run, idleTurns := 0 }
        ∧ t.fheld Fld.GOV_PWR_CTRL_REQ = 0 ∧ t.fheld Fld.GOV_PWR_CTRL_RESULT = 0 ∧ t.fheld Fld.GOV_PWR_CTRL_GO = 0
        ∧ ({ t with gov := s.gov, regs := s.regs } : State) = s)
      ∧ ∀ p : PState, p ≠ .run → p ≠ s.gov.ps → Completes (.powerStateRequest half p.code) s (fun t => Intact s t ∧ t.clk = s.clk
        ∧ t.mods = s.mods ∧ t.hop = s.hop ∧ t.pond = s.pond ∧ t.flume = s.flume ∧ t.races = s.races
        ∧ (s.gov.alert = false →
            t.gov = { s.gov with entry := some p, entryAt := s.clk.age, entryAuto := false, entryDrain := false, entryCore := some half
                                 ready := [], allReady := false, avsFail := false }
            ∧ t.fheld Fld.GOV_PWR_CTRL_REQ = p.code ∧ t.fheld Fld.GOV_PWR_CTRL_RESULT = 0 ∧ t.fheld Fld.GOV_PWR_CTRL_GO = 1
            ∧ t.fheld Fld.GOV_PWR_CTRL_BUSY = 1 ∧ (p ≠ .idle → t.mmk.unlock = 0))
        ∧ (s.gov.alert = true → t.gov.entry = none ∧ t.fheld Fld.GOV_PWR_CTRL_RESULT = 3 ∧ t.fheld Fld.GOV_PWR_CTRL_BUSY = 0)))
    ∧ (∀ req, (4 < req ∨ s.brk.safe = true) → Completes (.powerStateRequest half req) s (fun t => t = s))
    ∧ (s.gov.ps = .run → s.fb Fld.GOV_PWR_CFG_AUTO_IDLE = true → s.gov.entry = none → s.brk.safe = false → s.gov.alert = false →
        s.gov.drain = false → s.gov.idleTurns ≥ s.fget Fld.GOV_PWR_CFG_IDLE_AFTER →
      Completes .autoIdle s (fun t => t = { s.fset Fld.GOV_PWR_CTRL_BUSY 1 with gov := { s.gov with
        entry := some .idle, entryAt := s.clk.age, entryAuto := true, entryDrain := false, entryCore := none, ready := [], allReady := false
        avsFail := false } } ∧ t.fheld Fld.GOV_PWR_CTRL_BUSY = 1))
    ∧ (∀ e, s.gov.entry = some e → e ≠ .idle → s.gov.allReady = false → s.gov.entryDrain = false →
        s.clk.age ≥ s.gov.entryAt + msTurns (s.fget Fld.GOV_PWR_CFG_ENTRY_TMO) →
      Completes .powerEntryTimeout s (fun t => Intact s t ∧ t.clk = s.clk ∧ t.gov.entry = none ∧ t.gov.closed = false ∧ t.gov.ps = s.gov.ps
        ∧ t.fheld Fld.GOV_PWR_CTRL_BUSY = 0 ∧ t.fheld Fld.GOV_PWR_CTRL_GO = 0 ∧ t.fheld Fld.GOV_PWR_CTRL_RESULT = 2
        ∧ ∀ d, s.onDomains.find? (fun d => d ∉ s.gov.ready && s.domAnswer e d = 1) = some d → t.fheld Fld.GOV_PWR_CTRL_REFUSER = d))
    ∧ (∀ p, s.lowering = some p → Completes .regulatorAck s (fun t =>
      ({ t with gov := { t.gov with vdd := s.gov.vdd, vddqS := s.gov.vddqS, vddqH := s.gov.vddqH } } : State) = s
      ∧ (s.gov.vddqH ≠ (railsOf p).2.2 → (t.gov.vdd, t.gov.vddqS, t.gov.vddqH) = (s.gov.vdd, s.gov.vddqS, (railsOf p).2.2))
      ∧ (s.gov.vddqH = (railsOf p).2.2 → s.gov.vddqS ≠ (railsOf p).2.1 →
          (t.gov.vdd, t.gov.vddqS, t.gov.vddqH) = (s.gov.vdd, (railsOf p).2.1, s.gov.vddqH))
      ∧ (s.gov.vddqH = (railsOf p).2.2 → s.gov.vddqS = (railsOf p).2.1 → (t.gov.vddqS, t.gov.vddqH) = (s.gov.vddqS, s.gov.vddqH)
          ∧ t.gov.vdd = (if (railsOf p).1 = 0 then 0 else max (railsOf p).1 (s.gov.vdd - s.fheld Fld.GOV_AVS_CFG_STEP_MV)))))
    ∧ (∀ e, s.gov.entry = some e → s.gov.allReady = true → s.handedAll e = true → e = .idle ∨ s.gov.avsFail = true ∨ s.gov.railsAt e = true →
      Completes .powerStateEntryComplete s (fun t => t.gov.ps = e ∧ t.gov.entry = none ∧ t.gov.allReady = false ∧ t.clk = s.clk
        ∧ t.pending = s.pending ∧ t.fheld Fld.GOV_PWR_CTRL_BUSY = 0 ∧ t.fheld Fld.GOV_PWR_CTRL_RESULT = 0
        ∧ (t.gov.vdd, t.gov.vddqS, t.gov.vddqH) = (s.gov.vdd, s.gov.vddqS, s.gov.vddqH)
        ∧ (e = .idle ∨ e = .fullFurl → t.dram = s.dram) ∧ (e = .off → t.dram.cells = {})
        ∧ (e = .furl → ∀ n, bit (s.keptBy e) (n / 32768 % s.nsid) = false → t.dram.cells.find? n = none)
        ∧ (e ≠ .idle → t.gov.pads = s.gov.pads ∧ t.gov.kept = s.keptBy e ∧ t.gov.sleepAt = s.clk.age ∧ t.gov.drainFurl = s.gov.entryDrain)))
    ∧ (half < 2 → s.gov.pads = true → Completes (.padRelease half) s (fun t => Intact s t ∧ t.clk = s.clk
      ∧ ({ t.gov with wake := s.gov.wake, wakeLatch := s.gov.wakeLatch, drainNext := s.gov.drainNext } : Gov)
          = { s.gov with pads := false, resume := false }
      ∧ (s.gov.resume = false → ({ t with gov := s.gov, out := s.out } : State) = s
          ∧ t.gov = { s.gov with pads := false, resume := false } ∧ t.out = { s.out with ucieIdle := false, tstPads := none })
      ∧ (s.gov.resume = true →
          (∀ r, r < 32 → s.isolated r = false → (s.race r).run = true → (t.race r).refOn = true
            ∧ (s.fheld Fld.SPIN_STAT_RESULT r = 1 ∨ s.fheld Fld.SPIN_STAT_RESULT r = 2 → (s.fan (raceHalf r)).running ≠ some r →
                r ∉ (s.fan (raceHalf r)).queue →
                t.fheld Fld.SPIN_STAT_STATE r = 4 ∧ (t.race r).tr.hold = true))
          ∧ ∀ m, m < 20 → modFitted s.ld m = true → s.fheld Fld.HEAD_MOD_CTRL_EN m = 1 →
              ((s.mod m).wasActive = true → (t.mod m).st = .recal)
              ∧ ((s.mod m).wasActive = false → (s.mod m).st = .disabled ∨ (s.mod m).st = .down → (t.mod m).st = (s.mod m).st)
              ∧ ((s.mod m).wasActive = false → (s.mod m).st ≠ .disabled → (s.mod m).st ≠ .down → (t.mod m).st = .train))))

/-- R359: each wake source, enabled and able to wake the present state, with no entry and no wake under way, starts the wake and is recorded in LAST.
R361, R362, R365, R367: the wake sequence. From IDLE it is one step; otherwise the rails are raised in order, VDD in steps of STEP_MV to 750 mV,
VDDQ_S, VDDQ_H, one acknowledgement each, and the state is RUN with the cores up, admission open and the pads still held. A missing acknowledgement is
counted and moves no rail; the first failure waits for the retry 200 µs later, a second one ends the wake with FAIL and FAIL_WHY. The model's own
reading or choice enters here by log entry 84. -/
def Obligations.WakesRun : Prop :=
  (∀ (s : State), s.regs.wf = true → s.gov.entry = none → s.gov.wake = none →
    (s.wakeOn 1 = true → s.wakeTable 1 = true → s.boot.aonDown = false →
      (s.i3c.mgmtAddr.isSome = true → Completes (.wakeI3cMatch 0) s (Woken 1 s))
      ∧ (s.i3c.attAddr.isSome = true → Completes (.wakeI3cMatch 1) s (Woken 1 s)))
    ∧ (∀ m, s.wakeOn 2 = true → s.wakeTable 2 = true → modFitted s.ld m = true → s.fheld Fld.HEAD_MOD_CTRL_EN m = 1 →
      Completes (.wakeSideband m) s (Woken 2 s))
    ∧ (∀ ns ≥ 1000, s.wakeOn 3 = true → s.wakeTable 3 = true → s.boot.aonDown = false → Completes (.wakeNLow ns) s (Woken 3 s))
    ∧ (∀ ns < 500, Completes (.wakeNLow ns) s (fun t => t = s))
    ∧ (∀ ns, 500 ≤ ns → ns < 1000 → s.wakeOn 3 = true → s.wakeTable 3 = true → s.boot.aonDown = false →
        Completes (.wakeNLow ns) s (fun t => Woken 3 s t ∨ ({ t with freeCtr := s.freeCtr } : State) = s))
    ∧ (s.wakeOn 4 = true → s.wakeTable 4 = true → s.clk.age ≥ s.gov.sleepAt + msTurns (s.fheld Fld.GOV_WAKE_TIMER_MS) →
      Completes .wakeTimer s (Woken 4 s))
    ∧ (s.wakeOn 6 = true → s.gov.ps = .furl → s.gov.drainFurl = true → s.gov.mfLevel = false →
        s.now ≥ s.gov.mfOkSince + 256 * msTurns (s.fget Fld.GOV_PWR_CFG_MAIN_OK) → Completes .wakeMainsReturn s (Woken 6 s)))
  ∧ (∀ (s : State) (c st n why : Nat), s.regs.wf = true → s.gov.wake = some (c, st, n) →
    (s.gov.ps = .idle → Completes .wakeSequence s (fun t =>
      t = { s with gov := { s.gov with ps := .run, wake := none, idleTurns := 0 } }))
    ∧ (s.gov.ps ≠ .idle → s.gov.wakeWait = false → st = 0 → Completes .wakeSequence s (fun t =>
      t = { s with gov := { s.gov with wake := some (c, 1, n) } }))
    ∧ (s.gov.ps = .furl ∨ s.gov.ps = .fullFurl → s.gov.wakeWait = false → 4 ≤ st → s.gov.retLost = false → s.gov.drainFurl = false →
        s.gov.wakeFailPend = false → s.lcPower = false →
      Completes .wakeSequence s (fun t => t.pending = s.pending ∧ t.clk = s.clk ∧ t.gov.ps = .run ∧ t.gov.closed = false
        ∧ t.gov.pads = s.gov.pads ∧ t.gov.resume = true ∧ (t.gov.vdd, t.gov.vddqS, t.gov.vddqH) = railsOf .run
        ∧ t.mil.east.up = true ∧ t.mil.west.up = s.boot.westUp ∧ t.dram.cells = s.dram.cells))
    ∧ (s.gov.entry = none → s.gov.wakeWait = false → Completes .regulatorAck s (fun t =>
      (st = 1 → let v := if s.gov.vdd = 0 then 750 else min 750 (s.gov.vdd + s.fheld Fld.GOV_AVS_CFG_STEP_MV)
        t.gov = { s.gov with vdd := v, wake := some (c, if v = 750 then 2 else 1, n) })
      ∧ (st = 2 → t.gov = { s.gov with vddqS := 400, wake := some (c, 3, n) })
      ∧ (st = 3 → t.gov = { s.gov with vddqH := 450, wake := some (c, 4, n) })
      ∧ ({ t with gov := s.gov } : State) = s))
    ∧ (1 ≤ why → why ≤ 4 → s.boot.aonDown = false → s.gov.ps ≠ .run → s.gov.entry = none → 1 ≤ st → s.gov.wakeWait = false →
      Completes (.regulatorAckTimeout why) s (fun t => Intact s t ∧ t.clk = s.clk
        ∧ ({ t with gov := s.gov, regs := s.regs, out := s.out } : State) = s
        ∧ (t.gov.vdd, t.gov.vddqS, t.gov.vddqH) = (s.gov.vdd, s.gov.vddqS, s.gov.vddqH)
        ∧ (why ≤ 3 → t.fheld Fld.GOV_SUP_STAT_AVS_ERR = satAdd Fld.GOV_SUP_STAT_AVS_ERR.w (s.fheld Fld.GOV_SUP_STAT_AVS_ERR) 1)
        ∧ (n = 0 → t.gov.wakeWait = true ∧ t.gov.failAt = s.clk.age)
        ∧ (n ≠ 0 → t.gov.wake = none ∧ t.gov.wakeFailPend = true ∧ t.fheld Fld.GOV_WAKE_FAIL = 1 ∧ t.fheld Fld.GOV_WAKE_FAIL_WHY = why)))
    ∧ (s.gov.wakeWait = true → s.clk.age ≥ s.gov.failAt + 1250 → Completes .wakeRetry s (fun t =>
      t = { s with gov := { s.gov with wakeWait := false, wake := some (c, 1, 1) } })))

/-- R371: the current reading, every 64 Turns, asks for one step up at or above I_LIM and for one down after 16 readings below 90 % of it; any other
reading asks for none. R363: a WATCH sample in FURL or FULL FURL notes the supplies, counts a MAIN_FAIL that it finds new, and wakes the part (source
5) when any die reaches WT_MAX and the source is enabled. -/
def Obligations.CurrentAndWatchSamples : Prop :=
  ∀ (s : State) (amps vdd vbk : Nat) (temps : List TempRead) (mainFail : Bool), s.regs.wf = true →
    (s.mainsOn = true → s.clk.turn % 64 = 0 → s.gov.curAt ≠ some s.clk.age → Completes (.currentSample amps) s (fun t =>
      let lim := s.fheld Fld.GOV_AVS_CFG_I_LIM
      (lim ≤ amps → t.gov.istepN = some (min 4 (s.gov.istep + 1)) ∧ t.gov.iLow = 0)
      ∧ (amps < lim → 10 * amps < 9 * lim → s.gov.iLow + 1 ≥ 16 → t.gov.istepN = some (s.gov.istep - 1) ∧ t.gov.iLow = 0)
      ∧ (amps < lim → 10 * amps < 9 * lim → s.gov.iLow + 1 < 16 → t.gov.istepN = s.gov.istepN ∧ t.gov.iLow = s.gov.iLow + 1)
      ∧ (amps < lim → 9 * lim ≤ 10 * amps → t.gov.istepN = s.gov.istepN ∧ t.gov.iLow = 0)
      ∧ ({ t.gov with istepN := s.gov.istepN, iLow := s.gov.iLow, curAt := s.gov.curAt } : Gov) = s.gov ∧ t.gov.curAt = some s.clk.age
      ∧ ({ t with gov := s.gov } : State) = s))
    ∧ (s.gov.ps = .furl ∨ s.gov.ps = .fullFurl → s.gov.srr.wf = true → s.fget Fld.GOV_PWR_CFG_WATCH_MS ≥ 1 →
        s.clk.age ≥ s.gov.watchAt + msTurns (s.fget Fld.GOV_PWR_CFG_WATCH_MS) →
      Completes (.watchSample temps vdd vbk mainFail) s (fun t => Intact s t ∧ t.clk = s.clk ∧ ({ t with gov := s.gov, regs := s.regs } : State) = s
        ∧ t.gov.watchAt = s.clk.age ∧ t.gov.mfLevel = mainFail ∧ t.gov.watchMf = mainFail ∧ t.gov.minVdd = min s.gov.minVdd (min 255 (vdd - 600))
        ∧ t.gov.vbkNow = vbk * max 1 (s.fheld Fld.GOV_BK_CFG_RATIO)
        ∧ t.fheld Fld.GOV_SUP_STAT_MAINS = (if mainFail && !s.gov.watchMf then
            satAdd Fld.GOV_SUP_STAT_MAINS.w (s.fheld Fld.GOV_SUP_STAT_MAINS) 1 else s.fheld Fld.GOV_SUP_STAT_MAINS)
        ∧ (∀ d, d < 4 * s.nsid → bit s.gov.kept (d / 4) = true → t.gov.srr.get 0 d = (s.watchRate d (validTemp (temps.getD d none))).1)
        ∧ (s.wakeOn 5 = true → s.gov.entry = none → s.gov.wake = none →
            t.gov.wake = (if (List.range (4 * s.nsid)).any (fun d => match validTemp (temps.getD d none) with
              | some v => decide (v ≥ (s.fget Fld.GOV_PWR_CFG_WT_MAX : Int)) | none => false) then some (5, 0, 0) else none))))

/-- R149, R157, R193 to R195: row commands that are legal and that the row bus has granted. ACT opens the row of its bank, counts one more ACT in RAA
(8 bits) and in the row tracker, starts HIT_CAP's count anew and, with RFM_EN, asks for an RFM from RFM_TH on; PRE closes the row. Both enter the
race's command history and move the clock to their mc. Of the rest of the machine PRE changes nothing, nor ACT where RFM_EN is 0; with it an ACT
leaves the DRAM content, the buffers and the banks of the other races. The model's own reading or choice enters here by log entry 39. -/
def Obligations.RowCommandsOpenAndClose : Prop :=
  ∀ (s : State) (race mc pr sid bg bank row : Nat), s.raceCmd race = true →
    (let n : RowReq := ⟨.act, pr, sid, bg, bank, row⟩
     let b := (s.race race).bankOf n
     let raa := min (b.raa + 1) 255
     s.legal race (s.at mc) n = true → s.rowGranted race (s.at mc) n = true →
      Completes (.dramAct race mc pr sid bg bank row) s (fun t => Intact s t ∧ t.clk = s.clkAt mc ∧ Issued race n (s.at mc) 0 t
        ∧ OtherRaces race s t ∧ (s.fb Fld.RACE_REF_CFG_RFM_EN race = false → AtRace race s t)
        ∧ ((t.race race).bankOf n).row = some row ∧ ((t.race race).bankOf n).actAt = s.at mc
        ∧ ((t.race race).bankOf n).raa = raa ∧ ((t.race race).bankOf n).hits = 0
        ∧ ((t.race race).bankOf n).used = false ∧ ((t.race race).bankOf n).trk = track b.trk row
        ∧ ((t.race race).bankOf n).rfmReq = (b.rfmReq || (s.fb Fld.RACE_REF_CFG_RFM_EN race && decide (raa ≥ s.fget Fld.RACE_REF_CFG_RFM_TH race)))))
    ∧ (let n : RowReq := ⟨.pre, pr, sid, bg, bank, 0⟩
       s.legal race (s.at mc) n = true →
       ((∃ g, (s.race race).grantR.find? (fun g => g.2 = s.at mc) = some g ∧ ({ g.1 with row := 0 } : RowReq) = n)
        ∨ ((s.race race).grantR.find? (fun g => g.2 = s.at mc) = none
          ∧ ∃ m, s.pickRow race (s.at mc) = some m ∧ m.cmd = .pre ∧ bankNo m.pr m.sid m.bg m.bank = bankNo pr sid bg bank)) →
      Completes (.dramPre race mc pr sid bg bank) s (fun t => Intact s t ∧ t.clk = s.clkAt mc ∧ Issued race n (s.at mc) 0 t
        ∧ AtRace race s t
        ∧ (t.race race).bankOf n = { (s.race race).bankOf n with row := none, hits := 0, used := false, opener := none }))

/-- R141, R149, R153, R155, R169, R268, R269, R282: column commands that are legal and granted. The RD of a queue entry takes the entry and starts its
burst with the codeword the die holds; the RD of a far-atomic entry notes its mc and starts its burst. The WR of a write-queue entry stores the full
codeword in its cell and takes the entry. A fill WR stores zeros of the present epoch in the next cell of its order and counts its burst. A probe
counts, a read probe starts its burst and a write probe leaves its pattern and offset in its column. Nothing else of the machine changes but the race,
the clock and Tally's counts, and, where a write-back waits for a place that comes free, the background budget it takes from. The model's own reading
or choice enters here by log entries 39, 49. -/
def Obligations.ColumnCommandsMoveData : Prop :=
  ∀ (s : State) (race mc qid pr : Nat), s.raceCmd race = true →
    (∀ e, (s.waiting race).find? (fun e => e.qid = qid ∧ !e.wr) = some e → s.legal race (s.at mc) e.req = true →
        s.colGranted race e.place.pr (s.at mc) (.ent qid) = true →
      Completes (.dramRd race mc (.queue qid)) s (fun t => Intact s t ∧ t.clk = s.clkAt mc ∧ AtRace race s t
        ∧ (∀ q, (s.race race).rq.find? (fun o => o.qid = e.qid) = some q →
            (t.race race).rq = (s.race race).rq.filter (fun o => o.qid ≠ q.qid)
            ∧ ∃ f, (t.race race).flights = (s.race race).flights ++ [f] ∧ f.word = s.cellWord e.addr ∧ f.qid = q.qid ∧ f.kind = q.kind
                ∧ f.id = q.id ∧ f.addr = q.addr ∧ f.stale = q.stale ∧ f.at_ = (s.tim race).strobe .rd (s.at mc))
        ∧ ((s.race race).rq.find? (fun o => o.qid = e.qid) = none →
            (t.race race).fau = mapIf (fun o => o.qid = e.qid) (fun o => { o with rdAt := some (s.at mc) }) (s.race race).fau
            ∧ ∃ f, (t.race race).flights = (s.race race).flights ++ [f] ∧ f.word = s.cellWord e.addr ∧ f.qid = e.qid ∧ f.kind = .fau
                ∧ f.at_ = (s.tim race).strobe .rd (s.at mc))))
    ∧ (∀ w, (s.race race).wq.find? (fun e => e.qid = qid) = some w → s.legal race (s.at mc) (s.wrEnt w).req = true →
        s.colGranted race (s.wrEnt w).place.pr (s.at mc) (.ent qid) = true →
      Completes (.dramWr race mc (.queue qid)) s (fun t => t.pending = s.pending ∧ t.fuse = s.fuse ∧ t.clk = s.clkAt mc
        ∧ t.dram = s.dram.store (w.addr / 64) (s.blockOf w.addr) (storeWord w.data w.psn w.epoch)
        ∧ AtRace race { s with dram := t.dram, weir := t.weir } t
        ∧ ((s.race race).backs = [] → t.weir = s.weir ∧ (t.race race).wq = (s.race race).wq.filter (fun o => o.qid ≠ qid))))
    ∧ (∀ f, (s.race race).fill = some f → pr < 2 → f.done pr < 512 → s.legal race (s.at mc) (s.fillReq f pr (f.done pr / 16) .wr) = true →
        s.colGranted race pr (s.at mc) .fill = true →
      Completes (.dramWr race mc (.fill pr)) s (fun t => t.pending = s.pending ∧ t.fuse = s.fuse ∧ t.clk = s.clkAt mc
        ∧ (let a := s.fillAddr f race pr (f.done pr)
           t.dram = s.dram.store (a / 64) (s.blockOf a) (storeWord 0 false (s.epochTag (raceHalf race))))
        ∧ (t.race race).fill = some { f with doneA := if pr = 0 then f.doneA + 1 else f.doneA
                                             doneB := if pr = 0 then f.doneB else f.doneB + 1 }
        ∧ AtRace race { s with dram := t.dram, weir := t.weir } t ∧ ((s.race race).backs = [] → t.weir = s.weir)))
    ∧ (let j := (s.race race).tr.next pr
       let n := (s.race race).probeReq pr (probeCmd j)
       let c := (s.race race).tr.probePlace (4 * pr + j / 6) j (s.fget Fld.FAN_CFG_TRK_M 0 (raceHalf race))
       s.works race = true → s.legal race (s.at mc) n = true → s.colGranted race pr (s.at mc) .probe = true →
        (n.cmd = .rd → Completes (.dramRd race mc (.probe pr)) s (fun t => Intact s t ∧ t.clk = s.clkAt mc ∧ AtRace race s t
          ∧ (t.race race).tr.next pr = j + 1
          ∧ ∃ f, (t.race race).flights = (s.race race).flights ++ [f] ∧ f.kind = .probe ∧ f.pr = pr ∧ f.id = j ∧ f.k = c.1
              ∧ f.at_ = (s.tim race).strobe .rd (s.at mc)))
        ∧ (n.cmd = .wr → Completes (.dramWr race mc (.probe pr)) s (fun t => Intact s t ∧ t.clk = s.clkAt mc ∧ AtRace race s t
          ∧ (t.race race).tr.next pr = j + 1 ∧ (t.race race).flights = (s.race race).flights
          ∧ (t.race race).tr.cols.find? (16 * (4 * pr + j / 6) + c.1) = some (Config.trackPattern c.1, c.2))))

/-- R138: a cell reads back what was stored in it, and a store leaves every other cell alone, whatever the epochs and maps. The model's own reading or
choice enters here by log entry 9. -/
def Obligations.DramReadsBack : Prop :=
  ∀ (d : Dram) (n blk : Nat) (w : Codeword), d.cells.wf = true →
    (d.store n blk w).word n blk = w
    ∧ (∀ m b, m ≠ n → (d.store n blk w).word m b = d.word m b)
    ∧ (d.store n blk w).cells.wf = true ∧ (d.store n blk w).wmap = d.wmap ∧ (d.store n blk w).zeroed = d.zeroed

/-- R181, R185, R186, R193, R194, R196, R199, R201, R203, R227: refresh commands and self-refresh, each where its row command is legal and granted.
REFab clears the debt and the PPC of its pseudo-race in the SID; SRE puts a SID whose handover was asked into self-refresh and writes its die's SRR
line; SRX ends it and starts all counts of the SID again; a handover asked of a SID is recorded; a handover for a reset that has not completed in 4
Turns sets every RAA to RFM_TH and leaves every REFab to be owed first. A REFpb clears its bank's PPC and urgency and takes REF_DEC from its RAA, an
RFM takes RFM_DEC and its request; a planned slot issues its command in its mc, and once that is past the slot is given up by the shared operation; a
slot revoked from the queues is marked and counted, and a grant for it withdrawn. The model's own reading or choice enters here by log entries 38, 39,
100. -/
def Obligations.RefreshAndSelfRefresh : Prop :=
  (∀ (s : State) (race mc pr sid : Nat),
    (let n : RowReq := ⟨.refab, pr, sid, 0, 0, 0⟩
     s.raceCmd race = true → s.legal race (s.at mc) n = true → s.rowGranted race (s.at mc) n = true →
      Completes (.refab race mc pr sid) s (fun t => Intact s t ∧ t.clk = s.clkAt mc ∧ Issued race n (s.at mc) 0 t ∧ AtRace race s t
        ∧ (t.race race).owed = (s.race race).owed.del (4 * pr + sid)
        ∧ (t.race race).mustRefab = (s.race race).mustRefab.filter (· ≠ 4 * pr + sid)
        ∧ (t.race race).banks = ((s.race race).mapBanks pr sid (fun b => { b with ppc := 0, urgRef := false })).banks))
    ∧ (let n : RowReq := ⟨.sre, 0, sid, 0, 0, 0⟩
       s.raceCmd race = true → ((s.race race).hand.find? sid).isSome = true → s.legal race (s.at mc) n = true →
        s.rowGranted race (s.at mc) n = true →
      Completes (.sre race mc sid) s (fun t => Intact s t ∧ t.clk = s.clkAt mc ∧ Issued race n (s.at mc) 0 t
        ∧ (t.race race).sref.find? sid = some true ∧ (t.race race).hand = (s.race race).hand.del sid
        ∧ t.gov = { s.gov with srr := s.gov.srr.put 0 (dieOf race sid) ((s.race race).rate.get 2 sid) }
        ∧ AtRace race { s with gov := t.gov } t))
    ∧ (let n : RowReq := ⟨.srx, 0, sid, 0, 0, 0⟩
       s.raceCmd race = true → s.legal race (s.at mc) n = true → s.rowGranted race (s.at mc) n = true →
      Completes (.srx race mc sid) s (fun t => Intact s t ∧ t.clk = s.clkAt mc ∧ Issued race n (s.at mc) 0 t ∧ AtRace race s t
        ∧ (t.race race).sref = (s.race race).sref.del sid ∧ (t.race race).banks = ((s.race race).clearSid sid).banks
        ∧ (t.race race).acc = ((s.race race).acc.del sid).del (4 + sid) ∧ (t.race race).owed = ((s.race race).owed.del sid).del (4 + sid)))
    ∧ (s.raceCmd race = true → sid < s.nsid → (s.race race).sref.get false sid = false → (s.race race).hand.find? sid = none →
        s.handAsked race sid = true →
      Completes (.srHandover race mc sid) s (fun t => Intact s t ∧ t.clk = s.clkAt mc ∧ AtRace race s t
        ∧ t.race race = { s.race race with hand := (s.race race).hand.ins sid (s.at mc)
                                           handAb := (s.race race).handAb.filter (fun k => k % 4 ≠ sid) }))
    ∧ (race < 32 → (s.race race).banks.wf = true → (s.race race).inReset = true → (s.race race).mustRefab = [] →
        (∃ a ∈ (s.race race).hand.vals, s.now ≥ a + 4 * 256) →
      Completes (.handoverTimeout race) s (fun t => Intact s t ∧ AtRace race s t ∧ t.clk = s.clk ∧ (t.race race).hand = {}
        ∧ (t.race race).sref = (s.race race).sref
        ∧ (∀ k, k < 256 → k / 32 % 4 < s.nsid → ((t.race race).banks.get {} k).raa = s.fget Fld.RACE_REF_CFG_RFM_TH race)
        ∧ (t.race race).mustRefab = (List.range 2).flatMap (fun p => (List.range s.nsid).map (fun sd => 4 * p + sd)))))
  ∧ (∀ (s : State) (race mc pr sid bg bank slot : Nat), s.raceCmd race = true → s.refRuns race = true →
    (∀ n, s.refNow race pr (s.at mc) (s.waiting race) = some n → n.cmd = .refpb → n.sid = sid → s.rowGranted race (s.at mc) n = true →
      Completes (.refpb race mc pr sid) s (fun t => Intact s t ∧ t.clk = s.clkAt mc ∧ Issued race n (s.at mc) 0 t
        ∧ OtherRaces race s t ∧ ((t.race race).bankOf n).ppc = 0 ∧ ((t.race race).bankOf n).urgRef = false
        ∧ ((t.race race).bankOf n).raa = ((s.race race).bankOf n).raa - s.fget Fld.RACE_REF_CFG_REF_DEC race))
    ∧ (let n : RowReq := ⟨.rfm, pr, sid, bg, bank, 0⟩
       s.refNow race pr (s.at mc) (s.waiting race) = some n → s.rowGranted race (s.at mc) n = true →
      Completes (.rfm race mc pr sid bg bank) s (fun t => Intact s t ∧ t.clk = s.clkAt mc ∧ Issued race n (s.at mc) 0 t ∧ OtherRaces race s t
        ∧ (t.race race).rfmQ = (s.race race).rfmQ.filter (fun q => q.2.1 ≠ bankNo pr sid bg bank)
        ∧ ((t.race race).bankOf n).rfmReq = false ∧ ((t.race race).bankOf n).urgRfm = false
        ∧ ((t.race race).bankOf n).raa = ((s.race race).bankOf n).raa - s.fget Fld.RACE_REF_CFG_RFM_DEC race))
    ∧ (∀ turn e, pr < 2 →
        (s.dueSlots race pr).find? (fun e => e.2.slot = slot ∧ s.refAt race pr e.1 slot < (s.clk.age + 1) * 256) = some (turn, e) →
      (s.refAt race pr turn slot < s.now → Completes (.plannedRefreshDue race pr slot) s (fun t => Intact s t ∧ OtherRaces race s t
        ∧ t.clk = s.clkAt (s.now % 256) ∧ t = { s.postponeSlot race pr turn e with clk := t.clk }))
      ∧ (let at_ := s.refAt race pr turn slot
         ∀ n, s.now ≤ at_ → s.refNow race pr at_ (s.waiting race) = some n → s.rowGranted race at_ n = true →
          Completes (.plannedRefreshDue race pr slot) s (fun t => Intact s t ∧ OtherRaces race s t ∧ t.clk = s.clkAt (at_ % 256)
            ∧ Issued race n at_ 0 t)))
    ∧ (∀ g, s.revocation race pr (s.at mc) = some g → pr < 2 →
      Completes (.revocation race pr mc) s (fun t => Intact s t ∧ t.clk = s.clkAt mc ∧ OtherRaces race s t
        ∧ (t.race race).revSlots = (s.race race).revSlots ++ [(pr, g)]
        ∧ (pr = 0 → (t.race race).revA = g / 128 + 1) ∧ (pr = 1 → (t.race race).revB = g / 128 + 1)
        ∧ (∀ c ∈ (t.race race).colGrants pr, s.grantIn race pr g c = false ∧ c ∈ (s.race race).colGrants pr)
        ∧ (s.regs.wf = true → t.fheld Fld.RACE_REF_CNT_REVOKE race = satAdd Fld.RACE_REF_CNT_REVOKE.w (s.fheld Fld.RACE_REF_CNT_REVOKE race) 1))))

/-- R172, R173, R273: power-down and the mode-register port, where legal and granted. PDE and PDX enter the history; SPIN_STAT leaves TRACK at PDE and
takes it up again, with the round and the counts of tracking started anew, at PDX where tracking is on and a SID is out of self-refresh. An MRW ends
its command with RESULT 0, an MRR starts its burst; a port command 64 Turns old ends with RESULT 1. Nothing else changes but the race, its SPIN_STAT
or RACE_MR_CMD, and the clock. The model's own reading or choice enters here by log entries 39, 40. -/
def Obligations.PortCommandsEnd : Prop :=
  ∀ (s : State) (race mc : Nat), s.regs.wf = true → race < 32 →
    (let n : RowReq := { cmd := .pde }
     s.raceCmd race = true → s.pdeDue race (s.at mc) = true → s.legal race (s.at mc) n = true → s.rowGranted race (s.at mc) n = true →
      Completes (.pde race mc) s (fun t => t.clk = s.clkAt mc ∧ Issued race n (s.at mc) 0 t ∧ AtRace race { s with regs := t.regs } t
        ∧ (t.race race).pd = some (s.at mc) ∧ (∀ k, k ≠ Reg.key .SPIN_STAT race 0 → t.regs.find? k = s.regs.find? k)
        ∧ t.fheld Fld.SPIN_STAT_STATE race = 6))
    ∧ (let n : RowReq := { cmd := .pdx }
       s.raceCmd race = true → s.pdxDue race = true → s.legal race (s.at mc) n = true → s.rowGranted race (s.at mc) n = true →
      Completes (.pdx race mc) s (fun t => t.clk = s.clkAt mc ∧ Issued race n (s.at mc) 0 t ∧ AtRace race { s with regs := t.regs } t
        ∧ (t.race race).pd = none ∧ (∀ k, k ≠ Reg.key .SPIN_STAT race 0 → t.regs.find? k = s.regs.find? k)
        ∧ (s.fheld Fld.SPIN_STAT_STATE race = 6 → s.fheld Fld.FAN_CFG_TRACK_EN 0 (raceHalf race) = 1 →
            (∃ sd, sd < s.nsid ∧ (s.race race).sref.get false sd = false) →
            t.fheld Fld.SPIN_STAT_STATE race = 2 ∧ (t.race race).tr.failing = {} ∧ (t.race race).tr.roundAt = s.clk.age)))
    ∧ (let n := s.mrReq race
       s.raceCmd race = true → s.mrWaits race = true → s.legal race (s.at mc) n = true →
      (n.cmd = .mrw → s.rowGranted race (s.at mc) n = true →
        Completes (.mrw race mc) s (fun t => t.clk = s.clkAt mc ∧ Issued race n (s.at mc) 0 t ∧ AtRace race { s with regs := t.regs } t
          ∧ (∀ k, k ≠ Reg.key .RACE_MR_CMD race 0 → t.regs.find? k = s.regs.find? k) ∧ (t.race race).mrAt = none
          ∧ t.fheld Fld.RACE_MR_CMD_RESULT race = 0 ∧ t.fheld Fld.RACE_MR_CMD_BUSY race = 0 ∧ t.fheld Fld.RACE_MR_CMD_GO race = 0))
      ∧ (n.cmd = .mrr → s.works race = true → s.colGranted race n.pr (s.at mc) .mr = true →
        Completes (.mrr race mc) s (fun t => Intact s t ∧ t.clk = s.clkAt mc ∧ AtRace race s t ∧ (t.race race).mrIssued = true
          ∧ ∃ f, (t.race race).flights = (s.race race).flights ++ [f] ∧ f.mrr = true ∧ f.pr = n.pr
              ∧ f.at_ = (s.tim race).strobe .mrr (s.at mc))))
    ∧ (∀ a, s.mrWaits race = true → (s.race race).mrAt = some a → s.clk.age ≥ a + 64 →
      Completes (.mrCmdTimeout race) s (fun t => t.clk = s.clk ∧ AtRace race { s with regs := t.regs } t
        ∧ (∀ k, k ≠ Reg.key .RACE_MR_CMD race 0 → t.regs.find? k = s.regs.find? k) ∧ (t.race race).mrAt = none
        ∧ t.fheld Fld.RACE_MR_CMD_RESULT race = 1 ∧ t.fheld Fld.RACE_MR_CMD_BUSY race = 0 ∧ t.fheld Fld.RACE_MR_CMD_GO race = 0))

/-- R174, R283: a strobe within 2 mc of its expected place ends its burst, starts the count of missing bursts anew and hands the decoded cell to its
owner: a clean one binds its cell of the request, whose last cell sends the response; the far-atomic entry keeps code, word and corrections. A burst
whose strobe does not come is counted in MISS and ends; a strobe outside every window is counted in STRAY and ignored. R169, R171: the far-atomic unit
takes a Millpond entry that it may take, and executes an entry whose operand is there without error: it leaves the unit and frees its Millpond entry,
a merge and an atomic that writes leave their result in the write queue, and an atomic answers with the bytes that its operation returns. The model's
own reading or choice enters here by log entries 10, 49. -/
def Obligations.BurstsAndFarAtomics : Prop :=
  (∀ (s : State) (race pr mc : Nat) (err : List (Nat × Byte)), s.regs.wf = true → race < 32 →
    (∀ f, (s.race race).flights.find? (fun f => f.due pr (s.at mc)) = some f → let d := rsDecode (corrupt f.word err)
      Completes (.readBurstReturn race pr mc err) s (fun t => Intact s t ∧ t.clk = s.clkAt mc
        ∧ (t.race race).flights = (s.race race).flights.erase f
        ∧ (pr = 0 → (t.race race).missA = 0 ∧ (t.race race).tmoA = false) ∧ (pr ≠ 0 → (t.race race).missB = 0 ∧ (t.race race).tmoB = false)
        ∧ (f.mrr = false → f.kind = .fau → (t.race race).fau = mapIf (fun e => e.qid = f.qid)
            (fun e => { e with back := some (outCode d.out, d.word, d.fixed) }) (s.race race).fau)
        ∧ (∀ q, f.mrr = false → f.kind = .host → d.out = .clean → s.hop.reqs.find? f.id = some q →
            let got := q.got.ins f.k (cwData d.word)
            (got.rows.length ≠ q.nCells → t.hop.reqs.find? f.id = some { q with got := got } ∧ t.mods = s.mods)
            ∧ (got.rows.length = q.nCells → q.answered = false → Opc.answered q.opc = true →
                (t.mod q.m).tx = (s.mod q.m).tx ++ [q.resp q.readCode q.pmask 0 0 (s.at mc) f.id got.vals]))))
    ∧ (∀ f, (s.race race).flights.find? (fun f => f.pr = pr ∧ f.at_ + 2 < s.at mc) = some f →
      Completes (.missingBurst race pr mc) s (fun t => Intact s t ∧ t.clk = s.clkAt mc
        ∧ (t.race race).flights = (s.race race).flights.erase f
        ∧ t.fheld Fld.RACE_ERR_MISS race = satAdd Fld.RACE_ERR_MISS.w (s.fheld Fld.RACE_ERR_MISS race) 1))
    ∧ ((s.race race).flights.any (fun f => f.due pr s.now) = false →
      Completes (.strayStrobe race pr) s (fun t => t = s.fadd Fld.RACE_ERR_STRAY 1 race
        ∧ t.fheld Fld.RACE_ERR_STRAY race = satAdd Fld.RACE_ERR_STRAY.w (s.fheld Fld.RACE_ERR_STRAY race) 1)))
  ∧ (∀ (s : State) (race mc id k : Nat), s.raceCmd race = true →
    (∀ e, s.pond.find? (fun e => e.id = id ∧ e.k = k ∧ !e.tally) = some e → s.fauCan race e = true →
      Completes (.fauTake race mc id k) s (fun t => Intact s t ∧ t.clk = s.clkAt mc ∧ AtRace race s t
        ∧ (t.race race).nextQ = (s.race race).nextQ + 1
        ∧ (t.race race).fau = (s.race race).fau ++ [{ qid := (s.race race).nextQ, id := e.id, k := e.k, addr := e.addr, amo := e.amo, data := e.data
                                                      mask := e.mask, stream := e.stream, cls := e.cls, since := s.at mc }]))
    ∧ (∀ f i, (s.race race).fau.find? (fun f => f.id = id ∧ f.k = k) = some f → s.fauIn race (s.at mc) f = some i → i.code = 0 →
      Completes (.fauExecute race mc id k) s (fun t => Intact s t ∧ t.clk = s.clkAt mc
        ∧ t.pond = s.pond.filter (fun o => !(o.id = f.id ∧ o.k = f.k ∧ !o.tally)) ∧ t.flume = s.flume
        ∧ (t.race race).fau = mapIf (fun o => o.addr = f.addr) (fun o => { o with after := s.at mc + 1 })
            ((s.race race).fau.filter (fun o => o.qid ≠ f.qid))
        ∧ (f.amo = false → ∃ w, (t.race race).wqAt f.addr = some w ∧ w.data = mergeCell i.cell f.data f.mask ∧ w.psn = false)
        ∧ (f.amo = true → ∀ q, s.hop.reqs.find? id = some q → let a := amoApply q.arg.toNat f.data i.cell
            (a.2.1 = true → ∃ w, (t.race race).wqAt f.addr = some w ∧ w.data = a.1 ∧ w.psn = false)
            ∧ (a.2.1 = false → (t.race race).wq = (s.race race).wq)
            ∧ (q.opc = Opc.amo → q.answered = false → q.got = {} → q.pmask = 0 →
                (t.mod q.m).tx = (s.mod q.m).tx ++ [q.resp Rc.ok 0 0 0 (s.at mc) id [a.2.2]])))))

/-- R139 to R147, R320: fills. A store offered for an UNWRITTEN block opens a fill record where no granary is fitted or the grant is there, and with a
granary and no grant asks for one, once; Hoist grants in the order of asking, in the safe state only in a drain (R386); a fill whose bursts are all
placed sets the block's map bit, notes its zeros with the epoch, counts in FILLS and lets the next fill of the race begin where the write queue has
room for it; the end of a half's map clear leaves no bit of the half set and reads CLEAR as 0. The model's own reading or choice enters here by log
entry 46. -/
def Obligations.FillsZeroBlocks : Prop :=
  ∀ (s : State) (race v mc half : Nat), s.regs.wf = true → s.dram.wf = true →
    (s.raceCmd race = true → s.works race = true → v < regionsOf s.ld → s.dram.wmap.get false (32 * v + race) = false →
        s.fget Fld.QRN_WMAP_CFG_EN 0 (raceHalf race) = 1 → v ∉ (s.race race).fills → s.fillWanted (32 * v + race) = true →
      let hx := s.hst (raceHalf race)
      (hoistFitted s.ld = false ∨ 32 * v + race ∈ hx.granted → (s.race race).fills.length < 4 →
          (s.race race).fill.isSome = true ∨ 2 ≤ (s.race race).wqRoom →
        Completes (.fillOpen race v) s (fun t => AtRace race s t ∧ t.clk = s.clk
          ∧ (t.race race).fill = some ((s.race race).fill.getD { v := v, at_ := s.now })
          ∧ (t.race race).fillQ = (if (s.race race).fill.isSome then (s.race race).fillQ ++ [v] else (s.race race).fillQ)))
      ∧ (hoistFitted s.ld = true → 32 * v + race ∉ hx.granted → 32 * v + race ∉ hx.asks →
        Completes (.fillOpen race v) s (fun t => t = s.setHst (raceHalf race) { hx with asks := hx.asks ++ [32 * v + race] })))
    ∧ (hoistFitted s.ld = true → race < 32 → (s.hst (raceHalf race)).asks.head? = some (32 * v + race) → s.brk.safe = false ∨ s.gov.drain = true →
        s.grantOk (raceHalf race) = true →
      Completes (.fillGrant race v) s (fun t => t = s.setHst (raceHalf race) { s.hst (raceHalf race) with
        asks := (s.hst (raceHalf race)).asks.tail, granted := (s.hst (raceHalf race)).granted ++ [32 * v + race] }))
    ∧ (∀ f, s.raceCmd race = true → (s.race race).fill = some f → f.doneA ≥ 512 → f.doneB ≥ 512 →
      Completes (.fillComplete race mc) s (fun t => t.pending = s.pending ∧ t.fuse = s.fuse ∧ t.clk = s.clkAt mc
        ∧ t.dram.wmap.find? (32 * f.v + race) = some true
        ∧ (∀ b, b ≠ 32 * f.v + race → t.dram.wmap.find? b = s.dram.wmap.find? b)
        ∧ t.dram.zeroed.find? (32 * f.v + race) = some (s.epochTag (raceHalf race))
        ∧ (∀ n, s.blockOf (n * 64) ≠ 32 * f.v + race → t.dram.cells.find? n = s.dram.cells.find? n)
        ∧ t.fheld Fld.QRN_WMAP_STAT_FILLS 0 (raceHalf race)
            = satAdd Fld.QRN_WMAP_STAT_FILLS.w (s.fheld Fld.QRN_WMAP_STAT_FILLS 0 (raceHalf race)) 1
        ∧ (let room := 2 ≤ ({ s.race race with fill := none } : Race).wqRoom
           (t.race race).fill = (if room then (s.race race).fillQ.head?.map (fun v => { v := v, at_ := s.at mc }) else none)
           ∧ (t.race race).fillQ = if room then (s.race race).fillQ.tail else (s.race race).fillQ)
        ∧ t.mods = s.mods ∧ t.hop = s.hop ∧ t.pond = s.pond ∧ t.flume = s.flume))
    ∧ (half < 2 → (s.qrn half).clearing = true → Completes (.wmapClearComplete half) s (fun t => t.pending = s.pending ∧ t.clk = s.clk
        ∧ (∀ b, b % 32 / 16 = half → t.dram.wmap.find? b = none) ∧ (∀ b, b % 32 / 16 ≠ half → t.dram.wmap.find? b = s.dram.wmap.find? b)
        ∧ t.fheld Fld.QRN_WMAP_CFG_CLEAR 0 half = 0 ∧ (t.qrn half).clearing = false
        ∧ ({ t with regs := s.regs, qrnE := s.qrnE, qrnW := s.qrnW, dram := s.dram } : State) = s))

/-- R287, R290 to R292, R294, R295, R302: Quern and Dresser. A piece that falls due while the last is not done counts in LAG and waits; a due piece
starts once the last is done and no cell of the priority queue waits: the position moves on, and of its 16 cells, where the block is written and its
race serves, each is read, still to be read, or left out because a store of it waits. The second read that has waited longest comes before a priority
scrub, which is queued as a read of its cell. The error window's end drops the pin counts and the rows not raised in it. The end of a burn writes the
fuse entry, good or with a CHK that fails, and reports it in LAST and as DRS_FUSE. The model's own reading or choice enters here by log entry 57. -/
def Obligations.ScrubAndBurnsEnd : Prop :=
  ∀ (s : State) (half : Nat), s.regs.wf = true →
    (half < 2 → s.scrubOn half = true →
      (let due := (s.qrn half).lastPiece + s.fget Fld.QRN_SCRUB_CFG_INTERVAL 0 half ≤ s.clk.age
       (due → (s.qrn half).waits = false → (s.qrn half).piece ≠ [] → (s.qrn half).unread = [] → Completes (.scrubPieceStart half) s (fun t =>
          t = (s.setQrn half { s.qrn half with lastPiece := s.clk.age, waits := true }).fadd Fld.QRN_SCRUB_STAT_LAG 1 0 half))
       ∧ (due ∨ (s.qrn half).waits = true → (s.qrn half).piece = [] → (s.qrn half).prio = [] → (s.qrn half).again = [] → Completes (.scrubPieceStart half) s (fun t =>
          let v := s.fheld Fld.QRN_SCRUB_STAT_V 0 half
          let p := s.fheld Fld.QRN_SCRUB_STAT_PIECE 0 half
          let cells := s.pieceCells half v p
          let x := s.race (s.place (cells.headD 0)).race
          Intact s t ∧ t.clk = s.clk ∧ t.pond = s.pond ∧ t.flume = s.flume ∧ t.hop = s.hop
          ∧ t.fheld Fld.QRN_SCRUB_STAT_PIECE 0 half = (p + 1) % 1024
          ∧ t.fheld Fld.QRN_SCRUB_STAT_V 0 half = (if p + 1 < 1024 then v else if v + 1 ≥ regionsOf s.ld then 0 else v + 1)
          ∧ (t.qrn half).waits = false ∧ (t.qrn half).prio = (s.qrn half).prio
          ∧ (∀ a ∈ (t.qrn half).piece, a ∈ cells)
          ∧ (s.isWritten (cells.headD 0) && !s.raceOff (s.place (cells.headD 0)).race && x.run
                && !x.sref.get false (s.place (cells.headD 0)).sid = false → (t.qrn half).piece = [])
          ∧ ∀ a ∈ (t.qrn half).piece, a ∉ (t.qrn half).unread → ∃ e ∈ (t.race (s.raceAt a)).rq, e.addr = a ∧ e.kind = .scrub))))
    ∧ (∀ e rest, half < 2 → s.scrubOn half = true → (s.qrn half).again = e :: rest → (s.race (s.raceAt e.1)).wqAt e.1 = none →
        (s.race (s.raceAt e.1)).inFau e.1 = false → (s.race (s.raceAt e.1)).rqFits 3 1 = true → s.bgRoom 3 ≠ 0 →
      Completes (.scrubPriorityCheck half) s (fun t => Intact s t ∧ t.clk = s.clk
        ∧ (t.qrn half) = { s.qrn half with again := rest }
        ∧ (∀ r, r ≠ s.raceAt e.1 → t.race r = s.race r) ∧ (t.race (s.raceAt e.1)).rq.length = (s.race (s.raceAt e.1)).rq.length + 1
        ∧ ∃ q ∈ (t.race (s.raceAt e.1)).rq, q.addr = e.1 ∧ q.retry = true ∧ q.kind = (if e.2 then RdKind.scrubPrio else RdKind.scrub)))
    ∧ (∀ a rest, half < 2 → s.scrubOn half = true → (s.qrn half).again = [] → (s.qrn half).prio = a :: rest → s.isWritten a = true →
        s.raceOff (s.raceAt a) = false → (s.race (s.raceAt a)).wqAt a = none → (s.race (s.raceAt a)).inFau a = false →
        (s.race (s.raceAt a)).rqFits 3 1 = true → s.bgRoom 3 ≠ 0 →
      Completes (.scrubPriorityCheck half) s (fun t => Intact s t ∧ t.clk = s.clk
        ∧ t.qrn half = { s.qrn half with prio := rest }
        ∧ (t.race (s.raceAt a)).rq = (s.race (s.raceAt a)).rq
            ++ [{ qid := (s.race (s.raceAt a)).nextQ, kind := .scrubPrio, id := 0, k := 0, addr := a, cls := 3, since := s.now }]
        ∧ (∀ r, r ≠ s.raceAt a → t.race r = s.race r) ∧ t.pond = s.pond ∧ t.flume = s.flume ∧ t.hop = s.hop))
    ∧ (half < 2 → s.clk.turn % (s.fget Fld.QRN_ERR_CFG_WINDOW 0 half * 65536) = 0 → (s.qrn half).winAt ≠ some s.clk.age →
      Completes (.errorWindowEnd half) s (fun t => ({ t with qrnE := s.qrnE, qrnW := s.qrnW } : State) = s
        ∧ t.qrn (1 - half) = s.qrn (1 - half)
        ∧ t.qrn half = { s.qrn half with pins := {}, pinHit := [], winAt := some s.clk.age
                                         rows := ((s.qrn half).rows.filter (fun e => e.fresh)).map (fun e => { e with fresh := false }) }))
    ∧ (∀ i w good, s.drs.burn = some (i, w) → Completes (.fuseBurnComplete good) s (fun t =>
        let u := ({ s with drs := { s.drs with burn := none }
                           fuse := { s.fuse with map := s.fuse.map.ins i (if good then w else badEntry w) } } : State).fset Fld.DRS_STAT_LAST
                   (if good then 1 else 2)
        t.fheld Fld.DRS_STAT_LAST = (if good then 1 else 2) ∧ (good = true → t = u)
        ∧ (good = false → t = u.raise Src.DRS_FUSE 0 i ∧ Raised u t)))

/-- R126, R303, R304: the isolation of a race, step by step. The decision closes the race and records it in DRS_ISOL, its fills and grants are gone
and its half notes the epoch for the headers; admission ends and the reservations on its cells are lost; its open reads are answered and leave the
queue; its stores are dropped; last its written-map bits are cleared. -/
def Obligations.IsolationGoesInSteps : Prop :=
  ∀ (s : State) (race : Nat), s.regs.wf = true → s.dram.wmap.wf = true → race < 32 →
    (race ∈ s.brk.isoDue → s.isolated race = false → Completes (.isolationDecision race) s (fun t => Intact s t ∧ t.clk = s.clk
      ∧ bit (t.fheld Fld.DRS_ISOL_ISOL) race = true ∧ (t.race race).isoAt = some s.clk.age ∧ (t.race race).run = false
      ∧ (t.race race).fill = none ∧ (t.race race).fillQ = [] ∧ (t.race race).grantA = [] ∧ (t.race race).grantB = [] ∧ (t.race race).grantR = []
      ∧ (t.hst (raceHalf race)).void.find? race = some (s.hst (raceHalf race)).epoch ∧ (t.hst (raceHalf race)).hdrDue = true
      ∧ OtherRaces race s t))
    ∧ (s.isoReached race 1 = true → (s.race race).isoOff = false → Completes (.isolationAdmitOff race) s (fun t =>
      t.race race = { s.race race with isoOff := true }
      ∧ (∀ r, r ≠ race → t.race r = s.race r)
      ∧ t.hop.resv = s.hop.resv.keep (fun _ r => !(decide (s.raceAt r.base = race)))
      ∧ ({ t with races := s.races, hop := { t.hop with resv := s.hop.resv } } : State) = s))
    ∧ (s.isoReached race 2 = true → (s.race race).isoReads = false → Completes (.isolationReadsOff race) s (fun t => Intact s t ∧ t.clk = s.clk
      ∧ t.race race = { s.race race with isoReads := true, rq := [] } ∧ (∀ r, r ≠ race → t.race r = s.race r)
      ∧ t.pond = s.pond ∧ t.flume = s.flume ∧ t.hop.resv = s.hop.resv
      ∧ (s.hop.reqs.wf = true → ∀ id q, t.hop.reqs.find? id = some q → q.race = race → q.opc = Opc.rd ∨ q.opc = Opc.rdx → q.open_ = false)))
    ∧ ((s.isoAge race).isSome = true → (s.race race).isoDrop = false → Completes (.isolationStoreDrop race) s (fun t => Intact s t ∧ t.clk = s.clk
      ∧ (t.race race).isoDrop = true ∧ (t.race race).wq = [] ∧ (t.race race).fau = [] ∧ (t.race race).flights = []
      ∧ t.pond = s.pond.filter (fun e => e.race ≠ race) ∧ t.flume = s.flume.filter (fun e => e.race ≠ race)
      ∧ ∀ r, r ≠ race → (t.race r).wq = (s.race r).wq ∧ (t.race r).fau = (s.race r).fau ∧ (t.race r).banks = (s.race r).banks))
    ∧ (s.isoReached race 64 = true → (s.race race).isoDone = false → Completes (.isolationFinal race) s (fun t =>
      t.race race = { s.race race with isoDone := true, isoAt := none } ∧ (∀ r, r ≠ race → t.race r = s.race r)
      ∧ (∀ b, b % 32 = race → t.dram.wmap.find? b = none) ∧ (∀ b, b % 32 ≠ race → t.dram.wmap.find? b = s.dram.wmap.find? b)
      ∧ t.dram.cells = s.dram.cells ∧ ({ t with races := s.races, dram := s.dram } : State) = s))

/-- R264 to R267: Fantail starts the full training of the next race of its half, in order of number and PAR at once; a training with no failed lane
and no bad window passes: RESULT 1, tracking from here with counts at zero, refresh on; one with a bad window fails: RESULT 3, state FAIL. R268 to
R273: tracking. A probe result ends the wait for it, and a centre whose two probes differ moves by one step toward the passing side, into the waiting
list; it enters its delay field when no data moves for its SID, in a later Turn than its decision; a round that takes twice its length is a lag,
counted and raised. The model's own reading or choice enters here by log entries 40, 55. -/
def Obligations.TrainingRuns : Prop :=
  (∀ (s : State) (race : Nat) (failed : List LanePos), s.regs.wf = true → race < 32 → s.raceRuns race = true →
    ((s.boot.trainQ.filter (fun r => raceHalf r = raceHalf race)).head? = some race →
        (s.training (raceHalf race)).length < s.fget Fld.FAN_CFG_PAR 0 (raceHalf race) → (s.ld.trainWait = true → s.fheld Fld.MIL_BOOT_GO = 1) →
      Completes (.fullTraining race) s (fun t => t.fheld Fld.SPIN_STAT_STATE race = 1 ∧ t.fheld Fld.SPIN_STAT_STEP race = 1
        ∧ (t.race race).tr.trainAt = some s.clk.age ∧ t.boot = { s.boot with trainQ := s.boot.trainQ.filter (· ≠ race) }
        ∧ (∀ r, r ≠ race → t.race r = s.race r) ∧ ({ t with regs := s.regs, races := s.races, boot := s.boot } : State) = s))
    ∧ (∀ badWindow, (s.race race).tr.trainAt.isSome = true →
        let o := applyLanes (s.raw .SPIN_REPAIR (Reg.key .SPIN_REPAIR race 0)).toNat
          (fun g pr => (failed.filter (fun l => l.group = g ∧ l.pr = pr)).map (fun l => l.pos))
        let fails := o.fatal || badWindow
      Completes (.trainingComplete race failed badWindow) s (fun t => Intact s t ∧ t.clk = s.clk ∧ (t.race race).tr.trainAt = none
        ∧ (t.race race).refOn = true ∧ (t.race race).tr.dead = o.dead ∧ t.fheld Fld.SPIN_STAT_STEP race = 0
        ∧ t.raw .SPIN_REPAIR (Reg.key .SPIN_REPAIR race 0) = BitVec.ofNat 64 o.word
        ∧ t.fheld Fld.SPIN_STAT_RESULT race = (if fails then 3 else if o.dead.isEmpty then 1 else 2)
        ∧ t.fheld Fld.SPIN_STAT_STATE race = (if fails then 5 else s.trackState race)
        ∧ (fails = false → (t.race race).tr.failing = {} ∧ (t.race race).tr.roundAt = s.clk.age) ∧ OtherRaces race s t)))
  ∧ (∀ (s : State) (race pr sid dir : Nat) (lo hi : BitVec 42), s.regs.wf = true → race < 32 →
    ((pr * 4 + sid) * 2 + dir ∈ (s.race race).tr.await → s.fheld Fld.SPIN_STAT_STATE race = 2 →
      Completes (.probeResult race pr sid dir lo hi) s (fun t => Intact s t ∧ t.clk = s.clk
        ∧ (t.race race).tr.await = (s.race race).tr.await.erase ((pr * 4 + sid) * 2 + dir)
        ∧ (lo = hi → (t.race race).tr.pendC = (s.race race).tr.pendC ∧ (t.race race).tr.pendT = (s.race race).tr.pendT)
        ∧ ∀ i, i < (if dir = 0 then 42 else 40) →
            let key := ((pr * 4 + sid) * 2 + dir) * 48 + i
            (bit hi.toNat i = true → bit lo.toNat i = false → s.centre race key < 127 →
                (t.race race).tr.pendC.find? key = some (s.centre race key + 1))
            ∧ (bit lo.toNat i = true → bit hi.toNat i = false → 0 < s.centre race key →
                (t.race race).tr.pendC.find? key = some (s.centre race key - 1))))
    ∧ (∀ a, (s.race race).hist.all (fun c => !(c.cmd.isCol && c.pr = pr && c.sid = sid && decide (c.ds ≤ s.now)
          && decide (s.now < c.ds + tBURST))) = true →
        (s.race race).tr.pendT.find? (pr * 4 + sid) = some a → s.clk.age > a →
      Completes (.centreApply race pr sid) s (fun t => Intact s t ∧ t.clk = s.clk
        ∧ (t.race race).tr.pendT = (s.race race).tr.pendT.del (pr * 4 + sid)
        ∧ (t.race race).tr.pendC = (s.race race).tr.pendC.keep (fun k _ => k / 96 ≠ pr * 4 + sid)
        ∧ (pr < 2 → sid < 4 → (s.race race).tr.pendC.wf = true → ∀ key v, (s.race race).tr.pendC.find? key = some v → key / 96 = pr * 4 + sid →
            v < 128 → bits (t.raw .SPIN_DLY (dlyKey race pr sid (key / 48 % 2) (key % 48 / 8))).toNat (8 * (key % 8)) 7 = v)
        ∧ (∀ r, r ≠ race → t.race r = s.race r) ∧ ({ t with regs := s.regs, races := s.races } : State) = s))
    ∧ (s.fheld Fld.SPIN_STAT_STATE race = 2 → s.isolated race = false → (s.race race).tr.roundDone = false → (s.race race).tr.lagged = false →
        s.clk.age > (s.race race).tr.roundAt + 2 * s.fget Fld.FAN_CFG_ROUND 0 (raceHalf race) →
      Completes (.trackingLag race) s (fun t => Intact s t ∧ t.clk = s.clk
        ∧ t = ((s.setRace race { s.race race with tr := { (s.race race).tr with lagged := true } }).fadd Fld.SPIN_STAT_LAG 1 race).raise
            Src.FAN_LAG (raceHalf race) 0
        ∧ t.fheld Fld.SPIN_STAT_LAG race = satAdd Fld.SPIN_STAT_LAG.w (s.fheld Fld.SPIN_STAT_LAG race) 1)))

/-- R274 to R278: runtime retraining. The first race of the half's queue that can be retrained stops its traffic and keeps its settings. At its end
its FAN_CTRL bit is clear and the half's engine free, and service waits for the next Turn boundary; after its repair step SPIN_REPAIR holds the lanes
as repaired or left, and SPIN_STAT shows the result and tracking, or FAIL. Alert aborts it: the kept settings and lane map come back and ABORTED is
set. After a wake, the resume check of a race ends with its probe round: it goes on to tracking, or, where a position in use failed both probes, to a
runtime retraining, at once or when the half is free. The model's own reading or choice enters here by log entries 55, 102. -/
def Obligations.RetrainingRuns : Prop :=
  ∀ (s : State) (half r : Nat), s.regs.wf = true → half < 2 → r < 32 → raceHalf r = half →
    (∀ missed errs, (s.fan half).queue.find? (fun r => s.canRetrain r) = some r → (s.fan half).running = none → s.brk.safe = false → s.gov.alert = false →
      Completes (.retrainStart half missed errs) s (fun t => Intact s t ∧ t.clk = s.clk ∧ (t.fan half).running = some r
        ∧ (t.fan half).queue = (s.fan half).queue.filter (· ≠ r) ∧ t.fheld Fld.SPIN_STAT_STATE r = 3
        ∧ (t.race r).tr.retrain = true ∧ (t.race r).tr.hold = true ∧ (t.race r).tr.retrainAt = s.clk.age
        ∧ (t.race r).tr.saved = s.saveSettings r ∧ (t.race r).tr.savedDead = (s.race r).tr.dead
        ∧ ∀ q, q ≠ r → t.race q = s.race q))
    ∧ (∀ failed badWindow, (s.fan half).running = some r → s.brk.safe = false → s.raceRuns r = true →
      Completes (.retrainComplete half failed badWindow) s (fun t => t.pending = s.pending ∧ t.fuse = s.fuse ∧ t.clk = s.clk
        ∧ (t.fan half).running = none ∧ bit (t.fheld Fld.FAN_CTRL_RETRAIN 0 half) (r % 16) = false
        ∧ (t.race r).tr.saved = {} ∧ (t.race r).tr.hold = true ∧ (t.race r).tr.retrain = false
        ∧ ((s.race r).tr.repaired = true →
            let o := applyLanes (s.raw .SPIN_REPAIR (Reg.key .SPIN_REPAIR r 0)).toNat (fun g pr =>
              deadIn (s.race r).tr.dead g pr ++ (failed.filter (fun l => l.group = g ∧ l.pr = pr)).map (fun l => l.pos))
            let fails := o.fatal || badWindow
            t.dram = s.dram ∧ t.raw .SPIN_REPAIR (Reg.key .SPIN_REPAIR r 0) = BitVec.ofNat 64 o.word ∧ (t.race r).tr.dead = o.dead
            ∧ t.fheld Fld.SPIN_STAT_RESULT r = (if fails then 3 else if o.dead.isEmpty then 1 else 2)
            ∧ t.fheld Fld.SPIN_STAT_STATE r = (if fails then 5 else s.trackState r)
            ∧ OtherRaces r s t)))
    ∧ ((s.fan half).running = some r → s.gov.alert = true →
      Completes (.retrainAbort half) s (fun t => Intact s t ∧ t.clk = s.clk ∧ (t.fan half).running = none
        ∧ t.fheld Fld.SPIN_STAT_ABORTED r = 1 ∧ t.fheld Fld.SPIN_STAT_STATE r = s.trackState r
        ∧ t.raw .SPIN_REPAIR (Reg.key .SPIN_REPAIR r 0) = ((s.race r).tr.saved.find? (Reg.key .SPIN_REPAIR r 0)).getD 0
        ∧ (∀ p, p < 2 → ∀ w, (s.race r).tr.saved.find? (sidKey r p) = some w → t.raw .SPIN_SID (sidKey r p) = w)
        ∧ (t.race r).tr.dead = (s.race r).tr.savedDead ∧ (t.race r).tr.saved = {} ∧ (t.race r).tr.retrain = false ∧ (t.race r).tr.hold = false
        ∧ OtherRaces r s t))
    ∧ (s.fheld Fld.SPIN_STAT_STATE r = 4 → s.raceRuns r = true → s.roundOver r = true → r ∉ (s.fan half).queue →
      ((s.race r).tr.checkFail = false → Completes (.resumeCheck r false) s (fun t => Intact s t ∧ t.clk = s.clk
        ∧ t.fheld Fld.SPIN_STAT_STATE r = s.trackState r ∧ t.fheld Fld.SPIN_STAT_ROUNDS r = (s.fheld Fld.SPIN_STAT_ROUNDS r + 1) % 2 ^ Fld.SPIN_STAT_ROUNDS.w
        ∧ (t.race r).tr.hold = false ∧ (t.race r).tr.failing = {} ∧ (t.race r).tr.roundAt = s.clk.age
        ∧ (∀ q, q ≠ r → t.race q = s.race q) ∧ ({ t with regs := s.regs, races := s.races } : State) = s))
      ∧ ((s.race r).tr.checkFail = true → (s.fan half).running ≠ some r → Completes (.resumeCheck r true) s (fun t => Intact s t ∧ t.clk = s.clk
        ∧ bit (t.fheld Fld.FAN_CTRL_RETRAIN 0 half) (r % 16) = true ∧ (∀ q, q ≠ r → t.race q = s.race q)
        ∧ ((s.fan half).running = none → s.brk.safe = false → s.gov.alert = false →
            (t.fan half).running = some r ∧ t.fheld Fld.SPIN_STAT_STATE r = 3 ∧ (t.race r).tr.hold = true)
        ∧ ((s.fan half).running ≠ none ∨ s.brk.safe = true ∨ s.gov.alert = true →
            (t.fan half).queue = (s.fan half).queue ++ [r] ∧ (t.fan half).running = (s.fan half).running ∧ t.race r = s.race r))))

/-- R311, R314, R315, R318, R331, R337: Hoist's drive commands. Write-behind with an empty stage takes the next chunk: dirty pages of it, and only of
it, leave the dirty map and count as in flight; relocation work goes on by 64 pages. A Write that completes puts its pages on the drive at their
logical blocks and out of flight; one that fails gives them back; either way the command leaves the list. A command times out after IO_TMO, a Flush or
Get Log Page outside a drain after 1 s; the drive is reset once and its commands start anew; the second time within 1,000 ms, or in a drain, it is
lost, with HST_DRIVE. A rate window counts where the queue was deep throughout, and the rates are the lowest of the last 16. The model's own reading
or choice enters here by log entries 11, 56. -/
def Obligations.DriveCommandsRun : Prop :=
  ∀ (s : State) (half port cid v : Nat), half < 2 → port < 8 → hoistFitted s.ld = true →
    (∀ reloc, s.nextChunk half = some (v, reloc) → s.writesBehind half = true → s.mayStage half v = true → (s.hst half).stage = [] →
        (s.hst half).dirty.wf = true →
      Completes (.writeBehindIssue half) s (fun t => Intact s t ∧ t.clk = s.clk ∧ t.mods = s.mods ∧ t.hop = s.hop ∧ t.pond = s.pond
        ∧ t.flume = s.flume ∧ t.hst (1 - half) = s.hst (1 - half)
        ∧ (reloc = true → (t.hst half).exposed.get 0 v = (s.hst half).exposed.get 0 v + 64)
        ∧ (reloc = false → (∀ p, (t.hst half).dirty.find? p ≠ (s.hst half).dirty.find? p → p ∈ s.chunkPages half v ∧ p ∈ (t.hst half).inflight)
            ∧ ((∃ p ∈ s.chunkPages half v, (s.hst half).ready p = true) →
                ∃ p ∈ s.chunkPages half v, (s.hst half).ready p = true ∧ (t.hst half).dirty.find? p = none))))
    ∧ (∀ c good, (s.hst (port / 4)).cmdAt port cid = some c → (s.hst (port / 4)).live (port % 4) = true →
      Completes (.driveCommandComplete port cid good) s (fun t =>
        let x := s.hst (port / 4)
        let y := { x with cmds := x.cmds.filter (fun o => !(o.port = port ∧ o.cid = cid)) }.depths s.clk.age
        Intact s t ∧ t.clk = s.clk ∧ (t.hst (port / 4)).cmds = x.cmds.filter (fun o => !(o.port = port ∧ o.cid = cid))
        ∧ (good = false → t = (s.setHst (port / 4) (y.unissue c)).ceilCause (port / 4))
        ∧ (good = true → c.kind ≠ 0 → t = (s.setHst (port / 4) y).ceilCause (port / 4))
        ∧ (good = true → c.kind = 0 →
            ((t.hst (port / 4)).drive (port % 4)).pages
              = c.pages.zipIdx.foldl (fun (u : Tbl PageRec) e => u.ins (c.lba + e.2) e.1.2) (x.drive (port % 4)).pages
            ∧ (t.hst (port / 4)).inflight = (if c.reloc then x.inflight else (c.pages.map Prod.fst).foldl List.erase x.inflight)
            ∧ (t.hst (port / 4)).dirty = x.dirty)))
    ∧ (∀ c, (s.hst (port / 4)).cmdAt port cid = some c → s.clk.age ≥ c.since + s.timeoutOf c →
      (let x := s.hst (port / 4)
       let d := x.drive (port % 4)
       let again := ∃ a, d.ctrlReset = some a ∧ s.clk.age < a + msTurns 1000
       (c.kind ≤ 2 ∨ x.st = .drain → s.timeoutOf c = msTurns (s.fheld Fld.HST_CFG_IO_TMO))
       ∧ (2 < c.kind → x.st ≠ .drain → s.timeoutOf c = msTurns 1000)
       ∧ (x.st ≠ .drain → ¬ again → Completes (.driveCommandTimeout port cid) s (fun t => Intact s t
          ∧ ({ t with hstE := s.hstE, hstW := s.hstW } : State) = s ∧ t.hst (1 - port / 4) = s.hst (1 - port / 4)
          ∧ t.hst (port / 4) = { x.setDrive (port % 4) { d with ctrlReset := some s.clk.age } with
              cmds := mapIf (fun o => o.port = port && !o.sub) (fun o => { o with since := s.clk.age }) x.cmds }))
       ∧ (x.st = .drain ∨ again → d.lost = false → Completes (.driveCommandTimeout port cid) s (fun t => Intact s t ∧ t.clk = s.clk
          ∧ t = s.loseDrive port ∧ ((t.hst (port / 4)).drive (port % 4)).lost = true ∧ ((t.hst (port / 4)).drive (port % 4)).up = false
          ∧ (t.hst (port / 4)).lostOrder = x.lostOrder ++ [port % 4] ∧ (∀ o ∈ (t.hst (port / 4)).cmds, o.port ≠ port)
          ∧ (s.raiseSeen { src := Src.HST_DRIVE, inst := port, detail := 0 } = true → s.regs.wf = true →
              bit (t.fheld Fld.BRK_SRC_STAT_PEND Src.HST_DRIVE) port = true)))))
    ∧ (∀ wr rd, (s.hst (port / 4)).live (port % 4) = true → s.clk.turn % 65536 = 0 → ((s.hst (port / 4)).drive (port % 4)).winAt ≠ some s.clk.age →
      Completes (.driveRateWindow port wr rd) s (fun t =>
        let d := (s.hst (port / 4)).drive (port % 4)
        let e := (t.hst (port / 4)).drive (port % 4)
        let deep := fun b : Option Nat => ∃ a, b = some a ∧ s.clk.age ≥ a + 65536
        Intact s t ∧ t.clk = s.clk ∧ e.winAt = some s.clk.age ∧ (t.hst (port / 4)).cmds = (s.hst (port / 4)).cmds
        ∧ (deep d.wrBusy → e.wr16 = (max 1 (min 255 wr) :: d.wr16).take 16 ∧ e.wr16.min? = some e.wr)
        ∧ (deep d.rdBusy → e.rd16 = (max 1 (min 255 rd) :: d.rd16).take 16 ∧ e.rd16.min? = some e.rd)
        ∧ (d.wrBusy = none → e.wr16 = d.wr16) ∧ (d.rdBusy = none → e.rd16 = d.rd16)))

/-- R312, R313, R320, R329, R333 to R336: Hoist's events. Headroom gone for 65,536 Turns raises HST_PRESS; the epoch advances by one modulo 2^32
unless data is six epochs behind; a parity error of the dirty map starts the resync scan, which reads on and ends once it is read out; a drain or
flush with nothing left to copy seals the image with a header on every live drive; a chunk asked for on demand, with room for its reads, is LOADING
with its four reads submitted; a restored chunk with no half left to write is DONE. R321, R333, R334: attach and load. A drive that is ready is up,
unless it is unfit for R321 or the image names it lost; one not ready for 1,000 ms is lost; at MIL_BOOT.GO the load starts: every chunk of the image
is to be restored, with a kept image none. The model's own reading or choice enters here by log entries 11, 59. -/
def Obligations.HoistTakesForce : Prop :=
  (∀ (s : State) (half v : Nat), half < 2 → hoistFitted s.ld = true →
    (let x := s.hst half
     (∀ a, x.pressRaised = false → x.noHeadroom = true → x.zeroSince = some a → s.clk.age ≥ a + 65536 →
      Completes (.headroomPress half) s (fun t => t = (s.setHst half { x with pressRaised := true }).raise Src.HST_PRESS half 0
        ∧ Raised (s.setHst half { x with pressRaised := true }) t))
    ∧ (s.hoistOn half = true → x.advAt ≠ some s.clk.age → s.clk.turn % 65536 = 0 ∨ x.advanceHeld = true →
      ((∃ e ∈ x.openEpochs, e + 6 ≤ x.epoch) → Completes (.epochAdvance half) s (fun t => t = s.setHst half { x with advanceHeld := true }))
      ∧ ((∀ e ∈ x.openEpochs, x.epoch < e + 6) → Completes (.epochAdvance half) s (fun t =>
          (t.hst half).epoch = (x.epoch + 1) % 2 ^ 32 ∧ (t.hst half).advanceHeld = false ∧ (t.hst half).advAt = some s.clk.age
          ∧ (t.hst half).dirty = x.dirty ∧ (t.hst half).oldest = x.oldest ∧ (x.headerOpen = true → (t.hst half).seq = x.seq + 1)
          ∧ t.hst (1 - half) = s.hst (1 - half) ∧ ({ t with hstE := s.hstE, hstW := s.hstW } : State) = s)))
    ∧ (s.hoistOn half = true → x.resync = false → Completes (.dirtyMapParityError half) s (fun t =>
        let u := s.setHst half { x with resync := true, scan := s.scanHalves half, scanAt := 0, scanning := []
                                        scanTags := tagWindow (s.lastCommit half) x.epoch }
        t = u.raise Src.HST_MAP half 0 ∧ Raised u t))
    ∧ (x.resync = true → s.brk.safe = false ∨ s.gov.drain = true →
      (x.scan ≠ [] → Completes (.resyncComplete half) s (fun t => Intact s t ∧ t.clk = s.clk ∧ (t.hst half).resync = true
        ∧ ∀ r, ∃ l, (t.race r).rq = (s.race r).rq ++ l))
      ∧ (x.scan = [] → x.scanning.filter (fun a => s.halfLive a) = [] → Completes (.resyncComplete half) s (fun t =>
        Intact s t ∧ t.clk = s.clk ∧ (t.hst half).resync = false ∧ (t.hst half).dirty = x.dirty
        ∧ t = ((s.setHst half { x with resync := false, scanning := [] }).causeOff Src.HST_MAP half).ceilCause half)))
    ∧ (s.copied half = true → x.st = .drain ∨ (x.st = .flush ∧ x.sealing = true ∧ x.sNow = 0) →
      Completes (.hoistSeal half) s (fun t => (t.hst half).st = .sealed ∧ (t.hst half).headerOpen = false
        ∧ (t.hst half).dirty = {} ∧ (t.hst half).oldest = {} ∧ (t.hst half).seq = x.seq + 1
        ∧ (∀ i, i < s.nh → x.live i = true → (∃ d, (((t.hst half).drive i).hdrA = some d ∨ ((t.hst half).drive i).hdrB = some d) ∧ d.state = 3 ∧ d.seq = x.seq + 1)
            ∧ ((t.hst half).drive i).bmap = s.bmapOf half)
        ∧ ({ t with hstE := s.hstE, hstW := s.hstW, tlyE := s.tlyE, tlyW := s.tlyW } : State) = s))
    ∧ (x.chunks.find? v = some .pending → x.headerOpen = true → x.st = .serve ∨ x.st = .alert ∨ (x.st = .drain ∧ v ∈ x.held) →
        s.chunkWanted half v = true → s.mayRead half v 2 = true → s.brk.safe = false ∨ s.gov.drain = true →
      Completes (.demandFillIssue half v) s (fun t => (t.hst half).chunks.find? v = some .loading
        ∧ (∀ w, w ≠ v → (t.hst half).chunks.find? w = x.chunks.find? w) ∧ (t.hst half).demanded = x.demanded ++ [v]
        ∧ (∀ i j, x.home s.nh v = some (i, j) → (t.hst half).cmds = x.cmds ++ (List.range 4).map (fun k =>
              { cid := x.nextCid + k, port := 4 * half + i, kind := 2, v := v, lba := slotLba j (64 * k), since := s.clk.age, sub := true }))
        ∧ t.hst (1 - half) = s.hst (1 - half) ∧ ({ t with hstE := s.hstE, hstW := s.hstW } : State) = s))
    ∧ (∀ good, x.chunks.find? v = some .loading → x.readsOf v = [] →
        (if s.gov.drain then decide (v ∈ x.held) else !s.brk.safe) = true →
      Completes (.chunkRestoreComplete half v good) s (fun t => t.pending = s.pending ∧ t.fuse = s.fuse ∧ t.clk = s.clk
        ∧ t.dram.cells = s.dram.cells ∧ t.pond = s.pond ∧ t.flume = s.flume
        ∧ (∀ j, x.jobs.find? v = some j → j.left = [] → j.redo = [] → x.chunks.wf = true →
            (t.hst half).chunks.find? v = none ∧ v ∉ (t.hst half).held
            ∧ (t.hst half).lostChunks = x.lostChunks + (if (j.poison || !j.good) && !j.again then 1 else 0))))))
  ∧ (∀ (s : State) (half port : Nat) (ready : List DriveId), half < 2 → hoistFitted s.ld = true →
    (let x := s.hst half
     (s.domainOn (64 + half) = true → s.gov.ps = .run → s.gov.pads = false →
        x.st = .attach ∨ ((x.st = .serve ∨ x.st = .steady) ∧ x.headerOpen = false) →
      Completes (.hoistAttach half ready) s (fun t => Intact s t ∧ t.clk = s.clk
        ∧ (∀ i ∈ ready, i.port / 4 = half → portFitted s.ld i.port = true → (x.drive (i.port % 4)).lost = false →
            let d := (t.hst half).drive (i.port % 4)
            d.up = true ∨ d.lost = true ∨ d.unfit = true)
        ∧ (∀ i, ready = [i] → i.port / 4 = half → portFitted s.ld i.port = true → x.st = .attach → x.keptImage = false →
            (x.drive (i.port % 4)).lost = false → (x.drive (i.port % 4)).up = false → (x.drive (i.port % 4)).unfit = false →
            let d := (t.hst half).drive (i.port % 4)
            (i.meets = true → s.ownLbas ≤ i.lbas → d.unfit = false ∧ (d.up = true ∨ d.lost = true))
            ∧ (i.meets = false ∨ i.lbas < s.ownLbas → d.unfit = true ∧ d.up = false))
        ∧ (x.st ≠ .attach → (∀ i, i < s.nh → (x.drive i).up = true ∨ (x.drive i).lost = true) → (t.hst half).headerOpen = true)))
    ∧ (x.st = .attach → x.judged = true → s.fheld Fld.MIL_BOOT_GO = 1 → s.gov.drain = false →
      Completes (.hoistLoadStart half) s (fun t => t.pending = s.pending ∧ t.fuse = s.fuse ∧ t.clk = s.clk ∧ t.dram.cells = s.dram.cells
        ∧ (t.hst half).st = .load ∧ (t.hst half).totalChunks = s.regions
        ∧ (x.keptImage = true → (t.hst half).chunks = {} ∧ t.dram = s.dram)
        ∧ (x.keptImage = false → ∀ w ∈ s.imageChunks half,
            (t.hst half).chunks.find? w = some .pending ∨ (t.hst half).chunks.find? w = some .loading))))
    ∧ (port < 8 → portFitted s.ld port = true → s.domainOn (64 + port / 4) = true →
        (let x := s.hst (port / 4)
         (x.drive (port % 4)).up = false → (x.drive (port % 4)).lost = false → (x.drive (port % 4)).unfit = false →
         x.st = .attach ∨ ((x.st = .serve ∨ x.st = .steady) ∧ x.headerOpen = false) → s.clk.age ≥ x.attachAt + msTurns 1000 →
      Completes (.driveAttachTimeout port) s (fun t => Intact s t ∧ t.clk = s.clk
        ∧ ((t.hst (port / 4)).drive (port % 4)).lost = true ∧ ((t.hst (port / 4)).drive (port % 4)).up = false))))

/-- R394, R398 to R400, R405: the snapshot takes, for each half, the counters and heat counts that its boundary latched, at one Turn: heat levels rise
and decay, a record that has not ended is abandoned and counted, and a record begins where the ring is on and Hoist and the Brake let stores through.
Each stage of a record whose cells no applied atomic and no Flume entry holds puts them into Millpond in order, where BG's budget and Millpond admit
them all; the last ends the record; one whose cell lies in an isolated race is abandoned. R397, R403, R404: the counts of a bandwidth window that has
ended are loaded into the bandwidth registers; a capture that completes sets VALID with its latency and interrupts the half's core; the low read of a
counter latches its high half. The model's own reading or choice enters here by log entries 48, 58, 66, 109. -/
def Obligations.TallyRecordsAndWindows : Prop :=
  (∀ (s : State) (half : Nat), s.regs.wf = true → half < 2 → s.mainsOn = true →
    (s.clk.turn % 65536 = 0 → Completes .tallySnapshot s (fun t => Intact s t ∧ t.clk = s.clk
      ∧ ({ t with regs := s.regs, tlyE := s.tlyE, tlyW := s.tlyW } : State) = s
      ∧ ((s.tly half).latch = none → t.tly half = s.tly half)
      ∧ (∀ l, (s.tly half).latch = some l →
          let en := s.fheld Fld.TLY_CFG_RING_EN 0 half = 1
          let busy := (s.tly half).stage ≠ 0
          let may := s.storesShut half = false ∧ s.brk.safe = false
          (t.tly half).snap = l.1 ∧ (t.tly half).snapTurn = s.clk.turn ∧ (t.tly half).latch = none
          ∧ (t.tly half).ring = s.raw .TLY_RING (Reg.key .TLY_RING 0 half)
          ∧ (∀ v, (t.tly half).heat.get 0 v
              = (let h := (s.tly half).heat.get 0 v
                 max (heatAct (l.2.get 0 v)) (h - min h (s.fget Fld.TLY_CFG_DECAY 0 half))))
          ∧ ((t.tly half).stage = 1 ↔ en ∧ may) ∧ (¬ (en ∧ may) → (t.tly half).stage = 0)
          ∧ (¬ en ∨ may → t.fheld Fld.TLY_STAT_MISSED 0 half = (if busy then satAdd Fld.TLY_STAT_MISSED.w (s.fheld Fld.TLY_STAT_MISSED 0 half) 1
              else s.fheld Fld.TLY_STAT_MISSED 0 half)))))
    ∧ ((s.tly half).stage ∈ [1, 2, 3] → s.brk.safe = false → s.storesShut half = false →
        (let cs := ((s.tly half).stageCells half).drop (s.tly half).put
         ((∃ c ∈ cs, s.raceOff (s.raceAt c.1) = true) → Completes (.tallyDumpStage half) s (fun t => Intact s t ∧ t.clk = s.clk ∧ t.pond = s.pond
            ∧ (t.tly half).stage = 0 ∧ (t.tly half).recSeq = (s.tly half).recSeq
            ∧ t.fheld Fld.TLY_STAT_MISSED 0 half = satAdd Fld.TLY_STAT_MISSED.w (s.fheld Fld.TLY_STAT_MISSED 0 half) 1))
         ∧ ((∀ c ∈ cs, s.raceOff (s.raceAt c.1) = false ∧ (s.splitNow = true → raceHalf (s.raceAt c.1) = half)) →
            (∀ c ∈ cs, ∀ e ∈ s.pond, e.amo = true → e.vis ≠ 0 → e.addr ≠ c.1) →
            (∀ c ∈ cs, ∀ e ∈ s.flume, e.blk = c.1 / 256 → e.mask.find? (c.1 / 64 % 4) = none) → cs.length ≤ s.bgRoom 3 → s.pond.length + cs.length ≤ 8192 - 32 → Completes (.tallyDumpStage half) s (fun t => Intact s t ∧ t.clk = s.clk
            ∧ t.pond.map (fun e => (e.addr, e.data, e.tally)) = s.pond.map (fun e => (e.addr, e.data, e.tally)) ++ cs.map (fun c => (c.1, c.2, true))
            ∧ t.hop.reqs = s.hop.reqs ∧ (t.tly half).put = 0 ∧ t.bgRoom 3 = s.bgRoom 3 - cs.length
            ∧ ((s.tly half).stage < 3 → (t.tly half).stage = (s.tly half).stage + 1 ∧ (t.tly half).recSeq = (s.tly half).recSeq)
            ∧ ((s.tly half).stage = 3 → (t.tly half).stage = 0 ∧ (t.tly half).recSeq = (s.tly half).recSeq + 1
                ∧ t.fheld Fld.TLY_STAT_SEQ 0 half = (s.tly half).recSeq % 2 ^ 32))))))
  ∧ (∀ (s : State) (half mc id bank i : Nat), s.regs.wf = true → half < 2 →
    (∀ w, s.mainsOn = true → (s.tly half).bwLatch = some w →
      Completes (.bandwidthWindowEnd half) s (fun t => Intact s t ∧ t.clk = s.clk ∧ t.fheld Fld.TLY_STAT_BWVALID 0 half = 1
        ∧ (∀ j, j < 10 → t.raw .TLY_BW_MOD (Reg.key .TLY_BW_MOD j half) = bwWord ((w.getD 0 {}).get 0 j) ((w.getD 1 {}).get 0 j))
        ∧ (∀ j, j < 64 → t.raw .TLY_BW_GRP (Reg.key .TLY_BW_GRP j half) = bwWord ((w.getD 2 {}).get 0 j) ((w.getD 3 {}).get 0 j))
        ∧ t.tly half = { s.tly half with bwLatch := none } ∧ t.tly (1 - half) = s.tly (1 - half)
        ∧ ({ t with regs := s.regs, tlyE := s.tlyE, tlyW := s.tlyW } : State) = s))
    ∧ (s.mainsOn = true → (s.tly half).sampReq = some id → s.sampDone id = true →
      Completes (.sampleCapture half mc) s (fun t => Intact s t ∧ t.clk = s.clkAt mc ∧ (t.tly half).sampReq = none
        ∧ t.fheld Fld.TLY_SAMP1_VALID 0 half = 1 ∧ t.fheld Fld.TLY_SAMP1_LAT 0 half = min 32767 (s.at mc - (s.tly half).sampLand)
        ∧ t.out.irq = (half, irqSample, 0) :: s.out.irq ∧ t.hop = s.hop ∧ t.mods = s.mods ∧ t.races = s.races))
    ∧ (s.domainOn (70 + half) = true → i < bankSize bank →
      Completes (.tlyCntLowRead half bank i) s (fun t => Intact s t ∧ t.clk = s.clk ∧ t.regs = s.regs
        ∧ t.reply = { mstat := St.ok, val := BitVec.ofNat 64 (s.cntOf half bank i % 2 ^ 32) }
        ∧ t.cntHigh half bank i = s.cntOf half bank i / 2 ^ 32 ∧ (t.tly half).cnt = (s.tly half).cnt)))

/-- R379, R380, R382 to R390: a raise that the Brake sees sets its PEND bit and enters the history with its Turn and number, or counts in OVF while
the ring is frozen, and severity 4 gives the safe state; a raise that the Brake does not see does nothing; a pair whose rails are equal is marked
broken and raises BRK_WIRE with the pair in DETAIL, its own source acting beside it where its severity is 4; rails unequal again leave the pair
broken, and the cause of the BRK_WIRE raise that named it ends. The model's own reading or choice enters here by log entries 23, 26. -/
def Obligations.PairsRaiseAndBreak : Prop :=
  ∀ (s : State) (src inst detail : Nat), s.regs.wf = true →
    let e : RaiseEv := { src := src, inst := inst, detail := detail }
    (s.pairLive src inst = true → Completes (.brakeRaise src inst detail) s (fun t => Raised s t
      ∧ (s.raiseSeen e = true → bit (t.fheld Fld.BRK_SRC_STAT_PEND src) inst = true
          ∧ (s.evSev e = 4 → t.brk.safe = true)
          ∧ (s.fheld Fld.BRK_HIST_STAT_FROZEN = 1 → t.fheld Fld.BRK_HIST_STAT_OVF = satAdd Fld.BRK_HIST_STAT_OVF.w (s.fheld Fld.BRK_HIST_STAT_OVF) 1)
          ∧ (s.fheld Fld.BRK_HIST_STAT_FROZEN = 0 → t.brk.seq = s.brk.seq + 1 ∧ t.fheld Fld.BRK_HIST_STAT_HEAD = s.brk.seq % 16
              ∧ t.raw .BRK_HIST_LO (Reg.key .BRK_HIST_LO (s.brk.seq % 16) 0) = histLo s.clk.turn s.brk.seq
              ∧ t.raw .BRK_HIST_HI (Reg.key .BRK_HIST_HI (s.brk.seq % 16) 0)
                  = histHi { e with esc := src = Src.GOV_TEMP } (s.sevOf src)))
      ∧ (s.raiseSeen e = false → ({ t with brk := { t.brk with under := s.brk.under } } : State) = s)))
    ∧ (s.pairLive src inst = true → Completes (.brokenWire src inst) s (fun t =>
      let k := pairKey src inst
      let u : State := { s with brk := { s.brk with
        broken := s.brk.broken.ins k true, equal := s.brk.equal.ins k true
        wirePair := if s.brk.cause.get false (pairKey Src.BRK_WIRE 0) then s.brk.wirePair else k } }
      Raised u t ∧ t.brk.broken.get false k = true ∧ t.brk.equal.get false k = true
      ∧ (s.sevOf src ≠ 4 ∨ s.brk.broken.get false k = true → t = u.raise Src.BRK_WIRE 0 (inst % 32 * 256 + src % 256))
      ∧ (s.sevOf src = 4 → s.brk.broken.get false k = false → t.brk.safe = true ∧ bit (t.fheld Fld.BRK_SRC_STAT_PEND src) inst = true
          ∧ (s.brk.broken.get false (pairKey Src.BRK_WIRE 0) = false → s.brk.cause.get false (pairKey Src.BRK_WIRE 0) = false →
              s.heldPair Src.BRK_WIRE 0 = false → src ≠ Src.BRK_WIRE → bit (t.fheld Fld.BRK_SRC_STAT_PEND Src.BRK_WIRE) 0 = true))))
    ∧ (s.brk.equal.get false (pairKey src inst) = true → Completes (.pairRailsUnequal src inst) s (fun t =>
      let u : State := { s with brk := { s.brk with equal := s.brk.equal.del (pairKey src inst) } }
      t.brk.broken = s.brk.broken ∧ t.brk.equal = s.brk.equal.del (pairKey src inst)
      ∧ (s.brk.wirePair ≠ pairKey src inst → t = u)
      ∧ (s.brk.wirePair = pairKey src inst → s.brk.broken.get false (pairKey Src.BRK_WIRE 0) = false →
          s.heldPair Src.BRK_WIRE 0 = false → t = { u with brk := { u.brk with cause := s.brk.cause.del (pairKey Src.BRK_WIRE 0) } })
      ∧ ({ t with brk := s.brk } : State) = s))

/-- R42, R43, R467, R468, R470: a replay on a live cross-half link. A good one empties the link's replay buffer and its count; a bad one counts, and
the third in succession takes the link out and raises LAY_LINK, and every waiting packet is then at the link that its stream has, but for one that
another link has granted already. The split ends the addressed requests that were crossing, and the reservations of streams homed in the other half
than their granule are lost; the rejoin ends the split and nothing else. R48 to R52: a point whose head is due fires. LAY_STALL_STATUS records it and
LAY_STALL is raised; a second firing of the point within ESC_WINDOW sets REPEAT, and isolates the race of a race's point outside the safe state, or
gives the safe state at any other point. A host request at the head that is no write and no barrier is retired: its record, its buffered cells and its
stream's reservation are gone; for a write the store buffers and the reservations stand; a background read, write, record store or submission leaves
its queue. The model's own reading or choice enters here by log entries 62, 90. -/
def Obligations.LinksAndWatchdogs : Prop :=
  (∀ (s : State) (dir link : Nat), s.regs.wf = true →
    (∀ good, dir < 2 → link < 8 → bit (s.lay.live dir) link = true →
      let k := 8 * dir + link
      let n := if good then 0 else s.lay.fails.get 0 k + 1
      let u := s.tally dir 4 (4 * link + 3) 1
      Completes (.layLinkReplay dir link good) s (fun t =>
        (good = true → t = { u with lay := { s.lay with
            fails := s.lay.fails.put 0 k 0, slu := s.lay.slu.ins (sluKey (.link dir link)) { s.lay.sluice (.link dir link) with replay := [] } } })
        ∧ (good = false → n < 3 → t = { u with lay := { s.lay with fails := s.lay.fails.put 0 k n } })
        ∧ (3 ≤ n → let v : State := { u with lay := (s.lay.loseLink dir link).remap dir link }
            t = v.raise Src.LAY_LINK k 0 ∧ Raised v t ∧ bit (t.lay.live dir) link = false ∧ (t.lay.live dir = 0 → t.lay.splitPend = true)
            ∧ ∀ m, m < 8 → ∀ p ∈ (t.lay.sluice (.link dir m)).pend, t.lay.linkOf dir p.stream = some m
                ∨ (m ≠ link ∧ (s.lay.sluice (.link dir m)).granted p = true))))
    ∧ (s.lay.split = false → (s.lay.splitPend || s.lay.liveEW = 0 || s.lay.liveWE = 0) = true →
      Completes .split s (fun t => Intact s t ∧ t.clk = s.clk ∧ t.lay.split = true ∧ t.lay.splitPend = false
        ∧ (∀ st r, t.hop.resv.find? st = some r → s.fget Fld.HOP_STREAM_HOME st = raceHalf (s.raceAt r.base))
        ∧ (s.hop.reqs.wf = true → ∀ id q o, s.hop.reqs.find? id = some q → Opc.addressed q.opc = true → q.target ≠ q.landHalf →
            q.phase = .accepted → Opc.barrier q.opc = false → t.hop.reqs.find? id = some o → o.open_ = false)))
    ∧ (s.lay.split = true → s.lay.retrained = true → s.boot.readyW = true → s.lay.liveEW ≠ 0 → s.lay.liveWE ≠ 0 →
      Completes .splitRejoin s (fun t => t = { s with lay := { s.lay with split := false, retrained := false } })))
  ∧ (∀ (s : State) (half point vc : Nat) (w : WdHead), s.regs.wf = true → s.hop.reqs.wf = true → half < 2 → wdPoint point = true →
      wdChan point vc = true → s.fget Fld.LAY_STALL_CFG_EN 0 half = 1 → s.wdDue half point vc = some w →
      Completes (.stallWatchdogFire half point vc w.tag) s (fun t =>
        let key := wdKey half point vc
        let again := ∃ a, s.lay.fired.find? key = some a ∧ s.clk.age ≤ a + s.fget Fld.LAY_STALL_CFG_ESC_WINDOW 0 half
        let seen := s.raiseSeen { src := Src.LAY_STALL, inst := half, detail := 0 } = true
        Intact s t ∧ t.clk = s.clk ∧ t.lay.fired.find? key = some s.clk.age
        ∧ t.fheld Fld.LAY_STALL_STATUS_VALID 0 half = 1 ∧ t.fheld Fld.LAY_STALL_STATUS_POINT 0 half = point
        ∧ t.fheld Fld.LAY_STALL_STATUS_VC 0 half = vc ∧ t.fheld Fld.LAY_STALL_STATUS_STREAM 0 half = w.stream % 4096
        ∧ t.fheld Fld.LAY_STALL_STATUS_WRITE 0 half = b2n w.write
        ∧ (seen → bit (t.fheld Fld.BRK_SRC_STAT_PEND Src.LAY_STALL) half = true)
        ∧ (again → t.fheld Fld.LAY_STALL_STATUS_REPEAT 0 half = 1
            ∧ (point < 16 → s.brk.safe = false → w.back = none ∨ t.brk.safe = false → t.isolated (16 * half + point) = true)
            ∧ (16 ≤ point → seen → t.brk.safe = true))
        ∧ (w.write = true → t.pond = s.pond ∧ t.flume = s.flume ∧ t.hop.resv = s.hop.resv)
        ∧ (∀ id q, w.write = false → w.req = some id → s.hop.reqs.find? id = some q → Opc.barrier q.opc = false →
            t.hop.reqs.find? id = none ∧ t.hop.resv.find? q.stream = none ∧ ∀ e ∈ t.pond, e.tally = false → e.id ≠ id)
        ∧ (w.write = false → w.req = none →
            (∀ r e, w.back = some (.read r e) → (s.race r).rq.Nodup → (∀ o ∈ (s.race r).rq, o.qid < (s.race r).nextQ) → e ∉ (t.race r).rq)
            ∧ (∀ r e, w.back = some (.write r e) → (s.race r).wq.Nodup → e ∉ (t.race r).wq)
            ∧ (∀ e, w.back = some (.store e) → s.pond.Nodup → e ∉ t.pond)
            ∧ ∀ p c, w.back = some (.sub p c) → ∀ x ∈ (t.hst (p / 4)).cmds, ¬(x.port = p ∧ x.cid = c ∧ x.sub = true))))

/-- R41, R42, R221 to R224, R231, R233, R235: the decision of a Sluice. At a race's buses the command that is picked for the next mc is granted, and a
grant already made for that mc stands. At a crosspoint, link or granary port that is in its last beat or idle, the offers that their ports can present
are parked, at most one new one a port; at a granary port Hoist's waiting commands are offered beside firmware's. The winner of those that are parked,
at a link or crosspoint of those for which a credit is held, is granted and its transfer begins in the next mc; at a link or crosspoint a REQ takes a
place at the next hop, at a granary port a command of Hoist goes to its drive; the others stay parked. While a transfer goes on no decision is made.
The model's own reading or choice enters here by log entries 39, 50, 51. -/
def Obligations.SluicesDecide : Prop :=
  ∀ (s : State) (mc race pr : Nat) (offers : List Offer) (freed : List Nat),
    (race < 32 → Completes (.sluiceDecision (.row race) mc offers freed) s (fun t => Intact s t ∧ t.clk = s.clkAt mc ∧ AtRace race s t
      ∧ ((s.race race).grantR.any (fun g => g.2 = s.at mc + 1) = true → t.race race = s.race race)
      ∧ ((s.race race).grantR.any (fun g => g.2 = s.at mc + 1) = false → t.race race = { s.race race with
          grantR := (s.race race).grantR.filter (fun g => g.2 ≥ s.at mc) ++ ((s.pickRow race (s.at mc + 1)).map (fun n => (n, s.at mc + 1))).toList })))
    ∧ (race < 32 → pr < 2 → s.raceRuns race = true → Completes (.sluiceDecision (.col race pr) mc offers freed) s (fun t => Intact s t
      ∧ t.clk = s.clkAt mc ∧ AtRace race s t
      ∧ (((s.race race).colGrants pr).any (fun g => g.2 = s.at mc + 1) = true → t.race race = s.race race)
      ∧ (((s.race race).colGrants pr).any (fun g => g.2 = s.at mc + 1) = false →
          (t.race race).colGrants pr = ((s.race race).colGrants pr).filter (fun g => g.2 ≥ s.at mc)
            ++ ((s.pickColumn race pr (s.at mc + 1)).map (fun c => (c, s.at mc + 1))).toList
          ∧ (t.race race).colGrants (1 - pr) = (s.race race).colGrants (1 - pr))))
    ∧ (∀ id, (∀ r, id ≠ .row r) → (∀ r p, id ≠ .col r p) →
      let x0 := (s.lay.slu.get {} (sluKey id)).settleGrant (s.at mc)
      let x := { x0 with places := x0.places.filter (fun p => p.1 ∉ freed) }
      let subs := match id with | .gport p => s.subOffers p | _ => []
      let pend := match id with
        | .gport _ => x.pend.filter (fun p => decide (p.key < 2 ^ 32) || x.granted p || subs.any (fun o => o.key = p.key && o.port = p.port))
        | _ => x.pend
      let all := pend ++ admitOffers pend (offers.filter (fun o => s.mayOffer id o) ++ subs)
      let pick := match id with
        | .gport _ => s.pickSubmission (sluHalf id) { x with pend := all } all
        | _ => s.pickPacket (sluHalf id) (s.at mc) { x with pend := all }
            (all.filter (fun p => ({ x with pend := all } : Slu).offered (freePlaces id) p))
      Completes (.sluiceDecision id mc offers freed) s (fun t =>
        let y := t.lay.slu.get {} (sluKey id)
        Intact s t ∧ t.clk = s.clkAt mc
        ∧ (s.at mc + 1 < x.busyTo → y = x)
        ∧ (x.busyTo ≤ s.at mc + 1 → y.pend = all ∧ (pick = none → y = { x with pend := all })
            ∧ ∀ w, pick = some w → y.grant = some (w.1.key, s.at mc + 1) ∧ y.grantCh = w.1.ch ∧ s.at mc + 1 < y.busyTo
              ∧ ((∀ n, id ≠ .gport n) → y.places = (if w.1.ch = .req then (w.1.key, decide (w.1.cls = 0)) :: x.places else x.places))
              ∧ ∀ n, id = .gport n → ∀ c ∈ (t.hst (n / 4)).cmds, c.port = n → subKey (n / 4) c.cid = w.1.key → c.sub = false)
        ∧ (∀ k, k ≠ sluKey id → t.lay.slu.find? k = s.lay.slu.find? k)
        ∧ ((∀ n, id ≠ .gport n) → t.hstE = s.hstE ∧ t.hstW = s.hstW)
        ∧ ({ t with lay := { t.lay with slu := s.lay.slu }, clk := s.clk, hstE := s.hstE, hstW := s.hstW, tlyE := s.tlyE, tlyW := s.tlyW } : State) = s))

/-- R57, R63, R65, R81, R83, R87: flits at a module that is ACTIVE, or OPEN within its 1 ms. A flit with a bad CRC is counted and sets NAK; a null
flit lands nothing, and one with the number next expected and a header or data mark is a protocol error; a flit out of sequence, or one that finds the
verdict queue full, is discarded; a flit in sequence lands, is acknowledged, and with a header puts three verdicts into the queue. R65, R73, R83, R87,
R89: in OPEN a module sends null flits; in ACTIVE it sends new flits with the current ACK and keeps each that is not null until it is acknowledged, at
most 64; while it replays it sends the next flit of the replay with the current ACK and NAK, and counts it; the fourth replay of one flit pauses it in
RECAL, and after a RECAL four replays without an ACK restart the link. The model's own reading or choice enters here by log entries 41, 97, 98. -/
def Obligations.FlitsInSequence : Prop :=
  (∀ (s : State) (m mc : Nat) (f : Flit), s.regs.wf = true → modFitted s.ld m = true → s.modOn m = true → (s.mod m).takes s.clk.age = true →
    (flGood f = false → Completes (.flitReceive m mc f) s (fun t => t.clk = s.clkAt mc ∧ t.mod m = { s.mod m with nak := true }
      ∧ t.fheld Fld.HEAD_MOD_ERR_CRC m = satAdd Fld.HEAD_MOD_ERR_CRC.w (s.fheld Fld.HEAD_MOD_ERR_CRC m) 1
      ∧ ({ t with clk := s.clk, regs := s.regs, mods := s.mods } : State) = s))
    ∧ (flGood f = true → flNull f = true →
      let bad := decide (flSeq f = ((s.mod m).ack + 1) % 1024) && ((flitHdrs f).any Option.isSome || decide (flCv f ≠ 0))
      Completes (.flitReceive m mc f) s (fun t => Intact s t ∧ t.clk = s.clkAt mc ∧ (t.mod m).st = .active
        ∧ (t.mod m).nak = decide (flSeq f ≠ ((s.mod m).ack + 1) % 1024) ∧ (t.mod m).ack = (s.mod m).ack ∧ (t.mod m).verdQ = (s.mod m).verdQ
        ∧ (bad = false → ({ t with clk := s.clk, mods := s.mods } : State) = s)
        ∧ (bad = true → (t.mod m).dataQ = [] ∧ t.fheld Fld.HEAD_MOD_ERR_PROTO m = satAdd Fld.HEAD_MOD_ERR_PROTO.w (s.fheld Fld.HEAD_MOD_ERR_PROTO m) 1
            ∧ t.pond = s.pond ∧ t.flume = s.flume)))
    ∧ (flGood f = true → flNull f = false → flSeq f ≠ ((s.mod m).ack + 1) % 1024 ∨ 64 ≤ (s.mod m).verdQ.length →
      Completes (.flitReceive m mc f) s (fun t => t.clk = s.clkAt mc ∧ (t.mod m).nak = true ∧ (t.mod m).ack = (s.mod m).ack
        ∧ (t.mod m).verdQ = (s.mod m).verdQ ∧ (t.mod m).dataQ = (s.mod m).dataQ ∧ ({ t with clk := s.clk, mods := s.mods } : State) = s))
    ∧ (flGood f = true → flNull f = false → flSeq f = ((s.mod m).ack + 1) % 1024 → (s.mod m).verdQ.length < 64 →
      Completes (.flitReceive m mc f) s (fun t => Intact s t ∧ t.clk = s.clkAt mc ∧ (t.mod m).st = .active ∧ (t.mod m).ack = flSeq f
        ∧ (t.mod m).nak = false ∧ (t.mod m).landed = (s.mod m).landed + 1
        ∧ (((flitHdrs f).all Option.isNone = true → (t.mod m).verdQ = (s.mod m).verdQ)
          ∧ ((flitHdrs f).any Option.isSome = true → ∃ v, v.length = 3 ∧ (t.mod m).verdQ = (s.mod m).verdQ ++ [(flSeq f, v)])))))
  ∧ (∀ (s : State) (m mc : Nat), s.regs.wf = true → modFitted s.ld m = true → s.modOn m = true →
    ((s.mod m).st = .open_ → Completes (.upstreamFlitSend m mc) s (fun t => t.clk = s.clkAt mc ∧ flNull (t.mod m).up = true
      ∧ (t.mod m).replay = (s.mod m).replay ∧ (t.mod m).txSeq = (s.mod m).txSeq ∧ ({ t with clk := s.clk, mods := s.mods } : State) = s))
    ∧ ((s.mod m).st = .active → (s.mod m).resend = [] → (s.mod m).replay.length ≤ 64 →
      Completes (.upstreamFlitSend m mc) s (fun t => Intact s t ∧ t.clk = s.clkAt mc ∧ t.hop = s.hop ∧ t.regs = s.regs ∧ (t.mod m).replay.length ≤ 64
        ∧ (((t.mod m).replay = (s.mod m).replay ∧ (t.mod m).txSeq = (s.mod m).txSeq ∧ (t.mod m).tx = (s.mod m).tx)
          ∨ ((t.mod m).replay = (s.mod m).replay ++ [((s.mod m).txSeq, (t.mod m).up)] ∧ (t.mod m).txSeq = ((s.mod m).txSeq + 1) % 1024
              ∧ (t.mod m).verdQ = (s.mod m).verdQ.drop 1))))
    ∧ (∀ e rest, (s.mod m).st = .active → (s.mod m).resend = e :: rest →
      Completes (.upstreamFlitSend m mc) s (fun t => Intact s t ∧ t.clk = s.clkAt mc ∧ (t.mod m).up = flRefresh e.2 (s.mod m).ack (s.mod m).nak
        ∧ t.fheld Fld.HEAD_MOD_ERR_REPLAY m = satAdd Fld.HEAD_MOD_ERR_REPLAY.w (s.fheld Fld.HEAD_MOD_ERR_REPLAY m) 1
        ∧ ((∃ k, (s.mod m).postRecal = some k ∧ 3 ≤ k) → (t.mod m).st = .train)
        ∧ ((∀ k, (s.mod m).postRecal = some k → k < 3) → 3 ≤ (s.mod m).sameRep.get 0 e.1 → (t.mod m).st = .recal
            ∧ (t.mod m).replay = (s.mod m).replay))))

/-- R78: a request enters the machine only with verdict OK, then with the next number and nothing else of it done, but that a barrier closes the Flume
entries in its scope; any other verdict leaves the requests, the stores and the pools of the other modules as they are; in the safe state, for a
disabled stream, for a race that is isolated, and in a split for what lies in the other half the verdict is the one the table names. The model's own
reading or choice enters here by log entry 42. -/
def Obligations.AdmissionTakesOrLeaves : Prop :=
  ∀ (s : State) (m mc : Nat) (bad : Bool) (h : ReqHdr) (data : List Cell),
    let r := s.judge m mc bad h data
    (r.2 ≠ verdict Rc.ok 0 → r.1.hop = s.hop ∧ r.1.pond = s.pond ∧ r.1.flume = s.flume ∧ r.1.dram = s.dram
        ∧ ∀ n, n ≠ m → r.1.mod n = s.mod n)
    ∧ (r.2 = verdict Rc.ok 0 → r.1.hop.nextId = s.hop.nextId + 1 ∧ (∃ q, r.1.hop.reqs = s.hop.reqs.ins s.hop.nextId q ∧ q.m = m
        ∧ q.stream = h.stream ∧ q.opc = h.opc ∧ q.data = data ∧ q.phase = .accepted ∧ q.answered = false)
      ∧ (Opc.barrier h.opc = false → r.1.flume = s.flume)
      ∧ (Opc.barrier h.opc = true → r.1.flume.map (fun e => (e.fid, e.data, e.mask)) = s.flume.map (fun e => (e.fid, e.data, e.mask))
          ∧ ∀ e ∈ r.1.flume, h.opc = Opc.barD ∨ (h.opc = Opc.barS ∧ e.stream = h.stream)
              ∨ (h.opc = Opc.barG ∧ s.fget Fld.HOP_STREAM_GROUP e.stream = s.fget Fld.HOP_STREAM_GROUP h.stream) → e.closed = true)
      ∧ r.1.pond = s.pond ∧ r.1.dram = s.dram ∧ s.brk.safe = false ∧ bad = false ∧ s.fget Fld.HOP_STREAM_EN h.stream ≠ 0)
    ∧ (s.brk.safe = true → r.2 = verdict Rc.faulted 0)
    ∧ (s.brk.safe = false → bad = false → h.malformed (topOf s.ld) = false → s.fget Fld.HOP_STREAM_EN h.stream ≠ 0 → s.splitNow = false →
        h.opc ≠ Opc.amo → Opc.addressed h.opc = true → s.raceOff (s.raceAt h.addr) = true → r.2 = verdict Rc.off 0)
    ∧ (s.brk.safe = false → bad = false → h.malformed (topOf s.ld) = false → s.fget Fld.HOP_STREAM_EN h.stream ≠ 0 → s.splitNow = true →
        (h.opc = Opc.amo → s.ld.fatom = true) →
        s.crosses h (modHalf m) (if Opc.addressed h.opc then raceHalf (s.raceAt h.addr) else modHalf m) = true → r.2 = verdict Rc.unreach 0)

/-- R57, R58, R60, R87, R89: the states of a fitted module whose domain is on. Link active within 10 ms gives OPEN, at x32 with HEAD_LINK; an attempt
that fails is counted and the next begins, the third gives DOWN and HEAD_LINK; OPEN for 1 ms and RECAL for 25 Turns without an end are link restarts,
which raise HEAD_LINK; the end of RECAL and the host's request of it keep what is to be replayed; a flit unacknowledged for 256 flit times starts a
replay from it. R57, R92: writes of HEAD_MOD_CTRL that pass every check. EN cleared disables the module and discards what it holds, EN set begins
training; RESTART makes a link restart, or brings a module that is DOWN back to training; RECAL pauses an active module, keeping everything. The
model's own reading or choice enters here by log entries 43, 97, 99. -/
def Obligations.ModulesChangeState : Prop :=
  (∀ (s : State) (m rate repaired : Nat), s.regs.wf = true → modFitted s.ld m = true → s.modOn m = true →
    ((s.mod m).st = .train →
      (s.clk.age ≤ (s.mod m).stAt + trainTurns → rate ≤ (s.mod m).rateCap → (s.mod m).x32Cap = true →
          Completes (.ucieLinkActive m rate repaired true) s (fun t =>
            let u := ({ s with mods := s.mods.ins m { s.mod m with st := .open_, stAt := s.clk.age, attempts := 0, rate := rate, x32 := true } }
              : State).fset Fld.HEAD_MOD_STATUS_REPAIRED repaired m
            t = u.raise Src.HEAD_LINK m 0 ∧ Raised u t ∧ (t.mod m).st = .open_ ∧ t.fheld Fld.HEAD_MOD_STATUS_REPAIRED m = repaired % 256))
      ∧ (s.clk.age ≤ (s.mod m).stAt + trainTurns → rate ≤ (s.mod m).rateCap → Completes (.ucieLinkActive m rate repaired false) s (fun t =>
          Intact s t ∧ t.clk = s.clk ∧ t.mod m = { s.mod m with st := .open_, stAt := s.clk.age, attempts := 0, rate := rate, x32 := false }
          ∧ t.fheld Fld.HEAD_MOD_STATUS_REPAIRED m = repaired % 256 ∧ ({ t with mods := s.mods, regs := s.regs } : State) = s))
      ∧ (s.clk.age ≥ (s.mod m).stAt + trainTurns →
          ((s.mod m).attempts + 1 < 3 → Completes (.trainAttemptTimeout m) s (fun t =>
            t.mod m = { s.mod m with attempts := (s.mod m).attempts + 1, stAt := s.clk.age } ∧ ({ t with mods := s.mods } : State) = s))
          ∧ (3 ≤ (s.mod m).attempts + 1 → Completes (.trainAttemptTimeout m) s (fun t =>
            let u : State := { s with mods := s.mods.ins m { (s.mod m).restarted .down with stAt := s.clk.age } }
            t = u.raise Src.HEAD_LINK m 0 ∧ Raised u t ∧ (t.mod m).st = .down))))
    ∧ ((s.mod m).st = .open_ → s.clk.age ≥ (s.mod m).stAt + openTurns →
      Completes (.openTimeout m) s (fun t => Intact s t ∧ t.clk = s.clk ∧ Restarted m s t))
    ∧ ((s.mod m).st = .recal → s.clk.age ≥ (s.mod m).stAt + recalTurns →
      Completes (.recalTimeout m) s (fun t => Intact s t ∧ t.clk = s.clk ∧ Restarted m s t))
    ∧ ((s.mod m).st = .recal → s.clk.age ≤ (s.mod m).stAt + recalTurns → Completes (.recalComplete m repaired) s (fun t => Intact s t ∧ t.clk = s.clk
      ∧ t.mod m = { s.mod m with st := .active, stAt := s.clk.age, postRecal := some 0 } ∧ t.fheld Fld.HEAD_MOD_CTRL_RECAL m = 0
      ∧ t.fheld Fld.HEAD_MOD_STATUS_REPAIRED m = repaired % 256 ∧ ({ t with mods := s.mods, regs := s.regs } : State) = s))
    ∧ ((s.mod m).st = .active → Completes (.hostRecalRequest m) s (fun t =>
      t.mod m = { s.mod m with st := .recal, stAt := s.clk.age, sameRep := {}, repWin := 0 } ∧ ({ t with mods := s.mods } : State) = s))
    ∧ (∀ e rest, (s.mod m).st = .active → (s.mod m).replay = e :: rest → (s.mod m).sent.get 0 e.1 + 256 ≤ (s.mod m).ftime →
      Completes (.replayTimeout m) s (fun t =>
        t.mod m = { s.mod m with resend := (s.mod m).replay, sent := (s.mod m).sent.ins e.1 (s.mod m).ftime } ∧ ({ t with mods := s.mods } : State) = s)))
  ∧ (∀ (s : State) (path : Path) (m : Nat), s.regs.wf = true → modFitted s.ld m = true → s.fheld Fld.HEAD_MOD_CTRL_RESTART m = 0 →
      s.fheld Fld.HEAD_MOD_CTRL_RECAL m = 0 →
    (s.grantsField path Fld.HEAD_MOD_CTRL_EN 0 m 0 = true → s.fheld Fld.HEAD_MOD_CTRL_EN m = 1 →
      Completes (.moduleEnable path m false) s (fun t => Intact s t ∧ t.clk = s.clk ∧ Answered t ∧ (t.mod m).st = .disabled ∧ (t.mod m).tx = []
        ∧ (t.mod m).replay = [] ∧ t.fheld Fld.HEAD_MOD_CTRL_EN m = 0))
    ∧ (s.grantsField path Fld.HEAD_MOD_CTRL_EN 1 m 0 = true → s.fheld Fld.HEAD_MOD_CTRL_EN m = 0 → s.hostService = true → s.tst.inmode = false →
      Completes (.moduleEnable path m true) s (fun t => Intact s t ∧ t.clk = s.clk ∧ Answered t ∧ (t.mod m).st = .train
        ∧ t.fheld Fld.HEAD_MOD_CTRL_EN m = 1))
    ∧ (s.grantsField path Fld.HEAD_MOD_CTRL_RESTART 1 m 0 = true → s.fheld Fld.HEAD_MOD_CTRL_EN m = 1 →
      ((s.mod m).st = .open_ ∨ (s.mod m).st = .active ∨ (s.mod m).st = .recal →
        Completes (.restart path m) s (fun t => Intact s t ∧ t.clk = s.clk ∧ Answered t ∧ Restarted m s t))
      ∧ ((s.mod m).st = .down → Completes (.restart path m) s (fun t => Intact s t ∧ t.clk = s.clk ∧ Answered t
        ∧ t.mod m = { (s.mod m).restarted .train with
            stAt := s.clk.age, rateCap := s.fget Fld.HEAD_MOD_CTRL_RATE_MAX m, x32Cap := s.fb Fld.HEAD_MOD_CTRL_X32_OK m }
        ∧ t.fheld Fld.HEAD_MOD_CTRL_RESTART m = 0)))
    ∧ (s.grantsField path Fld.HEAD_MOD_CTRL_RECAL 1 m 0 = true → s.fheld Fld.HEAD_MOD_CTRL_EN m = 1 → (s.mod m).st = .active →
      Completes (.recal path m) s (fun t => Intact s t ∧ t.clk = s.clk ∧ Answered t ∧ t.fheld Fld.HEAD_MOD_CTRL_RECAL m = 1
        ∧ t.mod m = { s.mod m with st := .recal, stAt := s.clk.age, sameRep := {}, repWin := 0 } ∧ t.hop = s.hop)))

/-- R67, R71: a NOP is performed at once, and nothing else happens. R90, R91: a MGMT request makes its access and is answered OK with the access's
status and, for a read, the value. R99, R110, R139: reads. A read of a race that is off is answered OFF; a one-cell read whose value a buffer holds,
or whose block is UNWRITTEN, is answered with it at once; a read of which the race must give every cell joins the race's read queue. An RDX that is
not turned away also sets its stream's reservation. The model's own reading or choice enters here by log entry 47. -/
def Obligations.NopMgmtAndReads : Prop :=
  (∀ (s : State) (id : Nat) (q : Req), s.hop.reqs.wf = true → s.hop.reqs.find? id = some q → q.tok = 0 →
    (s.fresh id Opc.nop = true → Completes (.nop id) s (fun t => t.hop.reqs.find? id = none
      ∧ (∀ i, i ≠ id → t.hop.reqs.find? i = s.hop.reqs.find? i) ∧ ({ t with hop := { t.hop with reqs := s.hop.reqs } } : State) = s))
    ∧ (s.fresh id Opc.mgmt = true → s.mgBehind id q.stream = false → s.mainsOn = true → q.answered = false →
      let u := s.mgAccess q
      Completes (.mgmt id) s (fun t => t.regs = u.regs ∧ t.reply = u.reply ∧ t.pending = s.pending ∧ t.dram = s.dram ∧ t.fuse = s.fuse
        ∧ (u.hop.reqs.find? id = some q → u.hop.reqs.wf = true → t.hop.reqs.find? id = none
          ∧ (t.mod q.m).tx = (u.mod q.m).tx
              ++ [q.resp Rc.ok 0 u.reply.mstat (if q.mgWrite then 0 else u.reply.val.toNat) u.now id []]))))
  ∧ (∀ (s : State) (id mc : Nat) (q : Req) (c : Instr), s.hop.reqs.wf = true → s.hop.reqs.find? id = some q → q.answered = false → q.tok = 0 →
      q.got = {} → q.pmask = 0 → q.sent = [] → (c = .rd id mc ∧ s.fresh id Opc.rd = true) ∨ (c = .rdx id mc ∧ s.fresh id Opc.rdx = true) →
    let u := ({ s with clk := s.clkAt mc } : State).flumeClose (fun e => decide (e.blk = q.addr / 256))
    let marked := fun t : State => q.opc = Opc.rdx → ∃ r, t.hop.resv.find? q.stream = some r
      ∧ r.base = q.addr / s.granule * s.granule ∧ r.size = s.granule ∧ q.m ∈ r.mods
    (s.raceOff q.race = true → Completes c s (fun t => Intact s t ∧ t.clk = s.clkAt mc ∧ t.hop.reqs.find? id = none
      ∧ t.hop.resv = s.hop.resv ∧ t.races = s.races ∧ (t.mod q.m).tx = (s.mod q.m).tx ++ [q.resp Rc.off 0 0 0 u.now id []]))
    ∧ (∀ d, s.raceOff q.race = false → s.chunkDone q.addr = true → q.nCells = 1 →
        u.readSrc q.stream id q.addr = .value d false ∨ (u.readSrc q.stream id q.addr = .zero ∧ d = 0) →
      Completes c s (fun t => Intact s t ∧ t.clk = s.clkAt mc ∧ t.hop.reqs.find? id = none ∧ t.races = s.races ∧ marked t
        ∧ (t.mod q.m).tx = (s.mod q.m).tx ++ [q.resp Rc.ok 0 0 0 u.now id [d]]))
    ∧ (s.raceOff q.race = false → s.chunkDone q.addr = true → 1 ≤ q.nCells → (∀ k, k < q.nCells → u.readSrc q.stream id (q.addr + 64 * k) = .race) →
        (s.race q.race).rqFits q.cls q.nCells = true →
      Completes c s (fun t => Intact s t ∧ t.clk = s.clkAt mc ∧ t.mods = s.mods ∧ marked t
        ∧ (∃ x, t.hop.reqs.find? id = some { q with phase := .working, express := x, sent := List.range q.nCells })
        ∧ (t.race q.race).rq.length = (s.race q.race).rq.length + q.nCells
        ∧ (s.race q.race).rq <+: (t.race q.race).rq ∧ ∀ r, r ≠ q.race → t.race r = s.race r)))

/-- R31, R104, R105, R114: the data of an accepted WR, WRP, WRC or AMO go to Millpond, one entry a cell, and close the Flume entries of their block; a
WRN combines into its stream's open entry of the block, or opens one. -/
def Obligations.StoresEnterTheBuffers : Prop :=
  ∀ (s : State) (id : Nat) (q : Req) (c : Instr), s.hop.reqs.find? id = some q →
    ((c = .wr id ∧ s.freshBuf id Opc.wr = true) ∨ (c = .wrp id ∧ s.freshBuf id Opc.wrp = true) ∨ (c = .wrc id ∧ s.freshBuf id Opc.wrc = true)
        ∨ (c = .amo id ∧ s.freshBuf id Opc.amo = true) →
      Completes c s (fun t => t.pond = s.pond ++ q.pondEnts id ∧ (q.pondEnts id).length = q.data.length
        ∧ t.flume.map (fun e => (e.fid, e.data)) = s.flume.map (fun e => (e.fid, e.data)) ∧ (∀ e ∈ t.flume, e.blk = q.addr / 256 → e.closed = true)
        ∧ t.hop.reqs.find? id = some { q with phase := .working, data := if q.opc = Opc.amo then q.data else [] }
        ∧ ({ t with pond := s.pond, flume := s.flume, hop := s.hop } : State) = s))
    ∧ (s.fresh id Opc.wrn = true → s.blockAhead id q = false → Completes (.wrn id) s (fun t => Intact s t ∧ t.clk = s.clk ∧ t.pond = s.pond ∧ t.mods = s.mods ∧ t.races = s.races
      ∧ t.hop.reqs.find? id = some { q with phase := .working, data := [] }
      ∧ (∃ e ∈ t.flume, e.blk = q.addr / 256 ∧ e.stream = q.stream ∧ id ∈ e.ids)
      ∧ (∀ e ∈ t.flume, e.blk = q.addr / 256 → e.stream ≠ q.stream → e.closed = true)
      ∧ (s.flume.any (fun e => decide (e.blk = q.addr / 256) && e.stream = q.stream && !e.closed) = true → t.flume.length = s.flume.length)
      ∧ (s.flume.any (fun e => decide (e.blk = q.addr / 256) && e.stream = q.stream && !e.closed) = false →
          t.flume.length = s.flume.length + 1 ∧ t.nextFid = s.nextFid + 1)))

/-- R95, R96, R98, R112, R113: tokens. A token that may be released is; applied, it gives the store's entries their places in the coherence order and
clears every reservation they touch; a WRC whose stream holds no reservation fails, leaves nothing to store, and is answered RESFAIL; an acknowledged
token lets a request that is done go. The model's own reading or choice enters here by log entry 86. -/
def Obligations.TokensOrderStores : Prop :=
  ∀ (s : State) (id : Nat) (q : Req), s.hop.reqs.wf = true → s.hop.reqs.find? id = some q →
    (s.canRelease id q = true → Completes (.tokenRelease id) s (fun t => t.hop.reqs.find? id = some { q with tok := 1 }
      ∧ (∀ i, i ≠ id → t.hop.reqs.find? i = s.hop.reqs.find? i) ∧ ({ t with hop := { t.hop with reqs := s.hop.reqs } } : State) = s))
    ∧ (s.canApply id q = true → q.opc = Opc.wr ∨ (q.opc = Opc.wrp ∧ q.arg ≠ 0) → Completes (.tokenApply id) s (fun t => Intact s t
      ∧ t.clk = s.clk ∧ t.hop.reqs.find? id = some { q with tok := 2, phase := .performed } ∧ t.hop.visNext = s.hop.visNext + 8
      ∧ t.pond = mapIf (fun e => decide (e.id = id) && !e.tally) (fun e => { e with vis := s.hop.visNext + e.k }) s.pond
      ∧ t.mods = s.mods ∧ t.races = s.races ∧ t.flume = s.flume
      ∧ (∀ e ∈ s.pond, e.id = id → e.tally = false → e.mask ≠ 0 → ∀ st r, t.hop.resv.find? st = some r → r.holds e.addr = false)))
    ∧ (s.canApply id q = true → q.opc = Opc.wrc → q.answered = false →
        (∀ r, s.hop.resv.find? q.stream = some r → r.holds q.addr = false) → Completes (.tokenApply id) s (fun t => Intact s t ∧ t.clk = s.clk
      ∧ t.pond = s.pond.filter (fun e => e.tally || e.id ≠ id) ∧ t.hop.resv.find? q.stream = none ∧ t.races = s.races
      ∧ (t.mod q.m).tx = (s.mod q.m).tx ++ [q.resp Rc.resfail 0 0 0 s.now id []]))
    ∧ (q.tok = 2 → Completes (.tokenAck id) s (fun t =>
      t.hop.reqs.find? id = (if Req.finished { q with tok := 3 } then none else some { q with tok := 3 })
      ∧ (∀ i, i ≠ id → t.hop.reqs.find? i = s.hop.reqs.find? i) ∧ ({ t with hop := { t.hop with reqs := s.hop.reqs } } : State) = s))

/-- R31, R105 to R107, R140, R156, R289: the drains. A full visible entry enters the write queue in place of an entry of its cell or as a new one; a
masked one merges into the entry of its cell and is answered; an idle Flume entry closes; a closed one that is ready writes all its cells into the
race and is gone. -/
def Obligations.BuffersDrain : Prop :=
  ∀ (s : State) (id k fid : Nat),
    (∀ e, s.pond.find? (fun e => e.id = id ∧ e.k = k ∧ !e.amo) = some e → s.drainable e = true → e.masked = false →
        ((s.race e.race).wqAt e.addr).isSome = true ∨ 0 < (s.race e.race).wqRoom →
      Completes (.millpondDrain id k) s (fun t => Intact s t ∧ t.clk = s.clk
        ∧ t.pond = s.pond.filter (fun o => !(o.id = e.id ∧ o.k = e.k ∧ o.tally = e.tally))
        ∧ (∃ w, (t.race e.race).wqAt e.addr = some w ∧ w.data = e.data ∧ w.psn = e.psn)
        ∧ (∀ a, a ≠ e.addr → (t.race e.race).wqAt a = (s.race e.race).wqAt a) ∧ (∀ r, r ≠ e.race → t.race r = s.race r)
        ∧ t.flume = s.flume ∧ t.mods = s.mods ∧ t.hop.resv = s.hop.resv))
    ∧ (∀ e w, s.pond.find? (fun e => e.id = id ∧ e.k = k ∧ !e.amo) = some e → s.drainable e = true → e.masked = true →
        (s.race e.race).wqAt e.addr = some w → Completes (.millpondDrain id k) s (fun t => Intact s t ∧ t.clk = s.clk
      ∧ t.pond = s.pond.filter (fun o => !(o.id = e.id ∧ o.k = e.k ∧ o.tally = e.tally))
      ∧ (∃ x, (t.race e.race).wqAt e.addr = some x ∧ x.data = mergeCell w.data e.data e.mask ∧ x.psn = w.psn)
      ∧ (∀ r, r ≠ e.race → t.race r = s.race r)
      ∧ (∀ q, s.hop.reqs.find? e.id = some q → q.answered = false → Opc.answered q.opc = true → (t.mod q.m).tx = (s.mod q.m).tx
          ++ [q.resp (if w.psn then Rc.poison else Rc.ok) (b2n w.psn) 0 0 s.now e.id []])))
    ∧ Completes (.flumeIdleClose fid) s (fun t => t.flume.map (fun e => (e.fid, e.data, e.mask)) = s.flume.map (fun e => (e.fid, e.data, e.mask))
      ∧ (∀ e ∈ t.flume, e.fid = fid → e.last + s.fget Fld.FLUME_CFG_IDLE 0 e.half ≤ s.clk.age → e.closed = true)
      ∧ (∀ e ∈ t.flume, e.fid ≠ fid → e ∈ s.flume) ∧ ({ t with flume := s.flume } : State) = s)
    ∧ (∀ e, s.flume.find? (fun e => e.fid = fid) = some e → s.flumeReady e = true → e.mask.wf = true →
      Completes (.flumeEntryDrain fid) s (fun t => Intact s t ∧ t.clk = s.clk ∧ t.flume = s.flume.filter (fun o => o.fid ≠ fid)
        ∧ (∀ c ∈ e.cellsOf, (∃ w, (t.race e.race).wqAt c.1 = some w ∧ w.data = c.2.1 ∧ w.psn = c.2.2)
            ∧ ∀ st r, t.hop.resv.find? st = some r → r.holds c.1 = false)
        ∧ (∀ r, r ≠ e.race → t.race r = s.race r) ∧ t.pond = s.pond ∧ t.mods = s.mods))

/-- R118 to R125, R128: barriers. A barrier is sent to both Hoppers and waits; the part of a half is resolved when nothing it covers there is open;
complete, it is answered once with the code of R125, and a mark it has reported is cleared. -/
def Obligations.BarriersRun : Prop :=
  ∀ (s : State) (id half : Nat) (q : Req) (c : Instr), s.hop.reqs.wf = true → s.hop.reqs.find? id = some q →
    ((c = .barS id ∧ s.fresh id Opc.barS = true) ∨ (c = .barG id ∧ s.fresh id Opc.barG = true) ∨ (c = .barD id ∧ s.fresh id Opc.barD = true) →
      Completes c s (fun t => t.hop.reqs.find? id = some { q with phase := .working }
        ∧ (∀ i, i ≠ id → t.hop.reqs.find? i = s.hop.reqs.find? i)
        ∧ ({ t with hop := { t.hop with reqs := s.hop.reqs } } : State) = s))
    ∧ (Opc.barrier q.opc = true → q.phase = .working → s.partClear half id q = true → Completes (.barrierPartResolved half id) s (fun t =>
      t.hop.reqs.find? id = some { q with partE := q.partE || half = 0, partW := q.partW || half ≠ 0 }
      ∧ (∀ i, i ≠ id → t.hop.reqs.find? i = s.hop.reqs.find? i) ∧ ({ t with hop := { t.hop with reqs := s.hop.reqs } } : State) = s))
    ∧ (Opc.barrier q.opc = true → q.phase = .working → (q.partE = true ∧ q.partW = true) ∨ s.barCut id q = true → q.answered = false → q.tok = 0 →
      Completes (.barrierComplete id) s (fun t => Intact s t ∧ t.clk = s.clk ∧ t.hop.reqs.find? id = none ∧ t.regs = s.regs ∧ t.pond = s.pond
        ∧ t.flume = s.flume ∧ t.races = s.races ∧ (t.mod q.m).tx = (s.mod q.m).tx ++ [q.resp (s.barCode id q) 0 0 0 s.now id []]
        ∧ (s.barCode id q = Rc.ok ∨ s.barCode id q = Rc.lost → s.hop.lostS.wf = true → s.hop.lostG.wf = true → t.lostMark q = false)
        ∧ (s.barCode id q = Rc.faulted ∨ s.barCode id q = Rc.unreach → t.hop.lostS = s.hop.lostS ∧ t.hop.lostG = s.hop.lostG
            ∧ t.hop.lostD = s.hop.lostD)))

/-- R21: a read or write of an unmapped offset is answered BADARG, one of a domain that is off OFF_DOMAIN, both without a value and without effect,
over every path, but for the write that sets EN of a fitted module whose EN alone keeps its domain off (R57, log entry 118); the domain of an unfitted
module is off. -/
def Obligations.UnmappedAndOffAreRefused : Prop :=
  ∀ (s : State) (path : Path) (off : BitVec 24) (w64 : Bool) (val : Word) (st : Nat), s.regs.wf = true →
      (∀ m, path = .mgmt m → s.fheld Fld.HEAD_MOD_CTRL_MGMT_EN m = 1 ∧ bit (s.fheld Fld.TLY_USER_MODS) m = false) →
      (findAcs off.toNat w64 = none ∧ st = St.badarg)
        ∨ (∃ a, findAcs off.toNat w64 = some a ∧ s.domainOn (regDomain a.loc) = false ∧ st = St.offDomain) →
    ((∀ a, findAcs off.toNat w64 = some a → s.enables a.loc = true →
        let m := writtenBits a val
        Fld.HEAD_MOD_CTRL_EN.of (limitWord a.loc.reg (mergeWord a.loc.reg (s.oldWord a.loc) m.2 m.1)) = 0) →
      Completes (.registerWrite path off w64 val) s (fun t => t.reply = { mstat := st, val := 0 }
        ∧ ({ t with regs := s.regs, reply := s.reply } : State) = s
        ∧ ∀ r k, (path = .i3c → k ≠ Reg.key .MIL_I3C_STAT 0 0) → t.raw r k = s.raw r k))
    ∧ (s.i3cUp = true → s.mil.ptr = off.toNat → off.toNat % (if w64 then 8 else 4) = 0 →
      Completes (.i3cPrivateRead (if w64 then 8 else 4)) s (fun t => t.reply = { mstat := st, val := 0 }
        ∧ ({ t with regs := s.regs, reply := s.reply } : State) = s ∧ t.fheld Fld.MIL_I3C_STAT_MSTAT = st))
    ∧ (let u := s.regRead path off.toNat w64
       u.reply = { mstat := st, val := 0 } ∧ ({ u with regs := s.regs, reply := s.reply } : State) = s
        ∧ ∀ r k, (path = .i3c → k ≠ Reg.key .MIL_I3C_STAT 0 0) → u.raw r k = s.raw r k)
    ∧ ∀ m, m < 20 → modFitted s.ld m = false → s.domainOn (32 + m) = false

/-- R487: a write that would change a locked RWL field changes no field of its register and is answered LOCKED; one that leaves every locked RWL field
as held is performed for the others and answered OK. -/
def Obligations.LockedFieldsHold : Prop :=
  ∀ (s : State) (path : Path) (off : BitVec 24) (w64 : Bool) (val : Word) (a : Acs), s.regs.wf = true →
      s.acs path off.toNat w64 false = .ok a →
      (a.loc.reg = .HOP_AMAP_CFG ∧ s.fheld Fld.HOP_AMAP_CFG_LOCK = 1)
        ∨ (a.loc.reg ∈ [.RACE_TIM0, .RACE_TIM1, .RACE_TIM2, .RACE_TIM3, .RACE_TIM4]
            ∧ s.fheld Fld.RACE_CTRL_TLOCK (a.loc.idx.getD 0 0) = 1) →
    let old := s.raw a.loc.reg a.loc.key
    let new := limitWord a.loc.reg (mergeWord a.loc.reg old (writtenBits a val).2 (writtenBits a val).1)
    ((∃ f ∈ a.loc.reg.fields, f.acc = .rwl ∧ f.of new ≠ f.of old) → Completes (.registerWrite path off w64 val) s (fun t =>
      t.reply = { mstat := St.locked, val := 0 } ∧ t.raw a.loc.reg a.loc.key = old ∧ ({ t with regs := s.regs, reply := s.reply } : State) = s))
    ∧ (a.loc.mirror = false → (∀ f ∈ a.loc.reg.fields, f.acc = .rwl → f.of new = f.of old) → Completes (.registerWrite path off w64 val) s (fun t =>
      t.reply = { mstat := St.ok, val := 0 } ∧ t.raw a.loc.reg a.loc.key = new))

/-- R18, R52, R129, R236, R259, R306, R389, R393, R408: the bits that a write of 1 clears. The whole of a log or record is cleared with its VALID,
BADCODE, CLR_REFUSED, FROZEN and the sample's VALID alone; SCALED starts F1_MIN again at F1; nothing else changes. R113, R129, R136, R147, R152, R459,
R465: settings and locks. A granule is set and clears every reservation when it changes; reserved it does nothing; the lock bits and MIL_BOOT.GO stay
set; the map clear begins in a half that is not serving; the attestation target without its enable has no address. The model's own reading or choice
enters here by log entry 34. -/
def Obligations.ClearsAndSettings : Prop :=
  (∀ (s : State) (path : Path) (half race : Nat), s.regs.wf = true → half < 2 → race < 32 →
    let logs : List (Instr × Path × Field) :=
      [(.layStallStatusClear half, .fw half, Fld.LAY_STALL_STATUS_VALID), (.hopLostLogClear path half, path, Fld.HOP_LOST_LOG_VALID),
       (.qrnUeLogClear path half, path, Fld.QRN_UE_LOG_VALID), (.qrnRowLogClear path half, path, Fld.QRN_ROW_LOG_VALID)]
    (∀ e ∈ logs, s.grantsField e.2.1 e.2.2 1 0 half = true → Completes e.1 s (fun t =>
      Wrote e.2.1 [e.2.2.reg.key 0 half] s t ∧ t.raw e.2.2.reg (e.2.2.reg.key 0 half) = 0))
    ∧ (s.grantsField path Fld.BRK_SAFE_VALID 1 0 0 = true → Completes (.brkSafeClear path) s (fun t =>
      Wrote path [Reg.key .BRK_SAFE 0 0] s t ∧ t.raw .BRK_SAFE (Reg.key .BRK_SAFE 0 0) = 0))
    ∧ (s.grantsField path Fld.BRK_CTRL_CLR_REFUSED 1 0 0 = true → Completes (.clrRefusedClear path) s (fun t =>
      Wrote path [Reg.key .BRK_CTRL 0 0] s t ∧ t.fheld Fld.BRK_CTRL_CLR_REFUSED = 0
      ∧ t.fheld Fld.BRK_CTRL_IBI_EN = s.fheld Fld.BRK_CTRL_IBI_EN ∧ t.fheld Fld.BRK_CTRL_INT_EN = s.fheld Fld.BRK_CTRL_INT_EN))
    ∧ (s.grantsField path Fld.BRK_HIST_STAT_FROZEN 1 0 0 = true → Completes (.histUnfreeze path) s (fun t =>
      Wrote path [Reg.key .BRK_HIST_STAT 0 0] s t ∧ t.fheld Fld.BRK_HIST_STAT_FROZEN = 0
      ∧ t.fheld Fld.BRK_HIST_STAT_OVF = s.fheld Fld.BRK_HIST_STAT_OVF ∧ t.fheld Fld.BRK_HIST_STAT_HEAD = s.fheld Fld.BRK_HIST_STAT_HEAD))
    ∧ (s.grantsField path Fld.RACE_SLOT_STAT_BADCODE 1 race 0 = true → Completes (.slotStatBadcodeClear path race) s (fun t =>
      Wrote path [Reg.key .RACE_SLOT_STAT race 0] s t ∧ t.fheld Fld.RACE_SLOT_STAT_BADCODE race = 0
      ∧ t.fheld Fld.RACE_SLOT_STAT_DIRECT race = s.fheld Fld.RACE_SLOT_STAT_DIRECT race))
    ∧ (s.grantsField path Fld.WEIR_STATUS_SCALED 1 0 0 = true → Completes (.weirScaledClear path) s (fun t =>
      Wrote path [Reg.key .WEIR_STATUS 0 0] s t ∧ t.fheld Fld.WEIR_STATUS_SCALED = 0
      ∧ t.fheld Fld.WEIR_STATUS_F1_MIN = s.fheld Fld.WEIR_STATUS_F1 ∧ t.fheld Fld.WEIR_STATUS_F1 = s.fheld Fld.WEIR_STATUS_F1
      ∧ t.fheld Fld.WEIR_STATUS_C0_DEFER = s.fheld Fld.WEIR_STATUS_C0_DEFER))
    ∧ (s.grantsField path Fld.TLY_SAMP1_VALID 1 0 half = true → Completes (.sampleRelease path half) s (fun t =>
      Wrote path [Reg.key .TLY_SAMP1 0 half] s t ∧ t.fheld Fld.TLY_SAMP1_VALID 0 half = 0
      ∧ t.fheld Fld.TLY_SAMP1_LAT 0 half = s.fheld Fld.TLY_SAMP1_LAT 0 half)))
  ∧ (∀ (s : State) (path : Path) (half race gran : Nat), s.regs.wf = true → half < 2 → race < 32 → gran < 4 →
    (s.grantsField path Fld.HOP_ORD_CFG_GRAN gran 0 0 = true → Completes (.granWrite path gran) s (fun t => Answered t
      ∧ (gran ≠ 3 → t.fheld Fld.HOP_ORD_CFG_GRAN = gran) ∧ (gran = 3 → t.fheld Fld.HOP_ORD_CFG_GRAN = s.fheld Fld.HOP_ORD_CFG_GRAN)
      ∧ (gran ≠ 3 → gran ≠ s.fheld Fld.HOP_ORD_CFG_GRAN → t.hop.resv = {}) ∧ (gran = 3 ∨ gran = s.fheld Fld.HOP_ORD_CFG_GRAN → t.hop = s.hop)
      ∧ t.hop.reqs = s.hop.reqs ∧ ({ t with regs := s.regs, reply := s.reply, hop := s.hop } : State) = s))
    ∧ (s.grantsField path Fld.HOP_AMAP_CFG_LOCK 1 0 0 = true → Completes (.hashLock path) s (fun t =>
      Wrote path [Reg.key .HOP_AMAP_CFG 0 0] s t ∧ t.fheld Fld.HOP_AMAP_CFG_LOCK = 1
      ∧ t.fheld Fld.HOP_AMAP_CFG_HASH_MASK = s.fheld Fld.HOP_AMAP_CFG_HASH_MASK))
    ∧ (s.grantsField path Fld.RACE_CTRL_TLOCK 1 race 0 = true → Completes (.timingLock path race) s (fun t =>
      Wrote path [Reg.key .RACE_CTRL race 0] s t ∧ t.fheld Fld.RACE_CTRL_TLOCK race = 1
      ∧ t.fheld Fld.RACE_CTRL_EXP_EN race = s.fheld Fld.RACE_CTRL_EXP_EN race))
    ∧ (s.grantsField path Fld.MIL_BOOT_GO 1 0 0 = true → Completes (.bootGo path) s (fun t =>
      Wrote path [Reg.key .MIL_BOOT 0 0] s t ∧ t.fheld Fld.MIL_BOOT_GO = 1))
    ∧ (s.grantsField path Fld.QRN_WMAP_CFG_CLEAR 1 0 half = true → s.serveReady half = false → s.fheld Fld.QRN_WMAP_CFG_CLEAR 0 half = 0 →
      Completes (.wmapClear path half) s (fun t => Answered t ∧ t.fheld Fld.QRN_WMAP_CFG_CLEAR 0 half = 1 ∧ (t.qrn half).clearing = true
        ∧ t.fheld Fld.QRN_WMAP_CFG_EN 0 half = s.fheld Fld.QRN_WMAP_CFG_EN 0 half ∧ t.dram = s.dram
        ∧ (s.fheld Fld.QRN_WMAP_CFG_EN 0 half = 1 → ({ t with regs := s.regs, reply := s.reply, qrnE := s.qrnE, qrnW := s.qrnW } : State) = s)
        ∧ (s.fheld Fld.QRN_WMAP_CFG_EN 0 half = 0 → ∀ r, r < 32 → raceHalf r = half → (t.race r).fill = none ∧ (t.race r).fillQ = [])))
    ∧ (∀ en, s.grantsField path Fld.MIL_I3C_CFG_ATT_EN (b2n en) 0 0 = true → Completes (.attEnWrite path en) s (fun t => Answered t
      ∧ t.fheld Fld.MIL_I3C_CFG_ATT_EN = b2n en ∧ t.i3c = (if en then s.i3c else { s.i3c with attAddr := none })
      ∧ ({ t with regs := s.regs, reply := s.reply, i3c := s.i3c } : State) = s)))

/-- R18, R486: a write of a register that no rule of its own governs. Every RW field takes the written bits, held to its limits, in the half that the
access reaches and keeps the others; RO fields keep theirs; W1C bits written 1 are cleared and RWS bits set; no other register changes. The model's
own reading or choice enters here by log entry 83. -/
def Obligations.PlainWritesStoreFields : Prop :=
  ∀ (s : State) (path : Path) (off : BitVec 24) (w64 : Bool) (val : Word) (a : Acs), s.regs.wf = true →
      s.grantsWrite path off.toNat w64 val = true → s.acs path off.toNat w64 false = .ok a → a.loc.mirror = false →
      a.loc.reg ∈ [.HEAD_MOD_ERR, .FLUME_CFG, .RACE_SCHED_CFG, .RACE_ERR, .RACE_REF_CNT, .SLU_GP_CFG, .QRN_SCRUB_CFG, .QRN_SCRUB_STAT,
        .QRN_ERR_CFG, .QRN_CNT, .HST_CFG, .GOV_BK_CFG, .GOV_AVS_CFG, .BRK_CTRL, .BRK_HIST_STAT, .TLY_HEAT_IDX, .TLY_STAT, .TLY_SAMP1] →
    Completes (.registerWrite path off w64 val) s (fun t => Wrote path [a.loc.key] s t
      ∧ ∀ f ∈ a.loc.reg.fields,
          let old := f.of (s.raw a.loc.reg a.loc.key)
          let m := f.of (writtenBits a val).1
          let n := f.of (writtenBits a val).2
          let now := f.of (t.raw a.loc.reg a.loc.key)
          (f.acc = .ro → now = old) ∧ (f.acc = .w1c → now = old &&& (2 ^ f.w - 1 - (n &&& m))) ∧ (f.acc = .rws → now = old ||| (n &&& m))
          ∧ (f.acc = .rw → (∀ l ∈ limits1 ++ limits2 ++ limits3, l.1 ≠ f) → now = (old &&& (2 ^ f.w - 1 - m)) ||| (n &&& m))
          ∧ (f.acc = .rw → ∀ lo hi, (f, lo, hi) ∈ limits1 ++ limits2 ++ limits3 →
              now = max lo (min hi ((old &&& (2 ^ f.w - 1 - m)) ||| (n &&& m)))))

/-- R173, R206, R211, R216, R274: a mode-register command begins, or is denied below the unlocked addresses; a slot swap is asked for; at or after mc
48 for the Turn after the next; a slot word written directly is stored with reserved codes as OPEN and marks the table, and the table before it stays
for the choices of this mc and the plans of this Turn; a retraining asked for joins its half's queue. The model's own reading or choice enters here by
log entry 37. -/
def Obligations.RaceCommandsAreAskedFor : Prop :=
  ∀ (s : State) (path : Path) (race j half i : Nat) (val : Word), s.regs.wf = true → race < 32 → j < 8 → half < 2 → i < 16 →
    (s.grantsWrite path (Reg.key .RACE_MR_CMD race 0) true (Fld.RACE_MR_CMD_GO.put val 1) = true → s.fheld Fld.RACE_MR_CMD_BUSY race = 0 →
        s.fheld Fld.RACE_MR_CMD_GO race = 0 →
      Completes (.mrCmd path race val) s (fun t => Intact s t ∧ t.clk = s.clk ∧ Answered t
        ∧ (Fld.RACE_MR_CMD_MA.of val < 0x20 → s.unlocked = false → t.fheld Fld.RACE_MR_CMD_RESULT race = 2
            ∧ t.fheld Fld.RACE_MR_CMD_GO race = 0 ∧ t.fheld Fld.RACE_MR_CMD_BUSY race = 0 ∧ t.races = s.races)
        ∧ (0x20 ≤ Fld.RACE_MR_CMD_MA.of val ∨ s.unlocked = true → t.fheld Fld.RACE_MR_CMD_BUSY race = 1
            ∧ t.race race = { s.race race with mrAt := some s.clk.age, mrIssued := false }
            ∧ t.fheld Fld.RACE_MR_CMD_MA race = Fld.RACE_MR_CMD_MA.of val ∧ t.fheld Fld.RACE_MR_CMD_OP race = Fld.RACE_MR_CMD_OP.of val
            ∧ ∀ r, r ≠ race → t.race r = s.race r)))
    ∧ (∀ races, races < 2 ^ 32 → s.grantsField path Fld.SLU_SLOT_SWAP_RACES races 0 0 = true →
      Completes (.slotSwapRequest path races) s (fun t => Answered t
        ∧ ({ t with regs := s.regs, reply := s.reply, clk := s.clk } : State) = s
        ∧ (∀ r k, k ≠ Reg.key .SLU_SLOT_SWAP 0 0 → (path = .i3c → k ≠ Reg.key .MIL_I3C_STAT 0 0) → t.raw r k = s.raw r k)
        ∧ t.clk = (if s.clk.mc < 48 then s.clk else { s.clk with swapLate := t.clk.swapLate })
        ∧ (48 ≤ s.clk.mc → ∀ r, r < 32 → bit t.clk.swapLate r
            = (bit s.clk.swapLate r || (bit races r && !bit (s.fheld Fld.SLU_SLOT_SWAP_RACES) r)))
        ∧ t.fheld Fld.SLU_SLOT_SWAP_RACES = (s.fheld Fld.SLU_SLOT_SWAP_RACES ||| races)))
    ∧ (s.grantsWrite path (Reg.key2 .RACE_SLOT_ACT race j 0) true val = true → Completes (.slotDirectWrite path race j val) s (fun t =>
      Answered t ∧ ({ t with regs := s.regs, reply := s.reply, races := s.races } : State) = s
      ∧ (∀ r k, k ∉ [Reg.key2 .RACE_SLOT_ACT race j 0, Reg.key .RACE_SLOT_STAT race 0] → (path = .i3c → k ≠ Reg.key .MIL_I3C_STAT 0 0) →
          t.raw r k = s.raw r k)
      ∧ (∀ r, ({ t.race r with actPrev := (s.race r).actPrev, act48 := (s.race r).act48 } : Race) = s.race r)
      ∧ (let was := (List.range 8).map (s.actWord race)
         ((s.race race).actPrev = none → (t.race race).actPrev = some (s.now, was))
         ∧ ((s.race race).act48 = none → (t.race race).act48 = (if s.clk.mc < 48 then none else some was)))
      ∧ t.raw .RACE_SLOT_ACT (Reg.key2 .RACE_SLOT_ACT race j 0) = (slotWord val).1 ∧ t.fheld Fld.RACE_SLOT_STAT_DIRECT race = 1
      ∧ t.fheld Fld.RACE_SLOT_STAT_ADMIT race = 0
      ∧ t.fheld Fld.RACE_SLOT_STAT_BADCODE race = (if (slotWord val).2 then 1 else s.fheld Fld.RACE_SLOT_STAT_BADCODE race)))
    ∧ (s.grantsField path Fld.FAN_CTRL_RETRAIN (2 ^ i) 0 half = true → bit (s.fheld Fld.FAN_CTRL_RETRAIN 0 half) i = false →
        (16 * half + i) ∉ (s.fan half).queue → (s.fan half).running ≠ some (16 * half + i) →
      (s.raceRuns (16 * half + i) = true → Completes (.retrainRequest path half i) s (fun t => Answered t
        ∧ t.fan half = { s.fan half with queue := (s.fan half).queue ++ [16 * half + i] }
        ∧ t.fheld Fld.FAN_CTRL_RETRAIN 0 half = (s.fheld Fld.FAN_CTRL_RETRAIN 0 half ||| 2 ^ i)
        ∧ ({ t with regs := s.regs, reply := s.reply, fanE := s.fanE, fanW := s.fanW } : State) = s))
      ∧ (s.raceRuns (16 * half + i) = false → Completes (.retrainRequest path half i) s (fun t => Answered t ∧ t.fan half = s.fan half
        ∧ t.fheld Fld.FAN_CTRL_RETRAIN 0 half = s.fheld Fld.FAN_CTRL_RETRAIN 0 half)))

/-- R391, R392: a clear takes the PEND bits whose cause has ended and which no raise of this mc has set, and leaves the others; where it names one
whose cause is active, CLR_REFUSED tells; an injection on a pair that is live and not broken drives it once, until STOP, or as a broken wire, and STOP
ends it. The model's own reading or choice enters here by log entry 26. -/
def Obligations.ClearsAndInjections : Prop :=
  ∀ (s : State) (path : Path) (src mask : Nat) (val : Word), s.regs.wf = true →
    (∀ row, srcRow src = some row → src < 64 → mask < 2 ^ 32 → s.grantsField path Fld.BRK_SRC_STAT_PEND mask src 0 = true →
      Completes (.brakePendClear path src mask) s (fun t => Wrote path [Reg.key .BRK_SRC_STAT src 0, Reg.key .BRK_CTRL 0 0] s t
        ∧ (∀ i, i < row.n → bit (t.fheld Fld.BRK_SRC_STAT_PEND src) i
            = (bit (s.fheld Fld.BRK_SRC_STAT_PEND src) i && (!bit mask i || s.brk.cause.get false (pairKey src i)
                || decide (pairKey src i ∈ s.raisedNow))))
        ∧ ((∃ i, i < row.n ∧ bit mask i = true ∧ s.brk.cause.get false (pairKey src i) = true) → t.fheld Fld.BRK_CTRL_CLR_REFUSED = 1)
        ∧ ((∀ i, i < row.n → bit mask i = true → s.brk.cause.get false (pairKey src i) = false) →
            t.fheld Fld.BRK_CTRL_CLR_REFUSED = s.fheld Fld.BRK_CTRL_CLR_REFUSED)))
    ∧ (s.grantsWrite path (Reg.key .BRK_INJ 0 0) true (Fld.BRK_INJ_GO.put val 1) = true → Fld.BRK_INJ_STOP.of val = 0 → s.brk.inj = none →
      let c := Fld.BRK_INJ_SRC.of val
      let i := Fld.BRK_INJ_INST.of val
      let quiet := Fld.BRK_INJ_QUIET.of val = 1
      (s.brk.broken.get false (pairKey c i) = true ∨ s.pairLive c i = false → Completes (.brkInjGo path val) s (fun t =>
        Answered t ∧ t.brk = s.brk ∧ ({ t with regs := s.regs, reply := s.reply } : State) = s))
      ∧ (s.brk.broken.get false (pairKey c i) = false → s.pairLive c i = true → Completes (.brkInjGo path val) s (fun t =>
        Answered t ∧ t.pending = s.pending ∧ t.dram = s.dram ∧ t.fuse = s.fuse ∧ t.clk = s.clk
        ∧ (Fld.BRK_INJ_MODE.of val = 0 → t.brk.inj = none ∧ t.brk.broken = s.brk.broken)
        ∧ (Fld.BRK_INJ_MODE.of val = 1 → t.brk.inj = some (c, i, 1, decide quiet) ∧ t.brk.broken = s.brk.broken)
        ∧ (Fld.BRK_INJ_MODE.of val = 2 → t.brk.inj = some (c, i, 2, decide quiet) ∧ t.brk.broken.get false (pairKey c i) = true)
        ∧ (Fld.BRK_INJ_MODE.of val ≤ 1 → s.raiseSeen { src := c, inst := i, inj := true, quiet := decide quiet } = true →
            bit (t.fheld Fld.BRK_SRC_STAT_PEND c) i = true)
        ∧ (quiet → t.brk.safe = s.brk.safe))))
    ∧ (s.grantsField path Fld.BRK_INJ_STOP 1 0 0 = true → Completes (.brkInjStop path) s (fun t => Answered t ∧ t.brk.inj = none
      ∧ t.brk.broken = s.brk.broken ∧ t.brk.safe = s.brk.safe ∧ ({ t with regs := s.regs, reply := s.reply, brk := s.brk } : State) = s))

/-- R408, R413, R454, R456, R451: a doorbell makes the mailbox BUSY and queues it; a release frees it with every word zero; an access of TLY_HEAT_DATA
moves to the next group; a reset asked for waits for its boundary; leaving test mode asks for a warm reset. The model's own reading or choice enters
here by log entry 14. -/
def Obligations.BoxesHeatAndResetsAreAskedFor : Prop :=
  ∀ (s : State) (path : Path) (half box : Nat), s.regs.wf = true → half < 2 → box < 8 →
    (s.grantsField path Fld.MIL_MB_CTRL_GO 1 box half = true → Completes (.doorbell path half box) s (fun t => Answered t
      ∧ t.fheld Fld.MIL_MB_CTRL_BUSY box half = 1 ∧ t.core half = { s.core half with queue := (s.core half).queue ++ [(half, box)] }
      ∧ ({ t with regs := s.regs, reply := s.reply, mil := s.mil } : State) = s))
    ∧ (s.grantsField path Fld.MIL_MB_CTRL_DONE 1 box half = true → s.fheld Fld.MIL_MB_CTRL_DONE box half = 1 →
      Completes (.mailboxRelease path half box) s (fun t => Answered t ∧ t.fheld Fld.MIL_MB_CTRL_DONE box half = 0
        ∧ (∀ w, w < 8 → t.raw .MIL_MB_REQ (Reg.key2 .MIL_MB_REQ box w half) = 0 ∧ t.raw .MIL_MB_RSP (Reg.key2 .MIL_MB_RSP box w half) = 0)
        ∧ ({ t with regs := s.regs, reply := s.reply } : State) = s))
    ∧ (let g := s.fheld Fld.TLY_HEAT_IDX_IDX 0 half % s.heatGroups
       (∀ a, s.acs path (Reg.key .TLY_HEAT_DATA 0 half) false true = .ok a → Completes (.heatDataAccess path half none) s (fun t =>
         t.reply = { mstat := St.ok, val := BitVec.ofNat 64 (s.heatWord half g) }
         ∧ t.fheld Fld.TLY_HEAT_IDX_IDX 0 half = (g + 1) % s.heatGroups % 2 ^ 17 ∧ ({ t with regs := s.regs, reply := s.reply } : State) = s))
       ∧ (∀ v : BitVec 32, s.grantsWrite path (Reg.key .TLY_HEAT_DATA 0 half) false (BitVec.ofNat 64 v.toNat) = true →
           (s.tly half).heat.wf = true → Completes (.heatDataAccess path half (some v)) s (fun t => Answered t
         ∧ (∀ k, k < 4 → (t.tly half).heat.get 0 (4 * g + k) = v.toNat / 2 ^ (8 * k) % 256)
         ∧ (∀ k, k / 4 ≠ g → (t.tly half).heat.get 0 k = (s.tly half).heat.get 0 k)
         ∧ t.fheld Fld.TLY_HEAT_IDX_IDX 0 half = (g + 1) % s.heatGroups % 2 ^ 17)))
    ∧ (s.awake = true → s.mainsOn = true → s.gov.drain = false → s.boot.pend = none → s.boot.settle = none →
      (s.grantsField path Fld.GOV_RST_CTRL_WARM 1 0 0 = true → Completes (.warmResetRequest path) s (fun t => Answered t
        ∧ t.boot = { s.boot with pend := some .warm } ∧ ({ t with regs := s.regs, reply := s.reply, boot := s.boot } : State) = s))
      ∧ (s.brk.safe = false → s.grantsField path Fld.GOV_RST_CTRL_HALF_W 1 0 0 = true → Completes (.halfResetRequest path) s (fun t => Answered t
        ∧ t.boot = { s.boot with pend := some .half } ∧ ({ t with regs := s.regs, reply := s.reply, boot := s.boot } : State) = s))
      ∧ (∀ races, 0 < races → races < 2 ^ 32 → s.brk.safe = false → s.grantsField path Fld.GOV_RST_CTRL_RACE races 0 0 = true →
        Completes (.raceResetRequest path races) s (fun t => Answered t ∧ t.boot = { s.boot with pend := some (.race races) }
          ∧ ({ t with regs := s.regs, reply := s.reply, boot := s.boot } : State) = s))
      ∧ (s.grantsField path Fld.TST_CTRL_EXIT 1 0 0 = true → Completes (.testModeExit path) s (fun t => Answered t
        ∧ t.fheld Fld.TST_CTRL_TESTMODE = 0 ∧ t.boot.pend = some .warm ∧ t.tst = s.tst)))

/-- R411: private transfers over I3C. A write of 3 bytes sets the pointer; of 7 or 11 aligned bytes it also makes the write; a read of 4 or 8 bytes
reads at the pointer and leaves it; any other transfer makes no access and leaves BADARG. The model's own reading or choice enters here by log entry
33. -/
def Obligations.I3cTransfersAccess : Prop :=
  ∀ (s : State) (bytes : List Byte) (len : Nat), s.regs.wf = true → s.i3cUp = true →
    let off := bytesNat (bytes.take 3)
    let p : State := { s with mil := { s.mil with ptr := off } }
    (bytes.length = 3 → Completes (.i3cPrivateWrite bytes) s (fun t => t = p))
    ∧ (bytes.length = 7 → off % 4 = 0 → Completes (.i3cPrivateWrite bytes) s (fun t => t.mil.ptr = off ∧ t.pending = s.pending
        ∧ Completes (.registerWrite .i3c (BitVec.ofNat 24 off) false (BitVec.ofNat 64 (bytesNat (bytes.drop 3)))) p (fun u => u = t)
        ∧ t.fheld Fld.MIL_I3C_STAT_MSTAT = t.reply.mstat))
    ∧ (bytes.length = 11 → off % 8 = 0 → Completes (.i3cPrivateWrite bytes) s (fun t => t.mil.ptr = off ∧ t.pending = s.pending
        ∧ Completes (.registerWrite .i3c (BitVec.ofNat 24 off) true (BitVec.ofNat 64 (bytesNat (bytes.drop 3)))) p (fun u => u = t)
        ∧ t.fheld Fld.MIL_I3C_STAT_MSTAT = t.reply.mstat))
    ∧ (bytes.length ∉ [3, 7, 11] ∨ (bytes.length = 7 ∧ off % 4 ≠ 0) ∨ (bytes.length = 11 ∧ off % 8 ≠ 0) →
        Completes (.i3cPrivateWrite bytes) s (fun t => t.fheld Fld.MIL_I3C_STAT_MSTAT = St.badarg ∧ t.reply.mstat = St.badarg
          ∧ ({ t with regs := s.regs, reply := s.reply, mil := s.mil } : State) = s))
    ∧ ((len = 4 ∧ s.mil.ptr % 4 = 0) ∨ (len = 8 ∧ s.mil.ptr % 8 = 0) → Completes (.i3cPrivateRead len) s (fun t =>
        t.mil.ptr = s.mil.ptr ∧ t = s.regRead .i3c s.mil.ptr (len = 8) ∧ t.dram = s.dram ∧ t.hop = s.hop
        ∧ ∀ r k, (∀ h, k ≠ Reg.key .TLY_HEAT_IDX 0 h) → k ≠ Reg.key .MIL_I3C_STAT 0 0 → t.raw r k = s.raw r k))
    ∧ (¬ ((len = 4 ∧ s.mil.ptr % 4 = 0) ∨ (len = 8 ∧ s.mil.ptr % 8 = 0)) → Completes (.i3cPrivateRead len) s (fun t =>
        t.fheld Fld.MIL_I3C_STAT_MSTAT = St.badarg ∧ ({ t with regs := s.regs, reply := s.reply } : State) = s))

/-- R412, R418, R422: the commands that report. Each is answered OK with the bytes of its row's RESULT, or BADARG at an argument that names nothing;
the registers and the machine stand as they were. -/
def Obligations.ReportsAreReplied : Prop :=
  ∀ (s : State) (c : Nat) (v : Serve), s.regs.wf = true → c < 2 → v.box < 8 → v.half < 2 → (s.core c).cur = some v →
    let said := fun (i : Instr) (st det res : Nat) => Completes i s (fun t => OnlyMailbox v s t ∧ Replied s t c v st det res)
    (v.opc = 0x00 → said (.ping c) St.ok 0 (results [(0, 8, (s.fwVer c).toNat)]))
    ∧ (v.opc = 0x01 → said (.getId c) St.ok 0 (results [(0, 4, s.see .MMK_FITTED), (4, 1, s.ld.lc), (5, 1, b2n s.unlocked), (8, 48, s.certDigest.toNat)]))
    ∧ (v.opc = 0x02 → s.splitNow = false → s.domainOn 65 = true →
        said (.getStatus c) St.ok 0 (results [(0, 8, s.see .GOV_STATUS), (8, 8, s.see .HST_STATUS 0 0), (16, 8, s.see .HST_STATUS 0 1),
          (24, 8, s.see .WEIR_STATUS), (32, 4, s.see .BRK_CTRL), (36, 1, b2n s.readyBoth + 2 * b2n s.completeBoth), (40, 8, s.clk.turn)]))
    ∧ (v.opc = 0x02 → s.splitNow = true →
        said (.getStatus c) St.ok 0 (results [(0, 8, s.see .GOV_STATUS), (8, 8, s.see .HST_STATUS 0 0), (16, 8, 0),
          (24, 8, s.see .WEIR_STATUS), (32, 4, s.see .BRK_CTRL), (36, 1, b2n s.readyBoth + 2 * b2n s.completeBoth + 4), (40, 8, s.clk.turn)]))
    ∧ (v.opc = 0x11 → (s.arg v 0 2 ≤ 4095 → said (.getStream c) St.ok 0 (results [(0, 4, s.see .HOP_STREAM (s.arg v 0 2))]))
        ∧ (4095 < s.arg v 0 2 → said (.getStream c) St.badarg 8 0))
    ∧ (v.opc = 0x13 → (s.arg v 0 1 ≤ 63 → said (.getGroup c) St.ok 0 (results [(0, 8, s.see .WEIR_GRP (s.arg v 0 1))]))
        ∧ (63 < s.arg v 0 1 → said (.getGroup c) St.badarg 8 0))
    ∧ (let r := s.arg v 0 1
       let first := s.arg v 2 1
       let n := s.arg v 3 1
       v.opc = 0x15 → r ≤ 31 → s.arg v 1 1 ≤ 1 → 1 ≤ n → n ≤ 6 → first + n ≤ 8 → s.isolated r = false → s.domainOn r = true →
        said (.getSlots c) St.ok 0 (results ((List.range n).map (fun k =>
          (8 * k, 8, (if s.arg v 1 1 = 1 then s.actWord r (first + k) else s.shdWord r (first + k)).toNat)) ++ [(48, 8, s.see .RACE_SLOT_STAT r)])))
    ∧ (v.opc = 0x17 → (∀ r ∈ racesOf (s.arg v 0 4), s.isolated r = false ∧ s.domainOn r = true ∧ s.commitCheck r = 0) →
        said (.checkSlots c) St.ok 0 (results [(0, 2, s.maxBound (racesOf (s.arg v 0 4)))]))
    ∧ (let h := s.arg v 0 1
       v.opc = 0x30 → h ≤ 1 → s.domainOn (64 + h) = true → said (.granStatus c) St.ok 0 (results [(0, 8, s.see .HST_STATUS 0 h),
        (8, 8, s.see .HST_CEIL 0 h), (16, 8, s.see .HST_RATE 0 h), (24, 8, s.see .HST_RESTORE 0 h)]))
    ∧ (v.opc = 0x43 → said (.getPower c) St.ok 0 (results [(0, 8, s.see .GOV_STATUS), (8, 4, s.see .GOV_WAKE), (12, 4, s.see .GOV_PWR_CTRL),
        (16, 8, s.see .GOV_SUP_STAT), (24, 8, s.see .GOV_BK_STAT)]))
    ∧ (let chain := Config.certsOf s.fuse.certs
       let cert := chain.getD (s.arg v 0 1) []
       v.opc = 0x75 → s.mmk.cryptoBad = false → s.fuse.certsDone = true → Completes (.mmkCert c) s (fun t => OnlyMailbox v s t
        ∧ (s.arg v 0 1 < chain.length → s.arg v 4 4 < cert.length → Replied s t c v St.ok 0 (results ([(0, 4, cert.length)]
            ++ (List.range 48).map (fun k => (8 + k, 1, ((cert.drop (s.arg v 4 4)).getD k 0).toNat)))))
        ∧ (chain.length ≤ s.arg v 0 1 → Replied s t c v St.badarg 8 0)
        ∧ (s.arg v 0 1 < chain.length → cert.length ≤ s.arg v 4 4 → Replied s t c v St.badarg 12 0)))

/-- R410, R413 to R416, R420, R421: the service of the mailboxes. The oldest doorbell is answered by the first check it fails, relayed to East, or
begun; a background command that has no more to wait for is answered and leaves its core free; COMMIT_SLOTS is answered after its swap; a mailbox that
has been BUSY too long is answered TIMEOUT with DETAIL 0xFFFF and what its core served is given up. -/
def Obligations.MailboxesAreServed : Prop :=
  ∀ (s : State) (c half box : Nat), s.regs.wf = true → c < 2 → box < 8 → half < 2 →
    (∀ rest, s.coreFree c = true → (s.core c).queue = (half, box) :: rest →
      let v : Serve := ⟨half, box, mbOpc (s.mbWord ⟨half, box, 0⟩ 0)⟩
      let u := s.setCore c { s.core c with queue := rest }
      let relayed := c = 1 ∧ opDefined v.opc = true ∧ opHere v.opc = false ∧ s.splitNow = false
      (relayed → Completes (.mailboxServiceStart c) s (fun t => t.regs = s.regs ∧ (t.core 1).queue = rest
          ∧ (t.core 0).queue = s.insRung (half, box) (s.core 0).queue
          ∧ (t.core 0).queue.length = (s.core 0).queue.length + 1 ∧ (half, box) ∈ (t.core 0).queue ∧ ({ t with mil := s.mil } : State) = s))
      ∧ (∀ st det, ¬ relayed → u.early c v = some (st, det) → Completes (.mailboxServiceStart c) s (fun t =>
          OnlyMailbox v s t ∧ Replied s t c v st det 0 ∧ (t.core c).queue = rest))
      ∧ (¬ relayed → u.early c v = none → v.opc ≠ 0x76 → Completes (.mailboxServiceStart c) s (fun t => (t.core c).cur = some v
          ∧ (t.core c).queue = rest ∧ (t.core c).bg = (s.core c).bg ∧ ({ t with mil := s.mil } : State) = s)))
    ∧ (∀ v : Serve, s.domainOn (62 + c) = true → s.mil.swapped = none → (s.core c).bg = some v → v.box < 8 → v.half < 2 → s.bgWaits c v = false →
        (v.opc = 0x04 → c = 0) →
      Completes (.commandComplete c) s (fun t => t.pending = s.pending ∧ t.clk = s.clk ∧ (t.core c).bg = none
        ∧ t.fheld Fld.MIL_MB_CTRL_DONE v.box v.half = 1 ∧ t.fheld Fld.MIL_MB_CTRL_BUSY v.box v.half = 0
        ∧ (v.opc = 0x22 → t.raw .MIL_MB_RSP (Reg.key2 .MIL_MB_RSP v.box 0 v.half) = mbReply (mbOpc (s.mbWord v 0)) (mbTag (s.mbWord v 0)) St.ok 0)
        ∧ (v.opc = 0x04 → t.mil.east.img = s.mil.east.image ∧ t.mil.west.img = s.mil.east.image ∧ t.mil.east.stage = {})))
    ∧ (∀ (v : Serve) (b m no turn : Nat), s.domainOn 62 = true → s.mil.east.cur = some v → v.opc = 0x16 → v.box < 8 → v.half < 2 →
        s.mil.commit = some (m, b) → s.mil.swapped = some (no, turn) → Completes (.commandComplete 0) s (fun t => OnlyMailbox v s t
        ∧ Replied s t 0 v St.ok 0 (results [(0, 2, b), (4, 4, no), (8, 8, turn)]) ∧ t.mil.commit = none ∧ t.mil.swapped = none))
    ∧ ((∀ d w, d < 2 → (s.core d).cur = some w ∨ (s.core d).bg = some w → w.box < 8 ∧ w.half < 2) → s.domainOn (62 + half) = true →
        s.overdue half box = true → Completes (.mailboxTimeout half box) s (fun t => t.pending = s.pending
        ∧ t.clk = s.clk ∧ (t.core half).cur = none ∧ (t.core half).bg = none ∧ (half, box) ∉ (t.core half).queue
        ∧ t.fheld Fld.MIL_MB_CTRL_DONE box half = 1 ∧ t.fheld Fld.MIL_MB_CTRL_BUSY box half = 0
        ∧ (let w0 := s.mbWord ⟨half, box, 0⟩ 0
           t.raw .MIL_MB_RSP (Reg.key2 .MIL_MB_RSP box 0 half) = mbReply (mbOpc w0) (mbTag w0) St.timeout 0xFFFF)))

/-- R425, R427: firmware. Image bytes are held at their offsets; a fetch and an activation that pass their checks go to the background; the staged
image is discarded; SOFT_RESET is answered and begins its wait, and is denied in Alert. The model's own reading or choice enters here by log entries
12, 74. -/
def Obligations.FirmwareIsLoaded : Prop :=
  ∀ (s : State) (c : Nat) (v : Serve), s.regs.wf = true → c < 2 → v.box < 8 → v.half < 2 → (s.core c).cur = some v →
    (let off := s.arg v 4 4
     let n := mbNarg (s.mbWord v 0) - 8
     v.opc = 0x03 → s.arg v 0 1 = 0 → off + n ≤ imageMax → Completes (.fwLoadData c) s (fun t => OnlyMailbox v s t
      ∧ Replied s t c v St.ok 0 (results [(0, 4, (t.core c).stage.rows.length)])
      ∧ (∀ i, i < n → (t.core c).stage.find? (off + i) = some (BitVec.ofNat 8 (s.arg v (8 + i) 1)))
      ∧ (∀ k, k < off ∨ off + n ≤ k → (t.core c).stage.find? k = (s.core c).stage.find? k)))
    ∧ (v.opc = 0x03 → s.arg v 0 1 = 1 → s.arg v 4 4 + s.arg v 16 4 ≤ imageMax → s.arg v 8 8 % 64 = 0 →
        s.arg v 8 8 + s.arg v 16 4 ≤ topOf s.ld → s.fetchReady c = true → Completes (.fwLoadFetch c) s (fun t => InBackground s t c v
      ∧ ({ t with mil := s.mil } : State) = s))
    ∧ (v.opc = 0x04 → s.arg v 0 1 ≤ 1 → (s.core 0).complete = true → s.mayActivate = true → Completes (.fwActivate c) s (fun t =>
        (s.imageOk (s.core 0) = true → s.ld.svnMin ≤ (s.core 0).image.svn → InBackground s t c v ∧ ({ t with mil := s.mil } : State) = s)
        ∧ (s.imageOk (s.core 0) = true → (s.core 0).image.svn < s.ld.svnMin → OnlyMailbox v s t ∧ Replied s t c v St.denied 0x11 0)
        ∧ (s.imageOk (s.core 0) = false → OnlyMailbox v s t ∧ Replied s t c v St.denied 0x10 0 ∧ (t.core 0).img = (s.core 0).img)))
    ∧ (v.opc = 0x05 → Completes (.fwDiscard c) s (fun t => OnlyMailbox v s t ∧ Replied s t c v St.ok 0 0 ∧ (t.core c).stage = {}))
    ∧ (v.opc = 0x06 → s.gov.alert = false → s.gov.drain = false → Completes (.softReset c) s (fun t => OnlyMailbox v s t
        ∧ Replied s t c v St.ok 0 0 ∧ t.mil.softAt = some (s.mil.softAt.getD s.clk.age)))
    ∧ (v.opc = 0x06 → s.gov.alert = true ∨ s.gov.drain = true → Completes (.softReset c) s (fun t => OnlyMailbox v s t
        ∧ Replied s t c v St.denied 4 0 ∧ t.mil.softAt = s.mil.softAt))

/-- R206, R210, R239 to R241, R254, R274, R423: streams, groups, slot tables and training by mailbox. A stream that is held answers BUSY, else its
word is stored; a group's contract is stored unless the contracts exceed what the device gives; slot words go into the shadow table; a commit whose
races pass asks for the swap and waits; a retraining joins the queues. The model's own reading or choice enters here by log entries 53, 70. -/
def Obligations.StreamsGroupsAndSlotsAreSet : Prop :=
  ∀ (s : State) (c : Nat) (v : Serve), s.regs.wf = true → c < 2 → v.box < 8 → v.half < 2 → (s.core c).cur = some v → s.mainsOn = true →
    (let st := s.arg v 0 2
     v.opc = 0x10 → st ≤ 4095 → (s.streamHeld st (s.arg v 4 4) = false → Completes (.setStream c) s (fun t => Intact s t ∧ t.clk = s.clk
        ∧ Replied s t c v St.ok 0 0 ∧ ∀ f ∈ [Fld.HOP_STREAM_EN, Fld.HOP_STREAM_GROUP, Fld.HOP_STREAM_CLASS, Fld.HOP_STREAM_HOME],
            t.fheld f st = f.of (BitVec.ofNat 64 (s.arg v 4 4))))
      ∧ (s.streamHeld st (s.arg v 4 4) = true → Completes (.setStream c) s (fun t => OnlyMailbox v s t ∧ Replied s t c v St.busy 0 0)))
    ∧ (let g := s.arg v 0 1
       let w : Word := BitVec.ofNat 64 (s.arg v 8 8)
       v.opc = 0x12 → g ≤ 63 → (∀ e ∈ s.groupArgs w, e.1 = false) →
        ((s.setRaw .WEIR_GRP (Reg.key .WEIR_GRP g 0) w).overcommit = none → Completes (.setGroup c) s (fun t => Intact s t ∧ t.clk = s.clk
          ∧ Replied s t c v St.ok 0 0 ∧ ∀ f ∈ [Fld.WEIR_GRP_SHARE1, Fld.WEIR_GRP_C0_RATE, Fld.WEIR_GRP_C0_MODS], t.fheld f g = f.of w))
        ∧ (∀ d, (s.setRaw .WEIR_GRP (Reg.key .WEIR_GRP g 0) w).overcommit = some d →
          Completes (.setGroup c) s (fun t => OnlyMailbox v s t ∧ Replied s t c v St.overcommit d 0)))
    ∧ (let races := racesOf (s.arg v 0 4)
       let first := s.arg v 4 1
       let n := s.arg v 5 1
       v.opc = 0x14 → first ≤ 7 → 1 ≤ n → n ≤ 6 → first + n ≤ 8 → (∀ r ∈ races, s.isolated r = false ∧ s.domainOn r = true) →
        Completes (.setSlots c) s (fun t => Intact s t ∧ t.clk = s.clk ∧ Replied s t c v St.ok 0 0
          ∧ (∀ r ∈ races, ∀ k, k < n → t.raw .RACE_SLOT_SHD (Reg.key2 .RACE_SLOT_SHD r (first + k) 0)
              = (slotWord (BitVec.ofNat 64 (s.arg v (8 + 8 * k) 8))).1)
          ∧ ∀ r j, r < 32 → j < 8 → r ∉ races ∨ j < first ∨ first + n ≤ j → t.raw .RACE_SLOT_SHD (Reg.key2 .RACE_SLOT_SHD r j 0)
              = s.raw .RACE_SLOT_SHD (Reg.key2 .RACE_SLOT_SHD r j 0)))
    ∧ (let mask := s.arg v 0 4
       v.opc = 0x16 → s.mil.commit = none → (∀ r ∈ racesOf mask, s.isolated r = false ∧ s.domainOn r = true ∧ s.commitCheck r = 0) →
        Completes (.commitSlots c) s (fun t => Intact s t ∧ ({ t.clk with swapLate := s.clk.swapLate } : Clk) = s.clk ∧ (t.core c).cur = some v
          ∧ t.mil.commit = some (mask, s.maxBound (racesOf mask)) ∧ t.fheld Fld.SLU_SLOT_SWAP_RACES = (s.fheld Fld.SLU_SLOT_SWAP_RACES ||| mask)
          ∧ t.fheld Fld.WEIR_STATUS_BOUND = min 511 (s.maxBound (racesOf mask)) ∧ ∀ r ∈ racesOf mask, (t.race r).admPend = true))
    ∧ (let mask := s.arg v 0 4
       ∀ r, v.opc = 0x16 → s.mil.commit = none → (∀ q ∈ racesOf mask, s.isolated q = false ∧ s.domainOn q = true) →
        (racesOf mask).find? (fun q => decide (s.commitCheck q ≠ 0)) = some r → Completes (.commitSlots c) s (fun t => OnlyMailbox v s t
          ∧ Replied s t c v St.overcommit (r * 256 + s.commitCheck r) 0))
    ∧ (v.opc = 0x20 → s.gov.alert = false → (∀ r ∈ racesOf (s.arg v 0 4), s.isolated r = false ∧ s.domainOn r = true) →
      Completes (.retrain c) s (fun t => Intact s t ∧ t.clk = s.clk ∧ Replied s t c v St.ok 0 0
        ∧ ∀ r ∈ racesOf (s.arg v 0 4), s.raceRuns r = true → r ∈ (t.fan (raceHalf r)).queue ∨ (t.fan (raceHalf r)).running = some r))

/-- R300, R302, R303: repair by mailbox. A row repair takes a free soft entry or is denied; a fuse burn is begun for each of the five sources with the
entry it names, where the life cycle permits its type; a race is isolated. The model's own reading or choice enters here by log entries 71, 72. -/
def Obligations.RepairsAreBegun : Prop :=
  ∀ (s : State) (c : Nat) (v : Serve), s.regs.wf = true → c < 2 → v.box < 8 → v.half < 2 → (s.core c).cur = some v →
    (let p := s.repairPlace v
     v.opc = 0x21 → p.race ≤ 31 → p.pr ≤ 1 → p.sid < s.nsid → p.bg ≤ 3 → p.bank ≤ 7 → p.row < 2 ^ rowbitsOf s.ld → s.isolated p.race = false →
        s.domainOn p.race = true →
      (∀ i w u, s.softEntries.find? (fun e => softState e.2 = 0) = some (i, w) → s.queueRepair p = some u → Completes (.repairRow c) s (fun t =>
        Intact s t ∧ Replied s t c v St.ok 0 (results [(0, 1, i)]) ∧ t.raw .DRS_SOFT (Reg.key .DRS_SOFT i 0) = u.raw .DRS_SOFT (Reg.key .DRS_SOFT i 0)
        ∧ t.fanE = u.fanE ∧ t.fanW = u.fanW))
      ∧ (s.queueRepair p = none → Completes (.repairRow c) s (fun t => OnlyMailbox v s t ∧ Replied s t c v St.denied 5 0)))
    ∧ (v.opc = 0x22 → s.drs.burn = none → s.gov.ps = .run → s.gov.lowX = false → s.gov.alert = false →
      let begun := fun (i : Instr) (k : Nat) (w : Word) => Completes i s (fun t => InBackground s t c v ∧ t.drs.burn = some (k, w)
        ∧ t.fuse = s.fuse ∧ t.regs = s.regs ∧ (t.core c).bgAux = k)
      (∀ k, s.blankFuse = some k →
        (let w := (s.raw .DRS_SOFT (Reg.key .DRS_SOFT (s.arg v 1 1) 0)).toNat
         s.arg v 0 1 = 0 → s.arg v 1 1 ≤ 63 → softState w = 2 → typeOk s.ld.lc 1 = true → begun (.fuseRepairSoftRow c) k (entSeal (w / 2 ^ 18 * 2 ^ 18)))
        ∧ (let n := s.laneFix (s.arg v 1 1) (s.arg v 2 1) (s.arg v 3 1)
           s.arg v 0 1 = 1 → s.arg v 1 1 ≤ 31 → s.arg v 2 1 ≤ 1 → s.arg v 3 1 ≤ 6 → n ≠ 0 → typeOk s.ld.lc 3 = true →
            begun (.fuseRepairLane c) k (laneEntry (s.arg v 1 1) (s.arg v 2 1) (s.arg v 3 1) n))
        ∧ (s.arg v 0 1 = 2 → s.arg v 1 1 ≤ 31 → typeOk s.ld.lc 4 = true → begun (.fuseRepairRetire c) k (entSeal (4 * 2 ^ 60 + s.arg v 1 1 * 2 ^ 55)))
        ∧ (s.arg v 0 1 = 3 → typeOk s.ld.lc (entType (s.arg v 8 8)) = true → begun (.fuseRepairRaw c) k (entSeal (s.arg v 8 8))))
      ∧ (let k := s.arg v 4 2
         let w := (s.fuse.map.find? k).getD 0
         s.arg v 0 1 = 4 → k ≤ 1023 → w ≠ 0 → typeOk s.ld.lc 15 = true → begun (.fuseRepairRevoke c) k (BitVec.ofNat 64 (setBits w.toNat 60 4 15))))
    ∧ (v.opc = 0x23 → s.arg v 0 1 ≤ 31 → s.isolated (s.arg v 0 1) = false → Completes (.isolateRace c) s (fun t => Intact s t ∧ t.clk = s.clk
      ∧ Replied s t c v St.ok 0 0 ∧ bit (t.fheld Fld.DRS_ISOL_ISOL) (s.arg v 0 1) = true ∧ (t.race (s.arg v 0 1)).isoAt = some s.clk.age
      ∧ (t.race (s.arg v 0 1)).run = false))

/-- R350, R351, R355, R377, R422, R426: granary and power by mailbox. A format, a log and a power state go to the background, the log as a submission
to its drive where that is up; the backup energy that is set is taken over, into EMEAS where no capacitance test holds it; the power and thermal
settings are stored, thresholds that do not ascend answered BADARG at the first that fails. The model's own reading or choice enters here by log
entries 36, 72, 73, 75. -/
def Obligations.GranaryAndPowerAreSet : Prop :=
  ∀ (s : State) (c : Nat) (v : Serve), s.regs.wf = true → c < 2 → v.box < 8 → v.half < 2 → (s.core c).cur = some v → s.mainsOn = true →
    (let l := halvesOf (s.arg v 0 1)
     v.opc = 0x31 → s.arg v 0 1 ≤ 3 → s.arg v 1 1 = 0xA5 → s.hostService = true → (∀ h ∈ l, (s.hst h).st = .failed ∨ (s.hst h).st = .steady) →
      Completes (.granFormat c) s (fun t => InBackground s t c v ∧ t.pending = s.pending ∧ t.fuse = s.fuse ∧ t.clk = s.clk
        ∧ (∀ h, h < 2 → h ∈ l → (t.hst h).gen = (s.hst h).gen + 1 ∧ (t.hst h).placed = {} ∧ (t.hst h).image = 1)
        ∧ ∀ h, h < 2 → h ∉ l → t.hst h = s.hst h))
    ∧ (v.opc = 0x32 → s.fheld Fld.GOV_BK_CFG_MODE ≠ 0 → Completes (.setBackup c) s (fun t => Intact s t ∧ t.clk = s.clk ∧ Replied s t c v St.ok 0 0
        ∧ t.gov.setBk = some (min 4095 (s.arg v 0 4), s.clk.age)
        ∧ t.fheld Fld.GOV_BK_STAT_EMEAS = (if s.gov.bkTest || s.gov.bkHold then s.fheld Fld.GOV_BK_STAT_EMEAS else min 4095 (s.arg v 0 4))))
    ∧ (v.opc = 0x32 → s.fheld Fld.GOV_BK_CFG_MODE = 0 → Completes (.setBackup c) s (fun t => OnlyMailbox v s t ∧ Replied s t c v St.denied 4 0))
    ∧ (v.opc = 0x33 → s.arg v 0 1 ≤ 7 → (s.driveLost (s.arg v 0 1) = false → Completes (.granLog c) s (fun t => InBackground s t c v
          ∧ ({ t with mil := s.mil, hstE := s.hstE, hstW := s.hstW } : State) = s
          ∧ (let h := s.arg v 0 1 / 4
             t.hst (1 - h) = s.hst (1 - h)
             ∧ ((s.hst h).live (s.arg v 0 1 % 4) = false → t.hst h = s.hst h)
             ∧ ((s.hst h).live (s.arg v 0 1 % 4) = true → t.hst h = { s.hst h with nextCid := (s.hst h).nextCid + 1, cmds := (s.hst h).cmds
                  ++ [{ cid := (s.hst h).nextCid, port := s.arg v 0 1, kind := 4, v := 0, since := s.clk.age, sub := true }] }))))
        ∧ (s.driveLost (s.arg v 0 1) = true → Completes (.granLog c) s (fun t => OnlyMailbox v s t
          ∧ Replied s t c v St.offDomain (52 + s.arg v 0 1) 0)))
    ∧ (∀ p, v.opc = 0x40 → PState.of (s.arg v 0 1) = some p → s.gov.entry = none → s.awake = true → s.brk.safe = false → s.gov.alert = false →
        s.fheld Fld.GOV_PWR_CTRL_GO = 0 → p ≠ .run → p ≠ s.gov.ps → Completes (.setPower c) s (fun t => InBackground s t c v ∧ Intact s t
        ∧ t.clk = s.clk ∧ t.gov.entry = some p ∧ t.gov.entryCore = some c ∧ t.fheld Fld.GOV_PWR_CTRL_REQ = p.code
        ∧ t.fheld Fld.GOV_PWR_CTRL_BUSY = 1))
    ∧ (v.opc = 0x41 → Completes (.setPwrCfg c) s (fun t => Intact s t ∧ t.clk = s.clk ∧ Replied s t c v St.ok 0 0
        ∧ t.fheld Fld.GOV_PWR_CFG_KEEP_SIDS = Fld.GOV_PWR_CFG_KEEP_SIDS.of (BitVec.ofNat 64 (s.arg v 0 8))
        ∧ t.fheld Fld.GOV_PWR_CFG_ENTRY_TMO = max 1 (min 4095 (Fld.GOV_PWR_CFG_ENTRY_TMO.of (BitVec.ofNat 64 (s.arg v 0 8))))
        ∧ t.fheld Fld.GOV_PWR_CFG_WATCH_MS = min 1000 (Fld.GOV_PWR_CFG_WATCH_MS.of (BitVec.ofNat 64 (s.arg v 0 8)))))
    ∧ (v.opc = 0x42 → (∀ i, thermBad (s.arg v 0 8) = some i → Completes (.setTherm c) s (fun t => OnlyMailbox v s t
          ∧ Replied s t c v St.badarg (8 + i) 0))
        ∧ (thermBad (s.arg v 0 8) = none → Completes (.setTherm c) s (fun t => Intact s t ∧ t.clk = s.clk ∧ Replied s t c v St.ok 0 0
          ∧ (∀ f ∈ Reg.fields .GOV_THERM_CFG, t.fheld f = f.of (BitVec.ofNat 64 (s.arg v 0 8)))
          ∧ t.fheld Fld.GOV_STEP_CFG_AAW1 = max 4 (min 63 (Fld.GOV_STEP_CFG_AAW1.of (BitVec.ofNat 64 (s.arg v 8 8)))))))

/-- R383, R389, R391, R392, R402 to R408: Brake and Tally by mailbox. A severity that is permitted is set, in force from the next mc, any other
answered BADARG; a clear takes the bits whose cause has ended and answers CAUSE_ACTIVE with those left; an injection drives its pair, where the pair
is live and not broken, and STOP ends it; the ring is released with its overflow; the Tally settings of the halves named are stored; heat levels are
read or written from IDX on. The model's own reading or choice enters here by log entries 32, 76. -/
def Obligations.BrakeAndTallyAreSet : Prop :=
  ∀ (s : State) (c : Nat) (v : Serve), s.regs.wf = true → c < 2 → v.box < 8 → v.half < 2 → (s.core c).cur = some v → s.mainsOn = true →
    let a := fun i : Nat => s.arg v i 1
    (v.opc = 0x50 → (srcRow (a 0)).isSome = true → (s.sevMay (a 0) (a 1) = true → Completes (.setSev c) s (fun t => Intact s t ∧ t.clk = s.clk
          ∧ Replied s t c v St.ok 0 0 ∧ t.fheld Fld.BRK_SRC_CFG_SEV (a 0) = a 1
          ∧ ∀ u : State, u.regs = t.regs → u.brk = t.brk → u.now ≠ s.now → u.sevOf (a 0) = a 1))
        ∧ (s.sevMay (a 0) (a 1) = false → Completes (.setSev c) s (fun t => OnlyMailbox v s t ∧ Replied s t c v St.badarg 9 0)))
    ∧ (v.opc = 0x51 → (srcRow (a 0)).isSome = true → Completes (.clear c) s (fun t => Intact s t ∧ t.brk = s.brk
        ∧ (let left := s.arg v 4 4 &&& t.fheld Fld.BRK_SRC_STAT_PEND (a 0)
           Replied s t c v (if left = 0 then St.ok else St.causeActive) 0 (results [(0, 4, left)]))
        ∧ t.fheld Fld.BRK_SRC_STAT_PEND (a 0) = (s.pendClear (a 0) (s.arg v 4 4)).1.fheld Fld.BRK_SRC_STAT_PEND (a 0)))
    ∧ (v.opc = 0x52 → pairExists (a 0) (a 1) = true → a 2 ≤ 2 → a 3 ≤ 1 →
      (a 4 = 0 → s.brk.inj = none → s.pairLive (a 0) (a 1) = false ∨ s.brk.broken.get false (pairKey (a 0) (a 1)) = true →
        Completes (.inject c) s (fun t => OnlyMailbox v s t ∧ Replied s t c v St.ok 0 0))
      ∧ (a 4 = 0 → s.brk.inj = none → s.pairLive (a 0) (a 1) = true → s.brk.broken.get false (pairKey (a 0) (a 1)) = false → Completes (.inject c) s (fun t => Intact s t ∧ t.clk = s.clk
          ∧ Replied s t c v St.ok 0 0 ∧ (a 2 = 0 → t.brk.inj = none) ∧ (a 2 ≠ 0 → t.brk.inj = some (a 0, a 1, a 2, decide (a 3 = 1)))
          ∧ (a 2 = 2 → t.brk.broken.get false (pairKey (a 0) (a 1)) = true)))
      ∧ (a 4 = 1 → Completes (.injectStop c) s (fun t => Intact s t ∧ t.clk = s.clk ∧ Replied s t c v St.ok 0 0 ∧ t.brk.inj = none
          ∧ t.brk.broken = s.brk.broken)))
    ∧ (v.opc = 0x53 → Completes (.histRelease c) s (fun t => Intact s t ∧ t.clk = s.clk
        ∧ Replied s t c v St.ok 0 (results [(0, 2, s.fheld Fld.BRK_HIST_STAT_OVF)]) ∧ t.fheld Fld.BRK_HIST_STAT_FROZEN = 0))
    ∧ (v.opc = 0x60 → a 0 ≤ 3 → (∀ h ∈ halvesOf (a 0), s.domainOn (70 + h) = true) → Completes (.tlySetCfg c) s (fun t => Intact s t ∧ t.clk = s.clk
        ∧ Replied s t c v St.ok 0 0 ∧ ∀ h ∈ halvesOf (a 0), (∀ f ∈ [Fld.TLY_CFG_RING_EN, Fld.TLY_CFG_DECAY, Fld.TLY_CFG_USER_OK],
              t.fheld f 0 h = f.of (BitVec.ofNat 64 (s.arg v 4 4)))
            ∧ t.fheld Fld.TLY_CFG_WBITS 0 h = min 10 (Fld.TLY_CFG_WBITS.of (BitVec.ofNat 64 (s.arg v 4 4)))))
    ∧ (let w : Word := limitWord .TLY_RING (BitVec.ofNat 64 (s.arg v 8 8))
       v.opc = 0x61 → a 0 ≤ 1 → s.domainOn (70 + a 0) = true → (s.ringOk w = true → Completes (.tlySetRing c) s (fun t => Intact s t ∧ t.clk = s.clk
          ∧ Replied s t c v St.ok 0 0 ∧ t.fheld Fld.TLY_RING_BASE 0 (a 0) = Fld.TLY_RING_BASE.of w
          ∧ t.fheld Fld.TLY_RING_COUNT 0 (a 0) = Fld.TLY_RING_COUNT.of w))
        ∧ (s.ringOk w = false → Completes (.tlySetRing c) s (fun t => OnlyMailbox v s t ∧ Replied s t c v St.badarg 16 0)))
    ∧ (v.opc = 0x62 → Completes (.tlySetUser c) s (fun t => Intact s t ∧ t.clk = s.clk ∧ Replied s t c v St.ok 0 0
        ∧ t.fheld Fld.TLY_USER_MODS = Fld.TLY_USER_MODS.of (BitVec.ofNat 64 (s.arg v 0 4))))
    ∧ (let h := a 0
       let idx := s.arg v 4 4
       v.opc = 0x63 → h ≤ 1 → idx < s.heatGroups → s.heatGroups ≤ 2 ^ 17 → s.domainOn (70 + h) = true →
        (a 1 = 0 → Completes (.tlyHeatRead c) s (fun t => Intact s t ∧ t.clk = s.clk ∧ t.fheld Fld.TLY_HEAT_IDX_IDX 0 h = (idx + 12) % s.heatGroups
          ∧ Replied s t c v St.ok 0 (results ((List.range 12).map (fun k => (4 * k, 4, s.heatWord h ((idx + k) % s.heatGroups)))))
          ∧ t.tly h = s.tly h))
        ∧ (a 1 = 1 → (s.tly h).heat.wf = true → 12 ≤ s.heatGroups → Completes (.tlyHeatWrite c) s (fun t => Intact s t ∧ t.clk = s.clk
          ∧ t.fheld Fld.TLY_HEAT_IDX_IDX 0 h = (idx + 12) % s.heatGroups ∧ Replied s t c v St.ok 0 0
          ∧ ∀ k, k < 12 → t.heatWord h ((idx + k) % s.heatGroups) = s.arg v (8 + 4 * k) 4)))

/-- R429, R430, R438 to R443, R448, R450: Millmark by mailbox. A challenge draws a nonce, a signature that verifies opens the unlock and ends the
nonce; the nonce ends by itself after 30 s; a passphrase becomes the candidate, or opens, or counts a failure; the lock closes; an advance and the
tests go to the background; test access opens and closes in two parts. The model's own reading or choice enters here by log entries 12, 71, 77, 79,
80. -/
def Obligations.MillmarkCommandsRun : Prop :=
  ∀ (s : State) (c : Nat) (v : Serve), s.regs.wf = true → c < 2 → v.box < 8 → v.half < 2 →
    ((s.core c).cur = some v → s.mmk.cryptoBad = false →
      (v.opc = 0x70 → Completes (.mmkChallenge c) s (fun t => Intact s t
        ∧ Replied s t c v St.ok 0 (results [(0, 48, (Config.rng s.mmk.draws).toNat)])
        ∧ t.mmk = { s.mmk with nonce := some (Config.rng s.mmk.draws), nonceAt := s.clk.age, draws := s.mmk.draws + 1 }))
      ∧ (v.opc = 0x71 → s.arg v 0 1 = 0 → Completes (.mmkResponseR c) s (fun t => Intact s t ∧ Replied s t c v St.ok 0 0
        ∧ t.mmk = { s.mmk with respR := some (BitVec.ofNat 384 (s.arg v 8 48)) }))
      ∧ (∀ r, v.opc = 0x71 → s.arg v 0 1 = 1 → s.mmk.respR = some r → Completes (.mmkResponseS c) s (fun t =>
          let ok := s.responseOk r (BitVec.ofNat 384 (s.arg v 8 48))
          Intact s t ∧ t.mmk.nonce = none ∧ t.mmk.respR = none ∧ (ok = true → t.mmk.unlock = 2 ∧ Replied s t c v St.ok 0 0)
          ∧ (ok = false → t.mmk.unlock = s.mmk.unlock ∧ Replied s t c v St.denied 0x10 0)))
      ∧ (let n := s.arg v 0 1
         let p := (List.range n).map (fun i => BitVec.ofNat 8 (s.arg v (8 + i) 1))
         v.opc = 0x72 → 8 ≤ n → n ≤ 48 →
          (s.ld.lc = 2 → Completes (.mmkPassphrase c) s (fun t => Intact s t ∧ Replied s t c v St.ok 0 0 ∧ t.mmk = { s.mmk with cand := some p }))
          ∧ (s.ld.lc = 3 → s.mmk.fails < 8 → Completes (.mmkPassphrase c) s (fun t => Intact s t
              ∧ (s.passOk p = true → Replied s t c v St.ok 0 0 ∧ t.mmk = { s.mmk with unlock := if s.mmk.unlock = 2 then 2 else 3 })
              ∧ (s.passOk p = false → Replied s t c v St.denied 0x10 0 ∧ t.mmk = { s.mmk with fails := s.mmk.fails + 1 })))
          ∧ (s.ld.lc ≠ 2 → s.ld.lc ≠ 3 → Completes (.mmkPassphrase c) s (fun t => OnlyMailbox v s t ∧ Replied s t c v St.locked 1 0)))
      ∧ (v.opc = 0x73 → Completes (.mmkLock c) s (fun t => Intact s t ∧ Replied s t c v St.ok 0 0 ∧ (s.openByState = true → t.mmk = s.mmk ∧ t.tst = s.tst)
          ∧ (s.openByState = false → t.unlocked = false ∧ t.acc1149 = false ∧ t.acc1838 = false)))
      ∧ (v.opc = 0x74 → s.arg v 0 1 ≤ 5 → s.fuse.lcNext = none → s.mayAdvance (s.arg v 0 1) = true → s.gov.ps = .run → s.gov.lowX = false →
          s.gov.alert = false → s.ld.lc ≠ 0 ∨ s.fuse.keyVoid < 2 → Completes (.mmkAdvance c) s (fun t => InBackground s t c v ∧ t.fuse = s.fuse
          ∧ (t.core c).bgAux = s.arg v 0 1 ∧ ({ t with mil := s.mil } : State) = s))
      ∧ (v.opc = 0x77 → s.arg v 0 1 ≤ 3 → s.openByState = false → (s.core c).parts = 0 →
          Completes (.testAccess1149 c) s (fun t => t.tst.acc1149 = bit (s.arg v 0 1) 0 ∧ t.tst.acc1838 = s.tst.acc1838 ∧ (t.core c).parts = 1
            ∧ (t.core c).cur = some v ∧ ({ t with mil := s.mil, tst := s.tst } : State) = s)
          ∧ Completes (.testAccess1838 c) s (fun t => t.tst.acc1838 = bit (s.arg v 0 1) 1 ∧ t.tst.acc1149 = s.tst.acc1149 ∧ (t.core c).parts = 2
            ∧ (t.core c).cur = some v ∧ ({ t with mil := s.mil, tst := s.tst } : State) = s))
      ∧ (v.opc = 0x77 → s.arg v 0 1 ≤ 3 → (s.core c).parts = 1 → Completes (.testAccess1838 c) s (fun t => Intact s t ∧ Replied s t c v St.ok 0 0
          ∧ (t.core c).parts = 0)))
    ∧ (∀ n, s.mmk.nonce = some n → s.mmk.nonceAt + msTurns 30000 ≤ s.clk.age → Completes .nonceExpire s (fun t =>
        t = { s with mmk := { s.mmk with nonce := none } }))
    ∧ ((s.core c).bg = some v → v.opc = 0x76 →
      (∀ failed, bit (s.core c).bgAux 0 = true → Completes (.selftestCrypto c failed) s (fun t => Intact s t ∧ t.regs = s.regs
          ∧ t.mmk.cryptoBad = failed ∧ (failed = false → t.mmk.rngOk = true ∧ t.mmk.stFail = s.mmk.stFail)
          ∧ (failed = true → bit t.mmk.stFail 0 = true) ∧ bit (t.core c).bgAux 0 = false ∧ (t.core c).bg = some v))
      ∧ (bit (s.core c).bgAux 1 = true → Completes (.selftestWire c []) s (fun t => Intact s t ∧ t.regs = s.regs ∧ t.brk = s.brk
          ∧ t.mmk.stFail = s.mmk.stFail ∧ bit (t.core c).bgAux 1 = false))
      ∧ (∀ a i, bit (s.core c).bgAux 1 = true → s.pairLive a i = true → s.brk.cause.get false (pairKey a i) = false → s.heldPair a i = false →
          Completes (.selftestWire c [(a, i)]) s (fun t => Intact s t ∧ t.brk.broken.get false (pairKey a i) = true ∧ bit t.mmk.stFail 1 = true))
      ∧ (bit (s.core c).bgAux 2 = true → Completes (.selftestFuse c) s (fun t => Intact s t ∧ bit (t.core c).bgAux 2 = false
          ∧ (s.fusesDiffer = false → t.regs = s.regs ∧ t.brk = s.brk ∧ t.mmk = s.mmk)
          ∧ (s.fusesDiffer = true → bit t.mmk.stFail 2 = true))))

/-- R448 to R453: the TAP. An instruction that its state and access allow shifts its data register out and, where the register has one, updates it;
EXTEST, CLAMP and HIGHZ take the pads in test mode only; any other instruction selects BYPASS. The model's own reading or choice enters here by log
entry 78. -/
def Obligations.TapInstructionsRun : Prop :=
  ∀ (s : State) (pads tdi : BitVec 1248) (b : BitVec 1) (dies : BitVec 16) (capt tsv : BitVec 984) (ctl : BitVec 32) (key : BitVec 1024)
      (cert : BitVec 65536), s.boot.aonDown = false → s.regs.wf = true →
    let shows := fun (i : Instr) (x : Tst) => Completes i s (fun t => t = { s with tst := x })
    let sel := fun (ir out : Nat) (drive highz : Bool) => ({ s.tst with ir := ir, tdo := BitVec.ofNat 65536 out, drive := drive, highz := highz } : Tst)
    shows (.bypass b) (sel 0xFF 0 false false)
    ∧ (s.acc1149 = true → shows .idcode (sel 0x01 s.idChain false false))
    ∧ (s.acc1149 = true → shows (.samplePreload pads tdi) { sel 0x02 pads.toNat false false with bnd := tdi })
    ∧ (s.acc1149 = true → s.tst.inmode = true → shows (.extest pads tdi) { sel 0x03 pads.toNat true false with bnd := tdi }
        ∧ shows (.clamp b) (sel 0x04 0 true false) ∧ shows (.highz b) (sel 0x05 0 false true)
        ∧ shows (.tsvtest capt tsv) { sel 0x11 capt.toNat false false with tsv := tsv })
    ∧ (s.acc1149 = true → s.acc1838 = true → shows (.dsel dies) { sel 0x10 s.tst.dsel.toNat false false with dsel := BitVec.ofNat 16 (dies.toNat % 2 ^ (4 * s.nsid)) })
    ∧ (s.acc1149 = false → shows .idcode (sel 0xFF 0 false false) ∧ shows (.samplePreload pads tdi) (sel 0xFF 0 false false)
        ∧ shows (.extest pads tdi) (sel 0xFF 0 false false) ∧ shows (.clamp b) (sel 0xFF 0 false false) ∧ shows (.highz b) (sel 0xFF 0 false false)
        ∧ shows (.tsvtest capt tsv) (sel 0xFF 0 false false))
    ∧ (s.acc1149 = false ∨ s.acc1838 = false → shows (.dsel dies) (sel 0xFF 0 false false))
    ∧ (s.openByState = true → s.mainsOn = true → Completes (.tstctl ctl) s (fun t => t.tst = sel 0x20 (s.see .TST_CTRL) false false
        ∧ t.pending = s.pending ∧ t.dram = s.dram ∧ t.fuse = s.fuse ∧ t.reply = s.reply
        ∧ (bit ctl.toNat 31 = false → t.boot = s.boot ∧ ∀ f ∈ [Fld.TST_CTRL_TESTMODE, Fld.TST_CTRL_ARM_MBIST, Fld.TST_CTRL_ARM_LBIST],
            t.fheld f = f.of (BitVec.ofNat 64 ctl.toNat))))
    ∧ (s.openByState = false → shows (.tstctl ctl) (sel 0xFF 0 false false))
    ∧ (s.ld.lc = 0 → Completes (.keyfuse key) s (fun t => t = 
        { s with tst := (sel 0x21 s.fuse.keyFuse.toNat false false), fuse := { s.fuse with keyFuse := s.fuse.keyFuse ||| key, keyFuseDone := true } }))
    ∧ (s.ld.lc ≠ 0 → shows (.keyfuse key) (sel 0xFF 0 false false))
    ∧ (s.ld.lc = 1 → s.fuse.certsDone = false → Completes (.certload cert) s (fun t => t = 
        { s with tst := (sel 0x22 0 false false), fuse := { s.fuse with certs := cert, certsDone := true } }))
    ∧ (s.ld.lc ≠ 1 ∨ s.fuse.certsDone = true → shows (.certload cert) (sel 0xFF 0 false false))
    ∧ (s.ld.lc = 1 → shows .pubkey (sel 0x23 (s.ld.uid.toNat + (s.ld.unitKey.getD 0).toNat * 2 ^ 64) false false))
    ∧ (s.ld.lc ≠ 1 → shows .pubkey (sel 0xFF 0 false false))

/-- R436, R437: attestation. With an address, in a state of host service and after the negotiation each request needs, a request gets the response of
its code; before the negotiation, or for a slot or block that is not there, an ERROR; in BLANK and SCRAPPED an ERROR only. The model's own reading or
choice enters here by log entries 12, 44. -/
def Obligations.AttestationAnswers : Prop :=
  ∀ (s : State) (eid : Byte) (body : List Byte) (slot off len index : Nat) (signed : Bool), s.attUp = true →
    let gives := fun (i : Instr) (x : I3c) => Completes i s (fun t => t = { s with i3c := x })
    let rsp := fun (code : Nat) (b : List Byte) => ({ s.i3c with rsp := 0x13 :: BitVec.ofNat 8 code :: b } : I3c)
    let all : List Instr := [.getVersion, .getCapabilities body, .negotiateAlgorithms body, .getDigests, .getCertificate slot off len, .challenge slot body,
      .getMeasurements index signed body]
    gives (.setEndpointId eid) { s.i3c with eid := eid }
    ∧ (s.hostService = false ∨ s.mmk.cryptoBad = true → ∀ i ∈ all, gives i (rsp 0x7F [0x05, 0]))
    ∧ (s.hostService = true → s.mmk.cryptoBad = false →
      gives .getVersion { rsp 0x04 (Config.spdmBody 0x04 []) with spdmVer := true, spdmNeg := false }
      ∧ (s.i3c.spdmVer = true → gives (.getCapabilities body) (rsp 0x61 (Config.spdmBody 0x61 body))
          ∧ gives (.negotiateAlgorithms body) { rsp 0x63 (Config.spdmBody 0x63 body) with spdmNeg := true })
      ∧ (s.i3c.spdmVer = false → gives (.getCapabilities body) (rsp 0x7F [0x04, 0]) ∧ gives (.negotiateAlgorithms body) (rsp 0x7F [0x04, 0]))
      ∧ (s.i3c.spdmNeg = false → ∀ i ∈ all.drop 3, gives i (rsp 0x7F [0x04, 0]))
      ∧ (s.i3c.spdmNeg = true →
        let digest := leBytes 48 (Config.sha384 s.spdmChain).toNat
        gives .getDigests (rsp 0x01 ([0, 1] ++ digest))
        ∧ (let part := (s.spdmChain.drop off).take len
           slot = 0 → gives (.getCertificate slot off len) (if off < s.spdmChain.length then rsp 0x02 ([0, 0] ++ leBytes 2 part.length
            ++ leBytes 2 (s.spdmChain.length - off - part.length) ++ part) else rsp 0x7F [0x01, 0]))
        ∧ (slot = 0 → gives (.challenge slot body) (rsp 0x03 (spdmSigned 0x03 ([0, 1] ++ digest ++ Config.spdmBody 0x03 body))))
        ∧ (slot ≠ 0 → gives (.challenge slot body) (rsp 0x7F [0x01, 0]) ∧ gives (.getCertificate slot off len) (rsp 0x7F [0x01, 0]))
        ∧ (1 ≤ index → index ≤ 4 → signed = false → gives (.getMeasurements index signed body)
            (rsp 0x60 ([0, 0, 1] ++ leBytes 3 (s.block index).length ++ s.block index ++ Config.spdmBody 0x60 body)))
        ∧ (4 < index → index ≠ 0xFF → gives (.getMeasurements index signed body) (rsp 0x7F [0x01, 0]))))

/-- R376, R464 to R466, R480: the I3C bus. A target without an address sends its provisional ID, BCR and DCR in ENTDAA and takes the address given;
one that has an address keeps it; GETSTATUS shows WAKE_FAIL, the power state and ALERT; KY_GO, KY_POWER, KY_WARM and KY_WAKE act in their states and
in no other; HDR modes silence the targets until the exit pattern. The model's own reading or choice enters here by log entries 10, 81. -/
def Obligations.I3cBusCommandsAct : Prop :=
  ∀ (s : State) (addr : BitVec 7) (req target : Nat) (def_ : Byte) (en : Bool), s.regs.wf = true → s.boot.aonDown = false →
    let sends := fun (k : Nat) (t : State) => t.reply.mstat = St.ok ∧ bits t.reply.val.toNat 0 16 = 0x0A00
      ∧ bits t.reply.val.toNat 16 12 = s.fheld Fld.MIL_BOOT_SLOT ∧ bits t.reply.val.toNat 28 4 = k ∧ bits t.reply.val.toNat 32 17 = 0x5E3A
    (s.i3c.hdr = false →
      (s.i3c.slotOk = true → (s.i3c.mgmtAddr = none → Completes (.entdaa 0 addr) s (fun t =>
            ({ t with reply := s.reply } : State) = { s with i3c := { s.i3c with mgmtAddr := some addr } } ∧ sends 0 t))
        ∧ (s.i3c.mgmtAddr.isSome = true → Completes (.entdaa 0 addr) s (fun t => t = s))
        ∧ (s.fheld Fld.MIL_I3C_CFG_ATT_EN = 1 → s.i3c.attAddr = none → Completes (.entdaa 1 addr) s (fun t =>
            ({ t with reply := s.reply } : State) = { s with i3c := { s.i3c with attAddr := some addr } } ∧ sends 1 t))
        ∧ (s.i3c.attAddr.isSome = true → Completes (.entdaa 1 addr) s (fun t => t = s))
        ∧ (s.fheld Fld.MIL_I3C_CFG_ATT_EN = 0 → Completes (.entdaa 1 addr) s (fun t => t = s)))
      ∧ (s.i3c.slotOk = false → Completes (.entdaa target addr) s (fun t => t = s))
      ∧ (s.i3c.mgmtAddr.isSome = true → Completes .getstatus s (fun t => ({ t with reply := s.reply, freeCtr := s.freeCtr } : State) = s
        ∧ bits t.reply.val.toNat 12 3 = s.gov.ps.code ∧ bits t.reply.val.toNat 8 3 = 0 ∧ bit t.reply.val.toNat 11 = s.gov.alert
        ∧ bit t.reply.val.toNat 15 = decide (s.fheld Fld.GOV_WAKE_FAIL = 1)))
      ∧ (s.awake = true → Completes .kyGo s (fun t => OnlyRegs s t [Reg.key .MIL_BOOT 0 0] ∧ t.fheld Fld.MIL_BOOT_GO = 1))
      ∧ (s.awake = false → Completes .kyGo s (fun t => t = s) ∧ Completes (.kyPower req) s (fun t => t = s)
          ∧ Completes (.kyWarm def_) s (fun t => t = s))
      ∧ (∀ p, PState.of req = some p → s.awake = true → s.mainsOn = true → s.gov.entry = none → s.brk.safe = false → s.gov.alert = false →
          p ≠ .run → p ≠ s.gov.ps → Completes (.kyPower req) s (fun t => Intact s t ∧ t.clk = s.clk ∧ t.gov.entry = some p
            ∧ t.gov.entryCore = none ∧ t.fheld Fld.GOV_PWR_CTRL_REQ = p.code ∧ t.fheld Fld.GOV_PWR_CTRL_BUSY = 1))
      ∧ (s.awake = true → s.mainsOn = true → s.gov.drain = false → s.boot.pend = none → Completes (.kyWarm 0xA5) s (fun t =>
          t = { s with boot := { s.boot with pend := some .warm } }))
      ∧ (def_ ≠ 0xA5 → Completes (.kyWarm def_) s (fun t => t = s))
      ∧ (s.gov.ps = .furl ∨ s.gov.ps = .fullFurl ∨ s.gov.ps = .off → s.gov.entry = none → s.gov.wake = none → s.wakeOn 1 = true →
          Completes .kyWake s (Woken 1 s))
      ∧ (s.awake = true → Completes .kyWake s (fun t => t = s))
      ∧ Completes (.controllerIbiEnable 0 en) s (fun t => t = { s with i3c := { s.i3c with ibiMgmt := en } })
      ∧ Completes (.controllerIbiEnable 1 en) s (fun t => t = { s with i3c := { s.i3c with ibiAtt := en } }))
    ∧ Completes .enthdr s (fun t => t = { s with i3c := { s.i3c with hdr := true } })
    ∧ Completes .hdrExitPattern s (fun t => t = { s with i3c := { s.i3c with hdr := false } })

/-- R425, R454, R456, R460, R461: a reset is asked for by WRST_N, low for 1 µs (below 0.5 µs it is ignored), or, 64 Turns after its reply, by
SOFT_RESET; its settle ends when no race holds a store it covers, or at 256 Turns, when those that do are isolated and their stores dropped. The
model's own reading or choice enters here by log entries 14, 15, 84. -/
def Obligations.ResetsAreAskedAndSettle : Prop :=
  ∀ (s : State) (ns : Nat), s.regs.wf = true →
    (1000 ≤ ns → s.awake = true → s.mainsOn = true → s.gov.drain = false → s.boot.pend = none → Completes (.wrstNLow ns) s (fun t =>
        t = { s with boot := { s.boot with pend := some .warm } }))
    ∧ (ns < 500 → Completes (.wrstNLow ns) s (fun t => t = s))
    ∧ (s.awake = false → Completes (.wrstNLow ns) s (fun t => ({ t with freeCtr := s.freeCtr } : State) = s))
    ∧ (500 ≤ ns → ns < 1000 → s.awake = true → s.mainsOn = true → s.gov.drain = false → s.boot.pend = none → Completes (.wrstNLow ns) s (fun t =>
        ({ t with freeCtr := s.freeCtr } : State) = s ∨ ({ t with freeCtr := s.freeCtr } : State) = { s with boot := { s.boot with pend := some .warm } }))
    ∧ (∀ a, s.mil.softAt = some a → a + 64 ≤ s.clk.age → s.awake = true → s.mainsOn = true → s.gov.drain = false → s.brk.safe = false → s.boot.pend = none →
      Completes .softResetStart s (fun t => t = { s with mil := { s.mil with softAt := none }, boot := { s.boot with pend := some .soft } }))
    ∧ (∀ k, s.boot.pend = some k → s.boot.settle.isSome = true → s.boot.settled = false → s.boot.after = none →
        (∀ r ∈ k.races, s.holding k r = false ∧ ((s.race r).isoAt = none ∨ (s.race r).isoDrop = true)) →
      Completes .settleComplete s (fun t => Intact s t ∧ t.clk = s.clk ∧ t.regs = s.regs ∧ t.boot = { s.boot with settled := true }
        ∧ (k = .warm → t.races = s.races) ∧ (k ≠ .warm → ∀ r ∈ k.races, s.raceRuns r = true → (t.race r).inReset = true)
        ∧ t.hop = s.hop ∧ t.pond = s.pond ∧ t.flume = s.flume))
    ∧ (∀ k a, s.boot.pend = some k → s.boot.settle = some a → s.boot.settled = false → s.boot.after = none → a + 256 ≤ s.clk.age →
      Completes .settleTimeout s (fun t => Intact s t ∧ t.clk = s.clk ∧ t.boot.settled = true
        ∧ ∀ r ∈ k.races, s.holding k r = true → t.isolated r = true ∧ (t.race r).wq = [] ∧ (t.race r).fau = []))

/-- R24, R361, R387, R454 to R459, R465: the resets themselves and their release. A power-on loses the DRAM content, every request and buffer, and
keeps the fuses but for what a burn left; a warm reset keeps the DRAM content; a half reset keeps East's; a race reset names its race alone; at the
release the slot is taken and no reset is in force: East's core runs at once, and West, the modules and the races follow 0.1 ms later, while a half
reset releases West by itself. The model's own reading or choice enters here by log entries 16, 17, 18, 60. -/
def Obligations.ResetsActAndRelease : Prop :=
  ∀ (s : State) (race : Nat) (slot : BitVec 6), s.regs.wf = true →
    (s.boot.aonDown = true → Completes (.powerOnReset true) s (fun t => t.pending = s.pending ∧ t.clk.turn = 0 ∧ t.dram.cells = {} ∧ t.dram.wmap = {}
        ∧ t.hop = {} ∧ t.pond = [] ∧ t.flume = [] ∧ t.boot.inReset = some .powerOn ∧ t.boot.aonDown = false
        ∧ t.fheld Fld.GOV_STATUS_RST_CAUSE = 1 ∧ t.i3c = {} ∧ t.fuse = t.ld))
    ∧ (s.boot.pend = some .warm → s.boot.settled = true → s.boot.inReset = none → s.lcPower = false → s.armed = false → s.mil.east.cur = none →
        s.mil.west.cur = none → s.mil.east.bg = none → s.mil.west.bg = none → s.drs.burn = none → (∀ r, (s.race r).isoAt = none) →
      Completes .warmReset s (fun t => t.pending = s.pending ∧ t.dram.cells = s.dram.cells ∧ t.dram.zeroed = s.dram.zeroed ∧ t.dram.era = s.dram.era
        ∧ t.hop.reqs = {} ∧ t.hop.resv = {} ∧ t.pond = [] ∧ t.flume = [] ∧ t.boot.inReset = some .warm ∧ t.fheld Fld.GOV_STATUS_RST_CAUSE = 3
        ∧ t.mmk.unlock = 0 ∧ t.mmk.nonce = none))
    ∧ (s.boot.pend = some .half → s.boot.settled = true → s.boot.inReset = none → s.handed (halfRaces 1) = true → s.lcPower = false →
        s.mil.east.cur = none → s.mil.west.cur = none → s.mil.east.bg = none → s.mil.west.bg = none → s.lay.split = false → s.mods.wf = true →
      Completes .halfReset s (fun t => t.pending = s.pending ∧ t.dram.cells = s.dram.cells ∧ t.boot.inReset = some .half ∧ t.boot.westUp = false
        ∧ t.fheld Fld.GOV_STATUS_RST_CAUSE = 4 ∧ (∀ m, m < 10 → t.mod m = s.mod m) ∧ (∀ r, r < 16 → t.race r = s.race r) ∧ t.tlyE = s.tlyE ∧ t.tlyW = { bwPart := true }
        ∧ t.pond = s.pond.filter (fun e => e.half = 0) ∧ t.hop.resv = {} ∧ t.lay = s.lay))
    ∧ (∀ m, s.boot.pend = some (.race m) → race < 32 → bit m race = true → s.boot.settled = true → s.boot.inReset = none → s.handed [race] = true →
        s.lcPower = false → bit (retiredMask s.fuse) race = false → Completes (.raceReset race) s (fun t => t.pending = s.pending ∧ t.clk = s.clk
        ∧ (t.race race).run = true ∧ (t.race race).inReset = false ∧ (t.race race).wq = [] ∧ (t.race race).rq = [] ∧ race ∈ t.boot.trainQ
        ∧ t.dram.cells = s.dram.cells ∧ (∀ r, r ≠ race → (t.race r).banks = (s.race r).banks ∧ (t.race r).run = (s.race r).run) ∧ t.hop.resv = {}
        ∧ bit (t.fheld Fld.DRS_ISOL_ISOL) race = false))
    ∧ (∀ k, s.boot.inReset = some k → s.boot.aonDown = false → s.awake = true → Completes (.resetRelease slot) s (fun t => t.pending = s.pending
        ∧ t.clk = s.clk ∧ t.boot.inReset = none ∧ (k = .half → t.boot.westUp = true ∧ t.mil.west.up = true)
        ∧ (k ≠ .half → t.mil.east.up = true ∧ t.boot.westUp = false ∧ t.boot.rest = some (s.clk.age, decide (k = .warm)))
        ∧ t.fheld Fld.MIL_BOOT_SLOT = slot.toNat ∧ t.i3c.slotOk = true
        ∧ (s.i3c.slotOk = false → t.fheld Fld.MIL_I3C_CFG_ATT_EN = (if slot.toNat < 48 then 1 else 0))
        ∧ (s.i3c.slotOk = true → t.fheld Fld.MIL_I3C_CFG_ATT_EN = s.fheld Fld.MIL_I3C_CFG_ATT_EN)))

end
end

