-- ==== Sys2Proof/Laws/Table.lean ====
section
/-!
SUPPORT. Laws of sparse tables: the canonical form is kept by every operation, a read after a write gives what was written,
and a write leaves every other key alone.
-/
namespace Sys2Proof.Machine

variable {α : Type}

theorem Tbl.rising_insIn (k : Nat) (v : α) (l : List (Nat × α)) (b : Nat) (h : Tbl.risingFrom (some b) l = true) (hb : b < k) :
    Tbl.risingFrom (some b) (Tbl.insIn k v l) = true := by
  induction l generalizing b with
  | nil => simp [Tbl.insIn, Tbl.risingFrom, hb]
  | cons x r ih =>
    obtain ⟨j, w⟩ := x
    simp only [Tbl.risingFrom, Bool.and_eq_true, decide_eq_true_eq] at h
    simp only [Tbl.insIn]
    split
    · simp_all [Tbl.risingFrom]
    · split
      · simp_all [Tbl.risingFrom]
      · have hj : j < k := by omega
        simp [Tbl.risingFrom, h.1, ih j h.2 hj]

theorem Tbl.rising_delIn (k : Nat) (l : List (Nat × α)) (b : Nat) (h : Tbl.risingFrom (some b) l = true) :
    Tbl.risingFrom (some b) (Tbl.delIn k l) = true := by
  induction l generalizing b with
  | nil => simp [Tbl.delIn, Tbl.risingFrom]
  | cons x r ih =>
    obtain ⟨j, w⟩ := x
    simp only [Tbl.risingFrom, Bool.and_eq_true, decide_eq_true_eq] at h
    simp only [Tbl.delIn]
    split
    · cases r with
      | nil => simp [Tbl.risingFrom]
      | cons y r =>
        obtain ⟨i, u⟩ := y
        simp only [Tbl.risingFrom, Bool.and_eq_true, decide_eq_true_eq] at h ⊢
        exact ⟨by omega, h.2.2⟩
    · split
      · simp [Tbl.risingFrom, h.1, h.2]
      · simp [Tbl.risingFrom, h.1, ih j h.2]

theorem Tbl.rising_weaken (l : List (Nat × α)) (b c : Nat) (hb : b ≤ c) (h : Tbl.risingFrom (some c) l = true) :
    Tbl.risingFrom (some b) l = true := by
  cases l with
  | nil => simp [Tbl.risingFrom]
  | cons x r =>
    obtain ⟨j, w⟩ := x
    simp only [Tbl.risingFrom, Bool.and_eq_true, decide_eq_true_eq] at h ⊢
    exact ⟨by omega, h.2⟩

theorem Tbl.rising_filter (p : Nat × α → Bool) (l : List (Nat × α)) (b : Nat) (h : Tbl.risingFrom (some b) l = true) :
    Tbl.risingFrom (some b) (l.filter p) = true := by
  induction l generalizing b with
  | nil => simp [Tbl.risingFrom]
  | cons x r ih =>
    obtain ⟨j, w⟩ := x
    simp only [Tbl.risingFrom, Bool.and_eq_true, decide_eq_true_eq] at h
    simp only [List.filter_cons]
    split
    · simp [Tbl.risingFrom, h.1, ih j h.2]
    · exact Tbl.rising_weaken _ b j (by omega) (ih j h.2)

/-- From no bound: the first key is free. -/
theorem Tbl.rising_none (l : List (Nat × α)) : Tbl.risingFrom none l = true ↔ (match l with | [] => True | (k, _) :: r => Tbl.risingFrom (some k) r = true) := by
  cases l with
  | nil => simp [Tbl.risingFrom]
  | cons x r => simp [Tbl.risingFrom]

@[simp] theorem Tbl.wf_empty : (({} : Tbl α)).wf = true := rfl

@[simp] theorem Tbl.wf_ins (t : Tbl α) (k : Nat) (v : α) (h : t.wf = true) : (t.ins k v).wf = true := by
  obtain ⟨l⟩ := t
  simp only [Tbl.wf, Tbl.ins] at h ⊢
  cases l with
  | nil => simp [Tbl.insIn, Tbl.risingFrom]
  | cons x r =>
    obtain ⟨j, w⟩ := x
    simp only [Tbl.risingFrom] at h
    simp only [Tbl.insIn]
    split
    · simp [Tbl.risingFrom, *]
    · split
      · subst_vars
        simpa [Tbl.risingFrom] using h
      · have hj : j < k := by omega
        simpa [Tbl.risingFrom] using Tbl.rising_insIn k v r j h hj

@[simp] theorem Tbl.wf_del (t : Tbl α) (k : Nat) (h : t.wf = true) : (t.del k).wf = true := by
  obtain ⟨l⟩ := t
  simp only [Tbl.wf, Tbl.del] at h ⊢
  cases l with
  | nil => simp [Tbl.delIn, Tbl.risingFrom]
  | cons x r =>
    obtain ⟨j, w⟩ := x
    simp only [Tbl.risingFrom] at h
    simp only [Tbl.delIn]
    split
    · cases r with
      | nil => simp [Tbl.risingFrom]
      | cons y r =>
        obtain ⟨i, u⟩ := y
        simp only [Tbl.risingFrom, Bool.and_eq_true] at h ⊢
        exact h.2
    · split
      · simpa [Tbl.risingFrom] using h
      · simpa [Tbl.risingFrom] using Tbl.rising_delIn k r j h

@[simp] theorem Tbl.wf_put [DecidableEq α] (t : Tbl α) (d : α) (k : Nat) (v : α) (h : t.wf = true) : (t.put d k v).wf = true := by
  unfold Tbl.put
  split
  · exact Tbl.wf_del t k h
  · exact Tbl.wf_ins t k v h

@[simp] theorem Tbl.wf_upd [DecidableEq α] (t : Tbl α) (d : α) (k : Nat) (f : α → α) (h : t.wf = true) : (t.upd d k f).wf = true :=
  Tbl.wf_put t d k _ h

@[simp] theorem Tbl.wf_keep (t : Tbl α) (p : Nat → α → Bool) (h : t.wf = true) : (t.keep p).wf = true := by
  obtain ⟨l⟩ := t
  simp only [Tbl.wf, Tbl.keep] at h ⊢
  induction l with
  | nil => simp [Tbl.risingFrom]
  | cons x r ih =>
    obtain ⟨j, w⟩ := x
    simp only [Tbl.risingFrom] at h
    have hr : Tbl.risingFrom none r = true := by
      cases r with
      | nil => simp [Tbl.risingFrom]
      | cons y r =>
        obtain ⟨i, u⟩ := y
        simp only [Tbl.risingFrom, Bool.and_eq_true] at h ⊢
        exact h.2
    simp only [List.filter_cons]
    split
    · simpa [Tbl.risingFrom] using Tbl.rising_filter (fun r => p r.1 r.2) r j h
    · exact ih hr

theorem Tbl.find_ins_same (t : Tbl α) (k : Nat) (v : α) : (t.ins k v).find? k = some v := by
  obtain ⟨l⟩ := t
  simp only [Tbl.find?, Tbl.ins]
  induction l with
  | nil => simp [Tbl.insIn, Tbl.findIn]
  | cons x r ih =>
    obtain ⟨j, w⟩ := x
    simp only [Tbl.insIn]
    split
    · simp [Tbl.findIn]
    · split
      · simp [Tbl.findIn]
      · have h1 : ¬ j = k := by assumption
        have h2 : ¬ k < j := by assumption
        simp [Tbl.findIn, h1, h2, ih]

theorem Tbl.find_ins_other (t : Tbl α) (k i : Nat) (v : α) (h : i ≠ k) : (t.ins k v).find? i = t.find? i := by
  obtain ⟨l⟩ := t
  simp only [Tbl.find?, Tbl.ins]
  induction l with
  | nil =>
    have : ¬ k = i := fun e => h e.symm
    simp [Tbl.insIn, Tbl.findIn, this]
  | cons x r ih =>
    obtain ⟨j, w⟩ := x
    have hk : ¬ k = i := fun e => h e.symm
    simp only [Tbl.insIn]
    split
    · simp only [Tbl.findIn, hk, if_false]
      split
      · have h1 : ¬ j = i := by omega
        have h2 : i < j := by omega
        simp [h1, h2]
      · rfl
    · split
      · subst_vars
        simp [Tbl.findIn, hk]
      · simp [Tbl.findIn, ih]

theorem Tbl.findIn_low (i b : Nat) (l : List (Nat × α)) (h : Tbl.risingFrom (some b) l = true) (hi : i ≤ b) : Tbl.findIn i l = none := by
  cases l with
  | nil => rfl
  | cons x r =>
    obtain ⟨j, w⟩ := x
    simp only [Tbl.risingFrom, Bool.and_eq_true, decide_eq_true_eq] at h
    have h1 : ¬ j = i := by omega
    have h2 : i < j := by omega
    simp [Tbl.findIn, h1, h2]

theorem Tbl.findIn_delIn (k i b : Nat) (l : List (Nat × α)) (h : Tbl.risingFrom (some b) l = true) :
    Tbl.findIn i (Tbl.delIn k l) = if i = k then none else Tbl.findIn i l := by
  induction l generalizing b with
  | nil => simp [Tbl.delIn, Tbl.findIn]
  | cons x r ih =>
    obtain ⟨j, w⟩ := x
    simp only [Tbl.risingFrom, Bool.and_eq_true, decide_eq_true_eq] at h
    simp only [Tbl.delIn]
    split
    · subst_vars
      by_cases hi : i = j
      · subst hi
        simpa using Tbl.findIn_low i i r h.2 (Nat.le_refl i)
      · have hj : ¬ j = i := fun e => hi e.symm
        simp only [hi, if_false, Tbl.findIn, hj]
        split
        · exact Tbl.findIn_low i j r h.2 (by omega)
        · rfl
    · split
      · by_cases hi : i = k
        · subst hi
          simp [Tbl.findIn, *]
        · simp [hi]
      · by_cases hi : i = k
        · subst hi
          have h1 : ¬ j = i := by assumption
          have h2 : ¬ i < j := by assumption
          simp [Tbl.findIn, h1, h2, ih j h.2]
        · simp [Tbl.findIn, ih j h.2, hi]

theorem Tbl.find_del (t : Tbl α) (k i : Nat) (h : t.wf = true) : (t.del k).find? i = if i = k then none else t.find? i := by
  obtain ⟨l⟩ := t
  simp only [Tbl.wf] at h
  simp only [Tbl.find?, Tbl.del]
  cases l with
  | nil => simp [Tbl.delIn, Tbl.findIn]
  | cons x r =>
    obtain ⟨j, w⟩ := x
    simp only [Tbl.risingFrom] at h
    simp only [Tbl.delIn]
    split
    · subst_vars
      by_cases hi : i = j
      · subst hi
        simpa using Tbl.findIn_low i i r h (Nat.le_refl i)
      · have hj : ¬ j = i := fun e => hi e.symm
        simp only [hi, if_false, Tbl.findIn, hj]
        split
        · exact Tbl.findIn_low i j r h (by omega)
        · rfl
    · split
      · by_cases hi : i = k
        · subst hi
          simp [Tbl.findIn, *]
        · simp [hi]
      · by_cases hi : i = k
        · subst hi
          have h1 : ¬ j = i := by assumption
          have h2 : ¬ i < j := by assumption
          simp [Tbl.findIn, h1, h2, Tbl.findIn_delIn _ _ j r h]
        · simp [Tbl.findIn, Tbl.findIn_delIn _ _ j r h, hi]

/-- A read after a write with a default. -/
theorem Tbl.get_put_same [DecidableEq α] (t : Tbl α) (d : α) (k : Nat) (v : α) (h : t.wf = true) : (t.put d k v).get d k = v := by
  unfold Tbl.put Tbl.get
  split
  · simp_all [Tbl.find_del]
  · simp [Tbl.find_ins_same]
/-- A write with a default leaves every other key alone. -/
theorem Tbl.get_put_other [DecidableEq α] (t : Tbl α) (d : α) (k i : Nat) (v : α) (h : t.wf = true) (hi : i ≠ k) :
    (t.put d k v).get d i = t.get d i := by
  unfold Tbl.put Tbl.get
  split
  · simp [Tbl.find_del, h, hi]
  · simp [Tbl.find_ins_other, hi]
theorem Tbl.get_ins_same (t : Tbl α) (d : α) (k : Nat) (v : α) : (t.ins k v).get d k = v := by simp [Tbl.get, Tbl.find_ins_same]
theorem Tbl.get_ins_other (t : Tbl α) (d : α) (k i : Nat) (v : α) (hi : i ≠ k) : (t.ins k v).get d i = t.get d i := by
  simp [Tbl.get, Tbl.find_ins_other, hi]

end Sys2Proof.Machine
end

