-- ==== Sys2Proof/Laws/State.lean ====
section
/-!
SUPPORT. What each update of the state does to each field: one rewriting rule for each.
-/
namespace Sys2Proof.Machine

variable (s : State)

@[simp] theorem State.setRaw_pending (r : Reg) (key : Nat) (w : Word) : (s.setRaw r key w).pending = s.pending := rfl
@[simp] theorem State.setRaw_regs (r : Reg) (key : Nat) (w : Word) : (s.setRaw r key w).regs = (regsPut s.ld s.regs r key w) := rfl
@[simp] theorem State.setRaw_eff (r : Reg) (key : Nat) (w : Word) : (s.setRaw r key w).eff = s.eff := rfl
@[simp] theorem State.setRaw_fuse (r : Reg) (key : Nat) (w : Word) : (s.setRaw r key w).fuse = s.fuse := rfl
@[simp] theorem State.setRaw_ld (r : Reg) (key : Nat) (w : Word) : (s.setRaw r key w).ld = s.ld := rfl
@[simp] theorem State.setRaw_clk (r : Reg) (key : Nat) (w : Word) : (s.setRaw r key w).clk = s.clk := rfl
@[simp] theorem State.setRaw_mods (r : Reg) (key : Nat) (w : Word) : (s.setRaw r key w).mods = s.mods := rfl
@[simp] theorem State.setRaw_hop (r : Reg) (key : Nat) (w : Word) : (s.setRaw r key w).hop = s.hop := rfl
@[simp] theorem State.setRaw_pond (r : Reg) (key : Nat) (w : Word) : (s.setRaw r key w).pond = s.pond := rfl
@[simp] theorem State.setRaw_flume (r : Reg) (key : Nat) (w : Word) : (s.setRaw r key w).flume = s.flume := rfl
@[simp] theorem State.setRaw_nextFid (r : Reg) (key : Nat) (w : Word) : (s.setRaw r key w).nextFid = s.nextFid := rfl
@[simp] theorem State.setRaw_lay (r : Reg) (key : Nat) (w : Word) : (s.setRaw r key w).lay = s.lay := rfl
@[simp] theorem State.setRaw_weir (r : Reg) (key : Nat) (w : Word) : (s.setRaw r key w).weir = s.weir := rfl
@[simp] theorem State.setRaw_races (r : Reg) (key : Nat) (w : Word) : (s.setRaw r key w).races = s.races := rfl
@[simp] theorem State.setRaw_fanE (r : Reg) (key : Nat) (w : Word) : (s.setRaw r key w).fanE = s.fanE := rfl
@[simp] theorem State.setRaw_fanW (r : Reg) (key : Nat) (w : Word) : (s.setRaw r key w).fanW = s.fanW := rfl
@[simp] theorem State.setRaw_qrnE (r : Reg) (key : Nat) (w : Word) : (s.setRaw r key w).qrnE = s.qrnE := rfl
@[simp] theorem State.setRaw_qrnW (r : Reg) (key : Nat) (w : Word) : (s.setRaw r key w).qrnW = s.qrnW := rfl
@[simp] theorem State.setRaw_dram (r : Reg) (key : Nat) (w : Word) : (s.setRaw r key w).dram = s.dram := rfl
@[simp] theorem State.setRaw_drs (r : Reg) (key : Nat) (w : Word) : (s.setRaw r key w).drs = s.drs := rfl
@[simp] theorem State.setRaw_hstE (r : Reg) (key : Nat) (w : Word) : (s.setRaw r key w).hstE = s.hstE := rfl
@[simp] theorem State.setRaw_hstW (r : Reg) (key : Nat) (w : Word) : (s.setRaw r key w).hstW = s.hstW := rfl
@[simp] theorem State.setRaw_gov (r : Reg) (key : Nat) (w : Word) : (s.setRaw r key w).gov = s.gov := rfl
@[simp] theorem State.setRaw_brk (r : Reg) (key : Nat) (w : Word) : (s.setRaw r key w).brk = s.brk := rfl
@[simp] theorem State.setRaw_tlyE (r : Reg) (key : Nat) (w : Word) : (s.setRaw r key w).tlyE = s.tlyE := rfl
@[simp] theorem State.setRaw_tlyW (r : Reg) (key : Nat) (w : Word) : (s.setRaw r key w).tlyW = s.tlyW := rfl
@[simp] theorem State.setRaw_mil (r : Reg) (key : Nat) (w : Word) : (s.setRaw r key w).mil = s.mil := rfl
@[simp] theorem State.setRaw_mmk (r : Reg) (key : Nat) (w : Word) : (s.setRaw r key w).mmk = s.mmk := rfl
@[simp] theorem State.setRaw_tst (r : Reg) (key : Nat) (w : Word) : (s.setRaw r key w).tst = s.tst := rfl
@[simp] theorem State.setRaw_i3c (r : Reg) (key : Nat) (w : Word) : (s.setRaw r key w).i3c = s.i3c := rfl
@[simp] theorem State.setRaw_boot (r : Reg) (key : Nat) (w : Word) : (s.setRaw r key w).boot = s.boot := rfl
@[simp] theorem State.setRaw_out (r : Reg) (key : Nat) (w : Word) : (s.setRaw r key w).out = s.out := rfl
@[simp] theorem State.setRaw_reply (r : Reg) (key : Nat) (w : Word) : (s.setRaw r key w).reply = s.reply := rfl
@[simp] theorem State.setRaw_freeCtr (r : Reg) (key : Nat) (w : Word) : (s.setRaw r key w).freeCtr = s.freeCtr := rfl

@[simp] theorem State.fset_pending (f : Field) (v i h : Nat) : (s.fset f v i h).pending = s.pending := rfl
@[simp] theorem State.fset_regs (f : Field) (v i h : Nat) : (s.fset f v i h).regs = (s.regsF s.regs f v i h) := rfl
@[simp] theorem State.fset_eff (f : Field) (v i h : Nat) : (s.fset f v i h).eff = s.eff := rfl
@[simp] theorem State.fset_fuse (f : Field) (v i h : Nat) : (s.fset f v i h).fuse = s.fuse := rfl
@[simp] theorem State.fset_ld (f : Field) (v i h : Nat) : (s.fset f v i h).ld = s.ld := rfl
@[simp] theorem State.fset_clk (f : Field) (v i h : Nat) : (s.fset f v i h).clk = s.clk := rfl
@[simp] theorem State.fset_mods (f : Field) (v i h : Nat) : (s.fset f v i h).mods = s.mods := rfl
@[simp] theorem State.fset_hop (f : Field) (v i h : Nat) : (s.fset f v i h).hop = s.hop := rfl
@[simp] theorem State.fset_pond (f : Field) (v i h : Nat) : (s.fset f v i h).pond = s.pond := rfl
@[simp] theorem State.fset_flume (f : Field) (v i h : Nat) : (s.fset f v i h).flume = s.flume := rfl
@[simp] theorem State.fset_nextFid (f : Field) (v i h : Nat) : (s.fset f v i h).nextFid = s.nextFid := rfl
@[simp] theorem State.fset_lay (f : Field) (v i h : Nat) : (s.fset f v i h).lay = s.lay := rfl
@[simp] theorem State.fset_weir (f : Field) (v i h : Nat) : (s.fset f v i h).weir = s.weir := rfl
@[simp] theorem State.fset_races (f : Field) (v i h : Nat) : (s.fset f v i h).races = s.races := rfl
@[simp] theorem State.fset_fanE (f : Field) (v i h : Nat) : (s.fset f v i h).fanE = s.fanE := rfl
@[simp] theorem State.fset_fanW (f : Field) (v i h : Nat) : (s.fset f v i h).fanW = s.fanW := rfl
@[simp] theorem State.fset_qrnE (f : Field) (v i h : Nat) : (s.fset f v i h).qrnE = s.qrnE := rfl
@[simp] theorem State.fset_qrnW (f : Field) (v i h : Nat) : (s.fset f v i h).qrnW = s.qrnW := rfl
@[simp] theorem State.fset_dram (f : Field) (v i h : Nat) : (s.fset f v i h).dram = s.dram := rfl
@[simp] theorem State.fset_drs (f : Field) (v i h : Nat) : (s.fset f v i h).drs = s.drs := rfl
@[simp] theorem State.fset_hstE (f : Field) (v i h : Nat) : (s.fset f v i h).hstE = s.hstE := rfl
@[simp] theorem State.fset_hstW (f : Field) (v i h : Nat) : (s.fset f v i h).hstW = s.hstW := rfl
@[simp] theorem State.fset_gov (f : Field) (v i h : Nat) : (s.fset f v i h).gov = s.gov := rfl
@[simp] theorem State.fset_brk (f : Field) (v i h : Nat) : (s.fset f v i h).brk = s.brk := rfl
@[simp] theorem State.fset_tlyE (f : Field) (v i h : Nat) : (s.fset f v i h).tlyE = s.tlyE := rfl
@[simp] theorem State.fset_tlyW (f : Field) (v i h : Nat) : (s.fset f v i h).tlyW = s.tlyW := rfl
@[simp] theorem State.fset_mil (f : Field) (v i h : Nat) : (s.fset f v i h).mil = s.mil := rfl
@[simp] theorem State.fset_mmk (f : Field) (v i h : Nat) : (s.fset f v i h).mmk = s.mmk := rfl
@[simp] theorem State.fset_tst (f : Field) (v i h : Nat) : (s.fset f v i h).tst = s.tst := rfl
@[simp] theorem State.fset_i3c (f : Field) (v i h : Nat) : (s.fset f v i h).i3c = s.i3c := rfl
@[simp] theorem State.fset_boot (f : Field) (v i h : Nat) : (s.fset f v i h).boot = s.boot := rfl
@[simp] theorem State.fset_out (f : Field) (v i h : Nat) : (s.fset f v i h).out = s.out := rfl
@[simp] theorem State.fset_reply (f : Field) (v i h : Nat) : (s.fset f v i h).reply = s.reply := rfl
@[simp] theorem State.fset_freeCtr (f : Field) (v i h : Nat) : (s.fset f v i h).freeCtr = s.freeCtr := rfl

@[simp] theorem State.fadd_pending (f : Field) (n i h : Nat) : (s.fadd f n i h).pending = s.pending := rfl
@[simp] theorem State.fadd_eff (f : Field) (n i h : Nat) : (s.fadd f n i h).eff = s.eff := rfl
@[simp] theorem State.fadd_fuse (f : Field) (n i h : Nat) : (s.fadd f n i h).fuse = s.fuse := rfl
@[simp] theorem State.fadd_ld (f : Field) (n i h : Nat) : (s.fadd f n i h).ld = s.ld := rfl
@[simp] theorem State.fadd_clk (f : Field) (n i h : Nat) : (s.fadd f n i h).clk = s.clk := rfl
@[simp] theorem State.fadd_mods (f : Field) (n i h : Nat) : (s.fadd f n i h).mods = s.mods := rfl
@[simp] theorem State.fadd_hop (f : Field) (n i h : Nat) : (s.fadd f n i h).hop = s.hop := rfl
@[simp] theorem State.fadd_pond (f : Field) (n i h : Nat) : (s.fadd f n i h).pond = s.pond := rfl
@[simp] theorem State.fadd_flume (f : Field) (n i h : Nat) : (s.fadd f n i h).flume = s.flume := rfl
@[simp] theorem State.fadd_nextFid (f : Field) (n i h : Nat) : (s.fadd f n i h).nextFid = s.nextFid := rfl
@[simp] theorem State.fadd_lay (f : Field) (n i h : Nat) : (s.fadd f n i h).lay = s.lay := rfl
@[simp] theorem State.fadd_weir (f : Field) (n i h : Nat) : (s.fadd f n i h).weir = s.weir := rfl
@[simp] theorem State.fadd_races (f : Field) (n i h : Nat) : (s.fadd f n i h).races = s.races := rfl
@[simp] theorem State.fadd_fanE (f : Field) (n i h : Nat) : (s.fadd f n i h).fanE = s.fanE := rfl
@[simp] theorem State.fadd_fanW (f : Field) (n i h : Nat) : (s.fadd f n i h).fanW = s.fanW := rfl
@[simp] theorem State.fadd_qrnE (f : Field) (n i h : Nat) : (s.fadd f n i h).qrnE = s.qrnE := rfl
@[simp] theorem State.fadd_qrnW (f : Field) (n i h : Nat) : (s.fadd f n i h).qrnW = s.qrnW := rfl
@[simp] theorem State.fadd_dram (f : Field) (n i h : Nat) : (s.fadd f n i h).dram = s.dram := rfl
@[simp] theorem State.fadd_drs (f : Field) (n i h : Nat) : (s.fadd f n i h).drs = s.drs := rfl
@[simp] theorem State.fadd_hstE (f : Field) (n i h : Nat) : (s.fadd f n i h).hstE = s.hstE := rfl
@[simp] theorem State.fadd_hstW (f : Field) (n i h : Nat) : (s.fadd f n i h).hstW = s.hstW := rfl
@[simp] theorem State.fadd_gov (f : Field) (n i h : Nat) : (s.fadd f n i h).gov = s.gov := rfl
@[simp] theorem State.fadd_brk (f : Field) (n i h : Nat) : (s.fadd f n i h).brk = s.brk := rfl
@[simp] theorem State.fadd_tlyE (f : Field) (n i h : Nat) : (s.fadd f n i h).tlyE = s.tlyE := rfl
@[simp] theorem State.fadd_tlyW (f : Field) (n i h : Nat) : (s.fadd f n i h).tlyW = s.tlyW := rfl
@[simp] theorem State.fadd_mil (f : Field) (n i h : Nat) : (s.fadd f n i h).mil = s.mil := rfl
@[simp] theorem State.fadd_mmk (f : Field) (n i h : Nat) : (s.fadd f n i h).mmk = s.mmk := rfl
@[simp] theorem State.fadd_tst (f : Field) (n i h : Nat) : (s.fadd f n i h).tst = s.tst := rfl
@[simp] theorem State.fadd_i3c (f : Field) (n i h : Nat) : (s.fadd f n i h).i3c = s.i3c := rfl
@[simp] theorem State.fadd_boot (f : Field) (n i h : Nat) : (s.fadd f n i h).boot = s.boot := rfl
@[simp] theorem State.fadd_out (f : Field) (n i h : Nat) : (s.fadd f n i h).out = s.out := rfl
@[simp] theorem State.fadd_reply (f : Field) (n i h : Nat) : (s.fadd f n i h).reply = s.reply := rfl
@[simp] theorem State.fadd_freeCtr (f : Field) (n i h : Nat) : (s.fadd f n i h).freeCtr = s.freeCtr := rfl

@[simp] theorem State.fwrap_pending (f : Field) (n i h : Nat) : (s.fwrap f n i h).pending = s.pending := rfl
@[simp] theorem State.fwrap_eff (f : Field) (n i h : Nat) : (s.fwrap f n i h).eff = s.eff := rfl
@[simp] theorem State.fwrap_fuse (f : Field) (n i h : Nat) : (s.fwrap f n i h).fuse = s.fuse := rfl
@[simp] theorem State.fwrap_ld (f : Field) (n i h : Nat) : (s.fwrap f n i h).ld = s.ld := rfl
@[simp] theorem State.fwrap_clk (f : Field) (n i h : Nat) : (s.fwrap f n i h).clk = s.clk := rfl
@[simp] theorem State.fwrap_mods (f : Field) (n i h : Nat) : (s.fwrap f n i h).mods = s.mods := rfl
@[simp] theorem State.fwrap_hop (f : Field) (n i h : Nat) : (s.fwrap f n i h).hop = s.hop := rfl
@[simp] theorem State.fwrap_pond (f : Field) (n i h : Nat) : (s.fwrap f n i h).pond = s.pond := rfl
@[simp] theorem State.fwrap_flume (f : Field) (n i h : Nat) : (s.fwrap f n i h).flume = s.flume := rfl
@[simp] theorem State.fwrap_nextFid (f : Field) (n i h : Nat) : (s.fwrap f n i h).nextFid = s.nextFid := rfl
@[simp] theorem State.fwrap_lay (f : Field) (n i h : Nat) : (s.fwrap f n i h).lay = s.lay := rfl
@[simp] theorem State.fwrap_weir (f : Field) (n i h : Nat) : (s.fwrap f n i h).weir = s.weir := rfl
@[simp] theorem State.fwrap_races (f : Field) (n i h : Nat) : (s.fwrap f n i h).races = s.races := rfl
@[simp] theorem State.fwrap_fanE (f : Field) (n i h : Nat) : (s.fwrap f n i h).fanE = s.fanE := rfl
@[simp] theorem State.fwrap_fanW (f : Field) (n i h : Nat) : (s.fwrap f n i h).fanW = s.fanW := rfl
@[simp] theorem State.fwrap_qrnE (f : Field) (n i h : Nat) : (s.fwrap f n i h).qrnE = s.qrnE := rfl
@[simp] theorem State.fwrap_qrnW (f : Field) (n i h : Nat) : (s.fwrap f n i h).qrnW = s.qrnW := rfl
@[simp] theorem State.fwrap_dram (f : Field) (n i h : Nat) : (s.fwrap f n i h).dram = s.dram := rfl
@[simp] theorem State.fwrap_drs (f : Field) (n i h : Nat) : (s.fwrap f n i h).drs = s.drs := rfl
@[simp] theorem State.fwrap_hstE (f : Field) (n i h : Nat) : (s.fwrap f n i h).hstE = s.hstE := rfl
@[simp] theorem State.fwrap_hstW (f : Field) (n i h : Nat) : (s.fwrap f n i h).hstW = s.hstW := rfl
@[simp] theorem State.fwrap_gov (f : Field) (n i h : Nat) : (s.fwrap f n i h).gov = s.gov := rfl
@[simp] theorem State.fwrap_brk (f : Field) (n i h : Nat) : (s.fwrap f n i h).brk = s.brk := rfl
@[simp] theorem State.fwrap_tlyE (f : Field) (n i h : Nat) : (s.fwrap f n i h).tlyE = s.tlyE := rfl
@[simp] theorem State.fwrap_tlyW (f : Field) (n i h : Nat) : (s.fwrap f n i h).tlyW = s.tlyW := rfl
@[simp] theorem State.fwrap_mil (f : Field) (n i h : Nat) : (s.fwrap f n i h).mil = s.mil := rfl
@[simp] theorem State.fwrap_mmk (f : Field) (n i h : Nat) : (s.fwrap f n i h).mmk = s.mmk := rfl
@[simp] theorem State.fwrap_tst (f : Field) (n i h : Nat) : (s.fwrap f n i h).tst = s.tst := rfl
@[simp] theorem State.fwrap_i3c (f : Field) (n i h : Nat) : (s.fwrap f n i h).i3c = s.i3c := rfl
@[simp] theorem State.fwrap_boot (f : Field) (n i h : Nat) : (s.fwrap f n i h).boot = s.boot := rfl
@[simp] theorem State.fwrap_out (f : Field) (n i h : Nat) : (s.fwrap f n i h).out = s.out := rfl
@[simp] theorem State.fwrap_reply (f : Field) (n i h : Nat) : (s.fwrap f n i h).reply = s.reply := rfl
@[simp] theorem State.fwrap_freeCtr (f : Field) (n i h : Nat) : (s.fwrap f n i h).freeCtr = s.freeCtr := rfl

@[simp] theorem State.setMod_pending (m : Nat) (x : ModSt) : (s.setMod m x).pending = s.pending := rfl
@[simp] theorem State.setMod_regs (m : Nat) (x : ModSt) : (s.setMod m x).regs = s.regs := rfl
@[simp] theorem State.setMod_eff (m : Nat) (x : ModSt) : (s.setMod m x).eff = s.eff := rfl
@[simp] theorem State.setMod_fuse (m : Nat) (x : ModSt) : (s.setMod m x).fuse = s.fuse := rfl
@[simp] theorem State.setMod_ld (m : Nat) (x : ModSt) : (s.setMod m x).ld = s.ld := rfl
@[simp] theorem State.setMod_clk (m : Nat) (x : ModSt) : (s.setMod m x).clk = s.clk := rfl
@[simp] theorem State.setMod_mods (m : Nat) (x : ModSt) : (s.setMod m x).mods = (s.mods.ins m x) := rfl
@[simp] theorem State.setMod_hop (m : Nat) (x : ModSt) : (s.setMod m x).hop = s.hop := rfl
@[simp] theorem State.setMod_pond (m : Nat) (x : ModSt) : (s.setMod m x).pond = s.pond := rfl
@[simp] theorem State.setMod_flume (m : Nat) (x : ModSt) : (s.setMod m x).flume = s.flume := rfl
@[simp] theorem State.setMod_nextFid (m : Nat) (x : ModSt) : (s.setMod m x).nextFid = s.nextFid := rfl
@[simp] theorem State.setMod_lay (m : Nat) (x : ModSt) : (s.setMod m x).lay = s.lay := rfl
@[simp] theorem State.setMod_weir (m : Nat) (x : ModSt) : (s.setMod m x).weir = s.weir := rfl
@[simp] theorem State.setMod_races (m : Nat) (x : ModSt) : (s.setMod m x).races = s.races := rfl
@[simp] theorem State.setMod_fanE (m : Nat) (x : ModSt) : (s.setMod m x).fanE = s.fanE := rfl
@[simp] theorem State.setMod_fanW (m : Nat) (x : ModSt) : (s.setMod m x).fanW = s.fanW := rfl
@[simp] theorem State.setMod_qrnE (m : Nat) (x : ModSt) : (s.setMod m x).qrnE = s.qrnE := rfl
@[simp] theorem State.setMod_qrnW (m : Nat) (x : ModSt) : (s.setMod m x).qrnW = s.qrnW := rfl
@[simp] theorem State.setMod_dram (m : Nat) (x : ModSt) : (s.setMod m x).dram = s.dram := rfl
@[simp] theorem State.setMod_drs (m : Nat) (x : ModSt) : (s.setMod m x).drs = s.drs := rfl
@[simp] theorem State.setMod_hstE (m : Nat) (x : ModSt) : (s.setMod m x).hstE = s.hstE := rfl
@[simp] theorem State.setMod_hstW (m : Nat) (x : ModSt) : (s.setMod m x).hstW = s.hstW := rfl
@[simp] theorem State.setMod_gov (m : Nat) (x : ModSt) : (s.setMod m x).gov = s.gov := rfl
@[simp] theorem State.setMod_brk (m : Nat) (x : ModSt) : (s.setMod m x).brk = s.brk := rfl
@[simp] theorem State.setMod_tlyE (m : Nat) (x : ModSt) : (s.setMod m x).tlyE = s.tlyE := rfl
@[simp] theorem State.setMod_tlyW (m : Nat) (x : ModSt) : (s.setMod m x).tlyW = s.tlyW := rfl
@[simp] theorem State.setMod_mil (m : Nat) (x : ModSt) : (s.setMod m x).mil = s.mil := rfl
@[simp] theorem State.setMod_mmk (m : Nat) (x : ModSt) : (s.setMod m x).mmk = s.mmk := rfl
@[simp] theorem State.setMod_tst (m : Nat) (x : ModSt) : (s.setMod m x).tst = s.tst := rfl
@[simp] theorem State.setMod_i3c (m : Nat) (x : ModSt) : (s.setMod m x).i3c = s.i3c := rfl
@[simp] theorem State.setMod_boot (m : Nat) (x : ModSt) : (s.setMod m x).boot = s.boot := rfl
@[simp] theorem State.setMod_out (m : Nat) (x : ModSt) : (s.setMod m x).out = s.out := rfl
@[simp] theorem State.setMod_reply (m : Nat) (x : ModSt) : (s.setMod m x).reply = s.reply := rfl
@[simp] theorem State.setMod_freeCtr (m : Nat) (x : ModSt) : (s.setMod m x).freeCtr = s.freeCtr := rfl

@[simp] theorem State.setRace_pending (r : Nat) (x : Race) : (s.setRace r x).pending = s.pending := rfl
@[simp] theorem State.setRace_regs (r : Nat) (x : Race) : (s.setRace r x).regs = s.regs := rfl
@[simp] theorem State.setRace_eff (r : Nat) (x : Race) : (s.setRace r x).eff = s.eff := rfl
@[simp] theorem State.setRace_fuse (r : Nat) (x : Race) : (s.setRace r x).fuse = s.fuse := rfl
@[simp] theorem State.setRace_ld (r : Nat) (x : Race) : (s.setRace r x).ld = s.ld := rfl
@[simp] theorem State.setRace_clk (r : Nat) (x : Race) : (s.setRace r x).clk = s.clk := rfl
@[simp] theorem State.setRace_mods (r : Nat) (x : Race) : (s.setRace r x).mods = s.mods := rfl
@[simp] theorem State.setRace_hop (r : Nat) (x : Race) : (s.setRace r x).hop = s.hop := rfl
@[simp] theorem State.setRace_pond (r : Nat) (x : Race) : (s.setRace r x).pond = s.pond := rfl
@[simp] theorem State.setRace_flume (r : Nat) (x : Race) : (s.setRace r x).flume = s.flume := rfl
@[simp] theorem State.setRace_nextFid (r : Nat) (x : Race) : (s.setRace r x).nextFid = s.nextFid := rfl
@[simp] theorem State.setRace_lay (r : Nat) (x : Race) : (s.setRace r x).lay = s.lay := rfl
@[simp] theorem State.setRace_weir (r : Nat) (x : Race) : (s.setRace r x).weir = s.weir := rfl
@[simp] theorem State.setRace_races (r : Nat) (x : Race) : (s.setRace r x).races = (s.races.ins r x) := rfl
@[simp] theorem State.setRace_fanE (r : Nat) (x : Race) : (s.setRace r x).fanE = s.fanE := rfl
@[simp] theorem State.setRace_fanW (r : Nat) (x : Race) : (s.setRace r x).fanW = s.fanW := rfl
@[simp] theorem State.setRace_qrnE (r : Nat) (x : Race) : (s.setRace r x).qrnE = s.qrnE := rfl
@[simp] theorem State.setRace_qrnW (r : Nat) (x : Race) : (s.setRace r x).qrnW = s.qrnW := rfl
@[simp] theorem State.setRace_dram (r : Nat) (x : Race) : (s.setRace r x).dram = s.dram := rfl
@[simp] theorem State.setRace_drs (r : Nat) (x : Race) : (s.setRace r x).drs = s.drs := rfl
@[simp] theorem State.setRace_hstE (r : Nat) (x : Race) : (s.setRace r x).hstE = s.hstE := rfl
@[simp] theorem State.setRace_hstW (r : Nat) (x : Race) : (s.setRace r x).hstW = s.hstW := rfl
@[simp] theorem State.setRace_gov (r : Nat) (x : Race) : (s.setRace r x).gov = s.gov := rfl
@[simp] theorem State.setRace_brk (r : Nat) (x : Race) : (s.setRace r x).brk = s.brk := rfl
@[simp] theorem State.setRace_tlyE (r : Nat) (x : Race) : (s.setRace r x).tlyE = s.tlyE := rfl
@[simp] theorem State.setRace_tlyW (r : Nat) (x : Race) : (s.setRace r x).tlyW = s.tlyW := rfl
@[simp] theorem State.setRace_mil (r : Nat) (x : Race) : (s.setRace r x).mil = s.mil := rfl
@[simp] theorem State.setRace_mmk (r : Nat) (x : Race) : (s.setRace r x).mmk = s.mmk := rfl
@[simp] theorem State.setRace_tst (r : Nat) (x : Race) : (s.setRace r x).tst = s.tst := rfl
@[simp] theorem State.setRace_i3c (r : Nat) (x : Race) : (s.setRace r x).i3c = s.i3c := rfl
@[simp] theorem State.setRace_boot (r : Nat) (x : Race) : (s.setRace r x).boot = s.boot := rfl
@[simp] theorem State.setRace_out (r : Nat) (x : Race) : (s.setRace r x).out = s.out := rfl
@[simp] theorem State.setRace_reply (r : Nat) (x : Race) : (s.setRace r x).reply = s.reply := rfl
@[simp] theorem State.setRace_freeCtr (r : Nat) (x : Race) : (s.setRace r x).freeCtr = s.freeCtr := rfl

@[simp] theorem State.setHst_pending (h : Nat) (x : Hst) : (s.setHst h x).pending = s.pending := rfl
@[simp] theorem State.setHst_regs (h : Nat) (x : Hst) : (s.setHst h x).regs = s.regs := rfl
@[simp] theorem State.setHst_eff (h : Nat) (x : Hst) : (s.setHst h x).eff = s.eff := rfl
@[simp] theorem State.setHst_fuse (h : Nat) (x : Hst) : (s.setHst h x).fuse = s.fuse := rfl
@[simp] theorem State.setHst_ld (h : Nat) (x : Hst) : (s.setHst h x).ld = s.ld := rfl
@[simp] theorem State.setHst_clk (h : Nat) (x : Hst) : (s.setHst h x).clk = s.clk := rfl
@[simp] theorem State.setHst_mods (h : Nat) (x : Hst) : (s.setHst h x).mods = s.mods := rfl
@[simp] theorem State.setHst_hop (h : Nat) (x : Hst) : (s.setHst h x).hop = s.hop := rfl
@[simp] theorem State.setHst_pond (h : Nat) (x : Hst) : (s.setHst h x).pond = s.pond := rfl
@[simp] theorem State.setHst_flume (h : Nat) (x : Hst) : (s.setHst h x).flume = s.flume := rfl
@[simp] theorem State.setHst_nextFid (h : Nat) (x : Hst) : (s.setHst h x).nextFid = s.nextFid := rfl
@[simp] theorem State.setHst_lay (h : Nat) (x : Hst) : (s.setHst h x).lay = s.lay := rfl
@[simp] theorem State.setHst_weir (h : Nat) (x : Hst) : (s.setHst h x).weir = s.weir := rfl
@[simp] theorem State.setHst_races (h : Nat) (x : Hst) : (s.setHst h x).races = s.races := rfl
@[simp] theorem State.setHst_fanE (h : Nat) (x : Hst) : (s.setHst h x).fanE = s.fanE := rfl
@[simp] theorem State.setHst_fanW (h : Nat) (x : Hst) : (s.setHst h x).fanW = s.fanW := rfl
@[simp] theorem State.setHst_qrnE (h : Nat) (x : Hst) : (s.setHst h x).qrnE = s.qrnE := rfl
@[simp] theorem State.setHst_qrnW (h : Nat) (x : Hst) : (s.setHst h x).qrnW = s.qrnW := rfl
@[simp] theorem State.setHst_dram (h : Nat) (x : Hst) : (s.setHst h x).dram = s.dram := rfl
@[simp] theorem State.setHst_drs (h : Nat) (x : Hst) : (s.setHst h x).drs = s.drs := rfl
@[simp] theorem State.setHst_hstE (h : Nat) (x : Hst) : (s.setHst h x).hstE = (if h = 0 then x else s.hstE) := rfl
@[simp] theorem State.setHst_hstW (h : Nat) (x : Hst) : (s.setHst h x).hstW = (if h = 0 then s.hstW else x) := rfl
@[simp] theorem State.setHst_gov (h : Nat) (x : Hst) : (s.setHst h x).gov = s.gov := rfl
@[simp] theorem State.setHst_brk (h : Nat) (x : Hst) : (s.setHst h x).brk = s.brk := rfl
@[simp] theorem State.setHst_tlyE (h : Nat) (x : Hst) : (s.setHst h x).tlyE = s.tlyE := rfl
@[simp] theorem State.setHst_tlyW (h : Nat) (x : Hst) : (s.setHst h x).tlyW = s.tlyW := rfl
@[simp] theorem State.setHst_mil (h : Nat) (x : Hst) : (s.setHst h x).mil = s.mil := rfl
@[simp] theorem State.setHst_mmk (h : Nat) (x : Hst) : (s.setHst h x).mmk = s.mmk := rfl
@[simp] theorem State.setHst_tst (h : Nat) (x : Hst) : (s.setHst h x).tst = s.tst := rfl
@[simp] theorem State.setHst_i3c (h : Nat) (x : Hst) : (s.setHst h x).i3c = s.i3c := rfl
@[simp] theorem State.setHst_boot (h : Nat) (x : Hst) : (s.setHst h x).boot = s.boot := rfl
@[simp] theorem State.setHst_out (h : Nat) (x : Hst) : (s.setHst h x).out = s.out := rfl
@[simp] theorem State.setHst_reply (h : Nat) (x : Hst) : (s.setHst h x).reply = s.reply := rfl
@[simp] theorem State.setHst_freeCtr (h : Nat) (x : Hst) : (s.setHst h x).freeCtr = s.freeCtr := rfl

@[simp] theorem State.setQrn_pending (h : Nat) (x : Qrn) : (s.setQrn h x).pending = s.pending := rfl
@[simp] theorem State.setQrn_regs (h : Nat) (x : Qrn) : (s.setQrn h x).regs = s.regs := rfl
@[simp] theorem State.setQrn_eff (h : Nat) (x : Qrn) : (s.setQrn h x).eff = s.eff := rfl
@[simp] theorem State.setQrn_fuse (h : Nat) (x : Qrn) : (s.setQrn h x).fuse = s.fuse := rfl
@[simp] theorem State.setQrn_ld (h : Nat) (x : Qrn) : (s.setQrn h x).ld = s.ld := rfl
@[simp] theorem State.setQrn_clk (h : Nat) (x : Qrn) : (s.setQrn h x).clk = s.clk := rfl
@[simp] theorem State.setQrn_mods (h : Nat) (x : Qrn) : (s.setQrn h x).mods = s.mods := rfl
@[simp] theorem State.setQrn_hop (h : Nat) (x : Qrn) : (s.setQrn h x).hop = s.hop := rfl
@[simp] theorem State.setQrn_pond (h : Nat) (x : Qrn) : (s.setQrn h x).pond = s.pond := rfl
@[simp] theorem State.setQrn_flume (h : Nat) (x : Qrn) : (s.setQrn h x).flume = s.flume := rfl
@[simp] theorem State.setQrn_nextFid (h : Nat) (x : Qrn) : (s.setQrn h x).nextFid = s.nextFid := rfl
@[simp] theorem State.setQrn_lay (h : Nat) (x : Qrn) : (s.setQrn h x).lay = s.lay := rfl
@[simp] theorem State.setQrn_weir (h : Nat) (x : Qrn) : (s.setQrn h x).weir = s.weir := rfl
@[simp] theorem State.setQrn_races (h : Nat) (x : Qrn) : (s.setQrn h x).races = s.races := rfl
@[simp] theorem State.setQrn_fanE (h : Nat) (x : Qrn) : (s.setQrn h x).fanE = s.fanE := rfl
@[simp] theorem State.setQrn_fanW (h : Nat) (x : Qrn) : (s.setQrn h x).fanW = s.fanW := rfl
@[simp] theorem State.setQrn_qrnE (h : Nat) (x : Qrn) : (s.setQrn h x).qrnE = (if h = 0 then x else s.qrnE) := rfl
@[simp] theorem State.setQrn_qrnW (h : Nat) (x : Qrn) : (s.setQrn h x).qrnW = (if h = 0 then s.qrnW else x) := rfl
@[simp] theorem State.setQrn_dram (h : Nat) (x : Qrn) : (s.setQrn h x).dram = s.dram := rfl
@[simp] theorem State.setQrn_drs (h : Nat) (x : Qrn) : (s.setQrn h x).drs = s.drs := rfl
@[simp] theorem State.setQrn_hstE (h : Nat) (x : Qrn) : (s.setQrn h x).hstE = s.hstE := rfl
@[simp] theorem State.setQrn_hstW (h : Nat) (x : Qrn) : (s.setQrn h x).hstW = s.hstW := rfl
@[simp] theorem State.setQrn_gov (h : Nat) (x : Qrn) : (s.setQrn h x).gov = s.gov := rfl
@[simp] theorem State.setQrn_brk (h : Nat) (x : Qrn) : (s.setQrn h x).brk = s.brk := rfl
@[simp] theorem State.setQrn_tlyE (h : Nat) (x : Qrn) : (s.setQrn h x).tlyE = s.tlyE := rfl
@[simp] theorem State.setQrn_tlyW (h : Nat) (x : Qrn) : (s.setQrn h x).tlyW = s.tlyW := rfl
@[simp] theorem State.setQrn_mil (h : Nat) (x : Qrn) : (s.setQrn h x).mil = s.mil := rfl
@[simp] theorem State.setQrn_mmk (h : Nat) (x : Qrn) : (s.setQrn h x).mmk = s.mmk := rfl
@[simp] theorem State.setQrn_tst (h : Nat) (x : Qrn) : (s.setQrn h x).tst = s.tst := rfl
@[simp] theorem State.setQrn_i3c (h : Nat) (x : Qrn) : (s.setQrn h x).i3c = s.i3c := rfl
@[simp] theorem State.setQrn_boot (h : Nat) (x : Qrn) : (s.setQrn h x).boot = s.boot := rfl
@[simp] theorem State.setQrn_out (h : Nat) (x : Qrn) : (s.setQrn h x).out = s.out := rfl
@[simp] theorem State.setQrn_reply (h : Nat) (x : Qrn) : (s.setQrn h x).reply = s.reply := rfl
@[simp] theorem State.setQrn_freeCtr (h : Nat) (x : Qrn) : (s.setQrn h x).freeCtr = s.freeCtr := rfl

@[simp] theorem State.setTly_pending (h : Nat) (x : Tly) : (s.setTly h x).pending = s.pending := rfl
@[simp] theorem State.setTly_regs (h : Nat) (x : Tly) : (s.setTly h x).regs = s.regs := rfl
@[simp] theorem State.setTly_eff (h : Nat) (x : Tly) : (s.setTly h x).eff = s.eff := rfl
@[simp] theorem State.setTly_fuse (h : Nat) (x : Tly) : (s.setTly h x).fuse = s.fuse := rfl
@[simp] theorem State.setTly_ld (h : Nat) (x : Tly) : (s.setTly h x).ld = s.ld := rfl
@[simp] theorem State.setTly_clk (h : Nat) (x : Tly) : (s.setTly h x).clk = s.clk := rfl
@[simp] theorem State.setTly_mods (h : Nat) (x : Tly) : (s.setTly h x).mods = s.mods := rfl
@[simp] theorem State.setTly_hop (h : Nat) (x : Tly) : (s.setTly h x).hop = s.hop := rfl
@[simp] theorem State.setTly_pond (h : Nat) (x : Tly) : (s.setTly h x).pond = s.pond := rfl
@[simp] theorem State.setTly_flume (h : Nat) (x : Tly) : (s.setTly h x).flume = s.flume := rfl
@[simp] theorem State.setTly_nextFid (h : Nat) (x : Tly) : (s.setTly h x).nextFid = s.nextFid := rfl
@[simp] theorem State.setTly_lay (h : Nat) (x : Tly) : (s.setTly h x).lay = s.lay := rfl
@[simp] theorem State.setTly_weir (h : Nat) (x : Tly) : (s.setTly h x).weir = s.weir := rfl
@[simp] theorem State.setTly_races (h : Nat) (x : Tly) : (s.setTly h x).races = s.races := rfl
@[simp] theorem State.setTly_fanE (h : Nat) (x : Tly) : (s.setTly h x).fanE = s.fanE := rfl
@[simp] theorem State.setTly_fanW (h : Nat) (x : Tly) : (s.setTly h x).fanW = s.fanW := rfl
@[simp] theorem State.setTly_qrnE (h : Nat) (x : Tly) : (s.setTly h x).qrnE = s.qrnE := rfl
@[simp] theorem State.setTly_qrnW (h : Nat) (x : Tly) : (s.setTly h x).qrnW = s.qrnW := rfl
@[simp] theorem State.setTly_dram (h : Nat) (x : Tly) : (s.setTly h x).dram = s.dram := rfl
@[simp] theorem State.setTly_drs (h : Nat) (x : Tly) : (s.setTly h x).drs = s.drs := rfl
@[simp] theorem State.setTly_hstE (h : Nat) (x : Tly) : (s.setTly h x).hstE = s.hstE := rfl
@[simp] theorem State.setTly_hstW (h : Nat) (x : Tly) : (s.setTly h x).hstW = s.hstW := rfl
@[simp] theorem State.setTly_gov (h : Nat) (x : Tly) : (s.setTly h x).gov = s.gov := rfl
@[simp] theorem State.setTly_brk (h : Nat) (x : Tly) : (s.setTly h x).brk = s.brk := rfl
@[simp] theorem State.setTly_tlyE (h : Nat) (x : Tly) : (s.setTly h x).tlyE = (if h = 0 then x else s.tlyE) := rfl
@[simp] theorem State.setTly_tlyW (h : Nat) (x : Tly) : (s.setTly h x).tlyW = (if h = 0 then s.tlyW else x) := rfl
@[simp] theorem State.setTly_mil (h : Nat) (x : Tly) : (s.setTly h x).mil = s.mil := rfl
@[simp] theorem State.setTly_mmk (h : Nat) (x : Tly) : (s.setTly h x).mmk = s.mmk := rfl
@[simp] theorem State.setTly_tst (h : Nat) (x : Tly) : (s.setTly h x).tst = s.tst := rfl
@[simp] theorem State.setTly_i3c (h : Nat) (x : Tly) : (s.setTly h x).i3c = s.i3c := rfl
@[simp] theorem State.setTly_boot (h : Nat) (x : Tly) : (s.setTly h x).boot = s.boot := rfl
@[simp] theorem State.setTly_out (h : Nat) (x : Tly) : (s.setTly h x).out = s.out := rfl
@[simp] theorem State.setTly_reply (h : Nat) (x : Tly) : (s.setTly h x).reply = s.reply := rfl
@[simp] theorem State.setTly_freeCtr (h : Nat) (x : Tly) : (s.setTly h x).freeCtr = s.freeCtr := rfl

@[simp] theorem State.setFan_pending (h : Nat) (x : Fan) : (s.setFan h x).pending = s.pending := rfl
@[simp] theorem State.setFan_regs (h : Nat) (x : Fan) : (s.setFan h x).regs = s.regs := rfl
@[simp] theorem State.setFan_eff (h : Nat) (x : Fan) : (s.setFan h x).eff = s.eff := rfl
@[simp] theorem State.setFan_fuse (h : Nat) (x : Fan) : (s.setFan h x).fuse = s.fuse := rfl
@[simp] theorem State.setFan_ld (h : Nat) (x : Fan) : (s.setFan h x).ld = s.ld := rfl
@[simp] theorem State.setFan_clk (h : Nat) (x : Fan) : (s.setFan h x).clk = s.clk := rfl
@[simp] theorem State.setFan_mods (h : Nat) (x : Fan) : (s.setFan h x).mods = s.mods := rfl
@[simp] theorem State.setFan_hop (h : Nat) (x : Fan) : (s.setFan h x).hop = s.hop := rfl
@[simp] theorem State.setFan_pond (h : Nat) (x : Fan) : (s.setFan h x).pond = s.pond := rfl
@[simp] theorem State.setFan_flume (h : Nat) (x : Fan) : (s.setFan h x).flume = s.flume := rfl
@[simp] theorem State.setFan_nextFid (h : Nat) (x : Fan) : (s.setFan h x).nextFid = s.nextFid := rfl
@[simp] theorem State.setFan_lay (h : Nat) (x : Fan) : (s.setFan h x).lay = s.lay := rfl
@[simp] theorem State.setFan_weir (h : Nat) (x : Fan) : (s.setFan h x).weir = s.weir := rfl
@[simp] theorem State.setFan_races (h : Nat) (x : Fan) : (s.setFan h x).races = s.races := rfl
@[simp] theorem State.setFan_fanE (h : Nat) (x : Fan) : (s.setFan h x).fanE = (if h = 0 then x else s.fanE) := rfl
@[simp] theorem State.setFan_fanW (h : Nat) (x : Fan) : (s.setFan h x).fanW = (if h = 0 then s.fanW else x) := rfl
@[simp] theorem State.setFan_qrnE (h : Nat) (x : Fan) : (s.setFan h x).qrnE = s.qrnE := rfl
@[simp] theorem State.setFan_qrnW (h : Nat) (x : Fan) : (s.setFan h x).qrnW = s.qrnW := rfl
@[simp] theorem State.setFan_dram (h : Nat) (x : Fan) : (s.setFan h x).dram = s.dram := rfl
@[simp] theorem State.setFan_drs (h : Nat) (x : Fan) : (s.setFan h x).drs = s.drs := rfl
@[simp] theorem State.setFan_hstE (h : Nat) (x : Fan) : (s.setFan h x).hstE = s.hstE := rfl
@[simp] theorem State.setFan_hstW (h : Nat) (x : Fan) : (s.setFan h x).hstW = s.hstW := rfl
@[simp] theorem State.setFan_gov (h : Nat) (x : Fan) : (s.setFan h x).gov = s.gov := rfl
@[simp] theorem State.setFan_brk (h : Nat) (x : Fan) : (s.setFan h x).brk = s.brk := rfl
@[simp] theorem State.setFan_tlyE (h : Nat) (x : Fan) : (s.setFan h x).tlyE = s.tlyE := rfl
@[simp] theorem State.setFan_tlyW (h : Nat) (x : Fan) : (s.setFan h x).tlyW = s.tlyW := rfl
@[simp] theorem State.setFan_mil (h : Nat) (x : Fan) : (s.setFan h x).mil = s.mil := rfl
@[simp] theorem State.setFan_mmk (h : Nat) (x : Fan) : (s.setFan h x).mmk = s.mmk := rfl
@[simp] theorem State.setFan_tst (h : Nat) (x : Fan) : (s.setFan h x).tst = s.tst := rfl
@[simp] theorem State.setFan_i3c (h : Nat) (x : Fan) : (s.setFan h x).i3c = s.i3c := rfl
@[simp] theorem State.setFan_boot (h : Nat) (x : Fan) : (s.setFan h x).boot = s.boot := rfl
@[simp] theorem State.setFan_out (h : Nat) (x : Fan) : (s.setFan h x).out = s.out := rfl
@[simp] theorem State.setFan_reply (h : Nat) (x : Fan) : (s.setFan h x).reply = s.reply := rfl
@[simp] theorem State.setFan_freeCtr (h : Nat) (x : Fan) : (s.setFan h x).freeCtr = s.freeCtr := rfl

@[simp] theorem State.setCore_pending (h : Nat) (x : Core) : (s.setCore h x).pending = s.pending := rfl
@[simp] theorem State.setCore_regs (h : Nat) (x : Core) : (s.setCore h x).regs = s.regs := rfl
@[simp] theorem State.setCore_eff (h : Nat) (x : Core) : (s.setCore h x).eff = s.eff := rfl
@[simp] theorem State.setCore_fuse (h : Nat) (x : Core) : (s.setCore h x).fuse = s.fuse := rfl
@[simp] theorem State.setCore_ld (h : Nat) (x : Core) : (s.setCore h x).ld = s.ld := rfl
@[simp] theorem State.setCore_clk (h : Nat) (x : Core) : (s.setCore h x).clk = s.clk := rfl
@[simp] theorem State.setCore_mods (h : Nat) (x : Core) : (s.setCore h x).mods = s.mods := rfl
@[simp] theorem State.setCore_hop (h : Nat) (x : Core) : (s.setCore h x).hop = s.hop := rfl
@[simp] theorem State.setCore_pond (h : Nat) (x : Core) : (s.setCore h x).pond = s.pond := rfl
@[simp] theorem State.setCore_flume (h : Nat) (x : Core) : (s.setCore h x).flume = s.flume := rfl
@[simp] theorem State.setCore_nextFid (h : Nat) (x : Core) : (s.setCore h x).nextFid = s.nextFid := rfl
@[simp] theorem State.setCore_lay (h : Nat) (x : Core) : (s.setCore h x).lay = s.lay := rfl
@[simp] theorem State.setCore_weir (h : Nat) (x : Core) : (s.setCore h x).weir = s.weir := rfl
@[simp] theorem State.setCore_races (h : Nat) (x : Core) : (s.setCore h x).races = s.races := rfl
@[simp] theorem State.setCore_fanE (h : Nat) (x : Core) : (s.setCore h x).fanE = s.fanE := rfl
@[simp] theorem State.setCore_fanW (h : Nat) (x : Core) : (s.setCore h x).fanW = s.fanW := rfl
@[simp] theorem State.setCore_qrnE (h : Nat) (x : Core) : (s.setCore h x).qrnE = s.qrnE := rfl
@[simp] theorem State.setCore_qrnW (h : Nat) (x : Core) : (s.setCore h x).qrnW = s.qrnW := rfl
@[simp] theorem State.setCore_dram (h : Nat) (x : Core) : (s.setCore h x).dram = s.dram := rfl
@[simp] theorem State.setCore_drs (h : Nat) (x : Core) : (s.setCore h x).drs = s.drs := rfl
@[simp] theorem State.setCore_hstE (h : Nat) (x : Core) : (s.setCore h x).hstE = s.hstE := rfl
@[simp] theorem State.setCore_hstW (h : Nat) (x : Core) : (s.setCore h x).hstW = s.hstW := rfl
@[simp] theorem State.setCore_gov (h : Nat) (x : Core) : (s.setCore h x).gov = s.gov := rfl
@[simp] theorem State.setCore_brk (h : Nat) (x : Core) : (s.setCore h x).brk = s.brk := rfl
@[simp] theorem State.setCore_tlyE (h : Nat) (x : Core) : (s.setCore h x).tlyE = s.tlyE := rfl
@[simp] theorem State.setCore_tlyW (h : Nat) (x : Core) : (s.setCore h x).tlyW = s.tlyW := rfl
@[simp] theorem State.setCore_mmk (h : Nat) (x : Core) : (s.setCore h x).mmk = s.mmk := rfl
@[simp] theorem State.setCore_tst (h : Nat) (x : Core) : (s.setCore h x).tst = s.tst := rfl
@[simp] theorem State.setCore_i3c (h : Nat) (x : Core) : (s.setCore h x).i3c = s.i3c := rfl
@[simp] theorem State.setCore_boot (h : Nat) (x : Core) : (s.setCore h x).boot = s.boot := rfl
@[simp] theorem State.setCore_out (h : Nat) (x : Core) : (s.setCore h x).out = s.out := rfl
@[simp] theorem State.setCore_reply (h : Nat) (x : Core) : (s.setCore h x).reply = s.reply := rfl
@[simp] theorem State.setCore_freeCtr (h : Nat) (x : Core) : (s.setCore h x).freeCtr = s.freeCtr := rfl

@[simp] theorem State.tally_pending (h bank i n : Nat) : (s.tally h bank i n).pending = s.pending := rfl
@[simp] theorem State.tally_regs (h bank i n : Nat) : (s.tally h bank i n).regs = s.regs := rfl
@[simp] theorem State.tally_eff (h bank i n : Nat) : (s.tally h bank i n).eff = s.eff := rfl
@[simp] theorem State.tally_fuse (h bank i n : Nat) : (s.tally h bank i n).fuse = s.fuse := rfl
@[simp] theorem State.tally_ld (h bank i n : Nat) : (s.tally h bank i n).ld = s.ld := rfl
@[simp] theorem State.tally_clk (h bank i n : Nat) : (s.tally h bank i n).clk = s.clk := rfl
@[simp] theorem State.tally_mods (h bank i n : Nat) : (s.tally h bank i n).mods = s.mods := rfl
@[simp] theorem State.tally_hop (h bank i n : Nat) : (s.tally h bank i n).hop = s.hop := rfl
@[simp] theorem State.tally_pond (h bank i n : Nat) : (s.tally h bank i n).pond = s.pond := rfl
@[simp] theorem State.tally_flume (h bank i n : Nat) : (s.tally h bank i n).flume = s.flume := rfl
@[simp] theorem State.tally_nextFid (h bank i n : Nat) : (s.tally h bank i n).nextFid = s.nextFid := rfl
@[simp] theorem State.tally_lay (h bank i n : Nat) : (s.tally h bank i n).lay = s.lay := rfl
@[simp] theorem State.tally_weir (h bank i n : Nat) : (s.tally h bank i n).weir = s.weir := rfl
@[simp] theorem State.tally_races (h bank i n : Nat) : (s.tally h bank i n).races = s.races := rfl
@[simp] theorem State.tally_fanE (h bank i n : Nat) : (s.tally h bank i n).fanE = s.fanE := rfl
@[simp] theorem State.tally_fanW (h bank i n : Nat) : (s.tally h bank i n).fanW = s.fanW := rfl
@[simp] theorem State.tally_qrnE (h bank i n : Nat) : (s.tally h bank i n).qrnE = s.qrnE := rfl
@[simp] theorem State.tally_qrnW (h bank i n : Nat) : (s.tally h bank i n).qrnW = s.qrnW := rfl
@[simp] theorem State.tally_dram (h bank i n : Nat) : (s.tally h bank i n).dram = s.dram := rfl
@[simp] theorem State.tally_drs (h bank i n : Nat) : (s.tally h bank i n).drs = s.drs := rfl
@[simp] theorem State.tally_hstE (h bank i n : Nat) : (s.tally h bank i n).hstE = s.hstE := rfl
@[simp] theorem State.tally_hstW (h bank i n : Nat) : (s.tally h bank i n).hstW = s.hstW := rfl
@[simp] theorem State.tally_gov (h bank i n : Nat) : (s.tally h bank i n).gov = s.gov := rfl
@[simp] theorem State.tally_brk (h bank i n : Nat) : (s.tally h bank i n).brk = s.brk := rfl
@[simp] theorem State.tally_tlyE (h bank i n : Nat) : (s.tally h bank i n).tlyE = (if h = 0 then s.tlyE.bump bank i n else s.tlyE) := rfl
@[simp] theorem State.tally_tlyW (h bank i n : Nat) : (s.tally h bank i n).tlyW = (if h = 0 then s.tlyW else s.tlyW.bump bank i n) := rfl
@[simp] theorem State.tally_mil (h bank i n : Nat) : (s.tally h bank i n).mil = s.mil := rfl
@[simp] theorem State.tally_mmk (h bank i n : Nat) : (s.tally h bank i n).mmk = s.mmk := rfl
@[simp] theorem State.tally_tst (h bank i n : Nat) : (s.tally h bank i n).tst = s.tst := rfl
@[simp] theorem State.tally_i3c (h bank i n : Nat) : (s.tally h bank i n).i3c = s.i3c := rfl
@[simp] theorem State.tally_boot (h bank i n : Nat) : (s.tally h bank i n).boot = s.boot := rfl
@[simp] theorem State.tally_out (h bank i n : Nat) : (s.tally h bank i n).out = s.out := rfl
@[simp] theorem State.tally_reply (h bank i n : Nat) : (s.tally h bank i n).reply = s.reply := rfl
@[simp] theorem State.tally_freeCtr (h bank i n : Nat) : (s.tally h bank i n).freeCtr = s.freeCtr := rfl

@[simp] theorem State.tallyMod_pending (m e n : Nat) : (s.tallyMod m e n).pending = s.pending := rfl
@[simp] theorem State.tallyMod_regs (m e n : Nat) : (s.tallyMod m e n).regs = s.regs := rfl
@[simp] theorem State.tallyMod_eff (m e n : Nat) : (s.tallyMod m e n).eff = s.eff := rfl
@[simp] theorem State.tallyMod_fuse (m e n : Nat) : (s.tallyMod m e n).fuse = s.fuse := rfl
@[simp] theorem State.tallyMod_ld (m e n : Nat) : (s.tallyMod m e n).ld = s.ld := rfl
@[simp] theorem State.tallyMod_clk (m e n : Nat) : (s.tallyMod m e n).clk = s.clk := rfl
@[simp] theorem State.tallyMod_mods (m e n : Nat) : (s.tallyMod m e n).mods = s.mods := rfl
@[simp] theorem State.tallyMod_hop (m e n : Nat) : (s.tallyMod m e n).hop = s.hop := rfl
@[simp] theorem State.tallyMod_pond (m e n : Nat) : (s.tallyMod m e n).pond = s.pond := rfl
@[simp] theorem State.tallyMod_flume (m e n : Nat) : (s.tallyMod m e n).flume = s.flume := rfl
@[simp] theorem State.tallyMod_nextFid (m e n : Nat) : (s.tallyMod m e n).nextFid = s.nextFid := rfl
@[simp] theorem State.tallyMod_lay (m e n : Nat) : (s.tallyMod m e n).lay = s.lay := rfl
@[simp] theorem State.tallyMod_weir (m e n : Nat) : (s.tallyMod m e n).weir = s.weir := rfl
@[simp] theorem State.tallyMod_races (m e n : Nat) : (s.tallyMod m e n).races = s.races := rfl
@[simp] theorem State.tallyMod_fanE (m e n : Nat) : (s.tallyMod m e n).fanE = s.fanE := rfl
@[simp] theorem State.tallyMod_fanW (m e n : Nat) : (s.tallyMod m e n).fanW = s.fanW := rfl
@[simp] theorem State.tallyMod_qrnE (m e n : Nat) : (s.tallyMod m e n).qrnE = s.qrnE := rfl
@[simp] theorem State.tallyMod_qrnW (m e n : Nat) : (s.tallyMod m e n).qrnW = s.qrnW := rfl
@[simp] theorem State.tallyMod_dram (m e n : Nat) : (s.tallyMod m e n).dram = s.dram := rfl
@[simp] theorem State.tallyMod_drs (m e n : Nat) : (s.tallyMod m e n).drs = s.drs := rfl
@[simp] theorem State.tallyMod_hstE (m e n : Nat) : (s.tallyMod m e n).hstE = s.hstE := rfl
@[simp] theorem State.tallyMod_hstW (m e n : Nat) : (s.tallyMod m e n).hstW = s.hstW := rfl
@[simp] theorem State.tallyMod_gov (m e n : Nat) : (s.tallyMod m e n).gov = s.gov := rfl
@[simp] theorem State.tallyMod_brk (m e n : Nat) : (s.tallyMod m e n).brk = s.brk := rfl
@[simp] theorem State.tallyMod_mil (m e n : Nat) : (s.tallyMod m e n).mil = s.mil := rfl
@[simp] theorem State.tallyMod_mmk (m e n : Nat) : (s.tallyMod m e n).mmk = s.mmk := rfl
@[simp] theorem State.tallyMod_tst (m e n : Nat) : (s.tallyMod m e n).tst = s.tst := rfl
@[simp] theorem State.tallyMod_i3c (m e n : Nat) : (s.tallyMod m e n).i3c = s.i3c := rfl
@[simp] theorem State.tallyMod_boot (m e n : Nat) : (s.tallyMod m e n).boot = s.boot := rfl
@[simp] theorem State.tallyMod_out (m e n : Nat) : (s.tallyMod m e n).out = s.out := rfl
@[simp] theorem State.tallyMod_reply (m e n : Nat) : (s.tallyMod m e n).reply = s.reply := rfl
@[simp] theorem State.tallyMod_freeCtr (m e n : Nat) : (s.tallyMod m e n).freeCtr = s.freeCtr := rfl

@[simp] theorem State.tallyCls_pending (h c e n : Nat) : (s.tallyCls h c e n).pending = s.pending := rfl
@[simp] theorem State.tallyCls_regs (h c e n : Nat) : (s.tallyCls h c e n).regs = s.regs := rfl
@[simp] theorem State.tallyCls_eff (h c e n : Nat) : (s.tallyCls h c e n).eff = s.eff := rfl
@[simp] theorem State.tallyCls_fuse (h c e n : Nat) : (s.tallyCls h c e n).fuse = s.fuse := rfl
@[simp] theorem State.tallyCls_ld (h c e n : Nat) : (s.tallyCls h c e n).ld = s.ld := rfl
@[simp] theorem State.tallyCls_clk (h c e n : Nat) : (s.tallyCls h c e n).clk = s.clk := rfl
@[simp] theorem State.tallyCls_mods (h c e n : Nat) : (s.tallyCls h c e n).mods = s.mods := rfl
@[simp] theorem State.tallyCls_hop (h c e n : Nat) : (s.tallyCls h c e n).hop = s.hop := rfl
@[simp] theorem State.tallyCls_pond (h c e n : Nat) : (s.tallyCls h c e n).pond = s.pond := rfl
@[simp] theorem State.tallyCls_flume (h c e n : Nat) : (s.tallyCls h c e n).flume = s.flume := rfl
@[simp] theorem State.tallyCls_nextFid (h c e n : Nat) : (s.tallyCls h c e n).nextFid = s.nextFid := rfl
@[simp] theorem State.tallyCls_lay (h c e n : Nat) : (s.tallyCls h c e n).lay = s.lay := rfl
@[simp] theorem State.tallyCls_weir (h c e n : Nat) : (s.tallyCls h c e n).weir = s.weir := rfl
@[simp] theorem State.tallyCls_races (h c e n : Nat) : (s.tallyCls h c e n).races = s.races := rfl
@[simp] theorem State.tallyCls_fanE (h c e n : Nat) : (s.tallyCls h c e n).fanE = s.fanE := rfl
@[simp] theorem State.tallyCls_fanW (h c e n : Nat) : (s.tallyCls h c e n).fanW = s.fanW := rfl
@[simp] theorem State.tallyCls_qrnE (h c e n : Nat) : (s.tallyCls h c e n).qrnE = s.qrnE := rfl
@[simp] theorem State.tallyCls_qrnW (h c e n : Nat) : (s.tallyCls h c e n).qrnW = s.qrnW := rfl
@[simp] theorem State.tallyCls_dram (h c e n : Nat) : (s.tallyCls h c e n).dram = s.dram := rfl
@[simp] theorem State.tallyCls_drs (h c e n : Nat) : (s.tallyCls h c e n).drs = s.drs := rfl
@[simp] theorem State.tallyCls_hstE (h c e n : Nat) : (s.tallyCls h c e n).hstE = s.hstE := rfl
@[simp] theorem State.tallyCls_hstW (h c e n : Nat) : (s.tallyCls h c e n).hstW = s.hstW := rfl
@[simp] theorem State.tallyCls_gov (h c e n : Nat) : (s.tallyCls h c e n).gov = s.gov := rfl
@[simp] theorem State.tallyCls_brk (h c e n : Nat) : (s.tallyCls h c e n).brk = s.brk := rfl
@[simp] theorem State.tallyCls_mil (h c e n : Nat) : (s.tallyCls h c e n).mil = s.mil := rfl
@[simp] theorem State.tallyCls_mmk (h c e n : Nat) : (s.tallyCls h c e n).mmk = s.mmk := rfl
@[simp] theorem State.tallyCls_tst (h c e n : Nat) : (s.tallyCls h c e n).tst = s.tst := rfl
@[simp] theorem State.tallyCls_i3c (h c e n : Nat) : (s.tallyCls h c e n).i3c = s.i3c := rfl
@[simp] theorem State.tallyCls_boot (h c e n : Nat) : (s.tallyCls h c e n).boot = s.boot := rfl
@[simp] theorem State.tallyCls_out (h c e n : Nat) : (s.tallyCls h c e n).out = s.out := rfl
@[simp] theorem State.tallyCls_reply (h c e n : Nat) : (s.tallyCls h c e n).reply = s.reply := rfl
@[simp] theorem State.tallyCls_freeCtr (h c e n : Nat) : (s.tallyCls h c e n).freeCtr = s.freeCtr := rfl

@[simp] theorem State.tallyRace_pending (r e n : Nat) : (s.tallyRace r e n).pending = s.pending := rfl
@[simp] theorem State.tallyRace_regs (r e n : Nat) : (s.tallyRace r e n).regs = s.regs := rfl
@[simp] theorem State.tallyRace_eff (r e n : Nat) : (s.tallyRace r e n).eff = s.eff := rfl
@[simp] theorem State.tallyRace_fuse (r e n : Nat) : (s.tallyRace r e n).fuse = s.fuse := rfl
@[simp] theorem State.tallyRace_ld (r e n : Nat) : (s.tallyRace r e n).ld = s.ld := rfl
@[simp] theorem State.tallyRace_clk (r e n : Nat) : (s.tallyRace r e n).clk = s.clk := rfl
@[simp] theorem State.tallyRace_mods (r e n : Nat) : (s.tallyRace r e n).mods = s.mods := rfl
@[simp] theorem State.tallyRace_hop (r e n : Nat) : (s.tallyRace r e n).hop = s.hop := rfl
@[simp] theorem State.tallyRace_pond (r e n : Nat) : (s.tallyRace r e n).pond = s.pond := rfl
@[simp] theorem State.tallyRace_flume (r e n : Nat) : (s.tallyRace r e n).flume = s.flume := rfl
@[simp] theorem State.tallyRace_nextFid (r e n : Nat) : (s.tallyRace r e n).nextFid = s.nextFid := rfl
@[simp] theorem State.tallyRace_lay (r e n : Nat) : (s.tallyRace r e n).lay = s.lay := rfl
@[simp] theorem State.tallyRace_weir (r e n : Nat) : (s.tallyRace r e n).weir = s.weir := rfl
@[simp] theorem State.tallyRace_races (r e n : Nat) : (s.tallyRace r e n).races = s.races := rfl
@[simp] theorem State.tallyRace_fanE (r e n : Nat) : (s.tallyRace r e n).fanE = s.fanE := rfl
@[simp] theorem State.tallyRace_fanW (r e n : Nat) : (s.tallyRace r e n).fanW = s.fanW := rfl
@[simp] theorem State.tallyRace_qrnE (r e n : Nat) : (s.tallyRace r e n).qrnE = s.qrnE := rfl
@[simp] theorem State.tallyRace_qrnW (r e n : Nat) : (s.tallyRace r e n).qrnW = s.qrnW := rfl
@[simp] theorem State.tallyRace_dram (r e n : Nat) : (s.tallyRace r e n).dram = s.dram := rfl
@[simp] theorem State.tallyRace_drs (r e n : Nat) : (s.tallyRace r e n).drs = s.drs := rfl
@[simp] theorem State.tallyRace_hstE (r e n : Nat) : (s.tallyRace r e n).hstE = s.hstE := rfl
@[simp] theorem State.tallyRace_hstW (r e n : Nat) : (s.tallyRace r e n).hstW = s.hstW := rfl
@[simp] theorem State.tallyRace_gov (r e n : Nat) : (s.tallyRace r e n).gov = s.gov := rfl
@[simp] theorem State.tallyRace_brk (r e n : Nat) : (s.tallyRace r e n).brk = s.brk := rfl
@[simp] theorem State.tallyRace_mil (r e n : Nat) : (s.tallyRace r e n).mil = s.mil := rfl
@[simp] theorem State.tallyRace_mmk (r e n : Nat) : (s.tallyRace r e n).mmk = s.mmk := rfl
@[simp] theorem State.tallyRace_tst (r e n : Nat) : (s.tallyRace r e n).tst = s.tst := rfl
@[simp] theorem State.tallyRace_i3c (r e n : Nat) : (s.tallyRace r e n).i3c = s.i3c := rfl
@[simp] theorem State.tallyRace_boot (r e n : Nat) : (s.tallyRace r e n).boot = s.boot := rfl
@[simp] theorem State.tallyRace_out (r e n : Nat) : (s.tallyRace r e n).out = s.out := rfl
@[simp] theorem State.tallyRace_reply (r e n : Nat) : (s.tallyRace r e n).reply = s.reply := rfl
@[simp] theorem State.tallyRace_freeCtr (r e n : Nat) : (s.tallyRace r e n).freeCtr = s.freeCtr := rfl

@[simp] theorem State.tallyStore_pending (h e n : Nat) : (s.tallyStore h e n).pending = s.pending := rfl
@[simp] theorem State.tallyStore_regs (h e n : Nat) : (s.tallyStore h e n).regs = s.regs := rfl
@[simp] theorem State.tallyStore_eff (h e n : Nat) : (s.tallyStore h e n).eff = s.eff := rfl
@[simp] theorem State.tallyStore_fuse (h e n : Nat) : (s.tallyStore h e n).fuse = s.fuse := rfl
@[simp] theorem State.tallyStore_ld (h e n : Nat) : (s.tallyStore h e n).ld = s.ld := rfl
@[simp] theorem State.tallyStore_clk (h e n : Nat) : (s.tallyStore h e n).clk = s.clk := rfl
@[simp] theorem State.tallyStore_mods (h e n : Nat) : (s.tallyStore h e n).mods = s.mods := rfl
@[simp] theorem State.tallyStore_hop (h e n : Nat) : (s.tallyStore h e n).hop = s.hop := rfl
@[simp] theorem State.tallyStore_pond (h e n : Nat) : (s.tallyStore h e n).pond = s.pond := rfl
@[simp] theorem State.tallyStore_flume (h e n : Nat) : (s.tallyStore h e n).flume = s.flume := rfl
@[simp] theorem State.tallyStore_nextFid (h e n : Nat) : (s.tallyStore h e n).nextFid = s.nextFid := rfl
@[simp] theorem State.tallyStore_lay (h e n : Nat) : (s.tallyStore h e n).lay = s.lay := rfl
@[simp] theorem State.tallyStore_weir (h e n : Nat) : (s.tallyStore h e n).weir = s.weir := rfl
@[simp] theorem State.tallyStore_races (h e n : Nat) : (s.tallyStore h e n).races = s.races := rfl
@[simp] theorem State.tallyStore_fanE (h e n : Nat) : (s.tallyStore h e n).fanE = s.fanE := rfl
@[simp] theorem State.tallyStore_fanW (h e n : Nat) : (s.tallyStore h e n).fanW = s.fanW := rfl
@[simp] theorem State.tallyStore_qrnE (h e n : Nat) : (s.tallyStore h e n).qrnE = s.qrnE := rfl
@[simp] theorem State.tallyStore_qrnW (h e n : Nat) : (s.tallyStore h e n).qrnW = s.qrnW := rfl
@[simp] theorem State.tallyStore_dram (h e n : Nat) : (s.tallyStore h e n).dram = s.dram := rfl
@[simp] theorem State.tallyStore_drs (h e n : Nat) : (s.tallyStore h e n).drs = s.drs := rfl
@[simp] theorem State.tallyStore_hstE (h e n : Nat) : (s.tallyStore h e n).hstE = s.hstE := rfl
@[simp] theorem State.tallyStore_hstW (h e n : Nat) : (s.tallyStore h e n).hstW = s.hstW := rfl
@[simp] theorem State.tallyStore_gov (h e n : Nat) : (s.tallyStore h e n).gov = s.gov := rfl
@[simp] theorem State.tallyStore_brk (h e n : Nat) : (s.tallyStore h e n).brk = s.brk := rfl
@[simp] theorem State.tallyStore_mil (h e n : Nat) : (s.tallyStore h e n).mil = s.mil := rfl
@[simp] theorem State.tallyStore_mmk (h e n : Nat) : (s.tallyStore h e n).mmk = s.mmk := rfl
@[simp] theorem State.tallyStore_tst (h e n : Nat) : (s.tallyStore h e n).tst = s.tst := rfl
@[simp] theorem State.tallyStore_i3c (h e n : Nat) : (s.tallyStore h e n).i3c = s.i3c := rfl
@[simp] theorem State.tallyStore_boot (h e n : Nat) : (s.tallyStore h e n).boot = s.boot := rfl
@[simp] theorem State.tallyStore_out (h e n : Nat) : (s.tallyStore h e n).out = s.out := rfl
@[simp] theorem State.tallyStore_reply (h e n : Nat) : (s.tallyStore h e n).reply = s.reply := rfl
@[simp] theorem State.tallyStore_freeCtr (h e n : Nat) : (s.tallyStore h e n).freeCtr = s.freeCtr := rfl

@[simp] theorem State.storeCell_pending (a : Nat) (w : Codeword) : (s.storeCell a w).pending = s.pending := rfl
@[simp] theorem State.storeCell_regs (a : Nat) (w : Codeword) : (s.storeCell a w).regs = s.regs := rfl
@[simp] theorem State.storeCell_eff (a : Nat) (w : Codeword) : (s.storeCell a w).eff = s.eff := rfl
@[simp] theorem State.storeCell_fuse (a : Nat) (w : Codeword) : (s.storeCell a w).fuse = s.fuse := rfl
@[simp] theorem State.storeCell_ld (a : Nat) (w : Codeword) : (s.storeCell a w).ld = s.ld := rfl
@[simp] theorem State.storeCell_clk (a : Nat) (w : Codeword) : (s.storeCell a w).clk = s.clk := rfl
@[simp] theorem State.storeCell_mods (a : Nat) (w : Codeword) : (s.storeCell a w).mods = s.mods := rfl
@[simp] theorem State.storeCell_hop (a : Nat) (w : Codeword) : (s.storeCell a w).hop = s.hop := rfl
@[simp] theorem State.storeCell_pond (a : Nat) (w : Codeword) : (s.storeCell a w).pond = s.pond := rfl
@[simp] theorem State.storeCell_flume (a : Nat) (w : Codeword) : (s.storeCell a w).flume = s.flume := rfl
@[simp] theorem State.storeCell_nextFid (a : Nat) (w : Codeword) : (s.storeCell a w).nextFid = s.nextFid := rfl
@[simp] theorem State.storeCell_lay (a : Nat) (w : Codeword) : (s.storeCell a w).lay = s.lay := rfl
@[simp] theorem State.storeCell_weir (a : Nat) (w : Codeword) : (s.storeCell a w).weir = s.weir := rfl
@[simp] theorem State.storeCell_races (a : Nat) (w : Codeword) : (s.storeCell a w).races = s.races := rfl
@[simp] theorem State.storeCell_fanE (a : Nat) (w : Codeword) : (s.storeCell a w).fanE = s.fanE := rfl
@[simp] theorem State.storeCell_fanW (a : Nat) (w : Codeword) : (s.storeCell a w).fanW = s.fanW := rfl
@[simp] theorem State.storeCell_qrnE (a : Nat) (w : Codeword) : (s.storeCell a w).qrnE = s.qrnE := rfl
@[simp] theorem State.storeCell_qrnW (a : Nat) (w : Codeword) : (s.storeCell a w).qrnW = s.qrnW := rfl
@[simp] theorem State.storeCell_dram (a : Nat) (w : Codeword) : (s.storeCell a w).dram = (s.dram.store (a / 64) (s.blockOf a) w) := rfl
@[simp] theorem State.storeCell_drs (a : Nat) (w : Codeword) : (s.storeCell a w).drs = s.drs := rfl
@[simp] theorem State.storeCell_hstE (a : Nat) (w : Codeword) : (s.storeCell a w).hstE = s.hstE := rfl
@[simp] theorem State.storeCell_hstW (a : Nat) (w : Codeword) : (s.storeCell a w).hstW = s.hstW := rfl
@[simp] theorem State.storeCell_gov (a : Nat) (w : Codeword) : (s.storeCell a w).gov = s.gov := rfl
@[simp] theorem State.storeCell_brk (a : Nat) (w : Codeword) : (s.storeCell a w).brk = s.brk := rfl
@[simp] theorem State.storeCell_tlyE (a : Nat) (w : Codeword) : (s.storeCell a w).tlyE = s.tlyE := rfl
@[simp] theorem State.storeCell_tlyW (a : Nat) (w : Codeword) : (s.storeCell a w).tlyW = s.tlyW := rfl
@[simp] theorem State.storeCell_mil (a : Nat) (w : Codeword) : (s.storeCell a w).mil = s.mil := rfl
@[simp] theorem State.storeCell_mmk (a : Nat) (w : Codeword) : (s.storeCell a w).mmk = s.mmk := rfl
@[simp] theorem State.storeCell_tst (a : Nat) (w : Codeword) : (s.storeCell a w).tst = s.tst := rfl
@[simp] theorem State.storeCell_i3c (a : Nat) (w : Codeword) : (s.storeCell a w).i3c = s.i3c := rfl
@[simp] theorem State.storeCell_boot (a : Nat) (w : Codeword) : (s.storeCell a w).boot = s.boot := rfl
@[simp] theorem State.storeCell_out (a : Nat) (w : Codeword) : (s.storeCell a w).out = s.out := rfl
@[simp] theorem State.storeCell_reply (a : Nat) (w : Codeword) : (s.storeCell a w).reply = s.reply := rfl
@[simp] theorem State.storeCell_freeCtr (a : Nat) (w : Codeword) : (s.storeCell a w).freeCtr = s.freeCtr := rfl

@[simp] theorem State.zeroBlock_pending (blk epoch : Nat) : (s.zeroBlock blk epoch).pending = s.pending := rfl
@[simp] theorem State.zeroBlock_regs (blk epoch : Nat) : (s.zeroBlock blk epoch).regs = s.regs := rfl
@[simp] theorem State.zeroBlock_eff (blk epoch : Nat) : (s.zeroBlock blk epoch).eff = s.eff := rfl
@[simp] theorem State.zeroBlock_fuse (blk epoch : Nat) : (s.zeroBlock blk epoch).fuse = s.fuse := rfl
@[simp] theorem State.zeroBlock_ld (blk epoch : Nat) : (s.zeroBlock blk epoch).ld = s.ld := rfl
@[simp] theorem State.zeroBlock_clk (blk epoch : Nat) : (s.zeroBlock blk epoch).clk = s.clk := rfl
@[simp] theorem State.zeroBlock_mods (blk epoch : Nat) : (s.zeroBlock blk epoch).mods = s.mods := rfl
@[simp] theorem State.zeroBlock_hop (blk epoch : Nat) : (s.zeroBlock blk epoch).hop = s.hop := rfl
@[simp] theorem State.zeroBlock_pond (blk epoch : Nat) : (s.zeroBlock blk epoch).pond = s.pond := rfl
@[simp] theorem State.zeroBlock_flume (blk epoch : Nat) : (s.zeroBlock blk epoch).flume = s.flume := rfl
@[simp] theorem State.zeroBlock_nextFid (blk epoch : Nat) : (s.zeroBlock blk epoch).nextFid = s.nextFid := rfl
@[simp] theorem State.zeroBlock_lay (blk epoch : Nat) : (s.zeroBlock blk epoch).lay = s.lay := rfl
@[simp] theorem State.zeroBlock_weir (blk epoch : Nat) : (s.zeroBlock blk epoch).weir = s.weir := rfl
@[simp] theorem State.zeroBlock_races (blk epoch : Nat) : (s.zeroBlock blk epoch).races = s.races := rfl
@[simp] theorem State.zeroBlock_fanE (blk epoch : Nat) : (s.zeroBlock blk epoch).fanE = s.fanE := rfl
@[simp] theorem State.zeroBlock_fanW (blk epoch : Nat) : (s.zeroBlock blk epoch).fanW = s.fanW := rfl
@[simp] theorem State.zeroBlock_qrnE (blk epoch : Nat) : (s.zeroBlock blk epoch).qrnE = s.qrnE := rfl
@[simp] theorem State.zeroBlock_qrnW (blk epoch : Nat) : (s.zeroBlock blk epoch).qrnW = s.qrnW := rfl
@[simp] theorem State.zeroBlock_drs (blk epoch : Nat) : (s.zeroBlock blk epoch).drs = s.drs := rfl
@[simp] theorem State.zeroBlock_hstE (blk epoch : Nat) : (s.zeroBlock blk epoch).hstE = s.hstE := rfl
@[simp] theorem State.zeroBlock_hstW (blk epoch : Nat) : (s.zeroBlock blk epoch).hstW = s.hstW := rfl
@[simp] theorem State.zeroBlock_gov (blk epoch : Nat) : (s.zeroBlock blk epoch).gov = s.gov := rfl
@[simp] theorem State.zeroBlock_brk (blk epoch : Nat) : (s.zeroBlock blk epoch).brk = s.brk := rfl
@[simp] theorem State.zeroBlock_tlyE (blk epoch : Nat) : (s.zeroBlock blk epoch).tlyE = s.tlyE := rfl
@[simp] theorem State.zeroBlock_tlyW (blk epoch : Nat) : (s.zeroBlock blk epoch).tlyW = s.tlyW := rfl
@[simp] theorem State.zeroBlock_mil (blk epoch : Nat) : (s.zeroBlock blk epoch).mil = s.mil := rfl
@[simp] theorem State.zeroBlock_mmk (blk epoch : Nat) : (s.zeroBlock blk epoch).mmk = s.mmk := rfl
@[simp] theorem State.zeroBlock_tst (blk epoch : Nat) : (s.zeroBlock blk epoch).tst = s.tst := rfl
@[simp] theorem State.zeroBlock_i3c (blk epoch : Nat) : (s.zeroBlock blk epoch).i3c = s.i3c := rfl
@[simp] theorem State.zeroBlock_boot (blk epoch : Nat) : (s.zeroBlock blk epoch).boot = s.boot := rfl
@[simp] theorem State.zeroBlock_out (blk epoch : Nat) : (s.zeroBlock blk epoch).out = s.out := rfl
@[simp] theorem State.zeroBlock_reply (blk epoch : Nat) : (s.zeroBlock blk epoch).reply = s.reply := rfl
@[simp] theorem State.zeroBlock_freeCtr (blk epoch : Nat) : (s.zeroBlock blk epoch).freeCtr = s.freeCtr := rfl

@[simp] theorem State.clearResv_pending (p : Nat → Resv → Bool) : (s.clearResv p).pending = s.pending := rfl
@[simp] theorem State.clearResv_regs (p : Nat → Resv → Bool) : (s.clearResv p).regs = s.regs := rfl
@[simp] theorem State.clearResv_eff (p : Nat → Resv → Bool) : (s.clearResv p).eff = s.eff := rfl
@[simp] theorem State.clearResv_fuse (p : Nat → Resv → Bool) : (s.clearResv p).fuse = s.fuse := rfl
@[simp] theorem State.clearResv_ld (p : Nat → Resv → Bool) : (s.clearResv p).ld = s.ld := rfl
@[simp] theorem State.clearResv_clk (p : Nat → Resv → Bool) : (s.clearResv p).clk = s.clk := rfl
@[simp] theorem State.clearResv_mods (p : Nat → Resv → Bool) : (s.clearResv p).mods = s.mods := rfl
@[simp] theorem State.clearResv_pond (p : Nat → Resv → Bool) : (s.clearResv p).pond = s.pond := rfl
@[simp] theorem State.clearResv_flume (p : Nat → Resv → Bool) : (s.clearResv p).flume = s.flume := rfl
@[simp] theorem State.clearResv_nextFid (p : Nat → Resv → Bool) : (s.clearResv p).nextFid = s.nextFid := rfl
@[simp] theorem State.clearResv_lay (p : Nat → Resv → Bool) : (s.clearResv p).lay = s.lay := rfl
@[simp] theorem State.clearResv_weir (p : Nat → Resv → Bool) : (s.clearResv p).weir = s.weir := rfl
@[simp] theorem State.clearResv_races (p : Nat → Resv → Bool) : (s.clearResv p).races = s.races := rfl
@[simp] theorem State.clearResv_fanE (p : Nat → Resv → Bool) : (s.clearResv p).fanE = s.fanE := rfl
@[simp] theorem State.clearResv_fanW (p : Nat → Resv → Bool) : (s.clearResv p).fanW = s.fanW := rfl
@[simp] theorem State.clearResv_qrnE (p : Nat → Resv → Bool) : (s.clearResv p).qrnE = s.qrnE := rfl
@[simp] theorem State.clearResv_qrnW (p : Nat → Resv → Bool) : (s.clearResv p).qrnW = s.qrnW := rfl
@[simp] theorem State.clearResv_dram (p : Nat → Resv → Bool) : (s.clearResv p).dram = s.dram := rfl
@[simp] theorem State.clearResv_drs (p : Nat → Resv → Bool) : (s.clearResv p).drs = s.drs := rfl
@[simp] theorem State.clearResv_hstE (p : Nat → Resv → Bool) : (s.clearResv p).hstE = s.hstE := rfl
@[simp] theorem State.clearResv_hstW (p : Nat → Resv → Bool) : (s.clearResv p).hstW = s.hstW := rfl
@[simp] theorem State.clearResv_gov (p : Nat → Resv → Bool) : (s.clearResv p).gov = s.gov := rfl
@[simp] theorem State.clearResv_brk (p : Nat → Resv → Bool) : (s.clearResv p).brk = s.brk := rfl
@[simp] theorem State.clearResv_tlyE (p : Nat → Resv → Bool) : (s.clearResv p).tlyE = s.tlyE := rfl
@[simp] theorem State.clearResv_tlyW (p : Nat → Resv → Bool) : (s.clearResv p).tlyW = s.tlyW := rfl
@[simp] theorem State.clearResv_mil (p : Nat → Resv → Bool) : (s.clearResv p).mil = s.mil := rfl
@[simp] theorem State.clearResv_mmk (p : Nat → Resv → Bool) : (s.clearResv p).mmk = s.mmk := rfl
@[simp] theorem State.clearResv_tst (p : Nat → Resv → Bool) : (s.clearResv p).tst = s.tst := rfl
@[simp] theorem State.clearResv_i3c (p : Nat → Resv → Bool) : (s.clearResv p).i3c = s.i3c := rfl
@[simp] theorem State.clearResv_boot (p : Nat → Resv → Bool) : (s.clearResv p).boot = s.boot := rfl
@[simp] theorem State.clearResv_out (p : Nat → Resv → Bool) : (s.clearResv p).out = s.out := rfl
@[simp] theorem State.clearResv_reply (p : Nat → Resv → Bool) : (s.clearResv p).reply = s.reply := rfl
@[simp] theorem State.clearResv_freeCtr (p : Nat → Resv → Bool) : (s.clearResv p).freeCtr = s.freeCtr := rfl

@[simp] theorem State.touch_pending (a : Nat) : (s.touch a).pending = s.pending := rfl
@[simp] theorem State.touch_regs (a : Nat) : (s.touch a).regs = s.regs := rfl
@[simp] theorem State.touch_eff (a : Nat) : (s.touch a).eff = s.eff := rfl
@[simp] theorem State.touch_fuse (a : Nat) : (s.touch a).fuse = s.fuse := rfl
@[simp] theorem State.touch_ld (a : Nat) : (s.touch a).ld = s.ld := rfl
@[simp] theorem State.touch_clk (a : Nat) : (s.touch a).clk = s.clk := rfl
@[simp] theorem State.touch_mods (a : Nat) : (s.touch a).mods = s.mods := rfl
@[simp] theorem State.touch_pond (a : Nat) : (s.touch a).pond = s.pond := rfl
@[simp] theorem State.touch_flume (a : Nat) : (s.touch a).flume = s.flume := rfl
@[simp] theorem State.touch_nextFid (a : Nat) : (s.touch a).nextFid = s.nextFid := rfl
@[simp] theorem State.touch_lay (a : Nat) : (s.touch a).lay = s.lay := rfl
@[simp] theorem State.touch_weir (a : Nat) : (s.touch a).weir = s.weir := rfl
@[simp] theorem State.touch_races (a : Nat) : (s.touch a).races = s.races := rfl
@[simp] theorem State.touch_fanE (a : Nat) : (s.touch a).fanE = s.fanE := rfl
@[simp] theorem State.touch_fanW (a : Nat) : (s.touch a).fanW = s.fanW := rfl
@[simp] theorem State.touch_qrnE (a : Nat) : (s.touch a).qrnE = s.qrnE := rfl
@[simp] theorem State.touch_qrnW (a : Nat) : (s.touch a).qrnW = s.qrnW := rfl
@[simp] theorem State.touch_dram (a : Nat) : (s.touch a).dram = s.dram := rfl
@[simp] theorem State.touch_drs (a : Nat) : (s.touch a).drs = s.drs := rfl
@[simp] theorem State.touch_hstE (a : Nat) : (s.touch a).hstE = s.hstE := rfl
@[simp] theorem State.touch_hstW (a : Nat) : (s.touch a).hstW = s.hstW := rfl
@[simp] theorem State.touch_gov (a : Nat) : (s.touch a).gov = s.gov := rfl
@[simp] theorem State.touch_brk (a : Nat) : (s.touch a).brk = s.brk := rfl
@[simp] theorem State.touch_tlyE (a : Nat) : (s.touch a).tlyE = s.tlyE := rfl
@[simp] theorem State.touch_tlyW (a : Nat) : (s.touch a).tlyW = s.tlyW := rfl
@[simp] theorem State.touch_mil (a : Nat) : (s.touch a).mil = s.mil := rfl
@[simp] theorem State.touch_mmk (a : Nat) : (s.touch a).mmk = s.mmk := rfl
@[simp] theorem State.touch_tst (a : Nat) : (s.touch a).tst = s.tst := rfl
@[simp] theorem State.touch_i3c (a : Nat) : (s.touch a).i3c = s.i3c := rfl
@[simp] theorem State.touch_boot (a : Nat) : (s.touch a).boot = s.boot := rfl
@[simp] theorem State.touch_out (a : Nat) : (s.touch a).out = s.out := rfl
@[simp] theorem State.touch_reply (a : Nat) : (s.touch a).reply = s.reply := rfl
@[simp] theorem State.touch_freeCtr (a : Nat) : (s.touch a).freeCtr = s.freeCtr := rfl

@[simp] theorem State.discardResp_pending (m : Nat) : (s.discardResp m).pending = s.pending := rfl
@[simp] theorem State.discardResp_regs (m : Nat) : (s.discardResp m).regs = s.regs := rfl
@[simp] theorem State.discardResp_eff (m : Nat) : (s.discardResp m).eff = s.eff := rfl
@[simp] theorem State.discardResp_fuse (m : Nat) : (s.discardResp m).fuse = s.fuse := rfl
@[simp] theorem State.discardResp_ld (m : Nat) : (s.discardResp m).ld = s.ld := rfl
@[simp] theorem State.discardResp_clk (m : Nat) : (s.discardResp m).clk = s.clk := rfl
@[simp] theorem State.discardResp_mods (m : Nat) : (s.discardResp m).mods = s.mods := rfl
@[simp] theorem State.discardResp_pond (m : Nat) : (s.discardResp m).pond = s.pond := rfl
@[simp] theorem State.discardResp_flume (m : Nat) : (s.discardResp m).flume = s.flume := rfl
@[simp] theorem State.discardResp_nextFid (m : Nat) : (s.discardResp m).nextFid = s.nextFid := rfl
@[simp] theorem State.discardResp_lay (m : Nat) : (s.discardResp m).lay = s.lay := rfl
@[simp] theorem State.discardResp_weir (m : Nat) : (s.discardResp m).weir = s.weir := rfl
@[simp] theorem State.discardResp_races (m : Nat) : (s.discardResp m).races = s.races := rfl
@[simp] theorem State.discardResp_fanE (m : Nat) : (s.discardResp m).fanE = s.fanE := rfl
@[simp] theorem State.discardResp_fanW (m : Nat) : (s.discardResp m).fanW = s.fanW := rfl
@[simp] theorem State.discardResp_qrnE (m : Nat) : (s.discardResp m).qrnE = s.qrnE := rfl
@[simp] theorem State.discardResp_qrnW (m : Nat) : (s.discardResp m).qrnW = s.qrnW := rfl
@[simp] theorem State.discardResp_dram (m : Nat) : (s.discardResp m).dram = s.dram := rfl
@[simp] theorem State.discardResp_drs (m : Nat) : (s.discardResp m).drs = s.drs := rfl
@[simp] theorem State.discardResp_hstE (m : Nat) : (s.discardResp m).hstE = s.hstE := rfl
@[simp] theorem State.discardResp_hstW (m : Nat) : (s.discardResp m).hstW = s.hstW := rfl
@[simp] theorem State.discardResp_gov (m : Nat) : (s.discardResp m).gov = s.gov := rfl
@[simp] theorem State.discardResp_brk (m : Nat) : (s.discardResp m).brk = s.brk := rfl
@[simp] theorem State.discardResp_tlyE (m : Nat) : (s.discardResp m).tlyE = s.tlyE := rfl
@[simp] theorem State.discardResp_tlyW (m : Nat) : (s.discardResp m).tlyW = s.tlyW := rfl
@[simp] theorem State.discardResp_mil (m : Nat) : (s.discardResp m).mil = s.mil := rfl
@[simp] theorem State.discardResp_mmk (m : Nat) : (s.discardResp m).mmk = s.mmk := rfl
@[simp] theorem State.discardResp_tst (m : Nat) : (s.discardResp m).tst = s.tst := rfl
@[simp] theorem State.discardResp_i3c (m : Nat) : (s.discardResp m).i3c = s.i3c := rfl
@[simp] theorem State.discardResp_boot (m : Nat) : (s.discardResp m).boot = s.boot := rfl
@[simp] theorem State.discardResp_out (m : Nat) : (s.discardResp m).out = s.out := rfl
@[simp] theorem State.discardResp_reply (m : Nat) : (s.discardResp m).reply = s.reply := rfl
@[simp] theorem State.discardResp_freeCtr (m : Nat) : (s.discardResp m).freeCtr = s.freeCtr := rfl

@[simp] theorem State.markLost_pending (stream : Nat) : (s.markLost stream).pending = s.pending := rfl
@[simp] theorem State.markLost_regs (stream : Nat) : (s.markLost stream).regs = s.regs := rfl
@[simp] theorem State.markLost_eff (stream : Nat) : (s.markLost stream).eff = s.eff := rfl
@[simp] theorem State.markLost_fuse (stream : Nat) : (s.markLost stream).fuse = s.fuse := rfl
@[simp] theorem State.markLost_ld (stream : Nat) : (s.markLost stream).ld = s.ld := rfl
@[simp] theorem State.markLost_clk (stream : Nat) : (s.markLost stream).clk = s.clk := rfl
@[simp] theorem State.markLost_mods (stream : Nat) : (s.markLost stream).mods = s.mods := rfl
@[simp] theorem State.markLost_pond (stream : Nat) : (s.markLost stream).pond = s.pond := rfl
@[simp] theorem State.markLost_flume (stream : Nat) : (s.markLost stream).flume = s.flume := rfl
@[simp] theorem State.markLost_nextFid (stream : Nat) : (s.markLost stream).nextFid = s.nextFid := rfl
@[simp] theorem State.markLost_lay (stream : Nat) : (s.markLost stream).lay = s.lay := rfl
@[simp] theorem State.markLost_weir (stream : Nat) : (s.markLost stream).weir = s.weir := rfl
@[simp] theorem State.markLost_races (stream : Nat) : (s.markLost stream).races = s.races := rfl
@[simp] theorem State.markLost_fanE (stream : Nat) : (s.markLost stream).fanE = s.fanE := rfl
@[simp] theorem State.markLost_fanW (stream : Nat) : (s.markLost stream).fanW = s.fanW := rfl
@[simp] theorem State.markLost_qrnE (stream : Nat) : (s.markLost stream).qrnE = s.qrnE := rfl
@[simp] theorem State.markLost_qrnW (stream : Nat) : (s.markLost stream).qrnW = s.qrnW := rfl
@[simp] theorem State.markLost_dram (stream : Nat) : (s.markLost stream).dram = s.dram := rfl
@[simp] theorem State.markLost_drs (stream : Nat) : (s.markLost stream).drs = s.drs := rfl
@[simp] theorem State.markLost_hstE (stream : Nat) : (s.markLost stream).hstE = s.hstE := rfl
@[simp] theorem State.markLost_hstW (stream : Nat) : (s.markLost stream).hstW = s.hstW := rfl
@[simp] theorem State.markLost_gov (stream : Nat) : (s.markLost stream).gov = s.gov := rfl
@[simp] theorem State.markLost_brk (stream : Nat) : (s.markLost stream).brk = s.brk := rfl
@[simp] theorem State.markLost_tlyE (stream : Nat) : (s.markLost stream).tlyE = s.tlyE := rfl
@[simp] theorem State.markLost_tlyW (stream : Nat) : (s.markLost stream).tlyW = s.tlyW := rfl
@[simp] theorem State.markLost_mil (stream : Nat) : (s.markLost stream).mil = s.mil := rfl
@[simp] theorem State.markLost_mmk (stream : Nat) : (s.markLost stream).mmk = s.mmk := rfl
@[simp] theorem State.markLost_tst (stream : Nat) : (s.markLost stream).tst = s.tst := rfl
@[simp] theorem State.markLost_i3c (stream : Nat) : (s.markLost stream).i3c = s.i3c := rfl
@[simp] theorem State.markLost_boot (stream : Nat) : (s.markLost stream).boot = s.boot := rfl
@[simp] theorem State.markLost_out (stream : Nat) : (s.markLost stream).out = s.out := rfl
@[simp] theorem State.markLost_reply (stream : Nat) : (s.markLost stream).reply = s.reply := rfl
@[simp] theorem State.markLost_freeCtr (stream : Nat) : (s.markLost stream).freeCtr = s.freeCtr := rfl

@[simp] theorem State.pendSet_pending (src inst : Nat) : (s.pendSet src inst).pending = s.pending := rfl
@[simp] theorem State.pendSet_eff (src inst : Nat) : (s.pendSet src inst).eff = s.eff := rfl
@[simp] theorem State.pendSet_fuse (src inst : Nat) : (s.pendSet src inst).fuse = s.fuse := rfl
@[simp] theorem State.pendSet_ld (src inst : Nat) : (s.pendSet src inst).ld = s.ld := rfl
@[simp] theorem State.pendSet_clk (src inst : Nat) : (s.pendSet src inst).clk = s.clk := rfl
@[simp] theorem State.pendSet_mods (src inst : Nat) : (s.pendSet src inst).mods = s.mods := rfl
@[simp] theorem State.pendSet_hop (src inst : Nat) : (s.pendSet src inst).hop = s.hop := rfl
@[simp] theorem State.pendSet_pond (src inst : Nat) : (s.pendSet src inst).pond = s.pond := rfl
@[simp] theorem State.pendSet_flume (src inst : Nat) : (s.pendSet src inst).flume = s.flume := rfl
@[simp] theorem State.pendSet_nextFid (src inst : Nat) : (s.pendSet src inst).nextFid = s.nextFid := rfl
@[simp] theorem State.pendSet_lay (src inst : Nat) : (s.pendSet src inst).lay = s.lay := rfl
@[simp] theorem State.pendSet_weir (src inst : Nat) : (s.pendSet src inst).weir = s.weir := rfl
@[simp] theorem State.pendSet_races (src inst : Nat) : (s.pendSet src inst).races = s.races := rfl
@[simp] theorem State.pendSet_fanE (src inst : Nat) : (s.pendSet src inst).fanE = s.fanE := rfl
@[simp] theorem State.pendSet_fanW (src inst : Nat) : (s.pendSet src inst).fanW = s.fanW := rfl
@[simp] theorem State.pendSet_qrnE (src inst : Nat) : (s.pendSet src inst).qrnE = s.qrnE := rfl
@[simp] theorem State.pendSet_qrnW (src inst : Nat) : (s.pendSet src inst).qrnW = s.qrnW := rfl
@[simp] theorem State.pendSet_dram (src inst : Nat) : (s.pendSet src inst).dram = s.dram := rfl
@[simp] theorem State.pendSet_drs (src inst : Nat) : (s.pendSet src inst).drs = s.drs := rfl
@[simp] theorem State.pendSet_hstE (src inst : Nat) : (s.pendSet src inst).hstE = s.hstE := rfl
@[simp] theorem State.pendSet_hstW (src inst : Nat) : (s.pendSet src inst).hstW = s.hstW := rfl
@[simp] theorem State.pendSet_gov (src inst : Nat) : (s.pendSet src inst).gov = s.gov := rfl
@[simp] theorem State.pendSet_tlyE (src inst : Nat) : (s.pendSet src inst).tlyE = s.tlyE := rfl
@[simp] theorem State.pendSet_tlyW (src inst : Nat) : (s.pendSet src inst).tlyW = s.tlyW := rfl
@[simp] theorem State.pendSet_mil (src inst : Nat) : (s.pendSet src inst).mil = s.mil := rfl
@[simp] theorem State.pendSet_mmk (src inst : Nat) : (s.pendSet src inst).mmk = s.mmk := rfl
@[simp] theorem State.pendSet_tst (src inst : Nat) : (s.pendSet src inst).tst = s.tst := rfl
@[simp] theorem State.pendSet_i3c (src inst : Nat) : (s.pendSet src inst).i3c = s.i3c := rfl
@[simp] theorem State.pendSet_boot (src inst : Nat) : (s.pendSet src inst).boot = s.boot := rfl
@[simp] theorem State.pendSet_out (src inst : Nat) : (s.pendSet src inst).out = s.out := rfl
@[simp] theorem State.pendSet_reply (src inst : Nat) : (s.pendSet src inst).reply = s.reply := rfl
@[simp] theorem State.pendSet_freeCtr (src inst : Nat) : (s.pendSet src inst).freeCtr = s.freeCtr := rfl

/-! ### Reading back what was written -/

theorem State.race_setRace (r : Nat) (x : Race) : (s.setRace r x).race r = x := Tbl.get_ins_same _ _ _ _
theorem State.race_setRace_other (r i : Nat) (x : Race) (hi : i ≠ r) : (s.setRace r x).race i = s.race i :=
  Tbl.get_ins_other _ _ _ _ _ hi
theorem State.mod_setMod (m : Nat) (x : ModSt) : (s.setMod m x).mod m = x := Tbl.get_ins_same _ _ _ _
theorem State.mod_setMod_other (m i : Nat) (x : ModSt) (hi : i ≠ m) : (s.setMod m x).mod i = s.mod i :=
  Tbl.get_ins_other _ _ _ _ _ hi
theorem State.hst_setHst (h : Nat) (x : Hst) : (s.setHst h x).hst h = x := by unfold State.hst State.setHst; split <;> simp_all
theorem State.qrn_setQrn (h : Nat) (x : Qrn) : (s.setQrn h x).qrn h = x := by unfold State.qrn State.setQrn; split <;> simp_all
theorem State.tly_setTly (h : Nat) (x : Tly) : (s.setTly h x).tly h = x := by unfold State.tly State.setTly; split <;> simp_all
theorem State.fan_setFan (h : Nat) (x : Fan) : (s.setFan h x).fan h = x := by unfold State.fan State.setFan; split <;> simp_all
theorem State.core_setCore (h : Nat) (x : Core) : (s.setCore h x).core h = x := by unfold State.core State.setCore; split <;> simp_all

/-- A register reads what was written to it. -/
theorem State.raw_setRaw (r : Reg) (key : Nat) (w : Word) (h : s.regs.wf = true) : (s.setRaw r key w).raw r key = w := by
  unfold State.raw State.setRaw regsPut
  split
  · simp_all [Tbl.find_del]
  · simp [Tbl.find_ins_same]
/-- A write of one register leaves every other alone. -/
theorem State.raw_setRaw_other (r q : Reg) (key k : Nat) (w : Word) (h : s.regs.wf = true) (hk : k ≠ key) :
    (s.setRaw r key w).raw q k = s.raw q k := by
  unfold State.raw State.setRaw regsPut
  split
  · simp_all [Tbl.find_del]
  · simp [Tbl.find_ins_other _ _ _ _ hk]
theorem State.fset_eq_setRaw (f : Field) (v i h : Nat) :
    s.fset f v i h = s.setRaw f.reg (f.reg.key i h) (f.put (s.raw f.reg (f.reg.key i h)) v) := rfl

end Sys2Proof.Machine
end

