-- ==== Sys2Proof/Laws/Fields.lean ====
section
/-!
SUPPORT. Reading a register field back: the field that was written, another field of the same register, a field of another register.
-/
namespace Sys2Proof.Machine

theorem bits_le (x lo w : Nat) : bits x lo w * 2 ^ lo ≤ x := by
  unfold bits
  rw [Nat.shiftRight_eq_div_pow]
  calc x / 2 ^ lo % 2 ^ w * 2 ^ lo ≤ x / 2 ^ lo * 2 ^ lo := Nat.mul_le_mul_right _ (Nat.mod_le _ _)
    _ ≤ x := Nat.div_mul_le_self _ _

/-- Bit i after a replacement: of the new value inside the field, of the old number outside. -/
theorem testBit_setBits (x lo w v i : Nat) :
    (setBits x lo w v).testBit i = if lo ≤ i ∧ i < lo + w then v.testBit (i - lo) else x.testBit i := by
  have hx : x = 2 ^ lo * (2 ^ w * (x / 2 ^ lo / 2 ^ w) + x / 2 ^ lo % 2 ^ w) + x % 2 ^ lo := by
    rw [Nat.div_add_mod, Nat.div_add_mod]
  have hs : setBits x lo w v = 2 ^ lo * (2 ^ w * (x / 2 ^ lo / 2 ^ w) + v % 2 ^ w) + x % 2 ^ lo := by
    have hb : bits x lo w = x / 2 ^ lo % 2 ^ w := by unfold bits; rw [Nat.shiftRight_eq_div_pow]
    unfold setBits
    rw [hb]
    have h1 : x = 2 ^ lo * (2 ^ w * (x / 2 ^ lo / 2 ^ w)) + 2 ^ lo * (x / 2 ^ lo % 2 ^ w) + x % 2 ^ lo := by
      rw [← Nat.mul_add]; exact hx
    have h2 : x / 2 ^ lo % 2 ^ w * 2 ^ lo = 2 ^ lo * (x / 2 ^ lo % 2 ^ w) := Nat.mul_comm _ _
    have h3 : v % 2 ^ w * 2 ^ lo = 2 ^ lo * (v % 2 ^ w) := Nat.mul_comm _ _
    rw [h2, h3, Nat.mul_add]
    omega
  have hl : x % 2 ^ lo < 2 ^ lo := Nat.mod_lt _ (Nat.two_pow_pos _)
  have hv : v % 2 ^ w < 2 ^ w := Nat.mod_lt _ (Nat.two_pow_pos _)
  have hm : x / 2 ^ lo % 2 ^ w < 2 ^ w := Nat.mod_lt _ (Nat.two_pow_pos _)
  rw [hs, Nat.testBit_two_pow_mul_add _ hl, Nat.testBit_two_pow_mul_add _ hv]
  conv => rhs; rw [hx, Nat.testBit_two_pow_mul_add _ hl, Nat.testBit_two_pow_mul_add _ hm]
  by_cases h1 : i < lo
  · simp [h1]
  · by_cases h2 : i - lo < w
    · have : lo ≤ i ∧ i < lo + w := by omega
      simp [h1, h2, this, Nat.testBit_mod_two_pow]
    · have : ¬ (lo ≤ i ∧ i < lo + w) := by omega
      simp [h1, h2, this]

theorem testBit_bits (x lo w i : Nat) : (bits x lo w).testBit i = (decide (i < w) && x.testBit (lo + i)) := by
  unfold bits
  rw [Nat.testBit_mod_two_pow, Nat.testBit_shiftRight]

theorem testBit_put (f : Field) (x : Word) (v i : Nat) :
    (f.put x v).toNat.testBit i = (decide (i < 64) && if f.lo ≤ i ∧ i < f.lo + f.w then v.testBit (i - f.lo) else x.toNat.testBit i) := by
  unfold Field.put
  rw [BitVec.toNat_ofNat, Nat.testBit_mod_two_pow, testBit_setBits]

theorem Field.of_put (f : Field) (x : Word) (v : Nat) (h : f.lo + f.w ≤ 64) : f.of (f.put x v) = v % 2 ^ f.w := by
  apply Nat.eq_of_testBit_eq
  intro i
  unfold Field.of
  rw [testBit_bits, testBit_put, Nat.testBit_mod_two_pow]
  by_cases hi : i < f.w
  · have h1 : f.lo + i < 64 := by omega
    simp [hi, h1]
  · simp [hi]

/-- Another field of the same word keeps its value. -/
theorem Field.of_put_other (f g : Field) (x : Word) (v : Nat) (h : g.lo + g.w ≤ 64) (hd : g.lo + g.w ≤ f.lo ∨ f.lo + f.w ≤ g.lo) :
    g.of (f.put x v) = g.of x := by
  apply Nat.eq_of_testBit_eq
  intro i
  unfold Field.of
  rw [testBit_bits, testBit_bits, testBit_put]
  by_cases hi : i < g.w
  · have h1 : g.lo + i < 64 := by omega
    have h2 : ¬ (f.lo ≤ g.lo + i ∧ g.lo + i < f.lo + f.w) := by omega
    simp [hi, h1, h2]
  · simp [hi]

/-- The field written reads back. -/
theorem State.fheld_fset (s : State) (f : Field) (v i h : Nat) (hw : s.regs.wf = true) (h64 : f.lo + f.w ≤ 64) :
    (s.fset f v i h).fheld f i h = v % 2 ^ f.w := by
  rw [State.fset_eq_setRaw]
  unfold State.fheld
  rw [State.raw_setRaw _ _ _ _ hw, Field.of_put _ _ _ h64]
/-- A field of another register keeps its value. -/
theorem State.fheld_fset_reg (s : State) (f g : Field) (v i h j k : Nat) (hw : s.regs.wf = true) (hk : g.reg.key j k ≠ f.reg.key i h) :
    (s.fset f v i h).fheld g j k = s.fheld g j k := by
  rw [State.fset_eq_setRaw]
  unfold State.fheld
  rw [State.raw_setRaw_other _ _ _ _ _ _ hw hk]
/-- Another field of the same register keeps its value. -/
theorem State.fheld_fset_field (s : State) (f g : Field) (v i h : Nat) (hw : s.regs.wf = true) (hr : g.reg = f.reg) (h64 : g.lo + g.w ≤ 64)
    (hd : g.lo + g.w ≤ f.lo ∨ f.lo + f.w ≤ g.lo) : (s.fset f v i h).fheld g i h = s.fheld g i h := by
  rw [State.fset_eq_setRaw]
  unfold State.fheld
  rw [hr, State.raw_setRaw _ _ _ _ hw, Field.of_put_other _ _ _ _ h64 hd]
/-- A register other than the one whose field is written keeps its word. -/
theorem State.raw_fset_other (s : State) (f : Field) (v i h : Nat) (r : Reg) (k : Nat) (hw : s.regs.wf = true) (hk : k ≠ f.reg.key i h) :
    (s.fset f v i h).raw r k = s.raw r k := by
  rw [State.fset_eq_setRaw, State.raw_setRaw_other _ _ _ _ _ _ hw hk]
theorem State.setRaw_wf (s : State) (r : Reg) (k : Nat) (w : Word) (hw : s.regs.wf = true) : (s.setRaw r k w).regs.wf = true := by
  unfold State.setRaw regsPut
  dsimp only
  split
  · exact Tbl.wf_del _ _ hw
  · exact Tbl.wf_ins _ _ _ hw
theorem State.fset_wf (s : State) (f : Field) (v i h : Nat) (hw : s.regs.wf = true) : (s.fset f v i h).regs.wf = true := by
  rw [State.fset_eq_setRaw]
  exact State.setRaw_wf _ _ _ _ hw

/-- What a write of one field does, said of the register table alone: obtain the table and rewrite with the equation, so that no later
goal computes with a concrete field (the kernel is slow at that). `u` is any state that holds the table. -/
theorem State.fset_table (s : State) (f : Field) (v i h : Nat) (hw : s.regs.wf = true) (h64 : f.lo + f.w ≤ 64) :
    ∃ g, s.fset f v i h = { s with regs := g } ∧ g.wf = true
      ∧ (∀ u : State, u.regs = g → u.ld = s.ld → u.fheld f i h = v % 2 ^ f.w)
      ∧ (∀ u : State, u.regs = g → u.ld = s.ld → ∀ r k, k ≠ f.reg.key i h → u.raw r k = s.raw r k)
      ∧ (∀ u : State, u.regs = g → u.ld = s.ld → ∀ q : Field, q.reg = f.reg → q.lo + q.w ≤ 64 → (q.lo + q.w ≤ f.lo ∨ f.lo + f.w ≤ q.lo) →
          u.fheld q i h = s.fheld q i h) := by
  have hr : ∀ u : State, u.regs = (s.fset f v i h).regs → u.ld = s.ld → ∀ r k, u.raw r k = (s.fset f v i h).raw r k := by
    intro u h1 h2 r k
    unfold State.raw
    rw [h1, h2, State.fset_ld]
  refine ⟨(s.fset f v i h).regs, rfl, State.fset_wf _ _ _ _ _ hw, fun u h1 h2 => ?_, fun u h1 h2 r k hk => ?_, fun u h1 h2 q hq hb hd => ?_⟩
  · unfold State.fheld; rw [hr u h1 h2]; exact State.fheld_fset _ _ _ _ _ hw h64
  · rw [hr u h1 h2]; exact State.raw_fset_other _ _ _ _ _ _ _ hw hk
  · unfold State.fheld; rw [hr u h1 h2]; exact State.fheld_fset_field _ _ _ _ _ _ hw hq hb hd
/-- The same of a saturating counter. -/
theorem State.fadd_table (s : State) (f : Field) (n i h : Nat) (hw : s.regs.wf = true) (h64 : f.lo + f.w ≤ 64) :
    ∃ g, s.fadd f n i h = { s with regs := g } ∧ g.wf = true
      ∧ (∀ u : State, u.regs = g → u.ld = s.ld → u.fheld f i h = satAdd f.w (s.fheld f i h) n)
      ∧ (∀ u : State, u.regs = g → u.ld = s.ld → ∀ r k, k ≠ f.reg.key i h → u.raw r k = s.raw r k)
      ∧ (∀ u : State, u.regs = g → u.ld = s.ld → ∀ q : Field, q.reg = f.reg → q.lo + q.w ≤ 64 → (q.lo + q.w ≤ f.lo ∨ f.lo + f.w ≤ q.lo) →
          u.fheld q i h = s.fheld q i h) := by
  obtain ⟨g, h1, h2, h3, h4, h5⟩ := s.fset_table f (satAdd f.w (s.fheld f i h) n) i h hw h64
  refine ⟨g, h1, h2, fun u a b => (h3 u a b).trans (Nat.mod_eq_of_lt ?_), h4, h5⟩
  unfold satAdd
  have : 0 < 2 ^ f.w := Nat.two_pow_pos _
  omega
/-- The same of a whole register. -/
theorem State.setRaw_table (s : State) (q : Reg) (key : Nat) (w : Word) (hw : s.regs.wf = true) :
    ∃ g, s.setRaw q key w = { s with regs := g } ∧ g.wf = true
      ∧ (∀ u : State, u.regs = g → u.ld = s.ld → u.raw q key = w)
      ∧ (∀ u : State, u.regs = g → u.ld = s.ld → ∀ r k, k ≠ key → u.raw r k = s.raw r k) := by
  have hr : ∀ u : State, u.regs = (s.setRaw q key w).regs → u.ld = s.ld → ∀ r k, u.raw r k = (s.setRaw q key w).raw r k := by
    intro u h1 h2 r k
    unfold State.raw
    rw [h1, h2, State.setRaw_ld]
  refine ⟨(s.setRaw q key w).regs, rfl, State.setRaw_wf _ _ _ _ hw, fun u h1 h2 => ?_, fun u h1 h2 r k hk => ?_⟩
  · rw [hr u h1 h2]; exact State.raw_setRaw _ _ _ _ hw
  · rw [hr u h1 h2]; exact State.raw_setRaw_other _ _ _ _ _ _ hw hk

end Sys2Proof.Machine
end

