-- ==== Sys2Proof/Laws/Tame.lean ====
section
/-!
SUPPORT. What every operation of the block does to the parts that no command may spoil: the queue of waiting commands is left
alone, the sparse tables keep their canonical form, the clock stays in its bounds and never runs backwards, and the counter of
free values never falls. `Tame dr fu ck a s` says it of a state s reached from a, and with `dr` that the DRAM content is a's, with
`fu` that the fuses are, with `ck` that the clock is; one lemma per operation (Laws/Tame*.lean) proves it.
-/
namespace Sys2Proof.Machine

/-- s, reached from a, has a's queue, canonical tables and clock bounds if a had them, and no earlier time; a's DRAM content
(`dr`), a's fuses (`fu`) and a's clock (`ck`). -/
structure Tame (dr fu ck : Bool) (a s : State) : Prop where
  pend : s.pending = a.pending
  regs : a.regs.wf = true → s.regs.wf = true
  eff : a.eff.wf = true → s.eff.wf = true
  cells : a.dram.cells.wf = true → s.dram.cells.wf = true
  zeroed : a.dram.zeroed.wf = true → s.dram.zeroed.wf = true
  wmap : a.dram.wmap.wf = true → s.dram.wmap.wf = true
  mc : a.clk.mc ≤ 255 → s.clk.mc ≤ 255
  turn : a.clk.turn < 2 ^ 48 → s.clk.turn < 2 ^ 48
  age : a.clk.age ≤ s.clk.age
  free : a.freeCtr ≤ s.freeCtr
  dram : dr = true → s.dram = a.dram
  fuse : fu = true → s.fuse = a.fuse
  clk : ck = true → s.clk = a.clk

theorem Tame.refl {dr fu ck : Bool} (s : State) : Tame dr fu ck s s :=
  ⟨rfl, id, id, id, id, id, id, id, Nat.le_refl _, Nat.le_refl _, fun _ => rfl, fun _ => rfl, fun _ => rfl⟩

/-- An update that leaves the kept parts alone. -/
theorem Tame.upd {dr fu ck : Bool} {a b : State} {ld : Fuses} {mods : Tbl ModSt} {hop : Hop} {pond : List PondEnt} {flume : List FlumeEnt} {nextFid : Nat} {lay : Lay} {weir : Weir} {races : Tbl Race} {fanE : Fan} {fanW : Fan} {qrnE : Qrn} {qrnW : Qrn} {drs : Drs} {hstE : Hst} {hstW : Hst} {gov : Gov} {brk : Brk} {tlyE : Tly} {tlyW : Tly} {mil : Mil} {mmk : Mmk} {tst : Tst} {i3c : I3c} {boot : Boot} {out : Out} {reply : Reply} (h : Tame dr fu ck a b) :
    Tame dr fu ck a (State.mk b.pending b.regs b.eff b.fuse ld b.clk mods hop pond flume nextFid lay weir races fanE fanW qrnE qrnW b.dram drs hstE hstW gov brk tlyE tlyW mil mmk tst i3c boot out reply b.freeCtr) :=
  ⟨h.pend, h.regs, h.eff, h.cells, h.zeroed, h.wmap, h.mc, h.turn, h.age, h.free, h.dram, h.fuse, h.clk⟩

/-- Show it first of a state on the way. -/
theorem tame_cut {dr fu ck : Bool} {a x : State} {p : Prop} (h : Tame dr fu ck a x) (g : Tame dr fu ck a x → p) : p := g h

/-- An update of the register tables. -/
theorem Tame.updRegs {dr fu ck : Bool} {a b : State} {regs : Tbl Word} {eff : Tbl Word} {ld : Fuses} {mods : Tbl ModSt} {hop : Hop} {pond : List PondEnt} {flume : List FlumeEnt} {nextFid : Nat} {lay : Lay} {weir : Weir} {races : Tbl Race} {fanE : Fan} {fanW : Fan} {qrnE : Qrn} {qrnW : Qrn} {drs : Drs} {hstE : Hst} {hstW : Hst} {gov : Gov} {brk : Brk} {tlyE : Tly} {tlyW : Tly} {mil : Mil} {mmk : Mmk} {tst : Tst} {i3c : I3c} {boot : Boot} {out : Out} {reply : Reply} (h : Tame dr fu ck a b)
    (hr : b.regs.wf = true → regs.wf = true) (he : b.eff.wf = true → eff.wf = true) : Tame dr fu ck a (State.mk b.pending regs eff b.fuse ld b.clk mods hop pond flume nextFid lay weir races fanE fanW qrnE qrnW b.dram drs hstE hstW gov brk tlyE tlyW mil mmk tst i3c boot out reply b.freeCtr) :=
  ⟨h.pend, fun x => hr (h.regs x), fun x => he (h.eff x), h.cells, h.zeroed, h.wmap, h.mc, h.turn, h.age, h.free, h.dram, h.fuse, h.clk⟩

/-- An update of the DRAM content. -/
theorem Tame.updDram {fu ck : Bool} {a b : State} {ld : Fuses} {mods : Tbl ModSt} {hop : Hop} {pond : List PondEnt} {flume : List FlumeEnt} {nextFid : Nat} {lay : Lay} {weir : Weir} {races : Tbl Race} {fanE : Fan} {fanW : Fan} {qrnE : Qrn} {qrnW : Qrn} {dram : Dram} {drs : Drs} {hstE : Hst} {hstW : Hst} {gov : Gov} {brk : Brk} {tlyE : Tly} {tlyW : Tly} {mil : Mil} {mmk : Mmk} {tst : Tst} {i3c : I3c} {boot : Boot} {out : Out} {reply : Reply} (h : Tame false fu ck a b)
    (h4 : b.dram.cells.wf = true → dram.cells.wf = true) (h5 : b.dram.zeroed.wf = true → dram.zeroed.wf = true)
    (h6 : b.dram.wmap.wf = true → dram.wmap.wf = true) : Tame false fu ck a (State.mk b.pending b.regs b.eff b.fuse ld b.clk mods hop pond flume nextFid lay weir races fanE fanW qrnE qrnW dram drs hstE hstW gov brk tlyE tlyW mil mmk tst i3c boot out reply b.freeCtr) :=
  ⟨h.pend, h.regs, h.eff, fun x => h4 (h.cells x), fun x => h5 (h.zeroed x), fun x => h6 (h.wmap x), h.mc, h.turn, h.age, h.free,
   (fun e => nomatch e), h.fuse, h.clk⟩

/-- An update of the fuses, which may use free values. -/
theorem Tame.updFuse {dr ck : Bool} {a b : State} {fuse : Fuses} {ld : Fuses} {mods : Tbl ModSt} {hop : Hop} {pond : List PondEnt} {flume : List FlumeEnt} {nextFid : Nat} {lay : Lay} {weir : Weir} {races : Tbl Race} {fanE : Fan} {fanW : Fan} {qrnE : Qrn} {qrnW : Qrn} {drs : Drs} {hstE : Hst} {hstW : Hst} {gov : Gov} {brk : Brk} {tlyE : Tly} {tlyW : Tly} {mil : Mil} {mmk : Mmk} {tst : Tst} {i3c : I3c} {boot : Boot} {out : Out} {reply : Reply} {freeCtr : Nat} (h : Tame dr false ck a b) (hf : b.freeCtr ≤ freeCtr) : Tame dr false ck a (State.mk b.pending b.regs b.eff fuse ld b.clk mods hop pond flume nextFid lay weir races fanE fanW qrnE qrnW b.dram drs hstE hstW gov brk tlyE tlyW mil mmk tst i3c boot out reply freeCtr) :=
  ⟨h.pend, h.regs, h.eff, h.cells, h.zeroed, h.wmap, h.mc, h.turn, h.age, Nat.le_trans h.free hf, h.dram, (fun e => nomatch e), h.clk⟩

/-- An update of the clock. -/
theorem Tame.updClk {dr fu : Bool} {a b : State} {ld : Fuses} {clk : Clk} {mods : Tbl ModSt} {hop : Hop} {pond : List PondEnt} {flume : List FlumeEnt} {nextFid : Nat} {lay : Lay} {weir : Weir} {races : Tbl Race} {fanE : Fan} {fanW : Fan} {qrnE : Qrn} {qrnW : Qrn} {drs : Drs} {hstE : Hst} {hstW : Hst} {gov : Gov} {brk : Brk} {tlyE : Tly} {tlyW : Tly} {mil : Mil} {mmk : Mmk} {tst : Tst} {i3c : I3c} {boot : Boot} {out : Out} {reply : Reply} (h : Tame dr fu false a b)
    (h7 : b.clk.mc ≤ 255 → clk.mc ≤ 255) (h8 : b.clk.turn < 2 ^ 48 → clk.turn < 2 ^ 48) (h9 : b.clk.age ≤ clk.age) :
    Tame dr fu false a (State.mk b.pending b.regs b.eff b.fuse ld clk mods hop pond flume nextFid lay weir races fanE fanW qrnE qrnW b.dram drs hstE hstW gov brk tlyE tlyW mil mmk tst i3c boot out reply b.freeCtr) :=
  ⟨h.pend, h.regs, h.eff, h.cells, h.zeroed, h.wmap, fun x => h7 (h.mc x), fun x => h8 (h.turn x), Nat.le_trans h.age h9, h.free,
   h.dram, h.fuse, fun e => nomatch e⟩

/-- An update that moves the clock of a state on the way to an mc of the Turn. -/
theorem Tame.updClkAt {dr fu : Bool} {a b c : State} {mc : Nat} {ld : Fuses} {mods : Tbl ModSt} {hop : Hop} {pond : List PondEnt} {flume : List FlumeEnt} {nextFid : Nat} {lay : Lay} {weir : Weir} {races : Tbl Race} {fanE : Fan} {fanW : Fan} {qrnE : Qrn} {qrnW : Qrn} {drs : Drs} {hstE : Hst} {hstW : Hst} {gov : Gov} {brk : Brk} {tlyE : Tly} {tlyW : Tly} {mil : Mil} {mmk : Mmk} {tst : Tst} {i3c : I3c} {boot : Boot} {out : Out} {reply : Reply} (h : Tame dr fu false a b)
    (g : Tame dr fu false a c) : Tame dr fu false a (State.mk b.pending b.regs b.eff b.fuse ld (c.clkAt mc) mods hop pond flume nextFid lay weir races fanE fanW qrnE qrnW b.dram drs hstE hstW gov brk tlyE tlyW mil mmk tst i3c boot out reply b.freeCtr) :=
  ⟨h.pend, h.regs, h.eff, h.cells, h.zeroed, h.wmap,
   fun x => by have := g.mc x; simp only [State.clkAt]; omega, g.turn, g.age, h.free, h.dram, h.fuse, fun e => nomatch e⟩

/-- An update that uses free values. -/
theorem Tame.updFree {dr fu ck : Bool} {a b : State} {ld : Fuses} {mods : Tbl ModSt} {hop : Hop} {pond : List PondEnt} {flume : List FlumeEnt} {nextFid : Nat} {lay : Lay} {weir : Weir} {races : Tbl Race} {fanE : Fan} {fanW : Fan} {qrnE : Qrn} {qrnW : Qrn} {drs : Drs} {hstE : Hst} {hstW : Hst} {gov : Gov} {brk : Brk} {tlyE : Tly} {tlyW : Tly} {mil : Mil} {mmk : Mmk} {tst : Tst} {i3c : I3c} {boot : Boot} {out : Out} {reply : Reply} {freeCtr : Nat} (h : Tame dr fu ck a b) (hf : b.freeCtr ≤ freeCtr) : Tame dr fu ck a (State.mk b.pending b.regs b.eff b.fuse ld b.clk mods hop pond flume nextFid lay weir races fanE fanW qrnE qrnW b.dram drs hstE hstW gov brk tlyE tlyW mil mmk tst i3c boot out reply freeCtr) :=
  ⟨h.pend, h.regs, h.eff, h.cells, h.zeroed, h.wmap, h.mc, h.turn, h.age, Nat.le_trans h.free hf, h.dram, h.fuse, h.clk⟩

theorem tame_ite {dr fu ck : Bool} {a x y : State} {c : Prop} [Decidable c] (hx : Tame dr fu ck a x) (hy : Tame dr fu ck a y) :
    Tame dr fu ck a (if c then x else y) := by
  split <;> assumption
theorem tame_ite_fst {dr fu ck : Bool} {β : Type} {a : State} {x y : State × β} {c : Prop} [Decidable c] (hx : Tame dr fu ck a x.1)
    (hy : Tame dr fu ck a y.1) : Tame dr fu ck a (if c then x else y).1 := by
  split <;> assumption
theorem when_tame {dr fu ck : Bool} {a s : State} {c : Bool} {f : State → State} (hf : Tame dr fu ck a (f s)) (h : Tame dr fu ck a s) :
    Tame dr fu ck a (when c f s) := by
  unfold when
  split <;> assumption
theorem foldl_tame {dr fu ck : Bool} {α : Type} {a s : State} {l : List α} {f : State → α → State} (h : Tame dr fu ck a s)
    (hf : ∀ (b : State) (x : α), Tame dr fu ck a b → Tame dr fu ck a (f b x)) : Tame dr fu ck a (l.foldl f s) := by
  induction l generalizing s with
  | nil => exact h
  | cons x r ih => exact ih (hf s x h)
theorem foldl_tame_fst {dr fu ck : Bool} {α β : Type} {a : State} {p : State × β} {l : List α} {f : State × β → α → State × β}
    (h : Tame dr fu ck a p.1) (hf : ∀ (q : State × β) (x : α), Tame dr fu ck a q.1 → Tame dr fu ck a (f q x).1) :
    Tame dr fu ck a (l.foldl f p).1 := by
  induction l generalizing p with
  | nil => exact h
  | cons x r ih => exact ih (hf p x h)
theorem each_tame {dr fu ck : Bool} {α : Type} {a s : State} {l : List α} {f : α → State → State} (h : Tame dr fu ck a s)
    (hf : ∀ (x : α) (b : State), Tame dr fu ck a b → Tame dr fu ck a (f x b)) : Tame dr fu ck a (each l f s) :=
  foldl_tame h (fun b x hb => hf x b hb)
theorem foldl_tbl_wf {α β : Type} {l : List α} {f : Tbl β → α → Tbl β} {t : Tbl β} (h : t.wf = true)
    (hf : ∀ (u : Tbl β) (x : α), u.wf = true → (f u x).wf = true) : (l.foldl f t).wf = true := by
  induction l generalizing t with
  | nil => exact h
  | cons x r ih => exact ih (hf t x h)

/-- A register table stays canonical. -/
theorem regsPut_wf (f : Fuses) (t : Tbl Word) (r : Reg) (key : Nat) (w : Word) (h : t.wf = true) : (regsPut f t r key w).wf = true := by
  unfold regsPut
  split
  · exact Tbl.wf_del t key h
  · exact Tbl.wf_ins t key w h

end Sys2Proof.Machine
end

