-- ==== Sys2Proof/Laws/Raise.lean ====
section
/-!
SUPPORT. What raising Brake sources may change (R382 to R390), said once for each operation on the way: `Raised`.
-/
namespace Sys2Proof.Machine

theorem Tbl.find_mapv {α β : Type} (t : Tbl α) (f : Nat → α → β) (k : Nat) : (t.mapv f).find? k = (t.find? k).map (f k) := by
  obtain ⟨l⟩ := t
  simp only [Tbl.find?, Tbl.mapv]
  induction l with
  | nil => rfl
  | cons x r ih =>
    obtain ⟨j, v⟩ := x
    simp only [List.map_cons, Tbl.findIn]
    split
    · next h => subst h; rfl
    · split
      · rfl
      · exact ih

theorem Raised.refl (s : State) : Raised s s :=
  ⟨rfl, fun _ => rfl, rfl, rfl, rfl, rfl, fun _ => rfl, fun h => ⟨h, fun _ _ _ _ _ _ => rfl⟩⟩

theorem Raised.trans {a b c : State} (h : Raised a b) (g : Raised b c) : Raised a c := by
  refine ⟨?_, fun m => ?_, ?_, ?_, ?_, ?_, fun r => ?_, fun w => ⟨(g.regs (h.regs w).1).1, fun r k hk hs hg hr => ?_⟩⟩
  · have h1 := h.rest; have h2 := g.rest
    cases a; cases b; cases c
    simp only [State.mk.injEq] at h1 h2 ⊢
    simp [h1, h2]
  · rw [← h.mods m, ← g.mods m]
  · rw [← h.hop, ← g.hop]
  · rw [← h.boot, ← g.boot]
  · rw [← h.mil, ← g.mil]
  · rw [← h.gov, ← g.gov]
  · rw [← h.races r, ← g.races r]
  · rw [(g.regs (h.regs w).1).2 r k hk hs hg hr, (h.regs w).2 r k hk hs hg hr]

/-- A change of the registers of the Brake, of FAN_CTRL, of SPIN_STAT or of GOV_WAKE. -/
theorem Raised.ofReg (s : State) (r : Reg) (k : Nat) (w : Word)
    (h : (∃ h, k = Reg.key .FAN_CTRL 0 h) ∨ (∃ i, k = Reg.key .SPIN_STAT i 0) ∨ k = Reg.key .GOV_WAKE 0 0 ∨ (0xE00000 ≤ k ∧ k < 0xE01000)) :
    Raised s (s.setRaw r k w) := by
  refine ⟨rfl, fun _ => rfl, rfl, rfl, rfl, rfl, fun _ => rfl, fun wf => ⟨regsPut_wf _ _ _ _ _ wf, fun r' k' hk hs hg hr => ?_⟩⟩
  have : k' ≠ k := by
    rintro rfl
    rcases h with ⟨x, hx⟩ | ⟨x, hx⟩ | hx | h
    · exact hk x hx
    · exact hs x hx
    · exact hg hx
    · omega
  exact State.raw_setRaw_other (s := s) r r' k k' w wf this
theorem Raised.ofField (s : State) (f : Field) (v i h : Nat) (g : (∃ x, f.reg.key i h = Reg.key .FAN_CTRL 0 x) ∨
    (∃ x, f.reg.key i h = Reg.key .SPIN_STAT x 0) ∨ f.reg.key i h = Reg.key .GOV_WAKE 0 0 ∨ (0xE00000 ≤ f.reg.key i h ∧ f.reg.key i h < 0xE01000)) : Raised s (s.fset f v i h) := .ofReg s f.reg (f.reg.key i h) _ g

/-- A change of what the Brake itself holds, of what leaves the block, and of Governor's wake and drain. -/
theorem Raised.ofBrk (s : State) (b : Brk) (o : Out) (w : Option (Nat × Nat × Nat)) (l : Option Nat) (d : Bool) :
    Raised s { s with brk := b, out := o, gov := { s.gov with wake := w, wakeLatch := l, drainNext := d } } :=
  ⟨rfl, fun _ => rfl, rfl, rfl, rfl, rfl, fun _ => rfl, fun h => ⟨h, fun _ _ _ _ _ _ => rfl⟩⟩
theorem Raised.brk (s : State) (b : Brk) : Raised s { s with brk := b } :=
  ⟨rfl, fun _ => rfl, rfl, rfl, rfl, rfl, fun _ => rfl, fun h => ⟨h, fun _ _ _ _ _ _ => rfl⟩⟩
/-- A change of the requests held. -/
theorem Raised.ofReqs (s : State) (q : Tbl Req) : Raised s { s with hop := { s.hop with reqs := q } } :=
  ⟨rfl, fun _ => rfl, rfl, rfl, rfl, rfl, fun _ => rfl, fun h => ⟨h, fun _ _ _ _ _ _ => rfl⟩⟩

theorem State.mod_ins (s : State) (m n : Nat) (x : ModSt) :
    ({ s with mods := s.mods.ins m x } : State).mod n = if n = m then x else s.mod n := by
  unfold State.mod
  by_cases h : n = m
  · subst h; simp [Tbl.get_ins_same]
  · simp [h, Tbl.get_ins_other]

/-- Any answer but a poisoned one. -/
theorem State.answer_raised (s : State) (id code pmask mstat val : Nat) (cells : List Cell) (hc : code ≠ Rc.poison) :
    Raised s (s.answer id code pmask mstat val cells) := by
  unfold State.answer
  split
  · exact .refl s
  · split
    · exact .refl s
    · simp only [hc, if_false]
      refine ⟨rfl, fun m => ?_, rfl, rfl, rfl, rfl, fun _ => rfl, fun h => ⟨h, fun _ _ _ _ _ _ => rfl⟩⟩
      simp only [State.mod, Tbl.get]
      rename_i q _ _
      by_cases h : m = q.m
      · subst h; simp [Tbl.find_ins_same]
      · simp [Tbl.find_ins_other, h]
theorem State.updReq_raised (s : State) (id : Nat) (f : Req → Req) : Raised s (s.updReq id f) := by
  unfold State.updReq
  split
  · exact .ofReqs s _
  · exact .refl s
theorem State.reap_raised (s : State) (id : Nat) : Raised s (s.reap id) := by
  unfold State.reap
  split
  · split
    · exact .ofReqs s _
    · exact .refl s
  · exact .refl s
theorem State.endReq_raised (s : State) (id code : Nat) (ph : ReqPhase) (hc : code ≠ Rc.poison) : Raised s (s.endReq id code ph) :=
  ((s.answer_raised id code 0 0 0 [] hc).trans (State.updReq_raised _ _ _)).trans (State.reap_raised _ _)

theorem foldl_raised {α : Type} {a s : State} {l : List α} {f : State → α → State} (h : Raised a s)
    (hf : ∀ (b : State) (x : α), Raised b (f b x)) : Raised a (l.foldl f s) := by
  induction l generalizing s with
  | nil => exact h
  | cons x r ih => exact ih (h.trans (hf s x))
theorem each_raised {α : Type} {l : List α} {f : α → State → State} {s : State} (hf : ∀ (x : α) (b : State), Raised b (f x b)) :
    Raised s (each l f s) :=
  foldl_raised (.refl s) fun b x => hf x b

theorem State.faultAll_raised (s : State) : Raised s s.faultAll := by
  unfold State.faultAll
  refine each_raised fun id b => ?_
  dsimp only
  split
  · exact .refl b
  · split
    · exact ((b.answer_raised id Rc.faulted 0 0 0 [] (by decide)).trans (State.updReq_raised _ _ _)).trans (State.reap_raised _ _)
    · exact .refl b

theorem State.setRace_races_at (s : State) (r n : Nat) (x : Race) : (s.setRace r x).race n = if n = r then x else s.race n := by
  by_cases h : n = r
  · subst h; simp [State.race_setRace]
  · simp [h, State.race_setRace_other]

/-- The engine of a half. -/
theorem Raised.fan (s : State) (h : Nat) (f : Fan) : Raised s (s.setFan h f) :=
  ⟨rfl, fun _ => rfl, rfl, rfl, rfl, rfl, fun _ => rfl, fun h => ⟨h, fun _ _ _ _ _ _ => rfl⟩⟩
/-- The marks of a retraining. -/
theorem Raised.tr (s : State) (r : Nat) (x : Race) (t : Train) (hx : x = s.race r) : Raised s (s.setRace r { x with tr := t }) := by
  subst hx
  refine ⟨rfl, fun _ => rfl, rfl, rfl, rfl, rfl, fun n => ?_, fun h => ⟨h, fun _ _ _ _ _ _ => rfl⟩⟩
  rw [State.setRace_races_at]
  split
  · next h => subst h; rfl
  · rfl
theorem State.stopRetrain_raised (s : State) (r : Nat) : Raised s (s.stopRetrain r) := by
  unfold State.stopRetrain
  dsimp only
  split
  · have h1 := Raised.ofField s Fld.FAN_CTRL_RETRAIN (setBits (s.fheld Fld.FAN_CTRL_RETRAIN 0 (r / 16)) (r % 16) 1 0) 0 (r / 16)
      (.inl ⟨r / 16, rfl⟩)
    refine h1.trans ?_
    split
    · refine (Raised.fan _ _ _).trans ((Raised.ofField _ Fld.SPIN_STAT_STATE 6 r 0 (.inr (.inl ⟨r, rfl⟩))).trans (.tr _ r _ _ ?_))
      simp only [State.race, State.fset_races, State.setFan_races]
    · refine (Raised.fan _ _ _).trans (.tr _ r _ _ ?_)
      simp only [State.race, State.fset_races, State.setFan_races]
  · exact .refl s
theorem State.stopRetrains_raised (s : State) : Raised s s.stopRetrains := each_raised fun x b => b.stopRetrain_raised x

theorem State.causeOn_raised (s : State) (e : RaiseEv) : Raised s (s.causeOn e) := by
  unfold State.causeOn
  split
  · split
    · exact .brk s _
    · exact .refl s
  · exact .refl s
theorem State.causeOff_raised (s : State) (src inst : Nat) : Raised s (s.causeOff src inst) := by
  unfold State.causeOff
  split
  · exact .refl s
  · split <;> exact .brk s _
theorem State.noteUnder_raised (s : State) (l : List RaiseEv) : Raised s (s.noteUnder l) := by
  unfold State.noteUnder
  split
  · exact .brk s _
  · exact .refl s
theorem State.histAdd_raised (s : State) (e : RaiseEv) (sev : Nat) : Raised s (s.histAdd e sev) := by
  unfold State.histAdd
  split
  · exact .ofField s Fld.BRK_HIST_STAT_OVF _ 0 0 (.inr (.inr (.inr (by decide))))
  · have hi : s.brk.seq % 16 < 16 := Nat.mod_lt _ (by decide)
    have h1 : ∀ i < 16, 0xE00000 ≤ Reg.key .BRK_HIST_LO i 0 ∧ Reg.key .BRK_HIST_LO i 0 < 0xE01000 := by decide
    have h2 : ∀ i < 16, 0xE00000 ≤ Reg.key .BRK_HIST_HI i 0 ∧ Reg.key .BRK_HIST_HI i 0 < 0xE01000 := by decide
    exact (((Raised.ofReg s _ _ _ (.inr (.inr (.inr (h1 _ hi))))).trans (.ofReg _ _ _ _ (.inr (.inr (.inr (h2 _ hi)))))).trans
      (.ofField _ Fld.BRK_HIST_STAT_HEAD _ 0 0 (.inr (.inr (.inr (by decide)))))).trans (.brk _ _)
theorem wake_key : Fld.GOV_WAKE_LAST.reg.key 0 0 = Reg.key .GOV_WAKE 0 0 := by
  unfold Fld.GOV_WAKE_LAST
  exact Eq.refl (Reg.key .GOV_WAKE 0 0)
theorem Raised.gov_same (s : State) (f : Field) (v i h : Nat) : s.gov = (s.fset f v i h).gov := by simp
/-- Governor's wake under way, or the one kept for after an entry. -/
theorem Raised.woken (s : State) (c : Nat) (w : Option (Nat × Nat × Nat)) (l : Option Nat) :
    Raised s { s.fset Fld.GOV_WAKE_LAST c with gov := { s.gov with wake := w, wakeLatch := l } } := by
  have h := Raised.ofField s Fld.GOV_WAKE_LAST c 0 0 (.inr (.inr (.inl wake_key)))
  generalize hu : s.fset Fld.GOV_WAKE_LAST c = u at h ⊢
  have hg : s.gov = u.gov := hu ▸ Raised.gov_same s _ c 0 0
  rw [hg]
  exact h.trans (.ofBrk u u.brk u.out w l u.gov.drainNext)
theorem State.wakeEvent_raised (s : State) (c : Nat) : Raised s (s.wakeEvent c) := by
  unfold State.wakeEvent
  split
  · exact .refl s
  · split
    · split
      · exact .woken s c _ _
      · exact .refl s
    · split
      · exact .woken s c _ _
      · exact .refl s
theorem State.brakeActs_raised (s : State) (e : RaiseEv) (sev : Nat) (iso : Bool) : Raised s (s.brakeActs e sev iso) := by
  unfold State.brakeActs
  dsimp only
  split
  · exact .refl s
  · split
    · exact (Raised.ofBrk s _ _ s.gov.wake s.gov.wakeLatch s.gov.drainNext).trans (State.wakeEvent_raised _ _)
    · exact .ofBrk s _ _ s.gov.wake s.gov.wakeLatch s.gov.drainNext

/-- Only codes of the source table are seen. -/
theorem srcRow_lt (c : Nat) (r : SrcRow) (h : srcRow c = some r) : c < 64 := by
  unfold srcRow at h
  have hm := List.mem_of_find?_eq_some h
  have hp := List.find?_some h
  have : ∀ x ∈ srcTable, x.code < 64 := by decide
  have := this r hm
  simp at hp
  omega
theorem State.pendSet_raised (s : State) (src inst : Nat) (h : src < 64) : Raised s (s.pendSet src inst) := by
  refine (Raised.brk s _).trans (.ofReg _ _ _ _ (.inr (.inr (.inr ?_))))
  have : ∀ i < 64, 0xE00000 ≤ Reg.key Fld.BRK_SRC_STAT_PEND.reg i 0 ∧ Reg.key Fld.BRK_SRC_STAT_PEND.reg i 0 < 0xE01000 := by decide
  exact this src h
/-- The races stop their reads and standing grants (R385). -/
theorem Boot.inSafe_frame (b : Boot) : ({ b.inSafe with pend := b.pend, after := b.after, settle := b.settle, settled := b.settled, closed := b.closed } : Boot) = b := by
  unfold Boot.inSafe
  dsimp only
  split <;> rfl
theorem Raised.quiet (s : State) (b : Brk) (d : Bool) (o : Out) :
    Raised s { s with brk := b, races := s.races.mapv (fun _ x => { x.quiet with inReset := false }), boot := s.boot.inSafe,
                      mil := { s.mil with softAt := none }, out := o, gov := { s.gov with drainNext := d } } := by
  refine ⟨rfl, fun _ => rfl, rfl, s.boot.inSafe_frame, rfl, rfl, fun n => ?_, fun h => ⟨h, fun _ _ _ _ _ _ => rfl⟩⟩
  simp only [State.race, Tbl.get, Tbl.find_mapv]
  cases Tbl.find? _ n <;> rfl
theorem State.enterSafe_raised (s : State) (e : RaiseEv) : Raised s (s.enterSafe e) := by
  unfold State.enterSafe
  split
  · exact .refl s
  · dsimp only
    exact ((((Raised.ofReg s .BRK_SAFE (Reg.key .BRK_SAFE 0 0) _ (.inr (.inr (.inr (by decide))))).trans
      (.ofField _ Fld.BRK_HIST_STAT_FROZEN 1 0 0 (.inr (.inr (.inr (by decide)))))).trans
      (State.faultAll_raised _)).trans (State.stopRetrains_raised _)).trans (.quiet _ _ _ _)
theorem State.raiseOne_raised (s : State) (e : RaiseEv) (iso : Bool) (h : e.src < 64) : Raised s (s.raiseOne e iso) := by
  unfold State.raiseOne
  dsimp only
  have h0 : ∀ x : RaiseEv, x.src < 64 → ∀ sev, Raised s (((s.causeOn x).pendSet x.src x.inst).histAdd x sev) := fun x hx sev =>
    ((State.causeOn_raised _ _).trans (State.pendSet_raised _ _ _ hx)).trans (State.histAdd_raised _ _ _)
  split
  · exact h0 { e with esc := e.esc || e.src = Src.GOV_TEMP } h _
  · exact (h0 { e with esc := e.esc || e.src = Src.GOV_TEMP } h _).trans (State.brakeActs_raised _ _ _ _)
theorem mem_insRaise (e x : RaiseEv) (l : List RaiseEv) (h : x ∈ insRaise e l) : x = e ∨ x ∈ l := by
  induction l with
  | nil => simpa [insRaise] using h
  | cons y r ih =>
    unfold insRaise at h
    split at h
    · simpa using h
    · rcases List.mem_cons.mp h with h | h
      · exact .inr (by simp [h])
      · rcases ih h with h | h
        · exact .inl h
        · exact .inr (by simp [h])
theorem mem_foldr_insRaise (l : List RaiseEv) (x : RaiseEv) (h : x ∈ l.foldr insRaise []) : x ∈ l := by
  induction l with
  | nil => exact h
  | cons e r ih =>
    rcases mem_insRaise e x _ h with h | h
    · simp [h]
    · exact List.mem_cons_of_mem _ (ih h)
theorem State.raiseSeen_lt (s : State) (e : RaiseEv) (h : s.raiseSeen e = true) : e.src < 64 := by
  unfold State.raiseSeen at h
  split at h
  · exact absurd h (by decide)
  · next r hr => exact srcRow_lt _ r hr
theorem each_raised_mem {α : Type} {l : List α} {f : α → State → State} {s : State} (hf : ∀ x ∈ l, ∀ b, Raised b (f x b)) :
    Raised s (each l f s) := by
  unfold each
  induction l generalizing s with
  | nil => exact .refl s
  | cons x r ih =>
    exact (hf x (by simp) s).trans (ih fun y hy b => hf y (by simp [hy]) b)
/-- Raising any list of sources. -/
theorem State.raiseAll_raised (s : State) (l : List RaiseEv) : Raised s (s.raiseAll l) := by
  unfold State.raiseAll
  dsimp only
  have h : ∀ iso : RaiseEv → Bool, Raised s (each ((l.filter s.raiseSeen).foldr insRaise []) (fun e s => s.raiseOne e (iso e)) (s.noteUnder l)) :=
    fun iso => (s.noteUnder_raised l).trans (each_raised_mem fun x hx b => b.raiseOne_raised x _
      (s.raiseSeen_lt x (List.of_mem_filter (mem_foldr_insRaise _ _ hx))))
  split
  · exact h _
  · exact (h _).trans (State.enterSafe_raised _ _)
/-- Raising one source. -/
theorem State.raise_raised (s : State) (src inst detail : Nat) : Raised s (s.raise src inst detail) := s.raiseAll_raised _

end Sys2Proof.Machine
end

