-- ==== Sys2Proof/Laws/TameRegs.lean ====
section
/-!
SUPPORT. Every operation of Machine/Regs.lean keeps the queue, the canonical tables and the bounds of the clock (Tame).
-/
namespace Sys2Proof.Machine
set_option linter.all false

theorem State.setRaw_tame {dr fu ck : Bool} {s₀ s : State} (h₀ : Tame dr fu ck s₀ s) (r : Reg) (key : Nat) (w : Word) : Tame dr fu ck s₀ (State.setRaw s r key w) := by
  delta State.setRaw
  repeat' first
    | with_reducible assumption
    | refine fun _ => ?_
    | fail_if_no_progress lift_lets
    | (intro x; refine tame_cut (a := s₀) (x := x) ?_ ?_; subst x; rotate_left; (clear_value x; intro hx); rotate_right)
    | (intro x; subst x)
    | fail_if_no_progress with_reducible apply Tame.upd
    | with_reducible apply tame_ite
    | with_reducible apply tame_ite_fst
    | with_reducible apply when_tame
    | with_reducible apply each_tame
    | with_reducible apply foldl_tame
    | with_reducible apply foldl_tame_fst
    | split
    | simp only [id_eq]
    | dsimp only
    | fail_if_no_progress with_reducible refine Tame.updFree ?_ (by first | omega | (simp; done) | (split <;> omega))
    | with_reducible apply Tame.updClkAt
    | fail_if_no_progress with_reducible refine Tame.updFuse ?_ (by first | omega | (simp; done) | (split <;> omega))
    | fail_if_no_progress with_reducible refine Tame.updClk ?_ (by (first | omega | (simp_all [regsPut_wf, State.clkAt]; done) | (simp_all [regsPut_wf, State.clkAt]; omega))) (by (first | omega | (simp_all [regsPut_wf, State.clkAt]; done) | (simp_all [regsPut_wf, State.clkAt]; omega))) (by (first | omega | (simp_all [regsPut_wf, State.clkAt]; done) | (simp_all [regsPut_wf, State.clkAt]; omega)))
    | fail_if_no_progress with_reducible refine Tame.updRegs ?_ (by (first | omega | (simp_all [regsPut_wf, State.clkAt]; done) | (simp_all [regsPut_wf, State.clkAt]; omega))) (by (first | omega | (simp_all [regsPut_wf, State.clkAt]; done) | (simp_all [regsPut_wf, State.clkAt]; omega)))
    | fail_if_no_progress with_reducible refine Tame.updDram ?_ (by (first | omega | (simp_all [regsPut_wf, State.clkAt]; done) | (simp_all [regsPut_wf, State.clkAt]; omega))) (by (first | omega | (simp_all [regsPut_wf, State.clkAt]; done) | (simp_all [regsPut_wf, State.clkAt]; omega))) (by (first | omega | (simp_all [regsPut_wf, State.clkAt]; done) | (simp_all [regsPut_wf, State.clkAt]; omega)))

theorem State.fset_tame {dr fu ck : Bool} {s₀ s : State} (h₀ : Tame dr fu ck s₀ s) (f : Field) (v i h : Nat) : Tame dr fu ck s₀ (s.fset f v i h) := by
  unfold State.fset State.regsF
  exact Tame.updRegs h₀ (fun x => regsPut_wf _ _ _ _ _ x) id

theorem State.fadd_tame {dr fu ck : Bool} {s₀ s : State} (h₀ : Tame dr fu ck s₀ s) (f : Field) (n : Nat) (i : Nat) (h : Nat) : Tame dr fu ck s₀ (State.fadd s f n i h) := by
  delta State.fadd
  repeat' first
    | with_reducible assumption
    | refine fun _ => ?_
    | fail_if_no_progress lift_lets
    | (intro x; refine tame_cut (a := s₀) (x := x) ?_ ?_; subst x; rotate_left; (clear_value x; intro hx); rotate_right)
    | (intro x; subst x)
    | with_reducible apply State.fset_tame
    | fail_if_no_progress with_reducible apply Tame.upd
    | with_reducible apply tame_ite
    | with_reducible apply tame_ite_fst
    | with_reducible apply when_tame
    | with_reducible apply each_tame
    | with_reducible apply foldl_tame
    | with_reducible apply foldl_tame_fst
    | split
    | simp only [id_eq]
    | dsimp only
    | fail_if_no_progress with_reducible refine Tame.updFree ?_ (by first | omega | (simp; done) | (split <;> omega))
    | with_reducible apply Tame.updClkAt
    | fail_if_no_progress with_reducible refine Tame.updFuse ?_ (by first | omega | (simp; done) | (split <;> omega))
    | fail_if_no_progress with_reducible refine Tame.updClk ?_ (by (first | omega | (simp_all [regsPut_wf, State.clkAt]; done) | (simp_all [regsPut_wf, State.clkAt]; omega))) (by (first | omega | (simp_all [regsPut_wf, State.clkAt]; done) | (simp_all [regsPut_wf, State.clkAt]; omega))) (by (first | omega | (simp_all [regsPut_wf, State.clkAt]; done) | (simp_all [regsPut_wf, State.clkAt]; omega)))
    | fail_if_no_progress with_reducible refine Tame.updRegs ?_ (by (first | omega | (simp_all [regsPut_wf, State.clkAt]; done) | (simp_all [regsPut_wf, State.clkAt]; omega))) (by (first | omega | (simp_all [regsPut_wf, State.clkAt]; done) | (simp_all [regsPut_wf, State.clkAt]; omega)))
    | fail_if_no_progress with_reducible refine Tame.updDram ?_ (by (first | omega | (simp_all [regsPut_wf, State.clkAt]; done) | (simp_all [regsPut_wf, State.clkAt]; omega))) (by (first | omega | (simp_all [regsPut_wf, State.clkAt]; done) | (simp_all [regsPut_wf, State.clkAt]; omega))) (by (first | omega | (simp_all [regsPut_wf, State.clkAt]; done) | (simp_all [regsPut_wf, State.clkAt]; omega)))

theorem State.fwrap_tame {dr fu ck : Bool} {s₀ s : State} (h₀ : Tame dr fu ck s₀ s) (f : Field) (n : Nat) (i : Nat) (h : Nat) : Tame dr fu ck s₀ (State.fwrap s f n i h) := by
  delta State.fwrap
  repeat' first
    | with_reducible assumption
    | refine fun _ => ?_
    | fail_if_no_progress lift_lets
    | (intro x; refine tame_cut (a := s₀) (x := x) ?_ ?_; subst x; rotate_left; (clear_value x; intro hx); rotate_right)
    | (intro x; subst x)
    | with_reducible apply State.fset_tame
    | fail_if_no_progress with_reducible apply Tame.upd
    | with_reducible apply tame_ite
    | with_reducible apply tame_ite_fst
    | with_reducible apply when_tame
    | with_reducible apply each_tame
    | with_reducible apply foldl_tame
    | with_reducible apply foldl_tame_fst
    | split
    | simp only [id_eq]
    | dsimp only
    | fail_if_no_progress with_reducible refine Tame.updFree ?_ (by first | omega | (simp; done) | (split <;> omega))
    | with_reducible apply Tame.updClkAt
    | fail_if_no_progress with_reducible refine Tame.updFuse ?_ (by first | omega | (simp; done) | (split <;> omega))
    | fail_if_no_progress with_reducible refine Tame.updClk ?_ (by (first | omega | (simp_all [regsPut_wf, State.clkAt]; done) | (simp_all [regsPut_wf, State.clkAt]; omega))) (by (first | omega | (simp_all [regsPut_wf, State.clkAt]; done) | (simp_all [regsPut_wf, State.clkAt]; omega))) (by (first | omega | (simp_all [regsPut_wf, State.clkAt]; done) | (simp_all [regsPut_wf, State.clkAt]; omega)))
    | fail_if_no_progress with_reducible refine Tame.updRegs ?_ (by (first | omega | (simp_all [regsPut_wf, State.clkAt]; done) | (simp_all [regsPut_wf, State.clkAt]; omega))) (by (first | omega | (simp_all [regsPut_wf, State.clkAt]; done) | (simp_all [regsPut_wf, State.clkAt]; omega)))
    | fail_if_no_progress with_reducible refine Tame.updDram ?_ (by (first | omega | (simp_all [regsPut_wf, State.clkAt]; done) | (simp_all [regsPut_wf, State.clkAt]; omega))) (by (first | omega | (simp_all [regsPut_wf, State.clkAt]; done) | (simp_all [regsPut_wf, State.clkAt]; omega))) (by (first | omega | (simp_all [regsPut_wf, State.clkAt]; done) | (simp_all [regsPut_wf, State.clkAt]; omega)))

theorem State.setMod_tame {dr fu ck : Bool} {s₀ s : State} (h₀ : Tame dr fu ck s₀ s) (m : Nat) (x : ModSt) : Tame dr fu ck s₀ (State.setMod s m x) := by
  delta State.setMod
  repeat' first
    | with_reducible assumption
    | refine fun _ => ?_
    | fail_if_no_progress lift_lets
    | (intro x; refine tame_cut (a := s₀) (x := x) ?_ ?_; subst x; rotate_left; (clear_value x; intro hx); rotate_right)
    | (intro x; subst x)
    | fail_if_no_progress with_reducible apply Tame.upd
    | with_reducible apply tame_ite
    | with_reducible apply tame_ite_fst
    | with_reducible apply when_tame
    | with_reducible apply each_tame
    | with_reducible apply foldl_tame
    | with_reducible apply foldl_tame_fst
    | split
    | simp only [id_eq]
    | dsimp only
    | fail_if_no_progress with_reducible refine Tame.updFree ?_ (by first | omega | (simp; done) | (split <;> omega))
    | with_reducible apply Tame.updClkAt
    | fail_if_no_progress with_reducible refine Tame.updFuse ?_ (by first | omega | (simp; done) | (split <;> omega))
    | fail_if_no_progress with_reducible refine Tame.updClk ?_ (by (first | omega | (simp_all [regsPut_wf, State.clkAt]; done) | (simp_all [regsPut_wf, State.clkAt]; omega))) (by (first | omega | (simp_all [regsPut_wf, State.clkAt]; done) | (simp_all [regsPut_wf, State.clkAt]; omega))) (by (first | omega | (simp_all [regsPut_wf, State.clkAt]; done) | (simp_all [regsPut_wf, State.clkAt]; omega)))
    | fail_if_no_progress with_reducible refine Tame.updRegs ?_ (by (first | omega | (simp_all [regsPut_wf, State.clkAt]; done) | (simp_all [regsPut_wf, State.clkAt]; omega))) (by (first | omega | (simp_all [regsPut_wf, State.clkAt]; done) | (simp_all [regsPut_wf, State.clkAt]; omega)))
    | fail_if_no_progress with_reducible refine Tame.updDram ?_ (by (first | omega | (simp_all [regsPut_wf, State.clkAt]; done) | (simp_all [regsPut_wf, State.clkAt]; omega))) (by (first | omega | (simp_all [regsPut_wf, State.clkAt]; done) | (simp_all [regsPut_wf, State.clkAt]; omega))) (by (first | omega | (simp_all [regsPut_wf, State.clkAt]; done) | (simp_all [regsPut_wf, State.clkAt]; omega)))

theorem State.setRace_tame {dr fu ck : Bool} {s₀ s : State} (h₀ : Tame dr fu ck s₀ s) (r : Nat) (x : Race) : Tame dr fu ck s₀ (State.setRace s r x) := by
  delta State.setRace
  repeat' first
    | with_reducible assumption
    | refine fun _ => ?_
    | fail_if_no_progress lift_lets
    | (intro x; refine tame_cut (a := s₀) (x := x) ?_ ?_; subst x; rotate_left; (clear_value x; intro hx); rotate_right)
    | (intro x; subst x)
    | fail_if_no_progress with_reducible apply Tame.upd
    | with_reducible apply tame_ite
    | with_reducible apply tame_ite_fst
    | with_reducible apply when_tame
    | with_reducible apply each_tame
    | with_reducible apply foldl_tame
    | with_reducible apply foldl_tame_fst
    | split
    | simp only [id_eq]
    | dsimp only
    | fail_if_no_progress with_reducible refine Tame.updFree ?_ (by first | omega | (simp; done) | (split <;> omega))
    | with_reducible apply Tame.updClkAt
    | fail_if_no_progress with_reducible refine Tame.updFuse ?_ (by first | omega | (simp; done) | (split <;> omega))
    | fail_if_no_progress with_reducible refine Tame.updClk ?_ (by (first | omega | (simp_all [regsPut_wf, State.clkAt]; done) | (simp_all [regsPut_wf, State.clkAt]; omega))) (by (first | omega | (simp_all [regsPut_wf, State.clkAt]; done) | (simp_all [regsPut_wf, State.clkAt]; omega))) (by (first | omega | (simp_all [regsPut_wf, State.clkAt]; done) | (simp_all [regsPut_wf, State.clkAt]; omega)))
    | fail_if_no_progress with_reducible refine Tame.updRegs ?_ (by (first | omega | (simp_all [regsPut_wf, State.clkAt]; done) | (simp_all [regsPut_wf, State.clkAt]; omega))) (by (first | omega | (simp_all [regsPut_wf, State.clkAt]; done) | (simp_all [regsPut_wf, State.clkAt]; omega)))
    | fail_if_no_progress with_reducible refine Tame.updDram ?_ (by (first | omega | (simp_all [regsPut_wf, State.clkAt]; done) | (simp_all [regsPut_wf, State.clkAt]; omega))) (by (first | omega | (simp_all [regsPut_wf, State.clkAt]; done) | (simp_all [regsPut_wf, State.clkAt]; omega))) (by (first | omega | (simp_all [regsPut_wf, State.clkAt]; done) | (simp_all [regsPut_wf, State.clkAt]; omega)))

theorem State.setHst_tame {dr fu ck : Bool} {s₀ s : State} (h₀ : Tame dr fu ck s₀ s) (h : Nat) (x : Hst) : Tame dr fu ck s₀ (State.setHst s h x) := by
  delta State.setHst
  repeat' first
    | with_reducible assumption
    | refine fun _ => ?_
    | fail_if_no_progress lift_lets
    | (intro x; refine tame_cut (a := s₀) (x := x) ?_ ?_; subst x; rotate_left; (clear_value x; intro hx); rotate_right)
    | (intro x; subst x)
    | fail_if_no_progress with_reducible apply Tame.upd
    | with_reducible apply tame_ite
    | with_reducible apply tame_ite_fst
    | with_reducible apply when_tame
    | with_reducible apply each_tame
    | with_reducible apply foldl_tame
    | with_reducible apply foldl_tame_fst
    | split
    | simp only [id_eq]
    | dsimp only
    | fail_if_no_progress with_reducible refine Tame.updFree ?_ (by first | omega | (simp; done) | (split <;> omega))
    | with_reducible apply Tame.updClkAt
    | fail_if_no_progress with_reducible refine Tame.updFuse ?_ (by first | omega | (simp; done) | (split <;> omega))
    | fail_if_no_progress with_reducible refine Tame.updClk ?_ (by (first | omega | (simp_all [regsPut_wf, State.clkAt]; done) | (simp_all [regsPut_wf, State.clkAt]; omega))) (by (first | omega | (simp_all [regsPut_wf, State.clkAt]; done) | (simp_all [regsPut_wf, State.clkAt]; omega))) (by (first | omega | (simp_all [regsPut_wf, State.clkAt]; done) | (simp_all [regsPut_wf, State.clkAt]; omega)))
    | fail_if_no_progress with_reducible refine Tame.updRegs ?_ (by (first | omega | (simp_all [regsPut_wf, State.clkAt]; done) | (simp_all [regsPut_wf, State.clkAt]; omega))) (by (first | omega | (simp_all [regsPut_wf, State.clkAt]; done) | (simp_all [regsPut_wf, State.clkAt]; omega)))
    | fail_if_no_progress with_reducible refine Tame.updDram ?_ (by (first | omega | (simp_all [regsPut_wf, State.clkAt]; done) | (simp_all [regsPut_wf, State.clkAt]; omega))) (by (first | omega | (simp_all [regsPut_wf, State.clkAt]; done) | (simp_all [regsPut_wf, State.clkAt]; omega))) (by (first | omega | (simp_all [regsPut_wf, State.clkAt]; done) | (simp_all [regsPut_wf, State.clkAt]; omega)))

theorem State.setQrn_tame {dr fu ck : Bool} {s₀ s : State} (h₀ : Tame dr fu ck s₀ s) (h : Nat) (x : Qrn) : Tame dr fu ck s₀ (State.setQrn s h x) := by
  delta State.setQrn
  repeat' first
    | with_reducible assumption
    | refine fun _ => ?_
    | fail_if_no_progress lift_lets
    | (intro x; refine tame_cut (a := s₀) (x := x) ?_ ?_; subst x; rotate_left; (clear_value x; intro hx); rotate_right)
    | (intro x; subst x)
    | fail_if_no_progress with_reducible apply Tame.upd
    | with_reducible apply tame_ite
    | with_reducible apply tame_ite_fst
    | with_reducible apply when_tame
    | with_reducible apply each_tame
    | with_reducible apply foldl_tame
    | with_reducible apply foldl_tame_fst
    | split
    | simp only [id_eq]
    | dsimp only
    | fail_if_no_progress with_reducible refine Tame.updFree ?_ (by first | omega | (simp; done) | (split <;> omega))
    | with_reducible apply Tame.updClkAt
    | fail_if_no_progress with_reducible refine Tame.updFuse ?_ (by first | omega | (simp; done) | (split <;> omega))
    | fail_if_no_progress with_reducible refine Tame.updClk ?_ (by (first | omega | (simp_all [regsPut_wf, State.clkAt]; done) | (simp_all [regsPut_wf, State.clkAt]; omega))) (by (first | omega | (simp_all [regsPut_wf, State.clkAt]; done) | (simp_all [regsPut_wf, State.clkAt]; omega))) (by (first | omega | (simp_all [regsPut_wf, State.clkAt]; done) | (simp_all [regsPut_wf, State.clkAt]; omega)))
    | fail_if_no_progress with_reducible refine Tame.updRegs ?_ (by (first | omega | (simp_all [regsPut_wf, State.clkAt]; done) | (simp_all [regsPut_wf, State.clkAt]; omega))) (by (first | omega | (simp_all [regsPut_wf, State.clkAt]; done) | (simp_all [regsPut_wf, State.clkAt]; omega)))
    | fail_if_no_progress with_reducible refine Tame.updDram ?_ (by (first | omega | (simp_all [regsPut_wf, State.clkAt]; done) | (simp_all [regsPut_wf, State.clkAt]; omega))) (by (first | omega | (simp_all [regsPut_wf, State.clkAt]; done) | (simp_all [regsPut_wf, State.clkAt]; omega))) (by (first | omega | (simp_all [regsPut_wf, State.clkAt]; done) | (simp_all [regsPut_wf, State.clkAt]; omega)))

theorem State.setTly_tame {dr fu ck : Bool} {s₀ s : State} (h₀ : Tame dr fu ck s₀ s) (h : Nat) (x : Tly) : Tame dr fu ck s₀ (State.setTly s h x) := by
  delta State.setTly
  repeat' first
    | with_reducible assumption
    | refine fun _ => ?_
    | fail_if_no_progress lift_lets
    | (intro x; refine tame_cut (a := s₀) (x := x) ?_ ?_; subst x; rotate_left; (clear_value x; intro hx); rotate_right)
    | (intro x; subst x)
    | fail_if_no_progress with_reducible apply Tame.upd
    | with_reducible apply tame_ite
    | with_reducible apply tame_ite_fst
    | with_reducible apply when_tame
    | with_reducible apply each_tame
    | with_reducible apply foldl_tame
    | with_reducible apply foldl_tame_fst
    | split
    | simp only [id_eq]
    | dsimp only
    | fail_if_no_progress with_reducible refine Tame.updFree ?_ (by first | omega | (simp; done) | (split <;> omega))
    | with_reducible apply Tame.updClkAt
    | fail_if_no_progress with_reducible refine Tame.updFuse ?_ (by first | omega | (simp; done) | (split <;> omega))
    | fail_if_no_progress with_reducible refine Tame.updClk ?_ (by (first | omega | (simp_all [regsPut_wf, State.clkAt]; done) | (simp_all [regsPut_wf, State.clkAt]; omega))) (by (first | omega | (simp_all [regsPut_wf, State.clkAt]; done) | (simp_all [regsPut_wf, State.clkAt]; omega))) (by (first | omega | (simp_all [regsPut_wf, State.clkAt]; done) | (simp_all [regsPut_wf, State.clkAt]; omega)))
    | fail_if_no_progress with_reducible refine Tame.updRegs ?_ (by (first | omega | (simp_all [regsPut_wf, State.clkAt]; done) | (simp_all [regsPut_wf, State.clkAt]; omega))) (by (first | omega | (simp_all [regsPut_wf, State.clkAt]; done) | (simp_all [regsPut_wf, State.clkAt]; omega)))
    | fail_if_no_progress with_reducible refine Tame.updDram ?_ (by (first | omega | (simp_all [regsPut_wf, State.clkAt]; done) | (simp_all [regsPut_wf, State.clkAt]; omega))) (by (first | omega | (simp_all [regsPut_wf, State.clkAt]; done) | (simp_all [regsPut_wf, State.clkAt]; omega))) (by (first | omega | (simp_all [regsPut_wf, State.clkAt]; done) | (simp_all [regsPut_wf, State.clkAt]; omega)))

theorem State.setFan_tame {dr fu ck : Bool} {s₀ s : State} (h₀ : Tame dr fu ck s₀ s) (h : Nat) (x : Fan) : Tame dr fu ck s₀ (State.setFan s h x) := by
  delta State.setFan
  repeat' first
    | with_reducible assumption
    | refine fun _ => ?_
    | fail_if_no_progress lift_lets
    | (intro x; refine tame_cut (a := s₀) (x := x) ?_ ?_; subst x; rotate_left; (clear_value x; intro hx); rotate_right)
    | (intro x; subst x)
    | fail_if_no_progress with_reducible apply Tame.upd
    | with_reducible apply tame_ite
    | with_reducible apply tame_ite_fst
    | with_reducible apply when_tame
    | with_reducible apply each_tame
    | with_reducible apply foldl_tame
    | with_reducible apply foldl_tame_fst
    | split
    | simp only [id_eq]
    | dsimp only
    | fail_if_no_progress with_reducible refine Tame.updFree ?_ (by first | omega | (simp; done) | (split <;> omega))
    | with_reducible apply Tame.updClkAt
    | fail_if_no_progress with_reducible refine Tame.updFuse ?_ (by first | omega | (simp; done) | (split <;> omega))
    | fail_if_no_progress with_reducible refine Tame.updClk ?_ (by (first | omega | (simp_all [regsPut_wf, State.clkAt]; done) | (simp_all [regsPut_wf, State.clkAt]; omega))) (by (first | omega | (simp_all [regsPut_wf, State.clkAt]; done) | (simp_all [regsPut_wf, State.clkAt]; omega))) (by (first | omega | (simp_all [regsPut_wf, State.clkAt]; done) | (simp_all [regsPut_wf, State.clkAt]; omega)))
    | fail_if_no_progress with_reducible refine Tame.updRegs ?_ (by (first | omega | (simp_all [regsPut_wf, State.clkAt]; done) | (simp_all [regsPut_wf, State.clkAt]; omega))) (by (first | omega | (simp_all [regsPut_wf, State.clkAt]; done) | (simp_all [regsPut_wf, State.clkAt]; omega)))
    | fail_if_no_progress with_reducible refine Tame.updDram ?_ (by (first | omega | (simp_all [regsPut_wf, State.clkAt]; done) | (simp_all [regsPut_wf, State.clkAt]; omega))) (by (first | omega | (simp_all [regsPut_wf, State.clkAt]; done) | (simp_all [regsPut_wf, State.clkAt]; omega))) (by (first | omega | (simp_all [regsPut_wf, State.clkAt]; done) | (simp_all [regsPut_wf, State.clkAt]; omega)))

theorem State.setCore_tame {dr fu ck : Bool} {s₀ s : State} (h₀ : Tame dr fu ck s₀ s) (h : Nat) (x : Core) : Tame dr fu ck s₀ (State.setCore s h x) := by
  delta State.setCore
  repeat' first
    | with_reducible assumption
    | refine fun _ => ?_
    | fail_if_no_progress lift_lets
    | (intro x; refine tame_cut (a := s₀) (x := x) ?_ ?_; subst x; rotate_left; (clear_value x; intro hx); rotate_right)
    | (intro x; subst x)
    | fail_if_no_progress with_reducible apply Tame.upd
    | with_reducible apply tame_ite
    | with_reducible apply tame_ite_fst
    | with_reducible apply when_tame
    | with_reducible apply each_tame
    | with_reducible apply foldl_tame
    | with_reducible apply foldl_tame_fst
    | split
    | simp only [id_eq]
    | dsimp only
    | fail_if_no_progress with_reducible refine Tame.updFree ?_ (by first | omega | (simp; done) | (split <;> omega))
    | with_reducible apply Tame.updClkAt
    | fail_if_no_progress with_reducible refine Tame.updFuse ?_ (by first | omega | (simp; done) | (split <;> omega))
    | fail_if_no_progress with_reducible refine Tame.updClk ?_ (by (first | omega | (simp_all [regsPut_wf, State.clkAt]; done) | (simp_all [regsPut_wf, State.clkAt]; omega))) (by (first | omega | (simp_all [regsPut_wf, State.clkAt]; done) | (simp_all [regsPut_wf, State.clkAt]; omega))) (by (first | omega | (simp_all [regsPut_wf, State.clkAt]; done) | (simp_all [regsPut_wf, State.clkAt]; omega)))
    | fail_if_no_progress with_reducible refine Tame.updRegs ?_ (by (first | omega | (simp_all [regsPut_wf, State.clkAt]; done) | (simp_all [regsPut_wf, State.clkAt]; omega))) (by (first | omega | (simp_all [regsPut_wf, State.clkAt]; done) | (simp_all [regsPut_wf, State.clkAt]; omega)))
    | fail_if_no_progress with_reducible refine Tame.updDram ?_ (by (first | omega | (simp_all [regsPut_wf, State.clkAt]; done) | (simp_all [regsPut_wf, State.clkAt]; omega))) (by (first | omega | (simp_all [regsPut_wf, State.clkAt]; done) | (simp_all [regsPut_wf, State.clkAt]; omega))) (by (first | omega | (simp_all [regsPut_wf, State.clkAt]; done) | (simp_all [regsPut_wf, State.clkAt]; omega)))

end Sys2Proof.Machine
end

