-- ==== Sys2Proof/Laws/TameOps.lean ====
section
/-!
SUPPORT. Every operation of Machine/Ops.lean keeps the queue, the canonical tables and the bounds of the clock (Tame).
-/
namespace Sys2Proof.Machine
set_option linter.all false

theorem State.pulseDrawn_tame {dr fu ck : Bool} {s₀ s : State} (h₀ : Tame dr fu ck s₀ s) (ns lo hi : Nat) : Tame dr fu ck s₀ (State.pulseDrawn s ns lo hi) := by
  delta State.pulseDrawn
  repeat' first
    | with_reducible assumption
    | refine fun _ => ?_
    | fail_if_no_progress lift_lets
    | (intro x; refine tame_cut (a := s₀) (x := x) ?_ ?_; subst x; rotate_left; (clear_value x; intro hx); rotate_right)
    | (intro x; subst x)
    | fail_if_no_progress with_reducible apply Tame.upd
    | with_reducible apply tame_ite
    | with_reducible apply tame_ite_fst
    | with_reducible apply when_tame
    | with_reducible apply each_tame
    | with_reducible apply foldl_tame
    | with_reducible apply foldl_tame_fst
    | split
    | simp only [id_eq]
    | dsimp only
    | fail_if_no_progress with_reducible refine Tame.updFree ?_ (by first | omega | (simp; done) | (split <;> omega))
    | with_reducible apply Tame.updClkAt
    | fail_if_no_progress with_reducible refine Tame.updFuse ?_ (by first | omega | (simp; done) | (split <;> omega))
    | fail_if_no_progress with_reducible refine Tame.updClk ?_ (by (first | omega | (simp_all [regsPut_wf, State.clkAt]; done) | (simp_all [regsPut_wf, State.clkAt]; omega))) (by (first | omega | (simp_all [regsPut_wf, State.clkAt]; done) | (simp_all [regsPut_wf, State.clkAt]; omega))) (by (first | omega | (simp_all [regsPut_wf, State.clkAt]; done) | (simp_all [regsPut_wf, State.clkAt]; omega)))
    | fail_if_no_progress with_reducible refine Tame.updRegs ?_ (by (first | omega | (simp_all [regsPut_wf, State.clkAt]; done) | (simp_all [regsPut_wf, State.clkAt]; omega))) (by (first | omega | (simp_all [regsPut_wf, State.clkAt]; done) | (simp_all [regsPut_wf, State.clkAt]; omega)))
    | fail_if_no_progress with_reducible refine Tame.updDram ?_ (by (first | omega | (simp_all [regsPut_wf, State.clkAt]; done) | (simp_all [regsPut_wf, State.clkAt]; omega))) (by (first | omega | (simp_all [regsPut_wf, State.clkAt]; done) | (simp_all [regsPut_wf, State.clkAt]; omega))) (by (first | omega | (simp_all [regsPut_wf, State.clkAt]; done) | (simp_all [regsPut_wf, State.clkAt]; omega)))

theorem State.tally_tame {dr fu ck : Bool} {s₀ s : State} (h₀ : Tame dr fu ck s₀ s) (h bank i n : Nat) : Tame dr fu ck s₀ (State.tally s h bank i n) := by
  delta State.tally
  repeat' first
    | with_reducible assumption
    | refine fun _ => ?_
    | fail_if_no_progress lift_lets
    | (intro x; refine tame_cut (a := s₀) (x := x) ?_ ?_; subst x; rotate_left; (clear_value x; intro hx); rotate_right)
    | (intro x; subst x)
    | fail_if_no_progress with_reducible apply Tame.upd
    | with_reducible apply tame_ite
    | with_reducible apply tame_ite_fst
    | with_reducible apply when_tame
    | with_reducible apply each_tame
    | with_reducible apply foldl_tame
    | with_reducible apply foldl_tame_fst
    | split
    | simp only [id_eq]
    | dsimp only
    | fail_if_no_progress with_reducible refine Tame.updFree ?_ (by first | omega | (simp; done) | (split <;> omega))
    | with_reducible apply Tame.updClkAt
    | fail_if_no_progress with_reducible refine Tame.updFuse ?_ (by first | omega | (simp; done) | (split <;> omega))
    | fail_if_no_progress with_reducible refine Tame.updClk ?_ (by (first | omega | (simp_all [regsPut_wf, State.clkAt]; done) | (simp_all [regsPut_wf, State.clkAt]; omega))) (by (first | omega | (simp_all [regsPut_wf, State.clkAt]; done) | (simp_all [regsPut_wf, State.clkAt]; omega))) (by (first | omega | (simp_all [regsPut_wf, State.clkAt]; done) | (simp_all [regsPut_wf, State.clkAt]; omega)))
    | fail_if_no_progress with_reducible refine Tame.updRegs ?_ (by (first | omega | (simp_all [regsPut_wf, State.clkAt]; done) | (simp_all [regsPut_wf, State.clkAt]; omega))) (by (first | omega | (simp_all [regsPut_wf, State.clkAt]; done) | (simp_all [regsPut_wf, State.clkAt]; omega)))
    | fail_if_no_progress with_reducible refine Tame.updDram ?_ (by (first | omega | (simp_all [regsPut_wf, State.clkAt]; done) | (simp_all [regsPut_wf, State.clkAt]; omega))) (by (first | omega | (simp_all [regsPut_wf, State.clkAt]; done) | (simp_all [regsPut_wf, State.clkAt]; omega))) (by (first | omega | (simp_all [regsPut_wf, State.clkAt]; done) | (simp_all [regsPut_wf, State.clkAt]; omega)))

theorem State.tallyMod_tame {dr fu ck : Bool} {s₀ s : State} (h₀ : Tame dr fu ck s₀ s) (m e n : Nat) : Tame dr fu ck s₀ (State.tallyMod s m e n) := by
  delta State.tallyMod
  repeat' first
    | with_reducible assumption
    | refine fun _ => ?_
    | fail_if_no_progress lift_lets
    | (intro x; refine tame_cut (a := s₀) (x := x) ?_ ?_; subst x; rotate_left; (clear_value x; intro hx); rotate_right)
    | (intro x; subst x)
    | with_reducible apply State.tally_tame
    | fail_if_no_progress with_reducible apply Tame.upd
    | with_reducible apply tame_ite
    | with_reducible apply tame_ite_fst
    | with_reducible apply when_tame
    | with_reducible apply each_tame
    | with_reducible apply foldl_tame
    | with_reducible apply foldl_tame_fst
    | split
    | simp only [id_eq]
    | dsimp only
    | fail_if_no_progress with_reducible refine Tame.updFree ?_ (by first | omega | (simp; done) | (split <;> omega))
    | with_reducible apply Tame.updClkAt
    | fail_if_no_progress with_reducible refine Tame.updFuse ?_ (by first | omega | (simp; done) | (split <;> omega))
    | fail_if_no_progress with_reducible refine Tame.updClk ?_ (by (first | omega | (simp_all [regsPut_wf, State.clkAt]; done) | (simp_all [regsPut_wf, State.clkAt]; omega))) (by (first | omega | (simp_all [regsPut_wf, State.clkAt]; done) | (simp_all [regsPut_wf, State.clkAt]; omega))) (by (first | omega | (simp_all [regsPut_wf, State.clkAt]; done) | (simp_all [regsPut_wf, State.clkAt]; omega)))
    | fail_if_no_progress with_reducible refine Tame.updRegs ?_ (by (first | omega | (simp_all [regsPut_wf, State.clkAt]; done) | (simp_all [regsPut_wf, State.clkAt]; omega))) (by (first | omega | (simp_all [regsPut_wf, State.clkAt]; done) | (simp_all [regsPut_wf, State.clkAt]; omega)))
    | fail_if_no_progress with_reducible refine Tame.updDram ?_ (by (first | omega | (simp_all [regsPut_wf, State.clkAt]; done) | (simp_all [regsPut_wf, State.clkAt]; omega))) (by (first | omega | (simp_all [regsPut_wf, State.clkAt]; done) | (simp_all [regsPut_wf, State.clkAt]; omega))) (by (first | omega | (simp_all [regsPut_wf, State.clkAt]; done) | (simp_all [regsPut_wf, State.clkAt]; omega)))

theorem State.tallyCls_tame {dr fu ck : Bool} {s₀ s : State} (h₀ : Tame dr fu ck s₀ s) (h c e n : Nat) : Tame dr fu ck s₀ (State.tallyCls s h c e n) := by
  delta State.tallyCls
  repeat' first
    | with_reducible assumption
    | refine fun _ => ?_
    | fail_if_no_progress lift_lets
    | (intro x; refine tame_cut (a := s₀) (x := x) ?_ ?_; subst x; rotate_left; (clear_value x; intro hx); rotate_right)
    | (intro x; subst x)
    | with_reducible apply State.tally_tame
    | fail_if_no_progress with_reducible apply Tame.upd
    | with_reducible apply tame_ite
    | with_reducible apply tame_ite_fst
    | with_reducible apply when_tame
    | with_reducible apply each_tame
    | with_reducible apply foldl_tame
    | with_reducible apply foldl_tame_fst
    | split
    | simp only [id_eq]
    | dsimp only
    | fail_if_no_progress with_reducible refine Tame.updFree ?_ (by first | omega | (simp; done) | (split <;> omega))
    | with_reducible apply Tame.updClkAt
    | fail_if_no_progress with_reducible refine Tame.updFuse ?_ (by first | omega | (simp; done) | (split <;> omega))
    | fail_if_no_progress with_reducible refine Tame.updClk ?_ (by (first | omega | (simp_all [regsPut_wf, State.clkAt]; done) | (simp_all [regsPut_wf, State.clkAt]; omega))) (by (first | omega | (simp_all [regsPut_wf, State.clkAt]; done) | (simp_all [regsPut_wf, State.clkAt]; omega))) (by (first | omega | (simp_all [regsPut_wf, State.clkAt]; done) | (simp_all [regsPut_wf, State.clkAt]; omega)))
    | fail_if_no_progress with_reducible refine Tame.updRegs ?_ (by (first | omega | (simp_all [regsPut_wf, State.clkAt]; done) | (simp_all [regsPut_wf, State.clkAt]; omega))) (by (first | omega | (simp_all [regsPut_wf, State.clkAt]; done) | (simp_all [regsPut_wf, State.clkAt]; omega)))
    | fail_if_no_progress with_reducible refine Tame.updDram ?_ (by (first | omega | (simp_all [regsPut_wf, State.clkAt]; done) | (simp_all [regsPut_wf, State.clkAt]; omega))) (by (first | omega | (simp_all [regsPut_wf, State.clkAt]; done) | (simp_all [regsPut_wf, State.clkAt]; omega))) (by (first | omega | (simp_all [regsPut_wf, State.clkAt]; done) | (simp_all [regsPut_wf, State.clkAt]; omega)))

theorem State.tallyRace_tame {dr fu ck : Bool} {s₀ s : State} (h₀ : Tame dr fu ck s₀ s) (r e n : Nat) : Tame dr fu ck s₀ (State.tallyRace s r e n) := by
  delta State.tallyRace
  repeat' first
    | with_reducible assumption
    | refine fun _ => ?_
    | fail_if_no_progress lift_lets
    | (intro x; refine tame_cut (a := s₀) (x := x) ?_ ?_; subst x; rotate_left; (clear_value x; intro hx); rotate_right)
    | (intro x; subst x)
    | with_reducible apply State.tally_tame
    | fail_if_no_progress with_reducible apply Tame.upd
    | with_reducible apply tame_ite
    | with_reducible apply tame_ite_fst
    | with_reducible apply when_tame
    | with_reducible apply each_tame
    | with_reducible apply foldl_tame
    | with_reducible apply foldl_tame_fst
    | split
    | simp only [id_eq]
    | dsimp only
    | fail_if_no_progress with_reducible refine Tame.updFree ?_ (by first | omega | (simp; done) | (split <;> omega))
    | with_reducible apply Tame.updClkAt
    | fail_if_no_progress with_reducible refine Tame.updFuse ?_ (by first | omega | (simp; done) | (split <;> omega))
    | fail_if_no_progress with_reducible refine Tame.updClk ?_ (by (first | omega | (simp_all [regsPut_wf, State.clkAt]; done) | (simp_all [regsPut_wf, State.clkAt]; omega))) (by (first | omega | (simp_all [regsPut_wf, State.clkAt]; done) | (simp_all [regsPut_wf, State.clkAt]; omega))) (by (first | omega | (simp_all [regsPut_wf, State.clkAt]; done) | (simp_all [regsPut_wf, State.clkAt]; omega)))
    | fail_if_no_progress with_reducible refine Tame.updRegs ?_ (by (first | omega | (simp_all [regsPut_wf, State.clkAt]; done) | (simp_all [regsPut_wf, State.clkAt]; omega))) (by (first | omega | (simp_all [regsPut_wf, State.clkAt]; done) | (simp_all [regsPut_wf, State.clkAt]; omega)))
    | fail_if_no_progress with_reducible refine Tame.updDram ?_ (by (first | omega | (simp_all [regsPut_wf, State.clkAt]; done) | (simp_all [regsPut_wf, State.clkAt]; omega))) (by (first | omega | (simp_all [regsPut_wf, State.clkAt]; done) | (simp_all [regsPut_wf, State.clkAt]; omega))) (by (first | omega | (simp_all [regsPut_wf, State.clkAt]; done) | (simp_all [regsPut_wf, State.clkAt]; omega)))

theorem State.tallyStore_tame {dr fu ck : Bool} {s₀ s : State} (h₀ : Tame dr fu ck s₀ s) (h e n : Nat) : Tame dr fu ck s₀ (State.tallyStore s h e n) := by
  delta State.tallyStore
  repeat' first
    | with_reducible assumption
    | refine fun _ => ?_
    | fail_if_no_progress lift_lets
    | (intro x; refine tame_cut (a := s₀) (x := x) ?_ ?_; subst x; rotate_left; (clear_value x; intro hx); rotate_right)
    | (intro x; subst x)
    | with_reducible apply State.tally_tame
    | fail_if_no_progress with_reducible apply Tame.upd
    | with_reducible apply tame_ite
    | with_reducible apply tame_ite_fst
    | with_reducible apply when_tame
    | with_reducible apply each_tame
    | with_reducible apply foldl_tame
    | with_reducible apply foldl_tame_fst
    | split
    | simp only [id_eq]
    | dsimp only
    | fail_if_no_progress with_reducible refine Tame.updFree ?_ (by first | omega | (simp; done) | (split <;> omega))
    | with_reducible apply Tame.updClkAt
    | fail_if_no_progress with_reducible refine Tame.updFuse ?_ (by first | omega | (simp; done) | (split <;> omega))
    | fail_if_no_progress with_reducible refine Tame.updClk ?_ (by (first | omega | (simp_all [regsPut_wf, State.clkAt]; done) | (simp_all [regsPut_wf, State.clkAt]; omega))) (by (first | omega | (simp_all [regsPut_wf, State.clkAt]; done) | (simp_all [regsPut_wf, State.clkAt]; omega))) (by (first | omega | (simp_all [regsPut_wf, State.clkAt]; done) | (simp_all [regsPut_wf, State.clkAt]; omega)))
    | fail_if_no_progress with_reducible refine Tame.updRegs ?_ (by (first | omega | (simp_all [regsPut_wf, State.clkAt]; done) | (simp_all [regsPut_wf, State.clkAt]; omega))) (by (first | omega | (simp_all [regsPut_wf, State.clkAt]; done) | (simp_all [regsPut_wf, State.clkAt]; omega)))
    | fail_if_no_progress with_reducible refine Tame.updDram ?_ (by (first | omega | (simp_all [regsPut_wf, State.clkAt]; done) | (simp_all [regsPut_wf, State.clkAt]; omega))) (by (first | omega | (simp_all [regsPut_wf, State.clkAt]; done) | (simp_all [regsPut_wf, State.clkAt]; omega))) (by (first | omega | (simp_all [regsPut_wf, State.clkAt]; done) | (simp_all [regsPut_wf, State.clkAt]; omega)))

theorem State.wakeEvent_tame {dr fu ck : Bool} {s₀ s : State} (h₀ : Tame dr fu ck s₀ s) (c : Nat) : Tame dr fu ck s₀ (State.wakeEvent s c) := by
  delta State.wakeEvent
  repeat' first
    | with_reducible assumption
    | refine fun _ => ?_
    | fail_if_no_progress lift_lets
    | (intro x; refine tame_cut (a := s₀) (x := x) ?_ ?_; subst x; rotate_left; (clear_value x; intro hx); rotate_right)
    | (intro x; subst x)
    | with_reducible apply State.fset_tame
    | fail_if_no_progress with_reducible apply Tame.upd
    | with_reducible apply tame_ite
    | with_reducible apply tame_ite_fst
    | with_reducible apply when_tame
    | with_reducible apply each_tame
    | with_reducible apply foldl_tame
    | with_reducible apply foldl_tame_fst
    | split
    | simp only [id_eq]
    | dsimp only
    | fail_if_no_progress with_reducible refine Tame.updFree ?_ (by first | omega | (simp; done) | (split <;> omega))
    | with_reducible apply Tame.updClkAt
    | fail_if_no_progress with_reducible refine Tame.updFuse ?_ (by first | omega | (simp; done) | (split <;> omega))
    | fail_if_no_progress with_reducible refine Tame.updClk ?_ (by (first | omega | (simp_all [regsPut_wf, State.clkAt]; done) | (simp_all [regsPut_wf, State.clkAt]; omega))) (by (first | omega | (simp_all [regsPut_wf, State.clkAt]; done) | (simp_all [regsPut_wf, State.clkAt]; omega))) (by (first | omega | (simp_all [regsPut_wf, State.clkAt]; done) | (simp_all [regsPut_wf, State.clkAt]; omega)))
    | fail_if_no_progress with_reducible refine Tame.updRegs ?_ (by (first | omega | (simp_all [regsPut_wf, State.clkAt]; done) | (simp_all [regsPut_wf, State.clkAt]; omega))) (by (first | omega | (simp_all [regsPut_wf, State.clkAt]; done) | (simp_all [regsPut_wf, State.clkAt]; omega)))
    | fail_if_no_progress with_reducible refine Tame.updDram ?_ (by (first | omega | (simp_all [regsPut_wf, State.clkAt]; done) | (simp_all [regsPut_wf, State.clkAt]; omega))) (by (first | omega | (simp_all [regsPut_wf, State.clkAt]; done) | (simp_all [regsPut_wf, State.clkAt]; omega))) (by (first | omega | (simp_all [regsPut_wf, State.clkAt]; done) | (simp_all [regsPut_wf, State.clkAt]; omega)))

theorem State.pendSet_tame {dr fu ck : Bool} {s₀ s : State} (h₀ : Tame dr fu ck s₀ s) (src inst : Nat) : Tame dr fu ck s₀ (State.pendSet s src inst) := by
  delta State.pendSet
  repeat' first
    | with_reducible assumption
    | refine fun _ => ?_
    | fail_if_no_progress lift_lets
    | (intro x; refine tame_cut (a := s₀) (x := x) ?_ ?_; subst x; rotate_left; (clear_value x; intro hx); rotate_right)
    | (intro x; subst x)
    | with_reducible apply State.fset_tame
    | fail_if_no_progress with_reducible apply Tame.upd
    | with_reducible apply tame_ite
    | with_reducible apply tame_ite_fst
    | with_reducible apply when_tame
    | with_reducible apply each_tame
    | with_reducible apply foldl_tame
    | with_reducible apply foldl_tame_fst
    | split
    | simp only [id_eq]
    | dsimp only
    | fail_if_no_progress with_reducible refine Tame.updFree ?_ (by first | omega | (simp; done) | (split <;> omega))
    | with_reducible apply Tame.updClkAt
    | fail_if_no_progress with_reducible refine Tame.updFuse ?_ (by first | omega | (simp; done) | (split <;> omega))
    | fail_if_no_progress with_reducible refine Tame.updClk ?_ (by (first | omega | (simp_all [regsPut_wf, State.clkAt]; done) | (simp_all [regsPut_wf, State.clkAt]; omega))) (by (first | omega | (simp_all [regsPut_wf, State.clkAt]; done) | (simp_all [regsPut_wf, State.clkAt]; omega))) (by (first | omega | (simp_all [regsPut_wf, State.clkAt]; done) | (simp_all [regsPut_wf, State.clkAt]; omega)))
    | fail_if_no_progress with_reducible refine Tame.updRegs ?_ (by (first | omega | (simp_all [regsPut_wf, State.clkAt]; done) | (simp_all [regsPut_wf, State.clkAt]; omega))) (by (first | omega | (simp_all [regsPut_wf, State.clkAt]; done) | (simp_all [regsPut_wf, State.clkAt]; omega)))
    | fail_if_no_progress with_reducible refine Tame.updDram ?_ (by (first | omega | (simp_all [regsPut_wf, State.clkAt]; done) | (simp_all [regsPut_wf, State.clkAt]; omega))) (by (first | omega | (simp_all [regsPut_wf, State.clkAt]; done) | (simp_all [regsPut_wf, State.clkAt]; omega))) (by (first | omega | (simp_all [regsPut_wf, State.clkAt]; done) | (simp_all [regsPut_wf, State.clkAt]; omega)))

theorem State.histAdd_tame {dr fu ck : Bool} {s₀ s : State} (h₀ : Tame dr fu ck s₀ s) (e : RaiseEv) (sev : Nat) : Tame dr fu ck s₀ (State.histAdd s e sev) := by
  delta State.histAdd
  repeat' first
    | with_reducible assumption
    | refine fun _ => ?_
    | fail_if_no_progress lift_lets
    | (intro x; refine tame_cut (a := s₀) (x := x) ?_ ?_; subst x; rotate_left; (clear_value x; intro hx); rotate_right)
    | (intro x; subst x)
    | with_reducible apply State.setRaw_tame
    | with_reducible apply State.fset_tame
    | with_reducible apply State.fadd_tame
    | fail_if_no_progress with_reducible apply Tame.upd
    | with_reducible apply tame_ite
    | with_reducible apply tame_ite_fst
    | with_reducible apply when_tame
    | with_reducible apply each_tame
    | with_reducible apply foldl_tame
    | with_reducible apply foldl_tame_fst
    | split
    | simp only [id_eq]
    | dsimp only
    | fail_if_no_progress with_reducible refine Tame.updFree ?_ (by first | omega | (simp; done) | (split <;> omega))
    | with_reducible apply Tame.updClkAt
    | fail_if_no_progress with_reducible refine Tame.updFuse ?_ (by first | omega | (simp; done) | (split <;> omega))
    | fail_if_no_progress with_reducible refine Tame.updClk ?_ (by (first | omega | (simp_all [regsPut_wf, State.clkAt]; done) | (simp_all [regsPut_wf, State.clkAt]; omega))) (by (first | omega | (simp_all [regsPut_wf, State.clkAt]; done) | (simp_all [regsPut_wf, State.clkAt]; omega))) (by (first | omega | (simp_all [regsPut_wf, State.clkAt]; done) | (simp_all [regsPut_wf, State.clkAt]; omega)))
    | fail_if_no_progress with_reducible refine Tame.updRegs ?_ (by (first | omega | (simp_all [regsPut_wf, State.clkAt]; done) | (simp_all [regsPut_wf, State.clkAt]; omega))) (by (first | omega | (simp_all [regsPut_wf, State.clkAt]; done) | (simp_all [regsPut_wf, State.clkAt]; omega)))
    | fail_if_no_progress with_reducible refine Tame.updDram ?_ (by (first | omega | (simp_all [regsPut_wf, State.clkAt]; done) | (simp_all [regsPut_wf, State.clkAt]; omega))) (by (first | omega | (simp_all [regsPut_wf, State.clkAt]; done) | (simp_all [regsPut_wf, State.clkAt]; omega))) (by (first | omega | (simp_all [regsPut_wf, State.clkAt]; done) | (simp_all [regsPut_wf, State.clkAt]; omega)))

theorem State.brakeActs_tame {dr fu ck : Bool} {s₀ s : State} (h₀ : Tame dr fu ck s₀ s) (e : RaiseEv) (sev : Nat) (isolate : Bool) : Tame dr fu ck s₀ (State.brakeActs s e sev isolate) := by
  delta State.brakeActs
  repeat' first
    | with_reducible assumption
    | refine fun _ => ?_
    | fail_if_no_progress lift_lets
    | (intro x; refine tame_cut (a := s₀) (x := x) ?_ ?_; subst x; rotate_left; (clear_value x; intro hx); rotate_right)
    | (intro x; subst x)
    | with_reducible apply State.wakeEvent_tame
    | fail_if_no_progress with_reducible apply Tame.upd
    | with_reducible apply tame_ite
    | with_reducible apply tame_ite_fst
    | with_reducible apply when_tame
    | with_reducible apply each_tame
    | with_reducible apply foldl_tame
    | with_reducible apply foldl_tame_fst
    | split
    | simp only [id_eq]
    | dsimp only
    | fail_if_no_progress with_reducible refine Tame.updFree ?_ (by first | omega | (simp; done) | (split <;> omega))
    | with_reducible apply Tame.updClkAt
    | fail_if_no_progress with_reducible refine Tame.updFuse ?_ (by first | omega | (simp; done) | (split <;> omega))
    | fail_if_no_progress with_reducible refine Tame.updClk ?_ (by (first | omega | (simp_all [regsPut_wf, State.clkAt]; done) | (simp_all [regsPut_wf, State.clkAt]; omega))) (by (first | omega | (simp_all [regsPut_wf, State.clkAt]; done) | (simp_all [regsPut_wf, State.clkAt]; omega))) (by (first | omega | (simp_all [regsPut_wf, State.clkAt]; done) | (simp_all [regsPut_wf, State.clkAt]; omega)))
    | fail_if_no_progress with_reducible refine Tame.updRegs ?_ (by (first | omega | (simp_all [regsPut_wf, State.clkAt]; done) | (simp_all [regsPut_wf, State.clkAt]; omega))) (by (first | omega | (simp_all [regsPut_wf, State.clkAt]; done) | (simp_all [regsPut_wf, State.clkAt]; omega)))
    | fail_if_no_progress with_reducible refine Tame.updDram ?_ (by (first | omega | (simp_all [regsPut_wf, State.clkAt]; done) | (simp_all [regsPut_wf, State.clkAt]; omega))) (by (first | omega | (simp_all [regsPut_wf, State.clkAt]; done) | (simp_all [regsPut_wf, State.clkAt]; omega))) (by (first | omega | (simp_all [regsPut_wf, State.clkAt]; done) | (simp_all [regsPut_wf, State.clkAt]; omega)))

theorem State.answer_tame {dr fu ck : Bool} {s₀ s : State} (h₀ : Tame dr fu ck s₀ s) (id code pmask mstat val : Nat) (cells : List Cell) : Tame dr fu ck s₀ (State.answer s id code pmask mstat val cells) := by
  delta State.answer
  repeat' first
    | with_reducible assumption
    | refine fun _ => ?_
    | fail_if_no_progress lift_lets
    | (intro x; refine tame_cut (a := s₀) (x := x) ?_ ?_; subst x; rotate_left; (clear_value x; intro hx); rotate_right)
    | (intro x; subst x)
    | with_reducible apply State.tallyCls_tame
    | fail_if_no_progress with_reducible apply Tame.upd
    | with_reducible apply tame_ite
    | with_reducible apply tame_ite_fst
    | with_reducible apply when_tame
    | with_reducible apply each_tame
    | with_reducible apply foldl_tame
    | with_reducible apply foldl_tame_fst
    | split
    | simp only [id_eq]
    | dsimp only
    | fail_if_no_progress with_reducible refine Tame.updFree ?_ (by first | omega | (simp; done) | (split <;> omega))
    | with_reducible apply Tame.updClkAt
    | fail_if_no_progress with_reducible refine Tame.updFuse ?_ (by first | omega | (simp; done) | (split <;> omega))
    | fail_if_no_progress with_reducible refine Tame.updClk ?_ (by (first | omega | (simp_all [regsPut_wf, State.clkAt]; done) | (simp_all [regsPut_wf, State.clkAt]; omega))) (by (first | omega | (simp_all [regsPut_wf, State.clkAt]; done) | (simp_all [regsPut_wf, State.clkAt]; omega))) (by (first | omega | (simp_all [regsPut_wf, State.clkAt]; done) | (simp_all [regsPut_wf, State.clkAt]; omega)))
    | fail_if_no_progress with_reducible refine Tame.updRegs ?_ (by (first | omega | (simp_all [regsPut_wf, State.clkAt]; done) | (simp_all [regsPut_wf, State.clkAt]; omega))) (by (first | omega | (simp_all [regsPut_wf, State.clkAt]; done) | (simp_all [regsPut_wf, State.clkAt]; omega)))
    | fail_if_no_progress with_reducible refine Tame.updDram ?_ (by (first | omega | (simp_all [regsPut_wf, State.clkAt]; done) | (simp_all [regsPut_wf, State.clkAt]; omega))) (by (first | omega | (simp_all [regsPut_wf, State.clkAt]; done) | (simp_all [regsPut_wf, State.clkAt]; omega))) (by (first | omega | (simp_all [regsPut_wf, State.clkAt]; done) | (simp_all [regsPut_wf, State.clkAt]; omega)))

theorem State.updReq_tame {dr fu ck : Bool} {s₀ s : State} (h₀ : Tame dr fu ck s₀ s) (id : Nat) (f : Req → Req) : Tame dr fu ck s₀ (State.updReq s id f) := by
  delta State.updReq
  repeat' first
    | with_reducible assumption
    | refine fun _ => ?_
    | fail_if_no_progress lift_lets
    | (intro x; refine tame_cut (a := s₀) (x := x) ?_ ?_; subst x; rotate_left; (clear_value x; intro hx); rotate_right)
    | (intro x; subst x)
    | fail_if_no_progress with_reducible apply Tame.upd
    | with_reducible apply tame_ite
    | with_reducible apply tame_ite_fst
    | with_reducible apply when_tame
    | with_reducible apply each_tame
    | with_reducible apply foldl_tame
    | with_reducible apply foldl_tame_fst
    | split
    | simp only [id_eq]
    | dsimp only
    | fail_if_no_progress with_reducible refine Tame.updFree ?_ (by first | omega | (simp; done) | (split <;> omega))
    | with_reducible apply Tame.updClkAt
    | fail_if_no_progress with_reducible refine Tame.updFuse ?_ (by first | omega | (simp; done) | (split <;> omega))
    | fail_if_no_progress with_reducible refine Tame.updClk ?_ (by (first | omega | (simp_all [regsPut_wf, State.clkAt]; done) | (simp_all [regsPut_wf, State.clkAt]; omega))) (by (first | omega | (simp_all [regsPut_wf, State.clkAt]; done) | (simp_all [regsPut_wf, State.clkAt]; omega))) (by (first | omega | (simp_all [regsPut_wf, State.clkAt]; done) | (simp_all [regsPut_wf, State.clkAt]; omega)))
    | fail_if_no_progress with_reducible refine Tame.updRegs ?_ (by (first | omega | (simp_all [regsPut_wf, State.clkAt]; done) | (simp_all [regsPut_wf, State.clkAt]; omega))) (by (first | omega | (simp_all [regsPut_wf, State.clkAt]; done) | (simp_all [regsPut_wf, State.clkAt]; omega)))
    | fail_if_no_progress with_reducible refine Tame.updDram ?_ (by (first | omega | (simp_all [regsPut_wf, State.clkAt]; done) | (simp_all [regsPut_wf, State.clkAt]; omega))) (by (first | omega | (simp_all [regsPut_wf, State.clkAt]; done) | (simp_all [regsPut_wf, State.clkAt]; omega))) (by (first | omega | (simp_all [regsPut_wf, State.clkAt]; done) | (simp_all [regsPut_wf, State.clkAt]; omega)))

theorem State.reap_tame {dr fu ck : Bool} {s₀ s : State} (h₀ : Tame dr fu ck s₀ s) (id : Nat) : Tame dr fu ck s₀ (State.reap s id) := by
  delta State.reap
  repeat' first
    | with_reducible assumption
    | refine fun _ => ?_
    | fail_if_no_progress lift_lets
    | (intro x; refine tame_cut (a := s₀) (x := x) ?_ ?_; subst x; rotate_left; (clear_value x; intro hx); rotate_right)
    | (intro x; subst x)
    | fail_if_no_progress with_reducible apply Tame.upd
    | with_reducible apply tame_ite
    | with_reducible apply tame_ite_fst
    | with_reducible apply when_tame
    | with_reducible apply each_tame
    | with_reducible apply foldl_tame
    | with_reducible apply foldl_tame_fst
    | split
    | simp only [id_eq]
    | dsimp only
    | fail_if_no_progress with_reducible refine Tame.updFree ?_ (by first | omega | (simp; done) | (split <;> omega))
    | with_reducible apply Tame.updClkAt
    | fail_if_no_progress with_reducible refine Tame.updFuse ?_ (by first | omega | (simp; done) | (split <;> omega))
    | fail_if_no_progress with_reducible refine Tame.updClk ?_ (by (first | omega | (simp_all [regsPut_wf, State.clkAt]; done) | (simp_all [regsPut_wf, State.clkAt]; omega))) (by (first | omega | (simp_all [regsPut_wf, State.clkAt]; done) | (simp_all [regsPut_wf, State.clkAt]; omega))) (by (first | omega | (simp_all [regsPut_wf, State.clkAt]; done) | (simp_all [regsPut_wf, State.clkAt]; omega)))
    | fail_if_no_progress with_reducible refine Tame.updRegs ?_ (by (first | omega | (simp_all [regsPut_wf, State.clkAt]; done) | (simp_all [regsPut_wf, State.clkAt]; omega))) (by (first | omega | (simp_all [regsPut_wf, State.clkAt]; done) | (simp_all [regsPut_wf, State.clkAt]; omega)))
    | fail_if_no_progress with_reducible refine Tame.updDram ?_ (by (first | omega | (simp_all [regsPut_wf, State.clkAt]; done) | (simp_all [regsPut_wf, State.clkAt]; omega))) (by (first | omega | (simp_all [regsPut_wf, State.clkAt]; done) | (simp_all [regsPut_wf, State.clkAt]; omega))) (by (first | omega | (simp_all [regsPut_wf, State.clkAt]; done) | (simp_all [regsPut_wf, State.clkAt]; omega)))

theorem State.bindCell_tame {dr fu ck : Bool} {s₀ s : State} (h₀ : Tame dr fu ck s₀ s) (id k : Nat) (c : Cell) (psn : Bool) : Tame dr fu ck s₀ (State.bindCell s id k c psn) := by
  delta State.bindCell
  repeat' first
    | with_reducible assumption
    | refine fun _ => ?_
    | fail_if_no_progress lift_lets
    | (intro x; refine tame_cut (a := s₀) (x := x) ?_ ?_; subst x; rotate_left; (clear_value x; intro hx); rotate_right)
    | (intro x; subst x)
    | with_reducible apply State.answer_tame
    | with_reducible apply State.updReq_tame
    | with_reducible apply State.reap_tame
    | fail_if_no_progress with_reducible apply Tame.upd
    | with_reducible apply tame_ite
    | with_reducible apply tame_ite_fst
    | with_reducible apply when_tame
    | with_reducible apply each_tame
    | with_reducible apply foldl_tame
    | with_reducible apply foldl_tame_fst
    | split
    | simp only [id_eq]
    | dsimp only
    | fail_if_no_progress with_reducible refine Tame.updFree ?_ (by first | omega | (simp; done) | (split <;> omega))
    | with_reducible apply Tame.updClkAt
    | fail_if_no_progress with_reducible refine Tame.updFuse ?_ (by first | omega | (simp; done) | (split <;> omega))
    | fail_if_no_progress with_reducible refine Tame.updClk ?_ (by (first | omega | (simp_all [regsPut_wf, State.clkAt]; done) | (simp_all [regsPut_wf, State.clkAt]; omega))) (by (first | omega | (simp_all [regsPut_wf, State.clkAt]; done) | (simp_all [regsPut_wf, State.clkAt]; omega))) (by (first | omega | (simp_all [regsPut_wf, State.clkAt]; done) | (simp_all [regsPut_wf, State.clkAt]; omega)))
    | fail_if_no_progress with_reducible refine Tame.updRegs ?_ (by (first | omega | (simp_all [regsPut_wf, State.clkAt]; done) | (simp_all [regsPut_wf, State.clkAt]; omega))) (by (first | omega | (simp_all [regsPut_wf, State.clkAt]; done) | (simp_all [regsPut_wf, State.clkAt]; omega)))
    | fail_if_no_progress with_reducible refine Tame.updDram ?_ (by (first | omega | (simp_all [regsPut_wf, State.clkAt]; done) | (simp_all [regsPut_wf, State.clkAt]; omega))) (by (first | omega | (simp_all [regsPut_wf, State.clkAt]; done) | (simp_all [regsPut_wf, State.clkAt]; omega))) (by (first | omega | (simp_all [regsPut_wf, State.clkAt]; done) | (simp_all [regsPut_wf, State.clkAt]; omega)))

theorem State.endReq_tame {dr fu ck : Bool} {s₀ s : State} (h₀ : Tame dr fu ck s₀ s) (id code : Nat) (ph : ReqPhase) : Tame dr fu ck s₀ (State.endReq s id code ph) := by
  delta State.endReq
  repeat' first
    | with_reducible assumption
    | refine fun _ => ?_
    | fail_if_no_progress lift_lets
    | (intro x; refine tame_cut (a := s₀) (x := x) ?_ ?_; subst x; rotate_left; (clear_value x; intro hx); rotate_right)
    | (intro x; subst x)
    | with_reducible apply State.answer_tame
    | with_reducible apply State.updReq_tame
    | with_reducible apply State.reap_tame
    | fail_if_no_progress with_reducible apply Tame.upd
    | with_reducible apply tame_ite
    | with_reducible apply tame_ite_fst
    | with_reducible apply when_tame
    | with_reducible apply each_tame
    | with_reducible apply foldl_tame
    | with_reducible apply foldl_tame_fst
    | split
    | simp only [id_eq]
    | dsimp only
    | fail_if_no_progress with_reducible refine Tame.updFree ?_ (by first | omega | (simp; done) | (split <;> omega))
    | with_reducible apply Tame.updClkAt
    | fail_if_no_progress with_reducible refine Tame.updFuse ?_ (by first | omega | (simp; done) | (split <;> omega))
    | fail_if_no_progress with_reducible refine Tame.updClk ?_ (by (first | omega | (simp_all [regsPut_wf, State.clkAt]; done) | (simp_all [regsPut_wf, State.clkAt]; omega))) (by (first | omega | (simp_all [regsPut_wf, State.clkAt]; done) | (simp_all [regsPut_wf, State.clkAt]; omega))) (by (first | omega | (simp_all [regsPut_wf, State.clkAt]; done) | (simp_all [regsPut_wf, State.clkAt]; omega)))
    | fail_if_no_progress with_reducible refine Tame.updRegs ?_ (by (first | omega | (simp_all [regsPut_wf, State.clkAt]; done) | (simp_all [regsPut_wf, State.clkAt]; omega))) (by (first | omega | (simp_all [regsPut_wf, State.clkAt]; done) | (simp_all [regsPut_wf, State.clkAt]; omega)))
    | fail_if_no_progress with_reducible refine Tame.updDram ?_ (by (first | omega | (simp_all [regsPut_wf, State.clkAt]; done) | (simp_all [regsPut_wf, State.clkAt]; omega))) (by (first | omega | (simp_all [regsPut_wf, State.clkAt]; done) | (simp_all [regsPut_wf, State.clkAt]; omega))) (by (first | omega | (simp_all [regsPut_wf, State.clkAt]; done) | (simp_all [regsPut_wf, State.clkAt]; omega)))

theorem State.clearResv_tame {dr fu ck : Bool} {s₀ s : State} (h₀ : Tame dr fu ck s₀ s) (p : Nat → Resv → Bool) : Tame dr fu ck s₀ (State.clearResv s p) := by
  delta State.clearResv
  repeat' first
    | with_reducible assumption
    | refine fun _ => ?_
    | fail_if_no_progress lift_lets
    | (intro x; refine tame_cut (a := s₀) (x := x) ?_ ?_; subst x; rotate_left; (clear_value x; intro hx); rotate_right)
    | (intro x; subst x)
    | fail_if_no_progress with_reducible apply Tame.upd
    | with_reducible apply tame_ite
    | with_reducible apply tame_ite_fst
    | with_reducible apply when_tame
    | with_reducible apply each_tame
    | with_reducible apply foldl_tame
    | with_reducible apply foldl_tame_fst
    | split
    | simp only [id_eq]
    | dsimp only
    | fail_if_no_progress with_reducible refine Tame.updFree ?_ (by first | omega | (simp; done) | (split <;> omega))
    | with_reducible apply Tame.updClkAt
    | fail_if_no_progress with_reducible refine Tame.updFuse ?_ (by first | omega | (simp; done) | (split <;> omega))
    | fail_if_no_progress with_reducible refine Tame.updClk ?_ (by (first | omega | (simp_all [regsPut_wf, State.clkAt]; done) | (simp_all [regsPut_wf, State.clkAt]; omega))) (by (first | omega | (simp_all [regsPut_wf, State.clkAt]; done) | (simp_all [regsPut_wf, State.clkAt]; omega))) (by (first | omega | (simp_all [regsPut_wf, State.clkAt]; done) | (simp_all [regsPut_wf, State.clkAt]; omega)))
    | fail_if_no_progress with_reducible refine Tame.updRegs ?_ (by (first | omega | (simp_all [regsPut_wf, State.clkAt]; done) | (simp_all [regsPut_wf, State.clkAt]; omega))) (by (first | omega | (simp_all [regsPut_wf, State.clkAt]; done) | (simp_all [regsPut_wf, State.clkAt]; omega)))
    | fail_if_no_progress with_reducible refine Tame.updDram ?_ (by (first | omega | (simp_all [regsPut_wf, State.clkAt]; done) | (simp_all [regsPut_wf, State.clkAt]; omega))) (by (first | omega | (simp_all [regsPut_wf, State.clkAt]; done) | (simp_all [regsPut_wf, State.clkAt]; omega))) (by (first | omega | (simp_all [regsPut_wf, State.clkAt]; done) | (simp_all [regsPut_wf, State.clkAt]; omega)))

theorem State.touch_tame {dr fu ck : Bool} {s₀ s : State} (h₀ : Tame dr fu ck s₀ s) (a : Nat) : Tame dr fu ck s₀ (State.touch s a) := by
  delta State.touch
  repeat' first
    | with_reducible assumption
    | refine fun _ => ?_
    | fail_if_no_progress lift_lets
    | (intro x; refine tame_cut (a := s₀) (x := x) ?_ ?_; subst x; rotate_left; (clear_value x; intro hx); rotate_right)
    | (intro x; subst x)
    | with_reducible apply State.clearResv_tame
    | fail_if_no_progress with_reducible apply Tame.upd
    | with_reducible apply tame_ite
    | with_reducible apply tame_ite_fst
    | with_reducible apply when_tame
    | with_reducible apply each_tame
    | with_reducible apply foldl_tame
    | with_reducible apply foldl_tame_fst
    | split
    | simp only [id_eq]
    | dsimp only
    | fail_if_no_progress with_reducible refine Tame.updFree ?_ (by first | omega | (simp; done) | (split <;> omega))
    | with_reducible apply Tame.updClkAt
    | fail_if_no_progress with_reducible refine Tame.updFuse ?_ (by first | omega | (simp; done) | (split <;> omega))
    | fail_if_no_progress with_reducible refine Tame.updClk ?_ (by (first | omega | (simp_all [regsPut_wf, State.clkAt]; done) | (simp_all [regsPut_wf, State.clkAt]; omega))) (by (first | omega | (simp_all [regsPut_wf, State.clkAt]; done) | (simp_all [regsPut_wf, State.clkAt]; omega))) (by (first | omega | (simp_all [regsPut_wf, State.clkAt]; done) | (simp_all [regsPut_wf, State.clkAt]; omega)))
    | fail_if_no_progress with_reducible refine Tame.updRegs ?_ (by (first | omega | (simp_all [regsPut_wf, State.clkAt]; done) | (simp_all [regsPut_wf, State.clkAt]; omega))) (by (first | omega | (simp_all [regsPut_wf, State.clkAt]; done) | (simp_all [regsPut_wf, State.clkAt]; omega)))
    | fail_if_no_progress with_reducible refine Tame.updDram ?_ (by (first | omega | (simp_all [regsPut_wf, State.clkAt]; done) | (simp_all [regsPut_wf, State.clkAt]; omega))) (by (first | omega | (simp_all [regsPut_wf, State.clkAt]; done) | (simp_all [regsPut_wf, State.clkAt]; omega))) (by (first | omega | (simp_all [regsPut_wf, State.clkAt]; done) | (simp_all [regsPut_wf, State.clkAt]; omega)))

theorem dram_store_cells (d : Dram) (n blk : Nat) (w : Codeword) (h : d.cells.wf = true) : (d.store n blk w).cells.wf = true := by
  unfold Dram.store
  dsimp only
  split
  · exact Tbl.wf_del _ _ h
  · exact Tbl.wf_ins _ _ _ h
theorem State.storeCell_tame {fu : Bool} {s₀ s : State} (h₀ : Tame false fu false s₀ s) (a : Nat) (w : Codeword) : Tame false fu false s₀ (s.storeCell a w) :=
  Tame.updDram h₀ (dram_store_cells _ _ _ _) id id

theorem State.zeroBlock_tame {fu ck : Bool} {s₀ s : State} (h₀ : Tame false fu ck s₀ s) (blk epoch : Nat) : Tame false fu ck s₀ (State.zeroBlock s blk epoch) := by
  delta State.zeroBlock
  repeat' first
    | with_reducible assumption
    | refine fun _ => ?_
    | fail_if_no_progress lift_lets
    | (intro x; refine tame_cut (a := s₀) (x := x) ?_ ?_; subst x; rotate_left; (clear_value x; intro hx); rotate_right)
    | (intro x; subst x)
    | fail_if_no_progress with_reducible apply Tame.upd
    | with_reducible apply tame_ite
    | with_reducible apply tame_ite_fst
    | with_reducible apply when_tame
    | with_reducible apply each_tame
    | with_reducible apply foldl_tame
    | with_reducible apply foldl_tame_fst
    | split
    | simp only [id_eq]
    | dsimp only
    | fail_if_no_progress with_reducible refine Tame.updFree ?_ (by first | omega | (simp; done) | (split <;> omega))
    | with_reducible apply Tame.updClkAt
    | fail_if_no_progress with_reducible refine Tame.updFuse ?_ (by first | omega | (simp; done) | (split <;> omega))
    | fail_if_no_progress with_reducible refine Tame.updClk ?_ (by (first | omega | (simp_all [regsPut_wf, State.clkAt]; done) | (simp_all [regsPut_wf, State.clkAt]; omega))) (by (first | omega | (simp_all [regsPut_wf, State.clkAt]; done) | (simp_all [regsPut_wf, State.clkAt]; omega))) (by (first | omega | (simp_all [regsPut_wf, State.clkAt]; done) | (simp_all [regsPut_wf, State.clkAt]; omega)))
    | fail_if_no_progress with_reducible refine Tame.updRegs ?_ (by (first | omega | (simp_all [regsPut_wf, State.clkAt]; done) | (simp_all [regsPut_wf, State.clkAt]; omega))) (by (first | omega | (simp_all [regsPut_wf, State.clkAt]; done) | (simp_all [regsPut_wf, State.clkAt]; omega)))
    | fail_if_no_progress with_reducible refine Tame.updDram ?_ (by (first | omega | (simp_all [regsPut_wf, State.clkAt]; done) | (simp_all [regsPut_wf, State.clkAt]; omega))) (by (first | omega | (simp_all [regsPut_wf, State.clkAt]; done) | (simp_all [regsPut_wf, State.clkAt]; omega))) (by (first | omega | (simp_all [regsPut_wf, State.clkAt]; done) | (simp_all [regsPut_wf, State.clkAt]; omega)))

theorem State.dirtyAt_tame {dr fu ck : Bool} {s₀ s : State} (h₀ : Tame dr fu ck s₀ s) (a : Nat) : Tame dr fu ck s₀ (State.dirtyAt s a) := by
  delta State.dirtyAt
  repeat' first
    | with_reducible assumption
    | refine fun _ => ?_
    | fail_if_no_progress lift_lets
    | (intro x; refine tame_cut (a := s₀) (x := x) ?_ ?_; subst x; rotate_left; (clear_value x; intro hx); rotate_right)
    | (intro x; subst x)
    | fail_if_no_progress with_reducible apply Tame.upd
    | with_reducible apply tame_ite
    | with_reducible apply tame_ite_fst
    | with_reducible apply when_tame
    | with_reducible apply each_tame
    | with_reducible apply foldl_tame
    | with_reducible apply foldl_tame_fst
    | split
    | simp only [id_eq]
    | dsimp only
    | fail_if_no_progress with_reducible refine Tame.updFree ?_ (by first | omega | (simp; done) | (split <;> omega))
    | with_reducible apply Tame.updClkAt
    | fail_if_no_progress with_reducible refine Tame.updFuse ?_ (by first | omega | (simp; done) | (split <;> omega))
    | fail_if_no_progress with_reducible refine Tame.updClk ?_ (by (first | omega | (simp_all [regsPut_wf, State.clkAt]; done) | (simp_all [regsPut_wf, State.clkAt]; omega))) (by (first | omega | (simp_all [regsPut_wf, State.clkAt]; done) | (simp_all [regsPut_wf, State.clkAt]; omega))) (by (first | omega | (simp_all [regsPut_wf, State.clkAt]; done) | (simp_all [regsPut_wf, State.clkAt]; omega)))
    | fail_if_no_progress with_reducible refine Tame.updRegs ?_ (by (first | omega | (simp_all [regsPut_wf, State.clkAt]; done) | (simp_all [regsPut_wf, State.clkAt]; omega))) (by (first | omega | (simp_all [regsPut_wf, State.clkAt]; done) | (simp_all [regsPut_wf, State.clkAt]; omega)))
    | fail_if_no_progress with_reducible refine Tame.updDram ?_ (by (first | omega | (simp_all [regsPut_wf, State.clkAt]; done) | (simp_all [regsPut_wf, State.clkAt]; omega))) (by (first | omega | (simp_all [regsPut_wf, State.clkAt]; done) | (simp_all [regsPut_wf, State.clkAt]; omega))) (by (first | omega | (simp_all [regsPut_wf, State.clkAt]; done) | (simp_all [regsPut_wf, State.clkAt]; omega)))

theorem State.faultAll_tame {dr fu ck : Bool} {s₀ s : State} (h₀ : Tame dr fu ck s₀ s) : Tame dr fu ck s₀ (State.faultAll s) := by
  delta State.faultAll
  repeat' first
    | with_reducible assumption
    | refine fun _ => ?_
    | fail_if_no_progress lift_lets
    | (intro x; refine tame_cut (a := s₀) (x := x) ?_ ?_; subst x; rotate_left; (clear_value x; intro hx); rotate_right)
    | (intro x; subst x)
    | with_reducible apply State.answer_tame
    | with_reducible apply State.updReq_tame
    | with_reducible apply State.reap_tame
    | fail_if_no_progress with_reducible apply Tame.upd
    | with_reducible apply tame_ite
    | with_reducible apply tame_ite_fst
    | with_reducible apply when_tame
    | with_reducible apply each_tame
    | with_reducible apply foldl_tame
    | with_reducible apply foldl_tame_fst
    | split
    | simp only [id_eq]
    | dsimp only
    | fail_if_no_progress with_reducible refine Tame.updFree ?_ (by first | omega | (simp; done) | (split <;> omega))
    | with_reducible apply Tame.updClkAt
    | fail_if_no_progress with_reducible refine Tame.updFuse ?_ (by first | omega | (simp; done) | (split <;> omega))
    | fail_if_no_progress with_reducible refine Tame.updClk ?_ (by (first | omega | (simp_all [regsPut_wf, State.clkAt]; done) | (simp_all [regsPut_wf, State.clkAt]; omega))) (by (first | omega | (simp_all [regsPut_wf, State.clkAt]; done) | (simp_all [regsPut_wf, State.clkAt]; omega))) (by (first | omega | (simp_all [regsPut_wf, State.clkAt]; done) | (simp_all [regsPut_wf, State.clkAt]; omega)))
    | fail_if_no_progress with_reducible refine Tame.updRegs ?_ (by (first | omega | (simp_all [regsPut_wf, State.clkAt]; done) | (simp_all [regsPut_wf, State.clkAt]; omega))) (by (first | omega | (simp_all [regsPut_wf, State.clkAt]; done) | (simp_all [regsPut_wf, State.clkAt]; omega)))
    | fail_if_no_progress with_reducible refine Tame.updDram ?_ (by (first | omega | (simp_all [regsPut_wf, State.clkAt]; done) | (simp_all [regsPut_wf, State.clkAt]; omega))) (by (first | omega | (simp_all [regsPut_wf, State.clkAt]; done) | (simp_all [regsPut_wf, State.clkAt]; omega))) (by (first | omega | (simp_all [regsPut_wf, State.clkAt]; done) | (simp_all [regsPut_wf, State.clkAt]; omega)))

theorem State.stopRetrain_tame {dr fu ck : Bool} {s₀ s : State} (h₀ : Tame dr fu ck s₀ s) (r : Nat) : Tame dr fu ck s₀ (State.stopRetrain s r) := by
  delta State.stopRetrain
  repeat' first
    | with_reducible assumption
    | refine fun _ => ?_
    | fail_if_no_progress lift_lets
    | (intro x; refine tame_cut (a := s₀) (x := x) ?_ ?_; subst x; rotate_left; (clear_value x; intro hx); rotate_right)
    | (intro x; subst x)
    | with_reducible apply State.fset_tame
    | with_reducible apply State.setRace_tame
    | with_reducible apply State.setFan_tame
    | fail_if_no_progress with_reducible apply Tame.upd
    | with_reducible apply tame_ite
    | with_reducible apply tame_ite_fst
    | with_reducible apply when_tame
    | with_reducible apply each_tame
    | with_reducible apply foldl_tame
    | with_reducible apply foldl_tame_fst
    | split
    | simp only [id_eq]
    | dsimp only
    | fail_if_no_progress with_reducible refine Tame.updFree ?_ (by first | omega | (simp; done) | (split <;> omega))
    | with_reducible apply Tame.updClkAt
    | fail_if_no_progress with_reducible refine Tame.updFuse ?_ (by first | omega | (simp; done) | (split <;> omega))
    | fail_if_no_progress with_reducible refine Tame.updClk ?_ (by (first | omega | (simp_all [regsPut_wf, State.clkAt]; done) | (simp_all [regsPut_wf, State.clkAt]; omega))) (by (first | omega | (simp_all [regsPut_wf, State.clkAt]; done) | (simp_all [regsPut_wf, State.clkAt]; omega))) (by (first | omega | (simp_all [regsPut_wf, State.clkAt]; done) | (simp_all [regsPut_wf, State.clkAt]; omega)))
    | fail_if_no_progress with_reducible refine Tame.updRegs ?_ (by (first | omega | (simp_all [regsPut_wf, State.clkAt]; done) | (simp_all [regsPut_wf, State.clkAt]; omega))) (by (first | omega | (simp_all [regsPut_wf, State.clkAt]; done) | (simp_all [regsPut_wf, State.clkAt]; omega)))
    | fail_if_no_progress with_reducible refine Tame.updDram ?_ (by (first | omega | (simp_all [regsPut_wf, State.clkAt]; done) | (simp_all [regsPut_wf, State.clkAt]; omega))) (by (first | omega | (simp_all [regsPut_wf, State.clkAt]; done) | (simp_all [regsPut_wf, State.clkAt]; omega))) (by (first | omega | (simp_all [regsPut_wf, State.clkAt]; done) | (simp_all [regsPut_wf, State.clkAt]; omega)))

theorem State.stopRetrains_tame {dr fu ck : Bool} {s₀ s : State} (h₀ : Tame dr fu ck s₀ s) : Tame dr fu ck s₀ (State.stopRetrains s) := by
  delta State.stopRetrains
  repeat' first
    | with_reducible assumption
    | refine fun _ => ?_
    | fail_if_no_progress lift_lets
    | (intro x; refine tame_cut (a := s₀) (x := x) ?_ ?_; subst x; rotate_left; (clear_value x; intro hx); rotate_right)
    | (intro x; subst x)
    | with_reducible apply State.stopRetrain_tame
    | fail_if_no_progress with_reducible apply Tame.upd
    | with_reducible apply tame_ite
    | with_reducible apply tame_ite_fst
    | with_reducible apply when_tame
    | with_reducible apply each_tame
    | with_reducible apply foldl_tame
    | with_reducible apply foldl_tame_fst
    | split
    | simp only [id_eq]
    | dsimp only
    | fail_if_no_progress with_reducible refine Tame.updFree ?_ (by first | omega | (simp; done) | (split <;> omega))
    | with_reducible apply Tame.updClkAt
    | fail_if_no_progress with_reducible refine Tame.updFuse ?_ (by first | omega | (simp; done) | (split <;> omega))
    | fail_if_no_progress with_reducible refine Tame.updClk ?_ (by (first | omega | (simp_all [regsPut_wf, State.clkAt]; done) | (simp_all [regsPut_wf, State.clkAt]; omega))) (by (first | omega | (simp_all [regsPut_wf, State.clkAt]; done) | (simp_all [regsPut_wf, State.clkAt]; omega))) (by (first | omega | (simp_all [regsPut_wf, State.clkAt]; done) | (simp_all [regsPut_wf, State.clkAt]; omega)))
    | fail_if_no_progress with_reducible refine Tame.updRegs ?_ (by (first | omega | (simp_all [regsPut_wf, State.clkAt]; done) | (simp_all [regsPut_wf, State.clkAt]; omega))) (by (first | omega | (simp_all [regsPut_wf, State.clkAt]; done) | (simp_all [regsPut_wf, State.clkAt]; omega)))
    | fail_if_no_progress with_reducible refine Tame.updDram ?_ (by (first | omega | (simp_all [regsPut_wf, State.clkAt]; done) | (simp_all [regsPut_wf, State.clkAt]; omega))) (by (first | omega | (simp_all [regsPut_wf, State.clkAt]; done) | (simp_all [regsPut_wf, State.clkAt]; omega))) (by (first | omega | (simp_all [regsPut_wf, State.clkAt]; done) | (simp_all [regsPut_wf, State.clkAt]; omega)))

theorem State.enterSafe_tame {dr fu ck : Bool} {s₀ s : State} (h₀ : Tame dr fu ck s₀ s) (e : RaiseEv) : Tame dr fu ck s₀ (State.enterSafe s e) := by
  delta State.enterSafe
  repeat' first
    | with_reducible assumption
    | refine fun _ => ?_
    | fail_if_no_progress lift_lets
    | (intro x; refine tame_cut (a := s₀) (x := x) ?_ ?_; subst x; rotate_left; (clear_value x; intro hx); rotate_right)
    | (intro x; subst x)
    | with_reducible apply State.setRaw_tame
    | with_reducible apply State.fset_tame
    | with_reducible apply State.faultAll_tame
    | with_reducible apply State.stopRetrains_tame
    | fail_if_no_progress with_reducible apply Tame.upd
    | with_reducible apply tame_ite
    | with_reducible apply tame_ite_fst
    | with_reducible apply when_tame
    | with_reducible apply each_tame
    | with_reducible apply foldl_tame
    | with_reducible apply foldl_tame_fst
    | split
    | simp only [id_eq]
    | dsimp only
    | fail_if_no_progress with_reducible refine Tame.updFree ?_ (by first | omega | (simp; done) | (split <;> omega))
    | with_reducible apply Tame.updClkAt
    | fail_if_no_progress with_reducible refine Tame.updFuse ?_ (by first | omega | (simp; done) | (split <;> omega))
    | fail_if_no_progress with_reducible refine Tame.updClk ?_ (by (first | omega | (simp_all [regsPut_wf, State.clkAt]; done) | (simp_all [regsPut_wf, State.clkAt]; omega))) (by (first | omega | (simp_all [regsPut_wf, State.clkAt]; done) | (simp_all [regsPut_wf, State.clkAt]; omega))) (by (first | omega | (simp_all [regsPut_wf, State.clkAt]; done) | (simp_all [regsPut_wf, State.clkAt]; omega)))
    | fail_if_no_progress with_reducible refine Tame.updRegs ?_ (by (first | omega | (simp_all [regsPut_wf, State.clkAt]; done) | (simp_all [regsPut_wf, State.clkAt]; omega))) (by (first | omega | (simp_all [regsPut_wf, State.clkAt]; done) | (simp_all [regsPut_wf, State.clkAt]; omega)))
    | fail_if_no_progress with_reducible refine Tame.updDram ?_ (by (first | omega | (simp_all [regsPut_wf, State.clkAt]; done) | (simp_all [regsPut_wf, State.clkAt]; omega))) (by (first | omega | (simp_all [regsPut_wf, State.clkAt]; done) | (simp_all [regsPut_wf, State.clkAt]; omega))) (by (first | omega | (simp_all [regsPut_wf, State.clkAt]; done) | (simp_all [regsPut_wf, State.clkAt]; omega)))

theorem State.flumeClose_tame {dr fu ck : Bool} {s₀ s : State} (h₀ : Tame dr fu ck s₀ s) (p : FlumeEnt → Bool) : Tame dr fu ck s₀ (State.flumeClose s p) := by
  delta State.flumeClose
  repeat' first
    | with_reducible assumption
    | refine fun _ => ?_
    | fail_if_no_progress lift_lets
    | (intro x; refine tame_cut (a := s₀) (x := x) ?_ ?_; subst x; rotate_left; (clear_value x; intro hx); rotate_right)
    | (intro x; subst x)
    | fail_if_no_progress with_reducible apply Tame.upd
    | with_reducible apply tame_ite
    | with_reducible apply tame_ite_fst
    | with_reducible apply when_tame
    | with_reducible apply each_tame
    | with_reducible apply foldl_tame
    | with_reducible apply foldl_tame_fst
    | split
    | simp only [id_eq]
    | dsimp only
    | fail_if_no_progress with_reducible refine Tame.updFree ?_ (by first | omega | (simp; done) | (split <;> omega))
    | with_reducible apply Tame.updClkAt
    | fail_if_no_progress with_reducible refine Tame.updFuse ?_ (by first | omega | (simp; done) | (split <;> omega))
    | fail_if_no_progress with_reducible refine Tame.updClk ?_ (by (first | omega | (simp_all [regsPut_wf, State.clkAt]; done) | (simp_all [regsPut_wf, State.clkAt]; omega))) (by (first | omega | (simp_all [regsPut_wf, State.clkAt]; done) | (simp_all [regsPut_wf, State.clkAt]; omega))) (by (first | omega | (simp_all [regsPut_wf, State.clkAt]; done) | (simp_all [regsPut_wf, State.clkAt]; omega)))
    | fail_if_no_progress with_reducible refine Tame.updRegs ?_ (by (first | omega | (simp_all [regsPut_wf, State.clkAt]; done) | (simp_all [regsPut_wf, State.clkAt]; omega))) (by (first | omega | (simp_all [regsPut_wf, State.clkAt]; done) | (simp_all [regsPut_wf, State.clkAt]; omega)))
    | fail_if_no_progress with_reducible refine Tame.updDram ?_ (by (first | omega | (simp_all [regsPut_wf, State.clkAt]; done) | (simp_all [regsPut_wf, State.clkAt]; omega))) (by (first | omega | (simp_all [regsPut_wf, State.clkAt]; done) | (simp_all [regsPut_wf, State.clkAt]; omega))) (by (first | omega | (simp_all [regsPut_wf, State.clkAt]; done) | (simp_all [regsPut_wf, State.clkAt]; omega)))

theorem State.onAccept_tame {dr fu ck : Bool} {s₀ s : State} (h₀ : Tame dr fu ck s₀ s) (q : Req) : Tame dr fu ck s₀ (State.onAccept s q) := by
  delta State.onAccept
  repeat' first
    | with_reducible assumption
    | refine fun _ => ?_
    | fail_if_no_progress lift_lets
    | (intro x; refine tame_cut (a := s₀) (x := x) ?_ ?_; subst x; rotate_left; (clear_value x; intro hx); rotate_right)
    | (intro x; subst x)
    | with_reducible apply State.flumeClose_tame
    | fail_if_no_progress with_reducible apply Tame.upd
    | with_reducible apply tame_ite
    | with_reducible apply tame_ite_fst
    | with_reducible apply when_tame
    | with_reducible apply each_tame
    | with_reducible apply foldl_tame
    | with_reducible apply foldl_tame_fst
    | split
    | simp only [id_eq]
    | dsimp only
    | fail_if_no_progress with_reducible refine Tame.updFree ?_ (by first | omega | (simp; done) | (split <;> omega))
    | with_reducible apply Tame.updClkAt
    | fail_if_no_progress with_reducible refine Tame.updFuse ?_ (by first | omega | (simp; done) | (split <;> omega))
    | fail_if_no_progress with_reducible refine Tame.updClk ?_ (by (first | omega | (simp_all [regsPut_wf, State.clkAt]; done) | (simp_all [regsPut_wf, State.clkAt]; omega))) (by (first | omega | (simp_all [regsPut_wf, State.clkAt]; done) | (simp_all [regsPut_wf, State.clkAt]; omega))) (by (first | omega | (simp_all [regsPut_wf, State.clkAt]; done) | (simp_all [regsPut_wf, State.clkAt]; omega)))
    | fail_if_no_progress with_reducible refine Tame.updRegs ?_ (by (first | omega | (simp_all [regsPut_wf, State.clkAt]; done) | (simp_all [regsPut_wf, State.clkAt]; omega))) (by (first | omega | (simp_all [regsPut_wf, State.clkAt]; done) | (simp_all [regsPut_wf, State.clkAt]; omega)))
    | fail_if_no_progress with_reducible refine Tame.updDram ?_ (by (first | omega | (simp_all [regsPut_wf, State.clkAt]; done) | (simp_all [regsPut_wf, State.clkAt]; omega))) (by (first | omega | (simp_all [regsPut_wf, State.clkAt]; done) | (simp_all [regsPut_wf, State.clkAt]; omega))) (by (first | omega | (simp_all [regsPut_wf, State.clkAt]; done) | (simp_all [regsPut_wf, State.clkAt]; omega)))

theorem State.causeOn_tame {dr fu ck : Bool} {s₀ s : State} (h₀ : Tame dr fu ck s₀ s) (e : RaiseEv) : Tame dr fu ck s₀ (State.causeOn s e) := by
  delta State.causeOn
  repeat' first
    | with_reducible assumption
    | refine fun _ => ?_
    | fail_if_no_progress lift_lets
    | (intro x; refine tame_cut (a := s₀) (x := x) ?_ ?_; subst x; rotate_left; (clear_value x; intro hx); rotate_right)
    | (intro x; subst x)
    | fail_if_no_progress with_reducible apply Tame.upd
    | with_reducible apply tame_ite
    | with_reducible apply tame_ite_fst
    | with_reducible apply when_tame
    | with_reducible apply each_tame
    | with_reducible apply foldl_tame
    | with_reducible apply foldl_tame_fst
    | split
    | simp only [id_eq]
    | dsimp only
    | fail_if_no_progress with_reducible refine Tame.updFree ?_ (by first | omega | (simp; done) | (split <;> omega))
    | with_reducible apply Tame.updClkAt
    | fail_if_no_progress with_reducible refine Tame.updFuse ?_ (by first | omega | (simp; done) | (split <;> omega))
    | fail_if_no_progress with_reducible refine Tame.updClk ?_ (by (first | omega | (simp_all [regsPut_wf, State.clkAt]; done) | (simp_all [regsPut_wf, State.clkAt]; omega))) (by (first | omega | (simp_all [regsPut_wf, State.clkAt]; done) | (simp_all [regsPut_wf, State.clkAt]; omega))) (by (first | omega | (simp_all [regsPut_wf, State.clkAt]; done) | (simp_all [regsPut_wf, State.clkAt]; omega)))
    | fail_if_no_progress with_reducible refine Tame.updRegs ?_ (by (first | omega | (simp_all [regsPut_wf, State.clkAt]; done) | (simp_all [regsPut_wf, State.clkAt]; omega))) (by (first | omega | (simp_all [regsPut_wf, State.clkAt]; done) | (simp_all [regsPut_wf, State.clkAt]; omega)))
    | fail_if_no_progress with_reducible refine Tame.updDram ?_ (by (first | omega | (simp_all [regsPut_wf, State.clkAt]; done) | (simp_all [regsPut_wf, State.clkAt]; omega))) (by (first | omega | (simp_all [regsPut_wf, State.clkAt]; done) | (simp_all [regsPut_wf, State.clkAt]; omega))) (by (first | omega | (simp_all [regsPut_wf, State.clkAt]; done) | (simp_all [regsPut_wf, State.clkAt]; omega)))

theorem State.causeOff_tame {dr fu ck : Bool} {s₀ s : State} (h₀ : Tame dr fu ck s₀ s) (src inst : Nat) : Tame dr fu ck s₀ (State.causeOff s src inst) := by
  delta State.causeOff
  repeat' first
    | with_reducible assumption
    | refine fun _ => ?_
    | fail_if_no_progress lift_lets
    | (intro x; refine tame_cut (a := s₀) (x := x) ?_ ?_; subst x; rotate_left; (clear_value x; intro hx); rotate_right)
    | (intro x; subst x)
    | fail_if_no_progress with_reducible apply Tame.upd
    | with_reducible apply tame_ite
    | with_reducible apply tame_ite_fst
    | with_reducible apply when_tame
    | with_reducible apply each_tame
    | with_reducible apply foldl_tame
    | with_reducible apply foldl_tame_fst
    | split
    | simp only [id_eq]
    | dsimp only
    | fail_if_no_progress with_reducible refine Tame.updFree ?_ (by first | omega | (simp; done) | (split <;> omega))
    | with_reducible apply Tame.updClkAt
    | fail_if_no_progress with_reducible refine Tame.updFuse ?_ (by first | omega | (simp; done) | (split <;> omega))
    | fail_if_no_progress with_reducible refine Tame.updClk ?_ (by (first | omega | (simp_all [regsPut_wf, State.clkAt]; done) | (simp_all [regsPut_wf, State.clkAt]; omega))) (by (first | omega | (simp_all [regsPut_wf, State.clkAt]; done) | (simp_all [regsPut_wf, State.clkAt]; omega))) (by (first | omega | (simp_all [regsPut_wf, State.clkAt]; done) | (simp_all [regsPut_wf, State.clkAt]; omega)))
    | fail_if_no_progress with_reducible refine Tame.updRegs ?_ (by (first | omega | (simp_all [regsPut_wf, State.clkAt]; done) | (simp_all [regsPut_wf, State.clkAt]; omega))) (by (first | omega | (simp_all [regsPut_wf, State.clkAt]; done) | (simp_all [regsPut_wf, State.clkAt]; omega)))
    | fail_if_no_progress with_reducible refine Tame.updDram ?_ (by (first | omega | (simp_all [regsPut_wf, State.clkAt]; done) | (simp_all [regsPut_wf, State.clkAt]; omega))) (by (first | omega | (simp_all [regsPut_wf, State.clkAt]; done) | (simp_all [regsPut_wf, State.clkAt]; omega))) (by (first | omega | (simp_all [regsPut_wf, State.clkAt]; done) | (simp_all [regsPut_wf, State.clkAt]; omega)))

theorem State.noteUnder_tame {dr fu ck : Bool} {s₀ s : State} (h₀ : Tame dr fu ck s₀ s) (l : List RaiseEv) : Tame dr fu ck s₀ (State.noteUnder s l) := by
  delta State.noteUnder
  repeat' first
    | with_reducible assumption
    | refine fun _ => ?_
    | fail_if_no_progress lift_lets
    | (intro x; refine tame_cut (a := s₀) (x := x) ?_ ?_; subst x; rotate_left; (clear_value x; intro hx); rotate_right)
    | (intro x; subst x)
    | fail_if_no_progress with_reducible apply Tame.upd
    | with_reducible apply tame_ite
    | with_reducible apply tame_ite_fst
    | with_reducible apply when_tame
    | with_reducible apply each_tame
    | with_reducible apply foldl_tame
    | with_reducible apply foldl_tame_fst
    | split
    | simp only [id_eq]
    | dsimp only
    | fail_if_no_progress with_reducible refine Tame.updFree ?_ (by first | omega | (simp; done) | (split <;> omega))
    | with_reducible apply Tame.updClkAt
    | fail_if_no_progress with_reducible refine Tame.updFuse ?_ (by first | omega | (simp; done) | (split <;> omega))
    | fail_if_no_progress with_reducible refine Tame.updClk ?_ (by (first | omega | (simp_all [regsPut_wf, State.clkAt]; done) | (simp_all [regsPut_wf, State.clkAt]; omega))) (by (first | omega | (simp_all [regsPut_wf, State.clkAt]; done) | (simp_all [regsPut_wf, State.clkAt]; omega))) (by (first | omega | (simp_all [regsPut_wf, State.clkAt]; done) | (simp_all [regsPut_wf, State.clkAt]; omega)))
    | fail_if_no_progress with_reducible refine Tame.updRegs ?_ (by (first | omega | (simp_all [regsPut_wf, State.clkAt]; done) | (simp_all [regsPut_wf, State.clkAt]; omega))) (by (first | omega | (simp_all [regsPut_wf, State.clkAt]; done) | (simp_all [regsPut_wf, State.clkAt]; omega)))
    | fail_if_no_progress with_reducible refine Tame.updDram ?_ (by (first | omega | (simp_all [regsPut_wf, State.clkAt]; done) | (simp_all [regsPut_wf, State.clkAt]; omega))) (by (first | omega | (simp_all [regsPut_wf, State.clkAt]; done) | (simp_all [regsPut_wf, State.clkAt]; omega))) (by (first | omega | (simp_all [regsPut_wf, State.clkAt]; done) | (simp_all [regsPut_wf, State.clkAt]; omega)))

theorem State.raiseOne_tame {dr fu ck : Bool} {s₀ s : State} (h₀ : Tame dr fu ck s₀ s) (e : RaiseEv) (isolate : Bool) : Tame dr fu ck s₀ (State.raiseOne s e isolate) := by
  delta State.raiseOne
  repeat' first
    | with_reducible assumption
    | refine fun _ => ?_
    | fail_if_no_progress lift_lets
    | (intro x; refine tame_cut (a := s₀) (x := x) ?_ ?_; subst x; rotate_left; (clear_value x; intro hx); rotate_right)
    | (intro x; subst x)
    | with_reducible apply State.pendSet_tame
    | with_reducible apply State.histAdd_tame
    | with_reducible apply State.brakeActs_tame
    | with_reducible apply State.causeOn_tame
    | fail_if_no_progress with_reducible apply Tame.upd
    | with_reducible apply tame_ite
    | with_reducible apply tame_ite_fst
    | with_reducible apply when_tame
    | with_reducible apply each_tame
    | with_reducible apply foldl_tame
    | with_reducible apply foldl_tame_fst
    | split
    | simp only [id_eq]
    | dsimp only
    | fail_if_no_progress with_reducible refine Tame.updFree ?_ (by first | omega | (simp; done) | (split <;> omega))
    | with_reducible apply Tame.updClkAt
    | fail_if_no_progress with_reducible refine Tame.updFuse ?_ (by first | omega | (simp; done) | (split <;> omega))
    | fail_if_no_progress with_reducible refine Tame.updClk ?_ (by (first | omega | (simp_all [regsPut_wf, State.clkAt]; done) | (simp_all [regsPut_wf, State.clkAt]; omega))) (by (first | omega | (simp_all [regsPut_wf, State.clkAt]; done) | (simp_all [regsPut_wf, State.clkAt]; omega))) (by (first | omega | (simp_all [regsPut_wf, State.clkAt]; done) | (simp_all [regsPut_wf, State.clkAt]; omega)))
    | fail_if_no_progress with_reducible refine Tame.updRegs ?_ (by (first | omega | (simp_all [regsPut_wf, State.clkAt]; done) | (simp_all [regsPut_wf, State.clkAt]; omega))) (by (first | omega | (simp_all [regsPut_wf, State.clkAt]; done) | (simp_all [regsPut_wf, State.clkAt]; omega)))
    | fail_if_no_progress with_reducible refine Tame.updDram ?_ (by (first | omega | (simp_all [regsPut_wf, State.clkAt]; done) | (simp_all [regsPut_wf, State.clkAt]; omega))) (by (first | omega | (simp_all [regsPut_wf, State.clkAt]; done) | (simp_all [regsPut_wf, State.clkAt]; omega))) (by (first | omega | (simp_all [regsPut_wf, State.clkAt]; done) | (simp_all [regsPut_wf, State.clkAt]; omega)))

theorem State.raiseAll_tame {dr fu ck : Bool} {s₀ s : State} (h₀ : Tame dr fu ck s₀ s) (l : List RaiseEv) : Tame dr fu ck s₀ (State.raiseAll s l) := by
  delta State.raiseAll
  repeat' first
    | with_reducible assumption
    | refine fun _ => ?_
    | fail_if_no_progress lift_lets
    | (intro x; refine tame_cut (a := s₀) (x := x) ?_ ?_; subst x; rotate_left; (clear_value x; intro hx); rotate_right)
    | (intro x; subst x)
    | with_reducible apply State.enterSafe_tame
    | with_reducible apply State.noteUnder_tame
    | with_reducible apply State.raiseOne_tame
    | fail_if_no_progress with_reducible apply Tame.upd
    | with_reducible apply tame_ite
    | with_reducible apply tame_ite_fst
    | with_reducible apply when_tame
    | with_reducible apply each_tame
    | with_reducible apply foldl_tame
    | with_reducible apply foldl_tame_fst
    | split
    | simp only [id_eq]
    | dsimp only
    | fail_if_no_progress with_reducible refine Tame.updFree ?_ (by first | omega | (simp; done) | (split <;> omega))
    | with_reducible apply Tame.updClkAt
    | fail_if_no_progress with_reducible refine Tame.updFuse ?_ (by first | omega | (simp; done) | (split <;> omega))
    | fail_if_no_progress with_reducible refine Tame.updClk ?_ (by (first | omega | (simp_all [regsPut_wf, State.clkAt]; done) | (simp_all [regsPut_wf, State.clkAt]; omega))) (by (first | omega | (simp_all [regsPut_wf, State.clkAt]; done) | (simp_all [regsPut_wf, State.clkAt]; omega))) (by (first | omega | (simp_all [regsPut_wf, State.clkAt]; done) | (simp_all [regsPut_wf, State.clkAt]; omega)))
    | fail_if_no_progress with_reducible refine Tame.updRegs ?_ (by (first | omega | (simp_all [regsPut_wf, State.clkAt]; done) | (simp_all [regsPut_wf, State.clkAt]; omega))) (by (first | omega | (simp_all [regsPut_wf, State.clkAt]; done) | (simp_all [regsPut_wf, State.clkAt]; omega)))
    | fail_if_no_progress with_reducible refine Tame.updDram ?_ (by (first | omega | (simp_all [regsPut_wf, State.clkAt]; done) | (simp_all [regsPut_wf, State.clkAt]; omega))) (by (first | omega | (simp_all [regsPut_wf, State.clkAt]; done) | (simp_all [regsPut_wf, State.clkAt]; omega))) (by (first | omega | (simp_all [regsPut_wf, State.clkAt]; done) | (simp_all [regsPut_wf, State.clkAt]; omega)))

theorem State.raise_tame {dr fu ck : Bool} {s₀ s : State} (h₀ : Tame dr fu ck s₀ s) (src inst detail : Nat) : Tame dr fu ck s₀ (State.raise s src inst detail) := by
  delta State.raise
  repeat' first
    | with_reducible assumption
    | refine fun _ => ?_
    | fail_if_no_progress lift_lets
    | (intro x; refine tame_cut (a := s₀) (x := x) ?_ ?_; subst x; rotate_left; (clear_value x; intro hx); rotate_right)
    | (intro x; subst x)
    | with_reducible apply State.raiseAll_tame
    | fail_if_no_progress with_reducible apply Tame.upd
    | with_reducible apply tame_ite
    | with_reducible apply tame_ite_fst
    | with_reducible apply when_tame
    | with_reducible apply each_tame
    | with_reducible apply foldl_tame
    | with_reducible apply foldl_tame_fst
    | split
    | simp only [id_eq]
    | dsimp only
    | fail_if_no_progress with_reducible refine Tame.updFree ?_ (by first | omega | (simp; done) | (split <;> omega))
    | with_reducible apply Tame.updClkAt
    | fail_if_no_progress with_reducible refine Tame.updFuse ?_ (by first | omega | (simp; done) | (split <;> omega))
    | fail_if_no_progress with_reducible refine Tame.updClk ?_ (by (first | omega | (simp_all [regsPut_wf, State.clkAt]; done) | (simp_all [regsPut_wf, State.clkAt]; omega))) (by (first | omega | (simp_all [regsPut_wf, State.clkAt]; done) | (simp_all [regsPut_wf, State.clkAt]; omega))) (by (first | omega | (simp_all [regsPut_wf, State.clkAt]; done) | (simp_all [regsPut_wf, State.clkAt]; omega)))
    | fail_if_no_progress with_reducible refine Tame.updRegs ?_ (by (first | omega | (simp_all [regsPut_wf, State.clkAt]; done) | (simp_all [regsPut_wf, State.clkAt]; omega))) (by (first | omega | (simp_all [regsPut_wf, State.clkAt]; done) | (simp_all [regsPut_wf, State.clkAt]; omega)))
    | fail_if_no_progress with_reducible refine Tame.updDram ?_ (by (first | omega | (simp_all [regsPut_wf, State.clkAt]; done) | (simp_all [regsPut_wf, State.clkAt]; omega))) (by (first | omega | (simp_all [regsPut_wf, State.clkAt]; done) | (simp_all [regsPut_wf, State.clkAt]; omega))) (by (first | omega | (simp_all [regsPut_wf, State.clkAt]; done) | (simp_all [regsPut_wf, State.clkAt]; omega)))

theorem State.markLost_tame {dr fu ck : Bool} {s₀ s : State} (h₀ : Tame dr fu ck s₀ s) (stream : Nat) : Tame dr fu ck s₀ (State.markLost s stream) := by
  delta State.markLost
  repeat' first
    | with_reducible assumption
    | refine fun _ => ?_
    | fail_if_no_progress lift_lets
    | (intro x; refine tame_cut (a := s₀) (x := x) ?_ ?_; subst x; rotate_left; (clear_value x; intro hx); rotate_right)
    | (intro x; subst x)
    | fail_if_no_progress with_reducible apply Tame.upd
    | with_reducible apply tame_ite
    | with_reducible apply tame_ite_fst
    | with_reducible apply when_tame
    | with_reducible apply each_tame
    | with_reducible apply foldl_tame
    | with_reducible apply foldl_tame_fst
    | split
    | simp only [id_eq]
    | dsimp only
    | fail_if_no_progress with_reducible refine Tame.updFree ?_ (by first | omega | (simp; done) | (split <;> omega))
    | with_reducible apply Tame.updClkAt
    | fail_if_no_progress with_reducible refine Tame.updFuse ?_ (by first | omega | (simp; done) | (split <;> omega))
    | fail_if_no_progress with_reducible refine Tame.updClk ?_ (by (first | omega | (simp_all [regsPut_wf, State.clkAt]; done) | (simp_all [regsPut_wf, State.clkAt]; omega))) (by (first | omega | (simp_all [regsPut_wf, State.clkAt]; done) | (simp_all [regsPut_wf, State.clkAt]; omega))) (by (first | omega | (simp_all [regsPut_wf, State.clkAt]; done) | (simp_all [regsPut_wf, State.clkAt]; omega)))
    | fail_if_no_progress with_reducible refine Tame.updRegs ?_ (by (first | omega | (simp_all [regsPut_wf, State.clkAt]; done) | (simp_all [regsPut_wf, State.clkAt]; omega))) (by (first | omega | (simp_all [regsPut_wf, State.clkAt]; done) | (simp_all [regsPut_wf, State.clkAt]; omega)))
    | fail_if_no_progress with_reducible refine Tame.updDram ?_ (by (first | omega | (simp_all [regsPut_wf, State.clkAt]; done) | (simp_all [regsPut_wf, State.clkAt]; omega))) (by (first | omega | (simp_all [regsPut_wf, State.clkAt]; done) | (simp_all [regsPut_wf, State.clkAt]; omega))) (by (first | omega | (simp_all [regsPut_wf, State.clkAt]; done) | (simp_all [regsPut_wf, State.clkAt]; omega)))

theorem State.logLost_tame {dr fu ck : Bool} {s₀ s : State} (h₀ : Tame dr fu ck s₀ s) (h stream a : Nat) : Tame dr fu ck s₀ (State.logLost s h stream a) := by
  delta State.logLost
  repeat' first
    | with_reducible assumption
    | refine fun _ => ?_
    | fail_if_no_progress lift_lets
    | (intro x; refine tame_cut (a := s₀) (x := x) ?_ ?_; subst x; rotate_left; (clear_value x; intro hx); rotate_right)
    | (intro x; subst x)
    | with_reducible apply State.setRaw_tame
    | with_reducible apply State.fadd_tame
    | fail_if_no_progress with_reducible apply Tame.upd
    | with_reducible apply tame_ite
    | with_reducible apply tame_ite_fst
    | with_reducible apply when_tame
    | with_reducible apply each_tame
    | with_reducible apply foldl_tame
    | with_reducible apply foldl_tame_fst
    | split
    | simp only [id_eq]
    | dsimp only
    | fail_if_no_progress with_reducible refine Tame.updFree ?_ (by first | omega | (simp; done) | (split <;> omega))
    | with_reducible apply Tame.updClkAt
    | fail_if_no_progress with_reducible refine Tame.updFuse ?_ (by first | omega | (simp; done) | (split <;> omega))
    | fail_if_no_progress with_reducible refine Tame.updClk ?_ (by (first | omega | (simp_all [regsPut_wf, State.clkAt]; done) | (simp_all [regsPut_wf, State.clkAt]; omega))) (by (first | omega | (simp_all [regsPut_wf, State.clkAt]; done) | (simp_all [regsPut_wf, State.clkAt]; omega))) (by (first | omega | (simp_all [regsPut_wf, State.clkAt]; done) | (simp_all [regsPut_wf, State.clkAt]; omega)))
    | fail_if_no_progress with_reducible refine Tame.updRegs ?_ (by (first | omega | (simp_all [regsPut_wf, State.clkAt]; done) | (simp_all [regsPut_wf, State.clkAt]; omega))) (by (first | omega | (simp_all [regsPut_wf, State.clkAt]; done) | (simp_all [regsPut_wf, State.clkAt]; omega)))
    | fail_if_no_progress with_reducible refine Tame.updDram ?_ (by (first | omega | (simp_all [regsPut_wf, State.clkAt]; done) | (simp_all [regsPut_wf, State.clkAt]; omega))) (by (first | omega | (simp_all [regsPut_wf, State.clkAt]; done) | (simp_all [regsPut_wf, State.clkAt]; omega))) (by (first | omega | (simp_all [regsPut_wf, State.clkAt]; done) | (simp_all [regsPut_wf, State.clkAt]; omega)))

theorem State.dropStore_tame {dr fu ck : Bool} {s₀ s : State} (h₀ : Tame dr fu ck s₀ s) (stream a : Nat) : Tame dr fu ck s₀ (State.dropStore s stream a) := by
  delta State.dropStore
  repeat' first
    | with_reducible assumption
    | refine fun _ => ?_
    | fail_if_no_progress lift_lets
    | (intro x; refine tame_cut (a := s₀) (x := x) ?_ ?_; subst x; rotate_left; (clear_value x; intro hx); rotate_right)
    | (intro x; subst x)
    | with_reducible apply State.raise_tame
    | with_reducible apply State.markLost_tame
    | with_reducible apply State.logLost_tame
    | fail_if_no_progress with_reducible apply Tame.upd
    | with_reducible apply tame_ite
    | with_reducible apply tame_ite_fst
    | with_reducible apply when_tame
    | with_reducible apply each_tame
    | with_reducible apply foldl_tame
    | with_reducible apply foldl_tame_fst
    | split
    | simp only [id_eq]
    | dsimp only
    | fail_if_no_progress with_reducible refine Tame.updFree ?_ (by first | omega | (simp; done) | (split <;> omega))
    | with_reducible apply Tame.updClkAt
    | fail_if_no_progress with_reducible refine Tame.updFuse ?_ (by first | omega | (simp; done) | (split <;> omega))
    | fail_if_no_progress with_reducible refine Tame.updClk ?_ (by (first | omega | (simp_all [regsPut_wf, State.clkAt]; done) | (simp_all [regsPut_wf, State.clkAt]; omega))) (by (first | omega | (simp_all [regsPut_wf, State.clkAt]; done) | (simp_all [regsPut_wf, State.clkAt]; omega))) (by (first | omega | (simp_all [regsPut_wf, State.clkAt]; done) | (simp_all [regsPut_wf, State.clkAt]; omega)))
    | fail_if_no_progress with_reducible refine Tame.updRegs ?_ (by (first | omega | (simp_all [regsPut_wf, State.clkAt]; done) | (simp_all [regsPut_wf, State.clkAt]; omega))) (by (first | omega | (simp_all [regsPut_wf, State.clkAt]; done) | (simp_all [regsPut_wf, State.clkAt]; omega)))
    | fail_if_no_progress with_reducible refine Tame.updDram ?_ (by (first | omega | (simp_all [regsPut_wf, State.clkAt]; done) | (simp_all [regsPut_wf, State.clkAt]; omega))) (by (first | omega | (simp_all [regsPut_wf, State.clkAt]; done) | (simp_all [regsPut_wf, State.clkAt]; omega))) (by (first | omega | (simp_all [regsPut_wf, State.clkAt]; done) | (simp_all [regsPut_wf, State.clkAt]; omega)))

theorem State.discardResp_tame {dr fu ck : Bool} {s₀ s : State} (h₀ : Tame dr fu ck s₀ s) (m : Nat) : Tame dr fu ck s₀ (State.discardResp s m) := by
  delta State.discardResp
  repeat' first
    | with_reducible assumption
    | refine fun _ => ?_
    | fail_if_no_progress lift_lets
    | (intro x; refine tame_cut (a := s₀) (x := x) ?_ ?_; subst x; rotate_left; (clear_value x; intro hx); rotate_right)
    | (intro x; subst x)
    | fail_if_no_progress with_reducible apply Tame.upd
    | with_reducible apply tame_ite
    | with_reducible apply tame_ite_fst
    | with_reducible apply when_tame
    | with_reducible apply each_tame
    | with_reducible apply foldl_tame
    | with_reducible apply foldl_tame_fst
    | split
    | simp only [id_eq]
    | dsimp only
    | fail_if_no_progress with_reducible refine Tame.updFree ?_ (by first | omega | (simp; done) | (split <;> omega))
    | with_reducible apply Tame.updClkAt
    | fail_if_no_progress with_reducible refine Tame.updFuse ?_ (by first | omega | (simp; done) | (split <;> omega))
    | fail_if_no_progress with_reducible refine Tame.updClk ?_ (by (first | omega | (simp_all [regsPut_wf, State.clkAt]; done) | (simp_all [regsPut_wf, State.clkAt]; omega))) (by (first | omega | (simp_all [regsPut_wf, State.clkAt]; done) | (simp_all [regsPut_wf, State.clkAt]; omega))) (by (first | omega | (simp_all [regsPut_wf, State.clkAt]; done) | (simp_all [regsPut_wf, State.clkAt]; omega)))
    | fail_if_no_progress with_reducible refine Tame.updRegs ?_ (by (first | omega | (simp_all [regsPut_wf, State.clkAt]; done) | (simp_all [regsPut_wf, State.clkAt]; omega))) (by (first | omega | (simp_all [regsPut_wf, State.clkAt]; done) | (simp_all [regsPut_wf, State.clkAt]; omega)))
    | fail_if_no_progress with_reducible refine Tame.updDram ?_ (by (first | omega | (simp_all [regsPut_wf, State.clkAt]; done) | (simp_all [regsPut_wf, State.clkAt]; omega))) (by (first | omega | (simp_all [regsPut_wf, State.clkAt]; done) | (simp_all [regsPut_wf, State.clkAt]; omega))) (by (first | omega | (simp_all [regsPut_wf, State.clkAt]; done) | (simp_all [regsPut_wf, State.clkAt]; omega)))

theorem State.toTrain_tame {dr fu ck : Bool} {s₀ s : State} (h₀ : Tame dr fu ck s₀ s) (m : Nat) : Tame dr fu ck s₀ (State.toTrain s m) := by
  delta State.toTrain
  repeat' first
    | with_reducible assumption
    | refine fun _ => ?_
    | fail_if_no_progress lift_lets
    | (intro x; refine tame_cut (a := s₀) (x := x) ?_ ?_; subst x; rotate_left; (clear_value x; intro hx); rotate_right)
    | (intro x; subst x)
    | fail_if_no_progress with_reducible apply Tame.upd
    | with_reducible apply tame_ite
    | with_reducible apply tame_ite_fst
    | with_reducible apply when_tame
    | with_reducible apply each_tame
    | with_reducible apply foldl_tame
    | with_reducible apply foldl_tame_fst
    | split
    | simp only [id_eq]
    | dsimp only
    | fail_if_no_progress with_reducible refine Tame.updFree ?_ (by first | omega | (simp; done) | (split <;> omega))
    | with_reducible apply Tame.updClkAt
    | fail_if_no_progress with_reducible refine Tame.updFuse ?_ (by first | omega | (simp; done) | (split <;> omega))
    | fail_if_no_progress with_reducible refine Tame.updClk ?_ (by (first | omega | (simp_all [regsPut_wf, State.clkAt]; done) | (simp_all [regsPut_wf, State.clkAt]; omega))) (by (first | omega | (simp_all [regsPut_wf, State.clkAt]; done) | (simp_all [regsPut_wf, State.clkAt]; omega))) (by (first | omega | (simp_all [regsPut_wf, State.clkAt]; done) | (simp_all [regsPut_wf, State.clkAt]; omega)))
    | fail_if_no_progress with_reducible refine Tame.updRegs ?_ (by (first | omega | (simp_all [regsPut_wf, State.clkAt]; done) | (simp_all [regsPut_wf, State.clkAt]; omega))) (by (first | omega | (simp_all [regsPut_wf, State.clkAt]; done) | (simp_all [regsPut_wf, State.clkAt]; omega)))
    | fail_if_no_progress with_reducible refine Tame.updDram ?_ (by (first | omega | (simp_all [regsPut_wf, State.clkAt]; done) | (simp_all [regsPut_wf, State.clkAt]; omega))) (by (first | omega | (simp_all [regsPut_wf, State.clkAt]; done) | (simp_all [regsPut_wf, State.clkAt]; omega))) (by (first | omega | (simp_all [regsPut_wf, State.clkAt]; done) | (simp_all [regsPut_wf, State.clkAt]; omega)))

theorem State.linkRestart_tame {dr fu ck : Bool} {s₀ s : State} (h₀ : Tame dr fu ck s₀ s) (m : Nat) : Tame dr fu ck s₀ (State.linkRestart s m) := by
  delta State.linkRestart
  repeat' first
    | with_reducible assumption
    | refine fun _ => ?_
    | fail_if_no_progress lift_lets
    | (intro x; refine tame_cut (a := s₀) (x := x) ?_ ?_; subst x; rotate_left; (clear_value x; intro hx); rotate_right)
    | (intro x; subst x)
    | with_reducible apply State.fset_tame
    | with_reducible apply State.fadd_tame
    | with_reducible apply State.raise_tame
    | with_reducible apply State.discardResp_tame
    | with_reducible apply State.toTrain_tame
    | fail_if_no_progress with_reducible apply Tame.upd
    | with_reducible apply tame_ite
    | with_reducible apply tame_ite_fst
    | with_reducible apply when_tame
    | with_reducible apply each_tame
    | with_reducible apply foldl_tame
    | with_reducible apply foldl_tame_fst
    | split
    | simp only [id_eq]
    | dsimp only
    | fail_if_no_progress with_reducible refine Tame.updFree ?_ (by first | omega | (simp; done) | (split <;> omega))
    | with_reducible apply Tame.updClkAt
    | fail_if_no_progress with_reducible refine Tame.updFuse ?_ (by first | omega | (simp; done) | (split <;> omega))
    | fail_if_no_progress with_reducible refine Tame.updClk ?_ (by (first | omega | (simp_all [regsPut_wf, State.clkAt]; done) | (simp_all [regsPut_wf, State.clkAt]; omega))) (by (first | omega | (simp_all [regsPut_wf, State.clkAt]; done) | (simp_all [regsPut_wf, State.clkAt]; omega))) (by (first | omega | (simp_all [regsPut_wf, State.clkAt]; done) | (simp_all [regsPut_wf, State.clkAt]; omega)))
    | fail_if_no_progress with_reducible refine Tame.updRegs ?_ (by (first | omega | (simp_all [regsPut_wf, State.clkAt]; done) | (simp_all [regsPut_wf, State.clkAt]; omega))) (by (first | omega | (simp_all [regsPut_wf, State.clkAt]; done) | (simp_all [regsPut_wf, State.clkAt]; omega)))
    | fail_if_no_progress with_reducible refine Tame.updDram ?_ (by (first | omega | (simp_all [regsPut_wf, State.clkAt]; done) | (simp_all [regsPut_wf, State.clkAt]; omega))) (by (first | omega | (simp_all [regsPut_wf, State.clkAt]; done) | (simp_all [regsPut_wf, State.clkAt]; omega))) (by (first | omega | (simp_all [regsPut_wf, State.clkAt]; done) | (simp_all [regsPut_wf, State.clkAt]; omega)))

theorem State.enterRecal_tame {dr fu ck : Bool} {s₀ s : State} (h₀ : Tame dr fu ck s₀ s) (m : Nat) : Tame dr fu ck s₀ (State.enterRecal s m) := by
  delta State.enterRecal
  repeat' first
    | with_reducible assumption
    | refine fun _ => ?_
    | fail_if_no_progress lift_lets
    | (intro x; refine tame_cut (a := s₀) (x := x) ?_ ?_; subst x; rotate_left; (clear_value x; intro hx); rotate_right)
    | (intro x; subst x)
    | fail_if_no_progress with_reducible apply Tame.upd
    | with_reducible apply tame_ite
    | with_reducible apply tame_ite_fst
    | with_reducible apply when_tame
    | with_reducible apply each_tame
    | with_reducible apply foldl_tame
    | with_reducible apply foldl_tame_fst
    | split
    | simp only [id_eq]
    | dsimp only
    | fail_if_no_progress with_reducible refine Tame.updFree ?_ (by first | omega | (simp; done) | (split <;> omega))
    | with_reducible apply Tame.updClkAt
    | fail_if_no_progress with_reducible refine Tame.updFuse ?_ (by first | omega | (simp; done) | (split <;> omega))
    | fail_if_no_progress with_reducible refine Tame.updClk ?_ (by (first | omega | (simp_all [regsPut_wf, State.clkAt]; done) | (simp_all [regsPut_wf, State.clkAt]; omega))) (by (first | omega | (simp_all [regsPut_wf, State.clkAt]; done) | (simp_all [regsPut_wf, State.clkAt]; omega))) (by (first | omega | (simp_all [regsPut_wf, State.clkAt]; done) | (simp_all [regsPut_wf, State.clkAt]; omega)))
    | fail_if_no_progress with_reducible refine Tame.updRegs ?_ (by (first | omega | (simp_all [regsPut_wf, State.clkAt]; done) | (simp_all [regsPut_wf, State.clkAt]; omega))) (by (first | omega | (simp_all [regsPut_wf, State.clkAt]; done) | (simp_all [regsPut_wf, State.clkAt]; omega)))
    | fail_if_no_progress with_reducible refine Tame.updDram ?_ (by (first | omega | (simp_all [regsPut_wf, State.clkAt]; done) | (simp_all [regsPut_wf, State.clkAt]; omega))) (by (first | omega | (simp_all [regsPut_wf, State.clkAt]; done) | (simp_all [regsPut_wf, State.clkAt]; omega))) (by (first | omega | (simp_all [regsPut_wf, State.clkAt]; done) | (simp_all [regsPut_wf, State.clkAt]; omega)))

theorem State.isolMark_tame {dr fu ck : Bool} {s₀ s : State} (h₀ : Tame dr fu ck s₀ s) (r : Nat) : Tame dr fu ck s₀ (State.isolMark s r) := by
  delta State.isolMark
  repeat' first
    | with_reducible assumption
    | refine fun _ => ?_
    | fail_if_no_progress lift_lets
    | (intro x; refine tame_cut (a := s₀) (x := x) ?_ ?_; subst x; rotate_left; (clear_value x; intro hx); rotate_right)
    | (intro x; subst x)
    | with_reducible apply State.fset_tame
    | with_reducible apply State.setRace_tame
    | with_reducible apply State.setHst_tame
    | with_reducible apply State.stopRetrain_tame
    | fail_if_no_progress with_reducible apply Tame.upd
    | with_reducible apply tame_ite
    | with_reducible apply tame_ite_fst
    | with_reducible apply when_tame
    | with_reducible apply each_tame
    | with_reducible apply foldl_tame
    | with_reducible apply foldl_tame_fst
    | split
    | simp only [id_eq]
    | dsimp only
    | fail_if_no_progress with_reducible refine Tame.updFree ?_ (by first | omega | (simp; done) | (split <;> omega))
    | with_reducible apply Tame.updClkAt
    | fail_if_no_progress with_reducible refine Tame.updFuse ?_ (by first | omega | (simp; done) | (split <;> omega))
    | fail_if_no_progress with_reducible refine Tame.updClk ?_ (by (first | omega | (simp_all [regsPut_wf, State.clkAt]; done) | (simp_all [regsPut_wf, State.clkAt]; omega))) (by (first | omega | (simp_all [regsPut_wf, State.clkAt]; done) | (simp_all [regsPut_wf, State.clkAt]; omega))) (by (first | omega | (simp_all [regsPut_wf, State.clkAt]; done) | (simp_all [regsPut_wf, State.clkAt]; omega)))
    | fail_if_no_progress with_reducible refine Tame.updRegs ?_ (by (first | omega | (simp_all [regsPut_wf, State.clkAt]; done) | (simp_all [regsPut_wf, State.clkAt]; omega))) (by (first | omega | (simp_all [regsPut_wf, State.clkAt]; done) | (simp_all [regsPut_wf, State.clkAt]; omega)))
    | fail_if_no_progress with_reducible refine Tame.updDram ?_ (by (first | omega | (simp_all [regsPut_wf, State.clkAt]; done) | (simp_all [regsPut_wf, State.clkAt]; omega))) (by (first | omega | (simp_all [regsPut_wf, State.clkAt]; done) | (simp_all [regsPut_wf, State.clkAt]; omega))) (by (first | omega | (simp_all [regsPut_wf, State.clkAt]; done) | (simp_all [regsPut_wf, State.clkAt]; omega)))

theorem State.isolate_tame {dr fu ck : Bool} {s₀ s : State} (h₀ : Tame dr fu ck s₀ s) (r : Nat) : Tame dr fu ck s₀ (State.isolate s r) := by
  delta State.isolate
  repeat' first
    | with_reducible assumption
    | refine fun _ => ?_
    | fail_if_no_progress lift_lets
    | (intro x; refine tame_cut (a := s₀) (x := x) ?_ ?_; subst x; rotate_left; (clear_value x; intro hx); rotate_right)
    | (intro x; subst x)
    | with_reducible apply State.raise_tame
    | with_reducible apply State.isolMark_tame
    | fail_if_no_progress with_reducible apply Tame.upd
    | with_reducible apply tame_ite
    | with_reducible apply tame_ite_fst
    | with_reducible apply when_tame
    | with_reducible apply each_tame
    | with_reducible apply foldl_tame
    | with_reducible apply foldl_tame_fst
    | split
    | simp only [id_eq]
    | dsimp only
    | fail_if_no_progress with_reducible refine Tame.updFree ?_ (by first | omega | (simp; done) | (split <;> omega))
    | with_reducible apply Tame.updClkAt
    | fail_if_no_progress with_reducible refine Tame.updFuse ?_ (by first | omega | (simp; done) | (split <;> omega))
    | fail_if_no_progress with_reducible refine Tame.updClk ?_ (by (first | omega | (simp_all [regsPut_wf, State.clkAt]; done) | (simp_all [regsPut_wf, State.clkAt]; omega))) (by (first | omega | (simp_all [regsPut_wf, State.clkAt]; done) | (simp_all [regsPut_wf, State.clkAt]; omega))) (by (first | omega | (simp_all [regsPut_wf, State.clkAt]; done) | (simp_all [regsPut_wf, State.clkAt]; omega)))
    | fail_if_no_progress with_reducible refine Tame.updRegs ?_ (by (first | omega | (simp_all [regsPut_wf, State.clkAt]; done) | (simp_all [regsPut_wf, State.clkAt]; omega))) (by (first | omega | (simp_all [regsPut_wf, State.clkAt]; done) | (simp_all [regsPut_wf, State.clkAt]; omega)))
    | fail_if_no_progress with_reducible refine Tame.updDram ?_ (by (first | omega | (simp_all [regsPut_wf, State.clkAt]; done) | (simp_all [regsPut_wf, State.clkAt]; omega))) (by (first | omega | (simp_all [regsPut_wf, State.clkAt]; done) | (simp_all [regsPut_wf, State.clkAt]; omega))) (by (first | omega | (simp_all [regsPut_wf, State.clkAt]; done) | (simp_all [regsPut_wf, State.clkAt]; omega)))

end Sys2Proof.Machine
end

