-- ==== Sys2Proof/Laws/TameSelect.lean ====
section
/-!
SUPPORT. Every operation of Machine/Select.lean keeps the queue, the canonical tables and the bounds of the clock (Tame).
-/
namespace Sys2Proof.Machine
set_option linter.all false

theorem State.modeAt_tame {dr fu ck : Bool} {s₀ s : State} (h₀ : Tame dr fu ck s₀ s) (r t : Nat) : Tame dr fu ck s₀ (State.modeAt s r t) := by
  delta State.modeAt
  repeat' first
    | with_reducible assumption
    | refine fun _ => ?_
    | fail_if_no_progress lift_lets
    | (intro x; refine tame_cut (a := s₀) (x := x) ?_ ?_; subst x; rotate_left; (clear_value x; intro hx); rotate_right)
    | (intro x; subst x)
    | with_reducible apply State.setRace_tame
    | fail_if_no_progress with_reducible apply Tame.upd
    | with_reducible apply tame_ite
    | with_reducible apply tame_ite_fst
    | with_reducible apply when_tame
    | with_reducible apply each_tame
    | with_reducible apply foldl_tame
    | with_reducible apply foldl_tame_fst
    | split
    | simp only [id_eq]
    | dsimp only
    | fail_if_no_progress with_reducible refine Tame.updFree ?_ (by first | omega | (simp; done) | (split <;> omega))
    | with_reducible apply Tame.updClkAt
    | fail_if_no_progress with_reducible refine Tame.updFuse ?_ (by first | omega | (simp; done) | (split <;> omega))
    | fail_if_no_progress with_reducible refine Tame.updClk ?_ (by (first | omega | (simp_all [regsPut_wf, State.clkAt]; done) | (simp_all [regsPut_wf, State.clkAt]; omega))) (by (first | omega | (simp_all [regsPut_wf, State.clkAt]; done) | (simp_all [regsPut_wf, State.clkAt]; omega))) (by (first | omega | (simp_all [regsPut_wf, State.clkAt]; done) | (simp_all [regsPut_wf, State.clkAt]; omega)))
    | fail_if_no_progress with_reducible refine Tame.updRegs ?_ (by (first | omega | (simp_all [regsPut_wf, State.clkAt]; done) | (simp_all [regsPut_wf, State.clkAt]; omega))) (by (first | omega | (simp_all [regsPut_wf, State.clkAt]; done) | (simp_all [regsPut_wf, State.clkAt]; omega)))
    | fail_if_no_progress with_reducible refine Tame.updDram ?_ (by (first | omega | (simp_all [regsPut_wf, State.clkAt]; done) | (simp_all [regsPut_wf, State.clkAt]; omega))) (by (first | omega | (simp_all [regsPut_wf, State.clkAt]; done) | (simp_all [regsPut_wf, State.clkAt]; omega))) (by (first | omega | (simp_all [regsPut_wf, State.clkAt]; done) | (simp_all [regsPut_wf, State.clkAt]; omega)))

theorem State.modeLatch_tame {dr fu ck : Bool} {s₀ s : State} (h₀ : Tame dr fu ck s₀ s) (r : Nat) : Tame dr fu ck s₀ (State.modeLatch s r) := by
  delta State.modeLatch
  repeat' first
    | with_reducible assumption
    | refine fun _ => ?_
    | fail_if_no_progress lift_lets
    | (intro x; refine tame_cut (a := s₀) (x := x) ?_ ?_; subst x; rotate_left; (clear_value x; intro hx); rotate_right)
    | (intro x; subst x)
    | with_reducible apply State.modeAt_tame
    | fail_if_no_progress with_reducible apply Tame.upd
    | with_reducible apply tame_ite
    | with_reducible apply tame_ite_fst
    | with_reducible apply when_tame
    | with_reducible apply each_tame
    | with_reducible apply foldl_tame
    | with_reducible apply foldl_tame_fst
    | split
    | simp only [id_eq]
    | dsimp only
    | fail_if_no_progress with_reducible refine Tame.updFree ?_ (by first | omega | (simp; done) | (split <;> omega))
    | with_reducible apply Tame.updClkAt
    | fail_if_no_progress with_reducible refine Tame.updFuse ?_ (by first | omega | (simp; done) | (split <;> omega))
    | fail_if_no_progress with_reducible refine Tame.updClk ?_ (by (first | omega | (simp_all [regsPut_wf, State.clkAt]; done) | (simp_all [regsPut_wf, State.clkAt]; omega))) (by (first | omega | (simp_all [regsPut_wf, State.clkAt]; done) | (simp_all [regsPut_wf, State.clkAt]; omega))) (by (first | omega | (simp_all [regsPut_wf, State.clkAt]; done) | (simp_all [regsPut_wf, State.clkAt]; omega)))
    | fail_if_no_progress with_reducible refine Tame.updRegs ?_ (by (first | omega | (simp_all [regsPut_wf, State.clkAt]; done) | (simp_all [regsPut_wf, State.clkAt]; omega))) (by (first | omega | (simp_all [regsPut_wf, State.clkAt]; done) | (simp_all [regsPut_wf, State.clkAt]; omega)))
    | fail_if_no_progress with_reducible refine Tame.updDram ?_ (by (first | omega | (simp_all [regsPut_wf, State.clkAt]; done) | (simp_all [regsPut_wf, State.clkAt]; omega))) (by (first | omega | (simp_all [regsPut_wf, State.clkAt]; done) | (simp_all [regsPut_wf, State.clkAt]; omega))) (by (first | omega | (simp_all [regsPut_wf, State.clkAt]; done) | (simp_all [regsPut_wf, State.clkAt]; omega)))

theorem State.pdNote_tame {dr fu ck : Bool} {s₀ s : State} (h₀ : Tame dr fu ck s₀ s) (r t : Nat) : Tame dr fu ck s₀ (State.pdNote s r t) := by
  delta State.pdNote
  repeat' first
    | with_reducible assumption
    | refine fun _ => ?_
    | fail_if_no_progress lift_lets
    | (intro x; refine tame_cut (a := s₀) (x := x) ?_ ?_; subst x; rotate_left; (clear_value x; intro hx); rotate_right)
    | (intro x; subst x)
    | with_reducible apply State.setRace_tame
    | fail_if_no_progress with_reducible apply Tame.upd
    | with_reducible apply tame_ite
    | with_reducible apply tame_ite_fst
    | with_reducible apply when_tame
    | with_reducible apply each_tame
    | with_reducible apply foldl_tame
    | with_reducible apply foldl_tame_fst
    | split
    | simp only [id_eq]
    | dsimp only
    | fail_if_no_progress with_reducible refine Tame.updFree ?_ (by first | omega | (simp; done) | (split <;> omega))
    | with_reducible apply Tame.updClkAt
    | fail_if_no_progress with_reducible refine Tame.updFuse ?_ (by first | omega | (simp; done) | (split <;> omega))
    | fail_if_no_progress with_reducible refine Tame.updClk ?_ (by (first | omega | (simp_all [regsPut_wf, State.clkAt]; done) | (simp_all [regsPut_wf, State.clkAt]; omega))) (by (first | omega | (simp_all [regsPut_wf, State.clkAt]; done) | (simp_all [regsPut_wf, State.clkAt]; omega))) (by (first | omega | (simp_all [regsPut_wf, State.clkAt]; done) | (simp_all [regsPut_wf, State.clkAt]; omega)))
    | fail_if_no_progress with_reducible refine Tame.updRegs ?_ (by (first | omega | (simp_all [regsPut_wf, State.clkAt]; done) | (simp_all [regsPut_wf, State.clkAt]; omega))) (by (first | omega | (simp_all [regsPut_wf, State.clkAt]; done) | (simp_all [regsPut_wf, State.clkAt]; omega)))
    | fail_if_no_progress with_reducible refine Tame.updDram ?_ (by (first | omega | (simp_all [regsPut_wf, State.clkAt]; done) | (simp_all [regsPut_wf, State.clkAt]; omega))) (by (first | omega | (simp_all [regsPut_wf, State.clkAt]; done) | (simp_all [regsPut_wf, State.clkAt]; omega))) (by (first | omega | (simp_all [regsPut_wf, State.clkAt]; done) | (simp_all [regsPut_wf, State.clkAt]; omega)))

end Sys2Proof.Machine
end

