-- ==== Sys2Proof/Laws/TameHopper.lean ====
section
/-!
SUPPORT. Every operation of Machine/Hopper.lean keeps the queue, the canonical tables and the bounds of the clock (Tame).
-/
namespace Sys2Proof.Machine
set_option linter.all false

theorem State.flumeTouch_tame {dr fu ck : Bool} {s₀ s : State} (h₀ : Tame dr fu ck s₀ s) (a cells : Nat) : Tame dr fu ck s₀ (State.flumeTouch s a cells) := by
  delta State.flumeTouch
  repeat' first
    | with_reducible assumption
    | refine fun _ => ?_
    | fail_if_no_progress lift_lets
    | (intro x; refine tame_cut (a := s₀) (x := x) ?_ ?_; subst x; rotate_left; (clear_value x; intro hx); rotate_right)
    | (intro x; subst x)
    | with_reducible apply State.flumeClose_tame
    | fail_if_no_progress with_reducible apply Tame.upd
    | with_reducible apply tame_ite
    | with_reducible apply tame_ite_fst
    | with_reducible apply when_tame
    | with_reducible apply each_tame
    | with_reducible apply foldl_tame
    | with_reducible apply foldl_tame_fst
    | split
    | simp only [id_eq]
    | dsimp only
    | fail_if_no_progress with_reducible refine Tame.updFree ?_ (by first | omega | (simp; done) | (split <;> omega))
    | with_reducible apply Tame.updClkAt
    | fail_if_no_progress with_reducible refine Tame.updFuse ?_ (by first | omega | (simp; done) | (split <;> omega))
    | fail_if_no_progress with_reducible refine Tame.updClk ?_ (by (first | omega | (simp_all [regsPut_wf, State.clkAt]; done) | (simp_all [regsPut_wf, State.clkAt]; omega))) (by (first | omega | (simp_all [regsPut_wf, State.clkAt]; done) | (simp_all [regsPut_wf, State.clkAt]; omega))) (by (first | omega | (simp_all [regsPut_wf, State.clkAt]; done) | (simp_all [regsPut_wf, State.clkAt]; omega)))
    | fail_if_no_progress with_reducible refine Tame.updRegs ?_ (by (first | omega | (simp_all [regsPut_wf, State.clkAt]; done) | (simp_all [regsPut_wf, State.clkAt]; omega))) (by (first | omega | (simp_all [regsPut_wf, State.clkAt]; done) | (simp_all [regsPut_wf, State.clkAt]; omega)))
    | fail_if_no_progress with_reducible refine Tame.updDram ?_ (by (first | omega | (simp_all [regsPut_wf, State.clkAt]; done) | (simp_all [regsPut_wf, State.clkAt]; omega))) (by (first | omega | (simp_all [regsPut_wf, State.clkAt]; done) | (simp_all [regsPut_wf, State.clkAt]; omega))) (by (first | omega | (simp_all [regsPut_wf, State.clkAt]; done) | (simp_all [regsPut_wf, State.clkAt]; omega)))

theorem State.flumeLow_tame {dr fu ck : Bool} {s₀ s : State} (h₀ : Tame dr fu ck s₀ s) (h : Nat) : Tame dr fu ck s₀ (State.flumeLow s h) := by
  delta State.flumeLow
  repeat' first
    | with_reducible assumption
    | refine fun _ => ?_
    | fail_if_no_progress lift_lets
    | (intro x; refine tame_cut (a := s₀) (x := x) ?_ ?_; subst x; rotate_left; (clear_value x; intro hx); rotate_right)
    | (intro x; subst x)
    | with_reducible apply State.flumeClose_tame
    | fail_if_no_progress with_reducible apply Tame.upd
    | with_reducible apply tame_ite
    | with_reducible apply tame_ite_fst
    | with_reducible apply when_tame
    | with_reducible apply each_tame
    | with_reducible apply foldl_tame
    | with_reducible apply foldl_tame_fst
    | split
    | simp only [id_eq]
    | dsimp only
    | fail_if_no_progress with_reducible refine Tame.updFree ?_ (by first | omega | (simp; done) | (split <;> omega))
    | with_reducible apply Tame.updClkAt
    | fail_if_no_progress with_reducible refine Tame.updFuse ?_ (by first | omega | (simp; done) | (split <;> omega))
    | fail_if_no_progress with_reducible refine Tame.updClk ?_ (by (first | omega | (simp_all [regsPut_wf, State.clkAt]; done) | (simp_all [regsPut_wf, State.clkAt]; omega))) (by (first | omega | (simp_all [regsPut_wf, State.clkAt]; done) | (simp_all [regsPut_wf, State.clkAt]; omega))) (by (first | omega | (simp_all [regsPut_wf, State.clkAt]; done) | (simp_all [regsPut_wf, State.clkAt]; omega)))
    | fail_if_no_progress with_reducible refine Tame.updRegs ?_ (by (first | omega | (simp_all [regsPut_wf, State.clkAt]; done) | (simp_all [regsPut_wf, State.clkAt]; omega))) (by (first | omega | (simp_all [regsPut_wf, State.clkAt]; done) | (simp_all [regsPut_wf, State.clkAt]; omega)))
    | fail_if_no_progress with_reducible refine Tame.updDram ?_ (by (first | omega | (simp_all [regsPut_wf, State.clkAt]; done) | (simp_all [regsPut_wf, State.clkAt]; omega))) (by (first | omega | (simp_all [regsPut_wf, State.clkAt]; done) | (simp_all [regsPut_wf, State.clkAt]; omega))) (by (first | omega | (simp_all [regsPut_wf, State.clkAt]; done) | (simp_all [regsPut_wf, State.clkAt]; omega)))

theorem State.bindSrc_tame {dr fu ck : Bool} {s₀ s : State} (h₀ : Tame dr fu ck s₀ s) (id k : Nat) (src : RdSrc) : Tame dr fu ck s₀ (s.bindSrc id k src) := by
  cases src with
  | value c psn => exact tame_ite (State.bindCell_tame (Tame.updFree h₀ (by omega)) _ _ _ _) (State.bindCell_tame h₀ _ _ _ _)
  | zero => exact State.bindCell_tame h₀ _ _ _ _
  | race => exact h₀
  | wait => exact h₀

theorem State.laneTake_tame {dr fu ck : Bool} {s₀ s : State} (h₀ : Tame dr fu ck s₀ s) (r pr qid : Nat) : Tame dr fu ck s₀ (State.laneTake s r pr qid) := by
  delta State.laneTake
  repeat' first
    | with_reducible assumption
    | refine fun _ => ?_
    | fail_if_no_progress lift_lets
    | (intro x; refine tame_cut (a := s₀) (x := x) ?_ ?_; subst x; rotate_left; (clear_value x; intro hx); rotate_right)
    | (intro x; subst x)
    | with_reducible apply State.setRace_tame
    | fail_if_no_progress with_reducible apply Tame.upd
    | with_reducible apply tame_ite
    | with_reducible apply tame_ite_fst
    | with_reducible apply when_tame
    | with_reducible apply each_tame
    | with_reducible apply foldl_tame
    | with_reducible apply foldl_tame_fst
    | split
    | simp only [id_eq]
    | dsimp only
    | fail_if_no_progress with_reducible refine Tame.updFree ?_ (by first | omega | (simp; done) | (split <;> omega))
    | with_reducible apply Tame.updClkAt
    | fail_if_no_progress with_reducible refine Tame.updFuse ?_ (by first | omega | (simp; done) | (split <;> omega))
    | fail_if_no_progress with_reducible refine Tame.updClk ?_ (by (first | omega | (simp_all [regsPut_wf, State.clkAt]; done) | (simp_all [regsPut_wf, State.clkAt]; omega))) (by (first | omega | (simp_all [regsPut_wf, State.clkAt]; done) | (simp_all [regsPut_wf, State.clkAt]; omega))) (by (first | omega | (simp_all [regsPut_wf, State.clkAt]; done) | (simp_all [regsPut_wf, State.clkAt]; omega)))
    | fail_if_no_progress with_reducible refine Tame.updRegs ?_ (by (first | omega | (simp_all [regsPut_wf, State.clkAt]; done) | (simp_all [regsPut_wf, State.clkAt]; omega))) (by (first | omega | (simp_all [regsPut_wf, State.clkAt]; done) | (simp_all [regsPut_wf, State.clkAt]; omega)))
    | fail_if_no_progress with_reducible refine Tame.updDram ?_ (by (first | omega | (simp_all [regsPut_wf, State.clkAt]; done) | (simp_all [regsPut_wf, State.clkAt]; omega))) (by (first | omega | (simp_all [regsPut_wf, State.clkAt]; done) | (simp_all [regsPut_wf, State.clkAt]; omega))) (by (first | omega | (simp_all [regsPut_wf, State.clkAt]; done) | (simp_all [regsPut_wf, State.clkAt]; omega)))

theorem State.steerRead_tame {dr fu : Bool} {s₀ s : State} (h₀ : Tame dr fu false s₀ s) (id : Nat) (q : Req) (cells : List Nat) : Tame dr fu false s₀ (State.steerRead s id q cells) := by
  delta State.steerRead
  repeat' first
    | with_reducible assumption
    | refine fun _ => ?_
    | fail_if_no_progress lift_lets
    | (intro x; refine tame_cut (a := s₀) (x := x) ?_ ?_; subst x; rotate_left; (clear_value x; intro hx); rotate_right)
    | (intro x; subst x)
    | with_reducible apply State.setRace_tame
    | with_reducible apply State.tallyCls_tame
    | with_reducible apply State.updReq_tame
    | with_reducible apply State.modeLatch_tame
    | with_reducible apply State.bindSrc_tame
    | with_reducible apply State.laneTake_tame
    | fail_if_no_progress with_reducible apply Tame.upd
    | with_reducible apply tame_ite
    | with_reducible apply tame_ite_fst
    | with_reducible apply when_tame
    | with_reducible apply each_tame
    | with_reducible apply foldl_tame
    | with_reducible apply foldl_tame_fst
    | split
    | simp only [id_eq]
    | dsimp only
    | fail_if_no_progress with_reducible refine Tame.updFree ?_ (by first | omega | (simp; done) | (split <;> omega))
    | with_reducible apply Tame.updClkAt
    | fail_if_no_progress with_reducible refine Tame.updFuse ?_ (by first | omega | (simp; done) | (split <;> omega))
    | fail_if_no_progress with_reducible refine Tame.updClk ?_ (by (first | omega | (simp_all [regsPut_wf, State.clkAt]; done) | (simp_all [regsPut_wf, State.clkAt]; omega))) (by (first | omega | (simp_all [regsPut_wf, State.clkAt]; done) | (simp_all [regsPut_wf, State.clkAt]; omega))) (by (first | omega | (simp_all [regsPut_wf, State.clkAt]; done) | (simp_all [regsPut_wf, State.clkAt]; omega)))
    | fail_if_no_progress with_reducible refine Tame.updRegs ?_ (by (first | omega | (simp_all [regsPut_wf, State.clkAt]; done) | (simp_all [regsPut_wf, State.clkAt]; omega))) (by (first | omega | (simp_all [regsPut_wf, State.clkAt]; done) | (simp_all [regsPut_wf, State.clkAt]; omega)))
    | fail_if_no_progress with_reducible refine Tame.updDram ?_ (by (first | omega | (simp_all [regsPut_wf, State.clkAt]; done) | (simp_all [regsPut_wf, State.clkAt]; omega))) (by (first | omega | (simp_all [regsPut_wf, State.clkAt]; done) | (simp_all [regsPut_wf, State.clkAt]; omega))) (by (first | omega | (simp_all [regsPut_wf, State.clkAt]; done) | (simp_all [regsPut_wf, State.clkAt]; omega)))

theorem State.doRead_tame {dr fu : Bool} {s₀ s : State} (h₀ : Tame dr fu false s₀ s) (id mc : Nat) : Tame dr fu false s₀ (State.doRead s id mc) := by
  delta State.doRead
  repeat' first
    | with_reducible assumption
    | refine fun _ => ?_
    | fail_if_no_progress lift_lets
    | (intro x; refine tame_cut (a := s₀) (x := x) ?_ ?_; subst x; rotate_left; (clear_value x; intro hx); rotate_right)
    | (intro x; subst x)
    | with_reducible apply State.endReq_tame
    | with_reducible apply State.flumeClose_tame
    | with_reducible apply State.steerRead_tame
    | fail_if_no_progress with_reducible apply Tame.upd
    | with_reducible apply tame_ite
    | with_reducible apply tame_ite_fst
    | with_reducible apply when_tame
    | with_reducible apply each_tame
    | with_reducible apply foldl_tame
    | with_reducible apply foldl_tame_fst
    | split
    | simp only [id_eq]
    | dsimp only
    | fail_if_no_progress with_reducible refine Tame.updFree ?_ (by first | omega | (simp; done) | (split <;> omega))
    | with_reducible apply Tame.updClkAt
    | fail_if_no_progress with_reducible refine Tame.updFuse ?_ (by first | omega | (simp; done) | (split <;> omega))
    | fail_if_no_progress with_reducible refine Tame.updClk ?_ (by (first | omega | (simp_all [regsPut_wf, State.clkAt]; done) | (simp_all [regsPut_wf, State.clkAt]; omega))) (by (first | omega | (simp_all [regsPut_wf, State.clkAt]; done) | (simp_all [regsPut_wf, State.clkAt]; omega))) (by (first | omega | (simp_all [regsPut_wf, State.clkAt]; done) | (simp_all [regsPut_wf, State.clkAt]; omega)))
    | fail_if_no_progress with_reducible refine Tame.updRegs ?_ (by (first | omega | (simp_all [regsPut_wf, State.clkAt]; done) | (simp_all [regsPut_wf, State.clkAt]; omega))) (by (first | omega | (simp_all [regsPut_wf, State.clkAt]; done) | (simp_all [regsPut_wf, State.clkAt]; omega)))
    | fail_if_no_progress with_reducible refine Tame.updDram ?_ (by (first | omega | (simp_all [regsPut_wf, State.clkAt]; done) | (simp_all [regsPut_wf, State.clkAt]; omega))) (by (first | omega | (simp_all [regsPut_wf, State.clkAt]; done) | (simp_all [regsPut_wf, State.clkAt]; omega))) (by (first | omega | (simp_all [regsPut_wf, State.clkAt]; done) | (simp_all [regsPut_wf, State.clkAt]; omega)))

theorem execRd_out (s : State) (id mc : Nat) : ∃ t, execRd id mc s = .next t ∧ Tame true true false s t := by
  have h₀ := @Tame.refl true true false s
  generalize hs₀ : s = s₀ at h₀
  delta execRd
  refine ⟨_, rfl, ?_⟩
  repeat' first
    | with_reducible assumption
    | refine fun _ => ?_
    | fail_if_no_progress lift_lets
    | (intro x; refine tame_cut (a := s₀) (x := x) ?_ ?_; subst x; rotate_left; (clear_value x; intro hx); rotate_right)
    | (intro x; subst x)
    | with_reducible apply State.doRead_tame
    | fail_if_no_progress with_reducible apply Tame.upd
    | with_reducible apply tame_ite
    | with_reducible apply tame_ite_fst
    | with_reducible apply when_tame
    | with_reducible apply each_tame
    | with_reducible apply foldl_tame
    | with_reducible apply foldl_tame_fst
    | split
    | simp only [id_eq]
    | dsimp only
    | fail_if_no_progress with_reducible refine Tame.updFree ?_ (by first | omega | (simp; done) | (split <;> omega))
    | with_reducible apply Tame.updClkAt
    | fail_if_no_progress with_reducible refine Tame.updFuse ?_ (by first | omega | (simp; done) | (split <;> omega))
    | fail_if_no_progress with_reducible refine Tame.updClk ?_ (by (first | omega | (simp_all [regsPut_wf, State.clkAt]; done) | (simp_all [regsPut_wf, State.clkAt]; omega))) (by (first | omega | (simp_all [regsPut_wf, State.clkAt]; done) | (simp_all [regsPut_wf, State.clkAt]; omega))) (by (first | omega | (simp_all [regsPut_wf, State.clkAt]; done) | (simp_all [regsPut_wf, State.clkAt]; omega)))
    | fail_if_no_progress with_reducible refine Tame.updRegs ?_ (by (first | omega | (simp_all [regsPut_wf, State.clkAt]; done) | (simp_all [regsPut_wf, State.clkAt]; omega))) (by (first | omega | (simp_all [regsPut_wf, State.clkAt]; done) | (simp_all [regsPut_wf, State.clkAt]; omega)))
    | fail_if_no_progress with_reducible refine Tame.updDram ?_ (by (first | omega | (simp_all [regsPut_wf, State.clkAt]; done) | (simp_all [regsPut_wf, State.clkAt]; omega))) (by (first | omega | (simp_all [regsPut_wf, State.clkAt]; done) | (simp_all [regsPut_wf, State.clkAt]; omega))) (by (first | omega | (simp_all [regsPut_wf, State.clkAt]; done) | (simp_all [regsPut_wf, State.clkAt]; omega)))

theorem execRdx_out (s : State) (id mc : Nat) : ∃ t, execRdx id mc s = .next t ∧ Tame true true false s t := by
  have h₀ := @Tame.refl true true false s
  generalize hs₀ : s = s₀ at h₀
  delta execRdx
  refine ⟨_, rfl, ?_⟩
  repeat' first
    | with_reducible assumption
    | refine fun _ => ?_
    | fail_if_no_progress lift_lets
    | (intro x; refine tame_cut (a := s₀) (x := x) ?_ ?_; subst x; rotate_left; (clear_value x; intro hx); rotate_right)
    | (intro x; subst x)
    | with_reducible apply State.doRead_tame
    | fail_if_no_progress with_reducible apply Tame.upd
    | with_reducible apply tame_ite
    | with_reducible apply tame_ite_fst
    | with_reducible apply when_tame
    | with_reducible apply each_tame
    | with_reducible apply foldl_tame
    | with_reducible apply foldl_tame_fst
    | split
    | simp only [id_eq]
    | dsimp only
    | fail_if_no_progress with_reducible refine Tame.updFree ?_ (by first | omega | (simp; done) | (split <;> omega))
    | with_reducible apply Tame.updClkAt
    | fail_if_no_progress with_reducible refine Tame.updFuse ?_ (by first | omega | (simp; done) | (split <;> omega))
    | fail_if_no_progress with_reducible refine Tame.updClk ?_ (by (first | omega | (simp_all [regsPut_wf, State.clkAt]; done) | (simp_all [regsPut_wf, State.clkAt]; omega))) (by (first | omega | (simp_all [regsPut_wf, State.clkAt]; done) | (simp_all [regsPut_wf, State.clkAt]; omega))) (by (first | omega | (simp_all [regsPut_wf, State.clkAt]; done) | (simp_all [regsPut_wf, State.clkAt]; omega)))
    | fail_if_no_progress with_reducible refine Tame.updRegs ?_ (by (first | omega | (simp_all [regsPut_wf, State.clkAt]; done) | (simp_all [regsPut_wf, State.clkAt]; omega))) (by (first | omega | (simp_all [regsPut_wf, State.clkAt]; done) | (simp_all [regsPut_wf, State.clkAt]; omega)))
    | fail_if_no_progress with_reducible refine Tame.updDram ?_ (by (first | omega | (simp_all [regsPut_wf, State.clkAt]; done) | (simp_all [regsPut_wf, State.clkAt]; omega))) (by (first | omega | (simp_all [regsPut_wf, State.clkAt]; done) | (simp_all [regsPut_wf, State.clkAt]; omega))) (by (first | omega | (simp_all [regsPut_wf, State.clkAt]; done) | (simp_all [regsPut_wf, State.clkAt]; omega)))

theorem execNop_out (s : State) (id : Nat) : ∃ t, execNop id s = .next t ∧ Tame true true true s t := by
  have h₀ := @Tame.refl true true true s
  generalize hs₀ : s = s₀ at h₀
  delta execNop
  refine ⟨_, rfl, ?_⟩
  repeat' first
    | with_reducible assumption
    | refine fun _ => ?_
    | fail_if_no_progress lift_lets
    | (intro x; refine tame_cut (a := s₀) (x := x) ?_ ?_; subst x; rotate_left; (clear_value x; intro hx); rotate_right)
    | (intro x; subst x)
    | with_reducible apply State.updReq_tame
    | with_reducible apply State.reap_tame
    | fail_if_no_progress with_reducible apply Tame.upd
    | with_reducible apply tame_ite
    | with_reducible apply tame_ite_fst
    | with_reducible apply when_tame
    | with_reducible apply each_tame
    | with_reducible apply foldl_tame
    | with_reducible apply foldl_tame_fst
    | split
    | simp only [id_eq]
    | dsimp only
    | fail_if_no_progress with_reducible refine Tame.updFree ?_ (by first | omega | (simp; done) | (split <;> omega))
    | with_reducible apply Tame.updClkAt
    | fail_if_no_progress with_reducible refine Tame.updFuse ?_ (by first | omega | (simp; done) | (split <;> omega))
    | fail_if_no_progress with_reducible refine Tame.updClk ?_ (by (first | omega | (simp_all [regsPut_wf, State.clkAt]; done) | (simp_all [regsPut_wf, State.clkAt]; omega))) (by (first | omega | (simp_all [regsPut_wf, State.clkAt]; done) | (simp_all [regsPut_wf, State.clkAt]; omega))) (by (first | omega | (simp_all [regsPut_wf, State.clkAt]; done) | (simp_all [regsPut_wf, State.clkAt]; omega)))
    | fail_if_no_progress with_reducible refine Tame.updRegs ?_ (by (first | omega | (simp_all [regsPut_wf, State.clkAt]; done) | (simp_all [regsPut_wf, State.clkAt]; omega))) (by (first | omega | (simp_all [regsPut_wf, State.clkAt]; done) | (simp_all [regsPut_wf, State.clkAt]; omega)))
    | fail_if_no_progress with_reducible refine Tame.updDram ?_ (by (first | omega | (simp_all [regsPut_wf, State.clkAt]; done) | (simp_all [regsPut_wf, State.clkAt]; omega))) (by (first | omega | (simp_all [regsPut_wf, State.clkAt]; done) | (simp_all [regsPut_wf, State.clkAt]; omega))) (by (first | omega | (simp_all [regsPut_wf, State.clkAt]; done) | (simp_all [regsPut_wf, State.clkAt]; omega)))

theorem State.toPond_tame {dr fu ck : Bool} {s₀ s : State} (h₀ : Tame dr fu ck s₀ s) (id : Nat) : Tame dr fu ck s₀ (State.toPond s id) := by
  delta State.toPond
  repeat' first
    | with_reducible assumption
    | refine fun _ => ?_
    | fail_if_no_progress lift_lets
    | (intro x; refine tame_cut (a := s₀) (x := x) ?_ ?_; subst x; rotate_left; (clear_value x; intro hx); rotate_right)
    | (intro x; subst x)
    | with_reducible apply State.updReq_tame
    | with_reducible apply State.flumeClose_tame
    | fail_if_no_progress with_reducible apply Tame.upd
    | with_reducible apply tame_ite
    | with_reducible apply tame_ite_fst
    | with_reducible apply when_tame
    | with_reducible apply each_tame
    | with_reducible apply foldl_tame
    | with_reducible apply foldl_tame_fst
    | split
    | simp only [id_eq]
    | dsimp only
    | fail_if_no_progress with_reducible refine Tame.updFree ?_ (by first | omega | (simp; done) | (split <;> omega))
    | with_reducible apply Tame.updClkAt
    | fail_if_no_progress with_reducible refine Tame.updFuse ?_ (by first | omega | (simp; done) | (split <;> omega))
    | fail_if_no_progress with_reducible refine Tame.updClk ?_ (by (first | omega | (simp_all [regsPut_wf, State.clkAt]; done) | (simp_all [regsPut_wf, State.clkAt]; omega))) (by (first | omega | (simp_all [regsPut_wf, State.clkAt]; done) | (simp_all [regsPut_wf, State.clkAt]; omega))) (by (first | omega | (simp_all [regsPut_wf, State.clkAt]; done) | (simp_all [regsPut_wf, State.clkAt]; omega)))
    | fail_if_no_progress with_reducible refine Tame.updRegs ?_ (by (first | omega | (simp_all [regsPut_wf, State.clkAt]; done) | (simp_all [regsPut_wf, State.clkAt]; omega))) (by (first | omega | (simp_all [regsPut_wf, State.clkAt]; done) | (simp_all [regsPut_wf, State.clkAt]; omega)))
    | fail_if_no_progress with_reducible refine Tame.updDram ?_ (by (first | omega | (simp_all [regsPut_wf, State.clkAt]; done) | (simp_all [regsPut_wf, State.clkAt]; omega))) (by (first | omega | (simp_all [regsPut_wf, State.clkAt]; done) | (simp_all [regsPut_wf, State.clkAt]; omega))) (by (first | omega | (simp_all [regsPut_wf, State.clkAt]; done) | (simp_all [regsPut_wf, State.clkAt]; omega)))

theorem execWr_out (s : State) (id : Nat) : ∃ t, execWr id s = .next t ∧ Tame true true true s t := by
  have h₀ := @Tame.refl true true true s
  generalize hs₀ : s = s₀ at h₀
  delta execWr
  refine ⟨_, rfl, ?_⟩
  repeat' first
    | with_reducible assumption
    | refine fun _ => ?_
    | fail_if_no_progress lift_lets
    | (intro x; refine tame_cut (a := s₀) (x := x) ?_ ?_; subst x; rotate_left; (clear_value x; intro hx); rotate_right)
    | (intro x; subst x)
    | with_reducible apply State.toPond_tame
    | fail_if_no_progress with_reducible apply Tame.upd
    | with_reducible apply tame_ite
    | with_reducible apply tame_ite_fst
    | with_reducible apply when_tame
    | with_reducible apply each_tame
    | with_reducible apply foldl_tame
    | with_reducible apply foldl_tame_fst
    | split
    | simp only [id_eq]
    | dsimp only
    | fail_if_no_progress with_reducible refine Tame.updFree ?_ (by first | omega | (simp; done) | (split <;> omega))
    | with_reducible apply Tame.updClkAt
    | fail_if_no_progress with_reducible refine Tame.updFuse ?_ (by first | omega | (simp; done) | (split <;> omega))
    | fail_if_no_progress with_reducible refine Tame.updClk ?_ (by (first | omega | (simp_all [regsPut_wf, State.clkAt]; done) | (simp_all [regsPut_wf, State.clkAt]; omega))) (by (first | omega | (simp_all [regsPut_wf, State.clkAt]; done) | (simp_all [regsPut_wf, State.clkAt]; omega))) (by (first | omega | (simp_all [regsPut_wf, State.clkAt]; done) | (simp_all [regsPut_wf, State.clkAt]; omega)))
    | fail_if_no_progress with_reducible refine Tame.updRegs ?_ (by (first | omega | (simp_all [regsPut_wf, State.clkAt]; done) | (simp_all [regsPut_wf, State.clkAt]; omega))) (by (first | omega | (simp_all [regsPut_wf, State.clkAt]; done) | (simp_all [regsPut_wf, State.clkAt]; omega)))
    | fail_if_no_progress with_reducible refine Tame.updDram ?_ (by (first | omega | (simp_all [regsPut_wf, State.clkAt]; done) | (simp_all [regsPut_wf, State.clkAt]; omega))) (by (first | omega | (simp_all [regsPut_wf, State.clkAt]; done) | (simp_all [regsPut_wf, State.clkAt]; omega))) (by (first | omega | (simp_all [regsPut_wf, State.clkAt]; done) | (simp_all [regsPut_wf, State.clkAt]; omega)))

theorem execWrp_out (s : State) (id : Nat) : ∃ t, execWrp id s = .next t ∧ Tame true true true s t := by
  have h₀ := @Tame.refl true true true s
  generalize hs₀ : s = s₀ at h₀
  delta execWrp
  refine ⟨_, rfl, ?_⟩
  repeat' first
    | with_reducible assumption
    | refine fun _ => ?_
    | fail_if_no_progress lift_lets
    | (intro x; refine tame_cut (a := s₀) (x := x) ?_ ?_; subst x; rotate_left; (clear_value x; intro hx); rotate_right)
    | (intro x; subst x)
    | with_reducible apply State.toPond_tame
    | fail_if_no_progress with_reducible apply Tame.upd
    | with_reducible apply tame_ite
    | with_reducible apply tame_ite_fst
    | with_reducible apply when_tame
    | with_reducible apply each_tame
    | with_reducible apply foldl_tame
    | with_reducible apply foldl_tame_fst
    | split
    | simp only [id_eq]
    | dsimp only
    | fail_if_no_progress with_reducible refine Tame.updFree ?_ (by first | omega | (simp; done) | (split <;> omega))
    | with_reducible apply Tame.updClkAt
    | fail_if_no_progress with_reducible refine Tame.updFuse ?_ (by first | omega | (simp; done) | (split <;> omega))
    | fail_if_no_progress with_reducible refine Tame.updClk ?_ (by (first | omega | (simp_all [regsPut_wf, State.clkAt]; done) | (simp_all [regsPut_wf, State.clkAt]; omega))) (by (first | omega | (simp_all [regsPut_wf, State.clkAt]; done) | (simp_all [regsPut_wf, State.clkAt]; omega))) (by (first | omega | (simp_all [regsPut_wf, State.clkAt]; done) | (simp_all [regsPut_wf, State.clkAt]; omega)))
    | fail_if_no_progress with_reducible refine Tame.updRegs ?_ (by (first | omega | (simp_all [regsPut_wf, State.clkAt]; done) | (simp_all [regsPut_wf, State.clkAt]; omega))) (by (first | omega | (simp_all [regsPut_wf, State.clkAt]; done) | (simp_all [regsPut_wf, State.clkAt]; omega)))
    | fail_if_no_progress with_reducible refine Tame.updDram ?_ (by (first | omega | (simp_all [regsPut_wf, State.clkAt]; done) | (simp_all [regsPut_wf, State.clkAt]; omega))) (by (first | omega | (simp_all [regsPut_wf, State.clkAt]; done) | (simp_all [regsPut_wf, State.clkAt]; omega))) (by (first | omega | (simp_all [regsPut_wf, State.clkAt]; done) | (simp_all [regsPut_wf, State.clkAt]; omega)))

theorem execWrc_out (s : State) (id : Nat) : ∃ t, execWrc id s = .next t ∧ Tame true true true s t := by
  have h₀ := @Tame.refl true true true s
  generalize hs₀ : s = s₀ at h₀
  delta execWrc
  refine ⟨_, rfl, ?_⟩
  repeat' first
    | with_reducible assumption
    | refine fun _ => ?_
    | fail_if_no_progress lift_lets
    | (intro x; refine tame_cut (a := s₀) (x := x) ?_ ?_; subst x; rotate_left; (clear_value x; intro hx); rotate_right)
    | (intro x; subst x)
    | with_reducible apply State.toPond_tame
    | fail_if_no_progress with_reducible apply Tame.upd
    | with_reducible apply tame_ite
    | with_reducible apply tame_ite_fst
    | with_reducible apply when_tame
    | with_reducible apply each_tame
    | with_reducible apply foldl_tame
    | with_reducible apply foldl_tame_fst
    | split
    | simp only [id_eq]
    | dsimp only
    | fail_if_no_progress with_reducible refine Tame.updFree ?_ (by first | omega | (simp; done) | (split <;> omega))
    | with_reducible apply Tame.updClkAt
    | fail_if_no_progress with_reducible refine Tame.updFuse ?_ (by first | omega | (simp; done) | (split <;> omega))
    | fail_if_no_progress with_reducible refine Tame.updClk ?_ (by (first | omega | (simp_all [regsPut_wf, State.clkAt]; done) | (simp_all [regsPut_wf, State.clkAt]; omega))) (by (first | omega | (simp_all [regsPut_wf, State.clkAt]; done) | (simp_all [regsPut_wf, State.clkAt]; omega))) (by (first | omega | (simp_all [regsPut_wf, State.clkAt]; done) | (simp_all [regsPut_wf, State.clkAt]; omega)))
    | fail_if_no_progress with_reducible refine Tame.updRegs ?_ (by (first | omega | (simp_all [regsPut_wf, State.clkAt]; done) | (simp_all [regsPut_wf, State.clkAt]; omega))) (by (first | omega | (simp_all [regsPut_wf, State.clkAt]; done) | (simp_all [regsPut_wf, State.clkAt]; omega)))
    | fail_if_no_progress with_reducible refine Tame.updDram ?_ (by (first | omega | (simp_all [regsPut_wf, State.clkAt]; done) | (simp_all [regsPut_wf, State.clkAt]; omega))) (by (first | omega | (simp_all [regsPut_wf, State.clkAt]; done) | (simp_all [regsPut_wf, State.clkAt]; omega))) (by (first | omega | (simp_all [regsPut_wf, State.clkAt]; done) | (simp_all [regsPut_wf, State.clkAt]; omega)))

theorem execAmo_out (s : State) (id : Nat) : ∃ t, execAmo id s = .next t ∧ Tame true true true s t := by
  have h₀ := @Tame.refl true true true s
  generalize hs₀ : s = s₀ at h₀
  delta execAmo
  refine ⟨_, rfl, ?_⟩
  repeat' first
    | with_reducible assumption
    | refine fun _ => ?_
    | fail_if_no_progress lift_lets
    | (intro x; refine tame_cut (a := s₀) (x := x) ?_ ?_; subst x; rotate_left; (clear_value x; intro hx); rotate_right)
    | (intro x; subst x)
    | with_reducible apply State.toPond_tame
    | fail_if_no_progress with_reducible apply Tame.upd
    | with_reducible apply tame_ite
    | with_reducible apply tame_ite_fst
    | with_reducible apply when_tame
    | with_reducible apply each_tame
    | with_reducible apply foldl_tame
    | with_reducible apply foldl_tame_fst
    | split
    | simp only [id_eq]
    | dsimp only
    | fail_if_no_progress with_reducible refine Tame.updFree ?_ (by first | omega | (simp; done) | (split <;> omega))
    | with_reducible apply Tame.updClkAt
    | fail_if_no_progress with_reducible refine Tame.updFuse ?_ (by first | omega | (simp; done) | (split <;> omega))
    | fail_if_no_progress with_reducible refine Tame.updClk ?_ (by (first | omega | (simp_all [regsPut_wf, State.clkAt]; done) | (simp_all [regsPut_wf, State.clkAt]; omega))) (by (first | omega | (simp_all [regsPut_wf, State.clkAt]; done) | (simp_all [regsPut_wf, State.clkAt]; omega))) (by (first | omega | (simp_all [regsPut_wf, State.clkAt]; done) | (simp_all [regsPut_wf, State.clkAt]; omega)))
    | fail_if_no_progress with_reducible refine Tame.updRegs ?_ (by (first | omega | (simp_all [regsPut_wf, State.clkAt]; done) | (simp_all [regsPut_wf, State.clkAt]; omega))) (by (first | omega | (simp_all [regsPut_wf, State.clkAt]; done) | (simp_all [regsPut_wf, State.clkAt]; omega)))
    | fail_if_no_progress with_reducible refine Tame.updDram ?_ (by (first | omega | (simp_all [regsPut_wf, State.clkAt]; done) | (simp_all [regsPut_wf, State.clkAt]; omega))) (by (first | omega | (simp_all [regsPut_wf, State.clkAt]; done) | (simp_all [regsPut_wf, State.clkAt]; omega))) (by (first | omega | (simp_all [regsPut_wf, State.clkAt]; done) | (simp_all [regsPut_wf, State.clkAt]; omega)))

theorem State.toFlume_tame {dr fu ck : Bool} {s₀ s : State} (h₀ : Tame dr fu ck s₀ s) (id : Nat) : Tame dr fu ck s₀ (State.toFlume s id) := by
  delta State.toFlume
  repeat' first
    | with_reducible assumption
    | refine fun _ => ?_
    | fail_if_no_progress lift_lets
    | (intro x; refine tame_cut (a := s₀) (x := x) ?_ ?_; subst x; rotate_left; (clear_value x; intro hx); rotate_right)
    | (intro x; subst x)
    | with_reducible apply State.tally_tame
    | with_reducible apply State.tallyStore_tame
    | with_reducible apply State.updReq_tame
    | with_reducible apply State.dirtyAt_tame
    | with_reducible apply State.flumeClose_tame
    | with_reducible apply State.flumeLow_tame
    | fail_if_no_progress with_reducible apply Tame.upd
    | with_reducible apply tame_ite
    | with_reducible apply tame_ite_fst
    | with_reducible apply when_tame
    | with_reducible apply each_tame
    | with_reducible apply foldl_tame
    | with_reducible apply foldl_tame_fst
    | split
    | simp only [id_eq]
    | dsimp only
    | fail_if_no_progress with_reducible refine Tame.updFree ?_ (by first | omega | (simp; done) | (split <;> omega))
    | with_reducible apply Tame.updClkAt
    | fail_if_no_progress with_reducible refine Tame.updFuse ?_ (by first | omega | (simp; done) | (split <;> omega))
    | fail_if_no_progress with_reducible refine Tame.updClk ?_ (by (first | omega | (simp_all [regsPut_wf, State.clkAt]; done) | (simp_all [regsPut_wf, State.clkAt]; omega))) (by (first | omega | (simp_all [regsPut_wf, State.clkAt]; done) | (simp_all [regsPut_wf, State.clkAt]; omega))) (by (first | omega | (simp_all [regsPut_wf, State.clkAt]; done) | (simp_all [regsPut_wf, State.clkAt]; omega)))
    | fail_if_no_progress with_reducible refine Tame.updRegs ?_ (by (first | omega | (simp_all [regsPut_wf, State.clkAt]; done) | (simp_all [regsPut_wf, State.clkAt]; omega))) (by (first | omega | (simp_all [regsPut_wf, State.clkAt]; done) | (simp_all [regsPut_wf, State.clkAt]; omega)))
    | fail_if_no_progress with_reducible refine Tame.updDram ?_ (by (first | omega | (simp_all [regsPut_wf, State.clkAt]; done) | (simp_all [regsPut_wf, State.clkAt]; omega))) (by (first | omega | (simp_all [regsPut_wf, State.clkAt]; done) | (simp_all [regsPut_wf, State.clkAt]; omega))) (by (first | omega | (simp_all [regsPut_wf, State.clkAt]; done) | (simp_all [regsPut_wf, State.clkAt]; omega)))

theorem execWrn_out (s : State) (id : Nat) : ∃ t, execWrn id s = .next t ∧ Tame true true true s t := by
  have h₀ := @Tame.refl true true true s
  generalize hs₀ : s = s₀ at h₀
  delta execWrn
  refine ⟨_, rfl, ?_⟩
  repeat' first
    | with_reducible assumption
    | refine fun _ => ?_
    | fail_if_no_progress lift_lets
    | (intro x; refine tame_cut (a := s₀) (x := x) ?_ ?_; subst x; rotate_left; (clear_value x; intro hx); rotate_right)
    | (intro x; subst x)
    | with_reducible apply State.toFlume_tame
    | fail_if_no_progress with_reducible apply Tame.upd
    | with_reducible apply tame_ite
    | with_reducible apply tame_ite_fst
    | with_reducible apply when_tame
    | with_reducible apply each_tame
    | with_reducible apply foldl_tame
    | with_reducible apply foldl_tame_fst
    | split
    | simp only [id_eq]
    | dsimp only
    | fail_if_no_progress with_reducible refine Tame.updFree ?_ (by first | omega | (simp; done) | (split <;> omega))
    | with_reducible apply Tame.updClkAt
    | fail_if_no_progress with_reducible refine Tame.updFuse ?_ (by first | omega | (simp; done) | (split <;> omega))
    | fail_if_no_progress with_reducible refine Tame.updClk ?_ (by (first | omega | (simp_all [regsPut_wf, State.clkAt]; done) | (simp_all [regsPut_wf, State.clkAt]; omega))) (by (first | omega | (simp_all [regsPut_wf, State.clkAt]; done) | (simp_all [regsPut_wf, State.clkAt]; omega))) (by (first | omega | (simp_all [regsPut_wf, State.clkAt]; done) | (simp_all [regsPut_wf, State.clkAt]; omega)))
    | fail_if_no_progress with_reducible refine Tame.updRegs ?_ (by (first | omega | (simp_all [regsPut_wf, State.clkAt]; done) | (simp_all [regsPut_wf, State.clkAt]; omega))) (by (first | omega | (simp_all [regsPut_wf, State.clkAt]; done) | (simp_all [regsPut_wf, State.clkAt]; omega)))
    | fail_if_no_progress with_reducible refine Tame.updDram ?_ (by (first | omega | (simp_all [regsPut_wf, State.clkAt]; done) | (simp_all [regsPut_wf, State.clkAt]; omega))) (by (first | omega | (simp_all [regsPut_wf, State.clkAt]; done) | (simp_all [regsPut_wf, State.clkAt]; omega))) (by (first | omega | (simp_all [regsPut_wf, State.clkAt]; done) | (simp_all [regsPut_wf, State.clkAt]; omega)))

theorem execFlumeIdleClose_out (s : State) (fid : Nat) : ∃ t, execFlumeIdleClose fid s = .next t ∧ Tame true true true s t := by
  have h₀ := @Tame.refl true true true s
  generalize hs₀ : s = s₀ at h₀
  delta execFlumeIdleClose
  refine ⟨_, rfl, ?_⟩
  repeat' first
    | with_reducible assumption
    | refine fun _ => ?_
    | fail_if_no_progress lift_lets
    | (intro x; refine tame_cut (a := s₀) (x := x) ?_ ?_; subst x; rotate_left; (clear_value x; intro hx); rotate_right)
    | (intro x; subst x)
    | with_reducible apply State.flumeClose_tame
    | fail_if_no_progress with_reducible apply Tame.upd
    | with_reducible apply tame_ite
    | with_reducible apply tame_ite_fst
    | with_reducible apply when_tame
    | with_reducible apply each_tame
    | with_reducible apply foldl_tame
    | with_reducible apply foldl_tame_fst
    | split
    | simp only [id_eq]
    | dsimp only
    | fail_if_no_progress with_reducible refine Tame.updFree ?_ (by first | omega | (simp; done) | (split <;> omega))
    | with_reducible apply Tame.updClkAt
    | fail_if_no_progress with_reducible refine Tame.updFuse ?_ (by first | omega | (simp; done) | (split <;> omega))
    | fail_if_no_progress with_reducible refine Tame.updClk ?_ (by (first | omega | (simp_all [regsPut_wf, State.clkAt]; done) | (simp_all [regsPut_wf, State.clkAt]; omega))) (by (first | omega | (simp_all [regsPut_wf, State.clkAt]; done) | (simp_all [regsPut_wf, State.clkAt]; omega))) (by (first | omega | (simp_all [regsPut_wf, State.clkAt]; done) | (simp_all [regsPut_wf, State.clkAt]; omega)))
    | fail_if_no_progress with_reducible refine Tame.updRegs ?_ (by (first | omega | (simp_all [regsPut_wf, State.clkAt]; done) | (simp_all [regsPut_wf, State.clkAt]; omega))) (by (first | omega | (simp_all [regsPut_wf, State.clkAt]; done) | (simp_all [regsPut_wf, State.clkAt]; omega)))
    | fail_if_no_progress with_reducible refine Tame.updDram ?_ (by (first | omega | (simp_all [regsPut_wf, State.clkAt]; done) | (simp_all [regsPut_wf, State.clkAt]; omega))) (by (first | omega | (simp_all [regsPut_wf, State.clkAt]; done) | (simp_all [regsPut_wf, State.clkAt]; omega))) (by (first | omega | (simp_all [regsPut_wf, State.clkAt]; done) | (simp_all [regsPut_wf, State.clkAt]; omega)))

theorem execTokenRelease_out (s : State) (id : Nat) : ∃ t, execTokenRelease id s = .next t ∧ Tame true true true s t := by
  have h₀ := @Tame.refl true true true s
  generalize hs₀ : s = s₀ at h₀
  delta execTokenRelease
  refine ⟨_, rfl, ?_⟩
  repeat' first
    | with_reducible assumption
    | refine fun _ => ?_
    | fail_if_no_progress lift_lets
    | (intro x; refine tame_cut (a := s₀) (x := x) ?_ ?_; subst x; rotate_left; (clear_value x; intro hx); rotate_right)
    | (intro x; subst x)
    | with_reducible apply State.updReq_tame
    | fail_if_no_progress with_reducible apply Tame.upd
    | with_reducible apply tame_ite
    | with_reducible apply tame_ite_fst
    | with_reducible apply when_tame
    | with_reducible apply each_tame
    | with_reducible apply foldl_tame
    | with_reducible apply foldl_tame_fst
    | split
    | simp only [id_eq]
    | dsimp only
    | fail_if_no_progress with_reducible refine Tame.updFree ?_ (by first | omega | (simp; done) | (split <;> omega))
    | with_reducible apply Tame.updClkAt
    | fail_if_no_progress with_reducible refine Tame.updFuse ?_ (by first | omega | (simp; done) | (split <;> omega))
    | fail_if_no_progress with_reducible refine Tame.updClk ?_ (by (first | omega | (simp_all [regsPut_wf, State.clkAt]; done) | (simp_all [regsPut_wf, State.clkAt]; omega))) (by (first | omega | (simp_all [regsPut_wf, State.clkAt]; done) | (simp_all [regsPut_wf, State.clkAt]; omega))) (by (first | omega | (simp_all [regsPut_wf, State.clkAt]; done) | (simp_all [regsPut_wf, State.clkAt]; omega)))
    | fail_if_no_progress with_reducible refine Tame.updRegs ?_ (by (first | omega | (simp_all [regsPut_wf, State.clkAt]; done) | (simp_all [regsPut_wf, State.clkAt]; omega))) (by (first | omega | (simp_all [regsPut_wf, State.clkAt]; done) | (simp_all [regsPut_wf, State.clkAt]; omega)))
    | fail_if_no_progress with_reducible refine Tame.updDram ?_ (by (first | omega | (simp_all [regsPut_wf, State.clkAt]; done) | (simp_all [regsPut_wf, State.clkAt]; omega))) (by (first | omega | (simp_all [regsPut_wf, State.clkAt]; done) | (simp_all [regsPut_wf, State.clkAt]; omega))) (by (first | omega | (simp_all [regsPut_wf, State.clkAt]; done) | (simp_all [regsPut_wf, State.clkAt]; omega)))

theorem State.makeVisible_tame {dr fu ck : Bool} {s₀ s : State} (h₀ : Tame dr fu ck s₀ s) (id : Nat) (clear : Bool) : Tame dr fu ck s₀ (State.makeVisible s id clear) := by
  delta State.makeVisible
  repeat' first
    | with_reducible assumption
    | refine fun _ => ?_
    | fail_if_no_progress lift_lets
    | (intro x; refine tame_cut (a := s₀) (x := x) ?_ ?_; subst x; rotate_left; (clear_value x; intro hx); rotate_right)
    | (intro x; subst x)
    | with_reducible apply State.tally_tame
    | with_reducible apply State.touch_tame
    | fail_if_no_progress with_reducible apply Tame.upd
    | with_reducible apply tame_ite
    | with_reducible apply tame_ite_fst
    | with_reducible apply when_tame
    | with_reducible apply each_tame
    | with_reducible apply foldl_tame
    | with_reducible apply foldl_tame_fst
    | split
    | simp only [id_eq]
    | dsimp only
    | fail_if_no_progress with_reducible refine Tame.updFree ?_ (by first | omega | (simp; done) | (split <;> omega))
    | with_reducible apply Tame.updClkAt
    | fail_if_no_progress with_reducible refine Tame.updFuse ?_ (by first | omega | (simp; done) | (split <;> omega))
    | fail_if_no_progress with_reducible refine Tame.updClk ?_ (by (first | omega | (simp_all [regsPut_wf, State.clkAt]; done) | (simp_all [regsPut_wf, State.clkAt]; omega))) (by (first | omega | (simp_all [regsPut_wf, State.clkAt]; done) | (simp_all [regsPut_wf, State.clkAt]; omega))) (by (first | omega | (simp_all [regsPut_wf, State.clkAt]; done) | (simp_all [regsPut_wf, State.clkAt]; omega)))
    | fail_if_no_progress with_reducible refine Tame.updRegs ?_ (by (first | omega | (simp_all [regsPut_wf, State.clkAt]; done) | (simp_all [regsPut_wf, State.clkAt]; omega))) (by (first | omega | (simp_all [regsPut_wf, State.clkAt]; done) | (simp_all [regsPut_wf, State.clkAt]; omega)))
    | fail_if_no_progress with_reducible refine Tame.updDram ?_ (by (first | omega | (simp_all [regsPut_wf, State.clkAt]; done) | (simp_all [regsPut_wf, State.clkAt]; omega))) (by (first | omega | (simp_all [regsPut_wf, State.clkAt]; done) | (simp_all [regsPut_wf, State.clkAt]; omega))) (by (first | omega | (simp_all [regsPut_wf, State.clkAt]; done) | (simp_all [regsPut_wf, State.clkAt]; omega)))

theorem State.pondDrop_tame {dr fu ck : Bool} {s₀ s : State} (h₀ : Tame dr fu ck s₀ s) (id : Nat) : Tame dr fu ck s₀ (State.pondDrop s id) := by
  delta State.pondDrop
  repeat' first
    | with_reducible assumption
    | refine fun _ => ?_
    | fail_if_no_progress lift_lets
    | (intro x; refine tame_cut (a := s₀) (x := x) ?_ ?_; subst x; rotate_left; (clear_value x; intro hx); rotate_right)
    | (intro x; subst x)
    | with_reducible apply State.tally_tame
    | fail_if_no_progress with_reducible apply Tame.upd
    | with_reducible apply tame_ite
    | with_reducible apply tame_ite_fst
    | with_reducible apply when_tame
    | with_reducible apply each_tame
    | with_reducible apply foldl_tame
    | with_reducible apply foldl_tame_fst
    | split
    | simp only [id_eq]
    | dsimp only
    | fail_if_no_progress with_reducible refine Tame.updFree ?_ (by first | omega | (simp; done) | (split <;> omega))
    | with_reducible apply Tame.updClkAt
    | fail_if_no_progress with_reducible refine Tame.updFuse ?_ (by first | omega | (simp; done) | (split <;> omega))
    | fail_if_no_progress with_reducible refine Tame.updClk ?_ (by (first | omega | (simp_all [regsPut_wf, State.clkAt]; done) | (simp_all [regsPut_wf, State.clkAt]; omega))) (by (first | omega | (simp_all [regsPut_wf, State.clkAt]; done) | (simp_all [regsPut_wf, State.clkAt]; omega))) (by (first | omega | (simp_all [regsPut_wf, State.clkAt]; done) | (simp_all [regsPut_wf, State.clkAt]; omega)))
    | fail_if_no_progress with_reducible refine Tame.updRegs ?_ (by (first | omega | (simp_all [regsPut_wf, State.clkAt]; done) | (simp_all [regsPut_wf, State.clkAt]; omega))) (by (first | omega | (simp_all [regsPut_wf, State.clkAt]; done) | (simp_all [regsPut_wf, State.clkAt]; omega)))
    | fail_if_no_progress with_reducible refine Tame.updDram ?_ (by (first | omega | (simp_all [regsPut_wf, State.clkAt]; done) | (simp_all [regsPut_wf, State.clkAt]; omega))) (by (first | omega | (simp_all [regsPut_wf, State.clkAt]; done) | (simp_all [regsPut_wf, State.clkAt]; omega))) (by (first | omega | (simp_all [regsPut_wf, State.clkAt]; done) | (simp_all [regsPut_wf, State.clkAt]; omega)))

theorem State.applyToken_tame {dr fu ck : Bool} {s₀ s : State} (h₀ : Tame dr fu ck s₀ s) (id : Nat) (q : Req) : Tame dr fu ck s₀ (State.applyToken s id q) := by
  delta State.applyToken
  repeat' first
    | with_reducible assumption
    | refine fun _ => ?_
    | fail_if_no_progress lift_lets
    | (intro x; refine tame_cut (a := s₀) (x := x) ?_ ?_; subst x; rotate_left; (clear_value x; intro hx); rotate_right)
    | (intro x; subst x)
    | with_reducible apply State.tallyStore_tame
    | with_reducible apply State.updReq_tame
    | with_reducible apply State.endReq_tame
    | with_reducible apply State.clearResv_tame
    | with_reducible apply State.makeVisible_tame
    | with_reducible apply State.pondDrop_tame
    | fail_if_no_progress with_reducible apply Tame.upd
    | with_reducible apply tame_ite
    | with_reducible apply tame_ite_fst
    | with_reducible apply when_tame
    | with_reducible apply each_tame
    | with_reducible apply foldl_tame
    | with_reducible apply foldl_tame_fst
    | split
    | simp only [id_eq]
    | dsimp only
    | fail_if_no_progress with_reducible refine Tame.updFree ?_ (by first | omega | (simp; done) | (split <;> omega))
    | with_reducible apply Tame.updClkAt
    | fail_if_no_progress with_reducible refine Tame.updFuse ?_ (by first | omega | (simp; done) | (split <;> omega))
    | fail_if_no_progress with_reducible refine Tame.updClk ?_ (by (first | omega | (simp_all [regsPut_wf, State.clkAt]; done) | (simp_all [regsPut_wf, State.clkAt]; omega))) (by (first | omega | (simp_all [regsPut_wf, State.clkAt]; done) | (simp_all [regsPut_wf, State.clkAt]; omega))) (by (first | omega | (simp_all [regsPut_wf, State.clkAt]; done) | (simp_all [regsPut_wf, State.clkAt]; omega)))
    | fail_if_no_progress with_reducible refine Tame.updRegs ?_ (by (first | omega | (simp_all [regsPut_wf, State.clkAt]; done) | (simp_all [regsPut_wf, State.clkAt]; omega))) (by (first | omega | (simp_all [regsPut_wf, State.clkAt]; done) | (simp_all [regsPut_wf, State.clkAt]; omega)))
    | fail_if_no_progress with_reducible refine Tame.updDram ?_ (by (first | omega | (simp_all [regsPut_wf, State.clkAt]; done) | (simp_all [regsPut_wf, State.clkAt]; omega))) (by (first | omega | (simp_all [regsPut_wf, State.clkAt]; done) | (simp_all [regsPut_wf, State.clkAt]; omega))) (by (first | omega | (simp_all [regsPut_wf, State.clkAt]; done) | (simp_all [regsPut_wf, State.clkAt]; omega)))

theorem execTokenApply_out (s : State) (id : Nat) : ∃ t, execTokenApply id s = .next t ∧ Tame true true true s t := by
  have h₀ := @Tame.refl true true true s
  generalize hs₀ : s = s₀ at h₀
  delta execTokenApply
  refine ⟨_, rfl, ?_⟩
  repeat' first
    | with_reducible assumption
    | refine fun _ => ?_
    | fail_if_no_progress lift_lets
    | (intro x; refine tame_cut (a := s₀) (x := x) ?_ ?_; subst x; rotate_left; (clear_value x; intro hx); rotate_right)
    | (intro x; subst x)
    | with_reducible apply State.reap_tame
    | with_reducible apply State.applyToken_tame
    | fail_if_no_progress with_reducible apply Tame.upd
    | with_reducible apply tame_ite
    | with_reducible apply tame_ite_fst
    | with_reducible apply when_tame
    | with_reducible apply each_tame
    | with_reducible apply foldl_tame
    | with_reducible apply foldl_tame_fst
    | split
    | simp only [id_eq]
    | dsimp only
    | fail_if_no_progress with_reducible refine Tame.updFree ?_ (by first | omega | (simp; done) | (split <;> omega))
    | with_reducible apply Tame.updClkAt
    | fail_if_no_progress with_reducible refine Tame.updFuse ?_ (by first | omega | (simp; done) | (split <;> omega))
    | fail_if_no_progress with_reducible refine Tame.updClk ?_ (by (first | omega | (simp_all [regsPut_wf, State.clkAt]; done) | (simp_all [regsPut_wf, State.clkAt]; omega))) (by (first | omega | (simp_all [regsPut_wf, State.clkAt]; done) | (simp_all [regsPut_wf, State.clkAt]; omega))) (by (first | omega | (simp_all [regsPut_wf, State.clkAt]; done) | (simp_all [regsPut_wf, State.clkAt]; omega)))
    | fail_if_no_progress with_reducible refine Tame.updRegs ?_ (by (first | omega | (simp_all [regsPut_wf, State.clkAt]; done) | (simp_all [regsPut_wf, State.clkAt]; omega))) (by (first | omega | (simp_all [regsPut_wf, State.clkAt]; done) | (simp_all [regsPut_wf, State.clkAt]; omega)))
    | fail_if_no_progress with_reducible refine Tame.updDram ?_ (by (first | omega | (simp_all [regsPut_wf, State.clkAt]; done) | (simp_all [regsPut_wf, State.clkAt]; omega))) (by (first | omega | (simp_all [regsPut_wf, State.clkAt]; done) | (simp_all [regsPut_wf, State.clkAt]; omega))) (by (first | omega | (simp_all [regsPut_wf, State.clkAt]; done) | (simp_all [regsPut_wf, State.clkAt]; omega)))

theorem execTokenAck_out (s : State) (id : Nat) : ∃ t, execTokenAck id s = .next t ∧ Tame true true true s t := by
  have h₀ := @Tame.refl true true true s
  generalize hs₀ : s = s₀ at h₀
  delta execTokenAck
  refine ⟨_, rfl, ?_⟩
  repeat' first
    | with_reducible assumption
    | refine fun _ => ?_
    | fail_if_no_progress lift_lets
    | (intro x; refine tame_cut (a := s₀) (x := x) ?_ ?_; subst x; rotate_left; (clear_value x; intro hx); rotate_right)
    | (intro x; subst x)
    | with_reducible apply State.updReq_tame
    | with_reducible apply State.reap_tame
    | fail_if_no_progress with_reducible apply Tame.upd
    | with_reducible apply tame_ite
    | with_reducible apply tame_ite_fst
    | with_reducible apply when_tame
    | with_reducible apply each_tame
    | with_reducible apply foldl_tame
    | with_reducible apply foldl_tame_fst
    | split
    | simp only [id_eq]
    | dsimp only
    | fail_if_no_progress with_reducible refine Tame.updFree ?_ (by first | omega | (simp; done) | (split <;> omega))
    | with_reducible apply Tame.updClkAt
    | fail_if_no_progress with_reducible refine Tame.updFuse ?_ (by first | omega | (simp; done) | (split <;> omega))
    | fail_if_no_progress with_reducible refine Tame.updClk ?_ (by (first | omega | (simp_all [regsPut_wf, State.clkAt]; done) | (simp_all [regsPut_wf, State.clkAt]; omega))) (by (first | omega | (simp_all [regsPut_wf, State.clkAt]; done) | (simp_all [regsPut_wf, State.clkAt]; omega))) (by (first | omega | (simp_all [regsPut_wf, State.clkAt]; done) | (simp_all [regsPut_wf, State.clkAt]; omega)))
    | fail_if_no_progress with_reducible refine Tame.updRegs ?_ (by (first | omega | (simp_all [regsPut_wf, State.clkAt]; done) | (simp_all [regsPut_wf, State.clkAt]; omega))) (by (first | omega | (simp_all [regsPut_wf, State.clkAt]; done) | (simp_all [regsPut_wf, State.clkAt]; omega)))
    | fail_if_no_progress with_reducible refine Tame.updDram ?_ (by (first | omega | (simp_all [regsPut_wf, State.clkAt]; done) | (simp_all [regsPut_wf, State.clkAt]; omega))) (by (first | omega | (simp_all [regsPut_wf, State.clkAt]; done) | (simp_all [regsPut_wf, State.clkAt]; omega))) (by (first | omega | (simp_all [regsPut_wf, State.clkAt]; done) | (simp_all [regsPut_wf, State.clkAt]; omega)))

theorem State.maskedDone_tame {dr fu ck : Bool} {s₀ s : State} (h₀ : Tame dr fu ck s₀ s) (id : Nat) (psn : Bool) : Tame dr fu ck s₀ (State.maskedDone s id psn) := by
  delta State.maskedDone
  repeat' first
    | with_reducible assumption
    | refine fun _ => ?_
    | fail_if_no_progress lift_lets
    | (intro x; refine tame_cut (a := s₀) (x := x) ?_ ?_; subst x; rotate_left; (clear_value x; intro hx); rotate_right)
    | (intro x; subst x)
    | with_reducible apply State.answer_tame
    | with_reducible apply State.reap_tame
    | fail_if_no_progress with_reducible apply Tame.upd
    | with_reducible apply tame_ite
    | with_reducible apply tame_ite_fst
    | with_reducible apply when_tame
    | with_reducible apply each_tame
    | with_reducible apply foldl_tame
    | with_reducible apply foldl_tame_fst
    | split
    | simp only [id_eq]
    | dsimp only
    | fail_if_no_progress with_reducible refine Tame.updFree ?_ (by first | omega | (simp; done) | (split <;> omega))
    | with_reducible apply Tame.updClkAt
    | fail_if_no_progress with_reducible refine Tame.updFuse ?_ (by first | omega | (simp; done) | (split <;> omega))
    | fail_if_no_progress with_reducible refine Tame.updClk ?_ (by (first | omega | (simp_all [regsPut_wf, State.clkAt]; done) | (simp_all [regsPut_wf, State.clkAt]; omega))) (by (first | omega | (simp_all [regsPut_wf, State.clkAt]; done) | (simp_all [regsPut_wf, State.clkAt]; omega))) (by (first | omega | (simp_all [regsPut_wf, State.clkAt]; done) | (simp_all [regsPut_wf, State.clkAt]; omega)))
    | fail_if_no_progress with_reducible refine Tame.updRegs ?_ (by (first | omega | (simp_all [regsPut_wf, State.clkAt]; done) | (simp_all [regsPut_wf, State.clkAt]; omega))) (by (first | omega | (simp_all [regsPut_wf, State.clkAt]; done) | (simp_all [regsPut_wf, State.clkAt]; omega)))
    | fail_if_no_progress with_reducible refine Tame.updDram ?_ (by (first | omega | (simp_all [regsPut_wf, State.clkAt]; done) | (simp_all [regsPut_wf, State.clkAt]; omega))) (by (first | omega | (simp_all [regsPut_wf, State.clkAt]; done) | (simp_all [regsPut_wf, State.clkAt]; omega))) (by (first | omega | (simp_all [regsPut_wf, State.clkAt]; done) | (simp_all [regsPut_wf, State.clkAt]; omega)))

theorem State.drainEnt_tame {dr fu ck : Bool} {s₀ s : State} (h₀ : Tame dr fu ck s₀ s) (e : PondEnt) : Tame dr fu ck s₀ (State.drainEnt s e) := by
  delta State.drainEnt
  repeat' first
    | with_reducible assumption
    | refine fun _ => ?_
    | fail_if_no_progress lift_lets
    | (intro x; refine tame_cut (a := s₀) (x := x) ?_ ?_; subst x; rotate_left; (clear_value x; intro hx); rotate_right)
    | (intro x; subst x)
    | with_reducible apply State.setRace_tame
    | with_reducible apply State.tally_tame
    | with_reducible apply State.modeLatch_tame
    | with_reducible apply State.maskedDone_tame
    | fail_if_no_progress with_reducible apply Tame.upd
    | with_reducible apply tame_ite
    | with_reducible apply tame_ite_fst
    | with_reducible apply when_tame
    | with_reducible apply each_tame
    | with_reducible apply foldl_tame
    | with_reducible apply foldl_tame_fst
    | split
    | simp only [id_eq]
    | dsimp only
    | fail_if_no_progress with_reducible refine Tame.updFree ?_ (by first | omega | (simp; done) | (split <;> omega))
    | with_reducible apply Tame.updClkAt
    | fail_if_no_progress with_reducible refine Tame.updFuse ?_ (by first | omega | (simp; done) | (split <;> omega))
    | fail_if_no_progress with_reducible refine Tame.updClk ?_ (by (first | omega | (simp_all [regsPut_wf, State.clkAt]; done) | (simp_all [regsPut_wf, State.clkAt]; omega))) (by (first | omega | (simp_all [regsPut_wf, State.clkAt]; done) | (simp_all [regsPut_wf, State.clkAt]; omega))) (by (first | omega | (simp_all [regsPut_wf, State.clkAt]; done) | (simp_all [regsPut_wf, State.clkAt]; omega)))
    | fail_if_no_progress with_reducible refine Tame.updRegs ?_ (by (first | omega | (simp_all [regsPut_wf, State.clkAt]; done) | (simp_all [regsPut_wf, State.clkAt]; omega))) (by (first | omega | (simp_all [regsPut_wf, State.clkAt]; done) | (simp_all [regsPut_wf, State.clkAt]; omega)))
    | fail_if_no_progress with_reducible refine Tame.updDram ?_ (by (first | omega | (simp_all [regsPut_wf, State.clkAt]; done) | (simp_all [regsPut_wf, State.clkAt]; omega))) (by (first | omega | (simp_all [regsPut_wf, State.clkAt]; done) | (simp_all [regsPut_wf, State.clkAt]; omega))) (by (first | omega | (simp_all [regsPut_wf, State.clkAt]; done) | (simp_all [regsPut_wf, State.clkAt]; omega)))

theorem execMillpondDrain_out (s : State) (id k : Nat) : ∃ t, execMillpondDrain id k s = .next t ∧ Tame true true true s t := by
  have h₀ := @Tame.refl true true true s
  generalize hs₀ : s = s₀ at h₀
  delta execMillpondDrain
  refine ⟨_, rfl, ?_⟩
  repeat' first
    | with_reducible assumption
    | refine fun _ => ?_
    | fail_if_no_progress lift_lets
    | (intro x; refine tame_cut (a := s₀) (x := x) ?_ ?_; subst x; rotate_left; (clear_value x; intro hx); rotate_right)
    | (intro x; subst x)
    | with_reducible apply State.reap_tame
    | with_reducible apply State.drainEnt_tame
    | fail_if_no_progress with_reducible apply Tame.upd
    | with_reducible apply tame_ite
    | with_reducible apply tame_ite_fst
    | with_reducible apply when_tame
    | with_reducible apply each_tame
    | with_reducible apply foldl_tame
    | with_reducible apply foldl_tame_fst
    | split
    | simp only [id_eq]
    | dsimp only
    | fail_if_no_progress with_reducible refine Tame.updFree ?_ (by first | omega | (simp; done) | (split <;> omega))
    | with_reducible apply Tame.updClkAt
    | fail_if_no_progress with_reducible refine Tame.updFuse ?_ (by first | omega | (simp; done) | (split <;> omega))
    | fail_if_no_progress with_reducible refine Tame.updClk ?_ (by (first | omega | (simp_all [regsPut_wf, State.clkAt]; done) | (simp_all [regsPut_wf, State.clkAt]; omega))) (by (first | omega | (simp_all [regsPut_wf, State.clkAt]; done) | (simp_all [regsPut_wf, State.clkAt]; omega))) (by (first | omega | (simp_all [regsPut_wf, State.clkAt]; done) | (simp_all [regsPut_wf, State.clkAt]; omega)))
    | fail_if_no_progress with_reducible refine Tame.updRegs ?_ (by (first | omega | (simp_all [regsPut_wf, State.clkAt]; done) | (simp_all [regsPut_wf, State.clkAt]; omega))) (by (first | omega | (simp_all [regsPut_wf, State.clkAt]; done) | (simp_all [regsPut_wf, State.clkAt]; omega)))
    | fail_if_no_progress with_reducible refine Tame.updDram ?_ (by (first | omega | (simp_all [regsPut_wf, State.clkAt]; done) | (simp_all [regsPut_wf, State.clkAt]; omega))) (by (first | omega | (simp_all [regsPut_wf, State.clkAt]; done) | (simp_all [regsPut_wf, State.clkAt]; omega))) (by (first | omega | (simp_all [regsPut_wf, State.clkAt]; done) | (simp_all [regsPut_wf, State.clkAt]; omega)))

theorem State.flumeOut_tame {dr fu ck : Bool} {s₀ s : State} (h₀ : Tame dr fu ck s₀ s) (e : FlumeEnt) : Tame dr fu ck s₀ (State.flumeOut s e) := by
  delta State.flumeOut
  repeat' first
    | with_reducible assumption
    | refine fun _ => ?_
    | fail_if_no_progress lift_lets
    | (intro x; refine tame_cut (a := s₀) (x := x) ?_ ?_; subst x; rotate_left; (clear_value x; intro hx); rotate_right)
    | (intro x; subst x)
    | with_reducible apply State.setRace_tame
    | with_reducible apply State.updReq_tame
    | with_reducible apply State.reap_tame
    | with_reducible apply State.touch_tame
    | with_reducible apply State.modeLatch_tame
    | fail_if_no_progress with_reducible apply Tame.upd
    | with_reducible apply tame_ite
    | with_reducible apply tame_ite_fst
    | with_reducible apply when_tame
    | with_reducible apply each_tame
    | with_reducible apply foldl_tame
    | with_reducible apply foldl_tame_fst
    | split
    | simp only [id_eq]
    | dsimp only
    | fail_if_no_progress with_reducible refine Tame.updFree ?_ (by first | omega | (simp; done) | (split <;> omega))
    | with_reducible apply Tame.updClkAt
    | fail_if_no_progress with_reducible refine Tame.updFuse ?_ (by first | omega | (simp; done) | (split <;> omega))
    | fail_if_no_progress with_reducible refine Tame.updClk ?_ (by (first | omega | (simp_all [regsPut_wf, State.clkAt]; done) | (simp_all [regsPut_wf, State.clkAt]; omega))) (by (first | omega | (simp_all [regsPut_wf, State.clkAt]; done) | (simp_all [regsPut_wf, State.clkAt]; omega))) (by (first | omega | (simp_all [regsPut_wf, State.clkAt]; done) | (simp_all [regsPut_wf, State.clkAt]; omega)))
    | fail_if_no_progress with_reducible refine Tame.updRegs ?_ (by (first | omega | (simp_all [regsPut_wf, State.clkAt]; done) | (simp_all [regsPut_wf, State.clkAt]; omega))) (by (first | omega | (simp_all [regsPut_wf, State.clkAt]; done) | (simp_all [regsPut_wf, State.clkAt]; omega)))
    | fail_if_no_progress with_reducible refine Tame.updDram ?_ (by (first | omega | (simp_all [regsPut_wf, State.clkAt]; done) | (simp_all [regsPut_wf, State.clkAt]; omega))) (by (first | omega | (simp_all [regsPut_wf, State.clkAt]; done) | (simp_all [regsPut_wf, State.clkAt]; omega))) (by (first | omega | (simp_all [regsPut_wf, State.clkAt]; done) | (simp_all [regsPut_wf, State.clkAt]; omega)))

theorem execFlumeEntryDrain_out (s : State) (fid : Nat) : ∃ t, execFlumeEntryDrain fid s = .next t ∧ Tame true true true s t := by
  have h₀ := @Tame.refl true true true s
  generalize hs₀ : s = s₀ at h₀
  delta execFlumeEntryDrain
  refine ⟨_, rfl, ?_⟩
  repeat' first
    | with_reducible assumption
    | refine fun _ => ?_
    | fail_if_no_progress lift_lets
    | (intro x; refine tame_cut (a := s₀) (x := x) ?_ ?_; subst x; rotate_left; (clear_value x; intro hx); rotate_right)
    | (intro x; subst x)
    | with_reducible apply State.flumeOut_tame
    | fail_if_no_progress with_reducible apply Tame.upd
    | with_reducible apply tame_ite
    | with_reducible apply tame_ite_fst
    | with_reducible apply when_tame
    | with_reducible apply each_tame
    | with_reducible apply foldl_tame
    | with_reducible apply foldl_tame_fst
    | split
    | simp only [id_eq]
    | dsimp only
    | fail_if_no_progress with_reducible refine Tame.updFree ?_ (by first | omega | (simp; done) | (split <;> omega))
    | with_reducible apply Tame.updClkAt
    | fail_if_no_progress with_reducible refine Tame.updFuse ?_ (by first | omega | (simp; done) | (split <;> omega))
    | fail_if_no_progress with_reducible refine Tame.updClk ?_ (by (first | omega | (simp_all [regsPut_wf, State.clkAt]; done) | (simp_all [regsPut_wf, State.clkAt]; omega))) (by (first | omega | (simp_all [regsPut_wf, State.clkAt]; done) | (simp_all [regsPut_wf, State.clkAt]; omega))) (by (first | omega | (simp_all [regsPut_wf, State.clkAt]; done) | (simp_all [regsPut_wf, State.clkAt]; omega)))
    | fail_if_no_progress with_reducible refine Tame.updRegs ?_ (by (first | omega | (simp_all [regsPut_wf, State.clkAt]; done) | (simp_all [regsPut_wf, State.clkAt]; omega))) (by (first | omega | (simp_all [regsPut_wf, State.clkAt]; done) | (simp_all [regsPut_wf, State.clkAt]; omega)))
    | fail_if_no_progress with_reducible refine Tame.updDram ?_ (by (first | omega | (simp_all [regsPut_wf, State.clkAt]; done) | (simp_all [regsPut_wf, State.clkAt]; omega))) (by (first | omega | (simp_all [regsPut_wf, State.clkAt]; done) | (simp_all [regsPut_wf, State.clkAt]; omega))) (by (first | omega | (simp_all [regsPut_wf, State.clkAt]; done) | (simp_all [regsPut_wf, State.clkAt]; omega)))

theorem State.startBar_tame {dr fu ck : Bool} {s₀ s : State} (h₀ : Tame dr fu ck s₀ s) (id : Nat) : Tame dr fu ck s₀ (State.startBar s id) := by
  delta State.startBar
  repeat' first
    | with_reducible assumption
    | refine fun _ => ?_
    | fail_if_no_progress lift_lets
    | (intro x; refine tame_cut (a := s₀) (x := x) ?_ ?_; subst x; rotate_left; (clear_value x; intro hx); rotate_right)
    | (intro x; subst x)
    | with_reducible apply State.updReq_tame
    | fail_if_no_progress with_reducible apply Tame.upd
    | with_reducible apply tame_ite
    | with_reducible apply tame_ite_fst
    | with_reducible apply when_tame
    | with_reducible apply each_tame
    | with_reducible apply foldl_tame
    | with_reducible apply foldl_tame_fst
    | split
    | simp only [id_eq]
    | dsimp only
    | fail_if_no_progress with_reducible refine Tame.updFree ?_ (by first | omega | (simp; done) | (split <;> omega))
    | with_reducible apply Tame.updClkAt
    | fail_if_no_progress with_reducible refine Tame.updFuse ?_ (by first | omega | (simp; done) | (split <;> omega))
    | fail_if_no_progress with_reducible refine Tame.updClk ?_ (by (first | omega | (simp_all [regsPut_wf, State.clkAt]; done) | (simp_all [regsPut_wf, State.clkAt]; omega))) (by (first | omega | (simp_all [regsPut_wf, State.clkAt]; done) | (simp_all [regsPut_wf, State.clkAt]; omega))) (by (first | omega | (simp_all [regsPut_wf, State.clkAt]; done) | (simp_all [regsPut_wf, State.clkAt]; omega)))
    | fail_if_no_progress with_reducible refine Tame.updRegs ?_ (by (first | omega | (simp_all [regsPut_wf, State.clkAt]; done) | (simp_all [regsPut_wf, State.clkAt]; omega))) (by (first | omega | (simp_all [regsPut_wf, State.clkAt]; done) | (simp_all [regsPut_wf, State.clkAt]; omega)))
    | fail_if_no_progress with_reducible refine Tame.updDram ?_ (by (first | omega | (simp_all [regsPut_wf, State.clkAt]; done) | (simp_all [regsPut_wf, State.clkAt]; omega))) (by (first | omega | (simp_all [regsPut_wf, State.clkAt]; done) | (simp_all [regsPut_wf, State.clkAt]; omega))) (by (first | omega | (simp_all [regsPut_wf, State.clkAt]; done) | (simp_all [regsPut_wf, State.clkAt]; omega)))

theorem execBarS_out (s : State) (id : Nat) : ∃ t, execBarS id s = .next t ∧ Tame true true true s t := by
  have h₀ := @Tame.refl true true true s
  generalize hs₀ : s = s₀ at h₀
  delta execBarS
  refine ⟨_, rfl, ?_⟩
  repeat' first
    | with_reducible assumption
    | refine fun _ => ?_
    | fail_if_no_progress lift_lets
    | (intro x; refine tame_cut (a := s₀) (x := x) ?_ ?_; subst x; rotate_left; (clear_value x; intro hx); rotate_right)
    | (intro x; subst x)
    | with_reducible apply State.startBar_tame
    | fail_if_no_progress with_reducible apply Tame.upd
    | with_reducible apply tame_ite
    | with_reducible apply tame_ite_fst
    | with_reducible apply when_tame
    | with_reducible apply each_tame
    | with_reducible apply foldl_tame
    | with_reducible apply foldl_tame_fst
    | split
    | simp only [id_eq]
    | dsimp only
    | fail_if_no_progress with_reducible refine Tame.updFree ?_ (by first | omega | (simp; done) | (split <;> omega))
    | with_reducible apply Tame.updClkAt
    | fail_if_no_progress with_reducible refine Tame.updFuse ?_ (by first | omega | (simp; done) | (split <;> omega))
    | fail_if_no_progress with_reducible refine Tame.updClk ?_ (by (first | omega | (simp_all [regsPut_wf, State.clkAt]; done) | (simp_all [regsPut_wf, State.clkAt]; omega))) (by (first | omega | (simp_all [regsPut_wf, State.clkAt]; done) | (simp_all [regsPut_wf, State.clkAt]; omega))) (by (first | omega | (simp_all [regsPut_wf, State.clkAt]; done) | (simp_all [regsPut_wf, State.clkAt]; omega)))
    | fail_if_no_progress with_reducible refine Tame.updRegs ?_ (by (first | omega | (simp_all [regsPut_wf, State.clkAt]; done) | (simp_all [regsPut_wf, State.clkAt]; omega))) (by (first | omega | (simp_all [regsPut_wf, State.clkAt]; done) | (simp_all [regsPut_wf, State.clkAt]; omega)))
    | fail_if_no_progress with_reducible refine Tame.updDram ?_ (by (first | omega | (simp_all [regsPut_wf, State.clkAt]; done) | (simp_all [regsPut_wf, State.clkAt]; omega))) (by (first | omega | (simp_all [regsPut_wf, State.clkAt]; done) | (simp_all [regsPut_wf, State.clkAt]; omega))) (by (first | omega | (simp_all [regsPut_wf, State.clkAt]; done) | (simp_all [regsPut_wf, State.clkAt]; omega)))

theorem execBarG_out (s : State) (id : Nat) : ∃ t, execBarG id s = .next t ∧ Tame true true true s t := by
  have h₀ := @Tame.refl true true true s
  generalize hs₀ : s = s₀ at h₀
  delta execBarG
  refine ⟨_, rfl, ?_⟩
  repeat' first
    | with_reducible assumption
    | refine fun _ => ?_
    | fail_if_no_progress lift_lets
    | (intro x; refine tame_cut (a := s₀) (x := x) ?_ ?_; subst x; rotate_left; (clear_value x; intro hx); rotate_right)
    | (intro x; subst x)
    | with_reducible apply State.startBar_tame
    | fail_if_no_progress with_reducible apply Tame.upd
    | with_reducible apply tame_ite
    | with_reducible apply tame_ite_fst
    | with_reducible apply when_tame
    | with_reducible apply each_tame
    | with_reducible apply foldl_tame
    | with_reducible apply foldl_tame_fst
    | split
    | simp only [id_eq]
    | dsimp only
    | fail_if_no_progress with_reducible refine Tame.updFree ?_ (by first | omega | (simp; done) | (split <;> omega))
    | with_reducible apply Tame.updClkAt
    | fail_if_no_progress with_reducible refine Tame.updFuse ?_ (by first | omega | (simp; done) | (split <;> omega))
    | fail_if_no_progress with_reducible refine Tame.updClk ?_ (by (first | omega | (simp_all [regsPut_wf, State.clkAt]; done) | (simp_all [regsPut_wf, State.clkAt]; omega))) (by (first | omega | (simp_all [regsPut_wf, State.clkAt]; done) | (simp_all [regsPut_wf, State.clkAt]; omega))) (by (first | omega | (simp_all [regsPut_wf, State.clkAt]; done) | (simp_all [regsPut_wf, State.clkAt]; omega)))
    | fail_if_no_progress with_reducible refine Tame.updRegs ?_ (by (first | omega | (simp_all [regsPut_wf, State.clkAt]; done) | (simp_all [regsPut_wf, State.clkAt]; omega))) (by (first | omega | (simp_all [regsPut_wf, State.clkAt]; done) | (simp_all [regsPut_wf, State.clkAt]; omega)))
    | fail_if_no_progress with_reducible refine Tame.updDram ?_ (by (first | omega | (simp_all [regsPut_wf, State.clkAt]; done) | (simp_all [regsPut_wf, State.clkAt]; omega))) (by (first | omega | (simp_all [regsPut_wf, State.clkAt]; done) | (simp_all [regsPut_wf, State.clkAt]; omega))) (by (first | omega | (simp_all [regsPut_wf, State.clkAt]; done) | (simp_all [regsPut_wf, State.clkAt]; omega)))

theorem execBarD_out (s : State) (id : Nat) : ∃ t, execBarD id s = .next t ∧ Tame true true true s t := by
  have h₀ := @Tame.refl true true true s
  generalize hs₀ : s = s₀ at h₀
  delta execBarD
  refine ⟨_, rfl, ?_⟩
  repeat' first
    | with_reducible assumption
    | refine fun _ => ?_
    | fail_if_no_progress lift_lets
    | (intro x; refine tame_cut (a := s₀) (x := x) ?_ ?_; subst x; rotate_left; (clear_value x; intro hx); rotate_right)
    | (intro x; subst x)
    | with_reducible apply State.startBar_tame
    | fail_if_no_progress with_reducible apply Tame.upd
    | with_reducible apply tame_ite
    | with_reducible apply tame_ite_fst
    | with_reducible apply when_tame
    | with_reducible apply each_tame
    | with_reducible apply foldl_tame
    | with_reducible apply foldl_tame_fst
    | split
    | simp only [id_eq]
    | dsimp only
    | fail_if_no_progress with_reducible refine Tame.updFree ?_ (by first | omega | (simp; done) | (split <;> omega))
    | with_reducible apply Tame.updClkAt
    | fail_if_no_progress with_reducible refine Tame.updFuse ?_ (by first | omega | (simp; done) | (split <;> omega))
    | fail_if_no_progress with_reducible refine Tame.updClk ?_ (by (first | omega | (simp_all [regsPut_wf, State.clkAt]; done) | (simp_all [regsPut_wf, State.clkAt]; omega))) (by (first | omega | (simp_all [regsPut_wf, State.clkAt]; done) | (simp_all [regsPut_wf, State.clkAt]; omega))) (by (first | omega | (simp_all [regsPut_wf, State.clkAt]; done) | (simp_all [regsPut_wf, State.clkAt]; omega)))
    | fail_if_no_progress with_reducible refine Tame.updRegs ?_ (by (first | omega | (simp_all [regsPut_wf, State.clkAt]; done) | (simp_all [regsPut_wf, State.clkAt]; omega))) (by (first | omega | (simp_all [regsPut_wf, State.clkAt]; done) | (simp_all [regsPut_wf, State.clkAt]; omega)))
    | fail_if_no_progress with_reducible refine Tame.updDram ?_ (by (first | omega | (simp_all [regsPut_wf, State.clkAt]; done) | (simp_all [regsPut_wf, State.clkAt]; omega))) (by (first | omega | (simp_all [regsPut_wf, State.clkAt]; done) | (simp_all [regsPut_wf, State.clkAt]; omega))) (by (first | omega | (simp_all [regsPut_wf, State.clkAt]; done) | (simp_all [regsPut_wf, State.clkAt]; omega)))

theorem execBarrierPartResolved_out (s : State) (half id : Nat) : ∃ t, execBarrierPartResolved half id s = .next t ∧ Tame true true true s t := by
  have h₀ := @Tame.refl true true true s
  generalize hs₀ : s = s₀ at h₀
  delta execBarrierPartResolved
  refine ⟨_, rfl, ?_⟩
  repeat' first
    | with_reducible assumption
    | refine fun _ => ?_
    | fail_if_no_progress lift_lets
    | (intro x; refine tame_cut (a := s₀) (x := x) ?_ ?_; subst x; rotate_left; (clear_value x; intro hx); rotate_right)
    | (intro x; subst x)
    | with_reducible apply State.updReq_tame
    | fail_if_no_progress with_reducible apply Tame.upd
    | with_reducible apply tame_ite
    | with_reducible apply tame_ite_fst
    | with_reducible apply when_tame
    | with_reducible apply each_tame
    | with_reducible apply foldl_tame
    | with_reducible apply foldl_tame_fst
    | split
    | simp only [id_eq]
    | dsimp only
    | fail_if_no_progress with_reducible refine Tame.updFree ?_ (by first | omega | (simp; done) | (split <;> omega))
    | with_reducible apply Tame.updClkAt
    | fail_if_no_progress with_reducible refine Tame.updFuse ?_ (by first | omega | (simp; done) | (split <;> omega))
    | fail_if_no_progress with_reducible refine Tame.updClk ?_ (by (first | omega | (simp_all [regsPut_wf, State.clkAt]; done) | (simp_all [regsPut_wf, State.clkAt]; omega))) (by (first | omega | (simp_all [regsPut_wf, State.clkAt]; done) | (simp_all [regsPut_wf, State.clkAt]; omega))) (by (first | omega | (simp_all [regsPut_wf, State.clkAt]; done) | (simp_all [regsPut_wf, State.clkAt]; omega)))
    | fail_if_no_progress with_reducible refine Tame.updRegs ?_ (by (first | omega | (simp_all [regsPut_wf, State.clkAt]; done) | (simp_all [regsPut_wf, State.clkAt]; omega))) (by (first | omega | (simp_all [regsPut_wf, State.clkAt]; done) | (simp_all [regsPut_wf, State.clkAt]; omega)))
    | fail_if_no_progress with_reducible refine Tame.updDram ?_ (by (first | omega | (simp_all [regsPut_wf, State.clkAt]; done) | (simp_all [regsPut_wf, State.clkAt]; omega))) (by (first | omega | (simp_all [regsPut_wf, State.clkAt]; done) | (simp_all [regsPut_wf, State.clkAt]; omega))) (by (first | omega | (simp_all [regsPut_wf, State.clkAt]; done) | (simp_all [regsPut_wf, State.clkAt]; omega)))

theorem execBarrierComplete_out (s : State) (id : Nat) : ∃ t, execBarrierComplete id s = .next t ∧ Tame true true true s t := by
  have h₀ := @Tame.refl true true true s
  generalize hs₀ : s = s₀ at h₀
  delta execBarrierComplete
  refine ⟨_, rfl, ?_⟩
  repeat' first
    | with_reducible assumption
    | refine fun _ => ?_
    | fail_if_no_progress lift_lets
    | (intro x; refine tame_cut (a := s₀) (x := x) ?_ ?_; subst x; rotate_left; (clear_value x; intro hx); rotate_right)
    | (intro x; subst x)
    | with_reducible apply State.tallyStore_tame
    | with_reducible apply State.endReq_tame
    | fail_if_no_progress with_reducible apply Tame.upd
    | with_reducible apply tame_ite
    | with_reducible apply tame_ite_fst
    | with_reducible apply when_tame
    | with_reducible apply each_tame
    | with_reducible apply foldl_tame
    | with_reducible apply foldl_tame_fst
    | split
    | simp only [id_eq]
    | dsimp only
    | fail_if_no_progress with_reducible refine Tame.updFree ?_ (by first | omega | (simp; done) | (split <;> omega))
    | with_reducible apply Tame.updClkAt
    | fail_if_no_progress with_reducible refine Tame.updFuse ?_ (by first | omega | (simp; done) | (split <;> omega))
    | fail_if_no_progress with_reducible refine Tame.updClk ?_ (by (first | omega | (simp_all [regsPut_wf, State.clkAt]; done) | (simp_all [regsPut_wf, State.clkAt]; omega))) (by (first | omega | (simp_all [regsPut_wf, State.clkAt]; done) | (simp_all [regsPut_wf, State.clkAt]; omega))) (by (first | omega | (simp_all [regsPut_wf, State.clkAt]; done) | (simp_all [regsPut_wf, State.clkAt]; omega)))
    | fail_if_no_progress with_reducible refine Tame.updRegs ?_ (by (first | omega | (simp_all [regsPut_wf, State.clkAt]; done) | (simp_all [regsPut_wf, State.clkAt]; omega))) (by (first | omega | (simp_all [regsPut_wf, State.clkAt]; done) | (simp_all [regsPut_wf, State.clkAt]; omega)))
    | fail_if_no_progress with_reducible refine Tame.updDram ?_ (by (first | omega | (simp_all [regsPut_wf, State.clkAt]; done) | (simp_all [regsPut_wf, State.clkAt]; omega))) (by (first | omega | (simp_all [regsPut_wf, State.clkAt]; done) | (simp_all [regsPut_wf, State.clkAt]; omega))) (by (first | omega | (simp_all [regsPut_wf, State.clkAt]; done) | (simp_all [regsPut_wf, State.clkAt]; omega)))

end Sys2Proof.Machine
end

