-- ==== Sys2Proof/WellFormed.lean ====
section
/-!
DEFINITION. Well-formed commands: every operand that names an instance names one that the numbering of the spec has (R5, R15),
and every operand that stands for a field fits the field. A part with fewer instances fitted (R4) has the same numbers.
-/
namespace Sys2Proof

/-- Modules 0-19, halves 0 and 1 (R5). -/
def Path.wf : Path → Bool
  | .mgmt m => decide (m < 20)
  | .i3c => true
  | .fw half => decide (half < 2)

/-- Races 0-31, crosspoints 0-7 with up to six outputs, link ports 0-7 by direction, granary ports 0-7 (R222). -/
def SluiceId.wf : SluiceId → Bool
  | .row race => decide (race < 32)
  | .col race pr => decide (race < 32) && decide (pr < 2)
  | .xp half n out => decide (half < 2) && decide (n < 16) && decide (out < 16)
  | .link dir n => decide (dir < 2) && decide (n < 8)
  | .gport port => decide (port < 8)

/-- Lane groups of a race slice (R260): four data groups of ten, then the single groups. -/
def LanePos.wf (l : LanePos) : Bool := decide (l.group < 8) && decide (l.pr < 2) && decide (l.pos < 16)

/-- A drive at one of the eight ports. -/
def DriveId.wf (d : DriveId) : Bool :=
  decide (d.port < 8) && (d.copyA ++ d.copyB).all (fun b => decide (b < 256))

/-- The command names instances and fields that exist. -/
def Instr.wf : Instr → Bool
  | .turnBoundary temps _ _ _ => decide (temps.length = 24)
  | .alertThermalDecision => true
  | .slotSwapSample => true
  | .refreshPlanning => true
  | .weirRecalculation => true
  | .distribution => true
  | .turnOverrun _ => true
  | .govTurnLowRead => true
  | .registerWrite path _ _ _ => path.wf
  | .layLinkReplay dir link _ => decide (dir < 2) && decide (link < 8)
  | .split => true
  | .splitRejoin => true
  | .stallWatchdogFire half point vc _ => decide (half < 2) && decide (point < 256) && decide (vc < 4)
  | .layStallStatusClear half => decide (half < 2)
  | .sluiceDecision at_ mc _ _ => at_.wf && decide (mc < 256)
  | .flitReceive m mc _ => decide (m < 20) && decide (mc < 256)
  | .upstreamFlitSend m mc => decide (m < 20) && decide (mc < 256)
  | .replayTimeout m => decide (m < 20)
  | .moduleEnable path m _ => path.wf && decide (m < 20)
  | .recal path m => path.wf && decide (m < 20)
  | .restart path m => path.wf && decide (m < 20)
  | .hostRecalRequest m => decide (m < 20)
  | .ucieLinkActive m _ _ _ => decide (m < 20)
  | .trainAttemptTimeout m => decide (m < 20)
  | .openTimeout m => decide (m < 20)
  | .recalComplete m _ => decide (m < 20)
  | .recalTimeout m => decide (m < 20)
  | .nop _ => true
  | .rd _ mc => decide (mc < 256)
  | .rdx _ mc => decide (mc < 256)
  | .wr _ => true
  | .wrp _ => true
  | .wrn _ => true
  | .wrc _ => true
  | .amo _ => true
  | .barS _ => true
  | .barG _ => true
  | .barD _ => true
  | .mgmt _ => true
  | .tokenRelease _ => true
  | .tokenApply _ => true
  | .tokenAck _ => true
  | .millpondDrain _ k => decide (k < 4)
  | .flumeIdleClose _ => true
  | .flumeEntryDrain _ => true
  | .barrierPartResolved half _ => decide (half < 2)
  | .barrierComplete _ => true
  | .granWrite path gran => path.wf && decide (gran < 4)
  | .hopLostLogClear path half => path.wf && decide (half < 2)
  | .hashLock path => path.wf
  | .fillOpen race v => decide (race < 32) && decide (v < 2 ^ 19)
  | .fillGrant race v => decide (race < 32) && decide (v < 2 ^ 19)
  | .fillComplete race mc => decide (race < 32) && decide (mc < 256)
  | .wmapClear path half => path.wf && decide (half < 2)
  | .wmapClearComplete half => decide (half < 2)
  | .dramAct race mc pr sid bg bank row => decide (race < 32) && decide (mc < 256) && decide (pr < 2) && decide (sid < 4) && decide (bg < 4) && decide (bank < 8) && decide (row < 2 ^ 17)
  | .dramRd race mc _ => decide (race < 32) && decide (mc < 256)
  | .dramWr race mc _ => decide (race < 32) && decide (mc < 256)
  | .dramPre race mc pr sid bg bank => decide (race < 32) && decide (mc < 256) && decide (pr < 2) && decide (sid < 4) && decide (bg < 4) && decide (bank < 8)
  | .refpb race mc pr sid => decide (race < 32) && decide (mc < 256) && decide (pr < 2) && decide (sid < 4)
  | .refab race mc pr sid => decide (race < 32) && decide (mc < 256) && decide (pr < 2) && decide (sid < 4)
  | .rfm race mc pr sid bg bank => decide (race < 32) && decide (mc < 256) && decide (pr < 2) && decide (sid < 4) && decide (bg < 4) && decide (bank < 8)
  | .mrw race mc => decide (race < 32) && decide (mc < 256)
  | .mrr race mc => decide (race < 32) && decide (mc < 256)
  | .sre race mc sid => decide (race < 32) && decide (mc < 256) && decide (sid < 4)
  | .srx race mc sid => decide (race < 32) && decide (mc < 256) && decide (sid < 4)
  | .pde race mc => decide (race < 32) && decide (mc < 256)
  | .pdx race mc => decide (race < 32) && decide (mc < 256)
  | .readBurstReturn race pr mc err => decide (race < 32) && decide (pr < 2) && decide (mc < 256) && err.all (fun e => decide (e.1 < 72))
  | .missingBurst race pr mc => decide (race < 32) && decide (pr < 2) && decide (mc < 256)
  | .strayStrobe race pr => decide (race < 32) && decide (pr < 2)
  | .fauTake race mc _ k => decide (race < 32) && decide (mc < 256) && decide (k < 4)
  | .fauExecute race mc _ k => decide (race < 32) && decide (mc < 256) && decide (k < 4)
  | .mrCmd path race _ => path.wf && decide (race < 32)
  | .mrCmdTimeout race => decide (race < 32)
  | .timingLock path race => path.wf && decide (race < 32)
  | .plannedRefreshDue race pr slot => decide (race < 32) && decide (pr < 2) && decide (slot < 128)
  | .revocation race pr mc => decide (race < 32) && decide (pr < 2) && decide (mc < 256)
  | .srHandover race mc sid => decide (race < 32) && decide (mc < 256) && decide (sid < 4)
  | .handoverTimeout race => decide (race < 32)
  | .slotSwapRequest path races => path.wf && decide (races < 2 ^ 32)
  | .slotDirectWrite path race j _ => path.wf && decide (race < 32) && decide (j < 8)
  | .slotStatBadcodeClear path race => path.wf && decide (race < 32)
  | .weirScaledClear path => path.wf
  | .fullTraining race => decide (race < 32)
  | .trainingComplete race failed _ => decide (race < 32) && failed.all LanePos.wf
  | .probeResult race pr sid dir _ _ => decide (race < 32) && decide (pr < 2) && decide (sid < 4) && decide (dir < 2)
  | .centreApply race pr sid => decide (race < 32) && decide (pr < 2) && decide (sid < 4)
  | .trackingLag race => decide (race < 32)
  | .retrainRequest path half i => path.wf && decide (half < 2) && decide (i < 16)
  | .retrainStart half missed errs => decide (half < 2) && missed.all (fun i => decide (i < 64)) && errs.all (fun e => e.2.all (fun b => decide (b.1 < 72)))
  | .retrainComplete half failed _ => decide (half < 2) && failed.all LanePos.wf
  | .retrainAbort half => decide (half < 2)
  | .resumeCheck race _ => decide (race < 32)
  | .scrubPieceStart half => decide (half < 2)
  | .scrubPriorityCheck half => decide (half < 2)
  | .errorWindowEnd half => decide (half < 2)
  | .qrnUeLogClear path half => path.wf && decide (half < 2)
  | .qrnRowLogClear path half => path.wf && decide (half < 2)
  | .fuseBurnComplete _ => true
  | .isolationDecision race => decide (race < 32)
  | .isolationAdmitOff race => decide (race < 32)
  | .isolationReadsOff race => decide (race < 32)
  | .isolationStoreDrop race => decide (race < 32)
  | .isolationFinal race => decide (race < 32)
  | .writeBehindIssue half => decide (half < 2)
  | .driveCommandComplete port _ _ => decide (port < 8)
  | .driveCommandTimeout port _ => decide (port < 8)
  | .driveRateWindow port _ _ => decide (port < 8)
  | .headroomPress half => decide (half < 2)
  | .epochAdvance half => decide (half < 2)
  | .dirtyMapParityError half => decide (half < 2)
  | .resyncComplete half => decide (half < 2)
  | .hoistAttach half ready => decide (half < 2) && ready.all DriveId.wf
  | .driveAttachTimeout port => decide (port < 8)
  | .hoistLoadStart half => decide (half < 2)
  | .chunkRestoreComplete half v _ => decide (half < 2) && decide (v < 2 ^ 19)
  | .demandFillIssue half v => decide (half < 2) && decide (v < 2 ^ 19)
  | .hoistSeal half => decide (half < 2)
  | .supplyCrossing _ _ _ => true
  | .aonSupplySwitch _ => true
  | .aonSupplyReturn => true
  | .mainFailAssert _ => true
  | .alertEnter => true
  | .alertEnd => true
  | .drainSignal => true
  | .emeasPublish => true
  | .emeasExpire => true
  | .capacitanceTestStart => true
  | .capacitanceTestEnd _ _ => true
  | .powerStateRequest half req => decide (half < 2) && decide (req < 8)
  | .autoIdle => true
  | .powerStateEntryComplete => true
  | .powerEntryTimeout => true
  | .padRelease half => decide (half < 2)
  | .wakeI3cMatch target => decide (target < 2)
  | .wakeSideband m => decide (m < 20)
  | .wakeNLow _ => true
  | .wakeTimer => true
  | .wakeMainsReturn => true
  | .wakeSequence => true
  | .regulatorAck => true
  | .regulatorAckTimeout why => decide (why < 8)
  | .wakeRetry => true
  | .watchSample temps _ _ _ => decide (temps.length = 24)
  | .currentSample _ => true
  | .brakeRaise src inst detail => decide (src < 64) && decide (inst < 32) && decide (detail < 2 ^ 40)
  | .brokenWire src inst => decide (src < 64) && decide (inst < 32)
  | .brakePendClear path src mask => path.wf && decide (src < 64) && decide (mask < 2 ^ 32)
  | .clrRefusedClear path => path.wf
  | .brkSafeClear path => path.wf
  | .histUnfreeze path => path.wf
  | .brkInjGo path _ => path.wf
  | .brkInjStop path => path.wf
  | .tallySnapshot => true
  | .tallyDumpStage half => decide (half < 2)
  | .bandwidthWindowEnd half => decide (half < 2)
  | .sampleCapture half mc => decide (half < 2) && decide (mc < 256)
  | .sampleRelease path half => path.wf && decide (half < 2)
  | .tlyCntLowRead half bank i => decide (half < 2) && decide (bank < 7) && decide (i < 256)
  | .heatDataAccess path half _ => path.wf && decide (half < 2)
  | .i3cPrivateWrite _ => true
  | .i3cPrivateRead _ => true
  | .doorbell path half box => path.wf && decide (half < 2) && decide (box < 8)
  | .mailboxServiceStart core => decide (core < 2)
  | .commandComplete core => decide (core < 2)
  | .mailboxRelease path half box => path.wf && decide (half < 2) && decide (box < 8)
  | .mailboxTimeout half box => decide (half < 2) && decide (box < 8)
  | .ping core => decide (core < 2)
  | .getId core => decide (core < 2)
  | .getStatus core => decide (core < 2)
  | .fwLoadData core => decide (core < 2)
  | .fwLoadFetch core => decide (core < 2)
  | .fwActivate core => decide (core < 2)
  | .fwDiscard core => decide (core < 2)
  | .softReset core => decide (core < 2)
  | .setStream core => decide (core < 2)
  | .getStream core => decide (core < 2)
  | .setGroup core => decide (core < 2)
  | .getGroup core => decide (core < 2)
  | .setSlots core => decide (core < 2)
  | .getSlots core => decide (core < 2)
  | .commitSlots core => decide (core < 2)
  | .checkSlots core => decide (core < 2)
  | .retrain core => decide (core < 2)
  | .repairRow core => decide (core < 2)
  | .fuseRepairSoftRow core => decide (core < 2)
  | .fuseRepairLane core => decide (core < 2)
  | .fuseRepairRetire core => decide (core < 2)
  | .fuseRepairRaw core => decide (core < 2)
  | .fuseRepairRevoke core => decide (core < 2)
  | .isolateRace core => decide (core < 2)
  | .granStatus core => decide (core < 2)
  | .granFormat core => decide (core < 2)
  | .setBackup core => decide (core < 2)
  | .granLog core => decide (core < 2)
  | .setPower core => decide (core < 2)
  | .setPwrCfg core => decide (core < 2)
  | .setTherm core => decide (core < 2)
  | .getPower core => decide (core < 2)
  | .setSev core => decide (core < 2)
  | .clear core => decide (core < 2)
  | .inject core => decide (core < 2)
  | .injectStop core => decide (core < 2)
  | .histRelease core => decide (core < 2)
  | .tlySetCfg core => decide (core < 2)
  | .tlySetRing core => decide (core < 2)
  | .tlySetUser core => decide (core < 2)
  | .tlyHeatRead core => decide (core < 2)
  | .tlyHeatWrite core => decide (core < 2)
  | .mmkChallenge core => decide (core < 2)
  | .mmkResponseR core => decide (core < 2)
  | .mmkResponseS core => decide (core < 2)
  | .nonceExpire => true
  | .mmkPassphrase core => decide (core < 2)
  | .mmkLock core => decide (core < 2)
  | .mmkAdvance core => decide (core < 2)
  | .mmkCert core => decide (core < 2)
  | .selftestCrypto core _ => decide (core < 2)
  | .selftestWire core badPairs => decide (core < 2) && badPairs.all (fun x => decide (x.1 < 64) && decide (x.2 < 32))
  | .selftestFuse core => decide (core < 2)
  | .testAccess1149 core => decide (core < 2)
  | .testAccess1838 core => decide (core < 2)
  | .testModeExit path => path.wf
  | .bypass _ => true
  | .idcode => true
  | .samplePreload _ _ => true
  | .extest _ _ => true
  | .clamp _ => true
  | .highz _ => true
  | .dsel _ => true
  | .tsvtest _ _ => true
  | .tstctl _ => true
  | .keyfuse _ => true
  | .certload _ => true
  | .pubkey => true
  | .setEndpointId _ => true
  | .getVersion => true
  | .getCapabilities _ => true
  | .negotiateAlgorithms _ => true
  | .getDigests => true
  | .getCertificate _ _ _ => true
  | .challenge _ _ => true
  | .getMeasurements _ _ _ => true
  | .entdaa target _ => decide (target < 2)
  | .getstatus => true
  | .kyGo => true
  | .kyPower req => decide (req < 8)
  | .kyWarm _ => true
  | .kyWake => true
  | .bootGo path => path.wf
  | .attEnWrite path _ => path.wf
  | .powerOnReset _ => true
  | .resetRelease _ => true
  | .wrstNLow _ => true
  | .warmResetRequest path => path.wf
  | .halfResetRequest path => path.wf
  | .raceResetRequest path races => path.wf && decide (races < 2 ^ 32)
  | .softResetStart => true
  | .settleComplete => true
  | .settleTimeout => true
  | .warmReset => true
  | .halfReset => true
  | .raceReset race => decide (race < 32)
  | .aonLost => true
  | .refclkStop => true
  | .pairRailsUnequal src inst => decide (src < 64) && decide (inst < 32)
  | .enthdr => true
  | .hdrExitPattern => true
  | .controllerIbiEnable target _ => decide (target < 2)

end Sys2Proof
end

