-- ==== Sys2Proof/Tests/Slice0.lean ====
section
/-!
SUPPORT. Tests: figures that the spec works out, single steps, an ill-formed operand for each check of Instr.wf, and for every
statement that has hypotheses a theorem test_witness_<its name>: states and operands that meet them, clause by clause.
-/
section
set_option Elab.async false
set_option maxRecDepth 20000
open Sys2Proof Sys2Proof.Machine

/-! ## Helper states -/
namespace Sys2Proof.Tests

/-- A race that serves, its refresh on. -/
def raceUp : Race := { run := true, refOn := true }
/-- The block in service: out of reset, both cores up, every module active, races 0, 1 and 16 in service. -/
def up0 : State :=
  { State.reset with
    boot := { inReset := none, readyE := true, readyW := true, westUp := true }
    mil := { east := { up := true }, west := { up := true } }
    i3c := { slotOk := true, mgmtAddr := some 8, attAddr := some 9 }
    mods := ⟨(List.range 20).map (fun m => (m, { st := .active }))⟩
    races := ⟨[(0, raceUp), (1, raceUp), (16, raceUp)]⟩
    clk := { turn := 65536 * 3, age := 1000000, mc := 40 } }
def track (s : State) (r : Nat) : State := s.fset Fld.SPIN_STAT_STATE 2 r
def up : State := track (track (track up0 0) 1) 16
/-- In power state p. -/
def inPs (p : PState) : State := { up with gov := { up.gov with ps := p } }

/-- Race 0 holds x. -/
def r0 (x : Race) : State := { up with races := ⟨[(0, x), (1, raceUp), (16, raceUp)]⟩ }
/-- Mill cycle 50 of the Turn of up. -/
def T50 : Nat := 256000050

/-- Mailbox 2 of the East half, serving opcode o. -/
def mv (o : Nat) : Serve := ⟨0, 2, o⟩
/-- A request of opcode o with all 56 argument bytes given by a, in service at core 0. -/
def mb (s : State) (o a : Nat) : State :=
  let k := fun w : Nat => Reg.key2 .MIL_MB_REQ 2 w 0
  let t := (List.range 7).foldl (fun s w => s.setRaw .MIL_MB_REQ (k (w + 1)) (BitVec.ofNat 64 (a / 2 ^ (64 * w))))
    ((s.setRaw .MIL_MB_REQ (k 0) (BitVec.ofNat 64 (o + 7 * 65536 + 56 * 2 ^ 32))).fset Fld.MIL_MB_CTRL_BUSY 1 2)
  t.setCore 0 { t.core 0 with cur := some (mv o) }
/-- Argument bytes: (offset, value) pairs. -/
def ar (l : List (Nat × Nat)) : Nat := l.foldl (fun a e => a + e.2 * 256 ^ e.1) 0
/-- The command in the background in place of in service. -/
def bgd (s : State) (o : Nat) : State := s.setCore 0 { s.core 0 with cur := none, bg := some (mv o) }
/-- Life cycle state l. -/
def inLc (s : State) (l : Nat) : State := { s with ld := { s.ld with lc := l } }
end Sys2Proof.Tests

/-! ## The spec's worked figures -/
namespace Sys2Proof.Tests

/-- Chapter 0, example: MMK_FITTED of the reference configuration. -/
theorem test_mmk_fitted : up.see .MMK_FITTED = 0x000E3814 := by decide +kernel
/-- Chapter 4, example: the address 0x35_8A4D_79C0 with HASH_MASK 0x1F, and the race without the hash. -/
theorem test_address_decode : up.place 0x358A4D79C0 = ⟨109650, 2, 27412, 27, 0, 1, 5, 7⟩ ∧ (decodeAddr 4 0 0x358A4D79C0).race = 15
    ∧ encodeAddr 4 0x1F ⟨109650, 2, 27412, 27, 0, 1, 5, 7⟩ = 0x358A4D79C0 ∧ 109650 * 16 + 27 % 16 = 0x1AC52B := by decide +kernel
/-- Chapter 5, example: a race whose bank 3 of group 0 opened row 0x0100 at mc t. -/
def acted (t : Nat) (more : List CmdRec) : State :=
  r0 { raceUp with banks := ({} : Tbl Bank).ins 3 { row := some 0x100 }, hist := more ++ [⟨t, .act, 0, 0, 0, 3, 0⟩] }
/-- WR 26 mc after the ACT (tRCD) and not before. -/
theorem test_act_to_write : (acted 1000 []).legal 0 1026 ⟨.wr, 0, 0, 0, 3, 0x100⟩ = true
    ∧ (acted 1000 []).legal 0 1025 ⟨.wr, 0, 0, 0, 3, 0x100⟩ = false := by decide +kernel
/-- PRE at 60: max(0 + 52, 36 + 24). -/
theorem test_write_to_precharge : (acted 1000 [⟨1026, .wr, 0, 0, 0, 3, 1036⟩]).legal 0 1060 ⟨.pre, 0, 0, 0, 3, 0⟩ = true
    ∧ (acted 1000 [⟨1026, .wr, 0, 0, 0, 3, 1036⟩]).legal 0 1059 ⟨.pre, 0, 0, 0, 3, 0⟩ = false := by decide +kernel
/-- A read in the bank group of the write no earlier than 46 (tWTR_L). -/
theorem test_write_to_read : (acted 1000 [⟨1026, .wr, 0, 0, 0, 3, 1036⟩]).legal 0 1046 ⟨.rd, 0, 0, 0, 3, 0x100⟩ = true
    ∧ (acted 1000 [⟨1026, .wr, 0, 0, 0, 3, 1036⟩]).legal 0 1045 ⟨.rd, 0, 0, 0, 3, 0x100⟩ = false := by decide +kernel
/-- ACT at 84 after PRE at 60 (tRP). -/
theorem test_precharge_to_act :
    let s := r0 { raceUp with hist := [⟨1060, .pre, 0, 0, 0, 3, 0⟩, ⟨1026, .wr, 0, 0, 0, 3, 1036⟩, ⟨1000, .act, 0, 0, 0, 3, 0⟩] }
    s.legal 0 1084 ⟨.act, 0, 0, 0, 3, 0x222⟩ = true ∧ s.legal 0 1083 ⟨.act, 0, 0, 0, 3, 0x222⟩ = false := by decide +kernel
/-- Chapter 6, example: dues at ×4 and at ×1. -/
theorem test_dues :
    ({ acc := ({} : Tbl Nat).ins 0 1000 } : Race).dueStep 1560 0 = { acc := ({} : Tbl Nat).ins 0 1392, owed := ({} : Tbl (List Nat)).ins 0 [0, 1, 2, 3, 4], rot := ({} : Tbl Nat).ins 0 5 }
    ∧ ((({ acc := ({} : Tbl Nat).ins 1 3000 } : Race).dueStep 6240 1).acc.get 0 1) = 4952 := by decide +kernel
/-- Chapter 8, example: G = 8 and A0 = 2; the bound with and without a crossing. -/
theorem test_bound : up.boundMc 0 8 2 1 = 659 ∧ up.boundThirds 0 8 2 1 3 = 3 * 416 ∧ up.boundMc 0 8 2 0 = 599 ∧ up.boundThirds 0 8 2 0 3 = 3 * 379 := by
  decide +kernel
/-- Chapter 10, example: the fuse entry of a row repair and its CHK. -/
theorem test_fuse_entry : entSeal (2 ^ 60 + 12 * 2 ^ 55 + 2 ^ 54 + 2 ^ 52 + 2 * 2 ^ 47 + 0x40 * 2 ^ 30) = 0x16510010000000A8 := by decide +kernel
/-- Chapter 10, example: the places of cell P. -/
theorem test_cell_p : up.place 0x00202264C0 = ⟨257, 1, 64, 12, 1, 0, 2, 3⟩ := by decide +kernel
/-- Chapter 11, example: the ceiling of a half from 420 J, 320 W and 14.0 GB/s a drive. -/
theorem test_ceiling : ((({ up with hstE := { up.hstE with drives := ⟨(List.range 4).map (fun i => (i, { up := true, wr := 0x70, rd := 0xE0 }))⟩ } } : State).fset
    Fld.GOV_BK_STAT_EMEAS 420).fset Fld.HST_CFG_P_DRAIN 320).ceilOf 0 = 12772265 := by decide +kernel
/-- Chapter 12, example: EMEAS from CBK_NOM 640, VBK 12,500 mV and VBK_MIN 5,000 mV. -/
theorem test_emeas : emeasOf 640 12500 5000 = 420 := by decide +kernel
/-- Chapter 13, example: RACE_TMO of RACE[22] at Turn 70,000 as history entry 3 with SEQ 0x0033. -/
theorem test_history :
    let s : State := { up with clk := { up.clk with turn := 70000 }, brk := { up.brk with seq := 0x33 } }
    Completes (.brakeRaise 0x10 22 0) s (fun t => t.raw .BRK_HIST_LO (Reg.key .BRK_HIST_LO 3 0) = 0x0000000111700033
      ∧ t.raw .BRK_HIST_HI (Reg.key .BRK_HIST_HI 3 0) = 0x10B2000000000000 ∧ t.fheld Fld.BRK_SRC_STAT_PEND 0x10 = 0x400000) := ⟨_, rfl, by decide +kernel⟩
/-- Chapter 14, example: the act of 1000 cells, the place of a record and of a live counter. -/
theorem test_tally : heatAct 1000 = 160 ∧ ({ recSeq := 0x2A7, ring := 0x0400000040000000 } : Tly).recBase = 0x402A7000
    ∧ Reg.key2 .TLY_CNT 3 61 0 = 0xE099E8 := by decide +kernel
/-- Chapter 15, example: reply word 0 and the registers of E.MBOX[1]. -/
theorem test_mailbox_words : mbReply 0x16 0x11 St.overcommit 0x0901 = 0x0901000400110016 ∧ Reg.key2 .MIL_MB_REQ 1 0 0 = 0xF01100
    ∧ Reg.key .MIL_MB_CTRL 1 0 = 0xF01180 := by decide +kernel
/-- Chapter 15, example: COMMIT_SLOTS of a race whose table fails check 1 answers OVERCOMMIT with the race and the check. -/
theorem test_commit_overcommit :
    let s := (List.range 8).foldl (fun s j => s.setRaw .RACE_SLOT_SHD (Reg.key2 .RACE_SLOT_SHD 9 j 0) 0x1111111111111111) up
    Completes (.commitSlots 0) (mb s 0x16 0xFFFFFFFF) (fun t => t.raw .MIL_MB_RSP (Reg.key2 .MIL_MB_RSP 2 0 0) = 0x0901000400070016) :=
  ⟨_, rfl, by decide +kernel⟩

/-! ## Single steps -/

/-- R10, R12: a boundary takes the Turn counter from its last value to 0. -/
theorem test_turn_wraps : Completes (.turnBoundary [] 750 100 false) { up with clk := { up.clk with turn := 2 ^ 48 - 1 } } (fun t => t.clk.turn = 0) :=
  ⟨_, rfl, by decide +kernel⟩
/-- R21: an unmapped offset is answered BADARG. -/
theorem test_unmapped : Completes (.registerWrite (.fw 0) 0x3 false 5) up (fun t => t.reply = { mstat := St.badarg, val := 0 }) := ⟨_, rfl, by decide +kernel⟩
/-- R411: three bytes set the pointer, the lowest byte first. -/
theorem test_pointer : Completes (.i3cPrivateWrite [0x10, 0x00, 0xD0]) up (fun t => t.mil.ptr = 0xD00010) := ⟨_, rfl, by decide +kernel⟩
/-- R464: a target keeps the address it has. -/
theorem test_entdaa : Completes (.entdaa 0 5) up (fun t => t.i3c.mgmtAddr = some 8) := ⟨_, rfl, by decide +kernel⟩
/-- R147: the hash lock stays set. -/
theorem test_hash_lock : Completes (.hashLock (.fw 0)) up (fun t => t.fheld Fld.HOP_AMAP_CFG_LOCK = 1) := ⟨_, rfl, by decide +kernel⟩
/-- R450: BYPASS answers nothing and drives no pad. -/
theorem test_bypass : Completes (.bypass 1) up (fun t => t.tst.ir = 0xFF ∧ t.tst.drive = false) := ⟨_, rfl, by decide +kernel⟩
/-- A step takes the front command and leaves the rest. -/
theorem test_step_front : ∃ t, step { up with pending := [.hdrExitPattern, .kyGo] } = .next t ∧ t.pending = [.kyGo] := ⟨_, rfl, by decide +kernel⟩
/-- The empty queue idles. -/
theorem test_step_idle : step State.reset = .next State.reset := rfl
/-- The table gives no command any bits. -/
theorem test_no_words : decodeTableWord 16 0 = none ∧ (State.reset.withFetchWord 16 5).pending = [] := by decide +kernel

/-- Chapter 1, example: a point that fires at Turn 51,024 dates its next head from there, so that it can fire again at 52,048. -/
theorem test_watchdog_next_head :
    let e : RqEnt := { qid := 3, kind := .scrub, id := 7, k := 0, addr := 0, cls := 3, since := 0 }
    let u : State := up.fset Fld.LAY_STALL_CFG_EN 1
    let s : State := { u.setRace 0 { raceUp with rq := [e, { e with qid := 4, addr := 64 }], nextQ := 5 } with
      clk := { u.clk with age := 51024 }, lay := { u.lay with heads := ({} : Tbl (Nat × Nat)).ins (wdKey 0 0 0) (3, 50000) } }
    Completes (.stallWatchdogFire 0 0 0 3) s (fun t => t.lay.heads.find? (wdKey 0 0 0) = some (4, 51024) ∧ t.fget Fld.LAY_STALL_CFG_LIMIT = 1024) :=
  ⟨_, rfl, by decide +kernel⟩
/-- The check value of CRC-32C for the text 123456789. -/
theorem test_crc32c : crc32c [0x31, 0x32, 0x33, 0x34, 0x35, 0x36, 0x37, 0x38, 0x39] = 0xE3069283 := by decide +kernel
/-- A drive header. -/
def hdrEx : Hdr :=
  { half := 1, drive := 2, nh := 4, enc := true, bmapValid := true, heatValid := true, state := 3, failed := [1], seq := 7, turn := 70000, epoch := 9
    commit := 8, unit := 5, regions := 131072, gen := 3, void := ({} : Tbl Nat).ins 17 4, wrate := 0x70, rrate := 0xE0 }
/-- R324: the bytes of a header read back as the header, and not with a byte changed. -/
theorem test_header_bytes : hdrRead (hdrBlock hdrEx) = some hdrEx ∧ hdrRead ((hdrBlock hdrEx).set 40 99) = none := by decide +kernel
/-- R337: a Get Log Page that has waited 1 s. -/
theorem test_witness_DriveCommandsRun_timeout :
    let c : DrvCmd := { cid := 1, port := 0, kind := 4, v := 0, since := 0 }
    let s : State := { up with hstE := { up.hstE with cmds := [c] } , clk := { up.clk with age := 10 ^ 9 } }
    hoistFitted s.ld = true ∧ (s.hst 0).cmdAt 0 1 = some c ∧ s.clk.age ≥ c.since + s.timeoutOf c ∧ 2 < c.kind ∧ (s.hst 0).st ≠ .drain := by
  decide +kernel

/-! ## Admission (R78) and the DRAM array (R138) -/

/-- A request header of stream 3. -/
def hd (o a : Nat) : ReqHdr := { opc := o, rty := false, stream := 3, tag := 1, addr := a, raw := 0, arg := 0 }
/-- Module 2 with entries in its pools. -/
def adm : State := { up with mods := up.mods.ins 2 { st := .active, hop := 4, pondE := 8, flumeE := 4 } }
theorem test_witness_AdmissionTakesOrLeaves :
    (adm.judge 2 50 false (hd Opc.nop 0) []).2 = verdict Rc.ok 0 ∧ (adm.judge 2 50 false (hd Opc.wr 0) [5]).2 = verdict Rc.ok 0
    ∧ (adm.judge 2 50 false (hd Opc.barS 0) []).2 = verdict Rc.ok 0 ∧ (up.judge 2 50 false (hd Opc.wr 0) [5]).2 ≠ verdict Rc.ok 0
    ∧ (let s := up.fset Fld.DRS_ISOL_ISOL 1
       let h := hd Opc.wr 0
       s.brk.safe = false ∧ h.malformed (topOf s.ld) = false ∧ s.fget Fld.HOP_STREAM_EN h.stream ≠ 0 ∧ s.splitNow = false ∧ h.opc ≠ Opc.amo
        ∧ Opc.addressed h.opc = true ∧ s.raceOff (s.raceAt h.addr) = true)
    ∧ ({ up with brk := { up.brk with safe := true } } : State).brk.safe = true := by decide +kernel
theorem test_witness_AdmissionTakesOrLeaves_split :
    let s : State := { up with lay := { up.lay with split := true } }
    let h := hd Opc.barD 0
    s.brk.safe = false ∧ h.malformed (topOf s.ld) = false ∧ s.fget Fld.HOP_STREAM_EN h.stream ≠ 0 ∧ s.splitNow = true
      ∧ (h.opc = Opc.amo → s.ld.fatom = true)
      ∧ s.crosses h (modHalf 2) (if Opc.addressed h.opc then raceHalf (s.raceAt h.addr) else modHalf 2) = true
      ∧ (s.judge 2 50 false h []).2 = verdict Rc.unreach 0 := by decide +kernel
theorem test_witness_DramReadsBack : ({} : Dram).cells.wf = true := rfl

/-! ## The statements about every step -/

theorem test_witness_StepRunsTheFrontCommand : ({ up with pending := [.kyGo] } : State).pending = .kyGo :: [] := rfl
theorem test_witness_EveryStepAnswers : State.reset.pending = [] ∧ ({ up with pending := [.kyGo] } : State).pending = [.kyGo] := ⟨rfl, rfl⟩
theorem test_witness_StepKeepsTidy : up.tidy = true ∧ ∃ t, step { up with pending := [.wakeTimer] } = .next t := ⟨by decide +kernel, _, rfl⟩
theorem test_witness_OnlyNamedCommandsStore : ∃ t, exec .kyGo up = .next t ∧ storesDram .kyGo = false ∧ burnsFuses .kyGo = false :=
  ⟨_, rfl, by decide +kernel⟩
theorem test_witness_TimeNeverRunsBack : ∃ t, step { up with pending := [.kyGo] } = .next t := ⟨_, rfl⟩
theorem test_witness_OverrunsAndTurnReads_windows :
    up.clk.planDone = false ∧ (up.clk.weirDone = false ∧ up.gov.ps ≠ .idle) ∧ (up.clk.distDone = false ∧ up.gov.ps ≠ .idle) := by decide +kernel
end Sys2Proof.Tests

/-! ## Well-formed commands -/
namespace Sys2Proof.Tests

/-- No temperature read. -/
def noTemps : List TempRead := List.replicate 24 none

/-- Each check of Instr.wf refuses an operand one past its bound (R5, R15). -/
theorem test_illformed_1 : ([
    .turnBoundary [] 0 0 false, .registerWrite (.mgmt 20) 0 false 0, .registerWrite (.fw 2) 0 false 0, .layLinkReplay 2 0 false,
     .layLinkReplay 0 8 false, .stallWatchdogFire 2 0 0 0, .stallWatchdogFire 0 256 0 0, .stallWatchdogFire 0 0 4 0, .layStallStatusClear 2,
     .sluiceDecision (.row 32) 0 [] [], .sluiceDecision (.col 32 0) 0 [] [], .sluiceDecision (.col 0 2) 0 [] [],
     .sluiceDecision (.xp 2 0 0) 0 [] [], .sluiceDecision (.xp 0 16 0) 0 [] [], .sluiceDecision (.xp 0 0 16) 0 [] [],
     .sluiceDecision (.link 2 0) 0 [] [], .sluiceDecision (.link 0 8) 0 [] [], .sluiceDecision (.gport 8) 0 [] [],
     .sluiceDecision (.row 0) 256 [] [], .flitReceive 20 0 0, .flitReceive 0 256 0, .upstreamFlitSend 20 0, .upstreamFlitSend 0 256,
     .replayTimeout 20, .moduleEnable (.mgmt 20) 0 false, .moduleEnable (.fw 2) 0 false, .moduleEnable .i3c 20 false, .recal (.mgmt 20) 0,
     .recal (.fw 2) 0, .recal .i3c 20, .restart (.mgmt 20) 0, .restart (.fw 2) 0, .restart .i3c 20, .hostRecalRequest 20,
     .ucieLinkActive 20 0 0 false, .trainAttemptTimeout 20, .openTimeout 20, .recalComplete 20 0, .recalTimeout 20, .rd 0 256, .rdx 0 256,
     .millpondDrain 0 4, .barrierPartResolved 2 0, .granWrite (.mgmt 20) 0, .granWrite (.fw 2) 0, .granWrite .i3c 4,
     .hopLostLogClear (.mgmt 20) 0, .hopLostLogClear (.fw 2) 0, .hopLostLogClear .i3c 2, .hashLock (.mgmt 20), .hashLock (.fw 2),
     .fillOpen 32 0, .fillOpen 0 524288, .fillGrant 32 0, .fillGrant 0 524288, .fillComplete 32 0, .fillComplete 0 256,
     .wmapClear (.mgmt 20) 0, .wmapClear (.fw 2) 0, .wmapClear .i3c 2] : List Instr).all (fun i => i.wf == false) = true := by decide +kernel

theorem test_illformed_2 : ([
    .wmapClearComplete 2, .dramAct 32 0 0 0 0 0 0, .dramAct 0 256 0 0 0 0 0, .dramAct 0 0 2 0 0 0 0, .dramAct 0 0 0 4 0 0 0,
     .dramAct 0 0 0 0 4 0 0, .dramAct 0 0 0 0 0 8 0, .dramAct 0 0 0 0 0 0 131072, .dramRd 32 0 (.probe 0), .dramRd 0 256 (.probe 0),
     .dramWr 32 0 (.probe 0), .dramWr 0 256 (.probe 0), .dramPre 32 0 0 0 0 0, .dramPre 0 256 0 0 0 0, .dramPre 0 0 2 0 0 0,
     .dramPre 0 0 0 4 0 0, .dramPre 0 0 0 0 4 0, .dramPre 0 0 0 0 0 8, .refpb 32 0 0 0, .refpb 0 256 0 0, .refpb 0 0 2 0, .refpb 0 0 0 4,
     .refab 32 0 0 0, .refab 0 256 0 0, .refab 0 0 2 0, .refab 0 0 0 4, .rfm 32 0 0 0 0 0, .rfm 0 256 0 0 0 0, .rfm 0 0 2 0 0 0,
     .rfm 0 0 0 4 0 0, .rfm 0 0 0 0 4 0, .rfm 0 0 0 0 0 8, .mrw 32 0, .mrw 0 256, .mrr 32 0, .mrr 0 256, .sre 32 0 0, .sre 0 256 0,
     .sre 0 0 4, .srx 32 0 0, .srx 0 256 0, .srx 0 0 4, .pde 32 0, .pde 0 256, .pdx 32 0, .pdx 0 256, .readBurstReturn 32 0 0 [],
     .readBurstReturn 0 2 0 [], .readBurstReturn 0 0 256 [], .readBurstReturn 0 0 0 ([(72, 1)]), .missingBurst 32 0 0, .missingBurst 0 2 0,
     .missingBurst 0 0 256, .strayStrobe 32 0, .strayStrobe 0 2, .fauTake 32 0 0 0, .fauTake 0 256 0 0, .fauTake 0 0 0 4,
     .fauExecute 32 0 0 0, .fauExecute 0 256 0 0] : List Instr).all (fun i => i.wf == false) = true := by decide +kernel

theorem test_illformed_3 : ([
    .fauExecute 0 0 0 4, .mrCmd (.mgmt 20) 0 0, .mrCmd (.fw 2) 0 0, .mrCmd .i3c 32 0, .mrCmdTimeout 32, .timingLock (.mgmt 20) 0,
     .timingLock (.fw 2) 0, .timingLock .i3c 32, .plannedRefreshDue 32 0 0, .plannedRefreshDue 0 2 0, .plannedRefreshDue 0 0 128,
     .revocation 32 0 0, .revocation 0 2 0, .revocation 0 0 256, .srHandover 32 0 0, .srHandover 0 256 0, .srHandover 0 0 4,
     .handoverTimeout 32, .slotSwapRequest (.mgmt 20) 0, .slotSwapRequest (.fw 2) 0, .slotSwapRequest .i3c 4294967296,
     .slotDirectWrite (.mgmt 20) 0 0 0, .slotDirectWrite (.fw 2) 0 0 0, .slotDirectWrite .i3c 32 0 0, .slotDirectWrite .i3c 0 8 0,
     .slotStatBadcodeClear (.mgmt 20) 0, .slotStatBadcodeClear (.fw 2) 0, .slotStatBadcodeClear .i3c 32, .weirScaledClear (.mgmt 20),
     .weirScaledClear (.fw 2), .fullTraining 32, .trainingComplete 32 [] false, .trainingComplete 0 ([⟨8, 0, 0⟩]) false,
     .trainingComplete 0 ([⟨0, 2, 0⟩]) false, .trainingComplete 0 ([⟨0, 0, 16⟩]) false, .probeResult 32 0 0 0 0 0, .probeResult 0 2 0 0 0 0,
     .probeResult 0 0 4 0 0 0, .probeResult 0 0 0 2 0 0, .centreApply 32 0 0, .centreApply 0 2 0, .centreApply 0 0 4, .trackingLag 32,
     .retrainRequest (.mgmt 20) 0 0, .retrainRequest (.fw 2) 0 0, .retrainRequest .i3c 2 0, .retrainRequest .i3c 0 16, .retrainStart 2 [] [],
     .retrainStart 0 [64] [], .retrainStart 0 [] ([(0, [(72, 1)])]), .retrainComplete 2 [] false, .retrainComplete 0 ([⟨8, 0, 0⟩]) false,
     .retrainComplete 0 ([⟨0, 2, 0⟩]) false, .retrainComplete 0 ([⟨0, 0, 16⟩]) false, .retrainAbort 2, .resumeCheck 32 false,
     .scrubPieceStart 2, .scrubPriorityCheck 2, .errorWindowEnd 2, .qrnUeLogClear (.mgmt 20) 0] : List Instr).all (fun i => i.wf == false) = true := by decide +kernel

theorem test_illformed_4 : ([
    .qrnUeLogClear (.fw 2) 0, .qrnUeLogClear .i3c 2, .qrnRowLogClear (.mgmt 20) 0, .qrnRowLogClear (.fw 2) 0, .qrnRowLogClear .i3c 2,
     .isolationDecision 32, .isolationAdmitOff 32, .isolationReadsOff 32, .isolationStoreDrop 32, .isolationFinal 32, .writeBehindIssue 2,
     .driveCommandComplete 8 0 false, .driveCommandTimeout 8 0, .driveRateWindow 8 0 0, .headroomPress 2, .epochAdvance 2,
     .dirtyMapParityError 2, .resyncComplete 2, .hoistAttach 2 [], .hoistAttach 0 ([⟨8, true, 0, [], [], [], []⟩]),
     .hoistAttach 0 ([⟨0, true, 0, [256], [], [], []⟩]), .hoistAttach 0 ([⟨0, true, 0, [], [256], [], []⟩]), .driveAttachTimeout 8,
     .hoistLoadStart 2, .chunkRestoreComplete 2 0 false, .chunkRestoreComplete 0 524288 false, .demandFillIssue 2 0,
     .demandFillIssue 0 524288, .hoistSeal 2, .powerStateRequest 2 0, .powerStateRequest 0 8, .padRelease 2, .wakeI3cMatch 2,
     .wakeSideband 20, .regulatorAckTimeout 8, .watchSample [] 0 0 false, .brakeRaise 64 0 0, .brakeRaise 0 32 0,
     .brakeRaise 0 0 1099511627776, .brokenWire 64 0, .brokenWire 0 32, .brakePendClear (.mgmt 20) 0 0, .brakePendClear (.fw 2) 0 0,
     .brakePendClear .i3c 64 0, .brakePendClear .i3c 0 4294967296, .clrRefusedClear (.mgmt 20), .clrRefusedClear (.fw 2),
     .brkSafeClear (.mgmt 20), .brkSafeClear (.fw 2), .histUnfreeze (.mgmt 20), .histUnfreeze (.fw 2), .brkInjGo (.mgmt 20) 0,
     .brkInjGo (.fw 2) 0, .brkInjStop (.mgmt 20), .brkInjStop (.fw 2), .tallyDumpStage 2, .bandwidthWindowEnd 2, .sampleCapture 2 0,
     .sampleCapture 0 256, .sampleRelease (.mgmt 20) 0] : List Instr).all (fun i => i.wf == false) = true := by decide +kernel

theorem test_illformed_5 : ([
    .sampleRelease (.fw 2) 0, .sampleRelease .i3c 2, .tlyCntLowRead 2 0 0, .tlyCntLowRead 0 7 0, .tlyCntLowRead 0 0 256,
     .heatDataAccess (.mgmt 20) 0 none, .heatDataAccess (.fw 2) 0 none, .heatDataAccess .i3c 2 none, .doorbell (.mgmt 20) 0 0,
     .doorbell (.fw 2) 0 0, .doorbell .i3c 2 0, .doorbell .i3c 0 8, .mailboxServiceStart 2, .commandComplete 2,
     .mailboxRelease (.mgmt 20) 0 0, .mailboxRelease (.fw 2) 0 0, .mailboxRelease .i3c 2 0, .mailboxRelease .i3c 0 8, .mailboxTimeout 2 0,
     .mailboxTimeout 0 8, .ping 2, .getId 2, .getStatus 2, .fwLoadData 2, .fwLoadFetch 2, .fwActivate 2, .fwDiscard 2, .softReset 2,
     .setStream 2, .getStream 2, .setGroup 2, .getGroup 2, .setSlots 2, .getSlots 2, .commitSlots 2, .checkSlots 2, .retrain 2, .repairRow 2,
     .fuseRepairSoftRow 2, .fuseRepairLane 2, .fuseRepairRetire 2, .fuseRepairRaw 2, .fuseRepairRevoke 2, .isolateRace 2, .granStatus 2,
     .granFormat 2, .setBackup 2, .granLog 2, .setPower 2, .setPwrCfg 2, .setTherm 2, .getPower 2, .setSev 2, .clear 2, .inject 2,
     .injectStop 2, .histRelease 2, .tlySetCfg 2, .tlySetRing 2, .tlySetUser 2] : List Instr).all (fun i => i.wf == false) = true := by decide +kernel

theorem test_illformed_6 : ([
    .tlyHeatRead 2, .tlyHeatWrite 2, .mmkChallenge 2, .mmkResponseR 2, .mmkResponseS 2, .mmkPassphrase 2, .mmkLock 2, .mmkAdvance 2,
     .mmkCert 2, .selftestCrypto 2 false, .selftestWire 2 [], .selftestWire 0 ([(64, 0)]), .selftestWire 0 ([(0, 32)]), .selftestFuse 2,
     .testAccess1149 2, .testAccess1838 2, .testModeExit (.mgmt 20), .testModeExit (.fw 2), .entdaa 2 0, .kyPower 8, .bootGo (.mgmt 20),
     .bootGo (.fw 2), .attEnWrite (.mgmt 20) false, .attEnWrite (.fw 2) false, .warmResetRequest (.mgmt 20), .warmResetRequest (.fw 2),
     .halfResetRequest (.mgmt 20), .halfResetRequest (.fw 2), .raceResetRequest (.mgmt 20) 0, .raceResetRequest (.fw 2) 0,
     .raceResetRequest .i3c 4294967296, .raceReset 32, .pairRailsUnequal 64 0, .pairRailsUnequal 0 32, .controllerIbiEnable 2 false] : List Instr).all (fun i => i.wf == false) = true := by decide +kernel

/-- Operands at their bounds are well formed. -/
theorem test_wellformed_1 : ([
    .registerWrite (.mgmt 19) 0 false 0, .layLinkReplay 1 7 false, .stallWatchdogFire 1 255 3 0, .sluiceDecision (.row 0) 255 [] [],
     .flitReceive 19 255 0, .moduleEnable (.mgmt 19) 19 false, .ucieLinkActive 19 0 0 false, .dramAct 31 255 1 3 3 7 131071,
     .dramRd 31 255 (.probe 0), .dramWr 31 255 (.probe 0), .dramPre 31 255 1 3 3 7, .refpb 31 255 1 3, .refab 31 255 1 3,
     .rfm 31 255 1 3 3 7, .sre 31 255 3, .srx 31 255 3, .readBurstReturn 31 1 255 [], .missingBurst 31 1 255, .fauTake 31 255 0 3,
     .fauExecute 31 255 0 3, .mrCmd (.mgmt 19) 31 0, .plannedRefreshDue 31 1 127, .revocation 31 1 255, .srHandover 31 255 3,
     .slotDirectWrite (.mgmt 19) 31 7 0, .trainingComplete 31 [] false, .probeResult 31 1 3 1 0 0, .centreApply 31 1 3,
     .retrainRequest (.mgmt 19) 1 15, .retrainStart 1 [] [], .retrainComplete 1 [] false, .driveCommandComplete 7 0 false,
     .driveRateWindow 7 0 0, .chunkRestoreComplete 1 524287 false, .brakeRaise 63 31 1099511627775, .brakePendClear (.mgmt 19) 63 4294967295,
     .tlyCntLowRead 1 6 255, .heatDataAccess (.mgmt 19) 1 none, .doorbell (.mgmt 19) 1 7, .mailboxRelease (.mgmt 19) 1 7] : List Instr).all (fun i => i.wf == true) = true := by decide +kernel

end Sys2Proof.Tests

/-! ## Witnesses: the Turn and supply levels -/
namespace Sys2Proof.Tests.Turn
def restUp : State := { up with boot := { up.boot with westUp := false, rest := some (0, false) } }
def warmRst : State := { up with boot := { up.boot with inReset := some .warm } }
def swapped : State := { up with clk := { up.clk with swapDone := true } }
def aonB : State := { up with gov := { up.gov with aonB := true } }

theorem test_witness_TurnWindowsRunInPlace :
    (let s : State := up
     s.mainsOn = true ∧ s.clk.mc ≤ 47 ∧ s.clk.alertDone = false ∧ s.clk.mc ≤ 48 ∧ s.clk.swapDone = false ∧ s.clk.mc ≤ 207 ∧
     s.clk.weirDone = false ∧ s.gov.ps ≠ PState.idle ∧ s.clk.distDone = false ∧ (s.weir.budgetN.getD s.weir.budget).wf = true)
    ∧
    (let s : State := swapped
     s.mainsOn = true ∧ s.clk.mc ≤ 111 ∧ s.clk.planDone = false ∧ (s.clk.swapDone = true ∨ 48 < s.clk.mc)) := by decide +kernel

theorem test_witness_OverrunsAndTurnReads :
    (let s : State := up
     s.mainsOn = true ∧ s.clk.alertDone = false ∧ s.clk.planDone = false ∧ s.clk.weirDone = false ∧ s.gov.ps ≠ PState.idle ∧
     s.clk.distDone = false ∧ s.domainOn 74 = true) := by decide +kernel

theorem test_witness_SuppliesAreWatched :
    (let s : State := up
     s.awake = true ∧ s.boot.aonDown = false ∧ 80 ≤ 90 ∧ s.regs.wf = true ∧ 40 ≤ 50 ∧ 50 < 80 ∧ 39 < 40 ∧ s.gov.aonB = false)
    ∧
    (let s : State := (inPs .furl)
     (s.gov.ps = PState.furl ∨ s.gov.ps = PState.fullFurl)) := by decide +kernel

theorem test_witness_SuppliesAreWatched_2 :
    (let s : State := aonB
     s.boot.aonDown = false ∧ s.gov.aonB = true) := by decide +kernel
end Sys2Proof.Tests.Turn

/-! ## Witnesses: supplies and power states -/
namespace Sys2Proof.Tests.Power
def g (f : Gov → Gov) : State := { up with gov := f up.gov }
def s2_1 : State := (g fun x => { x with alertDue := some true })
def s2_2 : State := (g fun x => { x with alertDue := some false, alert := true })
def s2_3 : State := (g fun x => { x with drainDue := true })
def s2_4 : State := (g fun x => { x with vbkQ := [(0, 20000)] })
def s2_5 : State := ((up.fset Fld.GOV_BK_CFG_MODE 1))
def s2_6 : State := (g fun x => { x with testAt := some 5 })
def s2_7 : State := (g fun x => { x with bkTest := true })
def s2_8 : State := (g fun x => { x with bkTest := true })
def s2_9 : State := ((g fun x => {x with alert := true}))
def auto : State := let s := (up.fset Fld.GOV_PWR_CFG_AUTO_IDLE 1); { s with gov := { s.gov with idleTurns := 100000000 } }
def s2_10 : State := { up with gov := { up.gov with entry := some .furl, entryAt := 0, entryCore := some 0 }, clk := { up.clk with age := 100000000 } }
def s2_11 : State := (g fun x => { x with entry := some .furl, entryAt := 0, allReady := true , entryCore := none})
def s2_12 : State := (g fun x => { x with entry := some .off, entryAt := 0, allReady := true , entryCore := none})
def s2_13 : State := (g fun x => { x with pads := true})
def wk (p : PState) : State := let s := { up with gov := { up.gov with ps := p, sleepAt := 0 } }; (s.fset Fld.GOV_WAKE_EN 0x7F).fset Fld.GOV_WAKE_TIMER_MS 1
def s2_14 : State := (wk .furl)
def s2_15 : State := (wk .idle)
def s2_16 : State := { wk .furl with gov := {(wk .furl).gov with drainFurl := true}, clk := {turn := 1, age := 100000000}}
def s2_17 : State := { wk .idle with gov := {(wk .idle).gov with wake := some (1,0,0)}}
def s2_18 : State := { wk .furl with gov := {(wk .furl).gov with wake := some (1,0,0)}}
def s2_19 : State := { wk .furl with gov := {(wk .furl).gov with wake := some (1,1,0), vdd := 740}}
def s2_20 : State := { wk .furl with gov := {(wk .furl).gov with wake := some (1,2,0)}}
def s2_21 : State := { wk .furl with gov := {(wk .furl).gov with wake := some (1,3,1)}}
def s2_22 : State := { wk .furl with gov := {(wk .furl).gov with wake := some (1,4,0)}}
def s2_23 : State := { wk .furl with gov := {(wk .furl).gov with wake := some (1,4,0), wakeWait := true, failAt := 0}}
def s2_24 : State := (g fun x => {x with iLow := 15, istep := 2})
def s2_25 : State := ((wk .furl).fset Fld.GOV_PWR_CFG_WATCH_MS 1)

theorem test_witness_AlertDrainAndBackupEnergy :
    (let s : State := s2_1
     s.regs.wf = true ∧ s.gov.alertDue = some true ∧ s.gov.alert = false)
    ∧
    (let s : State := s2_2
     s.regs.wf = true ∧ s.gov.alertDue = some false ∧ s.gov.alert = true ∧ s.gov.drain = false) := by decide +kernel

theorem test_witness_AlertDrainAndBackupEnergy_2 :
    (let s : State := s2_3
     s.regs.wf = true ∧ s.gov.drainDue = true ∧ s.gov.drain = false)
    ∧
    (let s : State := s2_4
     s.regs.wf = true ∧ s.mainsOn = true ∧ s.clk.turn % 65536 = 0) := by decide +kernel

theorem test_witness_AlertDrainAndBackupEnergy_3 :
    (let s : State := s2_6
     s.regs.wf = true ∧ s.gov.ps = PState.run ∧ s.mainsOn = true ∧ s.gov.alert = false ∧ s.gov.mfSample = false ∧ s.gov.mfLatch = false ∧
     s.gov.mfLevel = false ∧ s.gov.bkTest = false ∧ (∃ a, s.gov.testAt = some a ∧ s.clk.age ≥ a))
    ∧
    (let s : State := s2_7
     s.regs.wf = true ∧ s.gov.bkTest = true ∧ s.clk.age ≥ s.gov.testFrom + msTurns (s.fheld Fld.GOV_BK_CFG_TTEST)) := by decide +kernel

theorem test_witness_AlertDrainAndBackupEnergy_4 :
    (let s : State := s2_5
     (s.regs.wf = true ∧ s.mainsOn = true ∧ s.fheld Fld.GOV_BK_CFG_MODE = 1 ∧ s.gov.bkTest = false ∧ s.gov.bkHold = false) ∧
     (∀ (v a : ℕ), s.gov.setBk = some (v, a) → s.clk.age ≥ a + msTurns 10000)) := ⟨by decide +kernel, (by intro v a h; cases h)⟩

theorem test_witness_PowerEntriesRun :
    (let s : State := up
     s.regs.wf = true ∧ s.mainsOn = true ∧ s.awake = true ∧ 1 < 2 ∧ s.gov.entry = none ∧ s.brk.safe = false ∧ PState.idle ≠ PState.run ∧
     PState.idle ≠ s.gov.ps ∧ (4 < 5 ∨ s.brk.safe = true))
    ∧
    (let s : State := auto
     s.regs.wf = true ∧ s.mainsOn = true ∧ s.awake = true ∧ s.gov.ps = PState.run ∧ s.fb Fld.GOV_PWR_CFG_AUTO_IDLE = true ∧
     s.gov.entry = none ∧ s.brk.safe = false ∧ s.gov.alert = false ∧ s.gov.drain = false ∧
     s.gov.idleTurns ≥ s.fget Fld.GOV_PWR_CFG_IDLE_AFTER) := by decide +kernel

theorem test_witness_PowerEntriesRun_2 :
    (let s : State := s2_10
     s.regs.wf = true ∧ s.mainsOn = true ∧ s.awake = true ∧ s.gov.entry = some PState.furl ∧ PState.furl ≠ PState.idle ∧
     s.gov.allReady = false ∧ s.gov.entryDrain = false ∧ s.clk.age ≥ s.gov.entryAt + msTurns (s.fget Fld.GOV_PWR_CFG_ENTRY_TMO))
    ∧
    (let s : State := s2_12
     s.regs.wf = true ∧ s.mainsOn = true ∧ s.awake = true ∧ s.lowering = some PState.off) := by decide +kernel

theorem test_witness_PowerEntriesRun_3 :
    (let s : State := (let s := s2_12; { s with gov := { s.gov with avsFail := true } })
     s.regs.wf = true ∧ s.mainsOn = true ∧ s.awake = true ∧ s.gov.entry = some PState.off ∧ s.gov.allReady = true ∧
     s.handedAll PState.off = true ∧ (PState.off = PState.idle ∨ s.gov.avsFail = true ∨ s.gov.railsAt PState.off = true))
    ∧
    (let s : State := s2_13
     s.regs.wf = true ∧ s.mainsOn = true ∧ s.awake = true ∧ 1 < 2 ∧ s.gov.pads = true) := by decide +kernel

theorem test_witness_WakesRun :
    (let s : State := s2_14
     s.regs.wf = true ∧ s.gov.entry = none ∧ s.gov.wake = none ∧ s.wakeOn 1 = true ∧ s.wakeTable 1 = true ∧ s.boot.aonDown = false ∧
     s.i3c.mgmtAddr.isSome = true ∧ s.i3c.attAddr.isSome = true ∧ s.wakeOn 2 = true ∧ s.wakeTable 2 = true ∧ modFitted s.ld 0 = true ∧
     s.fheld Fld.HEAD_MOD_CTRL_EN = 1 ∧ 1000 ≥ 1000 ∧ s.wakeOn 3 = true ∧ s.wakeTable 3 = true ∧ 0 < 500 ∧ 500 ≤ 700 ∧ 700 < 1000 ∧
     s.wakeOn 4 = true ∧ s.wakeTable 4 = true ∧ s.clk.age ≥ s.gov.sleepAt + msTurns (s.fheld Fld.GOV_WAKE_TIMER_MS))
    ∧
    (let s : State := s2_16
     s.regs.wf = true ∧ s.gov.entry = none ∧ s.gov.wake = none ∧ s.wakeOn 6 = true ∧ s.gov.ps = PState.furl ∧ s.gov.drainFurl = true ∧
     s.gov.mfLevel = false ∧ s.now ≥ s.gov.mfOkSince + 256 * msTurns (s.fget Fld.GOV_PWR_CFG_MAIN_OK)) := by decide +kernel

theorem test_witness_WakesRun_2 :
    (let s : State := s2_17
     s.regs.wf = true ∧ s.gov.wake = some (1, 0, 0) ∧ s.gov.ps = PState.idle ∧ s.gov.entry = none ∧ s.gov.wakeWait = false)
    ∧
    (let s : State := s2_18
     s.regs.wf = true ∧ s.gov.wake = some (1, 0, 0) ∧ s.gov.ps ≠ PState.idle ∧ s.gov.wakeWait = false ∧ 0 = 0) := by decide +kernel

theorem test_witness_WakesRun_3 :
    (let s : State := s2_19
     s.regs.wf = true ∧ s.gov.wake = some (1, 1, 0) ∧ 1 ≤ 1 ∧ 1 ≤ 4 ∧ s.boot.aonDown = false ∧ s.gov.ps ≠ PState.run ∧ s.gov.entry = none ∧
     s.gov.wakeWait = false)
    ∧
    (let s : State := s2_22
     s.regs.wf = true ∧ s.gov.wake = some (1, 4, 0) ∧ (s.gov.ps = PState.furl ∨ s.gov.ps = PState.fullFurl) ∧ s.gov.wakeWait = false ∧
     4 ≤ 4 ∧ s.gov.retLost = false ∧ s.gov.drainFurl = false ∧ s.gov.wakeFailPend = false ∧ s.lcPower = false) := by decide +kernel

theorem test_witness_WakesRun_4 :
    (let s : State := s2_23
     s.regs.wf = true ∧ s.gov.wake = some (1, 4, 0) ∧ s.gov.wakeWait = true ∧ s.clk.age ≥ s.gov.failAt + 1250) := by decide +kernel

theorem test_witness_CurrentAndWatchSamples :
    (let s : State := up
     s.regs.wf = true ∧ s.mainsOn = true ∧ s.clk.turn % 64 = 0 ∧ s.gov.curAt ≠ some s.clk.age)
    ∧
    (let s : State := s2_25
     s.regs.wf = true ∧ (s.gov.ps = PState.furl ∨ s.gov.ps = PState.fullFurl) ∧ s.gov.srr.wf = true ∧ s.fget Fld.GOV_PWR_CFG_WATCH_MS ≥ 1 ∧
     s.clk.age ≥ s.gov.watchAt + msTurns (s.fget Fld.GOV_PWR_CFG_WATCH_MS)) := by decide +kernel
end Sys2Proof.Tests.Power

/-! ## Witnesses: row, column and refresh commands -/
namespace Sys2Proof.Tests.Races
def gr (n : RowReq) (x : Race) : State := r0 { x with grantR := [(n, T50)] }
def sAct := gr ⟨.act, 0, 0, 0, 0, 5⟩ raceUp
def openB : Race := { raceUp with banks := ({} : Tbl Bank).ins 0 { row := some 5, raa := 3 } }
def sPre := gr ⟨.pre, 0, 0, 0, 0, 0⟩ openB
def adr : Nat := 0
def pl := up.place 0
def openA : Race := { raceUp with banks := ({} : Tbl Bank).ins (pl.pr * 128 + pl.sid * 32 + pl.bg * 8 + pl.bank) { row := some pl.row } }
def sRd : State := r0 { openA with rq := [{ qid := 3, kind := .host, id := 7, k := 0, addr := 0, cls := 2, since := 0 }], nextQ := 4
                                   grantA := [(.ent 3, T50)] }
def sWr : State := r0 { openA with wq := [{ qid := 3, addr := 0, data := 9, psn := false, epoch := 0, cls := 2, since := 0 }], nextQ := 4
                                   grantA := [(.ent 3, T50)] }
def fillB : Race := { raceUp with fill := some { v := 0, at_ := 0 }, grantA := [(.fill, T50)] }
def fillK : Nat := let n := up.fillReq ⟨0, 0, 0, 0⟩ 0 0 .wr; n.pr * 128 + n.sid * 32 + n.bg * 8 + n.bank
def fillRow : Nat := (up.fillReq ⟨0, 0, 0, 0⟩ 0 0 .wr).row
def sFill : State := r0 { fillB with banks := ({} : Tbl Bank).ins fillK { row := some fillRow } }
def prb (j : Nat) : State := r0 { raceUp with banks := ({} : Tbl Bank).ins 31 { row := some 131072 }, tr := { nextA := j }, grantA := [(.probe, T50)] }
def sAb := gr ⟨.refab, 1, 0, 0, 0, 0⟩ { raceUp with owed := ({} : Tbl (List Nat)).ins 4 [3] }
def sSre := gr ⟨.sre, 0, 0, 0, 0, 0⟩ { raceUp with hand := ({} : Tbl Nat).ins 0 5 }
def sSrx := gr ⟨.srx, 0, 0, 0, 0, 0⟩ { raceUp with sref := ({} : Tbl Bool).ins 0 true }
def sHand := r0 { raceUp with inReset := true }
def sHt := r0 { raceUp with inReset := true, hand := ({} : Tbl Nat).ins 0 5 }
def planned (rfm : Bool) (n : Nat) : Race := { raceUp with planA := { slots := [{ slot := n, rfm := rfm, sid := 0, bank := 9, urgent := false }] } }
def sPb : State := { gr ⟨.refpb, 0, 0, 1, 1, 0⟩ (planned false 26) with clk := up.clk }
def sRfm : State := gr ⟨.rfm, 0, 0, 1, 1, 0⟩ (planned true 26)
def sLate : State := r0 (planned true 10)
def sRev : State := r0 { raceUp with banks := ({} : Tbl Bank).ins 9 { urgRef := true } }
def fill0 : Fill := { v := 0, at_ := 0 }
def planPb : RefSlot := { slot := 26, rfm := false, sid := 0, bank := 9, urgent := false }
def planRfm : RefSlot := { slot := 26, rfm := true, sid := 0, bank := 9, urgent := false }
def planLate : RefSlot := { slot := 10, rfm := true, sid := 0, bank := 9, urgent := false }
def rd3 : RqEnt := { qid := 3, kind := .host, id := 7, k := 0, addr := 0, cls := 2, since := 0 }
def entRd : Ent := ⟨3, 0, 2, 0, false, sRd.onLane rd3, rd3.colMin, 1, sRd.place 0⟩
def entWr : Ent := ⟨3, 0, 2, 0, true, false, 1, 1, sWr.place 0⟩

theorem test_witness_RowCommandsOpenAndClose :
    (let s : State := sAct
     s.raceCmd 0 = true ∧ s.legal 0 (s.at 50) { cmd := Cmd.act, row := 5 } = true ∧
     s.rowGranted 0 (s.at 50) { cmd := Cmd.act, row := 5 } = true)
    ∧
    (let s : State := sPre
     s.raceCmd 0 = true ∧ s.legal 0 (s.at 50) { cmd := Cmd.pre } = true ∧
     ((∃ g, List.find? (fun g => decide (g.2 = s.at 50)) (s.race 0).grantR = some g ∧ ({ g.1 with  }) = { cmd := Cmd.pre }) ∨ List.find? (fun g => decide (g.2 = s.at 50)) (s.race 0).grantR = none ∧ ∃ m, s.pickRow 0 (s.at 50) = some m ∧ m.cmd = Cmd.pre ∧ bankNo m.pr m.sid m.bg m.bank = bankNo 0 0 0 0)) := by decide +kernel

theorem test_witness_ColumnCommandsMoveData :
    (let s : State := sRd
     s.raceCmd 0 = true ∧ (List.find? (fun e => decide (e.qid = 3 ∧ (!e.wr) = true)) (s.waiting 0) = some entRd) ∧
     s.legal 0 (s.at 50) entRd.req = true ∧ s.colGranted 0 entRd.place.pr (s.at 50) (ColPick.ent 3) = true)
    ∧
    (let s : State := sWr
     s.raceCmd 0 = true ∧
     (List.find? (fun e => decide (e.qid = 3)) (s.race 0).wq = some { qid := 3, addr := 0, data := 9, psn := false, epoch := 0, cls := 2, since := 0 }) ∧
     s.legal 0 (s.at 50) (s.wrEnt { qid := 3, addr := 0, data := 9, psn := false, epoch := 0, cls := 2, since := 0 }).req = true ∧
     s.colGranted 0 (s.wrEnt { qid := 3, addr := 0, data := 9, psn := false, epoch := 0, cls := 2, since := 0 }).place.pr (s.at 50) (ColPick.ent 3) = true) := by decide +kernel

theorem test_witness_ColumnCommandsMoveData_2 :
    (let s : State := sFill
     s.raceCmd 0 = true ∧ (s.race 0).fill = some fill0 ∧ 0 < 2 ∧ fill0.done 0 < 512 ∧
     s.legal 0 (s.at 50) (s.fillReq fill0 0 (fill0.done 0 / 16) Cmd.wr) = true ∧ s.colGranted 0 0 (s.at 50) ColPick.fill = true)
    ∧
    (let s : State := (prb 0)
     s.raceCmd 0 = true ∧ s.works 0 = true ∧ s.legal 0 (s.at 50) ((s.race 0).probeReq 0 (probeCmd ((s.race 0).tr.next 0))) = true ∧
     s.colGranted 0 0 (s.at 50) ColPick.probe = true ∧ ((s.race 0).probeReq 0 (probeCmd ((s.race 0).tr.next 0))).cmd = Cmd.rd) := by decide +kernel

theorem test_witness_ColumnCommandsMoveData_3 :
    (let s : State := (prb 2)
     s.raceCmd 0 = true ∧ s.works 0 = true ∧ s.legal 0 (s.at 50) ((s.race 0).probeReq 0 (probeCmd ((s.race 0).tr.next 0))) = true ∧
     s.colGranted 0 0 (s.at 50) ColPick.probe = true ∧ ((s.race 0).probeReq 0 (probeCmd ((s.race 0).tr.next 0))).cmd = Cmd.wr) := by decide +kernel

theorem test_witness_RefreshAndSelfRefresh :
    (let s : State := sAb
     s.raceCmd 0 = true ∧ s.legal 0 (s.at 50) { cmd := Cmd.refab, pr := 1 } = true ∧
     s.rowGranted 0 (s.at 50) { cmd := Cmd.refab, pr := 1 } = true)
    ∧
    (let s : State := sSre
     s.raceCmd 0 = true ∧ ((s.race 0).hand.find? 0).isSome = true ∧ s.legal 0 (s.at 50) { cmd := Cmd.sre } = true ∧
     s.rowGranted 0 (s.at 50) { cmd := Cmd.sre } = true) := by decide +kernel

theorem test_witness_RefreshAndSelfRefresh_2 :
    (let s : State := sSrx
     s.raceCmd 0 = true ∧ s.legal 0 (s.at 50) { cmd := Cmd.srx } = true ∧ s.rowGranted 0 (s.at 50) { cmd := Cmd.srx } = true)
    ∧
    (let s : State := sHand
     s.raceCmd 0 = true ∧ 0 < s.nsid ∧ (s.race 0).sref.get false 0 = false ∧ (s.race 0).hand.find? 0 = none ∧ s.handAsked 0 0 = true) := by decide +kernel

theorem test_witness_RefreshAndSelfRefresh_3 :
    (let s : State := sHt
     0 < 32 ∧ (s.race 0).banks.wf = true ∧ (s.race 0).inReset = true ∧ (s.race 0).mustRefab = [] ∧
     (∃ a ∈ (s.race 0).hand.vals, s.now ≥ a + 4 * 256))
    ∧
    (let s : State := sPb
     s.raceCmd 0 = true ∧ s.refRuns 0 = true ∧ s.refNow 0 0 (s.at 50) (s.waiting 0) = some (planPb.req 0) ∧ (planPb.req 0).cmd = Cmd.refpb ∧
     (planPb.req 0).sid = 0 ∧ s.rowGranted 0 (s.at 50) (planPb.req 0) = true ∧ 0 < 2 ∧
     (List.find? (fun e => decide (e.2.slot = 26 ∧ s.refAt 0 0 e.1 26 < (s.clk.age + 1) * 256)) (s.dueSlots 0 0) = some (s.clk.age, { slot := 26, rfm := false, sid := 0, bank := 9, urgent := false })) ∧
     s.now ≤ s.refAt 0 0 s.clk.age 26 ∧ s.refNow 0 0 (s.refAt 0 0 s.clk.age 26) (s.waiting 0) = some (planPb.req 0) ∧
     s.rowGranted 0 (s.refAt 0 0 s.clk.age 26) (planPb.req 0) = true) := by decide +kernel

theorem test_witness_RefreshAndSelfRefresh_4 :
    (let s : State := sRfm
     s.raceCmd 0 = true ∧ s.refRuns 0 = true ∧ s.refNow 0 0 (s.at 50) (s.waiting 0) = some { cmd := Cmd.rfm, bg := 1, bank := 1 } ∧
     s.rowGranted 0 (s.at 50) { cmd := Cmd.rfm, bg := 1, bank := 1 } = true)
    ∧
    (let s : State := sLate
     s.raceCmd 0 = true ∧ s.refRuns 0 = true ∧ 0 < 2 ∧
     (List.find? (fun e => decide (e.2.slot = 10 ∧ s.refAt 0 0 e.1 10 < (s.clk.age + 1) * 256)) (s.dueSlots 0 0) = some (s.clk.age, { slot := 10, rfm := true, sid := 0, bank := 9, urgent := false })) ∧
     s.refAt 0 0 s.clk.age 10 < s.now) := by decide +kernel

theorem test_witness_RefreshAndSelfRefresh_5 :
    (let s : State := sRev
     s.raceCmd 0 = true ∧ s.refRuns 0 = true ∧ s.revocation 0 0 (s.at 50) = some ((s.at 50 + (s.tim 0).cmd + 1) / 2) ∧ 0 < 2) := by decide +kernel
end Sys2Proof.Tests.Races

/-! ## Witnesses: ports, bursts, fills and isolation -/
namespace Sys2Proof.Tests.Quern
def gr (n : RowReq) (x : Race) : State := r0 { x with grantR := [(n, T50)] }
def pdOn (s : State) : State := s.fset Fld.RACE_CTRL_PD_EN 1
def quiet (s : State) : State := (List.range 8).foldl (fun s j => s.setRaw .RACE_SLOT_ACT (Reg.key2 .RACE_SLOT_ACT 0 j 0) 0) s
def sPde : State := quiet (pdOn (gr { cmd := .pde } { raceUp with idleSince := some 0 }))
def sPdx : State := (gr { cmd := .pdx } { raceUp with pd := some 0, hand := ({} : Tbl Nat).ins 0 1 }).fset Fld.SPIN_STAT_STATE 6
def sMrw0 : State := gr { cmd := .mrw } { raceUp with mrAt := some 1000000, planA := { claims := [(26, false)] } }
def sMrw : State := ({ sMrw0.fset Fld.RACE_MR_CMD_BUSY 1 with clk := up.clk } : State).setRaw .RACE_SLOT_ACT (Reg.key2 .RACE_SLOT_ACT 0 1 0) 0x90000000000
def sMrr : State := (r0 { raceUp with mrAt := some 999000, grantA := [(.mr, T50)] }).fset Fld.RACE_MR_CMD_RNW 1
def fl (k : RdKind) (t : Nat) : Flight := { pr := 0, at_ := t, mrr := false, qid := 3, kind := k, id := 7, k := 0, addr := 0 }
def fe : FauEnt := { qid := 3, id := 7, k := 0, addr := 0, amo := false, data := 9, mask := 1, cls := 2, since := 0, rdAt := some 5 }
def sProbe := r0 { raceUp with flights := [fl .probe T50] }
def sFauF := r0 { raceUp with flights := [fl .fau T50], fau := [fe] }
def sMiss := r0 { raceUp with flights := [fl .probe (T50 - 10)] }
def pe (amo : Bool) (m : BitVec 64) : PondEnt := { id := 7, k := 0, half := 0, race := 0, addr := 0, data := 9, mask := m, psn := false, vis := 1, amo := amo, stream := 3, cls := 2 }
def wr0 (s : State) : State := { s with dram := { s.dram with wmap := s.dram.wmap.ins 0 true } }
def sTake : State := { wr0 up with pond := [{ pe false 1 with masked := true }] }
def we : WqEnt := { qid := 2, addr := 0, data := 5, psn := false, epoch := 0, cls := 2, since := 0 }
def rq (opc : Nat) : Req := { m := 0, opc := opc, stream := 3, tag := 1, addr := 0, len := 0, arg := 0, cls := 2, grp := 0, landHalf := 0, home := 0, target := 0, race := 0, turn := 0, land := 0 }
def withReq (s : State) (q : Req) : State := { s with hop := { s.hop with reqs := s.hop.reqs.ins 7 q } }
def sExe : State := withReq { wr0 (r0 { raceUp with fau := [{ fe with rdAt := none }], wq := [we], nextQ := 5 }) with pond := [pe false 1] } { rq Opc.wrp with phase := .working }
def sExeA : State := withReq { wr0 (r0 { raceUp with fau := [{ fe with rdAt := none, amo := true }], wq := [we], nextQ := 5 }) with pond := [pe true 1] } { rq Opc.amo with phase := .working }
def noH (s : State) : State := { s with ld := { s.ld with gports := 0 } }
def sFo : State := { noH up with pond := [pe false 1] }
def sFo2 : State := { up with pond := [pe false 1], hstE := { up.hstE with granted := [0] } }
def sFo3 : State := { up with pond := [pe false 1] }
def sFg : State := { up with hstE := { up.hstE with asks := [0, 32], ceil := 100000000 } }
def sFc : State := r0 { raceUp with fill := some { v := 2, at_ := 0, doneA := 512, doneB := 512 }, fillQ := [3] }
def sFcl : State := { up with qrnE := { up.qrnE with clearing := true }, dram := { up.dram with wmap := (up.dram.wmap.ins 0 true).ins 17 true } }
def sSc : State := up.fset Fld.QRN_SCRUB_CFG_EN 1
def sSc2 : State := { sSc with qrnE := { sSc.qrnE with piece := [64] } }
def sSc3 : State := { wr0 sSc with qrnE := { sSc.qrnE with prio := [64] }, weir := { sSc.weir with bgLeft := 50 } }
def sSc4 : State := { wr0 sSc with qrnE := { sSc.qrnE with again := [(64, true)] }, weir := { sSc.weir with bgLeft := 50 } }
def sBu : State := { up with drs := { up.drs with burn := some (5, 77) } , clk := { up.clk with turn := 0 } }
def sI0 : State := { up with brk := { up.brk with isoDue := [0] } }
def iso (f : Race → Race) : State := (r0 (f { raceUp with run := false, isoAt := some 999000 })).fset Fld.DRS_ISOL_ISOL 1
def sI1 : State := wr0 { iso id with pond := [pe false 1] }
def gotW : FauIn := { code := 0, cell := 5, word := 0, fixed := [], dram := false }
def fillDone : Fill := { v := 2, at_ := 0, doneA := 512, doneB := 512 }

theorem test_witness_PortCommandsEnd :
    (let s : State := sPde
     s.regs.wf = true ∧ 0 < 32 ∧ s.raceCmd 0 = true ∧ s.pdeDue 0 (s.at 50) = true ∧ s.legal 0 (s.at 50) { cmd := Cmd.pde } = true ∧
     s.rowGranted 0 (s.at 50) { cmd := Cmd.pde } = true)
    ∧
    (let s : State := sPdx
     s.regs.wf = true ∧ 0 < 32 ∧ s.raceCmd 0 = true ∧ s.pdxDue 0 = true ∧ s.legal 0 (s.at 50) { cmd := Cmd.pdx } = true ∧
     s.rowGranted 0 (s.at 50) { cmd := Cmd.pdx } = true) := by decide +kernel

theorem test_witness_PortCommandsEnd_2 :
    (let s : State := sMrw
     s.regs.wf = true ∧ 0 < 32 ∧ s.raceCmd 0 = true ∧ s.mrWaits 0 = true ∧ s.legal 0 (s.at 50) (s.mrReq 0) = true ∧
     (s.mrReq 0).cmd = Cmd.mrw ∧ s.rowGranted 0 (s.at 50) (s.mrReq 0) = true)
    ∧
    (let s : State := sMrr
     s.regs.wf = true ∧ 0 < 32 ∧ s.raceCmd 0 = true ∧ s.mrWaits 0 = true ∧ s.legal 0 (s.at 50) (s.mrReq 0) = true ∧
     (s.mrReq 0).cmd = Cmd.mrr ∧ s.works 0 = true ∧ s.colGranted 0 (s.mrReq 0).pr (s.at 50) ColPick.mr = true ∧
     (s.race 0).mrAt = some 999000 ∧ s.clk.age ≥ 999000 + 64) := by decide +kernel

theorem test_witness_BurstsAndFarAtomics :
    (let s : State := sProbe
     s.regs.wf = true ∧ 0 < 32 ∧ (List.find? (fun f => f.due 0 (s.at 50)) (s.race 0).flights = some (fl RdKind.probe T50)) ∧
     (((s.race 0).flights.any fun f => f.due 0 s.now) = false))
    ∧
    (let s : State := sMiss
     s.regs.wf = true ∧ 0 < 32 ∧
     (List.find? (fun f => decide (f.pr = 0 ∧ f.at_ + 2 < s.at 50)) (s.race 0).flights = some (fl RdKind.probe (T50 - 10)))) := by decide +kernel

theorem test_witness_BurstsAndFarAtomics_2 :
    (let s : State := sTake
     s.raceCmd 0 = true ∧
     (List.find? (fun e => decide (e.id = 7 ∧ e.k = 0 ∧ (!e.tally) = true)) s.pond = some ({ pe false 1 with masked := true })) ∧
     s.fauCan 0 ({ pe false 1 with masked := true }) = true)
    ∧
    (let s : State := sExe
     s.raceCmd 0 = true ∧ (List.find? (fun f => decide (f.id = 7 ∧ f.k = 0)) (s.race 0).fau = some ({ fe with rdAt := none })) ∧
     s.fauIn 0 (s.at 50) ({ fe with rdAt := none }) = some gotW ∧ gotW.code = 0) := by decide +kernel

theorem test_witness_FillsZeroBlocks :
    (let s : State := sFo
     s.regs.wf = true ∧ s.dram.wf = true ∧ s.raceCmd 0 = true ∧ s.works 0 = true ∧ 0 < regionsOf s.ld ∧
     s.dram.wmap.get false (32 * 0 + 0) = false ∧ s.fget Fld.QRN_WMAP_CFG_EN 0 (raceHalf 0) = 1 ∧ 0 ∉ (s.race 0).fills ∧
     s.fillWanted (32 * 0 + 0) = true ∧ (hoistFitted s.ld = false ∨ 32 * 0 + 0 ∈ (s.hst (raceHalf 0)).granted) ∧
     (s.race 0).fills.length < 4 ∧ ((s.race 0).fill.isSome = true ∨ 2 ≤ (s.race 0).wqRoom))
    ∧
    (let s : State := sFo3
     s.regs.wf = true ∧ s.dram.wf = true ∧ s.raceCmd 0 = true ∧ s.works 0 = true ∧ 0 < regionsOf s.ld ∧
     s.dram.wmap.get false (32 * 0 + 0) = false ∧ s.fget Fld.QRN_WMAP_CFG_EN 0 (raceHalf 0) = 1 ∧ 0 ∉ (s.race 0).fills ∧
     s.fillWanted (32 * 0 + 0) = true ∧ hoistFitted s.ld = true ∧ 32 * 0 + 0 ∉ (s.hst (raceHalf 0)).granted ∧
     32 * 0 + 0 ∉ (s.hst (raceHalf 0)).asks) := by decide +kernel

theorem test_witness_FillsZeroBlocks_2 :
    (let s : State := sFg
     s.regs.wf = true ∧ s.dram.wf = true ∧ hoistFitted s.ld = true ∧ 0 < 32 ∧ (s.hst (raceHalf 0)).asks.head? = some (32 * 0 + 0) ∧
     (s.brk.safe = false ∨ s.gov.drain = true) ∧ s.grantOk (raceHalf 0) = true)
    ∧
    (let s : State := sFc
     s.regs.wf = true ∧ s.dram.wf = true ∧ s.raceCmd 0 = true ∧ (s.race 0).fill = some fillDone ∧ fillDone.doneA ≥ 512 ∧
     fillDone.doneB ≥ 512) := by decide +kernel

theorem test_witness_FillsZeroBlocks_3 :
    (let s : State := sFcl
     s.regs.wf = true ∧ s.dram.wf = true ∧ 0 < 2 ∧ (s.qrn 0).clearing = true) := by decide +kernel

theorem test_witness_ScrubAndBurnsEnd :
    (let s : State := sSc
     s.regs.wf = true ∧ 0 < 2 ∧ s.scrubOn 0 = true ∧
     ((s.qrn 0).lastPiece + s.fget Fld.QRN_SCRUB_CFG_INTERVAL ≤ s.clk.age ∨ (s.qrn 0).waits = true) ∧ (s.qrn 0).piece = [] ∧
     (s.qrn 0).prio = [] ∧ (s.qrn 0).again = [])
    ∧
    (let s : State := sSc2
     s.regs.wf = true ∧ 0 < 2 ∧ s.scrubOn 0 = true ∧ (s.qrn 0).lastPiece + s.fget Fld.QRN_SCRUB_CFG_INTERVAL ≤ s.clk.age ∧
     (s.qrn 0).waits = false ∧ (s.qrn 0).piece ≠ [] ∧ (s.qrn 0).unread = []) := by decide +kernel

theorem test_witness_ScrubAndBurnsEnd_2 :
    (let s : State := sSc3
     s.regs.wf = true ∧ 0 < 2 ∧ s.scrubOn 0 = true ∧ (s.qrn 0).again = [] ∧ (s.qrn 0).prio = [64] ∧ s.isWritten 64 = true ∧
     s.raceOff (s.raceAt 64) = false ∧ (s.race (s.raceAt 64)).wqAt 64 = none ∧ (s.race (s.raceAt 64)).inFau 64 = false ∧
     (s.race (s.raceAt 64)).rqFits 3 1 = true ∧ s.bgRoom 3 ≠ 0)
    ∧
    (let s : State := sSc4
     s.regs.wf = true ∧ 0 < 2 ∧ s.scrubOn 0 = true ∧ (s.qrn 0).again = [(64, true)] ∧
     (s.race (s.raceAt (64, true).1)).wqAt (64, true).1 = none ∧ (s.race (s.raceAt (64, true).1)).inFau (64, true).1 = false ∧
     (s.race (s.raceAt (64, true).1)).rqFits 3 1 = true ∧ s.bgRoom 3 ≠ 0) := by decide +kernel

theorem test_witness_ScrubAndBurnsEnd_3 :
    (let s : State := sBu
     s.regs.wf = true ∧ 0 < 2 ∧ s.clk.turn % (s.fget Fld.QRN_ERR_CFG_WINDOW * 65536) = 0 ∧ (s.qrn 0).winAt ≠ some s.clk.age ∧
     s.drs.burn = some (5, 77)) := by decide +kernel

theorem test_witness_IsolationGoesInSteps :
    (let s : State := sI0
     s.regs.wf = true ∧ s.dram.wmap.wf = true ∧ 0 < 32 ∧ 0 ∈ s.brk.isoDue ∧ s.isolated 0 = false)
    ∧
    (let s : State := sI1
     s.regs.wf = true ∧ s.dram.wmap.wf = true ∧ 0 < 32 ∧ s.isoReached 0 1 = true ∧ (s.race 0).isoOff = false ∧ s.isoReached 0 2 = true ∧
     (s.race 0).isoReads = false ∧ (s.isoAge 0).isSome = true ∧ (s.race 0).isoDrop = false ∧ s.isoReached 0 64 = true ∧
     (s.race 0).isoDone = false) := by decide +kernel
end Sys2Proof.Tests.Quern

/-! ## Witnesses: training and Hoist -/
namespace Sys2Proof.Tests.Hoist
def sTq : State := { up with boot := { up.boot with trainQ := [1, 0] } }
def sTr : State := (r0 { raceUp with tr := { trainAt := some 5 } }).fset Fld.SPIN_STAT_STATE 1
def sPr : State := r0 { raceUp with tr := { await := [0, 1, 3] } }
def sCa : State := r0 { raceUp with tr := { pendC := ({} : Tbl Nat).ins 5 33, pendT := ({} : Tbl Nat).ins 0 999999 } }
def sRq : State := { up with fanE := { queue := [1, 0] } }
def sRr : State := { up with fanE := { queue := [0], running := some 1 } }
def sRp : State := sRr.setRace 1 { raceUp with tr := { repaired := true } }
def sRa : State := { sRr with gov := { up.gov with alert := true } }
def sRes : State := (up.fset Fld.SPIN_STAT_STATE 4 1).setRace 1 { raceUp with tr := { nextA := 24, nextB := 24, hold := true } }
def sRes2 : State := sRes.setRace 1 { (sRes.race 1) with tr := { (sRes.race 1).tr with checkFail := true } }
def sRes3 : State := { sRes2 with fanE := { running := some 0 } }
def hs (f : Hst → Hst) : State := { up with hstE := f { up.hstE with drives := ⟨(List.range 4).map (fun i => (i, { up := true, wr := 5, rd := 5 }))⟩, ceil := 100000000, headerOpen := true, st := .steady } }
def sWb : State := hs (fun x => { x with dirty := ({} : Tbl Bool).ins 0 true, oldest := ({} : Tbl Nat).ins 0 0 })
def sWr : State := hs (fun x => { x with exposed := ({} : Tbl Nat).ins 0 64 })
def cmd0 : DrvCmd := { cid := 1, port := 0, kind := 0, v := 0, since := 0 }
def sDc : State := hs (fun x => { x with cmds := [cmd0], inflight := [] })
def sDc2 : State := hs (fun x => { x with cmds := [{ cmd0 with kind := 1 }] })
def sDt : State := hs (fun x => { x with cmds := [cmd0], drives := x.drives.ins 0 { up := true, ctrlReset := some 999999 } })
def sDt2 : State := { sDt with clk := { sDt.clk with age := 1000000000 } }
def sDt3 : State := { sDt2 with hstE := { sDt2.hstE with drives := sDt2.hstE.drives.ins 0 { up := true, ctrlReset := some 999999999 } } }
def sDt4 : State := { sDt2 with hstE := { sDt2.hstE with drives := sDt2.hstE.drives.ins 0 { up := true } } }
def sDt5 : State := { hs (fun x => { x with cmds := [{ cmd0 with kind := 4 }] }) with clk := { up.clk with age := 1000000000 } }
def sDw : State := hs (fun x => { x with drives := x.drives.ins 0 { up := true, wrBusy := some 0, wr16 := [9], rd16 := [7] } })
def sDw2 : State := hs (fun x => { x with drives := x.drives.ins 0 { up := true, rdBusy := some 0, wr16 := [9], rd16 := [7] } })
def sHp : State := hs (fun x => { x with ceil := 0, zeroSince := some 0 })
def sEa : State := hs (fun x => { x with epoch := 9, oldest := ({} : Tbl Nat).ins 0 3 })
def sEb : State := hs (fun x => { x with epoch := 9, oldest := ({} : Tbl Nat).ins 0 4, resync := true })
def sEc : State := hs (fun x => { x with resync := true, scan := [0] })
def sSe : State := hs (fun x => { x with st := .drain })
def sDf : State := hs (fun x => { x with st := .serve, chunks := ({} : Tbl Chunk).ins 0 .pending, held := [0] })
def sCr : State := hs (fun x => { x with st := .serve, chunks := ({} : Tbl Chunk).ins 0 .loading, jobs := ({} : Tbl HRestore).ins 0 { good := true, left := [], demand := false } })
def sAt : State := { up with hstE := { up.hstE with st := .attach } , clk := { up.clk with age := 100000000 } }
def sLo : State := ({ up with hstE := { up.hstE with st := .attach, judged := true } } : State).fset Fld.MIL_BOOT_GO 1
def sLo2 : State := ({ up with hstE := { up.hstE with st := .attach, judged := true, keptImage := true } } : State).fset Fld.MIL_BOOT_GO 1

theorem test_witness_TrainingRuns :
    (let s : State := sTq
     s.regs.wf = true ∧ 1 < 32 ∧ s.raceRuns 1 = true ∧
     ((List.filter (fun r => decide (raceHalf r = raceHalf 1)) s.boot.trainQ).head? = some 1) ∧
     (s.training (raceHalf 1)).length < s.fget Fld.FAN_CFG_PAR 0 (raceHalf 1) ∧ (s.ld.trainWait = true → s.fheld Fld.MIL_BOOT_GO = 1))
    ∧
    (let s : State := sTr
     s.regs.wf = true ∧ 0 < 32 ∧ s.raceRuns 0 = true ∧ (s.race 0).tr.trainAt.isSome = true) := by decide +kernel

theorem test_witness_TrainingRuns_2 :
    (let s : State := sPr
     s.regs.wf = true ∧ 0 < 32 ∧ (0 * 4 + 0) * 2 + 1 ∈ (s.race 0).tr.await ∧ s.fheld Fld.SPIN_STAT_STATE = 2 ∧ s.isolated 0 = false ∧
     (s.race 0).tr.roundDone = false ∧ (s.race 0).tr.lagged = false ∧
     s.clk.age > (s.race 0).tr.roundAt + 2 * s.fget Fld.FAN_CFG_ROUND 0 (raceHalf 0))
    ∧
    (let s : State := sCa
     s.regs.wf = true ∧ 0 < 32 ∧
     (((s.race 0).hist.all fun c => !(c.cmd.isCol && decide (c.pr = 0) && decide (c.sid = 0) && decide (c.ds ≤ s.now) && decide (s.now < c.ds + tBURST))) = true) ∧
     (s.race 0).tr.pendT.find? (0 * 4 + 0) = some 999999 ∧ s.clk.age > 999999) := by decide +kernel

theorem test_witness_RetrainingRuns :
    (let s : State := sRq
     s.regs.wf = true ∧ 0 < 2 ∧ 1 < 32 ∧ raceHalf 1 = 0 ∧ (List.find? (fun r => s.canRetrain r) (s.fan 0).queue = some 1) ∧
     (s.fan 0).running = none ∧ s.brk.safe = false ∧ s.gov.alert = false)
    ∧
    (let s : State := sRr
     s.regs.wf = true ∧ 0 < 2 ∧ 1 < 32 ∧ raceHalf 1 = 0 ∧ (s.fan 0).running = some 1 ∧ s.brk.safe = false ∧ s.raceRuns 1 = true) := by decide +kernel

theorem test_witness_RetrainingRuns_2 :
    (let s : State := sRa
     s.regs.wf = true ∧ 0 < 2 ∧ 1 < 32 ∧ raceHalf 1 = 0 ∧ (s.fan 0).running = some 1 ∧ s.gov.alert = true)
    ∧
    (let s : State := sRes
     s.regs.wf = true ∧ 0 < 2 ∧ 1 < 32 ∧ raceHalf 1 = 0 ∧ s.fheld Fld.SPIN_STAT_STATE 1 = 4 ∧ s.raceRuns 1 = true ∧ s.roundOver 1 = true ∧
     1 ∉ (s.fan 0).queue ∧ (s.race 1).tr.checkFail = false) := by decide +kernel

theorem test_witness_RetrainingRuns_3 :
    (let s : State := sRes2
     s.regs.wf = true ∧ 0 < 2 ∧ 1 < 32 ∧ raceHalf 1 = 0 ∧ s.fheld Fld.SPIN_STAT_STATE 1 = 4 ∧ s.raceRuns 1 = true ∧ s.roundOver 1 = true ∧
     1 ∉ (s.fan 0).queue ∧ (s.race 1).tr.checkFail = true ∧ (s.fan 0).running ≠ some 1) := by decide +kernel

theorem test_witness_DriveCommandsRun :
    (let s : State := sWb
     0 < 2 ∧ 0 < 8 ∧ hoistFitted s.ld = true ∧ s.nextChunk 0 = some (0, false) ∧ s.writesBehind 0 = true ∧ s.mayStage 0 0 = true ∧
     (s.hst 0).stage = [] ∧ (s.hst 0).dirty.wf = true ∧ (s.hst (0 / 4)).live (0 % 4) = true ∧ s.clk.turn % 65536 = 0 ∧
     ((s.hst (0 / 4)).drive (0 % 4)).winAt ≠ some s.clk.age)
    ∧
    (let s : State := sDc
     0 < 2 ∧ 0 < 8 ∧ hoistFitted s.ld = true ∧ (s.hst (0 / 4)).cmdAt 0 1 = some cmd0 ∧ (s.hst (0 / 4)).live (0 % 4) = true ∧
     s.clk.age ≥ cmd0.since + s.timeoutOf cmd0 ∧ (s.hst (0 / 4)).st ≠ HState.drain ∧
     (¬∃ a, ((s.hst (0 / 4)).drive (0 % 4)).ctrlReset = some a ∧ s.clk.age < a + msTurns 1000)) := by decide +kernel

theorem test_witness_DriveCommandsRun_2 :
    (let s : State := sDt3
     0 < 2 ∧ 0 < 8 ∧ hoistFitted s.ld = true ∧ (s.hst (0 / 4)).cmdAt 0 1 = some cmd0 ∧ s.clk.age ≥ cmd0.since + s.timeoutOf cmd0 ∧
     ((s.hst (0 / 4)).st = HState.drain ∨ ∃ a, ((s.hst (0 / 4)).drive (0 % 4)).ctrlReset = some a ∧ s.clk.age < a + msTurns 1000) ∧
     ((s.hst (0 / 4)).drive (0 % 4)).lost = false) := by decide +kernel

theorem test_witness_HoistTakesForce :
    (let s : State := sHp
     0 < 2 ∧ hoistFitted s.ld = true ∧ (s.hst 0).pressRaised = false ∧ (s.hst 0).noHeadroom = true ∧ (s.hst 0).zeroSince = some 0 ∧
     s.clk.age ≥ 0 + 65536 ∧ s.hoistOn 0 = true ∧ (s.hst 0).advAt ≠ some s.clk.age ∧
     (s.clk.turn % 65536 = 0 ∨ (s.hst 0).advanceHeld = true) ∧ (∀ e ∈ (s.hst 0).openEpochs, (s.hst 0).epoch < e + 6) ∧
     (s.hst 0).resync = false)
    ∧
    (let s : State := sEa
     0 < 2 ∧ hoistFitted s.ld = true ∧ s.hoistOn 0 = true ∧ (s.hst 0).advAt ≠ some s.clk.age ∧
     (s.clk.turn % 65536 = 0 ∨ (s.hst 0).advanceHeld = true) ∧ (∃ e ∈ (s.hst 0).openEpochs, e + 6 ≤ (s.hst 0).epoch)) := by decide +kernel

theorem test_witness_HoistTakesForce_2 :
    (let s : State := sEb
     0 < 2 ∧ hoistFitted s.ld = true ∧ (s.hst 0).resync = true ∧ (s.brk.safe = false ∨ s.gov.drain = true) ∧ (s.hst 0).scan = [] ∧
     (List.filter (fun a => s.halfLive a) (s.hst 0).scanning = []))
    ∧
    (let s : State := sEc
     0 < 2 ∧ hoistFitted s.ld = true ∧ (s.hst 0).resync = true ∧ (s.brk.safe = false ∨ s.gov.drain = true) ∧ (s.hst 0).scan ≠ []) := by decide +kernel

theorem test_witness_HoistTakesForce_3 :
    (let s : State := sSe
     0 < 2 ∧ hoistFitted s.ld = true ∧ s.copied 0 = true ∧
     ((s.hst 0).st = HState.drain ∨ (s.hst 0).st = HState.flush ∧ (s.hst 0).sealing = true ∧ (s.hst 0).sNow = 0))
    ∧
    (let s : State := sDf
     0 < 2 ∧ hoistFitted s.ld = true ∧ (s.hst 0).chunks.find? 0 = some Chunk.pending ∧ (s.hst 0).headerOpen = true ∧
     ((s.hst 0).st = HState.serve ∨ (s.hst 0).st = HState.alert ∨ (s.hst 0).st = HState.drain ∧ 0 ∈ (s.hst 0).held) ∧
     s.chunkWanted 0 0 = true ∧ s.mayRead 0 0 2 = true ∧ (s.brk.safe = false ∨ s.gov.drain = true)) := by decide +kernel

theorem test_witness_HoistTakesForce_4 :
    (let s : State := sCr
     0 < 2 ∧ hoistFitted s.ld = true ∧ (s.hst 0).chunks.find? 0 = some Chunk.loading ∧ (s.hst 0).readsOf 0 = [] ∧
     (if s.gov.drain = true then decide (0 ∈ (s.hst 0).held) else !s.brk.safe) = true)
    ∧
    (let s : State := sAt
     0 < 2 ∧ hoistFitted s.ld = true ∧ s.domainOn (64 + 0) = true ∧ s.gov.ps = PState.run ∧ s.gov.pads = false ∧
     ((s.hst 0).st = HState.attach ∨ ((s.hst 0).st = HState.serve ∨ (s.hst 0).st = HState.steady) ∧ (s.hst 0).headerOpen = false) ∧ 0 < 8 ∧
     portFitted s.ld 0 = true ∧ s.domainOn (64 + 0 / 4) = true ∧ ((s.hst (0 / 4)).drive (0 % 4)).up = false ∧
     ((s.hst (0 / 4)).drive (0 % 4)).lost = false ∧ ((s.hst (0 / 4)).drive (0 % 4)).unfit = false ∧
     ((s.hst (0 / 4)).st = HState.attach ∨ ((s.hst (0 / 4)).st = HState.serve ∨ (s.hst (0 / 4)).st = HState.steady) ∧ (s.hst (0 / 4)).headerOpen = false) ∧
     s.clk.age ≥ (s.hst (0 / 4)).attachAt + msTurns 1000) := by decide +kernel

theorem test_witness_HoistTakesForce_5 :
    (let s : State := sLo
     0 < 2 ∧ hoistFitted s.ld = true ∧ (s.hst 0).st = HState.attach ∧ (s.hst 0).judged = true ∧ s.fheld Fld.MIL_BOOT_GO = 1 ∧
     s.gov.drain = false) := by decide +kernel
end Sys2Proof.Tests.Hoist

/-! ## Witnesses: Tally, Brake, Layshaft, Sluices, flits and modules -/
namespace Sys2Proof.Tests.Fabric
def hup : State := { up with weir := { up.weir with bgLeft := 100 },  hstE := { up.hstE with sNow := 5 }, hstW := { up.hstW with sNow := 5 } }
def sTd : State := { hup with tlyE := { up.tlyE with stage := 2 } }
def sTd1 : State := hup.fset Fld.TLY_CFG_RING_EN 1
def sTd3 : State := { hup with tlyW := { up.tlyW with stage := 3 } }
def sBw : State := { up with tlyE := { up.tlyE with bwModR := ({} : Tbl Nat).ins 2 400, bwGrpW := ({} : Tbl Nat).ins 5 9, bwPart := false } }
def sSa : State := { up with tlyE := { up.tlyE with sampReq := some 7, sampLand := T50 - 10, bwPart := true } }
def sLat : State := ({ up with tlyE := { up.tlyE with latch := some (({} : Tbl Nat).ins 3 4, ({} : Tbl Nat).ins 2 9), stage := 2 } } : State).fset Fld.TLY_CFG_RING_EN 1
def sIso : State := { (sTd.fset Fld.DRS_ISOL_ISOL 0xFFFFFFFF) with races := {} }
def sBwL : State := { up with tlyE := { up.tlyE with bwLatch := some [({} : Tbl Nat).ins 2 400, {}, {}, ({} : Tbl Nat).ins 5 9] } }
def sEq : State := { up with brk := { up.brk with equal := ({} : Tbl Bool).ins (pairKey 41 0) true } }
def sLk : State := { up with lay := { up.lay with fails := ({} : Tbl Nat).ins 3 2 } }
def sLk1 : State := { up with lay := { up.lay with fails := ({} : Tbl Nat).ins 3 2, liveEW := 8, splitPend := true }, hop := { up.hop with resv := ({} : Tbl Resv).ins 3 ⟨256, 128, [2]⟩ } }
def sRj : State := { up with lay := { up.lay with split := true, retrained := true } }
def rq (opc : Nat) : Req := { m := 0, opc := opc, stream := 3, tag := 1, addr := 0, len := 0, arg := 0, cls := 2, grp := 0, landHalf := 0, home := 0, target := 0, race := 0, turn := 0, land := 0 }
def withReq (s : State) (q : Req) : State := { s with hop := { s.hop with reqs := s.hop.reqs.ins 7 q } }
def hd0 : RqEnt := { qid := 3, kind := .host, id := 7, k := 0, addr := 0, cls := 2, since := 0 }
def wdS (x : RqEnt) (o : Nat) (f : Tbl Nat) : State :=
  let s : State := (withReq up (rq o)).fset Fld.LAY_STALL_CFG_EN 1
  { s.setRace 0 { raceUp with rq := [x], nextQ := 4 } with lay := { s.lay with heads := ({} : Tbl (Nat × Nat)).ins 0 (3, 5), fired := f } }
def sWd : State := wdS hd0 Opc.rd {}
def sWd2 : State := wdS hd0 Opc.rd (({} : Tbl Nat).ins 0 999999)
def sWd3 : State := wdS { hd0 with kind := .scrub } Opc.rd {}
def sWd4 : State := let s := wdS hd0 Opc.rd {}; s.setRace 0 { raceUp with wq := [{ qid := 3, addr := 0, data := 0xFFFF, psn := false, epoch := 0, cls := 2, since := 0, stores := [(7, 3)] }], nextQ := 4 }
def of1 : Offer := { port := 1, key := 5, cls := 1, ch := .req, since := 3, cells := 2, stream := 3 }
def of2 : Offer := { port := 2, key := 6, cls := 2, ch := .rsp, since := 4, cells := 4, stream := 4 }
def nullF : Flit := flBuild [] [] 0 0 0 0 false true false []
def badF : Flit := nullF ^^^ 1
def oosF : Flit := flBuild [] [] 0 5 0 0 false false false []
def dataF : Flit := flBuild [] [3] 1 0 0x3FF 0 false false false []
def hdrF : Flit := flBuild [1] [] 0 0 0x3FF 0 false false false []
def md (x : ModSt) : State := { up with mods := up.mods.ins 2 x }
def sOpen := md { st := .open_, stAt := 999000 }
def sRep := md { st := .active, replay := [(4, dataF)], resend := [(4, dataF)], ftime := 300, attempts := 2 }
def sAct := md { st := .active, tx := [{ hdr := 5, cells := [7], c0 := false, since := 3, id := 9 }], verdQ := [(3, [1, 2, 3])] }
def sTn := md { st := .train, stAt := 999999 }
def sTn1 := md { st := .train, stAt := 0 }
def sTn2 := md { st := .train, attempts := 2 }
def sOpL := md { st := .open_, stAt := 0 }
def sRc : State := (md { st := .recal, stAt := 999999 }).fset Fld.HEAD_MOD_CTRL_RECAL 1 2
def sRcL : State := md { st := .recal, stAt := 0 }
def sOff := up.fset Fld.HEAD_MOD_CTRL_EN 0 2
def fw : Path := .fw 0
def sDn := md { st := .down }

theorem test_witness_TallyRecordsAndWindows :
    (let s : State := up
     s.regs.wf = true ∧ 0 < 2 ∧ s.mainsOn = true ∧ s.clk.turn % 65536 = 0)
    ∧
    (let s : State := sTd
     s.regs.wf = true ∧ 0 < 2 ∧ s.mainsOn = true ∧ ((s.tly 0).stage ∈ [1, 2, 3]) ∧ s.brk.safe = false ∧ s.storesShut 0 = false ∧
     (∀ c ∈ List.drop (s.tly 0).put ((s.tly 0).stageCells 0), s.raceOff (s.raceAt c.1) = false ∧ (s.splitNow = true → raceHalf (s.raceAt c.1) = 0)) ∧
     (∀ c ∈ List.drop (s.tly 0).put ((s.tly 0).stageCells 0), ∀ e ∈ s.pond, e.amo = true → e.vis ≠ 0 → e.addr ≠ c.1) ∧
     (∀ c ∈ List.drop (s.tly 0).put ((s.tly 0).stageCells 0), ∀ e ∈ s.flume, e.blk = c.1 / 256 → e.mask.find? (c.1 / 64 % 4) = none) ∧
     (List.drop (s.tly 0).put ((s.tly 0).stageCells 0)).length ≤ s.bgRoom 3 ∧
     s.pond.length + (List.drop (s.tly 0).put ((s.tly 0).stageCells 0)).length ≤ 8192 - 32) := by decide +kernel

theorem test_witness_TallyRecordsAndWindows_2 :
    (let s : State := sBw
     s.regs.wf = true ∧ 0 < 2 ∧ s.domainOn (70 + 0) = true ∧ 1 < bankSize 0)
    ∧
    (let s : State := sSa
     s.regs.wf = true ∧ 0 < 2 ∧ s.mainsOn = true ∧ (s.tly 0).sampReq = some 7 ∧ s.sampDone 7 = true) := by decide +kernel

theorem test_witness_TallyRecordsAndWindows_3 :
    (let s : State := sIso
     s.regs.wf = true ∧ 0 < 2 ∧ s.mainsOn = true ∧ ((s.tly 0).stage ∈ [1, 2, 3]) ∧ s.brk.safe = false ∧ s.storesShut 0 = false ∧
     (∃ c ∈ List.drop (s.tly 0).put ((s.tly 0).stageCells 0), s.raceOff (s.raceAt c.1) = true))
    ∧
    (let s : State := sBwL
     s.regs.wf = true ∧ 0 < 2 ∧ s.mainsOn = true ∧ (s.tly 0).bwLatch = some [({} : Tbl Nat).ins 2 400, {}, {}, ({} : Tbl Nat).ins 5 9]) := by decide +kernel

theorem test_witness_PairsRaiseAndBreak :
    (let s : State := up
     s.regs.wf = true ∧ s.pairLive 24 3 = true)
    ∧
    (let s : State := sEq
     s.regs.wf = true ∧ s.brk.equal.get false (pairKey 41 0) = true) := by decide +kernel

theorem test_witness_LinksAndWatchdogs :
    (let s : State := sLk
     s.regs.wf = true ∧ 0 < 2 ∧ 3 < 8 ∧ bit (s.lay.live 0) 3 = true)
    ∧
    (let s : State := sLk1
     s.regs.wf = true ∧ s.lay.split = false ∧ (s.lay.splitPend || decide (s.lay.liveEW = 0) || decide (s.lay.liveWE = 0)) = true) := by decide +kernel

theorem test_witness_LinksAndWatchdogs_2 :
    (let s : State := sRj
     s.regs.wf = true ∧ s.lay.split = true ∧ s.lay.retrained = true ∧ s.boot.readyW = true ∧ s.lay.liveEW ≠ 0 ∧ s.lay.liveWE ≠ 0)
    ∧
    (let s : State := sWd
     let w : WdHead := { tag := 3, since := 0, req := some 7, stream := 3 }
     s.regs.wf = true ∧ s.hop.reqs.wf = true ∧ 0 < 2 ∧ wdPoint 0 = true ∧ wdChan 0 0 = true ∧ s.fget Fld.LAY_STALL_CFG_EN = 1 ∧
     s.wdDue 0 0 0 = some w) := by decide +kernel

theorem test_witness_SluicesDecide :
    (let s : State := up
     (0 < 32 ∧ 1 < 2 ∧ s.raceRuns 0 = true) ∧ (∀ (r : ℕ), SluiceId.xp 0 1 2 ≠ SluiceId.row r) ∧
     (∀ (r p : ℕ), SluiceId.xp 0 1 2 ≠ SluiceId.col r p)) := ⟨by decide +kernel, (by intro r h; cases h), (by intro r p h; cases h)⟩

theorem test_witness_FlitsInSequence :
    (let s : State := up
     let f : Flit := badF
     s.regs.wf = true ∧ modFitted s.ld 2 = true ∧ s.modOn 2 = true ∧ (s.mod 2).takes s.clk.age = true ∧ flGood f = false)
    ∧
    (let s : State := up
     let f : Flit := nullF
     s.regs.wf = true ∧ modFitted s.ld 2 = true ∧ s.modOn 2 = true ∧ (s.mod 2).takes s.clk.age = true ∧ flGood f = true ∧ flNull f = true) := by decide +kernel

theorem test_witness_FlitsInSequence_2 :
    (let s : State := up
     let f : Flit := oosF
     s.regs.wf = true ∧ modFitted s.ld 2 = true ∧ s.modOn 2 = true ∧ (s.mod 2).takes s.clk.age = true ∧ flGood f = true ∧ flNull f = false ∧
     (flSeq f ≠ ((s.mod 2).ack + 1) % 1024 ∨ 64 ≤ (s.mod 2).verdQ.length))
    ∧
    (let s : State := up
     let f : Flit := dataF
     s.regs.wf = true ∧ modFitted s.ld 2 = true ∧ s.modOn 2 = true ∧ (s.mod 2).takes s.clk.age = true ∧ flGood f = true ∧ flNull f = false ∧
     flSeq f = ((s.mod 2).ack + 1) % 1024 ∧ (s.mod 2).verdQ.length < 64) := by decide +kernel

theorem test_witness_FlitsInSequence_3 :
    (let s : State := sOpen
     s.regs.wf = true ∧ modFitted s.ld 2 = true ∧ s.modOn 2 = true ∧ (s.mod 2).st = ModState.open_)
    ∧
    (let s : State := up
     s.regs.wf = true ∧ modFitted s.ld 2 = true ∧ s.modOn 2 = true ∧ (s.mod 2).st = ModState.active ∧ (s.mod 2).resend = [] ∧
     (s.mod 2).replay.length ≤ 64) := by decide +kernel

theorem test_witness_FlitsInSequence_4 :
    (let s : State := sRep
     s.regs.wf = true ∧ modFitted s.ld 2 = true ∧ s.modOn 2 = true ∧ (s.mod 2).st = ModState.active ∧ (s.mod 2).resend = [(4, dataF)]) := by decide +kernel

theorem test_witness_ModulesChangeState :
    (let s : State := sTn
     s.regs.wf = true ∧ modFitted s.ld 2 = true ∧ s.modOn 2 = true ∧ (s.mod 2).st = ModState.train ∧
     s.clk.age ≤ (s.mod 2).stAt + trainTurns ∧ 1 ≤ (s.mod 2).rateCap ∧ (s.mod 2).x32Cap = true)
    ∧
    (let s : State := sTn1
     s.regs.wf = true ∧ modFitted s.ld 2 = true ∧ s.modOn 2 = true ∧ (s.mod 2).st = ModState.train ∧
     s.clk.age ≥ (s.mod 2).stAt + trainTurns ∧ (s.mod 2).attempts + 1 < 3) := by decide +kernel

theorem test_witness_ModulesChangeState_2 :
    (let s : State := sTn2
     s.regs.wf = true ∧ modFitted s.ld 2 = true ∧ s.modOn 2 = true ∧ (s.mod 2).st = ModState.train ∧
     s.clk.age ≥ (s.mod 2).stAt + trainTurns ∧ 3 ≤ (s.mod 2).attempts + 1)
    ∧
    (let s : State := sOpL
     s.regs.wf = true ∧ modFitted s.ld 2 = true ∧ s.modOn 2 = true ∧ (s.mod 2).st = ModState.open_ ∧ s.clk.age ≥ (s.mod 2).stAt + openTurns) := by decide +kernel

theorem test_witness_ModulesChangeState_3 :
    (let s : State := sRc
     s.regs.wf = true ∧ modFitted s.ld 2 = true ∧ s.modOn 2 = true ∧ (s.mod 2).st = ModState.recal ∧ s.clk.age ≤ (s.mod 2).stAt + recalTurns)
    ∧
    (let s : State := sRcL
     s.regs.wf = true ∧ modFitted s.ld 2 = true ∧ s.modOn 2 = true ∧ (s.mod 2).st = ModState.recal ∧ s.clk.age ≥ (s.mod 2).stAt + recalTurns) := by decide +kernel

theorem test_witness_ModulesChangeState_4 :
    (let s : State := sRep
     s.regs.wf = true ∧ modFitted s.ld 2 = true ∧ s.modOn 2 = true ∧ (s.mod 2).st = ModState.active ∧ (s.mod 2).replay = [(4, dataF)] ∧
     (s.mod 2).sent.get 0 (4, dataF).1 + 256 ≤ (s.mod 2).ftime)
    ∧
    (let s : State := up
     let path : Path := fw
     s.regs.wf = true ∧ modFitted s.ld 2 = true ∧ s.fheld Fld.HEAD_MOD_CTRL_RESTART 2 = 0 ∧ s.fheld Fld.HEAD_MOD_CTRL_RECAL 2 = 0 ∧
     s.grantsField path Fld.HEAD_MOD_CTRL_EN 0 2 0 = true ∧ s.fheld Fld.HEAD_MOD_CTRL_EN 2 = 1 ∧
     s.grantsField path Fld.HEAD_MOD_CTRL_RESTART 1 2 0 = true ∧
     ((s.mod 2).st = ModState.open_ ∨ (s.mod 2).st = ModState.active ∨ (s.mod 2).st = ModState.recal) ∧
     s.grantsField path Fld.HEAD_MOD_CTRL_RECAL 1 2 0 = true ∧ (s.mod 2).st = ModState.active) := by decide +kernel

theorem test_witness_ModulesChangeState_5 :
    (let s : State := sOff
     let path : Path := fw
     s.regs.wf = true ∧ modFitted s.ld 2 = true ∧ s.fheld Fld.HEAD_MOD_CTRL_RESTART 2 = 0 ∧ s.fheld Fld.HEAD_MOD_CTRL_RECAL 2 = 0 ∧
     s.grantsField path Fld.HEAD_MOD_CTRL_EN 1 2 0 = true ∧ s.fheld Fld.HEAD_MOD_CTRL_EN 2 = 0 ∧ s.hostService = true ∧ s.tst.inmode = false)
    ∧
    (let s : State := sDn
     let path : Path := fw
     s.regs.wf = true ∧ modFitted s.ld 2 = true ∧ s.fheld Fld.HEAD_MOD_CTRL_RESTART 2 = 0 ∧ s.fheld Fld.HEAD_MOD_CTRL_RECAL 2 = 0 ∧
     s.grantsField path Fld.HEAD_MOD_CTRL_RESTART 1 2 0 = true ∧ s.fheld Fld.HEAD_MOD_CTRL_EN 2 = 1 ∧ (s.mod 2).st = ModState.down) := by decide +kernel
end Sys2Proof.Tests.Fabric

/-! ## Witnesses: requests and register accesses -/
namespace Sys2Proof.Tests.Hopper
def rq (opc : Nat) : Req := { m := 0, opc := opc, stream := 3, tag := 1, addr := 0, len := 0, arg := 0, cls := 2, grp := 0, landHalf := 0, home := 0, target := 0, race := 0, turn := 0, land := 0 }
def withReq (s : State) (q : Req) : State := { s with hop := { s.hop with reqs := s.hop.reqs.ins 7 q } }
def wr0 (s : State) : State := { s with dram := { s.dram with wmap := s.dram.wmap.ins 0 true } }
def pe (amo : Bool) (m : BitVec 64) : PondEnt := { id := 7, k := 0, half := 0, race := 0, addr := 0, data := 9, mask := m, psn := false, vis := 1, amo := amo, stream := 3, cls := 2 }
def sNop := withReq up (rq Opc.nop)
def qM : Req := { rq Opc.mgmt with addr := 0xD00008 }
def sMg := withReq up qM
def sRd := withReq (wr0 up) (rq Opc.rd)
def sRd0 := withReq up (rq Opc.rd)
def sRdp := { sRd with pond := [{ pe false fullMask with id := 5, vis := 0, data := 5 }] }
def sRdx := withReq (wr0 up) (rq Opc.rdx)
def sOffR : State := (withReq (wr0 up) (rq Opc.rdx)).fset Fld.DRS_ISOL_ISOL 1
def qW (o : Nat) : Req := { rq o with data := [9, 8] , len := 1, arg := 3 }
def fe : FlumeEnt := { fid := 2, half := 0, blk := 0, race := 0, stream := 3, last := 5, ids := [4] , mask := ({} : Tbl (BitVec 64)).ins 0 1, data := ({} : Tbl Cell).ins 0 6 }
def sWn2 : State := { withReq up (qW Opc.wrn) with flume := [fe, { fe with fid := 3, stream := 9 }] }
def qt (o t : Nat) : Req := { qW o with tok := t, phase := .working }
def resv : Tbl Resv := (({} : Tbl Resv).ins 3 ⟨0, 128, [0]⟩).ins 5 ⟨256, 128, [0]⟩
def sTa : State := { withReq up (qt Opc.wr 1) with pond := [{ pe false fullMask with vis := 0 }] , hop := { (withReq up (qt Opc.wr 1)).hop with resv := resv } }
def sTc : State := { withReq up (qt Opc.wrc 1) with pond := [{ pe false fullMask with vis := 0 }] }
def qd : Req := { rq Opc.wr with tok := 2, phase := .performed }
def sDr : State := { wr0 up with pond := [pe false fullMask] }
def rW : Race := { raceUp with wq := [{ qid := 1, addr := 0, data := 0xFFFF, psn := false, epoch := 0, cls := 2, since := 0 }], nextQ := 2 }
def sDm : State := { withReq (wr0 (r0 rW)) (rq Opc.wrp) with pond := [{ pe false 1 with masked := true }] }
def sFd : State := { wr0 up with flume := [{ fe with closed := true }] }
def sFi : State := { wr0 up with flume := [fe, { fe with fid := 3, last := 999999 }] }
def qb (o : Nat) : Req := rq o
def sB (o : Nat) : State := { withReq up (qb o) with flume := [fe, { fe with fid := 3, stream := 9 }] }
def qb2 (o : Nat) (p : Bool) : Req := { rq o with phase := .working, partE := p, partW := p }
def sBl : State := let s := withReq up (qb2 Opc.barS true); { s with hop := { s.hop with lostS := s.hop.lostS.ins 3 true } }
def fw : Path := .fw 0
def sPt : State := { inPs .idle with mil := { up.mil with ptr := 0xFFFFF0 } }
def dOff : State := { up with ld := { up.ld with hmods := 4 }, mil := { up.mil with ptr := (Reg.key .HEAD_MOD_CTRL 5 0) } }
def sLk : State := up.fset Fld.HOP_AMAP_CFG_LOCK 1
def aMap : Acs := match sLk.acs fw 0x100300 false false with | .ok a => a | _ => ⟨⟨.GOV_TURN, 0, [], 0, false⟩, 0⟩
def sTl : State := up.fset Fld.RACE_CTRL_TLOCK 1 1
def tKey : Nat := Reg.key .RACE_TIM1 1 0
def aTim : Acs := match sTl.acs fw tKey true false with | .ok a => a | _ => aMap

theorem test_witness_NopMgmtAndReads :
    (let s : State := sNop
     let q : Req := (rq Opc.nop)
     s.hop.reqs.wf = true ∧ s.hop.reqs.find? 7 = some q ∧ q.tok = 0 ∧ s.fresh 7 Opc.nop = true)
    ∧
    (let s : State := sMg
     let q : Req := qM
     s.hop.reqs.wf = true ∧ s.hop.reqs.find? 7 = some q ∧ q.tok = 0 ∧ s.fresh 7 Opc.mgmt = true ∧ s.mgBehind 7 q.stream = false ∧
     s.mainsOn = true ∧ q.answered = false) := by decide +kernel

theorem test_witness_NopMgmtAndReads_2 :
    (let s : State := sRd
     let q : Req := (rq Opc.rd)
     let c : Instr := (.rd 7 50)
     s.hop.reqs.wf = true ∧ s.hop.reqs.find? 7 = some q ∧ q.answered = false ∧ q.tok = 0 ∧ q.got = { } ∧ q.pmask = 0 ∧ q.sent = [] ∧
     (c = c ∧ s.fresh 7 Opc.rd = true ∨ c = Instr.rdx 7 50 ∧ s.fresh 7 Opc.rdx = true) ∧ s.raceOff q.race = false ∧
     s.chunkDone q.addr = true ∧ 1 ≤ q.nCells ∧
     (∀ k < q.nCells, ({ s with clk := s.clkAt 50 : State }.flumeClose fun e => decide (e.blk = q.addr / 256)).readSrc q.stream 7 (q.addr + 64 * k) = RdSrc.race) ∧
     (s.race q.race).rqFits q.cls q.nCells = true)
    ∧
    (let s : State := sRd0
     let q : Req := (rq Opc.rd)
     let c : Instr := (.rd 7 50)
     s.hop.reqs.wf = true ∧ s.hop.reqs.find? 7 = some q ∧ q.answered = false ∧ q.tok = 0 ∧ q.got = { } ∧ q.pmask = 0 ∧ q.sent = [] ∧
     (c = c ∧ s.fresh 7 Opc.rd = true ∨ c = Instr.rdx 7 50 ∧ s.fresh 7 Opc.rdx = true) ∧ s.raceOff q.race = false ∧
     s.chunkDone q.addr = true ∧ q.nCells = 1 ∧
     (({ s with clk := s.clkAt 50 : State }.flumeClose fun e => decide (e.blk = q.addr / 256)).readSrc q.stream 7 q.addr = RdSrc.value 0 false ∨ ({ s with clk := s.clkAt 50 : State }.flumeClose fun e => decide (e.blk = q.addr / 256)).readSrc q.stream 7 q.addr = RdSrc.zero ∧ 0 = 0)) := by decide +kernel

theorem test_witness_NopMgmtAndReads_3 :
    (let s : State := sOffR
     let q : Req := (rq Opc.rdx)
     let c : Instr := (.rdx 7 50)
     s.hop.reqs.wf = true ∧ s.hop.reqs.find? 7 = some q ∧ q.answered = false ∧ q.tok = 0 ∧ q.got = { } ∧ q.pmask = 0 ∧ q.sent = [] ∧
     (c = Instr.rd 7 50 ∧ s.fresh 7 Opc.rd = true ∨ c = c ∧ s.fresh 7 Opc.rdx = true) ∧ s.raceOff q.race = true) := by decide +kernel

theorem test_witness_StoresEnterTheBuffers :
    (let s : State := (withReq up (qW Opc.wr))
     let q : Req := (qW Opc.wr)
     let c : Instr := (.wr 7)
     s.hop.reqs.find? 7 = some q ∧
     (c = c ∧ s.freshBuf 7 Opc.wr = true ∨ c = Instr.wrp 7 ∧ s.freshBuf 7 Opc.wrp = true ∨ c = Instr.wrc 7 ∧ s.freshBuf 7 Opc.wrc = true ∨ c = Instr.amo 7 ∧ s.freshBuf 7 Opc.amo = true))
    ∧
    (let s : State := (withReq up (qW Opc.wrn))
     let q : Req := (qW Opc.wrn)
     s.hop.reqs.find? 7 = some q ∧ s.fresh 7 Opc.wrn = true ∧ s.blockAhead 7 q = false) := by decide +kernel

theorem test_witness_TokensOrderStores :
    (let s : State := (withReq up (qt Opc.wr 0))
     let q : Req := (qt Opc.wr 0)
     s.hop.reqs.wf = true ∧ s.hop.reqs.find? 7 = some q ∧ s.canRelease 7 q = true)
    ∧
    (let s : State := sTa
     let q : Req := (qt Opc.wr 1)
     s.hop.reqs.wf = true ∧ s.hop.reqs.find? 7 = some q ∧ s.canApply 7 q = true ∧ (q.opc = Opc.wr ∨ q.opc = Opc.wrp ∧ q.arg ≠ 0)) := by decide +kernel

theorem test_witness_TokensOrderStores_2 :
    (let s : State := (withReq up (qt Opc.wr 2))
     let q : Req := (qt Opc.wr 2)
     s.hop.reqs.wf = true ∧ s.hop.reqs.find? 7 = some q ∧ q.tok = 2) := by decide +kernel

theorem test_witness_TokensOrderStores_3 :
    (let s : State := sTc
     let q : Req := (qt Opc.wrc 1)
     (s.hop.reqs.wf = true ∧ s.hop.reqs.find? 7 = some q ∧ s.canApply 7 q = true ∧ q.opc = Opc.wrc ∧ q.answered = false) ∧
     (∀ (r : Resv), s.hop.resv.find? q.stream = some r → r.holds q.addr = false)) := ⟨by decide +kernel, (by intro r h; cases h)⟩

theorem test_witness_BuffersDrain :
    (let s : State := sDr
     (List.find? (fun e => decide (e.id = 7 ∧ e.k = 0 ∧ (!e.amo) = true)) s.pond = some (pe false fullMask)) ∧
     s.drainable (pe false fullMask) = true ∧ (pe false fullMask).masked = false ∧
     (((s.race (pe false fullMask).race).wqAt (pe false fullMask).addr).isSome = true ∨ 0 < (s.race (pe false fullMask).race).wqRoom))
    ∧
    (let s : State := sDm
     (List.find? (fun e => decide (e.id = 7 ∧ e.k = 0 ∧ (!e.amo) = true)) s.pond = some ({ pe false 1 with masked := true })) ∧
     s.drainable ({ pe false 1 with masked := true }) = true ∧ ({ pe false 1 with masked := true }).masked = true ∧
     (s.race ({ pe false 1 with masked := true }).race).wqAt ({ pe false 1 with masked := true }).addr = some { qid := 1, addr := 0, data := 65535, psn := false, epoch := 0, cls := 2, since := 0 }) := by decide +kernel

theorem test_witness_BuffersDrain_2 :
    (let s : State := sFd
     (List.find? (fun e => decide (e.fid = 2)) s.flume = some ({ fe with closed := true })) ∧
     s.flumeReady ({ fe with closed := true }) = true ∧ ({ fe with closed := true }).mask.wf = true) := by decide +kernel

theorem test_witness_BarriersRun :
    (let s : State := (sB Opc.barS)
     let q : Req := (qb Opc.barS)
     let c : Instr := (.barS 7)
     s.hop.reqs.wf = true ∧ s.hop.reqs.find? 7 = some q ∧
     (c = c ∧ s.fresh 7 Opc.barS = true ∨ c = Instr.barG 7 ∧ s.fresh 7 Opc.barG = true ∨ c = Instr.barD 7 ∧ s.fresh 7 Opc.barD = true))
    ∧
    (let s : State := (withReq up (qb2 Opc.barS false))
     let q : Req := (qb2 Opc.barS false)
     s.hop.reqs.wf = true ∧ s.hop.reqs.find? 7 = some q ∧ Opc.barrier q.opc = true ∧ q.phase = ReqPhase.working ∧ s.partClear 1 7 q = true) := by decide +kernel

theorem test_witness_BarriersRun_2 :
    (let s : State := sBl
     let q : Req := (qb2 Opc.barS true)
     s.hop.reqs.wf = true ∧ s.hop.reqs.find? 7 = some q ∧ Opc.barrier q.opc = true ∧ q.phase = ReqPhase.working ∧
     (q.partE = true ∧ q.partW = true ∨ s.barCut 7 q = true) ∧ q.answered = false ∧ q.tok = 0) := by decide +kernel

theorem test_witness_UnmappedAndOffAreRefused :
    (let s : State := up
     let path : Path := fw
     let off : BitVec 24 := 0x000003
     let val : Word := 5
     (s.regs.wf = true) ∧
     (∀ (m : ℕ), path = Path.mgmt m → s.fheld Fld.HEAD_MOD_CTRL_MGMT_EN m = 1 ∧ bit (s.fheld Fld.TLY_USER_MODS) m = false) ∧
     (findAcs off.toNat false = none ∧ 3 = St.badarg ∨ ∃ a, findAcs off.toNat false = some a ∧ s.domainOn (regDomain a.loc) = false ∧ 3 = St.offDomain) ∧
     (∀ (a : Acs), findAcs off.toNat false = some a → s.enables a.loc = true → have m := writtenBits a val; Fld.HEAD_MOD_CTRL_EN.of (limitWord a.loc.reg (mergeWord a.loc.reg (s.oldWord a.loc) m.2 m.1)) = 0)) := ⟨by decide +kernel, (by intro m h; cases h), Or.inl (by decide +kernel), fun a h _ => absurd (h.symm.trans (by decide +kernel) : some a = none) (Option.some_ne_none a)⟩

theorem test_witness_UnmappedAndOffAreRefused_2 :
    (let s : State := sPt
     let path : Path := (.mgmt 3)
     let off : BitVec 24 := 0xFFFFF0
     (s.regs.wf = true ∧ s.i3cUp = true ∧ s.mil.ptr = off.toNat ∧ (off.toNat % if false = true then 8 else 4) = 0) ∧
     (∀ (m : ℕ), path = Path.mgmt m → s.fheld Fld.HEAD_MOD_CTRL_MGMT_EN m = 1 ∧ bit (s.fheld Fld.TLY_USER_MODS) m = false) ∧
     (findAcs off.toNat false = none ∧ 3 = St.badarg ∨ ∃ a, findAcs off.toNat false = some a ∧ s.domainOn (regDomain a.loc) = false ∧ 3 = St.offDomain)) := ⟨by decide +kernel, (by intro m h; cases h; decide +kernel), Or.inl (by decide +kernel)⟩

theorem test_witness_LockedFieldsHold :
    (let s : State := sLk
     let path : Path := fw
     let off : BitVec 24 := 0x100300
     let val : Word := 0x1E
     let a : Acs := aMap
     s.regs.wf = true ∧ s.acs path off.toNat false false = Except.ok a ∧
     (a.loc.reg = Reg.HOP_AMAP_CFG ∧ s.fheld Fld.HOP_AMAP_CFG_LOCK = 1 ∨ a.loc.reg ∈ [Reg.RACE_TIM0, Reg.RACE_TIM1, Reg.RACE_TIM2, Reg.RACE_TIM3, Reg.RACE_TIM4] ∧ s.fheld Fld.RACE_CTRL_TLOCK (a.loc.idx.getD 0 0) = 1) ∧
     (∃ f ∈ a.loc.reg.fields, f.acc = Acc.rwl ∧ f.of (limitWord a.loc.reg (mergeWord a.loc.reg (s.raw a.loc.reg a.loc.key) (writtenBits a val).2 (writtenBits a val).1)) ≠ f.of (s.raw a.loc.reg a.loc.key)))
    ∧
    (let s : State := sLk
     let path : Path := fw
     let off : BitVec 24 := 0x100300
     let val : Word := 0x1F
     let a : Acs := aMap
     s.regs.wf = true ∧ s.acs path off.toNat false false = Except.ok a ∧
     (a.loc.reg = Reg.HOP_AMAP_CFG ∧ s.fheld Fld.HOP_AMAP_CFG_LOCK = 1 ∨ a.loc.reg ∈ [Reg.RACE_TIM0, Reg.RACE_TIM1, Reg.RACE_TIM2, Reg.RACE_TIM3, Reg.RACE_TIM4] ∧ s.fheld Fld.RACE_CTRL_TLOCK (a.loc.idx.getD 0 0) = 1) ∧
     a.loc.mirror = false ∧
     (∀ f ∈ a.loc.reg.fields, f.acc = Acc.rwl → f.of (limitWord a.loc.reg (mergeWord a.loc.reg (s.raw a.loc.reg a.loc.key) (writtenBits a val).2 (writtenBits a val).1)) = f.of (s.raw a.loc.reg a.loc.key))) := by decide +kernel
end Sys2Proof.Tests.Hopper

/-! ## Witnesses: settings written through a path -/
namespace Sys2Proof.Tests.Window
def fw : Path := .fw 0
def sLogs : State := (((((up.fset Fld.QRN_UE_LOG_VALID 1).fset Fld.QRN_ROW_LOG_VALID 1).fset Fld.HOP_LOST_LOG_VALID 1).fset Fld.BRK_SAFE_VALID 1).fset Fld.LAY_STALL_STATUS_VALID 1).fset Fld.BRK_CTRL_CLR_REFUSED 1
def sL2 : State := ((((sLogs.fset Fld.WEIR_STATUS_SCALED 1).fset Fld.WEIR_STATUS_F1 7).fset Fld.TLY_SAMP1_VALID 1).fset Fld.BRK_HIST_STAT_FROZEN 1).fset Fld.RACE_SLOT_STAT_BADCODE 1
def sCold : State := up
def sNs : State := { up with boot := { up.boot with readyE := false } }
def regsPW : List Reg := [.HEAD_MOD_ERR, .FLUME_CFG, .RACE_SCHED_CFG, .RACE_ERR, .RACE_REF_CNT, .SLU_GP_CFG, .QRN_SCRUB_CFG, .QRN_SCRUB_STAT,
        .QRN_ERR_CFG, .QRN_CNT, .HST_CFG, .GOV_BK_CFG, .GOV_AVS_CFG, .BRK_CTRL, .BRK_HIST_STAT, .TLY_HEAT_IDX, .TLY_STAT, .TLY_SAMP1]
def acsOf (s : State) (p : Path) (o : Nat) (w : Bool) : Acs := match s.acs p o w false with | .ok a => a | _ => ⟨⟨.GOV_TURN, 0, [], 0, false⟩, 0⟩
def kSc : Nat := Reg.key .RACE_SCHED_CFG 0 0
def kAv : Nat := Reg.key .GOV_AVS_CFG 0 0
def mv : Word := Fld.RACE_MR_CMD_MA.put 0 0x40
def mv0 : Word := Fld.RACE_MR_CMD_MA.put 0 0x4
def fac : State := { up with ld := { up.ld with lc := 1 } }
def sPd : State := (up.fset Fld.BRK_SRC_STAT_PEND 13 24)
def sPd2 : State := { sPd with brk := { sPd.brk with cause := ({} : Tbl Bool).ins (pairKey 24 2) true } }
def inj (c i m q : Nat) : Word := Fld.BRK_INJ_QUIET.put (Fld.BRK_INJ_MODE.put (Fld.BRK_INJ_INST.put (Fld.BRK_INJ_SRC.put 0 c) i) m) q
def fbr : State := { fac with brk := { fac.brk with broken := ({} : Tbl Bool).ins (pairKey 24 3) true } }
def sDn : State := up.fset Fld.MIL_MB_CTRL_DONE 1 2
def sHt : State := { up with tlyE := { up.tlyE with heat := ({} : Tbl Nat).ins 2 77 } }
def sTm : State := fac.fset Fld.TST_CTRL_TESTMODE 1
def b3 (o : Nat) : List Byte := [BitVec.ofNat 8 o, BitVec.ofNat 8 (o/256), BitVec.ofNat 8 (o/65536)]
def sPt : State := { up with mil := { up.mil with ptr := kAv + 4 } }
def heatAcs : Acs := ⟨⟨.TLY_HEAT_DATA, Reg.key .TLY_HEAT_DATA 0 0, [], 0, false⟩, 0⟩

theorem test_witness_ClearsAndSettings :
    (let s : State := sL2
     let path : Path := fw
     s.regs.wf = true ∧ 0 < 2 ∧ 0 < 32 ∧
     s.grantsField (Instr.layStallStatusClear 0, Path.fw 0, Fld.LAY_STALL_STATUS_VALID).2.1 (Instr.layStallStatusClear 0, Path.fw 0, Fld.LAY_STALL_STATUS_VALID).2.2 1 0 0 = true ∧
     s.grantsField path Fld.BRK_SAFE_VALID 1 0 0 = true ∧ s.grantsField path Fld.BRK_CTRL_CLR_REFUSED 1 0 0 = true ∧
     s.grantsField path Fld.BRK_HIST_STAT_FROZEN 1 0 0 = true ∧ s.grantsField path Fld.RACE_SLOT_STAT_BADCODE 1 0 0 = true ∧
     s.grantsField path Fld.WEIR_STATUS_SCALED 1 0 0 = true ∧ s.grantsField path Fld.TLY_SAMP1_VALID 1 0 0 = true)
    ∧
    (let s : State := up
     let path : Path := fw
     s.regs.wf = true ∧ 0 < 2 ∧ 0 < 32 ∧ 2 < 4 ∧ s.grantsField path Fld.HOP_ORD_CFG_GRAN 2 0 0 = true ∧
     s.grantsField path Fld.HOP_AMAP_CFG_LOCK 1 0 0 = true ∧ s.grantsField path Fld.RACE_CTRL_TLOCK 1 0 0 = true ∧
     s.grantsField path Fld.MIL_BOOT_GO 1 0 0 = true ∧ s.grantsField path Fld.MIL_I3C_CFG_ATT_EN (b2n true) 0 0 = true) := by decide +kernel

theorem test_witness_ClearsAndSettings_2 :
    (let s : State := sNs
     let path : Path := fw
     s.regs.wf = true ∧ 0 < 2 ∧ 0 < 32 ∧ 2 < 4 ∧ s.grantsField path Fld.QRN_WMAP_CFG_CLEAR 1 0 0 = true ∧ s.serveReady 0 = false ∧
     s.fheld Fld.QRN_WMAP_CFG_CLEAR = 0) := by decide +kernel

theorem test_witness_PlainWritesStoreFields :
    (let s : State := up
     let path : Path := fw
     let off : BitVec 24 := (BitVec.ofNat 24 kSc)
     let val : Word := 0x123456789ABCDEF0
     s.regs.wf = true ∧ s.grantsWrite path off.toNat true val = true ∧ s.acs path off.toNat true false = Except.ok (acsOf s path kSc true) ∧
     (acsOf s path kSc true).loc.mirror = false ∧
     ((acsOf s path kSc true).loc.reg ∈ [Reg.HEAD_MOD_ERR, Reg.FLUME_CFG, Reg.RACE_SCHED_CFG, Reg.RACE_ERR, Reg.RACE_REF_CNT, Reg.SLU_GP_CFG, Reg.QRN_SCRUB_CFG, Reg.QRN_SCRUB_STAT, Reg.QRN_ERR_CFG, Reg.QRN_CNT, Reg.HST_CFG, Reg.GOV_BK_CFG, Reg.GOV_AVS_CFG, Reg.BRK_CTRL, Reg.BRK_HIST_STAT, Reg.TLY_HEAT_IDX, Reg.TLY_STAT, Reg.TLY_SAMP1])) := by decide +kernel

theorem test_witness_RaceCommandsAreAskedFor :
    (let s : State := up
     let path : Path := fw
     let val : Word := mv
     s.regs.wf = true ∧ 0 < 32 ∧ 0 < 8 ∧ 0 < 2 ∧ 2 < 16 ∧
     s.grantsWrite path (Reg.RACE_MR_CMD.key 0 0) true (Fld.RACE_MR_CMD_GO.put val 1) = true ∧ s.fheld Fld.RACE_MR_CMD_BUSY = 0 ∧
     s.fheld Fld.RACE_MR_CMD_GO = 0 ∧ 0 < 2 ^ 32 ∧ s.grantsField path Fld.SLU_SLOT_SWAP_RACES 0 0 0 = true ∧
     s.grantsField path Fld.FAN_CTRL_RETRAIN (2 ^ 2) 0 0 = true ∧ bit (s.fheld Fld.FAN_CTRL_RETRAIN) 2 = false ∧
     16 * 0 + 2 ∉ (s.fan 0).queue ∧ (s.fan 0).running ≠ some (16 * 0 + 2) ∧ s.raceRuns (16 * 0 + 2) = false)
    ∧
    (let s : State := up
     let path : Path := fw
     s.regs.wf = true ∧ 0 < 32 ∧ 0 < 8 ∧ 0 < 2 ∧ 1 < 16 ∧ s.grantsField path Fld.FAN_CTRL_RETRAIN (2 ^ 1) 0 0 = true ∧
     bit (s.fheld Fld.FAN_CTRL_RETRAIN) 1 = false ∧ 16 * 0 + 1 ∉ (s.fan 0).queue ∧ (s.fan 0).running ≠ some (16 * 0 + 1) ∧
     s.raceRuns (16 * 0 + 1) = true) := by decide +kernel

theorem test_witness_RaceCommandsAreAskedFor_2 :
    (let s : State := fac
     let path : Path := fw
     let val : Word := mv0
     s.regs.wf = true ∧ 0 < 32 ∧ 0 < 8 ∧ 0 < 2 ∧ 1 < 16 ∧ s.grantsWrite path (Reg.RACE_SLOT_ACT.key2 0 0 0) true val = true) := by decide +kernel

theorem test_witness_ClearsAndInjections :
    (let s : State := sPd
     let path : Path := fw
     s.regs.wf = true ∧ srcRow 24 = some { code := 24, n := 32, lvl := false, dflt := 1, permit := 31, fixed := false } ∧ 24 < 64 ∧
     5 < 2 ^ 32 ∧ s.grantsField path Fld.BRK_SRC_STAT_PEND 5 24 0 = true)
    ∧
    (let s : State := fac
     let path : Path := fw
     let val : Word := (inj 24 3 0 0)
     s.regs.wf = true ∧ s.grantsWrite path (Reg.BRK_INJ.key 0 0) true (Fld.BRK_INJ_GO.put val 1) = true ∧ Fld.BRK_INJ_STOP.of val = 0 ∧
     s.brk.inj = none ∧ s.brk.broken.get false (pairKey (Fld.BRK_INJ_SRC.of val) (Fld.BRK_INJ_INST.of val)) = false ∧
     s.pairLive (Fld.BRK_INJ_SRC.of val) (Fld.BRK_INJ_INST.of val) = true ∧ s.grantsField path Fld.BRK_INJ_STOP 1 0 0 = true) := by decide +kernel

theorem test_witness_ClearsAndInjections_2 :
    (let s : State := fbr
     let path : Path := fw
     let val : Word := (inj 24 3 1 0)
     s.regs.wf = true ∧ s.grantsWrite path (Reg.BRK_INJ.key 0 0) true (Fld.BRK_INJ_GO.put val 1) = true ∧ Fld.BRK_INJ_STOP.of val = 0 ∧
     s.brk.inj = none ∧
     (s.brk.broken.get false (pairKey (Fld.BRK_INJ_SRC.of val) (Fld.BRK_INJ_INST.of val)) = true ∨ s.pairLive (Fld.BRK_INJ_SRC.of val) (Fld.BRK_INJ_INST.of val) = false)) := by decide +kernel

theorem test_witness_BoxesHeatAndResetsAreAskedFor :
    (let s : State := up
     let path : Path := fw
     s.regs.wf = true ∧ 0 < 2 ∧ 2 < 8 ∧ s.grantsField path Fld.MIL_MB_CTRL_GO 1 2 0 = true ∧
     s.acs path (Reg.TLY_HEAT_DATA.key 0 0) false true = Except.ok heatAcs ∧
     s.grantsWrite path (Reg.TLY_HEAT_DATA.key 0 0) false (BitVec.ofNat 64 (5)) = true ∧ (s.tly 0).heat.wf = true ∧ s.awake = true ∧
     s.mainsOn = true ∧ s.gov.drain = false ∧ s.boot.pend = none ∧ s.boot.settle = none ∧
     s.grantsField path Fld.GOV_RST_CTRL_WARM 1 0 0 = true ∧ s.brk.safe = false ∧ s.grantsField path Fld.GOV_RST_CTRL_HALF_W 1 0 0 = true ∧
     0 < 1 ∧ 1 < 2 ^ 32 ∧ s.grantsField path Fld.GOV_RST_CTRL_RACE 1 0 0 = true)
    ∧
    (let s : State := sDn
     let path : Path := fw
     s.regs.wf = true ∧ 0 < 2 ∧ 2 < 8 ∧ s.grantsField path Fld.MIL_MB_CTRL_DONE 1 2 0 = true ∧ s.fheld Fld.MIL_MB_CTRL_DONE 2 = 1) := by decide +kernel

theorem test_witness_BoxesHeatAndResetsAreAskedFor_2 :
    (let s : State := sTm
     let path : Path := fw
     s.regs.wf = true ∧ 0 < 2 ∧ 2 < 8 ∧ s.awake = true ∧ s.mainsOn = true ∧ s.gov.drain = false ∧ s.boot.pend = none ∧
     s.boot.settle = none ∧ s.grantsField path Fld.TST_CTRL_EXIT 1 0 0 = true) := by decide +kernel

theorem test_witness_I3cTransfersAccess :
    (let s : State := up
     let bytes : List Byte := (b3 kAv)
     s.regs.wf = true ∧ s.i3cUp = true ∧ bytes.length = 3 ∧ (4 = 4 ∧ s.mil.ptr % 4 = 0 ∨ 4 = 8 ∧ s.mil.ptr % 8 = 0))
    ∧
    (let s : State := up
     let bytes : List Byte := (b3 kAv ++ [1,2,3,4])
     s.regs.wf = true ∧ s.i3cUp = true ∧ bytes.length = 7 ∧ bytesNat (List.take 3 bytes) % 4 = 0) := by decide +kernel

theorem test_witness_I3cTransfersAccess_2 :
    (let s : State := up
     let bytes : List Byte := (b3 (kAv+1) ++ [1,2,3,4])
     s.regs.wf = true ∧ s.i3cUp = true ∧
     (bytes.length ∉ [3, 7, 11] ∨ bytes.length = 7 ∧ bytesNat (List.take 3 bytes) % 4 ≠ 0 ∨ bytes.length = 11 ∧ bytesNat (List.take 3 bytes) % 8 ≠ 0) ∧
     ¬(5 = 4 ∧ s.mil.ptr % 4 = 0 ∨ 5 = 8 ∧ s.mil.ptr % 8 = 0))
    ∧
    (let s : State := up
     let bytes : List Byte := (b3 kAv ++ [1,2,3,4,5,6,7,8])
     s.regs.wf = true ∧ s.i3cUp = true ∧ bytes.length = 11 ∧ bytesNat (List.take 3 bytes) % 8 = 0) := by decide +kernel
end Sys2Proof.Tests.Window

/-! ## Witnesses: mailboxes, firmware and streams -/
namespace Sys2Proof.Tests.Boxes
def spl : State := { up with lay := { up.lay with split := true } }
def q0 (s : State) : State := let t := mb s 0 0; t.setCore 0 { t.core 0 with cur := none, queue := [(0, 2)] }
def qBad : State := let t := mb up 0x99 0; t.setCore 0 { t.core 0 with cur := none, queue := [(0, 2)] }
def qW : State :=
  let t := (up.setRaw .MIL_MB_REQ (Reg.key2 .MIL_MB_REQ 2 0 1) (BitVec.ofNat 64 (0x11 + 56 * 2 ^ 32))).fset Fld.MIL_MB_CTRL_BUSY 1 2 1
  t.setCore 1 { t.core 1 with queue := [(1, 2)] }
def qf : State := bgd (mb up 0x33 0) 0x33
def qr : State := bgd (mb up 0x22 0) 0x22
def st256 : Tbl Byte := ⟨(List.range 256).map (fun i => (i, BitVec.ofNat 8 (if i = 12 then 0 else i)))⟩
def st0 : Tbl Byte := ⟨(List.range 256).map (fun i => (i, 0))⟩
def qa : State := let t := bgd (mb up 0x04 0) 0x04; t.setCore 0 { t.core 0 with stage := st0 }
def qc : State := let t := mb up 0x16 3; { t with mil := { t.mil with commit := some (3, 400), swapped := some (0, 77) } }
def qo : State := let s := mb up 0x33 0; { s with clk := { s.clk with age := 900000000 } }
def fa : State := let t := mb up 4 0; t.setCore 0 { t.core 0 with stage := st0 }
def al : State := { up with gov := { up.gov with alert := true } }
def off5 : State := up.fset Fld.HOP_STREAM_EN 0 4095
def rq (opc : Nat) : Req := { m := 0, opc := opc, stream := 3, tag := 1, addr := 0, len := 0, arg := 0, cls := 2, grp := 0, landHalf := 0, home := 0, target := 0, race := 0, turn := 0, land := 0 }
def held : State := { up.fset Fld.HOP_STREAM_EN 1 3 with hop := { up.hop with reqs := up.hop.reqs.ins 7 (rq Opc.rd) } }
def ov : State := up.fset Fld.WEIR_GRP_SHARE1 1000 1
def bad0 : State := (List.range 8).foldl (fun s j => s.setRaw .RACE_SLOT_SHD (Reg.key2 .RACE_SLOT_SHD 1 j 0) 0x1111111111111111) up

theorem test_witness_ReportsAreReplied :
    (let s : State := (mb up 0 0)
     let v : Serve := (mv 0)
     s.regs.wf = true ∧ 0 < 2 ∧ v.box < 8 ∧ v.half < 2 ∧ (s.core 0).cur = some v ∧ v.opc = 0)
    ∧
    (let s : State := (mb up 1 0)
     let v : Serve := (mv 1)
     s.regs.wf = true ∧ 0 < 2 ∧ v.box < 8 ∧ v.half < 2 ∧ (s.core 0).cur = some v ∧ v.opc = 1) := by decide +kernel

theorem test_witness_ReportsAreReplied_2 :
    (let s : State := (mb up 2 0)
     let v : Serve := (mv 2)
     s.regs.wf = true ∧ 0 < 2 ∧ v.box < 8 ∧ v.half < 2 ∧ (s.core 0).cur = some v ∧ v.opc = 2 ∧ s.splitNow = false ∧ s.domainOn 65 = true)
    ∧
    (let s : State := (mb spl 2 0)
     let v : Serve := (mv 2)
     s.regs.wf = true ∧ 0 < 2 ∧ v.box < 8 ∧ v.half < 2 ∧ (s.core 0).cur = some v ∧ v.opc = 2 ∧ s.splitNow = true) := by decide +kernel

theorem test_witness_ReportsAreReplied_3 :
    (let s : State := (mb up 0x11 4095)
     let v : Serve := (mv 0x11)
     s.regs.wf = true ∧ 0 < 2 ∧ v.box < 8 ∧ v.half < 2 ∧ (s.core 0).cur = some v ∧ v.opc = 17 ∧ s.arg v 0 2 ≤ 4095)
    ∧
    (let s : State := (mb up 0x11 4096)
     let v : Serve := (mv 0x11)
     s.regs.wf = true ∧ 0 < 2 ∧ v.box < 8 ∧ v.half < 2 ∧ (s.core 0).cur = some v ∧ v.opc = 17 ∧ 4095 < s.arg v 0 2) := by decide +kernel

theorem test_witness_ReportsAreReplied_4 :
    (let s : State := (mb up 0x13 63)
     let v : Serve := (mv 0x13)
     s.regs.wf = true ∧ 0 < 2 ∧ v.box < 8 ∧ v.half < 2 ∧ (s.core 0).cur = some v ∧ v.opc = 19 ∧ s.arg v 0 1 ≤ 63)
    ∧
    (let s : State := (mb up 0x13 64)
     let v : Serve := (mv 0x13)
     s.regs.wf = true ∧ 0 < 2 ∧ v.box < 8 ∧ v.half < 2 ∧ (s.core 0).cur = some v ∧ v.opc = 19 ∧ 63 < s.arg v 0 1) := by decide +kernel

theorem test_witness_ReportsAreReplied_5 :
    (let s : State := (mb up 0x15 (ar [(0,1),(1,1),(2,2),(3,6)]))
     let v : Serve := (mv 0x15)
     s.regs.wf = true ∧ 0 < 2 ∧ v.box < 8 ∧ v.half < 2 ∧ (s.core 0).cur = some v ∧ v.opc = 21 ∧ s.arg v 0 1 ≤ 31 ∧ s.arg v 1 1 ≤ 1 ∧
     1 ≤ s.arg v 3 1 ∧ s.arg v 3 1 ≤ 6 ∧ s.arg v 2 1 + s.arg v 3 1 ≤ 8 ∧ s.isolated (s.arg v 0 1) = false ∧ s.domainOn (s.arg v 0 1) = true)
    ∧
    (let s : State := (mb up 0x17 3)
     let v : Serve := (mv 0x17)
     s.regs.wf = true ∧ 0 < 2 ∧ v.box < 8 ∧ v.half < 2 ∧ (s.core 0).cur = some v ∧ v.opc = 23 ∧
     (∀ r ∈ racesOf (s.arg v 0 4), s.isolated r = false ∧ s.domainOn r = true ∧ s.commitCheck r = 0)) := by decide +kernel

theorem test_witness_ReportsAreReplied_6 :
    (let s : State := (mb up 0x30 1)
     let v : Serve := (mv 0x30)
     s.regs.wf = true ∧ 0 < 2 ∧ v.box < 8 ∧ v.half < 2 ∧ (s.core 0).cur = some v ∧ v.opc = 48 ∧ s.arg v 0 1 ≤ 1 ∧
     s.domainOn (64 + s.arg v 0 1) = true)
    ∧
    (let s : State := (mb up 0x43 0)
     let v : Serve := (mv 0x43)
     s.regs.wf = true ∧ 0 < 2 ∧ v.box < 8 ∧ v.half < 2 ∧ (s.core 0).cur = some v ∧ v.opc = 67) := by decide +kernel

theorem test_witness_ReportsAreReplied_7 :
    (let s : State := (mb up 0x75 0)
     let v : Serve := (mv 0x75)
     s.regs.wf = true ∧ 0 < 2 ∧ v.box < 8 ∧ v.half < 2 ∧ (s.core 0).cur = some v ∧ v.opc = 117 ∧ s.mmk.cryptoBad = false ∧
     s.fuse.certsDone = true) := by decide +kernel

theorem test_witness_MailboxesAreServed :
    (let s : State := (q0 up)
     s.regs.wf = true ∧ 0 < 2 ∧ 2 < 8 ∧ s.coreFree 0 = true ∧ (s.core 0).queue = [(0, 2)] ∧
     ¬(0 = 1 ∧ opDefined (⟨0, 2, mbOpc (s.mbWord ⟨0, 2, 0⟩ 0)⟩ : Serve).opc = true ∧ opHere (⟨0, 2, mbOpc (s.mbWord ⟨0, 2, 0⟩ 0)⟩ : Serve).opc = false ∧ s.splitNow = false) ∧
     (s.setCore 0 ({ s.core 0 with queue := [] })).early 0 (⟨0, 2, mbOpc (s.mbWord ⟨0, 2, 0⟩ 0)⟩ : Serve) = none ∧
     (⟨0, 2, mbOpc (s.mbWord ⟨0, 2, 0⟩ 0)⟩ : Serve).opc ≠ 118)
    ∧
    (let s : State := qBad
     s.regs.wf = true ∧ 0 < 2 ∧ 2 < 8 ∧ s.coreFree 0 = true ∧ (s.core 0).queue = [(0, 2)] ∧
     ¬(0 = 1 ∧ opDefined (⟨0, 2, mbOpc (s.mbWord ⟨0, 2, 0⟩ 0)⟩ : Serve).opc = true ∧ opHere (⟨0, 2, mbOpc (s.mbWord ⟨0, 2, 0⟩ 0)⟩ : Serve).opc = false ∧ s.splitNow = false) ∧
     (s.setCore 0 ({ s.core 0 with queue := [] })).early 0 (⟨0, 2, mbOpc (s.mbWord ⟨0, 2, 0⟩ 0)⟩ : Serve) = some (St.badarg, 0)) := by decide +kernel

theorem test_witness_MailboxesAreServed_2 :
    (let s : State := qW
     s.regs.wf = true ∧ 1 < 2 ∧ 2 < 8 ∧ s.coreFree 1 = true ∧ (s.core 1).queue = [(1, 2)] ∧
     1 = 1 ∧ opDefined (⟨1, 2, mbOpc (s.mbWord ⟨1, 2, 0⟩ 0)⟩ : Serve).opc = true ∧ opHere (⟨1, 2, mbOpc (s.mbWord ⟨1, 2, 0⟩ 0)⟩ : Serve).opc = false ∧ s.splitNow = false)
    ∧
    (let s : State := qf
     s.regs.wf = true ∧ 0 < 2 ∧ 2 < 8 ∧ s.domainOn (62 + 0) = true ∧ s.mil.swapped = none ∧ (s.core 0).bg = some (mv 51) ∧ (mv 51).box < 8 ∧
     (mv 51).half < 2 ∧ s.bgWaits 0 (mv 51) = false ∧ ((mv 51).opc = 4 → 0 = 0)) := by decide +kernel

theorem test_witness_MailboxesAreServed_3 :
    (let s : State := qc
     s.regs.wf = true ∧ 0 < 2 ∧ 2 < 8 ∧ s.domainOn 62 = true ∧ s.mil.east.cur = some (mv 22) ∧ (mv 22).opc = 22 ∧ (mv 22).box < 8 ∧
     (mv 22).half < 2 ∧ s.mil.commit = some (3, 400) ∧ s.mil.swapped = some (0, 77)) := by decide +kernel

theorem test_witness_MailboxesAreServed_4 :
    (let s : State := qo
     (s.regs.wf = true ∧ 0 < 2 ∧ 2 < 8 ∧ s.domainOn (62 + 0) = true ∧ s.overdue 0 2 = true) ∧
     (∀ (d : ℕ) (w : Serve), d < 2 → (s.core d).cur = some w ∨ (s.core d).bg = some w → w.box < 8 ∧ w.half < 2)) := ⟨by decide +kernel, (by intro d w hd h; rcases h with h | h <;> (interval_cases d <;> cases h <;> decide))⟩

theorem test_witness_FirmwareIsLoaded :
    (let s : State := (mb up 3 (ar [(4, 5), (8, 17), (55, 3)]))
     let v : Serve := (mv 3)
     s.regs.wf = true ∧ 0 < 2 ∧ v.box < 8 ∧ v.half < 2 ∧ (s.core 0).cur = some v ∧ v.opc = 3 ∧ s.arg v 0 1 = 0 ∧
     s.arg v 4 4 + (mbNarg (s.mbWord v 0) - 8) ≤ imageMax)
    ∧
    (let s : State := (mb up 3 (ar [(0, 1), (4, 5), (8, 128), (16, 64)]))
     let v : Serve := (mv 3)
     s.regs.wf = true ∧ 0 < 2 ∧ v.box < 8 ∧ v.half < 2 ∧ (s.core 0).cur = some v ∧ v.opc = 3 ∧ s.arg v 0 1 = 1 ∧
     s.arg v 4 4 + s.arg v 16 4 ≤ imageMax ∧ s.arg v 8 8 % 64 = 0 ∧ s.arg v 8 8 + s.arg v 16 4 ≤ topOf s.ld ∧ s.fetchReady 0 = true) := by decide +kernel

theorem test_witness_FirmwareIsLoaded_2 :
    (let s : State := fa
     let v : Serve := (mv 4)
     s.regs.wf = true ∧ 0 < 2 ∧ v.box < 8 ∧ v.half < 2 ∧ (s.core 0).cur = some v ∧ v.opc = 4 ∧ s.arg v 0 1 ≤ 1 ∧
     (s.core 0).complete = true ∧ s.mayActivate = true)
    ∧
    (let s : State := (mb up 5 0)
     let v : Serve := (mv 5)
     s.regs.wf = true ∧ 0 < 2 ∧ v.box < 8 ∧ v.half < 2 ∧ (s.core 0).cur = some v ∧ v.opc = 5) := by decide +kernel

theorem test_witness_FirmwareIsLoaded_3 :
    (let s : State := (mb up 6 0)
     let v : Serve := (mv 6)
     s.regs.wf = true ∧ 0 < 2 ∧ v.box < 8 ∧ v.half < 2 ∧ (s.core 0).cur = some v ∧ v.opc = 6 ∧ s.gov.alert = false ∧ s.gov.drain = false)
    ∧
    (let s : State := (mb al 6 0)
     let v : Serve := (mv 6)
     s.regs.wf = true ∧ 0 < 2 ∧ v.box < 8 ∧ v.half < 2 ∧ (s.core 0).cur = some v ∧ v.opc = 6 ∧ (s.gov.alert = true ∨ s.gov.drain = true)) := by decide +kernel

theorem test_witness_StreamsGroupsAndSlotsAreSet :
    (let s : State := (mb off5 0x10 (ar [(0, 4095 % 256), (1, 15), (4, 1), (5, 2)]))
     let v : Serve := (mv 0x10)
     s.regs.wf = true ∧ 0 < 2 ∧ v.box < 8 ∧ v.half < 2 ∧ (s.core 0).cur = some v ∧ s.mainsOn = true ∧ v.opc = 16 ∧ s.arg v 0 2 ≤ 4095 ∧
     s.streamHeld (s.arg v 0 2) (s.arg v 4 4) = false)
    ∧
    (let s : State := (mb held 0x10 (ar [(0, 3), (4, 1), (5, 0x77), (6,3)]))
     let v : Serve := (mv 0x10)
     s.regs.wf = true ∧ 0 < 2 ∧ v.box < 8 ∧ v.half < 2 ∧ (s.core 0).cur = some v ∧ s.mainsOn = true ∧ v.opc = 16 ∧ s.arg v 0 2 ≤ 4095 ∧
     s.streamHeld (s.arg v 0 2) (s.arg v 4 4) = true) := by decide +kernel

theorem test_witness_StreamsGroupsAndSlotsAreSet_2 :
    (let s : State := (mb up 0x12 (ar [(0, 63), (8, 100)]))
     let v : Serve := (mv 0x12)
     s.regs.wf = true ∧ 0 < 2 ∧ v.box < 8 ∧ v.half < 2 ∧ (s.core 0).cur = some v ∧ s.mainsOn = true ∧ v.opc = 18 ∧ s.arg v 0 1 ≤ 63 ∧
     (∀ e ∈ s.groupArgs (BitVec.ofNat 64 (s.arg v 8 8)), e.1 = false) ∧
     (s.setRaw Reg.WEIR_GRP (Reg.WEIR_GRP.key (s.arg v 0 1) 0) (BitVec.ofNat 64 (s.arg v 8 8))).overcommit = none)
    ∧
    (let s : State := (mb ov 0x12 (ar [(0, 63), (8, 100)]))
     let v : Serve := (mv 0x12)
     s.regs.wf = true ∧ 0 < 2 ∧ v.box < 8 ∧ v.half < 2 ∧ (s.core 0).cur = some v ∧ s.mainsOn = true ∧ v.opc = 18 ∧ s.arg v 0 1 ≤ 63 ∧
     (∀ e ∈ s.groupArgs (BitVec.ofNat 64 (s.arg v 8 8)), e.1 = false) ∧
     (s.setRaw Reg.WEIR_GRP (Reg.WEIR_GRP.key (s.arg v 0 1) 0) (BitVec.ofNat 64 (s.arg v 8 8))).overcommit = some 65281) := by decide +kernel

theorem test_witness_StreamsGroupsAndSlotsAreSet_3 :
    (let s : State := (mb up 0x14 (ar [(0, 3), (4, 2), (5, 6), (8, 0x1F), (55, 0x12)]))
     let v : Serve := (mv 0x14)
     s.regs.wf = true ∧ 0 < 2 ∧ v.box < 8 ∧ v.half < 2 ∧ (s.core 0).cur = some v ∧ s.mainsOn = true ∧ v.opc = 20 ∧ s.arg v 4 1 ≤ 7 ∧
     1 ≤ s.arg v 5 1 ∧ s.arg v 5 1 ≤ 6 ∧ s.arg v 4 1 + s.arg v 5 1 ≤ 8 ∧
     (∀ r ∈ racesOf (s.arg v 0 4), s.isolated r = false ∧ s.domainOn r = true))
    ∧
    (let s : State := (mb up 0x16 (ar [(0, 3)]))
     let v : Serve := (mv 0x16)
     s.regs.wf = true ∧ 0 < 2 ∧ v.box < 8 ∧ v.half < 2 ∧ (s.core 0).cur = some v ∧ s.mainsOn = true ∧ v.opc = 22 ∧ s.mil.commit = none ∧
     (∀ r ∈ racesOf (s.arg v 0 4), s.isolated r = false ∧ s.domainOn r = true ∧ s.commitCheck r = 0)) := by decide +kernel

theorem test_witness_StreamsGroupsAndSlotsAreSet_4 :
    (let s : State := (mb bad0 0x16 (ar [(0, 3)]))
     let v : Serve := (mv 0x16)
     s.regs.wf = true ∧ 0 < 2 ∧ v.box < 8 ∧ v.half < 2 ∧ (s.core 0).cur = some v ∧ s.mainsOn = true ∧ v.opc = 22 ∧ s.mil.commit = none ∧
     (∀ q ∈ racesOf (s.arg v 0 4), s.isolated q = false ∧ s.domainOn q = true) ∧
     (List.find? (fun q => decide (s.commitCheck q ≠ 0)) (racesOf (s.arg v 0 4)) = some 1))
    ∧
    (let s : State := (mb up 0x20 (ar [(0, 3)]))
     let v : Serve := (mv 0x20)
     s.regs.wf = true ∧ 0 < 2 ∧ v.box < 8 ∧ v.half < 2 ∧ (s.core 0).cur = some v ∧ s.mainsOn = true ∧ v.opc = 32 ∧ s.gov.alert = false ∧
     (∀ r ∈ racesOf (s.arg v 0 4), s.isolated r = false ∧ s.domainOn r = true)) := by decide +kernel
end Sys2Proof.Tests.Boxes

/-! ## Witnesses: repairs, granaries, power, Brake and Tally by mailbox -/
namespace Sys2Proof.Tests.Boxes2
def full : State := (List.range 64).foldl (fun s i => s.setRaw .DRS_SOFT (Reg.key .DRS_SOFT i 0) (BitVec.ofNat 64 (2^60 + 2 * 2 ^ 16))) up
def ln : State := up.setRaw .SPIN_REPAIR (Reg.key .SPIN_REPAIR 1 0) 0x5555555555555555
def rv : State := let s := inLc up 1; { s with fuse := { s.fuse with map := ({} : Tbl Word).ins 1023 0x1000000000000000 } }
def std (s : State) : State := { s with hstE := { s.hstE with st := .steady }, hstW := { s.hstW with st := .failed } }
def lost : State := { up with hstW := { up.hstW with drives := up.hstW.drives.ins 3 { lost := true } } }
def pd : State := up.fset Fld.BRK_SRC_STAT_PEND 13 24
def pd2 : State := { pd with brk := { pd.brk with cause := ({} : Tbl Bool).ins (pairKey 24 2) true } }
def fbr : State := let s := inLc up 1; { s with brk := { s.brk with broken := ({} : Tbl Bool).ins (pairKey 24 3) true } }

theorem test_witness_RepairsAreBegun :
    (let s : State := (mb up 0x21 (ar [(0,31),(1,1),(2,1),(3,3),(4,7),(8,255),(9,1)]))
     let v : Serve := (mv 0x21)
     s.regs.wf = true ∧ 0 < 2 ∧ v.box < 8 ∧ v.half < 2 ∧ (s.core 0).cur = some v ∧ v.opc = 33 ∧ (s.repairPlace v).race ≤ 31 ∧
     (s.repairPlace v).pr ≤ 1 ∧ (s.repairPlace v).sid < s.nsid ∧ (s.repairPlace v).bg ≤ 3 ∧ (s.repairPlace v).bank ≤ 7 ∧
     (s.repairPlace v).row < 2 ^ rowbitsOf s.ld ∧ s.isolated (s.repairPlace v).race = false ∧ s.domainOn (s.repairPlace v).race = true ∧
     (List.find? (fun e => decide (softState e.2 = 0)) s.softEntries = some (0, BitVec.toNat (s.raw Reg.DRS_SOFT (Reg.DRS_SOFT.key 0 0)))) ∧
     s.queueRepair (s.repairPlace v) = some ((s.setRaw Reg.DRS_SOFT (Reg.DRS_SOFT.key 0 0) (softWord (s.repairPlace v) 1)).askRetrain (s.repairPlace v).race))
    ∧
    (let s : State := (mb full 0x21 (ar [(0,31),(1,1),(2,1),(3,3),(4,7),(8,255),(9,1)]))
     let v : Serve := (mv 0x21)
     s.regs.wf = true ∧ 0 < 2 ∧ v.box < 8 ∧ v.half < 2 ∧ (s.core 0).cur = some v ∧ v.opc = 33 ∧ (s.repairPlace v).race ≤ 31 ∧
     (s.repairPlace v).pr ≤ 1 ∧ (s.repairPlace v).sid < s.nsid ∧ (s.repairPlace v).bg ≤ 3 ∧ (s.repairPlace v).bank ≤ 7 ∧
     (s.repairPlace v).row < 2 ^ rowbitsOf s.ld ∧ s.isolated (s.repairPlace v).race = false ∧ s.domainOn (s.repairPlace v).race = true ∧
     s.queueRepair (s.repairPlace v) = none) := by decide +kernel

theorem test_witness_RepairsAreBegun_2 :
    (let s : State := (mb full 0x22 (ar [(0,0),(1,63)]))
     let v : Serve := (mv 0x22)
     s.regs.wf = true ∧ 0 < 2 ∧ v.box < 8 ∧ v.half < 2 ∧ (s.core 0).cur = some v ∧ v.opc = 34 ∧ s.drs.burn = none ∧ s.gov.ps = PState.run ∧
     s.gov.lowX = false ∧ s.gov.alert = false ∧ s.blankFuse = some 0 ∧ s.arg v 0 1 = 0 ∧ s.arg v 1 1 ≤ 63 ∧
     softState (BitVec.toNat (s.raw Reg.DRS_SOFT (Reg.DRS_SOFT.key (s.arg v 1 1) 0))) = 2 ∧ typeOk s.ld.lc 1 = true)
    ∧
    (let s : State := (mb ln 0x22 (ar [(0,1),(1,1),(2,1),(3,3)]))
     let v : Serve := (mv 0x22)
     s.regs.wf = true ∧ 0 < 2 ∧ v.box < 8 ∧ v.half < 2 ∧ (s.core 0).cur = some v ∧ v.opc = 34 ∧ s.drs.burn = none ∧ s.gov.ps = PState.run ∧
     s.gov.lowX = false ∧ s.gov.alert = false ∧ s.blankFuse = some 0 ∧ s.arg v 0 1 = 1 ∧ s.arg v 1 1 ≤ 31 ∧ s.arg v 2 1 ≤ 1 ∧
     s.arg v 3 1 ≤ 6 ∧ s.laneFix (s.arg v 1 1) (s.arg v 2 1) (s.arg v 3 1) ≠ 0 ∧ typeOk s.ld.lc 3 = true) := by decide +kernel

theorem test_witness_RepairsAreBegun_3 :
    (let s : State := (mb up 0x22 (ar [(0,2),(1,31)]))
     let v : Serve := (mv 0x22)
     s.regs.wf = true ∧ 0 < 2 ∧ v.box < 8 ∧ v.half < 2 ∧ (s.core 0).cur = some v ∧ v.opc = 34 ∧ s.drs.burn = none ∧ s.gov.ps = PState.run ∧
     s.gov.lowX = false ∧ s.gov.alert = false ∧ s.blankFuse = some 0 ∧ s.arg v 0 1 = 2 ∧ s.arg v 1 1 ≤ 31 ∧ typeOk s.ld.lc 4 = true)
    ∧
    (let s : State := (mb up 0x22 (ar [(0,3),(8,5),(15,0x10)]))
     let v : Serve := (mv 0x22)
     s.regs.wf = true ∧ 0 < 2 ∧ v.box < 8 ∧ v.half < 2 ∧ (s.core 0).cur = some v ∧ v.opc = 34 ∧ s.drs.burn = none ∧ s.gov.ps = PState.run ∧
     s.gov.lowX = false ∧ s.gov.alert = false ∧ s.blankFuse = some 0 ∧ s.arg v 0 1 = 3 ∧ typeOk s.ld.lc (entType (s.arg v 8 8)) = true) := by decide +kernel

theorem test_witness_RepairsAreBegun_4 :
    (let s : State := (mb rv 0x22 (ar [(0,4),(4,255),(5,3)]))
     let v : Serve := (mv 0x22)
     s.regs.wf = true ∧ 0 < 2 ∧ v.box < 8 ∧ v.half < 2 ∧ (s.core 0).cur = some v ∧ v.opc = 34 ∧ s.drs.burn = none ∧ s.gov.ps = PState.run ∧
     s.gov.lowX = false ∧ s.gov.alert = false ∧ s.arg v 0 1 = 4 ∧ s.arg v 4 2 ≤ 1023 ∧ (s.fuse.map.find? (s.arg v 4 2)).getD 0 ≠ 0 ∧
     typeOk s.ld.lc 15 = true)
    ∧
    (let s : State := (mb up 0x23 31)
     let v : Serve := (mv 0x23)
     s.regs.wf = true ∧ 0 < 2 ∧ v.box < 8 ∧ v.half < 2 ∧ (s.core 0).cur = some v ∧ v.opc = 35 ∧ s.arg v 0 1 ≤ 31 ∧
     s.isolated (s.arg v 0 1) = false) := by decide +kernel

theorem test_witness_GranaryAndPowerAreSet :
    (let s : State := (mb (std up) 0x31 (ar [(0,3),(1,0xA5)]))
     let v : Serve := (mv 0x31)
     s.regs.wf = true ∧ 0 < 2 ∧ v.box < 8 ∧ v.half < 2 ∧ (s.core 0).cur = some v ∧ s.mainsOn = true ∧ v.opc = 49 ∧ s.arg v 0 1 ≤ 3 ∧
     s.arg v 1 1 = 165 ∧ s.hostService = true ∧ (∀ h ∈ halvesOf (s.arg v 0 1), (s.hst h).st = HState.failed ∨ (s.hst h).st = HState.steady))
    ∧
    (let s : State := (mb (up.fset Fld.GOV_BK_CFG_MODE 1) 0x32 5000)
     let v : Serve := (mv 0x32)
     s.regs.wf = true ∧ 0 < 2 ∧ v.box < 8 ∧ v.half < 2 ∧ (s.core 0).cur = some v ∧ s.mainsOn = true ∧ v.opc = 50 ∧
     s.fheld Fld.GOV_BK_CFG_MODE ≠ 0) := by decide +kernel

theorem test_witness_GranaryAndPowerAreSet_2 :
    (let s : State := (mb (up.fset Fld.GOV_BK_CFG_MODE 0) 0x32 5000)
     let v : Serve := (mv 0x32)
     s.regs.wf = true ∧ 0 < 2 ∧ v.box < 8 ∧ v.half < 2 ∧ (s.core 0).cur = some v ∧ s.mainsOn = true ∧ v.opc = 50 ∧
     s.fheld Fld.GOV_BK_CFG_MODE = 0)
    ∧
    (let s : State := (mb up 0x33 7)
     let v : Serve := (mv 0x33)
     s.regs.wf = true ∧ 0 < 2 ∧ v.box < 8 ∧ v.half < 2 ∧ (s.core 0).cur = some v ∧ s.mainsOn = true ∧ v.opc = 51 ∧ s.arg v 0 1 ≤ 7 ∧
     s.driveLost (s.arg v 0 1) = false) := by decide +kernel

theorem test_witness_GranaryAndPowerAreSet_3 :
    (let s : State := (mb lost 0x33 7)
     let v : Serve := (mv 0x33)
     s.regs.wf = true ∧ 0 < 2 ∧ v.box < 8 ∧ v.half < 2 ∧ (s.core 0).cur = some v ∧ s.mainsOn = true ∧ v.opc = 51 ∧ s.arg v 0 1 ≤ 7 ∧
     s.driveLost (s.arg v 0 1) = true)
    ∧
    (let s : State := (mb up 0x40 1)
     let v : Serve := (mv 0x40)
     s.regs.wf = true ∧ 0 < 2 ∧ v.box < 8 ∧ v.half < 2 ∧ (s.core 0).cur = some v ∧ s.mainsOn = true ∧ v.opc = 64 ∧
     PState.of (s.arg v 0 1) = some PState.idle ∧ s.gov.entry = none ∧ s.awake = true ∧ s.brk.safe = false ∧ s.gov.alert = false ∧
     s.fheld Fld.GOV_PWR_CTRL_GO = 0 ∧ PState.idle ≠ PState.run ∧ PState.idle ≠ s.gov.ps) := by decide +kernel

theorem test_witness_GranaryAndPowerAreSet_4 :
    (let s : State := (mb up 0x41 (ar [(0,0xFF),(1,0xFF),(2,0xFF),(3,0xFF),(4,0xFF),(5,0xFF),(6,0xFF),(7,0xFF)]))
     let v : Serve := (mv 0x41)
     s.regs.wf = true ∧ 0 < 2 ∧ v.box < 8 ∧ v.half < 2 ∧ (s.core 0).cur = some v ∧ s.mainsOn = true ∧ v.opc = 65)
    ∧
    (let s : State := (mb up 0x42 (ar [(0,90),(1,80),(2,70),(3,60),(4,85),(5,75),(6,65),(7,55),(8,255)]))
     let v : Serve := (mv 0x42)
     s.regs.wf = true ∧ 0 < 2 ∧ v.box < 8 ∧ v.half < 2 ∧ (s.core 0).cur = some v ∧ s.mainsOn = true ∧ v.opc = 66 ∧
     thermBad (s.arg v 0 8) = none) := by decide +kernel

theorem test_witness_GranaryAndPowerAreSet_5 :
    (let s : State := (mb up 0x42 (ar [(0,90),(1,80),(2,80),(3,60),(4,85),(5,75),(6,65),(7,55),(8,255)]))
     let v : Serve := (mv 0x42)
     s.regs.wf = true ∧ 0 < 2 ∧ v.box < 8 ∧ v.half < 2 ∧ (s.core 0).cur = some v ∧ s.mainsOn = true ∧ v.opc = 66 ∧
     thermBad (s.arg v 0 8) = some 1) := by decide +kernel

theorem test_witness_BrakeAndTallyAreSet :
    (let s : State := (mb up 0x50 (ar [(0,24),(1,2)]))
     let v : Serve := (mv 0x50)
     s.regs.wf = true ∧ 0 < 2 ∧ v.box < 8 ∧ v.half < 2 ∧ (s.core 0).cur = some v ∧ s.mainsOn = true ∧ v.opc = 80 ∧
     ((srcRow ((fun i => s.arg v i 1) 0)).isSome = true) ∧ (s.sevMay ((fun i => s.arg v i 1) 0) ((fun i => s.arg v i 1) 1) = true))
    ∧
    (let s : State := (mb up 0x50 (ar [(0,41),(1,0)]))
     let v : Serve := (mv 0x50)
     s.regs.wf = true ∧ 0 < 2 ∧ v.box < 8 ∧ v.half < 2 ∧ (s.core 0).cur = some v ∧ s.mainsOn = true ∧ v.opc = 80 ∧
     ((srcRow ((fun i => s.arg v i 1) 0)).isSome = true) ∧ (s.sevMay ((fun i => s.arg v i 1) 0) ((fun i => s.arg v i 1) 1) = false)) := by decide +kernel

theorem test_witness_BrakeAndTallyAreSet_2 :
    (let s : State := (mb pd 0x51 (ar [(0,24),(4,5)]))
     let v : Serve := (mv 0x51)
     s.regs.wf = true ∧ 0 < 2 ∧ v.box < 8 ∧ v.half < 2 ∧ (s.core 0).cur = some v ∧ s.mainsOn = true ∧ v.opc = 81 ∧
     ((srcRow ((fun i => s.arg v i 1) 0)).isSome = true))
    ∧
    (let s : State := (mb (inLc up 1) 0x52 (ar [(0,24),(1,31),(2,0),(3,1)]))
     let v : Serve := (mv 0x52)
     s.regs.wf = true ∧ 0 < 2 ∧ v.box < 8 ∧ v.half < 2 ∧ (s.core 0).cur = some v ∧ s.mainsOn = true ∧ v.opc = 82 ∧
     (pairExists ((fun i => s.arg v i 1) 0) ((fun i => s.arg v i 1) 1) = true) ∧ ((fun i => s.arg v i 1) 2 ≤ 2) ∧
     ((fun i => s.arg v i 1) 3 ≤ 1) ∧ ((fun i => s.arg v i 1) 4 = 0) ∧ s.brk.inj = none ∧
     (s.pairLive ((fun i => s.arg v i 1) 0) ((fun i => s.arg v i 1) 1) = true) ∧
     (s.brk.broken.get false (pairKey ((fun i => s.arg v i 1) 0) ((fun i => s.arg v i 1) 1)) = false)) := by decide +kernel

theorem test_witness_BrakeAndTallyAreSet_3 :
    (let s : State := (mb (inLc up 1) 0x52 (ar [(0,41),(1,0),(2,2),(3,0),(4,1)]))
     let v : Serve := (mv 0x52)
     s.regs.wf = true ∧ 0 < 2 ∧ v.box < 8 ∧ v.half < 2 ∧ (s.core 0).cur = some v ∧ s.mainsOn = true ∧ v.opc = 82 ∧
     (pairExists ((fun i => s.arg v i 1) 0) ((fun i => s.arg v i 1) 1) = true) ∧ ((fun i => s.arg v i 1) 2 ≤ 2) ∧
     ((fun i => s.arg v i 1) 3 ≤ 1) ∧ ((fun i => s.arg v i 1) 4 = 1))
    ∧
    (let s : State := (mb fbr 0x52 (ar [(0,24),(1,3),(2,1),(3,0)]))
     let v : Serve := (mv 0x52)
     s.regs.wf = true ∧ 0 < 2 ∧ v.box < 8 ∧ v.half < 2 ∧ (s.core 0).cur = some v ∧ s.mainsOn = true ∧ v.opc = 82 ∧
     (pairExists ((fun i => s.arg v i 1) 0) ((fun i => s.arg v i 1) 1) = true) ∧ ((fun i => s.arg v i 1) 2 ≤ 2) ∧
     ((fun i => s.arg v i 1) 3 ≤ 1) ∧ ((fun i => s.arg v i 1) 4 = 0) ∧ s.brk.inj = none ∧
     (s.pairLive ((fun i => s.arg v i 1) 0) ((fun i => s.arg v i 1) 1) = false ∨ s.brk.broken.get false (pairKey ((fun i => s.arg v i 1) 0) ((fun i => s.arg v i 1) 1)) = true)) := by decide +kernel

theorem test_witness_BrakeAndTallyAreSet_4 :
    (let s : State := (mb (up.fset Fld.BRK_HIST_STAT_FROZEN 1) 0x53 0)
     let v : Serve := (mv 0x53)
     s.regs.wf = true ∧ 0 < 2 ∧ v.box < 8 ∧ v.half < 2 ∧ (s.core 0).cur = some v ∧ s.mainsOn = true ∧ v.opc = 83)
    ∧
    (let s : State := (mb up 0x60 (ar [(0,3),(4,0xFF),(5,0xFF),(6,0xFF),(7,0xFF)]))
     let v : Serve := (mv 0x60)
     s.regs.wf = true ∧ 0 < 2 ∧ v.box < 8 ∧ v.half < 2 ∧ (s.core 0).cur = some v ∧ s.mainsOn = true ∧ v.opc = 96 ∧
     ((fun i => s.arg v i 1) 0 ≤ 3) ∧ (∀ h ∈ halvesOf ((fun i => s.arg v i 1) 0), s.domainOn (70 + h) = true)) := by decide +kernel

theorem test_witness_BrakeAndTallyAreSet_5 :
    (let s : State := (mb up 0x61 (ar [(0,1),(8,1),(12,4)]))
     let v : Serve := (mv 0x61)
     s.regs.wf = true ∧ 0 < 2 ∧ v.box < 8 ∧ v.half < 2 ∧ (s.core 0).cur = some v ∧ s.mainsOn = true ∧ v.opc = 97 ∧
     ((fun i => s.arg v i 1) 0 ≤ 1) ∧ (s.domainOn (70 + (fun i => s.arg v i 1) 0) = true) ∧
     s.ringOk (limitWord Reg.TLY_RING (BitVec.ofNat 64 (s.arg v 8 8))) = true)
    ∧
    (let s : State := (mb up 0x61 (ar [(0,1),(8,0xFF),(9,0xFF),(10,0xFF),(11,0xFF),(12,0xFF),(13,0xFF),(14,0xFF),(15,0xFF)]))
     let v : Serve := (mv 0x61)
     s.regs.wf = true ∧ 0 < 2 ∧ v.box < 8 ∧ v.half < 2 ∧ (s.core 0).cur = some v ∧ s.mainsOn = true ∧ v.opc = 97 ∧
     ((fun i => s.arg v i 1) 0 ≤ 1) ∧ (s.domainOn (70 + (fun i => s.arg v i 1) 0) = true) ∧
     s.ringOk (limitWord Reg.TLY_RING (BitVec.ofNat 64 (s.arg v 8 8))) = false) := by decide +kernel

theorem test_witness_BrakeAndTallyAreSet_6 :
    (let s : State := (mb up 0x62 (ar [(0,255),(1,255),(2,255)]))
     let v : Serve := (mv 0x62)
     s.regs.wf = true ∧ 0 < 2 ∧ v.box < 8 ∧ v.half < 2 ∧ (s.core 0).cur = some v ∧ s.mainsOn = true ∧ v.opc = 98)
    ∧
    (let s : State := (mb up 0x63 (ar [(0,0),(4,255),(5,255)]))
     let v : Serve := (mv 0x63)
     s.regs.wf = true ∧ 0 < 2 ∧ v.box < 8 ∧ v.half < 2 ∧ (s.core 0).cur = some v ∧ s.mainsOn = true ∧ v.opc = 99 ∧
     ((fun i => s.arg v i 1) 0 ≤ 1) ∧ s.arg v 4 4 < s.heatGroups ∧ s.heatGroups ≤ 2 ^ 17 ∧
     (s.domainOn (70 + (fun i => s.arg v i 1) 0) = true) ∧ ((fun i => s.arg v i 1) 1 = 0)) := by decide +kernel

theorem test_witness_BrakeAndTallyAreSet_7 :
    (let s : State := (mb up 0x63 (ar [(0,0),(1,1),(4,254),(5,255),(8,5),(55,255)]))
     let v : Serve := (mv 0x63)
     s.regs.wf = true ∧ 0 < 2 ∧ v.box < 8 ∧ v.half < 2 ∧ (s.core 0).cur = some v ∧ s.mainsOn = true ∧ v.opc = 99 ∧
     ((fun i => s.arg v i 1) 0 ≤ 1) ∧ s.arg v 4 4 < s.heatGroups ∧ s.heatGroups ≤ 2 ^ 17 ∧
     (s.domainOn (70 + (fun i => s.arg v i 1) 0) = true) ∧ ((fun i => s.arg v i 1) 1 = 1) ∧
     ((s.tly ((fun i => s.arg v i 1) 0)).heat.wf = true) ∧ 12 ≤ s.heatGroups) := by decide +kernel
end Sys2Proof.Tests.Boxes2

/-! ## Witnesses: Millmark, TAP, I3C and resets -/
namespace Sys2Proof.Tests.Mark
def rR : State := { up with mmk := { up.mmk with respR := some 9, nonce := some 4, nonceAt := 0 } }
def cd2 : State := let s := inLc up 2; { s with mmk := { s.mmk with cand := some [1,2,3] } }
def p1 : State := let t := mb up 0x77 3; t.setCore 0 { t.core 0 with parts := 1 }
def self : State := let t := bgd (mb up 0x76 7) 0x76; t.setCore 0 { t.core 0 with bgAux := 7 }
def selfD : State := { self with fuse := { self.fuse with uid := 5 } }
def tp (l : Nat) (im : Bool) : State := let s := inLc up l; { s with tst := { s.tst with acc1149 := true, acc1838 := true, inmode := im } }
def nc : State := let s := inLc up 1; { s with fuse := { s.fuse with certsDone := false } }
def at_ (v n : Bool) (l : Nat) (bad : Bool) : State := let s := (inLc up l).fset Fld.MIL_I3C_CFG_ATT_EN 1; { s with i3c := { s.i3c with spdmVer := v, spdmNeg := n }, mmk := { s.mmk with cryptoBad := bad } }
def attOn : State := up.fset Fld.MIL_I3C_CFG_ATT_EN 1
def attOff : State := up.fset Fld.MIL_I3C_CFG_ATT_EN 0
def noAdr : State := { attOn with i3c := { up.i3c with mgmtAddr := none, attAddr := none } }
def pendS (k : ResetKind) (a : Nat) : State := { up with boot := { up.boot with pend := some k, settle := some a } }
def hold0 : State := let s := r0 { raceUp with wq := [{ qid := 1, addr := 0, data := 0xFFFF, psn := false, epoch := 0, cls := 2, since := 0 }], nextQ := 2 }; { s with boot := { s.boot with pend := some (.race 3), settle := some 5 } }
def rstRace : Race := { raceUp with inReset := true, run := false }
def upR : State := { up with races := ⟨(List.range 32).map (fun r => (r, if r = 16 ∨ r = 0 then rstRace else {}))⟩ }
def rdy (k : ResetKind) : State := { upR with boot := { up.boot with pend := some k, settle := some 5, settled := true } }
def rdyW : State := { rdy .warm with races := {} }
def inR (k : ResetKind) : State := { up with boot := { up.boot with inReset := some k } }

theorem test_witness_MillmarkCommandsRun :
    (let s : State := (mb up 0x70 0)
     let v : Serve := (mv 0x70)
     s.regs.wf = true ∧ 0 < 2 ∧ v.box < 8 ∧ v.half < 2 ∧ (s.core 0).cur = some v ∧ s.mmk.cryptoBad = false ∧ v.opc = 112)
    ∧
    (let s : State := (mb up 0x71 (ar [(8, 5), (55, 255)]))
     let v : Serve := (mv 0x71)
     s.regs.wf = true ∧ 0 < 2 ∧ v.box < 8 ∧ v.half < 2 ∧ (s.core 0).cur = some v ∧ s.mmk.cryptoBad = false ∧ v.opc = 113 ∧ s.arg v 0 1 = 0) := by decide +kernel

theorem test_witness_MillmarkCommandsRun_2 :
    (let s : State := { rR with mmk := { rR.mmk with nonce := some 5 }, clk := { up.clk with age := 900000000 } }
     let v : Serve := (mv 0x71)
     s.regs.wf = true ∧ 0 < 2 ∧ v.box < 8 ∧ v.half < 2 ∧ s.mmk.nonce = some 5 ∧ s.mmk.nonceAt + msTurns 30000 ≤ s.clk.age)
    ∧
    (let s : State := (mb rR 0x71 (ar [(0, 1), (8, 5), (55, 255)]))
     let v : Serve := (mv 0x71)
     s.regs.wf = true ∧ 0 < 2 ∧ v.box < 8 ∧ v.half < 2 ∧ (s.core 0).cur = some v ∧ s.mmk.cryptoBad = false ∧ v.opc = 113 ∧ s.arg v 0 1 = 1 ∧
     s.mmk.respR = some 9) := by decide +kernel

theorem test_witness_MillmarkCommandsRun_3 :
    (let s : State := (mb (inLc up 2) 0x72 (ar [(0, 48), (8, 5), (55, 255)]))
     let v : Serve := (mv 0x72)
     s.regs.wf = true ∧ 0 < 2 ∧ v.box < 8 ∧ v.half < 2 ∧ (s.core 0).cur = some v ∧ s.mmk.cryptoBad = false ∧ v.opc = 114 ∧ 8 ≤ s.arg v 0 1 ∧
     s.arg v 0 1 ≤ 48 ∧ s.ld.lc = 2)
    ∧
    (let s : State := (mb (inLc up 3) 0x72 (ar [(0, 8), (8, 5), (55, 255)]))
     let v : Serve := (mv 0x72)
     s.regs.wf = true ∧ 0 < 2 ∧ v.box < 8 ∧ v.half < 2 ∧ (s.core 0).cur = some v ∧ s.mmk.cryptoBad = false ∧ v.opc = 114 ∧ 8 ≤ s.arg v 0 1 ∧
     s.arg v 0 1 ≤ 48 ∧ s.ld.lc = 3 ∧ s.mmk.fails < 8) := by decide +kernel

theorem test_witness_MillmarkCommandsRun_4 :
    (let s : State := (mb (inLc up 1) 0x72 (ar [(0, 8), (8, 5), (55, 255)]))
     let v : Serve := (mv 0x72)
     s.regs.wf = true ∧ 0 < 2 ∧ v.box < 8 ∧ v.half < 2 ∧ (s.core 0).cur = some v ∧ s.mmk.cryptoBad = false ∧ v.opc = 114 ∧ 8 ≤ s.arg v 0 1 ∧
     s.arg v 0 1 ≤ 48 ∧ s.ld.lc ≠ 2 ∧ s.ld.lc ≠ 3)
    ∧
    (let s : State := (mb up 0x73 0)
     let v : Serve := (mv 0x73)
     s.regs.wf = true ∧ 0 < 2 ∧ v.box < 8 ∧ v.half < 2 ∧ (s.core 0).cur = some v ∧ s.mmk.cryptoBad = false ∧ v.opc = 115) := by decide +kernel

theorem test_witness_MillmarkCommandsRun_5 :
    (let s : State := (mb cd2 0x74 3)
     let v : Serve := (mv 0x74)
     s.regs.wf = true ∧ 0 < 2 ∧ v.box < 8 ∧ v.half < 2 ∧ (s.core 0).cur = some v ∧ s.mmk.cryptoBad = false ∧ v.opc = 116 ∧ s.arg v 0 1 ≤ 5 ∧
     s.fuse.lcNext = none ∧ s.mayAdvance (s.arg v 0 1) = true ∧ s.gov.ps = PState.run ∧ s.gov.lowX = false ∧ s.gov.alert = false ∧
     (s.ld.lc ≠ 0 ∨ s.fuse.keyVoid < 2))
    ∧
    (let s : State := (mb (inLc up 3) 0x77 3)
     let v : Serve := (mv 0x77)
     s.regs.wf = true ∧ 0 < 2 ∧ v.box < 8 ∧ v.half < 2 ∧ (s.core 0).cur = some v ∧ s.mmk.cryptoBad = false ∧ v.opc = 119 ∧ s.arg v 0 1 ≤ 3 ∧
     s.openByState = false ∧ (s.core 0).parts = 0) := by decide +kernel

theorem test_witness_MillmarkCommandsRun_6 :
    (let s : State := p1
     let v : Serve := (mv 0x77)
     s.regs.wf = true ∧ 0 < 2 ∧ v.box < 8 ∧ v.half < 2 ∧ (s.core 0).cur = some v ∧ s.mmk.cryptoBad = false ∧ v.opc = 119 ∧ s.arg v 0 1 ≤ 3 ∧
     (s.core 0).parts = 1)
    ∧
    (let s : State := self
     let v : Serve := (mv 0x76)
     s.regs.wf = true ∧ 0 < 2 ∧ v.box < 8 ∧ v.half < 2 ∧ (s.core 0).bg = some v ∧ v.opc = 118 ∧ bit (s.core 0).bgAux 0 = true ∧
     bit (s.core 0).bgAux 1 = true ∧ s.pairLive 1 0 = true ∧ s.brk.cause.get false (pairKey 1 0) = false ∧ s.heldPair 1 0 = false ∧
     bit (s.core 0).bgAux 2 = true) := by decide +kernel

theorem test_witness_TapInstructionsRun :
    (let s : State := (tp 1 true)
     s.boot.aonDown = false ∧ s.regs.wf = true ∧ s.acc1149 = true ∧ s.tst.inmode = true ∧ s.acc1838 = true ∧ s.openByState = true ∧
     s.mainsOn = true ∧ s.ld.lc ≠ 0 ∧ (s.ld.lc ≠ 1 ∨ s.fuse.certsDone = true) ∧ s.ld.lc = 1)
    ∧
    (let s : State := (tp 3 true)
     s.boot.aonDown = false ∧ s.regs.wf = true ∧ s.openByState = false ∧ s.ld.lc ≠ 1) := by decide +kernel

theorem test_witness_TapInstructionsRun_2 :
    (let s : State := up
     s.boot.aonDown = false ∧ s.regs.wf = true ∧ s.acc1149 = false ∧ (s.acc1149 = false ∨ s.acc1838 = false))
    ∧
    (let s : State := (inLc up 0)
     s.boot.aonDown = false ∧ s.regs.wf = true ∧ s.ld.lc = 0) := by decide +kernel

theorem test_witness_TapInstructionsRun_3 :
    (let s : State := nc
     s.boot.aonDown = false ∧ s.regs.wf = true ∧ s.ld.lc = 1 ∧ s.fuse.certsDone = false) := by decide +kernel

theorem test_witness_AttestationAnswers :
    (let s : State := (at_ false false 0 false)
     s.attUp = true ∧ (s.hostService = false ∨ s.mmk.cryptoBad = true))
    ∧
    (let s : State := (at_ false false 3 false)
     s.attUp = true ∧ s.hostService = true ∧ s.mmk.cryptoBad = false ∧ s.i3c.spdmVer = false ∧ s.i3c.spdmNeg = false) := by decide +kernel

theorem test_witness_AttestationAnswers_2 :
    (let s : State := (at_ true false 3 false)
     s.attUp = true ∧ s.hostService = true ∧ s.mmk.cryptoBad = false ∧ s.i3c.spdmVer = true)
    ∧
    (let s : State := (at_ true true 3 false)
     s.attUp = true ∧ s.hostService = true ∧ s.mmk.cryptoBad = false ∧ s.i3c.spdmNeg = true ∧ 0 = 0 ∧ 1 ≤ 1 ∧ 1 ≤ 4 ∧ false = false ∧
     1 ≠ 0 ∧ 4 < 5 ∧ 5 ≠ 255) := by decide +kernel

theorem test_witness_I3cBusCommandsAct :
    (let s : State := attOn
     let def_ : Byte := 0
     s.regs.wf = true ∧ s.boot.aonDown = false ∧ s.i3c.hdr = false ∧ s.i3c.slotOk = true ∧ s.i3c.mgmtAddr.isSome = true ∧
     s.i3c.attAddr.isSome = true ∧ s.awake = true ∧ PState.of 1 = some PState.idle ∧ s.mainsOn = true ∧ s.gov.entry = none ∧
     s.brk.safe = false ∧ s.gov.alert = false ∧ PState.idle ≠ PState.run ∧ PState.idle ≠ s.gov.ps ∧ s.gov.drain = false ∧
     s.boot.pend = none ∧ def_ ≠ 165)
    ∧
    (let s : State := attOff
     s.regs.wf = true ∧ s.boot.aonDown = false ∧ s.i3c.hdr = false ∧ s.i3c.slotOk = true ∧ s.fheld Fld.MIL_I3C_CFG_ATT_EN = 0) := by decide +kernel

theorem test_witness_I3cBusCommandsAct_2 :
    (let s : State := noAdr
     s.regs.wf = true ∧ s.boot.aonDown = false ∧ s.i3c.hdr = false ∧ s.i3c.slotOk = true ∧ s.i3c.mgmtAddr = none ∧
     s.fheld Fld.MIL_I3C_CFG_ATT_EN = 1 ∧ s.i3c.attAddr = none)
    ∧
    (let s : State := { up with i3c := { up.i3c with slotOk := false } }
     s.regs.wf = true ∧ s.boot.aonDown = false ∧ s.i3c.hdr = false ∧ s.i3c.slotOk = false) := by decide +kernel

theorem test_witness_I3cBusCommandsAct_3 :
    (let s : State := (inPs .furl)
     s.regs.wf = true ∧ s.boot.aonDown = false ∧ s.i3c.hdr = false ∧ s.awake = false ∧
     (s.gov.ps = PState.furl ∨ s.gov.ps = PState.fullFurl ∨ s.gov.ps = PState.off) ∧ s.gov.entry = none ∧ s.gov.wake = none ∧
     s.wakeOn 1 = true) := by decide +kernel

theorem test_witness_ResetsAreAskedAndSettle :
    (let s : State := up
     s.regs.wf = true ∧ 1000 ≤ 1000 ∧ s.awake = true ∧ s.mainsOn = true ∧ s.gov.drain = false ∧ s.boot.pend = none ∧ 500 ≤ 999 ∧
     999 < 1000 ∧ 499 < 500)
    ∧
    (let s : State := (inPs .furl)
     s.regs.wf = true ∧ s.awake = false) := by decide +kernel

theorem test_witness_ResetsAreAskedAndSettle_2 :
    (let s : State := { up with mil := { up.mil with softAt := some (up.clk.age - 64) } }
     s.regs.wf = true ∧ s.mil.softAt = some (up.clk.age - 64) ∧ up.clk.age - 64 + 64 ≤ s.clk.age ∧ s.awake = true ∧ s.mainsOn = true ∧
     s.gov.drain = false ∧ s.brk.safe = false ∧ s.boot.pend = none)
    ∧
    (let s : State := (pendS .warm (up.clk.age - 3))
     s.regs.wf = true ∧ s.boot.pend = some ResetKind.warm ∧ s.boot.settle.isSome = true ∧ s.boot.settled = false ∧ s.boot.after = none ∧
     (∀ r ∈ ResetKind.warm.races, s.holding ResetKind.warm r = false ∧ ((s.race r).isoAt = none ∨ (s.race r).isoDrop = true))) := by decide +kernel

theorem test_witness_ResetsAreAskedAndSettle_3 :
    (let s : State := (pendS (.race 3) (up.clk.age - 256))
     s.regs.wf = true ∧ s.boot.pend = some (ResetKind.race 3) ∧ s.boot.settle = some (up.clk.age - 256) ∧ s.boot.settled = false ∧
     s.boot.after = none ∧ up.clk.age - 256 + 256 ≤ s.clk.age) := by decide +kernel

theorem test_witness_ResetsActAndRelease :
    (let s : State := { up with boot := { up.boot with aonDown := true } }
     s.regs.wf = true ∧ s.boot.aonDown = true)
    ∧
    (let s : State := (rdy .half)
     s.regs.wf = true ∧ s.boot.pend = some ResetKind.half ∧ s.boot.settled = true ∧ s.boot.inReset = none ∧ s.handed (halfRaces 1) = true ∧
     s.lcPower = false ∧ s.mil.east.cur = none ∧ s.mil.west.cur = none ∧ s.mil.east.bg = none ∧ s.mil.west.bg = none ∧ s.lay.split = false ∧
     s.mods.wf = true) := by decide +kernel

theorem test_witness_ResetsActAndRelease_2 :
    (let s : State := (rdy (.race 3))
     s.regs.wf = true ∧ s.boot.pend = some (ResetKind.race 3) ∧ 0 < 32 ∧ bit 3 0 = true ∧ s.boot.settled = true ∧ s.boot.inReset = none ∧
     s.handed [0] = true ∧ s.lcPower = false ∧ bit (retiredMask s.fuse) 0 = false)
    ∧
    (let s : State := (inR .powerOn)
     s.regs.wf = true ∧ s.boot.inReset = some ResetKind.powerOn ∧ s.boot.aonDown = false ∧ s.awake = true) := by decide +kernel

theorem test_witness_ResetsActAndRelease_3 :
    (let s : State := rdyW
     (s.regs.wf = true ∧ s.boot.pend = some ResetKind.warm ∧ s.boot.settled = true ∧ s.boot.inReset = none ∧ s.lcPower = false ∧
     s.armed = false ∧ s.mil.east.cur = none ∧ s.mil.west.cur = none ∧ s.mil.east.bg = none ∧ s.mil.west.bg = none ∧ s.drs.burn = none) ∧
     (∀ (r : ℕ), (s.race r).isoAt = none)) := ⟨by decide +kernel, fun _ => rfl⟩
end Sys2Proof.Tests.Mark

end
end

section
/-!
SUPPORT. The dispatch (Machine/Dispatch.lean): what every command keeps, said once of exec and of step.
-/
namespace Sys2Proof.Machine

/-- What keeps the clock keeps it in its bounds. -/
theorem Tame.anyClk {dr fu ck : Bool} {a t : State} (h : Tame dr fu ck a t) : Tame dr fu false a t :=
  { h with clk := fun e => nomatch e }

theorem tame_anyClk {dr fu ck : Bool} {o : Host.Outcome State Fault Refusal} {a : State} (h : ∃ t, o = .next t ∧ Tame dr fu ck a t) :
    ∃ t, o = .next t ∧ Tame dr fu false a t :=
  h.imp fun _ ht => ⟨ht.1, ht.2.anyClk⟩

/-- Every command answers a next state and is tame: of all commands only those of `storesDram` may change the DRAM content, only those of
`burnsFuses` the fuses. One arm for each command, in the order of the dispatch. -/
theorem exec_tame (c : Instr) (s : State) : ∃ t, exec c s = .next t ∧ Tame (!storesDram c) (!burnsFuses c) false s t :=
  match c with
  | .turnBoundary temps vdd vbk mainFail => execTurnBoundary_out s temps vdd vbk mainFail
  | .alertThermalDecision => execAlertThermalDecision_out s
  | .slotSwapSample => execSlotSwapSample_out s
  | .refreshPlanning => execRefreshPlanning_out s
  | .weirRecalculation => execWeirRecalculation_out s
  | .distribution => execDistribution_out s
  | .turnOverrun win => execTurnOverrun_out s win
  | .govTurnLowRead => execGovTurnLowRead_out s
  | .registerWrite path off w64 val => execRegisterWrite_out s path off w64 val
  | .layLinkReplay dir link good => tame_anyClk (execLayLinkReplay_out s dir link good)
  | .split => execSplit_out s
  | .splitRejoin => tame_anyClk (execSplitRejoin_out s)
  | .stallWatchdogFire half point vc head => execStallWatchdogFire_out s half point vc head
  | .layStallStatusClear half => execLayStallStatusClear_out s half
  | .sluiceDecision at_ mc offers freed => execSluiceDecision_out s at_ mc offers freed
  | .flitReceive m mc flit => execFlitReceive_out s m mc flit
  | .upstreamFlitSend m mc => execUpstreamFlitSend_out s m mc
  | .replayTimeout m => tame_anyClk (execReplayTimeout_out s m)
  | .moduleEnable path m en => execModuleEnable_out s path m en
  | .recal path m => execRecal_out s path m
  | .restart path m => execRestart_out s path m
  | .hostRecalRequest m => tame_anyClk (execHostRecalRequest_out s m)
  | .ucieLinkActive m rate repaired x32 => tame_anyClk (execUcieLinkActive_out s m rate repaired x32)
  | .trainAttemptTimeout m => tame_anyClk (execTrainAttemptTimeout_out s m)
  | .openTimeout m => tame_anyClk (execOpenTimeout_out s m)
  | .recalComplete m repaired => tame_anyClk (execRecalComplete_out s m repaired)
  | .recalTimeout m => tame_anyClk (execRecalTimeout_out s m)
  | .nop id => tame_anyClk (execNop_out s id)
  | .rd id mc => execRd_out s id mc
  | .rdx id mc => execRdx_out s id mc
  | .wr id => tame_anyClk (execWr_out s id)
  | .wrp id => tame_anyClk (execWrp_out s id)
  | .wrn id => tame_anyClk (execWrn_out s id)
  | .wrc id => tame_anyClk (execWrc_out s id)
  | .amo id => tame_anyClk (execAmo_out s id)
  | .barS id => tame_anyClk (execBarS_out s id)
  | .barG id => tame_anyClk (execBarG_out s id)
  | .barD id => tame_anyClk (execBarD_out s id)
  | .mgmt id => execMgmt_out s id
  | .tokenRelease id => tame_anyClk (execTokenRelease_out s id)
  | .tokenApply id => tame_anyClk (execTokenApply_out s id)
  | .tokenAck id => tame_anyClk (execTokenAck_out s id)
  | .millpondDrain id k => tame_anyClk (execMillpondDrain_out s id k)
  | .flumeIdleClose fid => tame_anyClk (execFlumeIdleClose_out s fid)
  | .flumeEntryDrain fid => tame_anyClk (execFlumeEntryDrain_out s fid)
  | .barrierPartResolved half id => tame_anyClk (execBarrierPartResolved_out s half id)
  | .barrierComplete id => tame_anyClk (execBarrierComplete_out s id)
  | .granWrite path gran => execGranWrite_out s path gran
  | .hopLostLogClear path half => execHopLostLogClear_out s path half
  | .hashLock path => execHashLock_out s path
  | .fillOpen race v => tame_anyClk (execFillOpen_out s race v)
  | .fillGrant race v => tame_anyClk (execFillGrant_out s race v)
  | .fillComplete race mc => execFillComplete_out s race mc
  | .wmapClear path half => execWmapClear_out s path half
  | .wmapClearComplete half => tame_anyClk (execWmapClearComplete_out s half)
  | .dramAct race mc pr sid bg bank row => execDramAct_out s race mc pr sid bg bank row
  | .dramRd race mc src => execDramRd_out s race mc src
  | .dramWr race mc src => execDramWr_out s race mc src
  | .dramPre race mc pr sid bg bank => execDramPre_out s race mc pr sid bg bank
  | .refpb race mc pr sid => execRefpb_out s race mc pr sid
  | .refab race mc pr sid => execRefab_out s race mc pr sid
  | .rfm race mc pr sid bg bank => execRfm_out s race mc pr sid bg bank
  | .mrw race mc => execMrw_out s race mc
  | .mrr race mc => execMrr_out s race mc
  | .sre race mc sid => execSre_out s race mc sid
  | .srx race mc sid => execSrx_out s race mc sid
  | .pde race mc => execPde_out s race mc
  | .pdx race mc => execPdx_out s race mc
  | .readBurstReturn race pr mc err => execReadBurstReturn_out s race pr mc err
  | .missingBurst race pr mc => execMissingBurst_out s race pr mc
  | .strayStrobe race pr => tame_anyClk (execStrayStrobe_out s race pr)
  | .fauTake race mc id k => execFauTake_out s race mc id k
  | .fauExecute race mc id k => execFauExecute_out s race mc id k
  | .mrCmd path race val => execMrCmd_out s path race val
  | .mrCmdTimeout race => tame_anyClk (execMrCmdTimeout_out s race)
  | .timingLock path race => execTimingLock_out s path race
  | .plannedRefreshDue race pr slot => execPlannedRefreshDue_out s race pr slot
  | .revocation race pr mc => execRevocation_out s race pr mc
  | .srHandover race mc sid => execSrHandover_out s race mc sid
  | .handoverTimeout race => tame_anyClk (execHandoverTimeout_out s race)
  | .slotSwapRequest path races => execSlotSwapRequest_out s path races
  | .slotDirectWrite path race j val => execSlotDirectWrite_out s path race j val
  | .slotStatBadcodeClear path race => execSlotStatBadcodeClear_out s path race
  | .weirScaledClear path => execWeirScaledClear_out s path
  | .fullTraining race => tame_anyClk (execFullTraining_out s race)
  | .trainingComplete race failed badWindow => tame_anyClk (execTrainingComplete_out s race failed badWindow)
  | .probeResult race pr sid dir lowPass highPass => tame_anyClk (execProbeResult_out s race pr sid dir lowPass highPass)
  | .centreApply race pr sid => tame_anyClk (execCentreApply_out s race pr sid)
  | .trackingLag race => tame_anyClk (execTrackingLag_out s race)
  | .retrainRequest path half idx => execRetrainRequest_out s path half idx
  | .retrainStart half missed errs => tame_anyClk (execRetrainStart_out s half missed errs)
  | .retrainComplete half failed badWindow => execRetrainComplete_out s half failed badWindow
  | .retrainAbort half => tame_anyClk (execRetrainAbort_out s half)
  | .resumeCheck race doubleFail => tame_anyClk (execResumeCheck_out s race doubleFail)
  | .scrubPieceStart half => tame_anyClk (execScrubPieceStart_out s half)
  | .scrubPriorityCheck half => tame_anyClk (execScrubPriorityCheck_out s half)
  | .errorWindowEnd half => tame_anyClk (execErrorWindowEnd_out s half)
  | .qrnUeLogClear path half => execQrnUeLogClear_out s path half
  | .qrnRowLogClear path half => execQrnRowLogClear_out s path half
  | .fuseBurnComplete good => tame_anyClk (execFuseBurnComplete_out s good)
  | .isolationDecision race => tame_anyClk (execIsolationDecision_out s race)
  | .isolationAdmitOff race => tame_anyClk (execIsolationAdmitOff_out s race)
  | .isolationReadsOff race => tame_anyClk (execIsolationReadsOff_out s race)
  | .isolationStoreDrop race => execIsolationStoreDrop_out s race
  | .isolationFinal race => tame_anyClk (execIsolationFinal_out s race)
  | .writeBehindIssue half => execWriteBehindIssue_out s half
  | .driveCommandComplete port cid good => tame_anyClk (execDriveCommandComplete_out s port cid good)
  | .driveCommandTimeout port cid => tame_anyClk (execDriveCommandTimeout_out s port cid)
  | .driveRateWindow port wrRate rdRate => tame_anyClk (execDriveRateWindow_out s port wrRate rdRate)
  | .headroomPress half => tame_anyClk (execHeadroomPress_out s half)
  | .epochAdvance half => tame_anyClk (execEpochAdvance_out s half)
  | .dirtyMapParityError half => tame_anyClk (execDirtyMapParityError_out s half)
  | .resyncComplete half => tame_anyClk (execResyncComplete_out s half)
  | .hoistAttach half ready => tame_anyClk (execHoistAttach_out s half ready)
  | .driveAttachTimeout port => tame_anyClk (execDriveAttachTimeout_out s port)
  | .hoistLoadStart half => tame_anyClk (execHoistLoadStart_out s half)
  | .chunkRestoreComplete half v good => tame_anyClk (execChunkRestoreComplete_out s half v good)
  | .demandFillIssue half v => tame_anyClk (execDemandFillIssue_out s half v)
  | .hoistSeal half => execHoistSeal_out s half
  | .supplyCrossing rail below mv => execSupplyCrossing_out s rail below mv
  | .aonSupplySwitch backupOk => execAonSupplySwitch_out s backupOk
  | .aonSupplyReturn => tame_anyClk (execAonSupplyReturn_out s)
  | .mainFailAssert ns => tame_anyClk (execMainFailAssert_out s ns)
  | .alertEnter => tame_anyClk (execAlertEnter_out s)
  | .alertEnd => tame_anyClk (execAlertEnd_out s)
  | .drainSignal => tame_anyClk (execDrainSignal_out s)
  | .emeasPublish => tame_anyClk (execEmeasPublish_out s)
  | .emeasExpire => tame_anyClk (execEmeasExpire_out s)
  | .capacitanceTestStart => tame_anyClk (execCapacitanceTestStart_out s)
  | .capacitanceTestEnd dv recovered => tame_anyClk (execCapacitanceTestEnd_out s dv recovered)
  | .powerStateRequest half req => tame_anyClk (execPowerStateRequest_out s half req)
  | .autoIdle => tame_anyClk (execAutoIdle_out s)
  | .powerStateEntryComplete => tame_anyClk (execPowerStateEntryComplete_out s)
  | .powerEntryTimeout => tame_anyClk (execPowerEntryTimeout_out s)
  | .padRelease half => tame_anyClk (execPadRelease_out s half)
  | .wakeI3cMatch target => tame_anyClk (execWakeI3cMatch_out s target)
  | .wakeSideband m => tame_anyClk (execWakeSideband_out s m)
  | .wakeNLow ns => tame_anyClk (execWakeNLow_out s ns)
  | .wakeTimer => tame_anyClk (execWakeTimer_out s)
  | .wakeMainsReturn => tame_anyClk (execWakeMainsReturn_out s)
  | .wakeSequence => execWakeSequence_out s
  | .regulatorAck => tame_anyClk (execRegulatorAck_out s)
  | .regulatorAckTimeout why => tame_anyClk (execRegulatorAckTimeout_out s why)
  | .wakeRetry => tame_anyClk (execWakeRetry_out s)
  | .watchSample temps vdd vbk mainFail => tame_anyClk (execWatchSample_out s temps vdd vbk mainFail)
  | .currentSample amps => tame_anyClk (execCurrentSample_out s amps)
  | .brakeRaise src inst detail => tame_anyClk (execBrakeRaise_out s src inst detail)
  | .brokenWire src inst => tame_anyClk (execBrokenWire_out s src inst)
  | .brakePendClear path src mask => execBrakePendClear_out s path src mask
  | .clrRefusedClear path => execClrRefusedClear_out s path
  | .brkSafeClear path => execBrkSafeClear_out s path
  | .histUnfreeze path => execHistUnfreeze_out s path
  | .brkInjGo path val => execBrkInjGo_out s path val
  | .brkInjStop path => execBrkInjStop_out s path
  | .tallySnapshot => tame_anyClk (execTallySnapshot_out s)
  | .tallyDumpStage half => tame_anyClk (execTallyDumpStage_out s half)
  | .bandwidthWindowEnd half => tame_anyClk (execBandwidthWindowEnd_out s half)
  | .sampleCapture half mc => execSampleCapture_out s half mc
  | .sampleRelease path half => execSampleRelease_out s path half
  | .tlyCntLowRead half bank idx => tame_anyClk (execTlyCntLowRead_out s half bank idx)
  | .heatDataAccess path half wr => execHeatDataAccess_out s path half wr
  | .i3cPrivateWrite bytes => execI3cPrivateWrite_out s bytes
  | .i3cPrivateRead len => execI3cPrivateRead_out s len
  | .doorbell path half box => execDoorbell_out s path half box
  | .mailboxServiceStart core => tame_anyClk (execMailboxServiceStart_out s core)
  | .commandComplete core => execCommandComplete_out s core
  | .mailboxRelease path half box => execMailboxRelease_out s path half box
  | .mailboxTimeout half box => execMailboxTimeout_out s half box
  | .ping core => tame_anyClk (execPing_out s core)
  | .getId core => tame_anyClk (execGetId_out s core)
  | .getStatus core => tame_anyClk (execGetStatus_out s core)
  | .fwLoadData core => tame_anyClk (execFwLoadData_out s core)
  | .fwLoadFetch core => tame_anyClk (execFwLoadFetch_out s core)
  | .fwActivate core => tame_anyClk (execFwActivate_out s core)
  | .fwDiscard core => tame_anyClk (execFwDiscard_out s core)
  | .softReset core => tame_anyClk (execSoftReset_out s core)
  | .setStream core => execSetStream_out s core
  | .getStream core => tame_anyClk (execGetStream_out s core)
  | .setGroup core => execSetGroup_out s core
  | .getGroup core => tame_anyClk (execGetGroup_out s core)
  | .setSlots core => execSetSlots_out s core
  | .getSlots core => tame_anyClk (execGetSlots_out s core)
  | .commitSlots core => execCommitSlots_out s core
  | .checkSlots core => tame_anyClk (execCheckSlots_out s core)
  | .retrain core => tame_anyClk (execRetrain_out s core)
  | .repairRow core => tame_anyClk (execRepairRow_out s core)
  | .fuseRepairSoftRow core => tame_anyClk (execFuseRepairSoftRow_out s core)
  | .fuseRepairLane core => tame_anyClk (execFuseRepairLane_out s core)
  | .fuseRepairRetire core => tame_anyClk (execFuseRepairRetire_out s core)
  | .fuseRepairRaw core => tame_anyClk (execFuseRepairRaw_out s core)
  | .fuseRepairRevoke core => tame_anyClk (execFuseRepairRevoke_out s core)
  | .isolateRace core => tame_anyClk (execIsolateRace_out s core)
  | .granStatus core => tame_anyClk (execGranStatus_out s core)
  | .granFormat core => tame_anyClk (execGranFormat_out s core)
  | .setBackup core => tame_anyClk (execSetBackup_out s core)
  | .granLog core => tame_anyClk (execGranLog_out s core)
  | .setPower core => execSetPower_out s core
  | .setPwrCfg core => execSetPwrCfg_out s core
  | .setTherm core => execSetTherm_out s core
  | .getPower core => tame_anyClk (execGetPower_out s core)
  | .setSev core => execSetSev_out s core
  | .clear core => tame_anyClk (execClear_out s core)
  | .inject core => tame_anyClk (execInject_out s core)
  | .injectStop core => tame_anyClk (execInjectStop_out s core)
  | .histRelease core => execHistRelease_out s core
  | .tlySetCfg core => execTlySetCfg_out s core
  | .tlySetRing core => execTlySetRing_out s core
  | .tlySetUser core => execTlySetUser_out s core
  | .tlyHeatRead core => execTlyHeatRead_out s core
  | .tlyHeatWrite core => execTlyHeatWrite_out s core
  | .mmkChallenge core => tame_anyClk (execMmkChallenge_out s core)
  | .mmkResponseR core => tame_anyClk (execMmkResponseR_out s core)
  | .mmkResponseS core => tame_anyClk (execMmkResponseS_out s core)
  | .nonceExpire => tame_anyClk (execNonceExpire_out s)
  | .mmkPassphrase core => tame_anyClk (execMmkPassphrase_out s core)
  | .mmkLock core => tame_anyClk (execMmkLock_out s core)
  | .mmkAdvance core => tame_anyClk (execMmkAdvance_out s core)
  | .mmkCert core => tame_anyClk (execMmkCert_out s core)
  | .selftestCrypto core failed => tame_anyClk (execSelftestCrypto_out s core failed)
  | .selftestWire core badPairs => tame_anyClk (execSelftestWire_out s core badPairs)
  | .selftestFuse core => tame_anyClk (execSelftestFuse_out s core)
  | .testAccess1149 core => tame_anyClk (execTestAccess1149_out s core)
  | .testAccess1838 core => tame_anyClk (execTestAccess1838_out s core)
  | .testModeExit path => execTestModeExit_out s path
  | .bypass tdi => tame_anyClk (execBypass_out s tdi)
  | .idcode => tame_anyClk (execIdcode_out s)
  | .samplePreload pads tdi => tame_anyClk (execSamplePreload_out s pads tdi)
  | .extest pads tdi => tame_anyClk (execExtest_out s pads tdi)
  | .clamp tdi => tame_anyClk (execClamp_out s tdi)
  | .highz tdi => tame_anyClk (execHighz_out s tdi)
  | .dsel dies => tame_anyClk (execDsel_out s dies)
  | .tsvtest captured tdi => tame_anyClk (execTsvtest_out s captured tdi)
  | .tstctl tdi => execTstctl_out s tdi
  | .keyfuse tdi => tame_anyClk (execKeyfuse_out s tdi)
  | .certload tdi => tame_anyClk (execCertload_out s tdi)
  | .pubkey => tame_anyClk (execPubkey_out s)
  | .setEndpointId eid => tame_anyClk (execSetEndpointId_out s eid)
  | .getVersion => tame_anyClk (execGetVersion_out s)
  | .getCapabilities body => tame_anyClk (execGetCapabilities_out s body)
  | .negotiateAlgorithms body => tame_anyClk (execNegotiateAlgorithms_out s body)
  | .getDigests => tame_anyClk (execGetDigests_out s)
  | .getCertificate slot off len => tame_anyClk (execGetCertificate_out s slot off len)
  | .challenge slot body => tame_anyClk (execChallenge_out s slot body)
  | .getMeasurements index signed body => tame_anyClk (execGetMeasurements_out s index signed body)
  | .entdaa target addr => tame_anyClk (execEntdaa_out s target addr)
  | .getstatus => tame_anyClk (execGetstatus_out s)
  | .kyGo => tame_anyClk (execKyGo_out s)
  | .kyPower req => tame_anyClk (execKyPower_out s req)
  | .kyWarm defByte => tame_anyClk (execKyWarm_out s defByte)
  | .kyWake => tame_anyClk (execKyWake_out s)
  | .bootGo path => execBootGo_out s path
  | .attEnWrite path en => execAttEnWrite_out s path en
  | .powerOnReset vauxOk => execPowerOnReset_out s vauxOk
  | .resetRelease slot => tame_anyClk (execResetRelease_out s slot)
  | .wrstNLow ns => tame_anyClk (execWrstNLow_out s ns)
  | .warmResetRequest path => execWarmResetRequest_out s path
  | .halfResetRequest path => execHalfResetRequest_out s path
  | .raceResetRequest path races => execRaceResetRequest_out s path races
  | .softResetStart => tame_anyClk (execSoftResetStart_out s)
  | .settleComplete => execSettleComplete_out s
  | .settleTimeout => execSettleTimeout_out s
  | .warmReset => execWarmReset_out s
  | .halfReset => execHalfReset_out s
  | .raceReset race => execRaceReset_out s race
  | .aonLost => execAonLost_out s
  | .refclkStop => execRefclkStop_out s
  | .pairRailsUnequal src inst => tame_anyClk (execPairRailsUnequal_out s src inst)
  | .enthdr => tame_anyClk (execEnthdr_out s)
  | .hdrExitPattern => tame_anyClk (execHdrExitPattern_out s)
  | .controllerIbiEnable target en => tame_anyClk (execControllerIbiEnable_out s target en)

/-- A tame state, without what it may have kept besides. -/
theorem Tame.weaken {dr fu ck : Bool} {a t : State} (h : Tame dr fu ck a t) : Tame false false false a t :=
  { h with dram := (fun e => nomatch e), fuse := (fun e => nomatch e), clk := (fun e => nomatch e) }

/-- A step is tame but for the queue. -/
theorem step_tame {s t : State} (h : step s = .next t) : Tame false false false { s with pending := t.pending } t := by
  unfold step at h
  split at h
  case h_1 =>
    obtain rfl : s = t := by injection h
    exact Tame.refl s
  case h_2 c rest _ =>
    obtain ⟨v, hv, ht⟩ := exec_tame c { s with pending := rest }
    obtain rfl : v = t := by rw [hv] at h; injection h
    rw [ht.pend]
    exact ht.weaken

theorem State.tidy_iff (s : State) : s.tidy = true ↔ s.regs.wf = true ∧ s.eff.wf = true
    ∧ (s.dram.cells.wf = true ∧ s.dram.zeroed.wf = true ∧ s.dram.wmap.wf = true) ∧ s.clk.mc ≤ 255 ∧ s.clk.turn < 2 ^ 48 := by
  simp only [State.tidy, Dram.wf, Bool.and_eq_true, decide_eq_true_eq, and_assoc]

theorem Tame.tidy {dr fu ck : Bool} {a t : State} (h : Tame dr fu ck a t) (ha : a.tidy = true) : t.tidy = true := by
  obtain ⟨hr, he, ⟨hc, hz, hw⟩, hm, ht⟩ := a.tidy_iff.mp ha
  exact t.tidy_iff.mpr ⟨h.regs hr, h.eff he, ⟨h.cells hc, h.zeroed hz, h.wmap hw⟩, h.mc hm, h.turn ht⟩

end Sys2Proof.Machine
end

section
/-! The obligations on every step. -/
namespace Sys2Proof.Machine

/-- Settles O3: a step is tame, and the queue has no part in tidiness. -/
theorem stepKeepsTidy : Obligations.StepKeepsTidy :=
  fun _ _ hs h => (step_tame h).tidy hs

/-- Settles O6: a step is tame, and the queue holds neither the clock nor the count of free values. -/
theorem timeNeverRunsBack : Obligations.TimeNeverRunsBack :=
  fun _ _ h => ⟨(step_tame h).age, (step_tame h).free⟩

end Sys2Proof.Machine
end

section
/-!
SUPPORT. The answer of an access and its checks (R21, R91): what `State.answered` changes, and what `State.acs` says of an unmapped
offset and of a domain that is off.
-/
namespace Sys2Proof.Machine

variable {s : State} {path : Path}

/-! ### The answer of an access -/

@[simp] theorem State.answered_reply (s : State) (path : Path) (st : Nat) (v : Word) : (s.answered path st v).reply = { mstat := st, val := v } := by
  cases path <;> rfl

/-- An answer changes the reply alone, and over I3C the registers (R411). -/
theorem State.answered_rest (s : State) (path : Path) (st : Nat) (v : Word) :
    ({ s.answered path st v with regs := s.regs, reply := s.reply } : State) = s := by
  cases path <;> rfl

theorem State.answered_ld (s : State) (path : Path) (st : Nat) (v : Word) : (s.answered path st v).ld = s.ld := by
  cases path <;> rfl

/-- An answer leaves every register but MIL_I3C_STAT, and that too except over I3C. -/
theorem State.answered_raw (st : Nat) (v : Word) {r : Reg} {k : Nat} (hw : s.regs.wf = true)
    (hk : path = .i3c → k ≠ Reg.key .MIL_I3C_STAT 0 0) : (s.answered path st v).raw r k = s.raw r k := by
  cases path with
  | i3c => exact State.raw_fset_other _ _ _ _ _ _ _ hw (hk rfl)
  | mgmt m => rfl
  | fw half => rfl

theorem State.answered_i3c_fheld (st : Nat) (v : Word) (hw : s.regs.wf = true) (hst : st < 2 ^ Fld.MIL_I3C_STAT_MSTAT.w) :
    (s.answered .i3c st v).fheld Fld.MIL_I3C_STAT_MSTAT = st :=
  (State.fheld_fset _ _ _ _ _ hw (by decide)).trans (Nat.mod_eq_of_lt hst)

/-! ### The checks of an access -/

/-- No check of the path alone stops an access over it: MGMT_EN is set and the module is not in user mode (R91, R407). -/
def State.pathOpen (s : State) (path : Path) : Prop :=
  ∀ m, path = .mgmt m → s.fheld Fld.HEAD_MOD_CTRL_MGMT_EN m = 1 ∧ bit (s.fheld Fld.TLY_USER_MODS) m = false

/-- Over an open path the checks begin with the mapping. -/
theorem State.acs_pathOpen (hp : s.pathOpen path) (off : Nat) (w64 rd : Bool) : s.acs path off w64 rd =
    match findAcs off w64 with
    | none => .error St.badarg
    | some a =>
      if !s.domainOn (regDomain a.loc) && (rd || !s.enables a.loc) then .error St.offDomain
      else
        let box := a.loc.idx.getD 0 0
        let wrong := match path with | .mgmt _ => decide (box ≥ 6) | .i3c => decide (box < 6) | .fw _ => false
        if a.loc.reg.mailbox && wrong then .error St.denied else .ok a := by
  unfold State.acs
  cases path with
  | mgmt m =>
    obtain ⟨hen, huser⟩ := hp m rfl
    simp only [hen, huser]
    rfl
  | i3c => rfl
  | fw half => rfl

theorem State.acs_unmapped (hp : s.pathOpen path) {off : Nat} {w64 : Bool} (hf : findAcs off w64 = none) (rd : Bool) :
    s.acs path off w64 rd = .error St.badarg := by
  rw [State.acs_pathOpen hp, hf]

theorem State.acs_off (hp : s.pathOpen path) {off : Nat} {w64 rd : Bool} {a : Acs} (hf : findAcs off w64 = some a)
    (hd : s.domainOn (regDomain a.loc) = false) (he : rd = true ∨ s.enables a.loc = false) : s.acs path off w64 rd = .error St.offDomain := by
  have hb : (!s.domainOn (regDomain a.loc) && (rd || !s.enables a.loc)) = true := by
    obtain rfl | he := he <;> simp [*]
  rw [State.acs_pathOpen hp, hf]
  exact if_pos hb

theorem State.enables_reg {l : Loc} (h : s.enables l = true) : l.reg = .HEAD_MOD_CTRL := by
  simp only [State.enables, Bool.and_eq_true, decide_eq_true_eq] at h
  exact h.1

/-- The write of HEAD_MOD_CTRL of a module that its EN alone keeps off passes the checks (R57). -/
theorem State.acs_enables (hp : s.pathOpen path) {off : Nat} {w64 : Bool} {a : Acs} (hf : findAcs off w64 = some a)
    (he : s.enables a.loc = true) : s.acs path off w64 false = .ok a := by
  have hb : (!s.domainOn (regDomain a.loc) && (false || !s.enables a.loc)) = false := by simp [he]
  rw [State.acs_pathOpen hp, hf]
  simp only [hb, State.enables_reg he]
  rfl

theorem State.regWrite_error {off : Nat} {w64 : Bool} {e : Nat} (h : s.acs path off w64 false = .error e) (val : Word) :
    s.regWrite path off w64 val = s.answered path e 0 := by
  simp only [State.regWrite, h]

theorem State.regRead_error {off : Nat} {w64 : Bool} {e : Nat} (h : s.acs path off w64 true = .error e) :
    s.regRead path off w64 = s.answered path e 0 := by
  simp only [State.regRead, h]

/-- A write that its register refuses changes nothing. -/
theorem State.regWrite_refused {off : Nat} {w64 : Bool} {val : Word} {a : Acs} {e : Nat} (h : s.acs path off w64 false = .ok a)
    (hr : s.refuses path a.loc (s.oldWord a.loc)
      (limitWord a.loc.reg (mergeWord a.loc.reg (s.oldWord a.loc) (writtenBits a val).2 (writtenBits a val).1)) (writtenBits a val).2 = some e) :
    s.regWrite path off w64 val = s.answered path e 0 := by
  simp only [State.regWrite, h, hr]

/-- HEAD_MOD_CTRL of a module whose domain is off takes only a write that sets EN (R57). -/
theorem State.refuses_enables {l : Loc} {old new nv : Word} (he : s.enables l = true) (hd : s.domainOn (regDomain l) = false)
    (hn : Fld.HEAD_MOD_CTRL_EN.of new = 0) : s.refuses path l old new nv = some St.offDomain := by
  have hfw : Reg.fwOnly .HEAD_MOD_CTRL = false := by decide
  simp [State.refuses, State.enables_reg he, hfw, hd, hn]

/-- The read of the management target reads over I3C at the pointer (R411). -/
theorem State.i3cRead_eq {off : Nat} {w64 : Bool} (hptr : s.mil.ptr = off) (ha : off % (if w64 then 8 else 4) = 0) :
    s.i3cRead (if w64 then 8 else 4) = s.regRead .i3c off w64 := by
  subst hptr
  cases w64 <;> simp_all [State.i3cRead]

theorem execI3cPrivateRead_up (h : s.i3cUp = true) (len : Nat) : execI3cPrivateRead len s = .next (s.i3cRead len) := by
  simp only [execI3cPrivateRead, when, h, if_true]

theorem State.domainOn_unfitted {m : Nat} (hm : m < 20) (hf : modFitted s.ld m = false) : s.domainOn (32 + m) = false := by
  have h79 : 32 + m ≠ 79 := by omega
  have h32 : ¬ 32 + m < 32 := by omega
  have h52 : 32 + m < 52 := by omega
  have hthere : s.modThere m = false := by simp [State.modThere, hf]
  simp [State.domainOn, h79, h32, h52, hthere]

end Sys2Proof.Machine
end

section
/-! The obligation on unmapped offsets and domains that are off. -/
namespace Sys2Proof.Machine

/-- An unmapped offset, or a register whose domain is off: the answer is st. -/
def State.noAccess (s : State) (off : Nat) (w64 : Bool) (st : Nat) : Prop :=
  (findAcs off w64 = none ∧ st = St.badarg)
    ∨ (∃ a, findAcs off w64 = some a ∧ s.domainOn (regDomain a.loc) = false ∧ st = St.offDomain)

theorem State.noAccess.regRead {s : State} {path : Path} {off : Nat} {w64 : Bool} {st : Nat} (h : s.noAccess off w64 st) (hp : s.pathOpen path) :
    s.regRead path off w64 = s.answered path st 0 := by
  obtain ⟨hf, rfl⟩ | ⟨a, hf, hd, rfl⟩ := h
  · exact State.regRead_error (State.acs_unmapped hp hf true)
  · exact State.regRead_error (State.acs_off hp hf hd (.inl rfl))

/-- A write too, unless it sets the EN that alone keeps its module's domain off. -/
theorem State.noAccess.regWrite {s : State} {path : Path} {off : Nat} {w64 : Bool} {st : Nat} {val : Word} (h : s.noAccess off w64 st)
    (hp : s.pathOpen path)
    (hen : ∀ a, findAcs off w64 = some a → s.enables a.loc = true → Fld.HEAD_MOD_CTRL_EN.of
      (limitWord a.loc.reg (mergeWord a.loc.reg (s.oldWord a.loc) (writtenBits a val).2 (writtenBits a val).1)) = 0) :
    s.regWrite path off w64 val = s.answered path st 0 := by
  obtain ⟨hf, rfl⟩ | ⟨a, hf, hd, rfl⟩ := h
  · exact State.regWrite_error (State.acs_unmapped hp hf false) val
  · cases he : s.enables a.loc with
    | false => exact State.regWrite_error (State.acs_off hp hf hd (.inr he)) val
    | true => exact State.regWrite_refused (State.acs_enables hp hf he) (State.refuses_enables he hd (hen a hf he))

theorem State.noAccess.lt {s : State} {off : Nat} {w64 : Bool} {st : Nat} (h : s.noAccess off w64 st) : st < 2 ^ Fld.MIL_I3C_STAT_MSTAT.w := by
  obtain ⟨-, rfl⟩ | ⟨-, -, -, rfl⟩ := h <;> decide

/-- Settles O40: over an open path the checks of R21 answer the access before it has an effect. -/
theorem unmappedAndOffAreRefused : Obligations.UnmappedAndOffAreRefused := by
  intro s path off w64 val st hw hp (h : s.noAccess off.toNat w64 st)
  refine ⟨fun hen => ⟨_, rfl, ?_⟩, fun hup hptr ha => ?_, ?_, fun m hm hf => State.domainOn_unfitted hm hf⟩
  · rw [h.regWrite hp hen]
    exact ⟨s.answered_reply .., s.answered_rest .., fun r k hk => State.answered_raw st 0 hw hk⟩
  · refine ⟨_, execI3cPrivateRead_up hup _, ?_⟩
    rw [State.i3cRead_eq hptr ha, h.regRead (path := .i3c) (fun _ e => nomatch e)]
    exact ⟨s.answered_reply .., s.answered_rest .., State.answered_i3c_fheld st 0 hw h.lt⟩
  · rw [h.regRead hp]
    exact ⟨s.answered_reply .., s.answered_rest .., fun r k hk => State.answered_raw st 0 hw hk⟩

end Sys2Proof.Machine
end

section
/-!
SUPPORT. The words of the registers (R18): the fields of a register lie apart, so that a word built field by field reads back field by
field, and what `mergeWord` and `limitWord` leave in each.
-/
namespace Sys2Proof.Machine

/-- Two fields without a common bit. -/
def Field.apart (f g : Field) : Prop := f.lo + f.w ≤ g.lo ∨ g.lo + g.w ≤ f.lo

theorem Field.of_lt (f : Field) (x : Word) : f.of x < 2 ^ f.w := Nat.mod_lt _ (Nat.two_pow_pos _)

/-- The fields of every register are its own, lie within 64 bits and share no bit. -/
theorem Reg.fields_fit (r : Reg) : ∀ f ∈ r.fields, f.reg = r ∧ f.lo + f.w ≤ 64 := by
  cases r <;> decide
theorem Reg.fields_pairwise (r : Reg) : r.fields.Pairwise Field.apart := by
  unfold Field.apart
  cases r <;> decide
theorem Reg.fields_apart {r : Reg} {f g : Field} (hf : f ∈ r.fields) (hg : g ∈ r.fields) (h : f ≠ g) : f.apart g :=
  have : Std.Symm Field.apart := ⟨fun _ _ h => h.symm⟩
  r.fields_pairwise.forall hf hg h

theorem Field.of_put_apart {f g : Field} (x : Word) (v : Nat) (h64 : g.lo + g.w ≤ 64) (h : f.apart g) : g.of (f.put x v) = g.of x :=
  Field.of_put_other f g x v h64 h.symm

theorem Field.of_foldl_put_apart {l : List Field} {g : Field} (v : Field → Nat) (h64 : g.lo + g.w ≤ 64) (h : ∀ f ∈ l, f.apart g) (x : Word) :
    g.of (l.foldl (fun w f => f.put w (v f)) x) = g.of x := by
  induction l generalizing x with
  | nil => rfl
  | cons f l ih =>
    rw [List.foldl_cons, ih (fun e he => h e (.tail _ he)), Field.of_put_apart x _ h64 (h f (.head _))]

theorem Field.of_foldl_put {l : List Field} {g : Field} (v : Field → Nat) (hl : l.Pairwise Field.apart) (hg : g ∈ l) (h64 : g.lo + g.w ≤ 64)
    (x : Word) : g.of (l.foldl (fun w f => f.put w (v f)) x) = v g % 2 ^ g.w := by
  induction l generalizing x with
  | nil => cases hg
  | cons f l ih =>
    obtain ⟨hf, hl⟩ := List.pairwise_cons.mp hl
    rw [List.foldl_cons]
    cases hg with
    | head => rw [Field.of_foldl_put_apart v h64 (fun e he => (hf e he).symm), Field.of_put _ _ _ h64]
    | tail _ hg => exact ih hl hg _

/-! ### Merged words (R18) -/

theorem Field.merge_lt {f : Field} {o n m : Nat} (ho : o < 2 ^ f.w) (hn : n < 2 ^ f.w) : f.merge o n m < 2 ^ f.w := by
  unfold Field.merge
  cases f.acc with
  | rw | rwl => exact Nat.or_lt_two_pow (Nat.and_le_left.trans_lt ho) (Nat.and_le_left.trans_lt hn)
  | w1c => exact Nat.and_le_left.trans_lt ho
  | rws => exact Nat.or_lt_two_pow ho (Nat.and_le_left.trans_lt hn)
  | wo => exact Nat.and_le_left.trans_lt hn
  | ro => exact ho

/-- Every field of a merged word is the merge of its own bits. -/
theorem Field.of_mergeWord {r : Reg} {f : Field} (hf : f ∈ r.fields) (old nv mk : Word) :
    f.of (mergeWord r old nv mk) = f.merge (f.of old) (f.of nv) (f.of mk) :=
  (Field.of_foldl_put _ r.fields_pairwise hf (r.fields_fit f hf).2 old).trans (Nat.mod_eq_of_lt (Field.merge_lt (f.of_lt _) (f.of_lt _)))

/-! ### Limits -/

/-- The fields with limits, each with its lowest and its highest value. -/
def limits : List (Field × Nat × Nat) := limits1 ++ limits2 ++ limits3

/-- A limited field is a RW or RWL field of its register, and its limits fit into it. -/
theorem limits_fit : ∀ e ∈ limits, e.1 ∈ e.1.reg.fields ∧ (e.1.acc = .rw ∨ e.1.acc = .rwl) ∧ max e.2.1 e.2.2 < 2 ^ e.1.w := by decide +kernel
theorem limits_nodup : (limits.map Prod.fst).Nodup := by decide +kernel

/-- One limit applied to the word of register r. -/
def limitStep (r : Reg) (w : Word) (e : Field × Nat × Nat) : Word :=
  if e.1.reg = r then e.1.put w (max e.2.1 (min e.2.2 (e.1.of w))) else w

theorem limitWord_eq (r : Reg) (w : Word) : limitWord r w = limits.foldl (limitStep r) w := rfl

theorem limitStep_other {r : Reg} {f : Field} {e : Field × Nat × Nat} (he : e ∈ limits) (hf : f ∈ r.fields) (hne : e.1 ≠ f) (w : Word) :
    f.of (limitStep r w e) = f.of w := by
  unfold limitStep
  split
  next hr => exact Field.of_put_apart _ _ (r.fields_fit f hf).2 (Reg.fields_apart (hr ▸ (limits_fit e he).1) hf hne)
  next => rfl

theorem limitFold_other {r : Reg} {f : Field} {l : List (Field × Nat × Nat)} (hl : ∀ e ∈ l, e ∈ limits) (hf : f ∈ r.fields)
    (hne : ∀ e ∈ l, e.1 ≠ f) (w : Word) : f.of (l.foldl (limitStep r) w) = f.of w := by
  induction l generalizing w with
  | nil => rfl
  | cons e l ih =>
    rw [List.foldl_cons, ih (fun x hx => hl x (.tail _ hx)) (fun x hx => hne x (.tail _ hx)),
      limitStep_other (hl e (.head _)) hf (hne e (.head _))]

theorem limitFold_same {r : Reg} {f : Field} {lo hi : Nat} {l : List (Field × Nat × Nat)} (hl : ∀ e ∈ l, e ∈ limits)
    (hd : (l.map Prod.fst).Nodup) (hf : f ∈ r.fields) (he : (f, lo, hi) ∈ l) (w : Word) :
    f.of (l.foldl (limitStep r) w) = max lo (min hi (f.of w)) := by
  induction l generalizing w with
  | nil => cases he
  | cons e l ih =>
    obtain ⟨hnot, hd⟩ := List.nodup_cons.mp hd
    have hl' : ∀ x ∈ l, x ∈ limits := fun x hx => hl x (.tail _ hx)
    rw [List.foldl_cons]
    cases he with
    | head =>
      have hfit : max lo hi < 2 ^ f.w := (limits_fit _ (hl _ (.head _))).2.2
      rw [limitFold_other hl' hf fun x hx hxf => hnot (List.mem_map.mpr ⟨x, hx, hxf⟩), limitStep, if_pos (r.fields_fit f hf).1,
        Field.of_put _ _ _ (r.fields_fit f hf).2, Nat.mod_eq_of_lt ((max_le_max_left lo (min_le_left hi _)).trans_lt hfit)]
    | tail _ he =>
      have hne : e.1 ≠ f := fun hef => hnot (List.mem_map.mpr ⟨_, he, hef.symm⟩)
      rw [ih hl' hd he, limitStep_other (hl e (.head _)) hf hne]

/-- A field without limits is stored as it is. -/
theorem Field.of_limitWord_free {r : Reg} {f : Field} (hf : f ∈ r.fields) (h : ∀ e ∈ limits, e.1 ≠ f) (w : Word) :
    f.of (limitWord r w) = f.of w :=
  limitFold_other (fun _ he => he) hf h w

/-- A field that is neither RW nor RWL has no limits. -/
theorem Field.of_limitWord_of_acc {r : Reg} {f : Field} (hf : f ∈ r.fields) (hrw : f.acc ≠ .rw) (hrwl : f.acc ≠ .rwl) (w : Word) :
    f.of (limitWord r w) = f.of w :=
  Field.of_limitWord_free hf (fun e he hef => (limits_fit e he).2.1.elim (hef ▸ hrw) (hef ▸ hrwl)) w

/-- A limited field is stored as the nearest value within its limits. -/
theorem Field.of_limitWord_limited {r : Reg} {f : Field} {lo hi : Nat} (hf : f ∈ r.fields) (he : (f, lo, hi) ∈ limits) (w : Word) :
    f.of (limitWord r w) = max lo (min hi (f.of w)) :=
  limitFold_same (fun _ h => h) limits_nodup hf he w

end Sys2Proof.Machine
end

section
/-!
SUPPORT. The register that an access finds (R16, R486): the offset of its word. Only the offset of MIL_I3C_STAT itself leads there, so that
the answer over I3C (R411) disturbs no other register.
-/
namespace Sys2Proof.Machine

/-- The instance of a register that starts at its offset o of half h: what `regAt` tries. -/
def regTry (r : Reg) (o h : Nat) (mir : Bool) : Option Loc :=
  if r.info.base ≤ o then
    match dimIdx r.info.dims (o - r.info.base) with
    | some ix =>
      if r = .TLY_CNT ∧ ix.getD 1 0 ≥ bankSize (ix.getD 0 0) then none
      else some (⟨r, if mir then o else o + h * 0x80000, ix, if mir then 0 else h, mir⟩ : Loc)
    | none => none
  else none

theorem regAt_eq (r : Reg) (off : Nat) : regAt r off =
    match regTry r off 0 false, r.info.kind with
    | some l, _ => some l
    | none, .once => none
    | none, .half => if off ≥ 0x80000 then regTry r (off - 0x80000) 1 false else none
    | none, .mirror => if off ≥ 0x80000 then regTry r (off - 0x80000) 0 true else none := rfl

theorem regTry_some {r : Reg} {o h : Nat} {mir : Bool} {l : Loc} (hl : regTry r o h mir = some l) :
    l.reg = r ∧ l.mirror = mir ∧ l.key = if mir then o else o + h * 0x80000 := by
  unfold regTry at hl
  split at hl
  next =>
    split at hl
    next =>
      split at hl
      next => cases hl
      next => cases hl; exact ⟨rfl, rfl, rfl⟩
    next => cases hl
  next => cases hl

/-- A word is kept at the offset that finds it, that of a mirror at the East one. -/
def Loc.keptAt (l : Loc) (off : Nat) : Prop := off = l.key + if l.mirror then 0x80000 else 0

theorem regAt_keptAt {r : Reg} {off : Nat} {l : Loc} (h : regAt r off = some l) : l.keptAt off := by
  rw [regAt_eq] at h
  unfold Loc.keptAt
  split at h
  next l' _ hl =>
    cases h
    obtain ⟨-, hm, hk⟩ := regTry_some hl
    simp_all
  next => cases h
  next =>
    split at h
    next hoff =>
      obtain ⟨-, hm, hk⟩ := regTry_some h
      simp only [hm, hk, if_false, Bool.false_eq_true]
      omega
    next => cases h
  next =>
    split at h
    next hoff =>
      obtain ⟨-, hm, hk⟩ := regTry_some h
      simp only [hm, hk, if_true]
      omega
    next => cases h

theorem locate_keptAt {off : Nat} {l : Loc} (h : locate off = some l) : l.keptAt off := by
  have aux : ∀ rs : List Reg, findReg rs off = some l → l.keptAt off := by
    intro rs
    induction rs with
    | nil => exact fun h => nomatch h
    | cons r rs ih =>
      intro h
      unfold findReg at h
      split at h
      next _ hr => exact Option.some.inj h ▸ regAt_keptAt hr
      next => exact ih h
  exact aux _ h

/-- An access finds a register where `locate` finds it, at its own offset or for the high half four bytes before. -/
theorem findAcs_locate {off : Nat} {w64 : Bool} {a : Acs} (h : findAcs off w64 = some a) : ∃ o, locate o = some a.loc := by
  unfold findAcs at h
  repeat' split at h
  all_goals cases h
  all_goals exact ⟨_, ‹_›⟩

theorem State.acs_findAcs {s : State} {path : Path} {off : Nat} {w64 rd : Bool} {a : Acs} (h : s.acs path off w64 rd = .ok a) :
    findAcs off w64 = some a := by
  unfold State.acs at h
  extract_lets user closed may at h
  split at h
  next => cases h
  next =>
    split at h
    next => cases h
    next =>
      split at h
      next => cases h
      next b hb =>
        split at h
        next => cases h
        next =>
          extract_lets box wrong at h
          split at h
          next => cases h
          next => cases h; exact hb

theorem locate_i3cStat : locate (Reg.key .MIL_I3C_STAT 0 0) = some ⟨.MIL_I3C_STAT, Reg.key .MIL_I3C_STAT 0 0, [], 0, false⟩ := by decide +kernel
theorem locate_i3cStat_west : locate (Reg.key .MIL_I3C_STAT 0 0 + 0x80000) = none := by decide +kernel

/-- No other register is kept where the answer over I3C goes. -/
theorem Loc.key_ne_i3cStat {l : Loc} {off : Nat} (h : locate off = some l) (hr : l.reg ≠ .MIL_I3C_STAT) :
    l.key ≠ Reg.key .MIL_I3C_STAT 0 0 := by
  intro hk
  have hoff := locate_keptAt h
  unfold Loc.keptAt at hoff
  rw [hk] at hoff
  subst hoff
  cases hm : l.mirror <;> simp only [hm, if_true, if_false, Bool.false_eq_true, Nat.add_zero] at h
  · rw [locate_i3cStat] at h
    exact hr (Option.some.inj h ▸ rfl)
  · rw [locate_i3cStat_west] at h
    cases h

theorem State.acs_key_ne {s : State} {path : Path} {off : Nat} {w64 rd : Bool} {a : Acs} (h : s.acs path off w64 rd = .ok a)
    (hr : a.loc.reg ≠ .MIL_I3C_STAT) : a.loc.key ≠ Reg.key .MIL_I3C_STAT 0 0 :=
  (findAcs_locate (State.acs_findAcs h)).elim fun _ ho => Loc.key_ne_i3cStat ho hr

end Sys2Proof.Machine
end

section
/-!
SUPPORT. A write that is not refused (R18): what is stored, and which registers have no effect beyond their own word.
-/
namespace Sys2Proof.Machine

variable {s : State} {path : Path}

/-- The word that a write of val leaves in the register of the access, within its limits. -/
def State.newWord (s : State) (a : Acs) (val : Word) : Word :=
  limitWord a.loc.reg (mergeWord a.loc.reg (s.raw a.loc.reg a.loc.key) (writtenBits a val).2 (writtenBits a val).1)

/-- Registers whose write has a rule of its own in `regWrite` itself. -/
def Reg.ownRule (r : Reg) : Bool :=
  r ∈ ([.BRK_SRC_CFG, .BRK_SRC_STAT, .GOV_SUP_STAT, .RACE_SLOT_SHD, .RACE_SLOT_ACT, .TLY_RING, .TLY_HEAT_DATA] : List Reg)

theorem Reg.ownRule_false {r : Reg} (h : r.ownRule = false) : r ≠ .BRK_SRC_CFG ∧ r ≠ .BRK_SRC_STAT ∧ r ≠ .GOV_SUP_STAT ∧ r ≠ .RACE_SLOT_SHD
    ∧ r ≠ .RACE_SLOT_ACT ∧ r ≠ .TLY_RING ∧ r ≠ .TLY_HEAT_DATA := by
  simpa [Reg.ownRule] using h

/-- A write that no check and no rule of its own stops is stored and answered OK. -/
theorem State.regWrite_stored {off : Nat} {w64 : Bool} {val : Word} {a : Acs} (h : s.acs path off w64 false = .ok a)
    (hown : a.loc.reg.ownRule = false) (hm : a.loc.mirror = false)
    (hr : s.refuses path a.loc (s.raw a.loc.reg a.loc.key) (s.newWord a val) (writtenBits a val).2 = none) :
    s.regWrite path off w64 val =
      (s.store path a.loc (s.raw a.loc.reg a.loc.key) (s.honoured a.loc (s.raw a.loc.reg a.loc.key) (s.newWord a val))
        (writtenBits a val).2).answered path St.ok 0 := by
  obtain ⟨h1, h2, h3, h4, h5, h6, h7⟩ := Reg.ownRule_false hown
  unfold State.newWord at hr ⊢
  simp [State.regWrite, h, State.oldWord, State.badRing, h1, h2, h3, h4, h5, h6, h7, hm, hr]

/-- Registers whose write has no effect beyond their own word. -/
def plainRegs : List Reg :=
  [.HEAD_MOD_ERR, .FLUME_CFG, .RACE_SCHED_CFG, .RACE_ERR, .RACE_REF_CNT, .SLU_GP_CFG, .QRN_SCRUB_CFG, .QRN_SCRUB_STAT, .QRN_ERR_CFG,
   .QRN_CNT, .HST_CFG, .GOV_BK_CFG, .GOV_AVS_CFG, .BRK_CTRL, .BRK_HIST_STAT, .TLY_HEAT_IDX, .TLY_STAT, .TLY_SAMP1, .HOP_AMAP_CFG,
   .RACE_TIM0, .RACE_TIM1, .RACE_TIM2, .RACE_TIM3, .RACE_TIM4, .RACE_SLOT_STAT, .MIL_BOOT]

theorem plainRegs_ownRule : ∀ r ∈ plainRegs, r.ownRule = false := by decide
theorem State.writeHook_plain {l : Loc} (h : l.reg ∈ plainRegs) (old new nv : Word) : s.writeHook path l old new nv = s := by
  obtain ⟨r, k, ix, half, mir⟩ := l
  fin_cases h <;> rfl
theorem State.honoured_plain {l : Loc} (h : l.reg ∈ plainRegs) (old new : Word) : s.honoured l old new = new := by
  obtain ⟨r, k, ix, half, mir⟩ := l
  fin_cases h <;> rfl

/-- Of a delayed register the word in force is kept beside the new one (R152); other registers have no such copy. -/
theorem State.store_plain {l : Loc} (h : l.reg ∈ plainRegs) (old new nv : Word) :
    ∃ e, s.store path l old new nv = { s.setRaw l.reg l.key new with eff := e } ∧ (l.reg.delayed = false → e = s.eff) := by
  unfold State.store
  dsimp only
  rw [State.writeHook_plain h]
  split
  next hd => exact ⟨_, rfl, fun hn => by simp [hn] at hd⟩
  next => exact ⟨s.eff, rfl, fun _ => rfl⟩

theorem plainRegs_ne_i3cStat : ∀ r ∈ plainRegs, r ≠ .MIL_I3C_STAT := by decide

/-- A write of a plain register that is not refused: OK, the new word, and no other register changes. -/
theorem State.regWrite_plain {off : Nat} {w64 : Bool} {val : Word} {a : Acs} (hw : s.regs.wf = true) (h : s.acs path off w64 false = .ok a)
    (hp : a.loc.reg ∈ plainRegs) (hm : a.loc.mirror = false)
    (hr : s.refuses path a.loc (s.raw a.loc.reg a.loc.key) (s.newWord a val) (writtenBits a val).2 = none) :
    (s.regWrite path off w64 val).reply = { mstat := St.ok, val := 0 }
      ∧ (s.regWrite path off w64 val).raw a.loc.reg a.loc.key = s.newWord a val
      ∧ (a.loc.reg.delayed = false → Wrote path [a.loc.key] s (s.regWrite path off w64 val)) := by
  rw [State.regWrite_stored h (plainRegs_ownRule _ hp) hm hr, State.honoured_plain hp]
  obtain ⟨e, he, hdel⟩ := State.store_plain (s := s) (path := path) hp (s.raw a.loc.reg a.loc.key) (s.newWord a val) (writtenBits a val).2
  obtain ⟨g, hg, hgw, hsame, hother⟩ := s.setRaw_table a.loc.reg a.loc.key (s.newWord a val) hw
  rw [he, hg]
  generalize hu : ({ s with regs := g, eff := e } : State) = u
  have hur : u.regs = g := hu ▸ rfl
  have hul : u.ld = s.ld := hu ▸ rfl
  have huw : u.regs.wf = true := hur.symm ▸ hgw
  refine ⟨u.answered_reply .., ?_, fun hd => ⟨u.answered_reply .., ?_, fun r k hk hi => ?_⟩⟩
  · rw [State.answered_raw _ _ huw fun _ => State.acs_key_ne h (plainRegs_ne_i3cStat _ hp), hsame u hur hul]
  · obtain rfl := hdel hd
    rw [← hu]
    cases path <;> rfl
  · rw [State.answered_raw _ _ huw hi, hother u hur hul r k (by simpa using hk)]

end Sys2Proof.Machine
end

section
/-! The obligations on plain writes and on locked fields. -/
namespace Sys2Proof.Machine

/-- The registers with locked fields (R136, R152). -/
def lockedRegs : List Reg := [.HOP_AMAP_CFG, .RACE_TIM0, .RACE_TIM1, .RACE_TIM2, .RACE_TIM3, .RACE_TIM4]

theorem lockedRegs_plain : ∀ r ∈ lockedRegs, r ∈ plainRegs := by decide

/-- The lock of a register is set. -/
def State.lockSet (s : State) (l : Loc) : Prop :=
  (l.reg = .HOP_AMAP_CFG ∧ s.fheld Fld.HOP_AMAP_CFG_LOCK = 1)
    ∨ (l.reg ∈ [.RACE_TIM0, .RACE_TIM1, .RACE_TIM2, .RACE_TIM3, .RACE_TIM4] ∧ s.fheld Fld.RACE_CTRL_TLOCK (l.idx.getD 0 0) = 1)

theorem State.lockSet.mem {s : State} {l : Loc} (h : s.lockSet l) : l.reg ∈ lockedRegs := by
  obtain ⟨hr, -⟩ | ⟨hr, -⟩ := h
  · simp [hr, lockedRegs]
  · exact .tail _ hr

/-- With its lock set a register is closed to a change of a RWL field, and to nothing else. -/
theorem State.refuses_lockSet {s : State} {l : Loc} (h : s.lockSet l) (path : Path) (old new nv : Word) :
    s.refuses path l old new nv =
      if l.reg.fields.any (fun f => f.acc = .rwl && decide (f.of old ≠ f.of new)) then some St.locked else none := by
  obtain ⟨r, k, ix, half, mir⟩ := l
  obtain ⟨hr, hl⟩ | ⟨hr, hl⟩ := h
  · cases hr
    simp only [State.refuses, State.rwlLocked, State.closedTo, hl, decide_true, Bool.true_and, Bool.or_false]
    rfl
  · fin_cases hr <;>
    · simp only [State.refuses, State.rwlLocked, State.closedTo, hl, decide_true, Bool.true_and, Bool.or_false]
      rfl

/-- Settles O41: with the lock set the only refusal is that of a changed RWL field; any other write is plain. -/
theorem lockedFieldsHold : Obligations.LockedFieldsHold := by
  intro s path off w64 val a hw hacs (hl : s.lockSet a.loc)
  have hp := lockedRegs_plain _ hl.mem
  have hold : s.oldWord a.loc = s.raw a.loc.reg a.loc.key := by
    have h := (Reg.ownRule_false (plainRegs_ownRule _ hp)).2.2.2.2.2.2
    simp [State.oldWord, h]
  dsimp only
  refine ⟨fun ⟨f, hf, hacc, hne⟩ => ⟨_, rfl, ?_⟩, fun hm hsame => ⟨_, rfl, ?_⟩⟩
  · have hany : (a.loc.reg.fields.any fun f => f.acc = .rwl && decide (f.of (s.raw a.loc.reg a.loc.key) ≠ f.of (s.newWord a val))) = true :=
      List.any_eq_true.mpr ⟨f, hf, (Bool.and_eq_true _ _).mpr ⟨decide_eq_true hacc, decide_eq_true hne.symm⟩⟩
    have href : s.refuses path a.loc (s.oldWord a.loc) (limitWord a.loc.reg (mergeWord a.loc.reg (s.oldWord a.loc) (writtenBits a val).2
        (writtenBits a val).1)) (writtenBits a val).2 = some St.locked := by
      rw [hold]
      exact (State.refuses_lockSet hl path _ _ _).trans (if_pos hany)
    rw [State.regWrite_refused hacs href]
    exact ⟨State.answered_reply .., State.answered_raw _ _ hw fun _ => State.acs_key_ne hacs (plainRegs_ne_i3cStat _ hp), State.answered_rest ..⟩
  · have hnone : (a.loc.reg.fields.any fun f => f.acc = .rwl && decide (f.of (s.raw a.loc.reg a.loc.key) ≠ f.of (s.newWord a val))) = false := by
      rw [List.any_eq_false]
      intro f hf hb
      simp only [Bool.and_eq_true, decide_eq_true_eq] at hb
      exact hb.2 (hsame f hf hb.1).symm
    have href : s.refuses path a.loc (s.raw a.loc.reg a.loc.key) (s.newWord a val) (writtenBits a val).2 = none := by
      rw [State.refuses_lockSet hl, hnone]
      rfl
    obtain ⟨h1, h2, -⟩ := State.regWrite_plain hw hacs hp hm href
    exact ⟨h1, h2⟩

/-- A write that passes every check is not refused by the register it reaches. -/
theorem State.grantsWrite_refuses {s : State} {path : Path} {off : Nat} {w64 : Bool} {val : Word} {a : Acs}
    (hg : s.grantsWrite path off w64 val = true) (h : s.acs path off w64 false = .ok a) (hown : a.loc.reg.ownRule = false) :
    s.refuses path a.loc (s.raw a.loc.reg a.loc.key) (s.newWord a val) (writtenBits a val).2 = none := by
  have hne := (Reg.ownRule_false hown).2.2.2.2.2.2
  simp only [State.grantsWrite, h, State.oldWord, hne, if_false, Option.isNone_iff_eq_none] at hg
  exact hg

/-- What a write leaves in a field, before limits: its merge with the written bits. -/
theorem State.of_mergedWord {s : State} {a : Acs} {f : Field} (hf : f ∈ a.loc.reg.fields) (val : Word) :
    f.of (mergeWord a.loc.reg (s.raw a.loc.reg a.loc.key) (writtenBits a val).2 (writtenBits a val).1)
      = f.merge (f.of (s.raw a.loc.reg a.loc.key)) (f.of (writtenBits a val).2) (f.of (writtenBits a val).1) :=
  Field.of_mergeWord hf _ _ _

/-- Settles O43: a plain register takes the merged and limited word, field by field. -/
theorem plainWritesStoreFields : Obligations.PlainWritesStoreFields := by
  intro s path off w64 val a hw hg hacs hm hreg
  have hp := List.mem_of_mem_take (i := 18) (l := plainRegs) hreg
  have hdel : ∀ r ∈ plainRegs.take 18, r.delayed = false := by decide
  obtain ⟨-, hnew, hwrote⟩ := State.regWrite_plain hw hacs hp hm (State.grantsWrite_refuses hg hacs (plainRegs_ownRule _ hp))
  refine ⟨_, rfl, hwrote (hdel _ hreg), fun f hf => ?_⟩
  dsimp only
  rw [hnew]
  have hmerge := State.of_mergedWord (s := s) hf val
  unfold State.newWord
  refine ⟨fun h => ?_, fun h => ?_, fun h => ?_, fun h hfree => ?_, fun h lo hi hlim => ?_⟩
  · rw [Field.of_limitWord_of_acc hf (by simp [h]) (by simp [h]), hmerge, Field.merge, h]
  · rw [Field.of_limitWord_of_acc hf (by simp [h]) (by simp [h]), hmerge, Field.merge, h]
  · rw [Field.of_limitWord_of_acc hf (by simp [h]) (by simp [h]), hmerge, Field.merge, h]
  · rw [Field.of_limitWord_free hf hfree, hmerge, Field.merge, h]
  · rw [Field.of_limitWord_limited hf hlim, hmerge, Field.merge, h]

end Sys2Proof.Machine
end

section
/-!
SUPPORT. Requests for one field (`State.writeField`): the write finds its register, changes that field by its access code and leaves every
other field of the register as held.
-/
namespace Sys2Proof.Machine

variable {s : State} {path : Path} {f : Field} {v i h : Nat} {ix : List Nat}

/-! ### The bits of a written word -/

theorem Reg.fields_narrow (r : Reg) : r.info.wide = false → ∀ f ∈ r.fields, f.lo + f.w ≤ 32 := by
  cases r <;> decide

theorem Field.of_ones {n : Nat} (hn : f.lo + f.w ≤ n) (h64 : n ≤ 64) : f.of (BitVec.ofNat 64 (2 ^ n - 1)) = 2 ^ f.w - 1 := by
  apply Nat.eq_of_testBit_eq
  intro j
  unfold Field.of
  rw [testBit_bits, BitVec.toNat_ofNat, Nat.testBit_mod_two_pow, Nat.testBit_two_pow_sub_one, Nat.testBit_two_pow_sub_one]
  by_cases hj : j < f.w
  · have h1 : f.lo + j < n := by omega
    have h2 : f.lo + j < 64 := by omega
    simp [hj, h1, h2]
  · simp [hj]

theorem Field.of_low (hn : f.lo + f.w ≤ 32) (x : Word) : f.of (BitVec.ofNat 64 (x.toNat % 2 ^ 32)) = f.of x := by
  apply Nat.eq_of_testBit_eq
  intro j
  unfold Field.of
  rw [testBit_bits, testBit_bits, BitVec.toNat_ofNat, Nat.testBit_mod_two_pow, Nat.testBit_mod_two_pow]
  by_cases hj : j < f.w
  · have h1 : f.lo + j < 32 := by omega
    have h2 : f.lo + j < 64 := by omega
    simp [hj, h1, h2]
  · simp [hj]

/-- An access to the whole register reaches every bit of a field. -/
theorem Field.of_writtenBits {l : Loc} (hf : f ∈ l.reg.fields) (val : Word) :
    f.of (writtenBits ⟨l, 0⟩ val).1 = 2 ^ f.w - 1 ∧ f.of (writtenBits ⟨l, 0⟩ val).2 = f.of val := by
  cases hwide : l.reg.info.wide with
  | true =>
    have h1 : BitVec.allOnes 64 = BitVec.ofNat 64 (2 ^ 64 - 1) := by decide
    simp only [writtenBits, hwide, h1]
    exact ⟨Field.of_ones (l.reg.fields_fit f hf).2 (Nat.le_refl _), rfl⟩
  | false =>
    have h32 := l.reg.fields_narrow hwide f hf
    simp only [writtenBits, hwide]
    exact ⟨Field.of_ones h32 (by decide), Field.of_low h32 val⟩

theorem Nat.and_full {x w : Nat} (hx : x < 2 ^ w) : x &&& (2 ^ w - 1) = x := by
  rw [Nat.and_two_pow_sub_one_eq_mod, Nat.mod_eq_of_lt hx]

/-- The merge of a field whose bits are all reached. -/
theorem Field.merge_full {o n : Nat} (hn : n < 2 ^ f.w) : f.merge o n (2 ^ f.w - 1) =
    match f.acc with
    | .rw | .rwl | .wo => n
    | .w1c => o &&& (2 ^ f.w - 1 - n)
    | .rws => o ||| n
    | .ro => o := by
  unfold Field.merge
  cases f.acc <;> simp [Nat.and_full hn]

/-! ### The word of a one-field request -/

/-- What a one-field request writes into the fields that it does not name: what is held, or 0 where writing acts. -/
def Reg.heldWord (r : Reg) (w : Word) : Word :=
  r.fields.foldl (fun (w : Word) x => if x.acc = .rw ∨ x.acc = .rwl then w else x.put w 0) w

theorem Reg.heldWord_eq (r : Reg) (w : Word) :
    r.heldWord w = (r.fields.filter (fun x => !decide (x.acc = .rw ∨ x.acc = .rwl))).foldl (fun (w : Word) x => x.put w 0) w := by
  unfold Reg.heldWord
  rw [List.foldl_filter]
  congr 1
  funext w x
  by_cases hx : x.acc = .rw ∨ x.acc = .rwl <;> simp [hx]

theorem Field.of_heldWord {r : Reg} (hf : f ∈ r.fields) (w : Word) :
    f.of (r.heldWord w) = if f.acc = .rw ∨ f.acc = .rwl then f.of w else 0 := by
  rw [Reg.heldWord_eq]
  have h64 := (r.fields_fit f hf).2
  split
  next hacc =>
    refine Field.of_foldl_put_apart _ h64 (fun g hg => ?_) w
    obtain ⟨hg, hgacc⟩ := List.mem_filter.mp hg
    exact Reg.fields_apart hg hf fun e => by subst e; simp [hacc] at hgacc
  next hacc =>
    rw [Field.of_foldl_put _ (r.fields_pairwise.filter _) (List.mem_filter.mpr ⟨hf, by simp [hacc]⟩) h64]
    exact Nat.zero_mod _

theorem State.oneField_eq (s : State) (f : Field) (v i h : Nat) :
    s.oneField f v i h = f.put (f.reg.heldWord (s.raw f.reg (f.reg.key i h))) v := rfl

/-! ### The register that it reaches -/

/-- Instance i of the field's register in half h, as an access finds it. -/
def Field.loc (f : Field) (ix : List Nat) (i h : Nat) : Loc := ⟨f.reg, f.reg.key i h, ix, h, false⟩

/-- The offset of that instance finds it. -/
def Field.Found (f : Field) (ix : List Nat) (i h : Nat) : Prop :=
  locate (f.reg.key i h) = some (f.loc ix i h) ∧ f.reg.key i h % 8 = 0

theorem Field.Found.findAcs (hl : f.Found ix i h) : findAcs (f.reg.key i h) f.reg.info.wide = some ⟨f.loc ix i h, 0⟩ := by
  obtain ⟨hl, h8⟩ := hl
  have h4 : f.reg.key i h % 4 = 0 := by omega
  cases hwide : f.reg.info.wide <;> simp [Machine.findAcs, hl, h8, h4, Field.loc, hwide]

theorem State.grantsField_acs (hg : s.grantsField path f v i h = true) (hl : f.Found ix i h) :
    s.acs path (f.reg.key i h) f.reg.info.wide false = .ok ⟨f.loc ix i h, 0⟩ := by
  cases ha : s.acs path (f.reg.key i h) f.reg.info.wide false with
  | error e => simp [State.grantsField, State.grantsWrite, ha] at hg
  | ok a => rw [Option.some.inj ((State.acs_findAcs ha).symm.trans hl.findAcs)]

/-- The word that a one-field request leaves, within its limits. -/
def State.fieldWord (s : State) (f : Field) (v i h : Nat) (ix : List Nat) : Word := s.newWord ⟨f.loc ix i h, 0⟩ (s.oneField f v i h)

theorem State.fieldWord_eq (s : State) (f : Field) (v i h : Nat) (ix : List Nat) : s.fieldWord f v i h ix =
    limitWord f.reg (mergeWord f.reg (s.raw f.reg (f.reg.key i h)) (writtenBits ⟨f.loc ix i h, 0⟩ (s.oneField f v i h)).2
      (writtenBits ⟨f.loc ix i h, 0⟩ (s.oneField f v i h)).1) := rfl

/-- The named field is merged with its value. -/
theorem Field.of_fieldWord (hf : f ∈ f.reg.fields) (hfree : ∀ e ∈ limits, e.1 ≠ f) (hv : v < 2 ^ f.w) :
    f.of (s.fieldWord f v i h ix) = f.merge (s.fheld f i h) v (2 ^ f.w - 1) := by
  have hval : f.of (s.oneField f v i h) = v := by
    rw [State.oneField_eq, Field.of_put _ _ _ (f.reg.fields_fit f hf).2, Nat.mod_eq_of_lt hv]
  obtain ⟨hm, hn⟩ := Field.of_writtenBits (l := f.loc ix i h) hf (s.oneField f v i h)
  rw [State.fieldWord_eq, Field.of_limitWord_free hf hfree, Field.of_mergeWord hf, hm, hn, hval]
  rfl

/-- Every other field stays as held. -/
theorem Field.of_fieldWord_other {g : Field} (hf : f ∈ f.reg.fields) (hg : g ∈ f.reg.fields) (hne : f ≠ g) (hfree : ∀ e ∈ limits, e.1 ≠ g)
    (hwo : g.acc ≠ .wo) : g.of (s.fieldWord f v i h ix) = g.of (s.raw f.reg (f.reg.key i h)) := by
  have hval : g.of (s.oneField f v i h) = if g.acc = .rw ∨ g.acc = .rwl then g.of (s.raw f.reg (f.reg.key i h)) else 0 := by
    rw [State.oneField_eq, Field.of_put_apart _ _ (f.reg.fields_fit g hg).2 (Reg.fields_apart hf hg hne), Field.of_heldWord hg]
  obtain ⟨hm, hn⟩ := Field.of_writtenBits (l := f.loc ix i h) hg (s.oneField f v i h)
  have hlt := g.of_lt (s.raw f.reg (f.reg.key i h))
  rw [State.fieldWord_eq, Field.of_limitWord_free hg hfree, Field.of_mergeWord hg, hm, hn, hval,
    Field.merge_full (by split; exacts [hlt, Nat.two_pow_pos _])]
  cases hacc : g.acc with
  | wo => exact absurd hacc hwo
  | w1c => exact Nat.and_full hlt
  | rw | rwl | rws | ro => simp

/-- A one-field request that passes every check is stored and answered OK. -/
theorem State.writeField_stored (hg : s.grantsField path f v i h = true) (hl : f.Found ix i h) (hown : f.reg.ownRule = false) :
    s.writeField path f v i h =
      (s.store path (f.loc ix i h) (s.raw f.reg (f.reg.key i h))
        (s.honoured (f.loc ix i h) (s.raw f.reg (f.reg.key i h)) (s.fieldWord f v i h ix))
        (writtenBits ⟨f.loc ix i h, 0⟩ (s.oneField f v i h)).2).answered path St.ok 0 :=
  have hacs := State.grantsField_acs hg hl
  State.regWrite_stored hacs hown rfl (State.grantsWrite_refuses hg hacs hown)

end Sys2Proof.Machine
end

section
/-!
SUPPORT. One-field requests of the registers that the clears and settings name: what the write stores, and the effects beyond it.
-/
namespace Sys2Proof.Machine

variable {s u : State} {path : Path} {f g : Field} {v i h : Nat} {ix : List Nat} {r : Reg} {k : Nat} {w : Word}

/-- u is s but for the register at k, which holds w. -/
structure Stored (s u : State) (r : Reg) (k : Nat) (w : Word) : Prop where
  rest : ({ u with regs := s.regs } : State) = s
  wf : u.regs.wf = true
  word : u.raw r k = w
  other : ∀ q j, j ≠ k → u.raw q j = s.raw q j

theorem Stored.setRaw (hw : s.regs.wf = true) (r : Reg) (k : Nat) (w : Word) : Stored s (s.setRaw r k w) r k w :=
  ⟨rfl, State.setRaw_wf _ _ _ _ hw, State.raw_setRaw _ _ _ _ hw, fun q _ hj => State.raw_setRaw_other _ _ q _ _ _ hw hj⟩

theorem Stored.again (h : Stored s u r k w) (w' : Word) : Stored s (u.setRaw r k w') r k w' :=
  ⟨h.rest, State.setRaw_wf _ _ _ _ h.wf, State.raw_setRaw _ _ _ _ h.wf,
    fun q j hj => (State.raw_setRaw_other _ _ q _ _ _ h.wf hj).trans (h.other q j hj)⟩

/-- A field written after it, of the same register. -/
theorem Stored.fset (hu : Stored s u f.reg (f.reg.key i h) w) (v : Nat) : Stored s (u.fset f v i h) f.reg (f.reg.key i h) (f.put w v) := by
  rw [State.fset_eq_setRaw, hu.word]
  exact hu.again _

/-- Answered, such a write is what `Wrote` says. -/
theorem Stored.answered (h : Stored s u r k w) (hk : k ≠ Reg.key .MIL_I3C_STAT 0 0) :
    Wrote path [k] s (u.answered path St.ok 0) ∧ (u.answered path St.ok 0).raw r k = w := by
  refine ⟨⟨u.answered_reply .., ?_, fun q j hj hi => ?_⟩, ?_⟩
  · have hrest := congrArg (fun x : State => { x with reply := s.reply }) h.rest
    cases path <;> exact hrest
  · rw [State.answered_raw _ _ h.wf hi, h.other q j (by simpa using hj)]
  · rw [State.answered_raw _ _ h.wf fun _ => hk, h.word]

/-- A register whose write takes effect at once is stored and acted on. -/
theorem State.store_now {l : Loc} (hd : l.reg.delayed = false) (old new nv : Word) :
    s.store path l old new nv = (s.setRaw l.reg l.key new).writeHook path l old new nv := by
  simp [State.store, hd]

theorem State.store_field (hd : f.reg.delayed = false) (old new nv : Word) : s.store path (f.loc ix i h) old new nv =
    (s.setRaw f.reg (f.reg.key i h) new).writeHook path (f.loc ix i h) old new nv := State.store_now hd old new nv

theorem State.grantsField_key_ne (hg : s.grantsField path f v i h = true) (hl : f.Found ix i h) (hne : f.reg ≠ .MIL_I3C_STAT) :
    f.reg.key i h ≠ Reg.key .MIL_I3C_STAT 0 0 := State.acs_key_ne (State.grantsField_acs hg hl) hne

/-! ### The fields of the stored word -/

/-- No field of the register has limits. -/
def Reg.unlimited (r : Reg) : Bool := limits.all (fun e => decide (e.1.reg ≠ r))

theorem Reg.unlimited_free (hr : r.unlimited = true) (hf : f ∈ r.fields) : ∀ e ∈ limits, e.1 ≠ f := by
  intro e he hef
  have := List.all_eq_true.mp hr e he
  simp [hef, (r.fields_fit f hf).1] at this

/-- A request for field f with value v, of a register without limits and without WO fields. -/
structure Field.Asks (f : Field) (v : Nat) : Prop where
  mem : f ∈ f.reg.fields
  fits : v < 2 ^ f.w
  unlimited : f.reg.unlimited = true
  noWo : ∀ g ∈ f.reg.fields, g.acc ≠ .wo

theorem Field.Asks.of_named (ha : f.Asks v) : f.of (s.fieldWord f v i h ix) = f.merge (s.fheld f i h) v (2 ^ f.w - 1) :=
  Field.of_fieldWord ha.mem (Reg.unlimited_free ha.unlimited ha.mem) ha.fits

theorem Field.Asks.of_other (ha : f.Asks v) (hg : g ∈ f.reg.fields) (hne : f ≠ g) :
    g.of (s.fieldWord f v i h ix) = g.of (s.raw f.reg (f.reg.key i h)) :=
  Field.of_fieldWord_other ha.mem hg hne (Reg.unlimited_free ha.unlimited hg) (ha.noWo g hg)

/-- A W1C bit written 1 is cleared. -/
theorem Field.Asks.of_clear (ha : f.Asks 1) (hacc : f.acc = .w1c) (hw : f.w = 1) : f.of (s.fieldWord f 1 i h ix) = 0 := by
  rw [ha.of_named, Field.merge_full ha.fits, hacc, hw]
  exact Nat.and_zero _

/-- A RWS bit written 1 is set. -/
theorem Field.Asks.of_set (ha : f.Asks 1) (hacc : f.acc = .rws) (hw : f.w = 1) : f.of (s.fieldWord f 1 i h ix) = 1 := by
  have hlt : s.fheld f i h < 2 ^ f.w := f.of_lt _
  rw [hw] at hlt
  rw [ha.of_named, Field.merge_full ha.fits, hacc]
  generalize s.fheld f i h = o at hlt
  interval_cases o <;> rfl

/-- A RW field takes the value. -/
theorem Field.Asks.of_value (ha : f.Asks v) (hacc : f.acc = .rw) : f.of (s.fieldWord f v i h ix) = v := by
  rw [ha.of_named, Field.merge_full ha.fits, hacc]

/-- The value as the register's rules see it written. -/
theorem Field.Asks.of_written (ha : f.Asks v) : f.of (writtenBits ⟨f.loc ix i h, 0⟩ (s.oneField f v i h)).2 = v := by
  rw [(Field.of_writtenBits (l := f.loc ix i h) ha.mem _).2, State.oneField_eq, Field.of_put _ _ _ (f.reg.fields_fit f ha.mem).2,
    Nat.mod_eq_of_lt ha.fits]

theorem State.fheld_eq (s : State) (f : Field) (i h : Nat) : s.fheld f i h = f.of (s.raw f.reg (f.reg.key i h)) := rfl

theorem State.fheld_of_raw {t : State} (hg : g ∈ r.fields) (ht : t.raw r (r.key i h) = w) : t.fheld g i h = g.of w := by
  rw [State.fheld_eq, (r.fields_fit g hg).1, ht]

/-! ### Registers without a rule of their own -/

/-- The named field of a plain register holds the merged word's value, and its other fields stand. -/
theorem State.writeField_plain (hw : s.regs.wf = true) (hg : s.grantsField path f v i h = true) (hl : f.Found ix i h) (hp : f.reg ∈ plainRegs)
    (hd : f.reg.delayed = false) (ha : f.Asks v) :
    Wrote path [f.reg.key i h] s (s.writeField path f v i h) ∧ (s.writeField path f v i h).fheld f i h = f.of (s.fieldWord f v i h ix)
      ∧ ∀ g ∈ f.reg.fields, f ≠ g → (s.writeField path f v i h).fheld g i h = s.fheld g i h := by
  have hacs := State.grantsField_acs hg hl
  obtain ⟨-, hraw, hwrote⟩ := State.regWrite_plain hw hacs hp rfl (State.grantsWrite_refuses hg hacs (plainRegs_ownRule _ hp))
  exact ⟨hwrote hd, congrArg f.of hraw, fun g hg hne =>
    ((State.fheld_of_raw hg hraw).trans (ha.of_other hg hne)).trans (State.fheld_of_raw hg rfl).symm⟩

end Sys2Proof.Machine
end

section
/-! The obligation on clears and settings. -/
namespace Sys2Proof.Machine

variable {s : State} {path : Path}

/-- The VALID bits that clear a whole log or record (R52, R129, R306, R389): those with an instance in each half, and that of BRK_SAFE. -/
def logValids : List Field := [Fld.LAY_STALL_STATUS_VALID, Fld.HOP_LOST_LOG_VALID, Fld.QRN_UE_LOG_VALID, Fld.QRN_ROW_LOG_VALID]

theorem found_of_half : ∀ f ∈ [Fld.TLY_SAMP1_VALID, Fld.QRN_WMAP_CFG_CLEAR] ++ logValids, ∀ h < 2, f.Found [] 0 h := by
  unfold Field.Found; decide +kernel
theorem found_once : ∀ f ∈ [Fld.BRK_SAFE_VALID, Fld.BRK_CTRL_CLR_REFUSED, Fld.BRK_HIST_STAT_FROZEN, Fld.WEIR_STATUS_SCALED, Fld.HOP_ORD_CFG_GRAN,
    Fld.HOP_AMAP_CFG_LOCK, Fld.MIL_BOOT_GO, Fld.MIL_I3C_CFG_ATT_EN], f.Found [] 0 0 := by
  unfold Field.Found; decide +kernel
theorem found_of_race : ∀ f ∈ [Fld.RACE_SLOT_STAT_BADCODE, Fld.RACE_CTRL_TLOCK], ∀ race < 32, f.Found [race] race 0 := by
  unfold Field.Found; decide +kernel

/-- Every bit that a clear or a setting names, written 1. -/
theorem asks_one : ∀ f ∈ [Fld.TLY_SAMP1_VALID, Fld.QRN_WMAP_CFG_CLEAR, Fld.BRK_SAFE_VALID, Fld.BRK_CTRL_CLR_REFUSED, Fld.BRK_HIST_STAT_FROZEN,
    Fld.WEIR_STATUS_SCALED, Fld.HOP_AMAP_CFG_LOCK, Fld.MIL_BOOT_GO, Fld.RACE_SLOT_STAT_BADCODE, Fld.RACE_CTRL_TLOCK] ++ logValids, f.Asks 1 := by
  have h : ∀ f ∈ [Fld.TLY_SAMP1_VALID, Fld.QRN_WMAP_CFG_CLEAR, Fld.BRK_SAFE_VALID, Fld.BRK_CTRL_CLR_REFUSED, Fld.BRK_HIST_STAT_FROZEN,
      Fld.WEIR_STATUS_SCALED, Fld.HOP_AMAP_CFG_LOCK, Fld.MIL_BOOT_GO, Fld.RACE_SLOT_STAT_BADCODE, Fld.RACE_CTRL_TLOCK] ++ logValids,
      f ∈ f.reg.fields ∧ 1 < 2 ^ f.w ∧ f.reg.unlimited = true ∧ ∀ g ∈ f.reg.fields, g.acc ≠ .wo := by decide +kernel
  exact fun f hf => let ⟨h1, h2, h3, h4⟩ := h f hf; ⟨h1, h2, h3, h4⟩

/-! ### Logs and records -/

/-- A log or record goes with its VALID bit. -/
theorem State.writeHook_log {f : Field} (hf : f ∈ Fld.BRK_SAFE_VALID :: logValids) (ix : List Nat) (i h : Nat) (old new nv : Word) :
    s.writeHook path (f.loc ix i h) old new nv = if f.of nv = 1 then s.setRaw f.reg (f.reg.key i h) 0 else s := by
  fin_cases hf <;> rfl

theorem logValids_rule : ∀ f ∈ Fld.BRK_SAFE_VALID :: logValids, f.reg.ownRule = false ∧ f.reg.delayed = false ∧ f.reg ≠ .MIL_I3C_STAT := by
  decide +kernel

theorem State.writeField_log {f : Field} {h : Nat} (hf : f ∈ Fld.BRK_SAFE_VALID :: logValids) (hw : s.regs.wf = true)
    (hg : s.grantsField path f 1 0 h = true) (hl : f.Found [] 0 h) (ha : f.Asks 1) :
    Wrote path [f.reg.key 0 h] s (s.writeField path f 1 0 h) ∧ (s.writeField path f 1 0 h).raw f.reg (f.reg.key 0 h) = 0 := by
  obtain ⟨hown, hd, hne⟩ := logValids_rule f hf
  rw [State.writeField_stored hg hl hown, State.store_field hd, State.writeHook_log hf, if_pos ha.of_written]
  exact ((Stored.setRaw hw _ _ _).again 0).answered (State.grantsField_key_ne hg hl hne)

/-! ### SCALED (R259) -/

/-- A W1C bit whose clear starts field m over at the value of field x: nothing else of the register changes. -/
theorem State.writeField_restart {f m x : Field} {ix : List Nat} {i h : Nat} (hw : s.regs.wf = true) (hg : s.grantsField path f 1 i h = true)
    (hl : f.Found ix i h) (ha : f.Asks 1) (hacc : f.acc = .w1c) (h1 : f.w = 1) (hrule : f.reg.ownRule = false ∧ f.reg.delayed = false ∧ f.reg ≠ .MIL_I3C_STAT)
    (hm : m ∈ f.reg.fields) (hx : x ∈ f.reg.fields) (hfm : f ≠ m) (hfx : f ≠ x) (hwidth : m.w = x.w)
    (hhon : ∀ old new : Word, s.honoured (f.loc ix i h) old new = new)
    (hook : ∀ (u : State) (old new nv : Word), f.of nv = 1 → u.writeHook path (f.loc ix i h) old new nv = u.fset m (u.fheld x i h) i h) :
    Wrote path [f.reg.key i h] s (s.writeField path f 1 i h) ∧ (s.writeField path f 1 i h).fheld f i h = 0
      ∧ (s.writeField path f 1 i h).fheld m i h = s.fheld x i h
      ∧ ∀ g ∈ f.reg.fields, f ≠ g → m ≠ g → (s.writeField path f 1 i h).fheld g i h = s.fheld g i h := by
  obtain ⟨hown, hd, hne⟩ := hrule
  obtain ⟨hmr, hm64⟩ := f.reg.fields_fit m hm
  have hkey := State.grantsField_key_ne hg hl hne
  rw [State.writeField_stored hg hl hown, State.store_field hd, hook _ _ _ _ ha.of_written, hhon]
  have hst := Stored.setRaw hw f.reg (f.reg.key i h) (s.fieldWord f 1 i h ix)
  have hheld : (s.setRaw f.reg (f.reg.key i h) (s.fieldWord f 1 i h ix)).fheld x i h = x.of (s.fieldWord f 1 i h ix) := State.fheld_of_raw hx hst.word
  have hst2 := (hmr ▸ hst : Stored s _ m.reg (m.reg.key i h) _).fset (x.of (s.fieldWord f 1 i h ix))
  rw [hmr] at hst2
  obtain ⟨hwrote, hraw⟩ := hst2.answered (path := path) hkey
  have hfield {g : Field} (hgf : g ∈ f.reg.fields) := State.fheld_of_raw hgf hraw
  have hother {g : Field} (hgf : g ∈ f.reg.fields) (hne : m ≠ g) (v : Nat) (w : Word) : g.of (m.put w v) = g.of w :=
    Field.of_put_apart w v (f.reg.fields_fit g hgf).2 (Reg.fields_apart hm hgf hne)
  simp only [hheld]
  refine ⟨hwrote, ?_, ?_, fun g hgf hfg hmg => ?_⟩
  · rw [hfield ha.mem, hother ha.mem hfm.symm, ha.of_clear hacc h1]
  · rw [hfield hm, Field.of_put _ _ _ hm64, hwidth, Nat.mod_eq_of_lt (x.of_lt _), ha.of_other hx hfx, State.fheld_of_raw hx rfl]
  · rw [hfield hgf, hother hgf hmg, ha.of_other hgf hfg, State.fheld_of_raw hgf rfl]

/-! ### The granule (R113) -/

theorem State.honoured_gran (old new : Word) :
    Fld.HOP_ORD_CFG_GRAN.of (s.honoured (Fld.HOP_ORD_CFG_GRAN.loc [] 0 0) old new)
      = if Fld.HOP_ORD_CFG_GRAN.of new = 3 then Fld.HOP_ORD_CFG_GRAN.of old else Fld.HOP_ORD_CFG_GRAN.of new := by
  have hhon : s.honoured (Fld.HOP_ORD_CFG_GRAN.loc [] 0 0) old new = holdIf (Fld.HOP_ORD_CFG_GRAN.of new = 3) Fld.HOP_ORD_CFG_GRAN old new := rfl
  rw [hhon, holdIf]
  simp only [decide_eq_true_eq]
  split
  · exact (Field.of_put _ _ _ (by decide)).trans (Nat.mod_eq_of_lt (Field.of_lt _ _))
  · rfl

theorem State.clearResv_all (s : State) : (s.clearResv (fun _ _ => true)).hop = { s.hop with resv := {} } := by
  have hnone : s.hop.resv.keep (fun _ _ => !true) = {} := by simp [Tbl.keep]
  simp only [State.clearResv, hnone]

theorem State.writeHook_gran (old new nv : Word) : s.writeHook path (Fld.HOP_ORD_CFG_GRAN.loc [] 0 0) old new nv =
    if Fld.HOP_ORD_CFG_GRAN.of old ≠ Fld.HOP_ORD_CFG_GRAN.of new then s.clearResv (fun _ _ => true) else s := rfl

/-- The granule stored as word w: reservations go where it changes. -/
theorem State.writeHook_gran_stored (hw : s.regs.wf = true) (w nv : Word) :
    let u := (s.setRaw Fld.HOP_ORD_CFG_GRAN.reg (Fld.HOP_ORD_CFG_GRAN.reg.key 0 0) w).writeHook path (Fld.HOP_ORD_CFG_GRAN.loc [] 0 0)
      (s.raw Fld.HOP_ORD_CFG_GRAN.reg (Fld.HOP_ORD_CFG_GRAN.reg.key 0 0)) w nv
    u.regs.wf = true ∧ u.fheld Fld.HOP_ORD_CFG_GRAN = Fld.HOP_ORD_CFG_GRAN.of w
      ∧ u.hop = (if s.fheld Fld.HOP_ORD_CFG_GRAN ≠ Fld.HOP_ORD_CFG_GRAN.of w then { s.hop with resv := {} } else s.hop)
      ∧ ({ u with regs := s.regs, hop := s.hop } : State) = s := by
  intro u
  have hu : u = _ := State.writeHook_gran _ _ _
  obtain ⟨g, hset, hgw, hsame, -⟩ := s.setRaw_table Fld.HOP_ORD_CFG_GRAN.reg (Fld.HOP_ORD_CFG_GRAN.reg.key 0 0) w hw
  have hword := congrArg Fld.HOP_ORD_CFG_GRAN.of (hsame { s with regs := g } rfl rfl)
  rw [hset] at hu
  rw [hu, State.fheld_eq s]
  split_ifs
  · exact ⟨hgw, hword, State.clearResv_all _, rfl⟩
  · exact ⟨hgw, hword, rfl, rfl⟩

/-- The granule becomes n, the value asked for or, at the reserved one, the held one. -/
theorem State.writeField_gran {gran : Nat} (hgran : gran < 4) (hw : s.regs.wf = true) (hg : s.grantsField path Fld.HOP_ORD_CFG_GRAN gran 0 0 = true) :
    ∃ u n, s.writeField path Fld.HOP_ORD_CFG_GRAN gran = State.answered u path St.ok 0
      ∧ n = (if gran = 3 then s.fheld Fld.HOP_ORD_CFG_GRAN else gran)
      ∧ u.regs.wf = true ∧ u.fheld Fld.HOP_ORD_CFG_GRAN = n
      ∧ u.hop = (if s.fheld Fld.HOP_ORD_CFG_GRAN ≠ n then { s.hop with resv := {} } else s.hop)
      ∧ ({ u with regs := s.regs, hop := s.hop } : State) = s := by
  have hl : Fld.HOP_ORD_CFG_GRAN.Found [] 0 0 := found_once _ (by decide)
  have ha : Fld.HOP_ORD_CFG_GRAN.Asks gran := ⟨by decide, hgran, by decide +kernel, by decide⟩
  have hnew := State.honoured_gran (s := s) (s.raw Fld.HOP_ORD_CFG_GRAN.reg (Fld.HOP_ORD_CFG_GRAN.reg.key 0 0)) (s.fieldWord Fld.HOP_ORD_CFG_GRAN gran 0 0 [])
  rw [ha.of_value rfl] at hnew
  have hstored := State.writeField_stored hg hl (by decide)
  rw [State.store_field (by decide)] at hstored
  exact ⟨_, _, hstored, hnew, State.writeHook_gran_stored hw _ _⟩

end Sys2Proof.Machine
end

section
/-! The obligation on clears and settings: locks, the written map and the attestation target, and the statement. -/
namespace Sys2Proof.Machine

variable {s : State} {path : Path}

/-- An answer changes the registers and the reply alone. -/
theorem State.answered_as (s : State) (path : Path) (st : Nat) (v : Word) :
    ∃ g, s.answered path st v = { s with regs := g, reply := { mstat := st, val := v } } := by
  cases path <;> exact ⟨_, rfl⟩

theorem State.answered_fheld (st : Nat) (v : Word) {f : Field} {i h : Nat} (hw : s.regs.wf = true)
    (hk : f.reg.key i h ≠ Reg.key .MIL_I3C_STAT 0 0) : (s.answered path st v).fheld f i h = s.fheld f i h :=
  congrArg f.of (State.answered_raw st v hw fun _ => hk)

/-! ### TLOCK (R152) -/

/-- A reserved page holds the page and nothing else. -/
theorem State.of_honoured_raceCtrl {g : Field} (hg : g ∈ Reg.RACE_CTRL.fields) (hne : Fld.RACE_CTRL_PAGE ≠ g) (ix : List Nat) (i h : Nat)
    (old new : Word) : g.of (s.honoured (Fld.RACE_CTRL_TLOCK.loc ix i h) old new) = g.of new := by
  have hhon : s.honoured (Fld.RACE_CTRL_TLOCK.loc ix i h) old new = holdIf (Fld.RACE_CTRL_PAGE.of new = 3) Fld.RACE_CTRL_PAGE old new := rfl
  rw [hhon, holdIf]
  split
  · exact Field.of_put_apart _ _ (Reg.fields_fit _ g hg).2 (Reg.fields_apart (by decide) hg hne)
  · rfl

theorem State.writeHook_raceCtrl (ix : List Nat) (i h : Nat) (old new nv : Word) :
    s.writeHook path (Fld.RACE_CTRL_TLOCK.loc ix i h) old new nv = s := rfl

theorem State.writeField_timingLock {race : Nat} (hrace : race < 32) (hw : s.regs.wf = true)
    (hg : s.grantsField path Fld.RACE_CTRL_TLOCK 1 race 0 = true) :
    Wrote path [Fld.RACE_CTRL_TLOCK.reg.key race 0] s (s.writeField path Fld.RACE_CTRL_TLOCK 1 race)
      ∧ (s.writeField path Fld.RACE_CTRL_TLOCK 1 race).fheld Fld.RACE_CTRL_TLOCK race = 1
      ∧ (s.writeField path Fld.RACE_CTRL_TLOCK 1 race).fheld Fld.RACE_CTRL_EXP_EN race = s.fheld Fld.RACE_CTRL_EXP_EN race := by
  have hl := found_of_race Fld.RACE_CTRL_TLOCK (by decide) race hrace
  have ha : Fld.RACE_CTRL_TLOCK.Asks 1 := asks_one _ (by decide)
  rw [State.writeField_stored hg hl (by decide), State.store_field (by decide), State.writeHook_raceCtrl]
  obtain ⟨hwrote, hraw⟩ := (Stored.setRaw hw _ _ _).answered (path := path) (State.grantsField_key_ne hg hl (by decide))
  have hexp : Fld.RACE_CTRL_EXP_EN ∈ Fld.RACE_CTRL_TLOCK.reg.fields := by decide
  refine ⟨hwrote, ?_, ?_⟩
  · exact (State.fheld_of_raw ha.mem hraw).trans ((State.of_honoured_raceCtrl ha.mem (by decide) _ _ _ _ _).trans (ha.of_set rfl rfl))
  · exact (State.fheld_of_raw hexp hraw).trans ((State.of_honoured_raceCtrl hexp (by decide) _ _ _ _ _).trans (ha.of_other hexp (by decide)))

/-! ### The clear of the written map (R147, R236) -/

theorem State.honoured_wmap {half : Nat} (hserve : s.serveReady half = false) (old new : Word) :
    s.honoured (Fld.QRN_WMAP_CFG_CLEAR.loc [] 0 half) old new = new := by
  have hhon : s.honoured (Fld.QRN_WMAP_CFG_CLEAR.loc [] 0 half) old new = holdIf (s.serveReady half) Fld.QRN_WMAP_CFG_CLEAR old new := rfl
  rw [hhon, hserve]
  rfl

/-- The map of a half is being cleared. -/
def State.wmapClearing (s : State) (half : Nat) : State := s.setQrn half { s.qrn half with clearing := true }

theorem State.wmapClearing_qrn {half : Nat} (s : State) : ((s.wmapClearing half).qrn half).clearing = true := by
  unfold State.wmapClearing State.qrn State.setQrn
  by_cases h : half = 0 <;> simp [h]

theorem State.writeHook_wmap {half : Nat} {old new : Word} (hold : Fld.QRN_WMAP_CFG_CLEAR.of old = 0) (hnew : Fld.QRN_WMAP_CFG_CLEAR.of new = 1)
    (nv : Word) : s.writeHook path (Fld.QRN_WMAP_CFG_CLEAR.loc [] 0 half) old new nv =
      if Fld.QRN_WMAP_CFG_EN.of new = 0 then (s.wmapClearing half).endFills half else s.wmapClearing half := by
  have hhook : s.writeHook path (Fld.QRN_WMAP_CFG_CLEAR.loc [] 0 half) old new nv =
      (let u := if Fld.QRN_WMAP_CFG_CLEAR.of old = 0 && Fld.QRN_WMAP_CFG_CLEAR.of new = 1 then s.wmapClearing half else s
       if Fld.QRN_WMAP_CFG_EN.of new = 0 then u.endFills half else u) := rfl
  rw [hhook, hold, hnew]
  rfl

/-- No race of the half has a fill. -/
theorem State.race_endFills {half r : Nat} (s : State) (hr : raceHalf r = half) :
    ((s.endFills half).race r).fill = none ∧ ((s.endFills half).race r).fillQ = [] := by
  have hrace : (s.endFills half).race r = (s.races.mapv fun r x => if raceHalf r = half then { x with fill := none, fillQ := [] } else x).get {} r := rfl
  rw [hrace, Tbl.get, Tbl.find_mapv]
  cases s.races.find? r with
  | none => exact ⟨rfl, rfl⟩
  | some x => simp [hr]

theorem State.endFills_qrn (s : State) (half : Nat) : (s.endFills half).qrn = s.qrn := rfl

/-- The clear stored as word w, with the map on or off as before. -/
theorem State.writeHook_wmap_stored {half : Nat} (hw : s.regs.wf = true) (hclear : s.fheld Fld.QRN_WMAP_CFG_CLEAR 0 half = 0) {w : Word}
    (hset : Fld.QRN_WMAP_CFG_CLEAR.of w = 1) (hen : Fld.QRN_WMAP_CFG_EN.of w = s.fheld Fld.QRN_WMAP_CFG_EN 0 half) (nv : Word) :
    let u := (s.setRaw Fld.QRN_WMAP_CFG_CLEAR.reg (Fld.QRN_WMAP_CFG_CLEAR.reg.key 0 half) w).writeHook path (Fld.QRN_WMAP_CFG_CLEAR.loc [] 0 half)
      (s.raw Fld.QRN_WMAP_CFG_CLEAR.reg (Fld.QRN_WMAP_CFG_CLEAR.reg.key 0 half)) w nv
    u.regs.wf = true ∧ u.fheld Fld.QRN_WMAP_CFG_CLEAR 0 half = 1 ∧ (u.qrn half).clearing = true
      ∧ u.fheld Fld.QRN_WMAP_CFG_EN 0 half = s.fheld Fld.QRN_WMAP_CFG_EN 0 half ∧ u.dram = s.dram
      ∧ (s.fheld Fld.QRN_WMAP_CFG_EN 0 half = 1 → ({ u with regs := s.regs, qrnE := s.qrnE, qrnW := s.qrnW } : State) = s)
      ∧ (s.fheld Fld.QRN_WMAP_CFG_EN 0 half = 0 → ∀ r, raceHalf r = half → (u.race r).fill = none ∧ (u.race r).fillQ = []) := by
  intro u
  have hu : u = _ := State.writeHook_wmap hclear hset nv
  obtain ⟨g, hraw, hgw, hsame, -⟩ := s.setRaw_table Fld.QRN_WMAP_CFG_CLEAR.reg (Fld.QRN_WMAP_CFG_CLEAR.reg.key 0 half) w hw
  have hword : ({ s with regs := g } : State).raw Fld.QRN_WMAP_CFG_CLEAR.reg (Fld.QRN_WMAP_CFG_CLEAR.reg.key 0 half) = w := hsame { s with regs := g } rfl rfl
  have hone := (congrArg Fld.QRN_WMAP_CFG_CLEAR.of hword).trans hset
  have hmap := (congrArg Fld.QRN_WMAP_CFG_EN.of hword).trans hen
  rw [hraw, hen] at hu
  have hclearing := State.wmapClearing_qrn (half := half) { s with regs := g }
  rw [hu]
  split_ifs with h0
  · exact ⟨hgw, hone, hclearing, hmap, rfl, fun h1 => by omega, fun _ _ hr => State.race_endFills _ hr⟩
  · exact ⟨hgw, hone, hclearing, hmap, rfl, fun _ => rfl, fun h => absurd h h0⟩

theorem State.writeField_wmapClear {half : Nat} (hhalf : half < 2) (hw : s.regs.wf = true)
    (hg : s.grantsField path Fld.QRN_WMAP_CFG_CLEAR 1 0 half = true) (hserve : s.serveReady half = false)
    (hclear : s.fheld Fld.QRN_WMAP_CFG_CLEAR 0 half = 0) :
    let t := s.writeField path Fld.QRN_WMAP_CFG_CLEAR 1 0 half
    Answered t ∧ t.fheld Fld.QRN_WMAP_CFG_CLEAR 0 half = 1 ∧ (t.qrn half).clearing = true
      ∧ t.fheld Fld.QRN_WMAP_CFG_EN 0 half = s.fheld Fld.QRN_WMAP_CFG_EN 0 half ∧ t.dram = s.dram
      ∧ (s.fheld Fld.QRN_WMAP_CFG_EN 0 half = 1 → ({ t with regs := s.regs, reply := s.reply, qrnE := s.qrnE, qrnW := s.qrnW } : State) = s)
      ∧ (s.fheld Fld.QRN_WMAP_CFG_EN 0 half = 0 → ∀ r, raceHalf r = half → (t.race r).fill = none ∧ (t.race r).fillQ = []) := by
  intro t
  have hl := found_of_half Fld.QRN_WMAP_CFG_CLEAR (by decide) half hhalf
  have ha : Fld.QRN_WMAP_CFG_CLEAR.Asks 1 := asks_one _ (by decide)
  have ht : t = _ := State.writeField_stored hg hl (by decide)
  rw [State.store_field (by decide), State.honoured_wmap hserve] at ht
  have hkey : Fld.QRN_WMAP_CFG_CLEAR.reg.key 0 half ≠ Reg.key .MIL_I3C_STAT 0 0 := State.grantsField_key_ne hg hl (by decide)
  have hstored := State.writeHook_wmap_stored (path := path) hw hclear (ha.of_set rfl rfl (s := s) (i := 0) (h := half) (ix := []))
    (ha.of_other (by decide) (by decide)) (writtenBits ⟨Fld.QRN_WMAP_CFG_CLEAR.loc [] 0 half, 0⟩ (s.oneField Fld.QRN_WMAP_CFG_CLEAR 1 0 half)).2
  generalize hu : State.writeHook _ _ _ _ _ _ = u at ht hstored
  obtain ⟨huw, hone, hclr, hen, hdram, hrest, hfills⟩ := hstored
  have hone' := (State.answered_fheld (path := path) St.ok 0 huw hkey).trans hone
  have hen' := (State.answered_fheld (f := Fld.QRN_WMAP_CFG_EN) (path := path) St.ok 0 huw hkey).trans hen
  rw [← ht] at hone' hen'
  obtain ⟨g, hans⟩ := u.answered_as path St.ok 0
  rw [hans] at ht
  rw [ht] at hone' hen' ⊢
  exact ⟨rfl, hone', hclr, hen', hdram, fun h => congrArg (fun x : State => { x with reply := s.reply }) (hrest h), hfills⟩

/-! ### The attestation target (R465) -/

theorem State.writeHook_attEn (old new nv : Word) : s.writeHook path (Fld.MIL_I3C_CFG_ATT_EN.loc [] 0 0) old new nv =
    if Fld.MIL_I3C_CFG_ATT_EN.of new = 0 then { s with i3c := { s.i3c with attAddr := none } } else s := rfl

theorem State.honoured_attEn (old new : Word) : s.honoured (Fld.MIL_I3C_CFG_ATT_EN.loc [] 0 0) old new = new := rfl

theorem State.writeField_attEn (en : Bool) (hw : s.regs.wf = true) (hg : s.grantsField path Fld.MIL_I3C_CFG_ATT_EN (b2n en) 0 0 = true) :
    let t := s.writeField path Fld.MIL_I3C_CFG_ATT_EN (b2n en)
    Answered t ∧ t.fheld Fld.MIL_I3C_CFG_ATT_EN = b2n en ∧ t.i3c = (if en then s.i3c else { s.i3c with attAddr := none })
      ∧ ({ t with regs := s.regs, reply := s.reply, i3c := s.i3c } : State) = s := by
  intro t
  have hl : Fld.MIL_I3C_CFG_ATT_EN.Found [] 0 0 := found_once _ (by decide)
  have ha : Fld.MIL_I3C_CFG_ATT_EN.Asks (b2n en) := ⟨by decide, by cases en <;> decide, by decide +kernel, by decide⟩
  have ht : t = _ := State.writeField_stored hg hl (by decide)
  rw [State.store_field (by decide), State.honoured_attEn, State.writeHook_attEn, ha.of_value rfl] at ht
  have hvalue := ha.of_value rfl (s := s) (i := 0) (h := 0) (ix := [])
  have hkey : Fld.MIL_I3C_CFG_ATT_EN.reg.key 0 0 ≠ Reg.key .MIL_I3C_STAT 0 0 := State.grantsField_key_ne hg hl (by decide)
  generalize s.fieldWord Fld.MIL_I3C_CFG_ATT_EN (b2n en) 0 0 [] = w at ht hvalue
  obtain ⟨g, hraw, hgw, hsame, -⟩ := s.setRaw_table Fld.MIL_I3C_CFG_ATT_EN.reg (Fld.MIL_I3C_CFG_ATT_EN.reg.key 0 0) w hw
  have hheld (u : State) (hur : u.regs = g) (hul : u.ld = s.ld) : (u.answered path St.ok 0).fheld Fld.MIL_I3C_CFG_ATT_EN = b2n en :=
    (State.answered_fheld _ _ (hur ▸ hgw) hkey).trans ((congrArg Fld.MIL_I3C_CFG_ATT_EN.of (hsame u hur hul)).trans hvalue)
  rw [hraw] at ht
  rw [ht]
  cases en with
  | true =>
    refine ⟨State.answered_reply .., hheld _ rfl rfl, ?_, ?_⟩
    all_goals obtain ⟨g', hans⟩ := State.answered_as _ path St.ok 0; exact hans ▸ rfl
  | false =>
    refine ⟨State.answered_reply .., hheld _ rfl rfl, ?_, ?_⟩
    all_goals obtain ⟨g', hans⟩ := State.answered_as _ path St.ok 0; exact hans ▸ rfl

end Sys2Proof.Machine
end

section
/-! The obligation on clears and settings: the parts by name, and the statement. -/
namespace Sys2Proof.Machine

variable {s : State} {path : Path}

theorem when_true {c : Bool} (hc : c = true) (f : State → State) (s : State) : when c f s = f s := if_pos hc

theorem Completes.of_exec {c : Instr} {t : State} {P : State → Prop} (h : exec c s = .next t) (hp : P t) : Completes c s P := ⟨t, h, hp⟩

/-- A W1C bit of a plain register written 1 goes, and its other fields stand. -/
theorem State.writeField_clear {f : Field} {ix : List Nat} {i h : Nat} (hw : s.regs.wf = true) (hg : s.grantsField path f 1 i h = true)
    (hl : f.Found ix i h) (hp : f.reg ∈ plainRegs ∧ f.reg.delayed = false) (ha : f.Asks 1) (hacc : f.acc = .w1c) (h1 : f.w = 1) :
    Wrote path [f.reg.key i h] s (s.writeField path f 1 i h) ∧ (s.writeField path f 1 i h).fheld f i h = 0
      ∧ ∀ g ∈ f.reg.fields, f ≠ g → (s.writeField path f 1 i h).fheld g i h = s.fheld g i h := by
  obtain ⟨hwrote, hheld, hrest⟩ := State.writeField_plain hw hg hl hp.1 hp.2 ha
  exact ⟨hwrote, hheld.trans (ha.of_clear hacc h1), hrest⟩

/-- A RWS bit of a plain register written 1 is set, and its other fields stand. -/
theorem State.writeField_set {f : Field} {ix : List Nat} {i h : Nat} (hw : s.regs.wf = true) (hg : s.grantsField path f 1 i h = true)
    (hl : f.Found ix i h) (hp : f.reg ∈ plainRegs ∧ f.reg.delayed = false) (ha : f.Asks 1) (hacc : f.acc = .rws) (h1 : f.w = 1) :
    Wrote path [f.reg.key i h] s (s.writeField path f 1 i h) ∧ (s.writeField path f 1 i h).fheld f i h = 1
      ∧ ∀ g ∈ f.reg.fields, f ≠ g → (s.writeField path f 1 i h).fheld g i h = s.fheld g i h := by
  obtain ⟨hwrote, hheld, hrest⟩ := State.writeField_plain hw hg hl hp.1 hp.2 ha
  exact ⟨hwrote, hheld.trans (ha.of_set hacc h1), hrest⟩

theorem State.writeField_scaled (hw : s.regs.wf = true) (hg : s.grantsField path Fld.WEIR_STATUS_SCALED 1 0 0 = true) :
    let t := s.writeField path Fld.WEIR_STATUS_SCALED 1
    Wrote path [Reg.key .WEIR_STATUS 0 0] s t ∧ t.fheld Fld.WEIR_STATUS_SCALED = 0
      ∧ t.fheld Fld.WEIR_STATUS_F1_MIN = s.fheld Fld.WEIR_STATUS_F1 ∧ t.fheld Fld.WEIR_STATUS_F1 = s.fheld Fld.WEIR_STATUS_F1
      ∧ t.fheld Fld.WEIR_STATUS_C0_DEFER = s.fheld Fld.WEIR_STATUS_C0_DEFER := by
  have hhook (u : State) (old new nv : Word) (hset : Fld.WEIR_STATUS_SCALED.of nv = 1) :
      u.writeHook path (Fld.WEIR_STATUS_SCALED.loc [] 0 0) old new nv = u.fset Fld.WEIR_STATUS_F1_MIN (u.fheld Fld.WEIR_STATUS_F1) 0 0 := if_pos hset
  obtain ⟨hwrote, hclear, hmin, hother⟩ := State.writeField_restart (m := Fld.WEIR_STATUS_F1_MIN) (x := Fld.WEIR_STATUS_F1) hw hg
    (found_once _ (by decide)) (asks_one _ (by decide)) rfl rfl (by decide) (by decide) (by decide) (by decide) (by decide) rfl (fun _ _ => rfl) hhook
  exact ⟨hwrote, hclear, hmin, hother _ (by decide) (by decide) (by decide), hother _ (by decide) (by decide) (by decide)⟩

theorem granWrite_settles {gran : Nat} (hw : s.regs.wf = true) (hgran : gran < 4) (hg : s.grantsField path Fld.HOP_ORD_CFG_GRAN gran 0 0 = true) :
    Completes (.granWrite path gran) s (fun t => Answered t
      ∧ (gran ≠ 3 → t.fheld Fld.HOP_ORD_CFG_GRAN = gran) ∧ (gran = 3 → t.fheld Fld.HOP_ORD_CFG_GRAN = s.fheld Fld.HOP_ORD_CFG_GRAN)
      ∧ (gran ≠ 3 → gran ≠ s.fheld Fld.HOP_ORD_CFG_GRAN → t.hop.resv = {}) ∧ (gran = 3 ∨ gran = s.fheld Fld.HOP_ORD_CFG_GRAN → t.hop = s.hop)
      ∧ t.hop.reqs = s.hop.reqs ∧ ({ t with regs := s.regs, reply := s.reply, hop := s.hop } : State) = s) := by
  obtain ⟨u, n, hwrite, hn, huw, hheld, hhop, hrest⟩ := State.writeField_gran hgran hw hg
  have hkey : Fld.HOP_ORD_CFG_GRAN.reg.key 0 0 ≠ Reg.key .MIL_I3C_STAT 0 0 := State.grantsField_key_ne hg (found_once _ (by decide)) (by decide)
  have hgranNow := (State.answered_fheld (path := path) St.ok 0 huw hkey).trans hheld
  obtain ⟨g, hans⟩ := u.answered_as path St.ok 0
  rw [hans] at hgranNow
  refine .of_exec (congrArg Host.Outcome.next (hwrite.trans hans)) ⟨rfl, fun h3 => ?_, fun h3 => ?_, fun h3 hne => ?_, fun hsame => ?_, ?_, ?_⟩
  · exact hgranNow.trans (hn.trans (if_neg h3))
  · exact hgranNow.trans (hn.trans (if_pos h3))
  · rw [if_neg h3] at hn
    rw [hn, if_pos (Ne.symm hne)] at hhop
    exact congrArg Hop.resv hhop
  · have hkept : s.fheld Fld.HOP_ORD_CFG_GRAN = n := by rw [hn]; split <;> omega
    exact hhop.trans (if_neg (not_not.mpr hkept))
  · have hreqs : u.hop.reqs = s.hop.reqs := by rw [hhop]; split <;> rfl
    exact hreqs
  · exact congrArg (fun x : State => { x with reply := s.reply }) hrest

/-- Settles O42: each command is one field's write; what it stores, and the one effect beyond, is a lemma per register. -/
theorem clearsAndSettings : Obligations.ClearsAndSettings := by
  refine ⟨fun s path half race hw hhalf hrace => ?_, fun s path half race gran hw hhalf hrace hgran => ?_⟩
  · intro logs
    have hh : decide (half < 2) = true := decide_eq_true hhalf
    have hr : decide (race < 32) = true := decide_eq_true hrace
    have hlog {f : Field} {p : Path} (hf : f ∈ logValids) (hg : s.grantsField p f 1 0 half = true) :=
      State.writeField_log (List.mem_cons_of_mem _ hf) hw hg (found_of_half f (List.mem_append_right _ hf) half hhalf)
        (asks_one f (List.mem_append_right _ hf))
    refine ⟨fun e he hg => ?logs, fun hg => ?safe, fun hg => ?refused, fun hg => ?frozen, fun hg => ?badcode, fun hg => ?scaled, fun hg => ?sample⟩
    case logs =>
      have hf : e.2.2 ∈ logValids := by simpa only [logs, logValids, List.map] using List.mem_map_of_mem (f := fun e => e.2.2) he
      simp only [logs, List.mem_cons, List.not_mem_nil, or_false] at he
      obtain rfl | rfl | rfl | rfl := he
      all_goals exact .of_exec (congrArg Host.Outcome.next (when_true hh _ _)) (hlog hf hg)
    case safe => exact .of_exec rfl (State.writeField_log (by decide) hw hg (found_once _ (by decide)) (asks_one _ (by decide)))
    case refused =>
      obtain ⟨hwrote, hclear, hother⟩ := State.writeField_clear hw hg (found_once _ (by decide)) (by decide) (asks_one _ (by decide)) rfl rfl
      exact .of_exec rfl ⟨hwrote, hclear, hother _ (by decide) (by decide), hother _ (by decide) (by decide)⟩
    case frozen =>
      obtain ⟨hwrote, hclear, hother⟩ := State.writeField_clear hw hg (found_once _ (by decide)) (by decide) (asks_one _ (by decide)) rfl rfl
      exact .of_exec rfl ⟨hwrote, hclear, hother _ (by decide) (by decide), hother _ (by decide) (by decide)⟩
    case badcode =>
      obtain ⟨hwrote, hclear, hother⟩ := State.writeField_clear hw hg (found_of_race _ (by decide) race hrace) (by decide) (asks_one _ (by decide)) rfl rfl
      exact .of_exec (congrArg Host.Outcome.next (when_true hr _ _)) ⟨hwrote, hclear, hother _ (by decide) (by decide)⟩
    case scaled => exact .of_exec rfl (State.writeField_scaled hw hg)
    case sample =>
      obtain ⟨hwrote, hclear, hother⟩ := State.writeField_clear hw hg (found_of_half _ (by decide) half hhalf) (by decide) (asks_one _ (by decide)) rfl rfl
      exact .of_exec (congrArg Host.Outcome.next (when_true hh _ _)) ⟨hwrote, hclear, hother _ (by decide) (by decide)⟩
  · refine ⟨fun hg => ?gran, fun hg => ?hash, fun hg => ?timing, fun hg => ?go, fun hg hserve hclear => ?wmap, fun en hg => ?att⟩
    case gran => exact granWrite_settles hw hgran hg
    case hash =>
      obtain ⟨hwrote, hset, hother⟩ := State.writeField_set hw hg (found_once _ (by decide)) (by decide) (asks_one _ (by decide)) rfl rfl
      exact .of_exec rfl ⟨hwrote, hset, hother _ (by decide) (by decide)⟩
    case timing => exact .of_exec (congrArg Host.Outcome.next (when_true (decide_eq_true hrace) _ _)) (State.writeField_timingLock hrace hw hg)
    case go =>
      obtain ⟨hwrote, hset, -⟩ := State.writeField_set hw hg (found_once _ (by decide)) (by decide) (asks_one _ (by decide)) rfl rfl
      exact .of_exec rfl ⟨hwrote, hset⟩
    case wmap =>
      obtain ⟨hans, hset, hclr, hen, hdram, hrest, hfills⟩ := State.writeField_wmapClear hhalf hw hg hserve hclear
      exact .of_exec (congrArg Host.Outcome.next (when_true (decide_eq_true hhalf) _ _))
        ⟨hans, hset, hclr, hen, hdram, hrest, fun h0 r _ hr => hfills h0 r hr⟩
    case att => exact .of_exec rfl (State.writeField_attEn en hw hg)

end Sys2Proof.Machine
end

section
/-!
SUPPORT. What the Turn boundary decides with: the clock, the steps, Alert's decision, the release of West, Weir's budgets and the refresh plans,
gathered as `State.decided`, and for each operation of the boundary that it leaves them.
-/
namespace Sys2Proof.Machine

variable {s t u : State}

/-- Plans of a race, in force and planned. -/
structure Plans where
  planA : Plan
  planB : Plan
  nextA : Option Plan
  nextB : Option Plan

def Race.plans (x : Race) : Plans := ⟨x.planA, x.planB, x.nextA, x.nextB⟩

/-- What was decided in a Turn and what is in force. -/
structure Decided where
  clk : Clk
  dstep : Tbl Nat
  bstep : Nat
  istep : Nat
  dstepN : Option (Tbl Nat)
  bstepN : Option Nat
  istepN : Option Nat
  alertNext : Option Bool
  alertDue : Option Bool
  rest : Option (Nat × Bool)
  westUp : Bool
  inReset : Option ResetKind
  budget : Tbl Nat
  budgetN : Option (Tbl Nat)
  plans : Nat → Plans

def State.decided (s : State) : Decided :=
  { clk := s.clk, dstep := s.gov.dstep, bstep := s.gov.bstep, istep := s.gov.istep, dstepN := s.gov.dstepN, bstepN := s.gov.bstepN
    istepN := s.gov.istepN, alertNext := s.gov.alertNext, alertDue := s.gov.alertDue, rest := s.boot.rest, westUp := s.boot.westUp
    inReset := s.boot.inReset, budget := s.weir.budget, budgetN := s.weir.budgetN, plans := fun r => (s.race r).plans }

/-- The part of `State.decided` in Governor's record: the steps and Alert's decision. -/
def Gov.chosen (g : Gov) : Tbl Nat × Nat × Nat × Option (Tbl Nat) × Option Nat × Option Nat × Option Bool × Option Bool :=
  (g.dstep, g.bstep, g.istep, g.dstepN, g.bstepN, g.istepN, g.alertNext, g.alertDue)

/-- The part of `State.decided` in the bring-up record: the release of West. -/
def Boot.chosen (b : Boot) : Option (Nat × Bool) × Bool × Option ResetKind := (b.rest, b.westUp, b.inReset)

/-- t stands by what s decided. -/
abbrev Stands (s t : State) : Prop := t.decided = s.decided

theorem Stands.trans (h : Stands s t) (g : Stands t u) : Stands s u := Eq.trans g h

theorem Stands.ite {c : Prop} [Decidable c] (ht : Stands s t) (hu : Stands s u) : Stands s (if c then t else u) := by
  split
  · exact ht
  · exact hu

theorem Stands.each {α : Type} {f : α → State → State} (hf : ∀ x u, Stands u (f x u)) (l : List α) (s : State) : Stands s (each l f s) := by
  unfold Machine.each
  induction l generalizing s with
  | nil => rfl
  | cons x l ih => exact (hf x s).trans (ih (f x s))

/-- Raising a source decides nothing. -/
theorem Raised.stands (h : Raised s t) : Stands s t := by
  have hplans : ∀ r, (t.race r).plans = (s.race r).plans := fun r => (congrArg Race.plans (h.races r) :)
  have hclk : t.clk = s.clk := (congrArg State.clk h.rest :)
  have hweir : t.weir = s.weir := (congrArg State.weir h.rest :)
  obtain ⟨hd, hb, hi⟩ : t.gov.dstep = s.gov.dstep ∧ t.gov.bstep = s.gov.bstep ∧ t.gov.istep = s.gov.istep :=
    ⟨(congrArg Gov.dstep h.gov :), (congrArg Gov.bstep h.gov :), (congrArg Gov.istep h.gov :)⟩
  obtain ⟨hdN, hbN, hiN⟩ : t.gov.dstepN = s.gov.dstepN ∧ t.gov.bstepN = s.gov.bstepN ∧ t.gov.istepN = s.gov.istepN :=
    ⟨(congrArg Gov.dstepN h.gov :), (congrArg Gov.bstepN h.gov :), (congrArg Gov.istepN h.gov :)⟩
  obtain ⟨han, had⟩ : t.gov.alertNext = s.gov.alertNext ∧ t.gov.alertDue = s.gov.alertDue :=
    ⟨(congrArg Gov.alertNext h.gov :), (congrArg Gov.alertDue h.gov :)⟩
  obtain ⟨hrest, hwest, hreset⟩ : t.boot.rest = s.boot.rest ∧ t.boot.westUp = s.boot.westUp ∧ t.boot.inReset = s.boot.inReset :=
    ⟨(congrArg Boot.rest h.boot :), (congrArg Boot.westUp h.boot :), (congrArg Boot.inReset h.boot :)⟩
  simp only [Stands, State.decided, hplans, hclk, hweir, hd, hb, hi, hdN, hbN, hiN, han, had, hrest, hwest, hreset]

theorem State.raise_stands (s : State) (src inst detail : Nat) : Stands s (s.raise src inst detail) := (s.raise_raised src inst detail).stands
theorem State.causeOff_stands (s : State) (src inst : Nat) : Stands s (s.causeOff src inst) := (s.causeOff_raised src inst).stands

/-! ### Registers -/

theorem State.setRaw_stands (s : State) (r : Reg) (k : Nat) (w : Word) : Stands s (s.setRaw r k w) := rfl
theorem State.fset_stands (s : State) (f : Field) (v i h : Nat) : Stands s (s.fset f v i h) := rfl
theorem State.setFan_stands (s : State) (h : Nat) (x : Fan) : Stands s (s.setFan h x) := rfl
theorem State.setHst_stands (s : State) (h : Nat) (x : Hst) : Stands s (s.setHst h x) := rfl
theorem State.fadd_stands (s : State) (f : Field) (n i h : Nat) : Stands s (s.fadd f n i h) := s.fset_stands f _ i h
theorem State.tally_stands (s : State) (h bank i n : Nat) : Stands s (s.tally h bank i n) := rfl
theorem State.storeCell_stands (s : State) (a : Nat) (w : Codeword) : Stands s (s.storeCell a w) := rfl
theorem State.countUE_stands (s : State) (race : Nat) : Stands s (s.countUE race) := (s.fadd_stands _ _ _ _).trans (State.tally_stands _ _ _ _ _)
theorem State.countCE_stands (s : State) (race : Nat) : Stands s (s.countCE race) := (s.fadd_stands _ _ _ _).trans (State.tally_stands _ _ _ _ _)
theorem State.countPsn_stands (s : State) (race : Nat) : Stands s (s.countPsn race) := s.fadd_stands _ _ _ _

/-! ### Parts of the state -/

/-- A state that differs in other parts alone. -/
theorem Stands.of (h : (t.clk, t.gov, t.boot, t.weir, t.races) = (s.clk, s.gov, s.boot, s.weir, s.races)) : Stands s t := by
  simp only [Prod.mk.injEq] at h
  obtain ⟨hclk, hgov, hboot, hweir, hraces⟩ := h
  simp only [Stands, State.decided, State.race, hclk, hgov, hboot, hweir, hraces]

/-- Governor's record written with its steps and Alert's decision. -/
theorem State.gov_stands {g : Gov} (h : g.chosen = s.gov.chosen) : Stands s { s with gov := g } := by
  simp only [Gov.chosen, Prod.mk.injEq] at h
  obtain ⟨hd, hb, hi, hdN, hbN, hiN, hnext, hdue⟩ := h
  simp only [Stands, State.decided, State.race, hd, hb, hi, hdN, hbN, hiN, hnext, hdue]

/-- The bring-up record written with the release of West. -/
theorem State.boot_stands {b : Boot} (h : b.chosen = s.boot.chosen) : Stands s { s with boot := b } := by
  simp only [Boot.chosen, Prod.mk.injEq] at h
  obtain ⟨hrest, hwest, hreset⟩ := h
  simp only [Stands, State.decided, State.race, hrest, hwest, hreset]

/-! ### Races -/

/-- A race written with its plans. -/
theorem State.setRace_stands {r : Nat} {x : Race} (hx : x.plans = (s.race r).plans) : Stands s (s.setRace r x) := by
  have hplans : ∀ i, ((s.setRace r x).race i).plans = (s.race i).plans := by
    intro i
    rw [State.setRace_races_at]
    split
    · next h => rw [hx, h]
    · rfl
  simp only [Stands, State.decided, hplans]
  rfl

/-- All races written with their plans. -/
theorem State.mapRaces_stands {f : Nat → Race → Race} (hf : ∀ r x, (f r x).plans = x.plans) : Stands s { s with races := s.races.mapv f } := by
  have hplans : ∀ r, (({ s with races := s.races.mapv f } : State).race r).plans = (s.race r).plans := by
    intro r
    simp only [State.race, Tbl.get, Tbl.find_mapv]
    cases s.races.find? r with
    | none => rfl
    | some x => exact hf r x
  simp only [Stands, State.decided, hplans]

theorem Race.plans_wqPut (x : Race) (a : Nat) (data : Cell) (psn : Bool) (epoch cls now : Nat) (own : WrOwner) (strs : List (Nat × Nat)) :
    (x.wqPut a data psn epoch cls now own strs).plans = x.plans := by
  unfold Race.wqPut
  dsimp only
  split_ifs <;> rfl

theorem Race.plans_dueStep (x : Race) (teff k : Nat) : (x.dueStep teff k).plans = x.plans := rfl

theorem State.withDues_plans (s : State) (r : Nat) : (s.withDues r).plans = (s.race r).plans := by
  have hfold : ∀ (f : Race → Nat → Race) (l : List Nat) (x : Race), (∀ y k, (f y k).plans = y.plans) → (l.foldl f x).plans = x.plans := by
    intro f l
    induction l with
    | nil => exact fun _ _ => rfl
    | cons k l ih => exact fun x hf => (ih _ hf).trans (hf x k)
  unfold State.withDues
  dsimp only
  split
  · rfl
  · exact hfold _ _ _ fun y k => (Race.plans_dueStep _ _ _).trans (y.plans_dueStep _ k)

theorem State.giveDues_stands (s : State) (r : Nat) : Stands s (s.giveDues r) := State.setRace_stands (s.withDues_plans r)
theorem State.pdNote_stands (s : State) (r now : Nat) : Stands s (s.pdNote r now) := State.setRace_stands (by rfl)

theorem State.backIn_stands (s : State) (r now : Nat) : Stands s (s.backIn r now) := by
  unfold State.backIn
  dsimp only
  split
  · rfl
  · split_ifs
    · exact State.setRace_stands (by rfl)
    · rfl
    · exact State.setRace_stands (s := s.bgUse 3 1) (Race.plans_wqPut _ _ _ _ _ _ _ _ _)

theorem State.fillIn_stands (s : State) (r now : Nat) : Stands s (s.fillIn r now) := by
  unfold State.fillIn
  dsimp only
  split
  · exact .ite (State.setRace_stands (by rfl)) rfl
  · rfl

theorem State.startRace_stands (s : State) (r : Nat) (train : Bool) : Stands s (s.startRace r train) := by
  have hrun : Stands s (s.setRace r { s.race r with run := true, inReset := false }) := State.setRace_stands (by rfl)
  unfold State.startRace
  exact .ite rfl (.ite hrun hrun)

/-! ### Fantail -/

theorem State.setRace_fset_stands {r : Nat} {x : Race} {f : Field} {v i h : Nat} (hx : x.plans = (s.race r).plans) :
    Stands s ((s.setRace r x).fset f v i h) := (State.setRace_stands hx).trans (State.fset_stands _ _ _ _ _)

theorem State.trackOn_stands (s : State) (r : Nat) : Stands s (s.trackOn r) := by
  unfold State.trackOn
  exact .ite (.ite (State.setRace_fset_stands (by rfl)) (.ite (.ite (State.setRace_fset_stands (by rfl)) (State.setRace_stands (by rfl))) (State.setRace_stands (by rfl)))) rfl

theorem State.countPins_stands (s : State) (race pr : Nat) (syms : List Nat) : Stands s (s.countPins race pr syms) := by
  unfold State.countPins
  refine .each (fun pin u => .ite rfl ?_) _ s
  lift_lets
  intro q k n u1 hit q' u2 lo w w'
  have h1 : Stands u u1 := rfl
  have h2 : Stands u1 u2 := rfl
  exact .ite (h1.trans (h2.trans ((u2.setRaw_stands _ _ _).trans (State.raise_stands _ _ _ _)))) h1

theorem State.askRetrain_stands (s : State) (race : Nat) : Stands s (s.askRetrain race) :=
  .ite rfl ((s.fset_stands _ _ _ _).trans (State.setFan_stands _ _ _))

theorem State.queueRepair_stands (s : State) (p : Place) : Stands s ((s.queueRepair p).getD s) := by
  unfold State.queueRepair
  split
  · rfl
  · split
    · rfl
    · exact (State.setRaw_stands s _ _ _).trans (State.askRetrain_stands _ p.race)

theorem State.trackRow_stands (s : State) (a : Nat) (ue : Bool) : Stands s (s.trackRow a ue) := by
  unfold State.trackRow
  lift_lets
  intro p h q base thr old cnt0 cnt e rest lo rest' s1 w s2 s3
  have h1 : Stands s s1 := rfl
  have h3 : Stands s1 s3 := (s1.setRaw_stands _ _ _).trans (s2.raise_stands _ _ _)
  exact .ite (.ite ((h1.trans h3).trans (s3.queueRepair_stands p)) (h1.trans h3)) h1

theorem State.noteCE_stands (s : State) (a : Nat) (syms : List Nat) : Stands s (s.noteCE a syms) :=
  ((s.countCE_stands _).trans (State.countPins_stands _ _ _ _)).trans (State.trackRow_stands _ a false)

theorem State.copyRow_stands (s : State) (w : Nat) (errs : List (Nat × List (Nat × Byte))) : Stands s (s.copyRow w errs) := by
  unfold State.copyRow
  refine .each (fun c u => .ite rfl ?_) _ s
  dsimp only
  split
  · exact ((u.countUE_stands _).trans (State.trackRow_stands _ _ true)).trans (State.storeCell_stands _ _ _)
  · exact (u.noteCE_stands _ _).trans (State.storeCell_stands _ _ _)
  · exact .ite (u.countPsn_stands _) (((u.countPsn_stands _).trans (State.noteCE_stands _ _ _)).trans (State.storeCell_stands _ _ _))
  · rfl

theorem State.applySoft_stands (s : State) (r : Nat) (missed : List Nat) (errs : List (Nat × List (Nat × Byte))) :
    Stands s (s.applySoft r missed errs) :=
  .each (fun _ u => .ite ((u.countUE_stands r).trans (State.setRaw_stands _ _ _ _)) ((u.copyRow_stands _ errs).trans (State.setRaw_stands _ _ _ _))) _ s

theorem State.recordLanes_stands (s : State) (r : Nat) (o : LaneOut) : Stands s (s.recordLanes r o) := by
  unfold State.recordLanes
  lift_lets
  intro s1 s2 s3 x tr s4
  have h3 : Stands s s3 := (s.setRaw_stands _ _ _).trans ((s1.fset_stands _ _ _ _).trans (s2.fset_stands _ _ _ _))
  have h4 : Stands s s4 := h3.trans (State.setRace_stands (by rfl))
  split
  · exact h4.trans (s4.causeOff_stands _ _)
  · exact h4.trans (s4.raise_stands _ _ _)

theorem State.repairStep_stands (s : State) (r : Nat) : Stands s (s.repairStep r) := by
  unfold State.repairStep
  lift_lets
  intro x o s1 left y tr
  have h1 : Stands s s1 := (s.applySoft_stands r _ _).trans (State.recordLanes_stands _ r _)
  clear_value s1
  exact h1.trans (State.setRace_stands (by rfl))

theorem State.trackTick_stands (s : State) (r : Nat) : Stands s (s.trackTick r) := by
  unfold State.trackTick
  refine .ite (s.trackOn_stands r) (.ite ?_ (.ite (.ite (s.repairStep_stands r) rfl) (.ite (State.setRace_fset_stands (by rfl)) rfl)))
  split
  · exact .ite (State.setRace_stands (by rfl)) rfl
  · rfl

end Sys2Proof.Machine
end

section
/-! SUPPORT. The operations of the Turn boundary that leave what was decided: slot swaps, Tally, Hoist, Governor, modules and resets. -/
namespace Sys2Proof.Machine

variable {s t u : State}

/-! ### Slot swaps and Tally -/

theorem State.countTurn_stands (s : State) (h : Nat) : Stands s (s.countTurn h) := .each (fun _ u => u.tally_stands _ _ _ _) _ s

theorem State.tallyLatch_stands (s : State) (turn h : Nat) : Stands s (s.tallyLatch turn h) := .of (by rfl)

theorem State.latchTallies_stands (s : State) : Stands s s.latchTallies := by
  unfold State.latchTallies
  exact .ite ((s.tallyLatch_stands _ 0).trans (State.tallyLatch_stands _ _ 1)) (s.tallyLatch_stands _ 0)

theorem State.swapRace_stands (s : State) (r : Nat) : Stands s (s.swapRace r) := by
  unfold State.swapRace
  lift_lets
  intro x
  split
  · exact .ite (State.setRace_fset_stands (by rfl)) rfl
  · next ws hws =>
    lift_lets
    intro s1 s2
    have h1 : Stands s s1 := .each (fun _ u => u.setRaw_stands _ _ _) _ s
    have h2 : Stands s1 s2 := ((State.fset_stands _ _ _ _ _).trans (State.fset_stands _ _ _ _ _)).trans (State.fset_stands _ _ _ _ _)
    have h3 : Stands s s2 := h1.trans h2
    have hx : x.plans = (s2.race r).plans := (congrFun (congrArg Decided.plans h3) r).symm
    exact h3.trans (State.setRace_stands hx)

theorem State.noteSwap_stands (s : State) (left : Nat) : Stands s (s.noteSwap left) := by
  unfold State.noteSwap
  split
  · exact .ite (.of (by rfl)) rfl
  · rfl

theorem State.swapAll_stands (s : State) : Stands s s.swapAll := by
  unfold State.swapAll
  lift_lets
  intro due left
  have hswaps : Stands s (each due (fun r u => u.swapRace r) (s.noteSwap left)) :=
    (s.noteSwap_stands left).trans (.each (fun r u => u.swapRace_stands r) _ _)
  exact .ite (hswaps.trans (State.fset_stands _ _ _ _ _)) rfl

/-! ### Hoist -/

theorem State.setReady_stands (s : State) (h : Nat) : Stands s (s.setReady h) := by
  unfold State.setReady
  exact ((s.fset_stands _ _ _ _).trans (State.boot_stands (by rfl))).trans (State.gov_stands (by rfl))

theorem State.stampHdrs_stands (s : State) (h : Nat) : Stands s (s.stampHdrs h) := by
  unfold State.stampHdrs State.writeHdrs
  exact ((s.setHst_stands h _).trans (State.setHst_stands _ h _)).trans (State.setHst_stands _ h _)

theorem State.openHdrs_stands (s : State) (h : Nat) : Stands s (s.openHdrs h) := by
  unfold State.openHdrs
  exact (s.stampHdrs_stands h).trans (State.setHst_stands _ h _)

theorem State.attachDrain_stands (s : State) (h : Nat) : Stands s (s.attachDrain h) := .ite (s.setHst_stands h _) rfl

theorem State.ceilCause_stands (s : State) (h : Nat) : Stands s (s.ceilCause h) := by
  unfold State.ceilCause
  exact .ite ((s.setHst_stands h _).trans (State.raise_stands _ _ _ _))
    (.ite ((s.setHst_stands h _).trans (State.causeOff_stands _ _ _)) rfl)

theorem State.issueReads_stands (s : State) (h v kind : Nat) : Stands s (s.issueReads h v kind) := s.setHst_stands h _

theorem State.restoreMore_stands (s : State) (h : Nat) : Stands s (s.restoreMore h) := by
  unfold State.restoreMore
  exact .ite (.each (fun v u => .ite (u.issueReads_stands h v 1) rfl) _ s) rfl

theorem State.hoistTick_stands (s : State) (h : Nat) : Stands s (s.hoistTick h) := by
  unfold State.hoistTick
  lift_lets
  intro x ready s1 x1 s2 x2 s3 x3 zero x4 s4 s5 x5 s6
  have h1 : Stands s s1 := .ite (s.openHdrs_stands h) rfl
  have h2 : Stands s1 s2 := .ite ((s1.setHst_stands h _).trans (State.setReady_stands _ h)) rfl
  have h3 : Stands s2 s3 := .ite (s2.setHst_stands h _) rfl
  have h4 : Stands s3 s4 := s3.setHst_stands h _
  have h5 : Stands s4 s5 := .ite (s4.stampHdrs_stands h) rfl
  have h6 : Stands s5 s6 := .ite ((s5.setHst_stands h _).trans (State.causeOff_stands _ _ _)) rfl
  have h7 := ((s6.attachDrain_stands h).trans (State.ceilCause_stands _ h)).trans (State.restoreMore_stands _ h)
  exact .ite (.ite (s.setReady_stands h) rfl) (h1.trans (h2.trans (h3.trans (h4.trans (h5.trans (h6.trans h7))))))

theorem State.startHoist_stands (s : State) (h : Nat) : Stands s (s.startHoist h) := .ite (.of (by rfl)) rfl

/-! ### Governor -/

theorem State.entryOff_stands (s : State) (h : Nat) : Stands s (s.entryOff h) :=
  .ite (s.setHst_stands h _) (.ite ((s.setHst_stands h _).trans (State.openHdrs_stands _ h)) rfl)

theorem State.abandon_stands (s : State) (res : Option (Nat × Nat)) : Stands s (s.abandon res) := by
  unfold State.abandon
  lift_lets
  intro s1 s2 gov s3
  have h1 : Stands s s1 := by
    cases res with
    | none => rfl
    | some e => exact (s.fset_stands _ _ _ _).trans (State.fset_stands _ _ _ _ _)
  have h2 : Stands s1 s2 := (s1.fset_stands _ _ _ _).trans (State.fset_stands _ _ _ _ _)
  have h3 : Stands s2 s3 := State.gov_stands (by rfl)
  exact (h1.trans (h2.trans h3)).trans ((s3.entryOff_stands 0).trans (State.entryOff_stands _ 1))

theorem State.latchPads_stands (s : State) (e : PState) : Stands s (s.latchPads e) := by
  have hgov : Stands s { s with gov := { s.gov with pads := true } } := State.gov_stands (by rfl)
  exact .ite rfl (hgov.trans (.of (by rfl)))

theorem State.askTick_stands (s : State) : Stands s s.askTick := by
  unfold State.askTick
  split
  · rfl
  · refine .ite rfl ?_
    lift_lets
    intro on ready all gov t
    have ht : Stands s t := State.gov_stands (by rfl)
    split
    · exact s.abandon_stands _
    · exact .ite (s.abandon_stands none) (.ite (ht.trans (t.latchPads_stands _)) ht)

theorem State.closeUnlock_stands (s : State) : Stands s s.closeUnlock := .ite (.of (by rfl)) (.of (by rfl))

theorem State.requestState_stands (s : State) (p : PState) (core : Option Nat) (auto drain : Bool) :
    Stands s (s.requestState p core auto drain) := by
  unfold State.requestState
  lift_lets
  intro s1 run gov s2 s3 gov' s4
  have h1 : Stands s s1 := .ite rfl (((s.fset_stands _ _ _ _).trans (State.fset_stands _ _ _ _ _)).trans (State.fset_stands _ _ _ _ _))
  have h2 : Stands s1 s2 := Stands.trans (.ite rfl (s1.fset_stands _ _ _ _)) (State.fset_stands _ _ _ _ _)
  have h3 : Stands s2 s3 := .ite rfl s2.closeUnlock_stands
  have h4 : Stands s3 s4 := State.gov_stands (by rfl)
  have h : Stands s s4 := h1.trans (h2.trans (h3.trans h4))
  exact .ite (h1.trans ((s1.fset_stands _ _ _ _).trans (State.gov_stands (by rfl))))
    (.ite (h1.trans (s1.fset_stands _ _ _ _)) (.ite (h.trans (s4.abandon_stands _)) h))

theorem State.drainFurlTick_stands (s : State) : Stands s s.drainFurlTick := .ite (s.requestState_stands _ _ _ _) rfl

theorem State.sampleTemp_stands (s : State) (d : Nat) (v : TempRead) : Stands s (s.sampleTemp d v) := by
  unfold State.sampleTemp
  lift_lets
  intro k
  split
  · exact (s.setRaw_stands _ _ _).trans (State.gov_stands (by rfl))
  · lift_lets
    intro s0 gov0 s1 gov s2 s3
    have h1 : Stands s s1 := s.setRaw_stands _ _ _
    have h2 : Stands s1 s2 := State.gov_stands (by rfl)
    have h3 : Stands s s3 := h1.trans (h2.trans (s2.causeOff_stands _ _))
    exact .ite h3 (h3.trans (s3.causeOff_stands _ _))

theorem State.sampleTemps_stands (s : State) (temps : List TempRead) : Stands s (s.sampleTemps temps) := by
  unfold State.sampleTemps
  lift_lets
  intro l fit evs gov s1
  have h1 : Stands s s1 := State.gov_stands (by rfl)
  exact (h1.trans (.each (fun d u => u.sampleTemp_stands d _) _ _)).trans (State.raiseAll_raised _ evs).stands

theorem State.sampleSupplies_stands (s : State) (vdd vbk : Nat) (mainFail : Bool) : Stands s (s.sampleSupplies vdd vbk mainFail) := by
  unfold State.sampleSupplies
  lift_lets
  intro g fail t0 mfOk read v stop episode ends g' s1
  have h1 : Stands s s1 := State.gov_stands (by rfl)
  exact .ite (h1.trans (s1.fset_stands _ _ _ _)) h1

/-! ### Modules, Flume and resets -/

theorem State.modOff_stands (s : State) (m : Nat) (st : ModState) : Stands s (s.modOff m st) := by
  have hresp : Stands s (s.discardResp m) := .of (by rfl)
  unfold State.modOff
  lift_lets
  intro s1 x
  have h1 : Stands s s1 := hresp.trans (State.fset_stands _ _ _ _ _)
  exact h1.trans (.of (by rfl))

theorem State.downTick_stands (s : State) : Stands s s.downTick := by
  unfold State.downTick
  exact Stands.trans (.of (by rfl)) (.each (fun m u => .ite rfl (u.modOff_stands m .down)) _ _)

theorem State.entryTick_stands (s : State) : Stands s s.entryTick := by
  have hentry : Stands s (if s.gov.entryDrain then s else { s with hstE := s.hstE.onEntry, hstW := s.hstW.onEntry }) := .ite rfl (.of (by rfl))
  unfold State.entryTick
  split
  · exact hentry
  · exact hentry
  · exact hentry
  · rfl

theorem State.flumeLow_stands (s : State) (h : Nat) : Stands s (s.flumeLow h) := by
  unfold State.flumeLow
  refine .ite ?_ rfl
  split
  · exact .of (by rfl)
  · rfl

theorem State.wdTick_stands (s : State) : Stands s s.wdTick := .of (by rfl)

theorem State.startSettle_stands (s : State) (k : ResetKind) : Stands s (s.startSettle k) := by
  have hboot (u : State) (flume : List FlumeEnt) (b : Boot) (hb : Stands u { u with boot := b }) :
      Stands u { u with boot := b, flume := flume } := hb.trans (.of (by rfl))
  have hraces : Stands s { s with races := if s.brk.safe then s.races.mapv (fun _ x => x.refill) else s.races } := by
    split
    · exact State.mapRaces_stands fun _ _ => rfl
    · rfl
  unfold State.startSettle
  lift_lets
  intro flume
  exact hraces.trans (hboot _ flume _ (State.boot_stands (by rfl)))

theorem State.resetTick_stands (s : State) : Stands s s.resetTick := by
  unfold State.resetTick
  split
  · exact .ite (s.startSettle_stands _) rfl
  · rfl

theorem State.toTrain_stands (s : State) (m : Nat) : Stands s (s.toTrain m) := .of (by rfl)

theorem State.startMods_stands (s : State) (l : List Nat) : Stands s (s.startMods l) := by
  unfold State.startMods
  refine .each (fun m u => ?_) l s
  lift_lets
  intro out u1
  have h1 : Stands u u1 := .of (by rfl)
  exact .ite (h1.trans (u1.toTrain_stands m)) h1

theorem State.startRaces_stands (s : State) (l : List Nat) (keep : Bool) : Stands s (s.startRaces l keep) := by
  unfold State.startRaces
  exact .ite rfl (.each (fun r u => u.startRace_stands r _) l s)

end Sys2Proof.Machine
end

section
/-! The obligation on the Turn boundary: what each part of it takes in force, and the whole. -/
namespace Sys2Proof.Machine

variable {s t u : State}

/-! ### What comes into force -/

/-- The steps decided for this Turn, at its first mc. -/
def Decided.begins (d : Decided) (off : Bool) : Decided :=
  { d with clk := d.clk.next off, dstep := d.dstepN.getD d.dstep, bstep := d.bstepN.getD d.bstep, istep := d.istepN.getD d.istep
           dstepN := none, bstepN := none, istepN := none }

/-- Alert's decision is to be taken. -/
def Decided.dueNow (d : Decided) : Decided :=
  { d with alertDue := if d.alertNext.isNone then d.alertDue else d.alertNext, alertNext := none }

/-- West is released 0.1 ms after East, outside a reset. -/
def Decided.released (d : Decided) : Decided :=
  match d.rest with
  | some (a, _) => if d.inReset.isNone && decide (d.clk.age ≥ a + 625) then { d with rest := none, westUp := true } else d
  | none => d

/-- Weir's results. -/
def Decided.budgeted (d : Decided) : Decided := { d with budget := d.budgetN.getD d.budget, budgetN := none }

/-- A plan made for the next Turn is the plan in force. -/
def Plans.Taken (p q : Plans) : Prop := (∀ a, p.nextA = some a → q.planA = a) ∧ ∀ b, p.nextB = some b → q.planB = b

theorem State.setRace_decided (s : State) (r : Nat) (x : Race) :
    (s.setRace r x).decided = { s.decided with plans := Function.update s.decided.plans r x.plans } := by
  have hplans : (s.setRace r x).decided.plans = Function.update s.decided.plans r x.plans := by
    funext i
    show ((s.setRace r x).race i).plans = _
    rw [State.setRace_races_at, Function.update_apply]
    split <;> rfl
  rw [← hplans]
  rfl

theorem State.raceTick_decided (s : State) (r : Nat) :
    ∃ q, (s.raceTick r).decided = { s.decided with plans := Function.update s.decided.plans r q } ∧ (s.race r).plans.Taken q := by
  unfold State.raceTick
  lift_lets
  intro s1 pA pB x y
  have h1 : Stands s s1 := s.giveDues_stands r
  have hx : x.plans = (s.race r).plans := congrFun (congrArg Decided.plans h1) r
  clear_value s1
  refine ⟨y.plans, Eq.trans ((s1.setRace r y).pdNote_stands r _) ?_, fun a ha => ?_, fun b hb => ?_⟩
  · rw [State.setRace_decided, h1]
  · rw [← hx] at ha
    have hnext : x.nextA = some a := ha
    show x.nextA.getD pA = a
    rw [hnext]
    rfl
  · rw [← hx] at hb
    have hnext : x.nextB = some b := hb
    show x.nextB.getD pB = b
    rw [hnext]
    rfl

/-- Races ticked one after another each take their own plans. -/
theorem each_raceTick {f : Nat → State → State} (hf : ∀ r u, Stands (u.raceTick r) (f r u)) (l : List Nat) (hl : l.Nodup) (s : State) :
    ∃ q, (each l f s).decided = { s.decided with plans := q } ∧ (∀ r, r ∉ l → q r = (s.race r).plans)
      ∧ ∀ r ∈ l, (s.race r).plans.Taken (q r) := by
  unfold each
  induction l generalizing s with
  | nil => exact ⟨s.decided.plans, rfl, fun _ _ => rfl, fun r hr => absurd hr (List.not_mem_nil)⟩
  | cons i l ih =>
    obtain ⟨hi, hl⟩ := List.nodup_cons.mp hl
    obtain ⟨p, htick, htaken⟩ := s.raceTick_decided i
    have hstep : (f i s).decided = { s.decided with plans := Function.update s.decided.plans i p } := Eq.trans (hf i s) htick
    have hplans : ∀ r, ((f i s).race r).plans = Function.update s.decided.plans i p r := congrFun (congrArg Decided.plans hstep)
    obtain ⟨q, hrest, hout, hin⟩ := ih hl (f i s)
    refine ⟨q, ?_, fun r hr => ?_, fun r hr => ?_⟩
    · rw [List.foldl_cons, hrest, hstep]
    · obtain ⟨hne, hr⟩ := List.ne_and_not_mem_of_not_mem_cons hr
      rw [hout r hr, hplans, Function.update_of_ne hne]
      rfl
    · obtain rfl | hr := List.mem_cons.mp hr
      · rw [hout r hi, hplans, Function.update_self]
        exact htaken
      · have hne : r ≠ i := fun h => hi (h ▸ hr)
        have h := hin r hr
        rw [hplans, Function.update_of_ne hne] at h
        exact h

/-! ### West and Weir -/

theorem State.releaseRest_decided (s : State) (keep : Bool) : (s.releaseRest keep).decided = { s.decided with rest := none, westUp := true } := by
  unfold State.releaseRest
  lift_lets
  intro boot core mil u
  have hu : u.decided = { s.decided with rest := none, westUp := true } := rfl
  have hstart := (((u.startMods_stands (List.range 20)).trans (State.startRaces_stands _ (List.range 32) keep)).trans
    (State.startHoist_stands _ 0)).trans (State.startHoist_stands _ 1)
  exact Eq.trans hstart hu

theorem State.restTick_decided (s : State) : s.restTick.decided = s.decided.released := by
  have hrest : s.decided.rest = s.boot.rest := rfl
  unfold State.restTick Decided.released
  rw [hrest]
  cases s.boot.rest with
  | none => rfl
  | some e =>
    by_cases h : (s.boot.inReset.isNone && decide (s.clk.age ≥ e.1 + 625)) = true
    · exact (congrArg State.decided (if_pos h)).trans ((s.releaseRest_decided e.2).trans (if_pos h).symm)
    · exact (congrArg State.decided (if_neg h)).trans (if_neg h).symm

theorem State.weirTick_decided (s : State) : s.weirTick.decided = s.decided.budgeted := by
  unfold State.weirTick
  lift_lets
  intro w bg scale
  have hscale : ∀ u f, Stands u (scale u f) := fun u f => .ite ((u.fset_stands _ _ _ _).trans (State.raise_stands _ _ _ _)) rfl
  split
  · next h =>
    have hnone : s.weir.budgetN = none := h
    have hw : ({ s with weir := { w with bgLeft := bg w.budget w.floor, hLeft := w.hoist1 } } : State).decided = s.decided := rfl
    have hb : s.decided.budgeted = s.decided := by
      show { s.decided with budget := s.weir.budgetN.getD s.weir.budget, budgetN := none } = s.decided
      rw [Decided.mk.injEq]
      simp only [hnone, Option.getD_none, true_and, and_true]
      exact ⟨rfl, hnone.symm⟩
    exact Eq.trans (hscale _ _) (hw.trans hb.symm)
  · next b h =>
    have hsome : s.weir.budgetN = some b := h
    lift_lets
    intro f lv s1 s2 s3
    have h1 : s1.decided = s.decided.budgeted := by
      show { s.decided with budget := b, budgetN := none } = { s.decided with budget := s.weir.budgetN.getD s.weir.budget, budgetN := none }
      rw [hsome]
      rfl
    have h2 : Stands s1 s2 := ((s1.fset_stands _ _ _ _).trans (State.fset_stands _ _ _ _ _)).trans (State.fset_stands _ _ _ _ _)
    have h3 : Stands s2 s3 := ((s2.fset_stands _ _ _ _).trans (State.fset_stands _ _ _ _ _)).trans (State.fset_stands _ _ _ _ _)
    exact Eq.trans (h2.trans (h3.trans ((s3.fset_stands _ _ _ _).trans (hscale _ _)))) h1

theorem State.poolTick_stands (s : State) (fresh : Bool) : Stands s (s.poolTick fresh) := by
  unfold State.poolTick
  rfl

/-! ### The boundary -/

theorem State.begin_decided (s : State) (off : Bool) :
    ({ s with clk := s.clk.next off, eff := {}, gov := s.gov.stepsNow } : State).decided = s.decided.begins off := rfl

theorem State.dueNow_decided (s : State) (age : Nat) (sag : Bool) :
    ({ s with gov := s.gov.dueNow age sag } : State).decided = s.decided.dueNow := rfl

/-- What is decided and in force after the boundary. -/
theorem State.boundary_decided (s : State) (temps : List TempRead) (vdd vbk : Nat) (mainFail : Bool) :
    ∃ q, (s.boundary temps vdd vbk mainFail).decided = (Decided.released { (s.decided.begins false).dueNow with plans := q }).budgeted
      ∧ ∀ r, r < 32 → (s.race r).plans.Taken (q r) := by
  unfold State.boundary
  lift_lets
  intro s1 s2 s3 s4 fresh s5 s6 s7 s8 s9 s10 s11 g s12 s13 d
  have h4 : Stands s s4 := ((s.countTurn_stands 0).trans (.ite (s1.countTurn_stands 1) rfl)).trans (s2.latchTallies_stands.trans s3.swapAll_stands)
  clear_value s4
  have h7 : s7.decided = d := by
    have h5 : s5.decided = s4.decided.begins false := s4.begin_decided false
    have h6 : Stands s5 s6 := s5.sampleSupplies_stands vdd vbk mainFail
    clear_value s6
    rw [State.dueNow_decided s6, h6, h5, h4]
  clear_value s7
  obtain ⟨q, h8, -, htaken⟩ := each_raceTick (fun r u => (u.raceTick r).trackTick_stands r) (List.range 32) List.nodup_range s7
  have hplans : ∀ r, (s7.race r).plans = (s.race r).plans := congrFun (congrArg Decided.plans h7)
  refine ⟨q, ?_, fun r hr => hplans r ▸ htaken r (List.mem_range.mpr hr)⟩
  have h9 : s9.decided = (Decided.released { d with plans := q }).budgeted := by
    have hpool : Stands s8.restTick.weirTick s9 := State.poolTick_stands _ fresh
    rw [hpool, State.weirTick_decided, State.restTick_decided, h8, h7]
  clear_value s9
  have h10 : Stands s9 s10 := .each (fun r u => (u.backIn_stands r _).trans (State.fillIn_stands _ r _)) _ s9
  have h11 : Stands s10 s11 := ((s10.downTick_stands.trans (State.entryTick_stands _)).trans (State.hoistTick_stands _ 0)).trans (State.hoistTick_stands _ 1)
  clear_value s11
  have h12 : Stands s11 s12 := State.gov_stands (by rfl)
  clear_value s12
  have h13 : Stands s12 s13 := ((s12.flumeLow_stands 0).trans (State.flumeLow_stands _ 1)).trans (State.wdTick_stands _)
  have hend := ((s13.askTick_stands.trans (State.drainFurlTick_stands _)).trans (State.resetTick_stands _)).trans (State.sampleTemps_stands _ temps)
  exact Eq.trans (h10.trans (h11.trans (h12.trans (h13.trans hend)))) h9

theorem Decided.released_eq (d : Decided) : d.released = { d with rest := d.released.rest, westUp := d.released.westUp } := by
  unfold Decided.released
  split
  · split <;> rfl
  · rfl

theorem Decided.released_due {d : Decided} {a : Nat} {keep : Bool} (hrest : d.rest = some (a, keep)) (hreset : d.inReset = none)
    (hage : a + 625 ≤ d.clk.age) : d.released = { d with rest := none, westUp := true } := by
  unfold Decided.released
  rw [hrest]
  exact if_pos (by simp [hreset, hage])

/-- The boundary while the main domains are on. -/
theorem State.boundary_inForce (s : State) (temps : List TempRead) (vdd vbk : Nat) (mainFail : Bool) :
    let t := s.boundary temps vdd vbk mainFail
    t.clk = s.clk.next false
    ∧ t.gov.dstep = s.gov.dstepN.getD s.gov.dstep ∧ t.gov.bstep = s.gov.bstepN.getD s.gov.bstep ∧ t.gov.istep = s.gov.istepN.getD s.gov.istep
    ∧ (∀ d, s.gov.alertNext = some d → t.gov.alertDue = some d)
    ∧ (∀ a k, s.boot.rest = some (a, k) → s.boot.inReset = none → a + 625 ≤ s.clk.age + 1 → t.boot.westUp = true ∧ t.boot.rest = none)
    ∧ (∀ b, s.weir.budgetN = some b → t.weir.budget = b)
    ∧ ∀ r, r < 32 → (s.race r).plans.Taken (t.race r).plans := by
  intro t
  obtain ⟨q, hdec, htaken⟩ := s.boundary_decided temps vdd vbk mainFail
  have ht : t.decided = _ := hdec
  clear_value t
  generalize he : ({ (s.decided.begins false).dueNow with plans := q } : Decided) = e at ht
  rw [e.released_eq] at ht
  refine ⟨?_, ?_, ?_, ?_, fun d hd => ?_, fun a k hrest hreset hage => ?_, fun b hb => ?_, fun r hr => ?_⟩
  · exact (congrArg Decided.clk ht).trans (he ▸ rfl)
  · exact (congrArg Decided.dstep ht).trans (he ▸ rfl)
  · exact (congrArg Decided.bstep ht).trans (he ▸ rfl)
  · exact (congrArg Decided.istep ht).trans (he ▸ rfl)
  · have hdue : t.gov.alertDue = if s.gov.alertNext.isNone then s.gov.alertDue else s.gov.alertNext :=
      (congrArg Decided.alertDue ht).trans (he ▸ rfl)
    rw [hdue, hd]
    rfl
  · have hdue : e.released = { e with rest := none, westUp := true } :=
      Decided.released_due (a := a) (keep := k) (he ▸ hrest) (he ▸ hreset) (he ▸ hage)
    exact ⟨(congrArg Decided.westUp ht).trans (congrArg Decided.westUp hdue), (congrArg Decided.rest ht).trans (congrArg Decided.rest hdue)⟩
  · have hbudget : t.weir.budget = s.weir.budgetN.getD s.weir.budget := (congrArg Decided.budget ht).trans (he ▸ rfl)
    rw [hbudget, hb]
    rfl
  · have hq : (t.race r).plans = q r := (congrFun (congrArg Decided.plans ht) r).trans (he ▸ rfl)
    exact hq ▸ htaken r hr

/-! ### The refresh engines in a warm reset (R203) -/

/-- Beside the races and their registers t is s. -/
def TicksRaces (s t : State) : Prop := ({ t with regs := s.regs, races := s.races } : State) = s

theorem TicksRaces.trans (h : TicksRaces s t) (g : TicksRaces t u) : TicksRaces s u :=
  have hmap : ({ u with regs := s.regs, races := s.races } : State) = { t with regs := s.regs, races := s.races } :=
    congrArg (fun v : State => { v with regs := s.regs, races := s.races }) (show ({ u with regs := t.regs, races := t.races } : State) = t from g)
  hmap.trans h

theorem TicksRaces.ite {c : Prop} [Decidable c] (ht : TicksRaces s t) (hu : TicksRaces s u) : TicksRaces s (if c then t else u) := by
  split
  · exact ht
  · exact hu

theorem TicksRaces.each {α : Type} {f : α → State → State} (hf : ∀ x u, TicksRaces u (f x u)) (l : List α) (s : State) :
    TicksRaces s (each l f s) := by
  unfold Machine.each
  induction l generalizing s with
  | nil => rfl
  | cons x l ih => exact (hf x s).trans (ih (f x s))

theorem State.setRace_ticks (s : State) (r : Nat) (x : Race) : TicksRaces s (s.setRace r x) := rfl
theorem State.fset_ticks (s : State) (f : Field) (v i h : Nat) : TicksRaces s (s.fset f v i h) := rfl

theorem State.raceTick_ticks (s : State) (r : Nat) : TicksRaces s (s.raceTick r) :=
  ((s.setRace_ticks r _).trans (State.setRace_ticks _ r _)).trans (State.setRace_ticks _ r _)

theorem State.trackOn_ticks (s : State) (r : Nat) : TicksRaces s (s.trackOn r) := by
  have hset (x : Race) : TicksRaces s (s.setRace r x) := s.setRace_ticks r x
  have hfield (x : Race) (f : Field) (v i h : Nat) : TicksRaces s ((s.setRace r x).fset f v i h) := (hset x).trans (State.fset_ticks _ f v i h)
  unfold State.trackOn
  exact .ite (.ite (hfield _ _ _ _ _) (.ite (.ite (hfield _ _ _ _ _) (hset _)) (hset _))) rfl

/-- Settles O7: a boundary is what each of its parts takes in force, and nothing after that part changes it (`State.boundary_inForce`); in a warm
reset the races alone are ticked, and otherwise only the clock and the record of MAIN_FAIL are. -/
theorem turnBoundaryAdvancesTime : Obligations.TurnBoundaryAdvancesTime := by
  intro temps vdd vbk mainFail s
  obtain ⟨t, ht, htame⟩ := execTurnBoundary_out s temps vdd vbk mainFail
  refine ⟨t, ht, htame.pend, htame.fuse rfl, ?_⟩
  have hif := Host.Outcome.next.inj ht
  clear ht htame
  by_cases hmains : s.mainsOn = true
  · have hrefresh : s.refreshOn = true := by simp [State.refreshOn, hmains]
    rw [if_pos hmains] at hif
    obtain ⟨hclk, hd, hb, hi, hdue, hrest, hbudget, htaken⟩ := s.boundary_inForce temps vdd vbk mainFail
    rw [hif] at hclk hd hb hi hdue hrest hbudget htaken
    rw [hclk]
    exact ⟨rfl, rfl, rfl, rfl, rfl, rfl, rfl,
      fun _ => ⟨rfl, hd, hb, hi, hdue, hrest, hbudget, fun r p hr hp => (htaken r hr).1 p hp, fun r p hr hp => (htaken r hr).2 p hp⟩,
      fun h => absurd (hmains.symm.trans h) (by decide), fun h => absurd (hrefresh.symm.trans h) (by decide)⟩
  · rw [if_neg hmains] at hif
    by_cases hrefresh : s.refreshOn = true
    · rw [if_pos hrefresh] at hif
      generalize hu : ({ s with gov := s.gov.watchMain (s.clk.age + 1) mainFail, clk := s.clk.next false } : State) = u at hif
      have hframe : TicksRaces u _ := .each (fun r v => (v.raceTick_ticks r).trans (State.trackOn_ticks _ r)) (List.range 32) u
      obtain ⟨q, hdec, -, htaken⟩ := each_raceTick (fun r v => (v.raceTick r).trackOn_stands r) (List.range 32) List.nodup_range u
      rw [hif] at hframe hdec
      subst hu
      have hplans : ∀ r, (t.race r).plans = q r := congrFun (congrArg Decided.plans hdec)
      have hplansTaken : ∀ r, r < 32 → (s.race r).plans.Taken (t.race r).plans := fun r hr => hplans r ▸ htaken r (List.mem_range.mpr hr)
      have hclk : t.clk = s.clk.next false := (congrArg State.clk hframe :)
      rw [hclk]
      exact ⟨rfl, rfl, rfl, rfl, rfl, rfl, rfl, fun h => absurd h hmains,
        fun _ _ => ⟨rfl, (congrArg State.mods hframe :), (congrArg State.hop hframe :), (congrArg State.pond hframe :), (congrArg State.flume hframe :),
          (congrArg State.dram hframe :), fun r p hr hp => (hplansTaken r hr).1 p hp, fun r p hr hp => (hplansTaken r hr).2 p hp⟩,
        fun h => absurd (hrefresh.symm.trans h) (by decide)⟩
    · rw [if_neg hrefresh] at hif
      subst hif
      refine ⟨rfl, rfl, rfl, rfl, rfl, rfl, rfl, fun h => absurd h hmains, fun _ h => absurd h hrefresh, fun _ => ⟨rfl, rfl, ?_⟩⟩
      simp only [Clk.next, Bool.or_eq_true, Bool.and_eq_true, decide_eq_true_eq, Bool.not_eq_true', or_assoc]

end Sys2Proof.Machine
end

section
/-!
SUPPORT. The store buffers: entries of Flume that close, and what the records of requests and the dirty pages leave as it was.
-/
namespace Sys2Proof.Machine

variable {s t : State}

/-! ### Requests -/

theorem State.updReq_some {id : Nat} {q : Req} (h : s.hop.reqs.find? id = some q) (f : Req → Req) :
    s.updReq id f = { s with hop := { s.hop with reqs := s.hop.reqs.ins id (f q) } } := by
  unfold State.updReq
  rw [h]

theorem State.reqIs_some {id : Nat} {q : Req} (h : s.hop.reqs.find? id = some q) (p : Req → Bool) : s.reqIs id p = p q := by
  unfold State.reqIs
  rw [h]

/-- A command that is tame leaves the queue, the DRAM content and the fuses. -/
theorem Tame.intact {ck : Bool} (h : Tame true true ck s t) : Intact s t := ⟨h.pend, h.dram rfl, h.fuse rfl⟩

/-! ### Entries of Flume that close (R105) -/

/-- The entry, closed where it satisfies p. -/
def FlumeEnt.closedIf (p : FlumeEnt → Bool) (e : FlumeEnt) : FlumeEnt := { e with closed := e.closed || p e }

theorem FlumeEnt.close_eq (p : FlumeEnt → Bool) (e : FlumeEnt) :
    (if !e.closed && p e then { e with closed := true } else e) = e.closedIf p := by
  unfold FlumeEnt.closedIf
  generalize p e = b
  cases e with
  | mk _ _ _ _ _ _ _ _ _ _ _ _ closed => cases closed <;> cases b <;> rfl

theorem State.flumeClose_eq (s : State) (p : FlumeEnt → Bool) : s.flumeClose p = { s with flume := s.flume.map (FlumeEnt.closedIf p) } := by
  simp only [State.flumeClose, mapIf, FlumeEnt.close_eq]

theorem FlumeEnt.closedIf_of_not {p : FlumeEnt → Bool} {e : FlumeEnt} (h : p e = false) : e.closedIf p = e := by
  simp [FlumeEnt.closedIf, h]

theorem State.flumeClose_none (s : State) : s.flumeClose (fun _ => false) = s := by
  have hid : FlumeEnt.closedIf (fun _ => false) = id := funext fun _ => FlumeEnt.closedIf_of_not rfl
  rw [s.flumeClose_eq, hid, List.map_id]

/-- What closes twice closes once. -/
theorem State.flumeClose_twice (s : State) (p q : FlumeEnt → Bool) : ∃ r, (s.flumeClose p).flumeClose q = s.flumeClose r := by
  refine ⟨fun e => p e || q (e.closedIf p), ?_⟩
  simp [State.flumeClose_eq, FlumeEnt.closedIf, Bool.or_assoc]

theorem State.flumeLow_close (s : State) (h : Nat) : ∃ p, s.flumeLow h = s.flumeClose p := by
  unfold State.flumeLow
  dsimp only
  split
  · split
    · exact ⟨_, rfl⟩
    · exact ⟨_, s.flumeClose_none.symm⟩
  · exact ⟨_, s.flumeClose_none.symm⟩

theorem State.dirtyAt_eq (s : State) (a : Nat) : ∃ e w, s.dirtyAt a = { s with hstE := e, hstW := w } := by
  unfold State.dirtyAt
  split
  · exact ⟨_, _, rfl⟩
  · exact ⟨_, _, rfl⟩

end Sys2Proof.Machine
end

section
/-! The obligation on stores that enter Millpond and Flume. -/
namespace Sys2Proof.Machine

variable {s : State} {id : Nat} {q : Req}

/-! ### Millpond -/

theorem State.toPond_eq (h : s.hop.reqs.find? id = some q) : s.toPond id =
    { s with flume := s.flume.map (FlumeEnt.closedIf fun e => decide (e.blk = q.addr / 256)), pond := s.pond ++ q.pondEnts id
             hop := { s.hop with reqs := s.hop.reqs.ins id { q with phase := .working, data := if q.opc = Opc.amo then q.data else [] } } } := by
  simp only [State.toPond, h, State.flumeClose_eq]
  exact State.updReq_some (q := q) (by exact h) _

/-- WR, WRP, WRC and AMO put their data into Millpond in one way. -/
theorem exec_toPond {c : Instr} (h : (c = .wr id ∧ s.freshBuf id Opc.wr = true) ∨ (c = .wrp id ∧ s.freshBuf id Opc.wrp = true)
      ∨ (c = .wrc id ∧ s.freshBuf id Opc.wrc = true) ∨ (c = .amo id ∧ s.freshBuf id Opc.amo = true)) : exec c s = .next (s.toPond id) := by
  obtain ⟨rfl, hf⟩ | ⟨rfl, hf⟩ | ⟨rfl, hf⟩ | ⟨rfl, hf⟩ := h <;> exact congrArg Host.Outcome.next (when_true hf _ s)

/-! ### Flume (R104, R105) -/

/-- A WRN joins the entry. -/
def Req.joins (q : Req) (e : FlumeEnt) : Bool := decide (e.blk = q.addr / 256) && e.stream = q.stream && !e.closed

/-- The entry lies in the WRN's block and is another stream's. -/
def Req.foreign (q : Req) (e : FlumeEnt) : Bool := decide (e.blk = q.addr / 256) && decide (e.stream ≠ q.stream)

/-- The cells of a WRN combined into the entry that it joins, or into a new one. -/
def State.combined (s : State) (id : Nat) (q : Req) : State :=
  if s.flume.any q.joins then { s with flume := mapIf q.joins (fun e => e.combine q id s.clk.age) s.flume }
  else
    let e : FlumeEnt := { fid := s.nextFid, half := q.target, blk := q.addr / 256, race := q.race, stream := q.stream, cls := q.cls, last := s.clk.age }
    { s with flume := s.flume ++ [e.combine q id s.clk.age], nextFid := s.nextFid + 1 }

/-- After it has joined its entry or opened a new one, a WRN only closes entries. -/
theorem State.toFlume_eq (h : s.hop.reqs.find? id = some q) : ∃ i p, s.toFlume id =
    (((((s.flumeClose q.foreign).combined id q).tallyStore q.target i 1).flumeClose p).dirtyAt q.addr).updReq id
      fun q => { q with phase := .working, data := [] } := by
  have hif (u : State) (c : Bool) (p : FlumeEnt → Bool) : ∃ r, (if c then u.flumeClose p else u) = u.flumeClose r := by
    cases c
    · exact ⟨_, u.flumeClose_none.symm⟩
    · exact ⟨p, rfl⟩
  have hlow (u : State) (c : Bool) : ∃ r, (if c then u else u.flumeLow q.target) = u.flumeClose r := by
    cases c
    · exact u.flumeLow_close q.target
    · exact ⟨_, u.flumeClose_none.symm⟩
  generalize hj : (s.flumeClose q.foreign).flume.any q.joins = joined
  generalize hv : ((s.flumeClose q.foreign).combined id q).tallyStore q.target (if joined then 2 else 1) 1 = v
  obtain ⟨r, hr⟩ := hlow v joined
  generalize hl : ((v.flumeClose r).barCovers id
    || (v.flumeClose r).pond.any fun o => !o.tally && o.stream = q.stream && decide (o.addr / 256 = q.addr / 256) && decide (id < o.id)) = c
  obtain ⟨r', hr'⟩ := hif (v.flumeClose r) c q.joins
  obtain ⟨p, hp⟩ := v.flumeClose_twice r r'
  refine ⟨if joined then 2 else 1, p, ?_⟩
  rw [hv, ← hp, ← hr', ← hl, ← hr, ← hv, ← hj]
  unfold State.toFlume
  rw [h]
  rfl

theorem Req.joins_closedIf_foreign (q : Req) (e : FlumeEnt) : q.joins (e.closedIf q.foreign) = q.joins e := by
  by_cases hs : e.stream = q.stream
  · rw [FlumeEnt.closedIf_of_not (by simp [Req.foreign, hs])]
  · simp [Req.joins, FlumeEnt.closedIf, hs]

theorem State.any_joins_flumeClose (s : State) (q : Req) : (s.flumeClose q.foreign).flume.any q.joins = s.flume.any q.joins := by
  rw [State.flumeClose_eq, List.any_map]
  exact congrArg (s.flume.any ·) (funext q.joins_closedIf_foreign)

/-- What a WRN's cells do to Flume: they are in an entry of their block and their stream; the other entries stand. -/
theorem State.combined_flume (s : State) (id : Nat) (q : Req) :
    (∃ e ∈ (s.combined id q).flume, e.blk = q.addr / 256 ∧ e.stream = q.stream ∧ id ∈ e.ids)
      ∧ (∀ e ∈ (s.combined id q).flume, e ∈ s.flume ∨ e.stream = q.stream) := by
  unfold State.combined
  split
  · next hany =>
    obtain ⟨e, he, hj⟩ := List.any_eq_true.mp hany
    have hmine : e.blk = q.addr / 256 ∧ e.stream = q.stream := by
      simp only [Req.joins, Bool.and_eq_true, decide_eq_true_eq] at hj
      exact hj.1
    refine ⟨⟨e.combine q id s.clk.age, List.mem_map.mpr ⟨e, he, if_pos hj⟩, hmine.1, hmine.2, List.mem_append_right _ (List.mem_singleton_self id)⟩, ?_⟩
    intro x hx
    obtain ⟨y, hy, rfl⟩ := List.mem_map.mp hx
    split
    · next hy' =>
      simp only [Req.joins, Bool.and_eq_true, decide_eq_true_eq] at hy'
      exact .inr hy'.1.2
    · exact .inl hy
  · refine ⟨⟨_, List.mem_append_right _ (List.mem_singleton_self _), rfl, rfl, List.mem_append_right _ (List.mem_singleton_self id)⟩, ?_⟩
    intro x hx
    obtain hx | hx := List.mem_append.mp hx
    · exact .inl hx
    · exact .inr (List.mem_singleton.mp hx ▸ rfl)

theorem State.combined_joined (h : s.flume.any q.joins = true) (id : Nat) :
    (s.combined id q).flume.length = s.flume.length := by
  unfold State.combined
  rw [if_pos h]
  exact List.length_map ..

theorem State.combined_opened (h : s.flume.any q.joins = false) (id : Nat) :
    (s.combined id q).flume.length = s.flume.length + 1 ∧ (s.combined id q).nextFid = s.nextFid + 1 := by
  unfold State.combined
  rw [if_neg (by simp [h])]
  exact ⟨List.length_append .., rfl⟩

theorem State.combined_rest (s : State) (id : Nat) (q : Req) :
    ({ s.combined id q with flume := s.flume, nextFid := s.nextFid } : State) = s := by
  unfold State.combined
  split <;> rfl

/-- The whole of a WRN: its request, and Flume as combined with some entries closed. -/
theorem State.toFlume_parts (h : s.hop.reqs.find? id = some q) :
    (s.toFlume id).pond = s.pond ∧ (s.toFlume id).mods = s.mods ∧ (s.toFlume id).races = s.races
      ∧ (s.toFlume id).hop.reqs = s.hop.reqs.ins id { q with phase := .working, data := [] }
      ∧ (s.toFlume id).nextFid = ((s.flumeClose q.foreign).combined id q).nextFid
      ∧ ∃ p, (s.toFlume id).flume = ((s.flumeClose q.foreign).combined id q).flume.map (FlumeEnt.closedIf p) := by
  obtain ⟨i, p, heq⟩ := State.toFlume_eq h
  rw [heq]
  have hrest := (s.flumeClose q.foreign).combined_rest id q
  generalize (s.flumeClose q.foreign).combined id q = v at hrest
  obtain ⟨e, w, hd⟩ := ((v.tallyStore q.target i 1).flumeClose p).dirtyAt_eq q.addr
  have hhop : v.hop = s.hop := (congrArg State.hop hrest :)
  rw [hd, State.updReq_some (q := q) (by exact hhop ▸ h), State.flumeClose_eq]
  exact ⟨(congrArg State.pond hrest :), (congrArg State.mods hrest :), (congrArg State.races hrest :), by rw [← hhop]; rfl, rfl, p, rfl⟩

/-- Settles O36: WR, WRP, WRC and AMO put their cells into Millpond (`State.toPond_eq`); a WRN combines into its stream's entry or opens one
(`State.combined_flume`), and beside that entries only close (`State.toFlume_eq`). -/
theorem storesEnterTheBuffers : Obligations.StoresEnterTheBuffers := by
  intro s id q c hq
  constructor
  · intro hc
    refine ⟨_, exec_toPond hc, ?_⟩
    rw [State.toPond_eq hq]
    refine ⟨rfl, by simp [Req.pondEnts], by simp [FlumeEnt.closedIf], ?_, Tbl.find_ins_same _ _ _, rfl⟩
    intro e he hblk
    obtain ⟨x, -, rfl⟩ := List.mem_map.mp he
    simp only [FlumeEnt.closedIf, Bool.or_eq_true, decide_eq_true_eq] at hblk ⊢
    exact .inr hblk
  · intro hfresh hahead
    have hcond : (s.fresh id Opc.wrn && s.reqIs id fun q => !s.blockAhead id q) = true := by simp [hfresh, State.reqIs_some hq, hahead]
    obtain ⟨t, ht, htame⟩ := execWrn_out s id
    have hrun : s.toFlume id = t := Host.Outcome.next.inj ((congrArg Host.Outcome.next (when_true hcond (fun s => s.toFlume id) s)).symm.trans ht)
    refine ⟨t, ht, htame.intact, htame.clk rfl, ?_⟩
    clear ht htame
    obtain ⟨hpond, hmods, hraces, hreqs, hfid, p, hflume⟩ := State.toFlume_parts hq
    rw [hrun] at hpond hmods hraces hreqs hfid hflume
    obtain ⟨⟨e, he, hblk, hstream, hid⟩, hothers⟩ := (s.flumeClose q.foreign).combined_flume id q
    refine ⟨hpond, hmods, hraces, hreqs ▸ Tbl.find_ins_same _ _ _, ⟨e.closedIf p, hflume ▸ List.mem_map_of_mem he, hblk, hstream, hid⟩, ?_, ?_, ?_⟩
    · intro y hy hyblk hystream
      obtain ⟨x, hx, rfl⟩ := List.mem_map.mp (hflume ▸ hy)
      obtain hx | hx := hothers x hx
      · rw [State.flumeClose_eq] at hx
        obtain ⟨z, -, rfl⟩ := List.mem_map.mp hx
        have hforeign : q.foreign z = true := by
          simp only [FlumeEnt.closedIf] at hyblk hystream
          simp [Req.foreign, hyblk, hystream]
        simp [FlumeEnt.closedIf, hforeign]
      · exact absurd hx hystream
    · intro hjoin
      rw [hflume, List.length_map, State.combined_joined ((s.any_joins_flumeClose q).trans hjoin), State.flumeClose_eq]
      exact List.length_map ..
    · intro hjoin
      obtain ⟨hlen, hnext⟩ := State.combined_opened ((s.any_joins_flumeClose q).trans hjoin) id
      rw [hflume, List.length_map, hlen, hfid, hnext, State.flumeClose_eq]
      exact ⟨congrArg (· + 1) (List.length_map ..), rfl⟩

end Sys2Proof.Machine
end

section
/-! SUPPORT. Requests as they are answered and end, reservations as they are lost, and the write queue as stores enter it. -/
namespace Sys2Proof.Machine

variable {s t u : State}

/-! ### Sparse tables -/

theorem Tbl.mem_of_find {α : Type} {t : Tbl α} {k : Nat} {v : α} (h : t.find? k = some v) : (k, v) ∈ t.rows := by
  obtain ⟨l⟩ := t
  simp only [Tbl.find?] at h
  induction l with
  | nil => simp [Tbl.findIn] at h
  | cons x r ih =>
    obtain ⟨j, w⟩ := x
    simp only [Tbl.findIn] at h
    split at h
    · next hj => exact List.mem_cons.mpr (.inl (by rw [← hj, Option.some.inj h]))
    · split at h
      · cases h
      · exact List.mem_cons_of_mem _ (ih h)

theorem Tbl.find_keep {α : Type} {t : Tbl α} {p : Nat → α → Bool} {k : Nat} {v : α} (h : (t.keep p).find? k = some v) : p k v = true :=
  (List.mem_filter.mp (Tbl.mem_of_find h)).2

theorem Tbl.keep_keep {α : Type} (t : Tbl α) (p q : Nat → α → Bool) : (t.keep p).keep q = t.keep (fun k v => p k v && q k v) := by
  simp [Tbl.keep, List.filter_filter, Bool.and_comm]

theorem Tbl.keep_all {α : Type} (t : Tbl α) : t.keep (fun _ _ => true) = t := by
  simp [Tbl.keep]

/-! ### Requests -/

/-- t is s but for the records of its requests. -/
def OnlyReqs (s t : State) : Prop := ∃ reqs, t = { s with hop := { s.hop with reqs := reqs } }

theorem OnlyReqs.refl (s : State) : OnlyReqs s s := ⟨_, rfl⟩

theorem OnlyReqs.trans (h : OnlyReqs s t) (g : OnlyReqs t u) : OnlyReqs s u := by
  obtain ⟨_, rfl⟩ := h
  obtain ⟨_, rfl⟩ := g
  exact ⟨_, rfl⟩

theorem OnlyReqs.each {α : Type} {f : α → State → State} (hf : ∀ x u, OnlyReqs u (f x u)) (l : List α) (s : State) : OnlyReqs s (each l f s) := by
  unfold Machine.each
  induction l generalizing s with
  | nil => exact .refl s
  | cons x l ih => exact (hf x s).trans (ih (f x s))

theorem State.updReq_only (s : State) (id : Nat) (f : Req → Req) : OnlyReqs s (s.updReq id f) := by
  unfold State.updReq
  split
  · exact ⟨_, rfl⟩
  · exact .refl s

theorem State.reap_only (s : State) (id : Nat) : OnlyReqs s (s.reap id) := by
  unfold State.reap
  split
  · split
    · exact ⟨_, rfl⟩
    · exact .refl s
  · exact .refl s

/-- An answer changes the records of requests, the responses that modules hold, and Tally's counters. -/
theorem State.answer_only (s : State) (id code pmask mstat val : Nat) (cells : List Cell) :
    ∃ reqs mods e w, s.answer id code pmask mstat val cells = { s with hop := { s.hop with reqs := reqs }, mods := mods, tlyE := e, tlyW := w } := by
  unfold State.answer
  split
  · exact ⟨_, _, _, _, rfl⟩
  · split
    · exact ⟨_, _, _, _, rfl⟩
    · dsimp only
      split
      · exact ⟨_, _, _, _, rfl⟩
      · exact ⟨_, _, _, _, rfl⟩

theorem State.answer_tx {id : Nat} {q : Req} (hq : s.hop.reqs.find? id = some q) (ha : q.answered = false) (ho : Opc.answered q.opc = true)
    (code pmask mstat val : Nat) (cells : List Cell) :
    ((s.answer id code pmask mstat val cells).mod q.m).tx = (s.mod q.m).tx ++ [q.resp code pmask mstat val s.now id cells] := by
  have hins (x : ModSt) (v : State) (hv : v.mods = s.mods.ins q.m x) : v.mod q.m = x := by
    simp only [State.mod, hv, Tbl.get_ins_same]
  simp only [State.answer, hq, ha, ho, Bool.not_true, Bool.or_self, Bool.false_eq_true, if_false]
  split
  · rw [hins _ _ rfl]
  · rw [hins _ _ rfl]

/-! ### Reservations -/

theorem State.clearResv_none (s : State) : s.clearResv (fun _ _ => false) = s := by
  simp [State.clearResv, Tbl.keep_all]

theorem State.clearResv_twice (s : State) (p q : Nat → Resv → Bool) : (s.clearResv p).clearResv q = s.clearResv fun k r => p k r || q k r := by
  simp [State.clearResv, Tbl.keep_keep]

/-- Cells touched one after the other lose the reservations on any of them. -/
theorem each_touch {α : Type} (a : α → Nat) (l : List α) (s : State) :
    each l (fun c s => s.touch (a c)) s = s.clearResv (fun _ r => l.any fun c => r.holds (a c)) := by
  unfold each
  induction l generalizing s with
  | nil => exact s.clearResv_none.symm
  | cons c l ih => exact (ih (s.touch (a c))).trans (s.clearResv_twice _ _)

theorem State.clearResv_find {p : Nat → Resv → Bool} {st : Nat} {r : Resv} (h : (s.clearResv p).hop.resv.find? st = some r) : p st r = false := by
  simpa using Tbl.find_keep h

/-! ### The write queue (R156) -/

section
variable {l : List WqEnt} {f : WqEnt → WqEnt} {a b : Nat}

theorem find_mapIf_addr (hf : ∀ e, (f e).addr = e.addr) :
    (mapIf (fun e => decide (e.addr = a)) f l).find? (fun e => decide (e.addr = b))
      = (l.find? fun e => decide (e.addr = b)).map (fun e => if e.addr = a then f e else e) := by
  induction l with
  | nil => rfl
  | cons e l ih =>
    have haddr : (if decide (e.addr = a) = true then f e else e).addr = e.addr := by split <;> simp [hf]
    simp only [mapIf, List.map_cons, List.find?_cons, haddr] at ih ⊢
    split
    · simp
    · exact ih

end

variable (x : Race) (a : Nat) (data : Cell) (epoch cls now id stream : Nat) (psn : Bool) (own : WrOwner) (strs : List (Nat × Nat))

theorem Race.wqAt_addr {x : Race} {a : Nat} {w : WqEnt} (h : x.wqAt a = some w) : w.addr = a := by
  simpa using List.find?_some h

/-- The entry with a later store's data in its place. -/
def WqEnt.hold (data : Cell) (psn : Bool) (epoch : Nat) (own : WrOwner) (strs : List (Nat × Nat)) (e : WqEnt) : WqEnt :=
  { e with data := data, psn := psn, epoch := epoch, own := own, stores := strs }

theorem Race.wqPut_wq : (x.wqPut a data psn epoch cls now own strs).wq =
    if (x.wqAt a).isSome then mapIf (fun e => decide (e.addr = a)) (WqEnt.hold data psn epoch own strs) x.wq
    else x.wq ++ [⟨x.nextQ, a, data, psn, epoch, cls, now, own, strs⟩] := by
  have hnewer : (x.newer a).wqAt a = x.wqAt a := rfl
  unfold Race.wqPut
  by_cases hown : own = .quern
  · rw [if_pos hown]
    dsimp only
    split <;> rfl
  · rw [if_neg hown]
    dsimp only
    rw [hnewer]
    split <;> rfl

/-- A store's cell holds its data afterwards, in the entry that was there or in a new one. -/
theorem Race.wqAt_wqPut : ∃ w, (x.wqPut a data psn epoch cls now own strs).wqAt a = some w ∧ w.data = data ∧ w.psn = psn := by
  unfold Race.wqAt
  rw [Race.wqPut_wq]
  split
  · next hat =>
    obtain ⟨w, hw⟩ := Option.isSome_iff_exists.mp hat
    rw [find_mapIf_addr (by exact fun _ => rfl), show x.wq.find? (fun e => decide (e.addr = a)) = some w from hw]
    exact ⟨_, congrArg some (if_pos (Race.wqAt_addr hw)), rfl, rfl⟩
  · next hat =>
    have hnone : x.wq.find? (fun e => decide (e.addr = a)) = none := by simpa [Race.wqAt] using hat
    exact ⟨⟨x.nextQ, a, data, psn, epoch, cls, now, own, strs⟩, by rw [List.find?_append, hnone]; simp, rfl, rfl⟩

/-- No other cell's entry changes. -/
theorem Race.wqAt_wqPut_other {b : Nat} (hb : b ≠ a) : (x.wqPut a data psn epoch cls now own strs).wqAt b = x.wqAt b := by
  unfold Race.wqAt
  rw [Race.wqPut_wq]
  split
  · rw [find_mapIf_addr (by exact fun _ => rfl)]
    cases hw : x.wq.find? (fun e => decide (e.addr = b)) with
    | none => rfl
    | some w => exact congrArg some (if_neg fun h => hb ((Race.wqAt_addr hw).symm.trans h))
  · simp [List.find?_append, hb.symm]

theorem Race.wqAt_wqMerge {x : Race} {a : Nat} {w : WqEnt} (hw : x.wqAt a = some w) (data : Cell) (mask : BitVec 64) (epoch id stream : Nat) :
    ∃ y, (x.wqMerge a data mask epoch id stream).wqAt a = some y ∧ y.data = mergeCell w.data data mask ∧ y.psn = w.psn := by
  unfold Race.wqAt Race.wqMerge
  dsimp only
  rw [find_mapIf_addr (by exact fun _ => rfl), show x.wq.find? (fun e => decide (e.addr = a)) = some w from hw]
  exact ⟨_, congrArg some (if_pos (Race.wqAt_addr hw)), rfl, rfl⟩

end Sys2Proof.Machine
end

section
/-! The obligation on the drains of Millpond and Flume. -/
namespace Sys2Proof.Machine

variable {s : State}

/-! ### Millpond (R31, R156, R289) -/

theorem State.modeLatch_race (s : State) (r : Nat) : (s.modeLatch r).race r = { s.race r with wmode := s.writeMode r s.now (s.waiting r) } :=
  State.race_setRace ..

theorem State.modeLatch_race_other (s : State) {r i : Nat} (hi : i ≠ r) : (s.modeLatch r).race i = s.race i :=
  State.race_setRace_other _ _ _ _ hi

/-- A race written after its mode: the record written, and every other race's. -/
theorem State.race_put {t : State} {r : Nat} {y : Race} (h : t.races = ((s.modeLatch r).setRace r y).races) :
    t.race r = y ∧ ∀ i, i ≠ r → t.race i = s.race i := by
  simp only [State.race, h]
  exact ⟨State.race_setRace _ r y, fun i hi => (State.race_setRace_other _ r i y hi).trans (s.modeLatch_race_other hi)⟩

/-- The Millpond entry is gone. -/
def State.pondWithout (s : State) (e : PondEnt) : State :=
  { s with pond := s.pond.filter (fun o => !(o.id = e.id ∧ o.k = e.k ∧ o.tally = e.tally)) }

/-- A full store that finds its cell's entry or room leaves Millpond for the write queue. -/
theorem State.drainEnt_full {e : PondEnt} (hm : e.masked = false)
    (hfits : ((s.race e.race).wqAt e.addr).isSome = true ∨ 0 < (s.race e.race).wqRoom) :
    ∃ y, s.drainEnt e = ((s.modeLatch e.race).setRace e.race y).pondWithout e
      ∧ (∃ w, y.wqAt e.addr = some w ∧ w.data = e.data ∧ w.psn = e.psn) ∧ ∀ a, a ≠ e.addr → y.wqAt a = (s.race e.race).wqAt a := by
  have hat (a : Nat) : ((s.modeLatch e.race).race e.race).wqAt a = (s.race e.race).wqAt a := by rw [State.modeLatch_race]; rfl
  have hroom : ((s.modeLatch e.race).race e.race).wqRoom = (s.race e.race).wqRoom := by rw [State.modeLatch_race]; rfl
  refine ⟨_, ?_, Race.wqAt_wqPut ((s.modeLatch e.race).race e.race) e.addr e.data ((s.modeLatch e.race).epochTag e.half) e.cls (s.modeLatch e.race).now e.psn
    (if e.tally then .tally else .host) (if e.tally then [] else [(e.id, e.stream)]), fun a ha => (Race.wqAt_wqPut_other _ _ _ _ _ _ _ _ _ ha).trans (hat a)⟩
  unfold State.drainEnt
  dsimp only
  split
  · rw [if_neg (by simp [hm])]
    rfl
  · next hnone =>
    rw [hat] at hnone
    rw [if_pos (by simpa [hm, hroom, hnone] using hfits)]
    rfl

theorem State.drainEnt_masked {e : PondEnt} {w : WqEnt} (hm : e.masked = true) (hw : (s.race e.race).wqAt e.addr = some w) :
    ∃ y, s.drainEnt e = (((s.modeLatch e.race).setRace e.race y).pondWithout e).maskedDone e.id w.psn
      ∧ ∃ x, y.wqAt e.addr = some x ∧ x.data = mergeCell w.data e.data e.mask ∧ x.psn = w.psn := by
  have hat : ((s.modeLatch e.race).race e.race).wqAt e.addr = some w := by rw [State.modeLatch_race]; exact hw
  refine ⟨_, ?_, Race.wqAt_wqMerge hat e.data e.mask ((s.modeLatch e.race).epochTag e.half) e.id e.stream⟩
  unfold State.drainEnt
  simp only [hat, if_pos hm]
  rfl

theorem State.maskedDone_eq (s : State) (id : Nat) (psn : Bool) :
    s.maskedDone id psn = (s.answer id (if psn then Rc.poison else Rc.ok) (b2n psn) 0 0 []).reap id := by
  cases psn <;> rfl

theorem State.maskedDone_only (s : State) (id : Nat) (psn : Bool) :
    ∃ reqs mods e w, s.maskedDone id psn = { s with hop := { s.hop with reqs := reqs }, mods := mods, tlyE := e, tlyW := w } := by
  rw [State.maskedDone_eq]
  obtain ⟨reqs, mods, e, w, h⟩ := s.answer_only id (if psn then Rc.poison else Rc.ok) (b2n psn) 0 0 []
  obtain ⟨reqs', h'⟩ := (s.answer id (if psn then Rc.poison else Rc.ok) (b2n psn) 0 0 []).reap_only id
  exact ⟨reqs', mods, e, w, by rw [h', h]⟩

theorem State.maskedDone_tx {id : Nat} {q : Req} (hq : s.hop.reqs.find? id = some q) (ha : q.answered = false) (ho : Opc.answered q.opc = true)
    (psn : Bool) : ((s.maskedDone id psn).mod q.m).tx
      = (s.mod q.m).tx ++ [q.resp (if psn then Rc.poison else Rc.ok) (b2n psn) 0 0 s.now id []] := by
  rw [State.maskedDone_eq]
  obtain ⟨reqs, h⟩ := (s.answer id (if psn then Rc.poison else Rc.ok) (b2n psn) 0 0 []).reap_only id
  rw [h]
  exact State.answer_tx hq ha ho _ _ _ _ _

theorem execMillpondDrain_run {id k : Nat} {e : PondEnt} (he : s.pond.find? (fun e => e.id = id ∧ e.k = k ∧ !e.amo) = some e)
    (hd : s.drainable e = true) : execMillpondDrain id k s = .next ((s.drainEnt e).reap id) := by
  unfold execMillpondDrain
  rw [he]
  exact congrArg Host.Outcome.next (when_true hd _ s)

/-! ### Flume (R105 to R107) -/

theorem execFlumeEntryDrain_run {fid : Nat} {e : FlumeEnt} (he : s.flume.find? (fun e => e.fid = fid) = some e) (hr : s.flumeReady e = true) :
    execFlumeEntryDrain fid s = .next (s.flumeOut e) := by
  unfold execFlumeEntryDrain
  rw [he]
  exact congrArg Host.Outcome.next (when_true hr _ s)

/-- The cells of an entry written into the race's queue, one after the other. -/
def Race.wqPuts (x : Race) (epoch cls now : Nat) (strs : Nat × Cell × Bool → List (Nat × Nat)) (l : List (Nat × Cell × Bool)) : Race :=
  l.foldl (fun y c => y.wqPut c.1 c.2.1 c.2.2 epoch cls now .host (strs c)) x

/-- Each cell that is written holds its data afterwards, when the list gives no cell two values. -/
theorem Race.wqAt_wqPuts (x : Race) (epoch cls now : Nat) (strs : Nat × Cell × Bool → List (Nat × Nat)) (l : List (Nat × Cell × Bool))
    (c : Nat × Cell × Bool) (huniq : ∀ d ∈ l, d.1 = c.1 → d = c)
    (h : c ∈ l ∨ ∃ w, x.wqAt c.1 = some w ∧ w.data = c.2.1 ∧ w.psn = c.2.2) :
    ∃ w, (x.wqPuts epoch cls now strs l).wqAt c.1 = some w ∧ w.data = c.2.1 ∧ w.psn = c.2.2 := by
  unfold Race.wqPuts
  induction l generalizing x with
  | nil => exact h.resolve_left (List.not_mem_nil)
  | cons d l ih =>
    refine ih _ (fun d hd => huniq d (List.mem_cons_of_mem _ hd)) ?_
    by_cases hdc : d.1 = c.1
    · obtain rfl := huniq d (List.mem_cons_self ..) hdc
      exact .inr (Race.wqAt_wqPut ..)
    · obtain h | h := h
      · exact .inl ((List.mem_cons.mp h).resolve_left fun e => hdc (e ▸ rfl))
      · exact .inr (by rwa [Race.wqAt_wqPut_other _ _ _ _ _ _ _ _ _ (Ne.symm hdc)])

/-- A cell of an entry has one address, and one value. -/
theorem FlumeEnt.cellsOf_inj (e : FlumeEnt) {c d : Nat × Cell × Bool} (hc : c ∈ e.cellsOf) (hd : d ∈ e.cellsOf) (h : d.1 = c.1) : d = c := by
  obtain ⟨i, -, rfl⟩ := List.mem_map.mp hc
  obtain ⟨j, -, rfl⟩ := List.mem_map.mp hd
  have hij : j = i := by
    simp only at h
    omega
  rw [hij]

/-- A Flume entry that drains: its cells in the race's queue, no reservation on them, and the entry gone. -/
theorem State.flumeOut_parts (s : State) (e : FlumeEnt) : ∃ y resv reqs, s.flumeOut e =
      { (s.modeLatch e.race).setRace e.race y with flume := s.flume.filter (fun o => o.fid ≠ e.fid), hop := { s.hop with resv := resv, reqs := reqs } }
    ∧ ∀ c ∈ e.cellsOf, (∃ w, y.wqAt c.1 = some w ∧ w.data = c.2.1 ∧ w.psn = c.2.2)
        ∧ ∀ st r, resv.find? st = some r → r.holds c.1 = false := by
  let u := s.modeLatch e.race
  let y := (u.race e.race).wqPuts (u.epochTag e.half) e.cls u.now (fun c => [(e.who.get 0 (c.1 / 64 % 4), e.stream)]) e.cellsOf
  let v : State := { u.setRace e.race y with flume := s.flume.filter (fun o => o.fid ≠ e.fid) }
  have htouch := each_touch (fun c : Nat × Cell × Bool => c.1) e.cellsOf v
  obtain ⟨reqs, hreqs⟩ := OnlyReqs.each (fun id u => (u.updReq_only id _).trans (State.reap_only _ id)) e.ids
    (each e.cellsOf (fun c s => s.touch c.1) v) (f := fun id s => (s.updReq id fun q => { q with phase := .performed }).reap id)
  refine ⟨y, _, reqs, hreqs.trans (by rw [htouch]; rfl), fun c hc => ⟨?_, fun st r hr => ?_⟩⟩
  · exact Race.wqAt_wqPuts _ _ _ _ _ _ _ (fun d hd h => e.cellsOf_inj hc hd h) (.inl hc)
  · have hclear := State.clearResv_find (s := v) hr
    simp only [List.any_eq_false, Bool.not_eq_true] at hclear
    exact hclear c hc

/-- Settles O38: a full entry of Millpond enters the queue (`State.drainEnt_full`), a masked one merges and is answered (`State.drainEnt_masked`);
an idle entry of Flume closes, and a ready one writes its cells (`State.flumeOut_parts`). -/
theorem buffersDrain : Obligations.BuffersDrain := by
  intro s id k fid
  refine ⟨fun e he hd hm hfits => ?_, fun e w he hd hm hw => ?_, ⟨_, rfl, ?_⟩, fun e he hr _ => ?_⟩
  · obtain ⟨t, ht, htame⟩ := execMillpondDrain_out s id k
    have hrun := Host.Outcome.next.inj ((execMillpondDrain_run he hd).symm.trans ht)
    obtain ⟨y, hy, hown, hcells⟩ := State.drainEnt_full hm hfits
    obtain ⟨reqs, hreap⟩ := (s.drainEnt e).reap_only id
    rw [hreap, hy] at hrun
    obtain ⟨hrace, hraces⟩ : t.race e.race = y ∧ _ := State.race_put (s := s) (by rw [← hrun]; rfl)
    refine ⟨t, ht, htame.intact, htame.clk rfl, by rw [← hrun]; rfl, hrace.symm ▸ hown, hrace.symm ▸ hcells, hraces, ?_⟩
    subst hrun
    exact ⟨rfl, rfl, rfl⟩
  · obtain ⟨t, ht, htame⟩ := execMillpondDrain_out s id k
    have hrun := Host.Outcome.next.inj ((execMillpondDrain_run he hd).symm.trans ht)
    obtain ⟨y, hy, hown⟩ := State.drainEnt_masked hm hw
    obtain ⟨reqs, hreap⟩ := (s.drainEnt e).reap_only id
    rw [hreap, hy] at hrun
    generalize hu : ((s.modeLatch e.race).setRace e.race y).pondWithout e = u at hrun
    have htx (q : Req) := State.maskedDone_tx (s := u) (id := e.id) (q := q)
    have hmods : t.mods = (u.maskedDone e.id w.psn).mods := by rw [← hrun]
    obtain ⟨reqs', mods, tE, tW, hdone⟩ := u.maskedDone_only e.id w.psn
    rw [hdone] at hrun
    obtain ⟨hrace, hraces⟩ : t.race e.race = y ∧ _ := State.race_put (s := s) (by rw [← hrun, ← hu]; rfl)
    refine ⟨t, ht, htame.intact, htame.clk rfl, by rw [← hrun, ← hu]; rfl, hrace.symm ▸ hown, hraces, fun q hq ha ho => ?_⟩
    simp only [State.mod, hmods]
    refine (htx q (by rw [← hu]; exact hq) ha ho w.psn).trans ?_
    rw [← hu]
    rfl
  · rw [State.flumeClose_eq]
    refine ⟨by simp [FlumeEnt.closedIf], ?_, ?_, rfl⟩
    · intro x hx hfid hidle
      obtain ⟨y, -, rfl⟩ := List.mem_map.mp hx
      simp only [FlumeEnt.closedIf] at hfid hidle ⊢
      simp [hfid, hidle]
    · intro x hx hfid
      obtain ⟨y, hy, rfl⟩ := List.mem_map.mp hx
      rwa [FlumeEnt.closedIf_of_not (by simpa [FlumeEnt.closedIf] using fun h => absurd h hfid)]
  · obtain ⟨t, ht, htame⟩ := execFlumeEntryDrain_out s fid
    have hrun := Host.Outcome.next.inj ((execFlumeEntryDrain_run he hr).symm.trans ht)
    obtain ⟨y, resv, reqs, hout, hcells⟩ := s.flumeOut_parts e
    rw [hout] at hrun
    have hfid : e.fid = fid := by simpa using List.find?_some he
    obtain ⟨hrace, hraces⟩ : t.race e.race = y ∧ _ := State.race_put (s := s) (by rw [← hrun])
    have hresv : t.hop.resv = resv := by rw [← hrun]
    refine ⟨t, ht, htame.intact, htame.clk rfl, by rw [← hrun, ← hfid], ?_, hraces, ?_⟩
    · rw [hrace, hresv]
      exact hcells
    · subst hrun
      exact ⟨rfl, rfl⟩

end Sys2Proof.Machine
end

section
/-! SUPPORT. Races that a command takes one after the other, and what the default plan of a race rests on (R38). -/
namespace Sys2Proof.Machine

variable {s t u : State}

/-- t is s but for its races. -/
def OnlyRaces (s t : State) : Prop := ({ t with races := s.races } : State) = s

theorem OnlyRaces.eq (h : OnlyRaces s t) : t = { s with races := t.races } :=
  (congrArg (fun u : State => { u with races := t.races }) h :)

theorem OnlyRaces.setRace (h : OnlyRaces s t) (r : Nat) (x : Race) : OnlyRaces s (t.setRace r x) := h

/-- Races written one after the other, each by what its own record and the rest of the state say: each holds what the state before gave it. -/
theorem each_setRace {f : Nat → State → State} {g : Nat → Race} (s : State) (l : List Nat) (hl : l.Nodup)
    (hf : ∀ r u, OnlyRaces s u → u.race r = s.race r → f r u = u.setRace r (g r)) :
    OnlyRaces s (each l f s) ∧ ∀ r, (each l f s).race r = if r ∈ l then g r else s.race r := by
  have hfold : ∀ (l : List Nat) (u : State), l.Nodup → OnlyRaces s u → (∀ r ∈ l, u.race r = s.race r) →
      OnlyRaces s (l.foldl (fun s r => f r s) u) ∧ ∀ r, (l.foldl (fun s r => f r s) u).race r = if r ∈ l then g r else u.race r := by
    intro l
    induction l with
    | nil => exact fun u _ hu _ => ⟨hu, fun r => by simp⟩
    | cons a l ih =>
      intro u hl hu hsame
      obtain ⟨ha, hl⟩ := List.nodup_cons.mp hl
      have hstep : f a u = u.setRace a (g a) := hf a u hu (hsame a (List.mem_cons_self ..))
      have hkeep : ∀ r ∈ l, (u.setRace a (g a)).race r = s.race r := fun r hr =>
        (State.race_setRace_other u a r _ fun h => ha (h ▸ hr)).trans (hsame r (List.mem_cons_of_mem _ hr))
      obtain ⟨hrest, hraces⟩ := ih (u.setRace a (g a)) hl (hu.setRace a _) hkeep
      rw [List.foldl_cons, hstep]
      refine ⟨hrest, fun r => ?_⟩
      rw [hraces r, State.setRace_races_at]
      by_cases hra : r = a
      · subst hra
        simp [ha]
      · simp [hra]
  exact hfold l s hl rfl fun _ _ => rfl

/-- The default plan rests on the registers and on the race's lists, not on the plans for the next Turn. -/
theorem State.defaultPlan_planned {rs : Tbl Race} {r pr : Nat} {a b : Option Plan}
    (h : (({ s with races := rs } : State).race r) = { s.race r with nextA := a, nextB := b }) :
    ({ s with races := rs } : State).defaultPlan r pr = s.defaultPlan r pr := by
  simp only [State.defaultPlan, State.nextTable, State.sidOrder, State.refRuns, State.raceRuns, State.isolated, h]
  rfl

/-- The race with its default plans for the next Turn. -/
def State.defaulted (s : State) (r : Nat) : Race := { s.race r with nextA := some (s.defaultPlan r 0), nextB := some (s.defaultPlan r 1) }

theorem State.defaultPlans_race (s : State) {r : Nat} (hr : r < 32) : s.defaultPlans.race r = s.defaulted r := by
  have hself : ∀ r u, OnlyRaces s u → u.race r = s.race r → u.setRace r (u.defaulted r) = u.setRace r (s.defaulted r) := by
    intro r u hu hrace
    have hplan (pr : Nat) : u.defaultPlan r pr = s.defaultPlan r pr := by
      rw [hu.eq]
      exact State.defaultPlan_planned (a := (s.race r).nextA) (b := (s.race r).nextB) (by rw [← hu.eq]; exact hrace)
    unfold State.defaulted
    rw [hplan, hplan, hrace]
  obtain ⟨-, hraces⟩ := each_setRace s (List.range 32) List.nodup_range hself
  exact (hraces r).trans (if_pos (List.mem_range.mpr hr))

theorem State.defaulted_nextPlan (s : State) (r : Nat) {pr : Nat} (hpr : pr < 2) : (s.defaulted r).nextPlan pr = s.defaultPlan r pr := by
  obtain rfl | rfl : pr = 0 ∨ pr = 1 := by omega
  · rfl
  · rfl

theorem zipWith_slot_mem {dem : List RefSlot} {l : List Nat} {e : RefSlot} (h : e ∈ List.zipWith (fun (e : RefSlot) i => { e with slot := i }) dem l) :
    e.slot ∈ l := by
  rw [List.mem_iff_getElem] at h
  obtain ⟨i, hi, rfl⟩ := h
  simp

/-- Every command of a default plan stands in an RFSH entry (R38). -/
theorem State.defaultPlan_rfsh (s : State) (r pr : Nat) : ∀ e ∈ (s.defaultPlan r pr).slots, (s.nextTable r).getD e.slot 0 = 8 := by
  intro e he
  simp only [State.defaultPlan] at he
  split at he
  · have hmem := zipWith_slot_mem he
    simp only [List.mem_filter, decide_eq_true_eq] at hmem
    exact hmem.2
  · cases he

theorem Raised.nextPlan (h : Raised s t) (r pr : Nat) : (t.race r).nextPlan pr = (s.race r).nextPlan pr :=
  (congrArg (Race.nextPlan · pr) (h.races r) :)

end Sys2Proof.Machine
end

section
/-! The obligation on overruns and on the reads of the Turn counter. -/
namespace Sys2Proof.Machine

variable {s : State}

theorem State.overrun_nextPlan (s : State) {r pr : Nat} (hr : r < 32) (hpr : pr < 2) :
    ((s.defaultPlans.raise Src.TURN_OVERRUN 0 0).race r).nextPlan pr = s.defaultPlan r pr := by
  rw [(State.raise_raised _ _ _ _).nextPlan, s.defaultPlans_race hr, s.defaulted_nextPlan r hpr]

/-- Settles O9: an overrun raises its source in a state whose window is done; the default plans are each race's own (`State.defaultPlans_race`)
and hold RFSH entries only (`State.defaultPlan_rfsh`). -/
theorem overrunsAndTurnReads : Obligations.OverrunsAndTurnReads := by
  refine ⟨fun s hmains => ⟨fun h => ?_, fun h => ?_, fun h hps => ?_, fun h hps => ?_⟩, fun s hon => ?_⟩
  · exact .of_exec (congrArg Host.Outcome.next (when_true (by simp [hmains, h]) _ s)) ⟨rfl, State.raise_raised _ _ _ _⟩
  · refine .of_exec (t := (State.defaultPlans { s with clk := { s.clk with planDone := true, mc := max s.clk.mc 112 } }).raise Src.TURN_OVERRUN 0 0)
      (congrArg Host.Outcome.next (when_true (by simp [hmains, h]) _ s)) ⟨rfl, State.raise_raised _ _ _ _, fun r pr hr hpr => ?_⟩
    rw [State.overrun_nextPlan _ hr hpr]
    exact ⟨rfl, s.defaultPlan_rfsh r pr⟩
  · exact .of_exec (congrArg Host.Outcome.next (when_true (by simp [hmains, h, hps]) _ s)) ⟨rfl, State.raise_raised _ _ _ _⟩
  · exact .of_exec (congrArg Host.Outcome.next (when_true (by simp [hmains, h, hps]) _ s)) ⟨rfl, State.raise_raised _ _ _ _⟩
  · refine .of_exec (congrArg Host.Outcome.next (when_true hon _ s)) ⟨rfl, fun n turn => ?_⟩
    simp [State.turnHigh]

end Sys2Proof.Machine
end

section
/-!
The obligation on the windows of a Turn, refuted: the planning clause gives B's plan from the demand before the planning, for any content of a
race's lists. The planning of A postpones what A's plan leaves out, and a REFpb owed in A's lists to a bank number of 32 or more is counted at a
bank of B, which then comes first in B's demand.
-/
namespace Sys2Proof.Machine

/-- One entry for refresh: RFSH at the first, C0 at every other (R182, R206). -/
def oneSlotTable : List Word := 0x1111111111111118 :: List.replicate 7 0x1111111111111111

/-- Race 0 owes a REFpb to bank 0 and to "bank 200" of A's SID 0, and to bank 8 of B's SID 2, whose number is 200 too; nothing else differs from
the state after reset but that the block runs and the slot swaps of the Turn have been sampled. -/
def strayOwed : State :=
  { clk := { swapDone := true }
    boot := { inReset := none, westUp := true }
    races := ⟨[(0, { refOn := true, run := true, latch := some oneSlotTable, owed := ⟨[(0, [0, 200]), (6, [8])]⟩ })]⟩ }

/-- The slots planned for race 0's B. -/
def plannedB : Host.Outcome State Fault Refusal → List RefSlot
  | .next t => ((t.race 0).nextPlan 1).slots
  | _ => []

theorem strayOwed_planned : plannedB (exec .refreshPlanning strayOwed) = [⟨0, false, 2, 8, false, false⟩] := by decide +kernel

theorem strayOwed_demanded : List.zipWith (fun (e : RefSlot) i => { e with slot := i })
    ((strayOwed.demandOf 0 1).take (min (24 + strayOwed.fget Fld.RACE_REF_CFG_RFM_PER_TURN 0) (planSlots (strayOwed.nextTable 0)).length))
    (planSlots (strayOwed.nextTable 0)) = [⟨0, false, 0, 0, false, false⟩] := by decide +kernel

/-- Refutes O8: in `strayOwed` B's demand is led by bank 0 of SID 0, but its one slot goes to bank 8 of SID 2, which the planning of A has counted
as postponed. -/
theorem not_turnWindowsRunInPlace : ¬ Obligations.TurnWindowsRunInPlace := by
  intro h
  obtain ⟨-, -, hplanning, -⟩ := h strayOwed (by decide)
  obtain ⟨t, ht, -, -, hslots, -⟩ := hplanning (by decide) rfl (.inl rfl)
  have hplan : ((t.race 0).nextPlan 1).slots = [⟨0, false, 0, 0, false, false⟩] :=
    (hslots 0 1 (by decide) (by decide) (by decide +kernel)).trans strayOwed_demanded
  have hrun : ((t.race 0).nextPlan 1).slots = [⟨0, false, 2, 8, false, false⟩] := (congrArg plannedB ht).symm.trans strayOwed_planned
  exact absurd (hplan.symm.trans hrun) (by decide)

end Sys2Proof.Machine
end

section
/-!
The obligation on links and watchdogs, refuted: the split's clause speaks of a reservation of any stream number, and the register of a stream's home
is found by that number alone. Past the 4,096 streams of the device it falls on other registers, one of them the log in which the split records a
store that it drops.
-/
namespace Sys2Proof.Machine

/-- The number of the "stream" whose HOP_STREAM would be at the place of HOP_LOST_LOG of West. -/
def strayStream : Nat := (Reg.key .HOP_LOST_LOG 0 1 - Reg.key .HOP_STREAM 0 0) / 4

/-- A store to East's race 0 that landed in West. -/
def crossingStore : Req :=
  { m := 10, opc := Opc.wr, stream := 0, tag := 0, addr := 0x10000, len := 0, arg := 0, cls := 1, grp := 0, landHalf := 1, home := 1, target := 0
    race := 0, turn := 0, land := 0 }

/-- A reservation in West's race 16. -/
def strayHeld : Resv := { base := 0x8000, size := 128, mods := [] }

/-- The split is due, a store is crossing, and `strayStream`, whose home reads East, holds `strayHeld`. -/
def strayReserved : State :=
  { lay := { splitPend := true }
    hop := { reqs := ⟨[(1, crossingStore)]⟩, resv := ⟨[(strayStream, strayHeld)]⟩ } }

/-- The reservations after a command. -/
def resvAfter : Host.Outcome State Fault Refusal → Tbl Resv
  | .next t => t.hop.resv
  | _ => {}

/-- The split drops the store first, whose log makes the home of `strayStream` read West, and so takes its reservation for one at home. -/
theorem strayReserved_split : resvAfter (exec .split strayReserved) = strayReserved.hop.resv := by decide +kernel

theorem strayReserved_home : strayReserved.fget Fld.HOP_STREAM_HOME strayStream ≠ raceHalf (strayReserved.raceAt strayHeld.base) := by decide +kernel

theorem strayReserved_held : strayReserved.hop.resv.find? strayStream = some strayHeld := by decide +kernel

/-- The part of the obligation that fails: every reservation that the split leaves is at its stream's home. -/
theorem LinksAndWatchdogs.split_keeps_home (h : Obligations.LinksAndWatchdogs) (s : State) (hw : s.regs.wf = true) (hs : s.lay.split = false)
    (hp : s.lay.splitPend = true) :
    ∃ t, exec .split s = .next t ∧ ∀ st r, t.hop.resv.find? st = some r → s.fget Fld.HOP_STREAM_HOME st = raceHalf (s.raceAt r.base) := by
  obtain ⟨-, hsplit, -⟩ := h.1 s 0 0 hw
  obtain ⟨t, ht, -, -, -, -, hresv, -⟩ := hsplit hs (by simp [hp])
  exact ⟨t, ht, hresv⟩

/-- Refutes O30: after the split `strayStream` holds a reservation away from its home. -/
theorem not_linksAndWatchdogs : ¬ Obligations.LinksAndWatchdogs := by
  intro h
  obtain ⟨t, ht, hresv⟩ := LinksAndWatchdogs.split_keeps_home h strayReserved (by decide) (by decide) (by decide)
  have hrun : t.hop.resv = strayReserved.hop.resv := (congrArg resvAfter ht).symm.trans strayReserved_split
  have hheld : t.hop.resv.find? strayStream = some strayHeld := hrun ▸ strayReserved_held
  exact strayReserved_home (hresv strayStream strayHeld hheld)

end Sys2Proof.Machine
end

section
/-! SUPPORT. The decision of a Sluice: what the choices leave of its record, what a packet granted makes of it, and what the rest of the state sees. -/
namespace Sys2Proof.Machine

variable {s t u : State}

/-! ### The choices (R231, R232, R235) -/

/-- y has the entries that wait at x and the places at the next hop that x knows: a choice changes the counters of its order only. -/
def Slu.SameQueue (x y : Slu) : Prop := y.pend = x.pend ∧ y.places = x.places

theorem Slu.SameQueue.refl (x : Slu) : x.SameQueue x := ⟨rfl, rfl⟩

theorem Slu.SameQueue.trans {x y z : Slu} (h : x.SameQueue y) (g : y.SameQueue z) : x.SameQueue z := ⟨g.1.trans h.1, g.2.trans h.2⟩

theorem Slu.setDef_same (x : Slu) (c v : Nat) : x.SameQueue (x.setDef c v) := ⟨rfl, rfl⟩

theorem State.drrRound_same (s : State) (h : Nat) (x : Slu) (l : List Parked) : x.SameQueue (s.drrRound h x l) :=
  ((x.setDef_same _ _).trans (Slu.setDef_same _ _ _)).trans (Slu.setDef_same _ _ _)

theorem State.pickReq_same {h t : Nat} {x : Slu} {l : List Parked} {w : Parked × Slu} (hw : s.pickReq h t x l = some w) : x.SameQueue w.2 := by
  have hround := s.drrRound_same h x l
  unfold State.pickReq at hw
  dsimp only at hw
  split at hw
  · exact Option.some.inj hw ▸ .refl x
  · split at hw
    · exact Option.some.inj hw ▸ x.setDef_same _ _
    · split at hw
      · exact Option.some.inj hw ▸ x.setDef_same _ _
      · split at hw
        · exact Option.some.inj hw ▸ hround.trans (Slu.setDef_same _ _ _)
        · obtain ⟨p, -, rfl⟩ := Option.map_eq_some_iff.mp hw
          exact (hround.trans (s.drrRound_same h _ l)).trans (Slu.setDef_same _ _ _)

theorem State.pickPacket_same {h t : Nat} {x : Slu} {l : List Parked} {w : Parked × Slu} (hw : s.pickPacket h t x l = some w) : x.SameQueue w.2 := by
  unfold State.pickPacket at hw
  obtain ⟨-, hsnp⟩ | ⟨-, hw⟩ := ite_eq_iff.mp hw
  · obtain ⟨p, -, rfl⟩ := Option.map_eq_some_iff.mp hsnp
    exact .refl x
  obtain ⟨-, hrsp⟩ | ⟨-, hreq⟩ := ite_eq_iff.mp hw
  · obtain ⟨p, -, rfl⟩ := Option.map_eq_some_iff.mp hrsp
    dsimp only
    split <;> exact ⟨rfl, rfl⟩
  · obtain ⟨e, he, rfl⟩ := Option.map_eq_some_iff.mp hreq
    have hsame := State.pickReq_same he
    dsimp only
    split <;> exact hsame

theorem State.pickSubmission_same {h : Nat} {x : Slu} {l : List Parked} {w : Parked × Slu} (hw : s.pickSubmission h x l = some w) : x.SameQueue w.2 := by
  obtain ⟨p, -, rfl⟩ := Option.map_eq_some_iff.mp hw
  exact ⟨rfl, rfl⟩

/-! ### A packet granted (R222, R231, R233) -/

@[simp] theorem Slu.send_pend (x : Slu) (id : SluiceId) (t n : Nat) (p : Parked) : (x.send id t n p).pend = x.pend := by cases id <;> rfl
@[simp] theorem Slu.send_busyTo (x : Slu) (id : SluiceId) (t n : Nat) (p : Parked) : (x.send id t n p).busyTo = t + 1 + n := by cases id <;> rfl
@[simp] theorem Slu.send_grant (x : Slu) (id : SluiceId) (t n : Nat) (p : Parked) : (x.send id t n p).grant = some (p.key, t + 1) := by cases id <;> rfl
@[simp] theorem Slu.send_grantCh (x : Slu) (id : SluiceId) (t n : Nat) (p : Parked) : (x.send id t n p).grantCh = p.ch := by cases id <;> rfl

theorem Slu.send_places (x : Slu) {id : SluiceId} (t n : Nat) (p : Parked) (hid : ∀ g, id ≠ .gport g) :
    (x.send id t n p).places = if p.ch = .req then (p.key, decide (p.cls = 0)) :: x.places else x.places := by
  cases id with
  | gport g => exact absurd rfl (hid g)
  | _ => rfl

theorem Parked.beats_pos (p : Parked) : 0 < p.beats := by unfold Parked.beats; split <;> decide

/-! ### The decision -/

/-- s with x as the record of the Sluice. -/
def State.setSlu (s : State) (id : SluiceId) (x : Slu) : State := { s with lay := { s.lay with slu := s.lay.slu.ins (sluKey id) x } }

/-- What else follows from p's grant: at a granary port a command of Hoist goes to its drive, at a cross-half link its n beats are counted. -/
def State.afterGrant (s : State) (id : SluiceId) (n : Nat) (p : Parked) : State :=
  match id with
  | .gport g => s.subGrant g p.key
  | .link dir l => s.tally dir 4 (4 * l + (match p.ch with | .req => 0 | .rsp => 1 | .snp => 2)) n
  | _ => s

@[simp] theorem State.afterGrant_lay (s : State) (id : SluiceId) (n : Nat) (p : Parked) : (s.afterGrant id n p).lay = s.lay := by cases id <;> rfl

/-- The state after a decision for the entries in x: the choice, if there is one, is sent over its n beats. -/
def State.afterChoice (s : State) (id : SluiceId) (t : Nat) (x : Slu) (n : Parked → Nat) (pick : Option (Parked × Slu)) : State :=
  match pick with
  | none => s.setSlu id x
  | some (p, y) => (s.setSlu id (y.send id t (n p) p)).afterGrant id (n p) p

/-- t is s but for the record of one Sluice, the counts, and at a granary port the commands of Hoist. -/
def State.OnlySlu (s : State) (id : SluiceId) (t : State) : Prop :=
  (∀ k, k ≠ sluKey id → t.lay.slu.find? k = s.lay.slu.find? k)
  ∧ ((∀ n, id ≠ .gport n) → t.hstE = s.hstE ∧ t.hstW = s.hstW)
  ∧ ({ t with lay := { t.lay with slu := s.lay.slu }, clk := s.clk, hstE := s.hstE, hstW := s.hstW, tlyE := s.tlyE, tlyW := s.tlyW } : State) = s

theorem State.setSlu_only (s : State) (id : SluiceId) (x : Slu) : s.OnlySlu id (s.setSlu id x) :=
  ⟨fun _ hk => Tbl.find_ins_other _ _ _ _ hk, fun _ => ⟨rfl, rfl⟩, rfl⟩

theorem State.OnlySlu.afterGrant {id : SluiceId} (h : s.OnlySlu id t) (n : Nat) (p : Parked) : s.OnlySlu id (t.afterGrant id n p) := by
  obtain ⟨hother, hhst, hrest⟩ := h
  refine ⟨by simpa using hother, ?_, ?_⟩
  · intro hid
    cases id with
    | gport g => exact absurd rfl (hid g)
    | _ => exact hhst hid
  · cases id <;> exact hrest

theorem State.afterChoice_only (s : State) (id : SluiceId) (t : Nat) (x : Slu) (n : Parked → Nat) (pick : Option (Parked × Slu)) :
    s.OnlySlu id (s.afterChoice id t x n pick) := by
  cases pick with
  | none => exact s.setSlu_only id x
  | some w => exact (s.setSlu_only id _).afterGrant _ _

theorem State.setSlu_get (s : State) (id : SluiceId) (x : Slu) : (s.setSlu id x).lay.slu.get {} (sluKey id) = x := Tbl.get_ins_same _ _ _ _

theorem State.afterChoice_some_get (s : State) (id : SluiceId) (t : Nat) (x : Slu) (n : Parked → Nat) (w : Parked × Slu) :
    (s.afterChoice id t x n (some w)).lay.slu.get {} (sluKey id) = w.2.send id t (n w.1) w.1 := by
  rw [State.afterChoice, State.afterGrant_lay, State.setSlu_get]

/-- A grant at granary port g leaves none of Hoist's commands of that number waiting there. -/
theorem State.subGrant_sub {g key : Nat} {c : DrvCmd} (hc : c ∈ ((s.subGrant g key).hst (g / 4)).cmds) (hport : c.port = g)
    (hkey : subKey (g / 4) c.cid = key) : c.sub = false := by
  rw [State.subGrant, State.hst_setHst] at hc
  obtain ⟨c₀, -, rfl⟩ := List.mem_map.mp hc
  split at hport <;> split at hkey <;> simp_all

theorem State.afterChoice_some_hst {g t : Nat} {x : Slu} {n : Parked → Nat} {w : Parked × Slu} {c : DrvCmd}
    (hc : c ∈ ((s.afterChoice (.gport g) t x n (some w)).hst (g / 4)).cmds) (hport : c.port = g) (hkey : subKey (g / 4) c.cid = w.1.key) : c.sub = false :=
  State.subGrant_sub (s := s.setSlu (.gport g) _) hc hport hkey

/-! ### What a decision does, by the kind of the Sluice -/

/-- The record of the Sluice at the decision: the grants whose transfer has begun and the places that are free again are gone. -/
def State.settledSlu (s : State) (id : SluiceId) (t : Nat) (freed : List Nat) : Slu :=
  let x := (s.lay.slu.get {} (sluKey id)).settleGrant t
  { x with places := x.places.filter (fun p => p.1 ∉ freed) }

/-- The entries that wait at the decision, with those that the ports present to it (R221, R223). -/
def State.sluWaiting (s : State) (id : SluiceId) (offers : List Offer) (x : Slu) : List Parked :=
  let subs := match id with | .gport p => s.subOffers p | _ => []
  let pend := match id with
    | .gport _ => x.pend.filter (fun p => decide (p.key < 2 ^ 32) || x.granted p || subs.any (fun o => o.key = p.key && o.port = p.port))
    | _ => x.pend
  pend ++ admitOffers pend (offers.filter (fun o => s.mayOffer id o) ++ subs)

/-- The choice among the entries of x. -/
def State.sluChoice (s : State) (id : SluiceId) (t : Nat) (x : Slu) : Option (Parked × Slu) :=
  match id with
  | .gport _ => s.pickSubmission (sluHalf id) x x.pend
  | _ => s.pickPacket (sluHalf id) t x (x.pend.filter (fun p => x.offered (freePlaces id) p))

/-- Beats of the transfer of p (R230, R235). -/
def sluBeats (id : SluiceId) (p : Parked) : Nat :=
  match id with
  | .gport _ => 4
  | _ => p.beats

theorem sluBeats_pos (id : SluiceId) (p : Parked) : 0 < sluBeats id p := by
  cases id with
  | gport g => exact Nat.succ_pos 3
  | _ => exact p.beats_pos

theorem State.sluChoice_same {id : SluiceId} {t : Nat} {x : Slu} {w : Parked × Slu} (hw : s.sluChoice id t x = some w) : x.SameQueue w.2 := by
  cases id with
  | gport g => exact State.pickSubmission_same hw
  | _ => exact State.pickPacket_same hw

theorem State.sluDecide_busy {id : SluiceId} {t : Nat} {freed : List Nat} (offers : List Offer) (hbusy : t + 1 < (s.settledSlu id t freed).busyTo) :
    s.sluDecide id t offers freed = s.setSlu id (s.settledSlu id t freed) := if_pos hbusy

theorem State.sluDecide_idle {id : SluiceId} {t : Nat} {freed : List Nat} (offers : List Offer) (hidle : (s.settledSlu id t freed).busyTo ≤ t + 1) :
    s.sluDecide id t offers freed =
      let x := { s.settledSlu id t freed with pend := s.sluWaiting id offers (s.settledSlu id t freed) }
      s.afterChoice id t x (sluBeats id) (s.sluChoice id t x) := by
  refine (if_neg (Nat.not_lt.mpr hidle)).trans ?_
  cases id with
  | gport g => rfl
  | _ => rfl

/-- The record of the Sluice, and Hoist's commands, after a choice was made. -/
theorem State.afterChoice_sent (s : State) {id : SluiceId} {t : Nat} {x : Slu} {w : Parked × Slu} (hw : s.sluChoice id t x = some w) :
    let u := s.afterChoice id t x (sluBeats id) (some w)
    let y := u.lay.slu.get {} (sluKey id)
    y.pend = x.pend ∧ y.grant = some (w.1.key, t + 1) ∧ y.grantCh = w.1.ch ∧ t + 1 < y.busyTo
    ∧ ((∀ n, id ≠ .gport n) → y.places = (if w.1.ch = .req then (w.1.key, decide (w.1.cls = 0)) :: x.places else x.places))
    ∧ ∀ n, id = .gport n → ∀ c ∈ (u.hst (n / 4)).cmds, c.port = n → subKey (n / 4) c.cid = w.1.key → c.sub = false := by
  obtain ⟨hpend, hplaces⟩ := State.sluChoice_same hw
  dsimp only
  rw [State.afterChoice_some_get]
  refine ⟨by simp [hpend], by simp, by simp, ?_, ?_, ?_⟩
  · simpa using sluBeats_pos id w.1
  · intro hid
    rw [Slu.send_places _ _ _ _ hid, hplaces]
  · rintro n rfl c hc hport hkey
    exact State.afterChoice_some_hst hc hport hkey

/-- A Sluice that is idle or in its last beat: the entries that wait, and among them what the choice names. -/
theorem State.sluDecide_choice (s : State) {id : SluiceId} {t : Nat} {freed : List Nat} (offers : List Offer)
    (hidle : (s.settledSlu id t freed).busyTo ≤ t + 1) :
    let x := s.settledSlu id t freed
    let all := s.sluWaiting id offers x
    let pick := s.sluChoice id t { x with pend := all }
    let u := s.sluDecide id t offers freed
    let y := u.lay.slu.get {} (sluKey id)
    y.pend = all ∧ (pick = none → y = { x with pend := all })
    ∧ ∀ w, pick = some w → y.grant = some (w.1.key, t + 1) ∧ y.grantCh = w.1.ch ∧ t + 1 < y.busyTo
      ∧ ((∀ n, id ≠ .gport n) → y.places = (if w.1.ch = .req then (w.1.key, decide (w.1.cls = 0)) :: x.places else x.places))
      ∧ ∀ n, id = .gport n → ∀ c ∈ (u.hst (n / 4)).cmds, c.port = n → subKey (n / 4) c.cid = w.1.key → c.sub = false := by
  dsimp only
  rw [State.sluDecide_idle offers hidle]
  dsimp only
  generalize hpick : s.sluChoice id t _ = pick
  cases pick with
  | none =>
    have hslu := s.setSlu_get id { s.settledSlu id t freed with pend := s.sluWaiting id offers (s.settledSlu id t freed) }
    exact ⟨congrArg Slu.pend hslu, fun _ => hslu, fun w hw => absurd hw (by simp)⟩
  | some w =>
    obtain ⟨hpend, hsent⟩ := s.afterChoice_sent hpick
    refine ⟨hpend, fun hnone => absurd hnone (by simp), fun w' hw => ?_⟩
    cases hw
    exact hsent

theorem State.sluDecide_only (s : State) (id : SluiceId) (t : Nat) (offers : List Offer) (freed : List Nat) :
    s.OnlySlu id (s.sluDecide id t offers freed) := by
  rcases Nat.lt_or_ge (t + 1) (s.settledSlu id t freed).busyTo with hbusy | hidle
  · rw [State.sluDecide_busy offers hbusy]
    exact s.setSlu_only id _
  · rw [State.sluDecide_idle offers hidle]
    exact s.afterChoice_only _ _ _ _ _

/-! ### The buses of a race (R224, R225) -/

theorem State.setRace_atRace (s : State) (r : Nat) (x : Race) : AtRace r s (s.setRace r x) :=
  ⟨rfl, fun _ hi => State.race_setRace_other _ _ _ _ hi⟩

/-- The decision of a command bus: the grant made for the next mc stands, or the pick joins those that have not begun. -/
theorem State.rowDecide_parts (s : State) (r t : Nat) :
    AtRace r s (s.rowDecide r t)
    ∧ ((s.race r).grantR.any (fun g => g.2 = t + 1) = true → (s.rowDecide r t).race r = s.race r)
    ∧ ((s.race r).grantR.any (fun g => g.2 = t + 1) = false → (s.rowDecide r t).race r = { s.race r with
        grantR := (s.race r).grantR.filter (fun g => g.2 ≥ t) ++ ((s.pickRow r (t + 1)).map (fun n => (n, t + 1))).toList }) := by
  unfold State.rowDecide
  dsimp only
  split
  · next hstands => exact ⟨⟨rfl, fun _ _ => rfl⟩, fun _ => rfl, fun hnone => absurd (hstands.symm.trans hnone) (by decide)⟩
  · next hopen => exact ⟨s.setRace_atRace r _, fun hany => absurd hany hopen, fun _ => State.race_setRace _ _ _⟩

theorem State.colDecide_parts {r pr : Nat} (t : Nat) (hpr : pr < 2) (hruns : s.raceRuns r = true) :
    AtRace r s (s.colDecide r pr t)
    ∧ (((s.race r).colGrants pr).any (fun g => g.2 = t + 1) = true → (s.colDecide r pr t).race r = s.race r)
    ∧ (((s.race r).colGrants pr).any (fun g => g.2 = t + 1) = false →
        ((s.colDecide r pr t).race r).colGrants pr = ((s.race r).colGrants pr).filter (fun g => g.2 ≥ t)
          ++ ((s.pickColumn r pr (t + 1)).map (fun c => (c, t + 1))).toList
        ∧ ((s.colDecide r pr t).race r).colGrants (1 - pr) = (s.race r).colGrants (1 - pr)) := by
  unfold State.colDecide
  dsimp only
  rw [if_pos hruns]
  split
  · next hstands => exact ⟨⟨rfl, fun _ _ => rfl⟩, fun _ => rfl, fun hnone => absurd (hstands.symm.trans hnone) (by decide)⟩
  · next hopen =>
    refine ⟨s.setRace_atRace r _, fun hany => absurd hany hopen, fun _ => ?_⟩
    rw [State.race_setRace]
    obtain rfl | rfl : pr = 0 ∨ pr = 1 := by omega
    · exact ⟨rfl, rfl⟩
    · exact ⟨rfl, rfl⟩

/-! ### The command -/

theorem exec_sluiceDecision_intact (s : State) (id : SluiceId) (mc : Nat) (offers : List Offer) (freed : List Nat) {t : State}
    (ht : exec (.sluiceDecision id mc offers freed) s = .next t) : Intact s t := by
  obtain ⟨t', hrun, htame⟩ := execSluiceDecision_out s id mc offers freed
  cases hrun.symm.trans ht
  exact htame.intact

theorem exec_sluiceDecision_row {r : Nat} (s : State) (mc : Nat) (offers : List Offer) (freed : List Nat) (hr : r < 32) :
    exec (.sluiceDecision (.row r) mc offers freed) s = .next { s.rowDecide r (s.at mc) with clk := s.clkAt mc } := by
  change Host.Outcome.next _ = _
  simp only [hr, decide_true, when, if_true]

theorem exec_sluiceDecision_col {r pr : Nat} (s : State) (mc : Nat) (offers : List Offer) (freed : List Nat) (hr : r < 32) (hpr : pr < 2) :
    exec (.sluiceDecision (.col r pr) mc offers freed) s = .next { s.colDecide r pr (s.at mc) with clk := s.clkAt mc } := by
  change Host.Outcome.next _ = _
  simp only [hr, hpr, decide_true, Bool.and_self, when, if_true]

theorem exec_sluiceDecision_other {id : SluiceId} (s : State) (mc : Nat) (offers : List Offer) (freed : List Nat) (hrow : ∀ r, id ≠ .row r)
    (hcol : ∀ r p, id ≠ .col r p) :
    exec (.sluiceDecision id mc offers freed) s = .next { s.sluDecide id (s.at mc) offers freed with clk := s.clkAt mc } := by
  cases id with
  | row r => exact absurd rfl (hrow r)
  | col r p => exact absurd rfl (hcol r p)
  | _ => rfl

/-- Settles O31: each bus of a race by its own decision, every other Sluice by the choice among what waits there. -/
theorem sluicesDecide : Obligations.SluicesDecide := by
  intro s mc race pr offers freed
  refine ⟨fun hrace => ?_, fun hrace hpr hruns => ?_, fun id hrow hcol => ?_⟩
  · have hrun := exec_sluiceDecision_row s mc offers freed hrace
    obtain ⟨hat, hparts⟩ := s.rowDecide_parts race (s.at mc)
    exact ⟨_, hrun, exec_sluiceDecision_intact s _ mc offers freed hrun, rfl, hat, hparts⟩
  · have hrun := exec_sluiceDecision_col s mc offers freed hrace hpr
    obtain ⟨hat, hparts⟩ := State.colDecide_parts (s.at mc) hpr hruns
    exact ⟨_, hrun, exec_sluiceDecision_intact s _ mc offers freed hrun, rfl, hat, hparts⟩
  · have hrun := exec_sluiceDecision_other s mc offers freed hrow hcol
    obtain ⟨hother, hhst, hrest⟩ := s.sluDecide_only id (s.at mc) offers freed
    refine ⟨_, hrun, exec_sluiceDecision_intact s _ mc offers freed hrun, rfl, ?_, ?_, hother, hhst, hrest⟩
    · intro hbusy
      rw [State.sluDecide_busy offers hbusy]
      exact State.setSlu_get s id _
    · intro hidle
      exact State.sluDecide_choice s offers hidle

end Sys2Proof.Machine
end

section
/-! SUPPORT. The admission of a header (R78): what each of its three ends (refused, deferred, accepted) makes of the state. -/
namespace Sys2Proof.Machine

variable {s t u : State}

/-! ### What admission counts -/

/-- t is s but for what is counted and noted: registers, Tally's counters, Hoist's records of dirty and held pages. -/
def Counted (s t : State) : Prop :=
  ({ t with regs := s.regs, tlyE := s.tlyE, tlyW := s.tlyW, hstE := s.hstE, hstW := s.hstW } : State) = s

theorem Counted.refl (s : State) : Counted s s := rfl

theorem Counted.trans (h : Counted s t) (g : Counted t u) : Counted s u :=
  Eq.trans (congrArg (fun x : State => { x with regs := s.regs, tlyE := s.tlyE, tlyW := s.tlyW, hstE := s.hstE, hstW := s.hstW }) g :) h

theorem Counted.ite {c : Prop} [Decidable c] (ht : Counted s t) (hu : Counted s u) : Counted s (if c then t else u) := by
  split
  · exact ht
  · exact hu

theorem Counted.mods (h : Counted s t) : t.mods = s.mods := (congrArg State.mods h :)
theorem Counted.hop (h : Counted s t) : t.hop = s.hop := (congrArg State.hop h :)
theorem Counted.pond (h : Counted s t) : t.pond = s.pond := (congrArg State.pond h :)
theorem Counted.flume (h : Counted s t) : t.flume = s.flume := (congrArg State.flume h :)
theorem Counted.dram (h : Counted s t) : t.dram = s.dram := (congrArg State.dram h :)
theorem Counted.mod (h : Counted s t) (n : Nat) : t.mod n = s.mod n := congrArg (fun x : Tbl ModSt => x.get {} n) h.mods

theorem State.tally_counted (s : State) (h bank i n : Nat) : Counted s (s.tally h bank i n) := rfl
theorem State.fset_counted (s : State) (f : Field) (v i h : Nat) : Counted s (s.fset f v i h) := rfl
theorem State.setRaw_counted (s : State) (r : Reg) (k : Nat) (w : Word) : Counted s (s.setRaw r k w) := rfl
theorem State.setTly_counted (s : State) (h : Nat) (x : Tly) : Counted s (s.setTly h x) := rfl
theorem State.setHst_counted (s : State) (h : Nat) (x : Hst) : Counted s (s.setHst h x) := rfl

theorem State.dirtyAt_counted (s : State) (a : Nat) : Counted s (s.dirtyAt a) := by
  obtain ⟨e, w, hdirty⟩ := s.dirtyAt_eq a
  rw [hdirty]
  rfl

theorem State.sample_counted (s : State) (m id : Nat) (q : Req) : Counted s (s.sample m id q) := by
  unfold State.sample
  dsimp only
  refine .ite ?_ (.refl s)
  have hdrop {c : Prop} [Decidable c] : Counted s (if c then s.fadd Fld.TLY_STAT_DROPPED 1 0 (modHalf m) else s) := .ite rfl (.refl s)
  split
  · exact .ite ((hdrop.trans (State.setRaw_counted _ _ _ _)).trans (State.setTly_counted _ _ _)) (hdrop.trans (State.setTly_counted _ _ _))
  · exact hdrop.trans (State.setTly_counted _ _ _)

/-! ### The module -/

/-- What a module's link goes by: its state, the ACK and NAK it sends, the flits landed and the verdicts that wait. -/
def ModSt.link (x : ModSt) : ModState × Nat × Bool × Nat × List (Nat × List Nat) := (x.st, x.ack, x.nak, x.landed, x.verdQ)

theorem ModSt.link_take (x : ModSt) (n : Need) : (x.take n).link = x.link := by
  unfold ModSt.take
  dsimp only
  split <;> rfl

/-- t is s but for what is counted and noted, and for module m, whose link stands. -/
structure OnlyPools (m : Nat) (s t : State) : Prop where
  rest : Counted s { t with mods := s.mods }
  link : (t.mod m).link = (s.mod m).link
  other : ∀ n, n ≠ m → t.mod n = s.mod n

theorem OnlyPools.refl (m : Nat) (s : State) : OnlyPools m s s := ⟨rfl, rfl, fun _ _ => rfl⟩

theorem OnlyPools.counted {m : Nat} (h : OnlyPools m s t) (g : Counted t u) : OnlyPools m s u := by
  obtain ⟨hrest, hlink, hother⟩ := h
  have hmods : Counted { t with mods := s.mods } { u with mods := s.mods } := (congrArg (fun x : State => { x with mods := s.mods }) g :)
  exact ⟨hrest.trans hmods, by rw [g.mod, hlink], fun n hn => by rw [g.mod, hother n hn]⟩

theorem OnlyPools.ins {m : Nat} {y : ModSt} (h : OnlyPools m s t) (hy : y.link = (t.mod m).link) :
    OnlyPools m s { t with mods := t.mods.ins m y } := by
  obtain ⟨hrest, hlink, hother⟩ := h
  refine ⟨hrest, ?_, fun n hn => ?_⟩
  · rw [State.mod_ins, if_pos rfl, hy, hlink]
  · rw [State.mod_ins, if_neg hn, hother n hn]

theorem OnlyPools.ite {m : Nat} {c : Prop} [Decidable c] (ht : OnlyPools m s t) (hu : OnlyPools m s u) : OnlyPools m s (if c then t else u) := by
  split
  · exact ht
  · exact hu

/-! ### The three ends -/

/-- The header is deferred: its stream's fence holds the hint, and the demand and the DEFER are counted. -/
def State.deferred (s : State) (m stream cls grp hint : Nat) : State :=
  let x := s.mod m
  let s := { s with mods := s.mods.ins m { x with fences := x.fences.ins stream hint, demand := x.demand.upd 0 (gcKey grp cls) (· + 1) } }
  let s := (s.tallyMod m 3 1).tallyCls (modHalf m) cls 1 1
  if cls = 0 then (s.fadd Fld.WEIR_STATUS_C0_DEFER 1).tally (modHalf m) 6 14 1 else s

theorem State.deferred_pools {m : Nat} (h : OnlyPools m s t) (stream cls grp hint : Nat) : OnlyPools m s (t.deferred m stream cls grp hint) := by
  have hins : OnlyPools m s { t with mods := t.mods.ins m _ } :=
    h.ins (y := { t.mod m with fences := (t.mod m).fences.ins stream hint, demand := (t.mod m).demand.upd 0 (gcKey grp cls) (· + 1) }) rfl
  exact .ite (hins.counted rfl) (hins.counted rfl)

/-- What `State.judge` does: it refuses the header, defers it, or accepts it. -/
inductive State.Judged (s : State) (m mc : Nat) (bad : Bool) (h : ReqHdr) (data : List Cell) : State × Nat → Prop
  | refused {code : Nat} (hcode : code = Rc.faulted ∨ code = Rc.off ∨ code = Rc.unreach) : Judged s m mc bad h data (s.tallyMod m 4 1, verdict code 0)
  | deferred {t : State} {hint : Nat} (ht : OnlyPools m s t) : Judged s m mc bad h data (t, verdict Rc.defer hint)
  | accepted {t : State} {n : Need} (ht : OnlyPools m s t) (hregs : t.regs = s.regs) (hm : n.m = m)
      (hgrp : n.grp = s.fget Fld.HOP_STREAM_GROUP h.stream) (hsafe : s.brk.safe = false) (hbad : bad = false)
      (hen : s.fget Fld.HOP_STREAM_EN h.stream ≠ 0) : Judged s m mc bad h data (t.accept n h mc data, verdict Rc.ok 0)

theorem State.judge_judged (s : State) (m mc : Nat) (bad : Bool) (h : ReqHdr) (data : List Cell) :
    s.Judged m mc bad h data (s.judge m mc bad h data) := by
  have hdefer {t : State} (ht : OnlyPools m s t) (cls grp hint : Nat) :
      s.Judged m mc bad h data (t.deferred m h.stream cls grp hint, verdict Rc.defer hint) :=
    .deferred (State.deferred_pools ht h.stream cls grp hint)
  unfold State.judge
  extract_lets land race target home cls grp x final defer u n waits v
  refine iteInduction (fun _ => .refused (.inl rfl)) fun hsafe => ?_
  refine iteInduction (fun _ => .refused (.inl rfl)) fun hmal => ?_
  refine iteInduction (fun _ => .refused (.inl rfl)) fun hen => ?_
  refine iteInduction (fun _ => .refused (.inr (.inl rfl))) fun _ => ?_
  refine iteInduction (fun _ => .refused (.inr (.inr rfl))) fun _ => ?_
  refine iteInduction (fun _ => .refused (.inr (.inl rfl))) fun _ => ?_
  refine iteInduction (fun _ => hdefer (.refl m s) _ _ _) fun _ => ?_
  split
  · exact hdefer (.refl m s) _ _ _
  have hu : OnlyPools m s u := .ite ((OnlyPools.refl m s).ins rfl) (.refl m s)
  clear_value waits
  cases waits with
  | some hint => exact hdefer (t := v) (.ite (hu.counted rfl) hu) _ _ _
  | none =>
    have hregs : u.regs = s.regs := by unfold u; split <;> rfl
    exact .accepted hu hregs rfl rfl (Bool.eq_false_iff.mpr hsafe) (Bool.eq_false_iff.mpr fun hb => hmal (by rw [hb, Bool.true_or])) hen

/-! ### The acceptance -/

/-- The record of a request that is accepted. -/
def State.newReq (s : State) (n : Need) (h : ReqHdr) (mc : Nat) (data : List Cell) : Req :=
  { m := n.m, opc := h.opc, stream := h.stream, tag := h.tag, addr := if h.opc = Opc.mgmt then h.raw else h.addr, len := h.len
    arg := BitVec.ofNat 64 h.arg, data := data, psn := (h.opc = Opc.wr ∨ h.opc = Opc.wrn) && h.psn, cls := n.cls, grp := n.grp
    landHalf := modHalf n.m, home := n.home, target := n.target, race := if Opc.addressed h.opc then s.raceAt h.addr else 0
    turn := s.clk.age, land := s.at mc, tstamp := s.clk.turn, c0 := n.cls = 0 }

/-- s with a request under the next number, and what its module's pools give for it. -/
def State.admitted (s : State) (n : Need) (q : Req) : State :=
  { s with hop := { s.hop with reqs := s.hop.reqs.ins s.hop.nextId q, nextId := s.hop.nextId + 1 }
           mods := s.mods.ins n.m ((s.mod n.m).take n) }

theorem State.accept_counted (s : State) (n : Need) (h : ReqHdr) (mc : Nat) (data : List Cell) :
    Counted ((s.admitted n (s.newReq n h mc data)).onAccept (s.newReq n h mc data)) (s.accept n h mc data) := by
  unfold State.accept
  extract_lets id race land store q hop u₀ u₁ u₂ e u₃ u₄ tl th u₅ th' u₆ u₇ v hx u₈
  have hcls : Counted u₁ u₂ := ((u₁.tally_counted _ _ _ _).trans (State.tally_counted _ _ _ _ _)).trans (State.tally_counted _ _ _ _ _)
  clear_value u₂
  have hcells : Counted u₂ u₃ := (u₂.tally_counted _ _ _ _).trans (State.tally_counted _ _ _ _ _)
  clear_value u₃
  have hpond : Counted u₂ u₄ := .ite (hcells.trans (u₃.tally_counted _ _ _ _)) hcells
  clear_value u₄
  have hheat : Counted u₂ u₆ := .ite ((hpond.trans (State.setTly_counted _ _ _)).trans (State.setTly_counted _ _ _)) (.refl u₂)
  clear_value u₆
  have hdirty : Counted u₆ u₇ := .ite (u₆.dirtyAt_counted _) (.refl u₆)
  clear_value u₇
  have hheld : Counted u₇ u₈ := .ite (u₇.setHst_counted _ _) (.refl u₇)
  clear_value u₈
  exact (((hcls.trans hheat).trans hdirty).trans hheld).trans (u₈.sample_counted _ _ _)

theorem State.onAccept_parts (s : State) (q : Req) : ∃ resv, s.onAccept q =
    { s with hop := { s.hop with resv := resv }
             flume := if Opc.barrier q.opc then s.flume.map (FlumeEnt.closedIf fun e => s.inScope q e.stream) else s.flume } := by
  unfold State.onAccept
  split
  · exact ⟨s.hop.resv, s.flumeClose_eq _⟩
  · split
    · exact ⟨_, rfl⟩
    · exact ⟨s.hop.resv, rfl⟩

/-- What an acceptance makes of the state that the other units see (R78 step 10, R84, R120). -/
theorem State.accept_parts (s : State) (n : Need) (h : ReqHdr) (mc : Nat) (data : List Cell) :
    let q := s.newReq n h mc data
    let t := s.accept n h mc data
    t.hop.nextId = s.hop.nextId + 1 ∧ t.hop.reqs = s.hop.reqs.ins s.hop.nextId q
    ∧ t.flume = (if Opc.barrier h.opc then s.flume.map (FlumeEnt.closedIf fun e => s.inScope q e.stream) else s.flume)
    ∧ t.pond = s.pond ∧ t.dram = s.dram ∧ t.mods = s.mods.ins n.m ((s.mod n.m).take n) := by
  intro q t
  have hcount : Counted ((s.admitted n q).onAccept q) t := s.accept_counted n h mc data
  obtain ⟨resv, haccept⟩ := (s.admitted n q).onAccept_parts q
  rw [haccept] at hcount
  exact ⟨congrArg Hop.nextId hcount.hop, congrArg Hop.reqs hcount.hop, hcount.flume, hcount.pond, hcount.dram, hcount.mods⟩

theorem State.accept_mod (s : State) (n : Need) (h : ReqHdr) (mc : Nat) (data : List Cell) (i : Nat) :
    (s.accept n h mc data).mod i = if i = n.m then (s.mod n.m).take n else s.mod i := by
  obtain ⟨-, -, -, -, -, hmods⟩ := s.accept_parts n h mc data
  exact (congrArg (fun x : Tbl ModSt => x.get {} i) hmods).trans (s.mod_ins _ _ _)

/-- Whatever is judged, the module's link stands. -/
theorem State.judge_link (s : State) (m mc : Nat) (bad : Bool) (h : ReqHdr) (data : List Cell) :
    ((s.judge m mc bad h data).1.mod m).link = (s.mod m).link := by
  have hjudged := s.judge_judged m mc bad h data
  generalize s.judge m mc bad h data = r at hjudged ⊢
  cases hjudged with
  | refused _ => rfl
  | deferred ht => exact ht.link
  | accepted ht _ hm _ _ _ _ => rw [State.accept_mod, if_pos hm.symm, ModSt.link_take, hm, ht.link]

end Sys2Proof.Machine
end

section
/-! The obligation on admission. -/
namespace Sys2Proof.Machine

variable {s t : State}

/-- A barrier closes the entries in its scope and leaves every other part of them (R120). -/
theorem State.accept_flume {m mc : Nat} {h : ReqHdr} {data : List Cell} {n : Need} (ht : OnlyPools m s t) (hregs : t.regs = s.regs)
    (hgrp : n.grp = s.fget Fld.HOP_STREAM_GROUP h.stream) (hbar : Opc.barrier h.opc = true) :
    (t.accept n h mc data).flume.map (fun e => (e.fid, e.data, e.mask)) = s.flume.map (fun e => (e.fid, e.data, e.mask))
    ∧ ∀ e ∈ (t.accept n h mc data).flume, h.opc = Opc.barD ∨ (h.opc = Opc.barS ∧ e.stream = h.stream)
        ∨ (h.opc = Opc.barG ∧ s.fget Fld.HOP_STREAM_GROUP e.stream = s.fget Fld.HOP_STREAM_GROUP h.stream) → e.closed = true := by
  obtain ⟨-, -, hflume, -⟩ := t.accept_parts n h mc data
  have htf : t.flume = s.flume := ht.rest.flume
  have hget (st : Nat) : t.fget Fld.HOP_STREAM_GROUP st = s.fget Fld.HOP_STREAM_GROUP st := by
    have heff : t.eff = s.eff := (congrArg State.eff ht.rest :)
    have hld : t.ld = s.ld := (congrArg State.ld ht.rest :)
    unfold State.fget State.inForce State.raw
    rw [hregs, heff, hld]
  rw [hflume, if_pos hbar, htf]
  refine ⟨by rw [List.map_map]; rfl, fun e he hscope => ?_⟩
  obtain ⟨e₀, -, rfl⟩ := List.mem_map.mp he
  have hin : t.inScope (t.newReq n h mc data) e₀.stream = true := by
    rcases hscope with hD | ⟨hS, hst⟩ | ⟨hG, hst⟩
    · simp [State.inScope, State.newReq, hD, Opc.barD, Opc.barS, Opc.barG]
    · simp only [State.inScope, State.newReq, hS, if_true]
      exact decide_eq_true hst
    · simp only [State.inScope, State.newReq, hG, if_true, hget, hgrp]
      exact decide_eq_true hst
  simp [FlumeEnt.closedIf, hin]

/-- No other verdict reads as OK. -/
theorem verdict_ne_ok {code hint : Nat} (hcode : code = Rc.faulted ∨ code = Rc.off ∨ code = Rc.unreach ∨ code = Rc.defer) :
    verdict code hint ≠ verdict Rc.ok 0 := by
  have hlow : code % 16 ≠ 0 := by rcases hcode with rfl | rfl | rfl | rfl <;> decide
  simp only [verdict, Rc.ok]
  omega

/-- Settles O33: a header is refused, deferred or accepted, and each of these leaves of the machine what the statement says. -/
theorem admissionTakesOrLeaves : Obligations.AdmissionTakesOrLeaves := by
  intro s m mc bad h data r
  have hjudged : s.Judged m mc bad h data r := s.judge_judged m mc bad h data
  refine ⟨fun hne => ?_, fun hok => ?_, fun hsafe => ?_, fun hsafe hbad hmal hen hsplit hamo haddr hoff => ?_,
    fun hsafe hbad hmal hen hsplit hamo hcross => ?_⟩
  · clear_value r
    cases hjudged with
    | refused _ => exact ⟨rfl, rfl, rfl, rfl, fun _ _ => rfl⟩
    | deferred ht => exact ⟨ht.rest.hop, ht.rest.pond, ht.rest.flume, ht.rest.dram, ht.other⟩
    | accepted _ _ _ _ _ _ _ => exact absurd rfl hne
  · clear_value r
    cases hjudged with
    | refused hcode => exact absurd hok (verdict_ne_ok (by tauto))
    | deferred _ => exact absurd hok (verdict_ne_ok (by tauto))
    | @accepted t n ht hregs hm hgrp hsafe hbad hen =>
      obtain ⟨hnext, hreqs, hflume, hpond, hdram, -⟩ := t.accept_parts n h mc data
      have hhop : t.hop = s.hop := ht.rest.hop
      rw [hhop] at hnext hreqs
      refine ⟨hnext, ⟨_, hreqs, hm, rfl, rfl, rfl, rfl, rfl⟩, fun hbar => ?_, State.accept_flume ht hregs hgrp, hpond.trans ht.rest.pond,
        hdram.trans ht.rest.dram, hsafe, hbad, hen⟩
      rw [hflume, hbar]
      exact ht.rest.flume
  · simp [r, State.judge, hsafe]
  · simp [r, State.judge, hsafe, hbad, hmal, hen, hsplit, hamo, haddr, hoff]
  · have hfatom : ¬(h.opc = Opc.amo ∧ s.ld.fatom = false) := fun ⟨ho, hf⟩ => by simp [hamo ho] at hf
    simp [r, State.judge, hsafe, hbad, hmal, hen, hsplit, hfatom, hcross]

end Sys2Proof.Machine
end

section
/-! SUPPORT. The end of a request: its answer joins what its module holds to send, and its record is dropped. -/
namespace Sys2Proof.Machine

variable {s t u : State} {id : Nat} {q : Req}

/-- Answer a request, end it in a phase, and drop its record if nothing more is due. -/
def State.settle (s : State) (id : Nat) (ph : ReqPhase) (code pmask mstat val : Nat) (cells : List Cell) : State :=
  ((s.answer id code pmask mstat val cells).updReq id (fun q => { q with phase := ph })).reap id

theorem State.endReq_settle (s : State) (id code : Nat) (ph : ReqPhase) : s.endReq id code ph = s.settle id ph code 0 0 0 [] := rfl

theorem State.doMgmt_settle (s : State) (id : Nat) (q : Req) : s.doMgmt id q = (s.mgAccess q).settle id .performed Rc.ok 0 (s.mgAccess q).reply.mstat
    (if q.mgWrite then 0 else (s.mgAccess q).reply.val.toNat) [] := rfl

/-- A request that ends changes the records of requests, the responses that modules hold, and Tally's counters. -/
theorem State.settle_only (s : State) (id : Nat) (ph : ReqPhase) (code pmask mstat val : Nat) (cells : List Cell) :
    ∃ reqs mods e w, s.settle id ph code pmask mstat val cells =
      { s with hop := { s.hop with reqs := reqs }, mods := mods, tlyE := e, tlyW := w } := by
  obtain ⟨_, mods, e, w, hanswer⟩ := s.answer_only id code pmask mstat val cells
  obtain ⟨reqs, hend⟩ := ((s.answer id code pmask mstat val cells).updReq_only id fun q => { q with phase := ph }).trans (State.reap_only _ id)
  exact ⟨reqs, mods, e, w, by rw [State.settle, hend, hanswer]⟩

theorem State.reap_finished (hq : s.hop.reqs.find? id = some q) (hf : q.finished = true) :
    s.reap id = { s with hop := { s.hop with reqs := s.hop.reqs.del id } } := by
  unfold State.reap
  rw [hq]
  exact if_pos hf

theorem State.answer_reqs (hq : s.hop.reqs.find? id = some q) (ha : q.answered = false) (ho : Opc.answered q.opc = true)
    (code pmask mstat val : Nat) (cells : List Cell) :
    (s.answer id code pmask mstat val cells).hop.reqs = s.hop.reqs.ins id { q with answered := true } := by
  simp only [State.answer, hq, ha, ho, Bool.not_true, Bool.or_self, Bool.false_eq_true, if_false]
  split <;> rfl

/-- A record that ends where it may: updated to a finished one, it is gone, and the other records stand. -/
theorem State.updReq_reap (hq : s.hop.reqs.find? id = some q) {f : Req → Req} (hf : (f q).finished = true) :
    (s.updReq id f).reap id = { s with hop := { s.hop with reqs := (s.hop.reqs.ins id (f q)).del id } } := by
  rw [State.updReq_some hq, State.reap_finished (q := f q) (Tbl.find_ins_same ..) hf]

theorem Tbl.find_ins_del {α : Type} {t : Tbl α} (h : t.wf = true) (k i : Nat) (v : α) :
    ((t.ins k v).del k).find? i = if i = k then none else t.find? i := by
  rw [Tbl.find_del _ _ _ (Tbl.wf_ins _ _ _ h)]
  split
  · rfl
  · next hi => exact Tbl.find_ins_other _ _ _ _ hi

/-- A request with no token, not yet answered, that ends performed or dropped: its record is gone and its answer joins what its module holds. -/
theorem State.settle_gone (hw : s.hop.reqs.wf = true) (hq : s.hop.reqs.find? id = some q) (ha : q.answered = false) (ho : Opc.answered q.opc = true)
    (htok : q.tok = 0) {ph : ReqPhase} (hph : ph = .performed ∨ ph = .dropped) (code pmask mstat val : Nat) (cells : List Cell) :
    (s.settle id ph code pmask mstat val cells).hop.reqs.find? id = none
    ∧ ((s.settle id ph code pmask mstat val cells).mod q.m).tx = (s.mod q.m).tx ++ [q.resp code pmask mstat val s.now id cells] := by
  have hreqs := State.answer_reqs hq ha ho code pmask mstat val cells
  have htx := State.answer_tx hq ha ho code pmask mstat val cells
  have hfind : (s.answer id code pmask mstat val cells).hop.reqs.find? id = some { q with answered := true } := by rw [hreqs, Tbl.find_ins_same]
  have hfin : Req.finished { q with answered := true, phase := ph } = true := by
    obtain rfl | rfl := hph <;> simp [Req.finished, htok]
  rw [State.settle, State.updReq_reap hfind hfin]
  refine ⟨?_, htx⟩
  show (Tbl.del _ id).find? id = none
  rw [Tbl.find_ins_del (by rw [hreqs]; exact Tbl.wf_ins _ _ _ hw), if_pos rfl]

end Sys2Proof.Machine
end

section
/-! The obligation on NOP, MGMT and the reads. -/
namespace Sys2Proof.Machine

variable {s t u : State} {id mc : Nat} {q : Req}

/-! ### NOP and MGMT (R67, R71, R90, R91) -/

theorem State.fresh_some {opc : Nat} (hq : s.hop.reqs.find? id = some q) (hfresh : s.fresh id opc = true) : q.phase = .accepted ∧ q.opc = opc := by
  rw [State.fresh, State.reqIs_some hq] at hfresh
  simp only [Bool.and_eq_true, decide_eq_true_eq] at hfresh
  exact hfresh.1

theorem exec_nop (hq : s.hop.reqs.find? id = some q) (htok : q.tok = 0) (hfresh : s.fresh id Opc.nop = true) :
    exec (.nop id) s = .next { s with hop := { s.hop with reqs := (s.hop.reqs.ins id { q with phase := .performed }).del id } } := by
  have hopc : q.opc = Opc.nop := (State.fresh_some hq hfresh).2
  have hfin : Req.finished { q with phase := .performed } = true := by
    have hnone : Opc.answered Opc.nop = false := by decide
    simp [Req.finished, hopc, htok, hnone]
  exact congrArg Host.Outcome.next ((when_true hfresh _ s).trans (State.updReq_reap hq hfin))

theorem exec_mgmt (hq : s.hop.reqs.find? id = some q) (hfresh : s.fresh id Opc.mgmt = true) (hbehind : s.mgBehind id q.stream = false)
    (hmains : s.mainsOn = true) : exec (.mgmt id) s = .next (s.doMgmt id q) := by
  show execMgmt id s = _
  unfold execMgmt
  rw [hq]
  exact congrArg Host.Outcome.next (when_true (by simp [hfresh, hbehind, hmains]) _ s)

/-! ### The sources of a read (R99, R139) -/

/-- s as a read's steering finds it: its mc reached, and the Flume entries of its block closed. -/
def State.atRead (s : State) (q : Req) (mc : Nat) : State :=
  ({ s with clk := s.clkAt mc } : State).flumeClose (fun e => decide (e.blk = q.addr / 256))

/-- The source gives a value at once, which is d. -/
def RdSrc.Gives (src : RdSrc) (d : Cell) : Prop := src = .value d false ∨ (src = .zero ∧ d = 0)

theorem State.bindSrc_gives {src : RdSrc} {d : Cell} (h : src.Gives d) (s : State) (id k : Nat) : s.bindSrc id k src = s.bindCell id k d false := by
  obtain rfl | ⟨rfl, rfl⟩ := h <;> rfl

theorem each_bindSrc_race (l : List Nat) (s : State) (id : Nat) :
    each (l.map fun k => (k, RdSrc.race)) (fun kv s => s.bindSrc id kv.1 kv.2) s = s := by
  unfold each
  induction l with
  | nil => rfl
  | cons k l ih => exact ih

/-- The record of a request, written. -/
def State.putReq (s : State) (id : Nat) (q : Req) : State := { s with hop := { s.hop with reqs := s.hop.reqs.ins id q } }

theorem State.putReq_find (s : State) (id : Nat) (q : Req) : (s.putReq id q).hop.reqs.find? id = some q := Tbl.find_ins_same ..

theorem State.putReq_wf (hw : s.hop.reqs.wf = true) (id : Nat) (q : Req) : (s.putReq id q).hop.reqs.wf = true := Tbl.wf_ins _ _ _ hw

/-- Request id is gone from t, and its response held; the rest of what a read may change stands. -/
structure ReadAnswered (id : Nat) (q : Req) (r : Resp) (s t : State) : Prop where
  clk : t.clk = s.clk
  gone : t.hop.reqs.find? id = none
  resv : t.hop.resv = s.hop.resv
  races : t.races = s.races
  tx : (t.mod q.m).tx = (s.mod q.m).tx ++ [r]

theorem State.settle_answered (hw : s.hop.reqs.wf = true) (hq : s.hop.reqs.find? id = some q) (ha : q.answered = false)
    (ho : Opc.answered q.opc = true) (htok : q.tok = 0) {ph : ReqPhase} (hph : ph = .performed ∨ ph = .dropped) (code : Nat) (cells : List Cell) :
    ReadAnswered id q (q.resp code 0 0 0 s.now id cells) s (s.settle id ph code 0 0 0 cells) := by
  obtain ⟨hgone, htx⟩ := State.settle_gone hw hq ha ho htok hph code 0 0 0 cells
  obtain ⟨_, _, _, _, honly⟩ := s.settle_only id ph code 0 0 0 cells
  exact ⟨by rw [honly], hgone, by rw [honly], by rw [honly], htx⟩

/-- The one cell of a read, bound, ends it. -/
theorem State.bindCell_last (hq : s.hop.reqs.find? id = some q) (hone : q.nCells = 1) (hgot : q.got = {}) (hpm : q.pmask = 0) (d : Cell) :
    s.bindCell id 0 d false = (s.putReq id { q with got := q.got.ins 0 d }).settle id .performed Rc.ok 0 0 0 [d] := by
  have hrows : (q.got.ins 0 d).rows.length = q.nCells := by rw [hgot, hone]; rfl
  have hvals : (q.got.ins 0 d).vals = [d] := by rw [hgot]; rfl
  have hcode : Req.readCode { q with got := q.got.ins 0 d } = Rc.ok := if_pos hpm
  rw [← hvals, ← hcode]
  unfold State.bindCell
  rw [hq]
  refine (if_pos hrows).trans ?_
  show State.settle _ id .performed _ q.pmask 0 0 _ = _
  rw [hpm]
  rfl

theorem State.bindCell_answered (hw : s.hop.reqs.wf = true) (hq : s.hop.reqs.find? id = some q) (ha : q.answered = false)
    (ho : Opc.answered q.opc = true) (htok : q.tok = 0) (hone : q.nCells = 1) (hgot : q.got = {}) (hpm : q.pmask = 0) (d : Cell) :
    ReadAnswered id q (q.resp Rc.ok 0 0 0 s.now id [d]) s (s.bindCell id 0 d false) := by
  rw [State.bindCell_last hq hone hgot hpm d]
  obtain ⟨hclk, hgone, hresv, hraces, htx⟩ :=
    State.settle_answered (State.putReq_wf hw id _) (State.putReq_find s id { q with got := q.got.ins 0 d }) ha ho htok (.inl rfl) Rc.ok [d]
  exact ⟨hclk, hgone, hresv, hraces, htx⟩

/-- What steering writes into a read's record. -/
def Req.steered (q : Req) (ph : ReqPhase) (x : Bool) (sent : List Nat) : Req := { q with phase := ph, express := x, sent := sent }

/-- A one-cell read whose source gives d: its record is marked sent, and its cell bound. -/
theorem State.steerRead_gives (hq : s.hop.reqs.find? id = some q) {d : Cell}
    (hsrc : (s.readSrc q.stream id q.addr).Gives d) :
    ∃ (ph : ReqPhase) (x : Bool) (sent : List Nat) (e w : Tly),
      s.steerRead id q [0] = (({ s with tlyE := e, tlyW := w } : State).putReq id (q.steered ph x sent)).bindCell id 0 d false := by
  unfold State.steerRead
  extract_lets all srcs toRace x n exp sent t u y v fits lane w₀ w₁ w₂
  have hall : all = [(0, s.readSrc q.stream id q.addr)] := rfl
  generalize s.readSrc q.stream id q.addr = src at hsrc hall
  have hsrcs : srcs = [(0, src)] := by
    unfold srcs
    rw [hall]
    obtain rfl | ⟨rfl, rfl⟩ := hsrc <;> rfl
  have htoRace : toRace = [] := by
    unfold toRace
    rw [hsrcs]
    obtain rfl | ⟨rfl, rfl⟩ := hsrc <;> rfl
  have hfits : fits = true := by simp [fits, htoRace]
  let ph := if sent.length = q.nCells then ReqPhase.working else ReqPhase.accepted
  have hv : v = s.putReq id (q.steered ph exp sent) := by
    simp only [v, u, htoRace, List.isEmpty_nil, if_true]
    exact State.updReq_some hq _
  have hw₀ : w₀ = v := if_pos hfits
  have hw₂ : ∃ e w, w₂ = { v with tlyE := e, tlyW := w } := by
    unfold w₂ w₁
    rw [hw₀]
    split <;> split <;> exact ⟨_, _, rfl⟩
  obtain ⟨e, w, hw₂⟩ := hw₂
  rw [if_neg (by simp [hsrcs, hfits]), hsrcs]
  refine ⟨ph, exp, sent, e, w, (State.bindSrc_gives hsrc w₂ id 0).trans ?_⟩
  rw [hw₂, hv]
  rfl

/-! ### Reads that the race gives (R139) -/

theorem Race.foldl_rqPut (l : List (Nat × RdSrc)) (f : Nat → Nat) (id cls since : Nat) (x : Race) :
    ∃ es, (l.foldl (fun (y : Race) kv => y.rqPut .host id kv.1 (f kv.1) cls since) x).rq = x.rq ++ es ∧ es.length = l.length := by
  induction l generalizing x with
  | nil => exact ⟨[], by simp, rfl⟩
  | cons kv l ih =>
    obtain ⟨es, hrq, hlen⟩ := ih (x.rqPut .host id kv.1 (f kv.1) cls since)
    exact ⟨_ :: es, by rw [List.foldl_cons, hrq, Race.rqPut, List.append_assoc]; rfl, by simp [hlen]⟩

/-- A read of which the race must give every cell, and for which its read queue has room: its record waits, and its cells join the queue. -/
theorem State.steerRead_race (hq : s.hop.reqs.find? id = some q) (hsent : q.sent = []) (hn : 1 ≤ q.nCells)
    (hsrc : ∀ k, k < q.nCells → s.readSrc q.stream id (q.addr + 64 * k) = .race) (hfits : (s.race q.race).rqFits q.cls q.nCells = true) :
    ∃ x y es, s.steerRead id q (List.range q.nCells)
        = ((s.putReq id (q.steered .working x (List.range q.nCells))).modeLatch q.race).setRace q.race y
      ∧ y.rq = (s.race q.race).rq ++ es ∧ es.length = q.nCells := by
  unfold State.steerRead
  extract_lets all srcs toRace x n exp sent t u y v fits lane w₀ w₁ w₂
  have hall : all = (List.range q.nCells).map fun k => (k, RdSrc.race) :=
    List.map_congr_left fun k hk => by rw [hsrc k (List.mem_range.mp hk)]
  have hsrcs : srcs = (List.range q.nCells).map fun k => (k, RdSrc.race) := by
    unfold srcs
    rw [hall, List.filter_eq_self]
    simp
  have htoRace : toRace = (List.range q.nCells).map fun k => (k, RdSrc.race) := by
    unfold toRace
    rw [hsrcs, List.filter_eq_self]
    simp
  have hlen : toRace.length = q.nCells := by simp [htoRace]
  have hsome : toRace.isEmpty = false := by
    rw [List.isEmpty_eq_false_iff, ← List.length_pos_iff, hlen]
    exact hn
  have hsent_eq : sent = List.range q.nCells := by
    simp only [sent, hsent, hsrcs, List.map_map, List.nil_append]
    exact List.map_id _
  have ht : t = s.putReq id (q.steered .working exp (List.range q.nCells)) := by
    refine (State.updReq_some hq _).trans ?_
    rw [hsent_eq, List.length_range, if_pos rfl]
    rfl
  obtain ⟨es, hrq, hes⟩ := Race.foldl_rqPut toRace (fun k => q.addr + 64 * k) id q.cls s.now (u.race q.race)
  have hu : u = t.modeLatch q.race := if_neg (by simp [hsome])
  have hurq : (u.race q.race).rq = (s.race q.race).rq := by rw [hu, State.modeLatch_race, ht]; rfl
  have hv : v = u.setRace q.race y := if_neg (by simp [hsome])
  have hfits' : fits = true := by simp [fits, x, n, hlen, hfits]
  have hw₂ : w₂ = v := by
    have hw₀ : w₀ = v := if_pos hfits'
    have hw₁ : w₁ = w₀ := if_neg (by simp [hsrcs])
    have hw₂ : w₂ = w₁ := if_neg (by simp [hsrcs])
    rw [hw₂, hw₁, hw₀]
  refine ⟨exp, y, es, ?_, by rw [← hurq]; exact hrq, hes.trans hlen⟩
  rw [if_neg (by simpa [hfits', hsrcs] using Nat.ne_of_gt hn), hw₂, hsrcs, each_bindSrc_race, hv, hu, ht]

/-! ### The commands -/

theorem State.doRead_off (hq : s.hop.reqs.find? id = some q) (hoff : s.raceOff q.race = true) :
    s.doRead id mc = (s.atRead q mc).settle id .dropped Rc.off 0 0 0 [] := by
  unfold State.doRead
  rw [hq]
  exact (if_pos hoff).trans (State.endReq_settle _ id Rc.off .dropped)

theorem State.doRead_steer (hq : s.hop.reqs.find? id = some q) (hsent : q.sent = []) (hoff : s.raceOff q.race = false)
    (hchunk : s.chunkDone q.addr = true) : s.doRead id mc = (s.atRead q mc).steerRead id q (List.range q.nCells) := by
  have hcells : (List.range q.nCells).filter (fun k => !q.sent.contains k) = List.range q.nCells := by
    rw [List.filter_eq_self]
    simp [hsent]
  have hoff' : (s.atRead q mc).raceOff q.race = false := hoff
  have hchunk' : (!(s.atRead q mc).chunkDone q.addr) = false := congrArg (!·) hchunk
  unfold State.doRead
  rw [hq]
  dsimp only
  rw [hcells]
  exact (if_neg (ne_true_of_eq_false hoff')).trans (if_neg (ne_true_of_eq_false hchunk'))

theorem State.doRead_off_answered (hw : s.hop.reqs.wf = true) (hq : s.hop.reqs.find? id = some q) (ha : q.answered = false)
    (ho : Opc.answered q.opc = true) (htok : q.tok = 0) (hoff : s.raceOff q.race = true) :
    ReadAnswered id q (q.resp Rc.off 0 0 0 (s.atRead q mc).now id []) (s.atRead q mc) (s.doRead id mc) := by
  rw [State.doRead_off hq hoff]
  exact State.settle_answered (s := s.atRead q mc) hw hq ha ho htok (.inr rfl) Rc.off []

theorem State.doRead_gives_answered (hw : s.hop.reqs.wf = true) (hq : s.hop.reqs.find? id = some q) (ha : q.answered = false)
    (ho : Opc.answered q.opc = true) (htok : q.tok = 0) (hsent : q.sent = []) (hgot : q.got = {}) (hpm : q.pmask = 0) (hone : q.nCells = 1) {d : Cell}
    (hoff : s.raceOff q.race = false) (hchunk : s.chunkDone q.addr = true) (hsrc : ((s.atRead q mc).readSrc q.stream id q.addr).Gives d) :
    ReadAnswered id q (q.resp Rc.ok 0 0 0 (s.atRead q mc).now id [d]) (s.atRead q mc) (s.doRead id mc) := by
  obtain ⟨ph, x, sent, e, w, hsteer⟩ := State.steerRead_gives (s := s.atRead q mc) hq hsrc
  rw [State.doRead_steer hq hsent hoff hchunk, hone, show List.range 1 = [0] from rfl, hsteer]
  obtain ⟨hclk, hgone, hresv, hraces, htx⟩ := State.bindCell_answered
    (State.putReq_wf (s := { s.atRead q mc with tlyE := e, tlyW := w }) hw id (q.steered ph x sent)) (State.putReq_find _ _ _)
    ha ho htok hone hgot hpm d
  exact ⟨hclk, hgone, hresv, hraces, htx⟩

/-- The read's cells wait in t in its race's read queue. -/
structure ReadQueued (id mc : Nat) (q : Req) (s t : State) : Prop where
  clk : t.clk = s.clkAt mc
  mods : t.mods = s.mods
  waits : ∃ x, t.hop.reqs.find? id = some (q.steered .working x (List.range q.nCells))
  joins : ∃ es, (t.race q.race).rq = (s.race q.race).rq ++ es ∧ es.length = q.nCells
  others : ∀ r, r ≠ q.race → t.race r = s.race r

theorem State.doRead_race_queued (hq : s.hop.reqs.find? id = some q) (hsent : q.sent = []) (hoff : s.raceOff q.race = false)
    (hchunk : s.chunkDone q.addr = true) (hn : 1 ≤ q.nCells)
    (hsrc : ∀ k, k < q.nCells → (s.atRead q mc).readSrc q.stream id (q.addr + 64 * k) = .race)
    (hfits : (s.race q.race).rqFits q.cls q.nCells = true) : ReadQueued id mc q s (s.doRead id mc) := by
  obtain ⟨x, y, es, hsteer, hrq, hlen⟩ := State.steerRead_race (s := s.atRead q mc) hq hsent hn hsrc hfits
  rw [State.doRead_steer hq hsent hoff hchunk, hsteer]
  obtain ⟨hrace, hothers⟩ := State.race_put (s := (s.atRead q mc).putReq id (q.steered .working x (List.range q.nCells)))
    (r := q.race) (y := y) rfl
  exact ⟨rfl, rfl, ⟨x, State.putReq_find (s.atRead q mc) id _⟩, ⟨es, (congrArg Race.rq hrace).trans hrq, hlen⟩, hothers⟩

/-- The stream of an RDX holds in t the reservation of the request's granule. -/
def Req.Marks (q : Req) (s t : State) : Prop := q.opc = Opc.rdx → ∃ r, t.hop.resv.find? q.stream = some r
  ∧ r.base = q.addr / s.granule * s.granule ∧ r.size = s.granule ∧ q.m ∈ r.mods

/-- t is what the read makes of s, but for the reservation that an RDX sets in it. -/
structure ReadDone (id mc : Nat) (q : Req) (s t : State) : Prop where
  intact : Intact s t
  done : ∃ resv, t = { s.doRead id mc with hop := { (s.doRead id mc).hop with resv := resv } }
  off : s.raceOff q.race = true → t = s.doRead id mc
  marks : s.raceOff q.race = false → (s.doRead id mc).reqIs id (fun q => q.phase = .accepted) = false → q.Marks s t

/-- RD and RDX differ in the reservation alone. -/
theorem exec_read {c : Instr} (hq : s.hop.reqs.find? id = some q) (ha : q.answered = false)
    (hc : (c = .rd id mc ∧ s.fresh id Opc.rd = true) ∨ (c = .rdx id mc ∧ s.fresh id Opc.rdx = true)) : Completes c s (ReadDone id mc q s) := by
  obtain ⟨rfl, hfresh⟩ | ⟨rfl, hfresh⟩ := hc
  · obtain ⟨t, ht, htame⟩ := execRd_out s id mc
    have hopc : q.opc = Opc.rd := (State.fresh_some hq hfresh).2
    have hrun : t = s.doRead id mc := Host.Outcome.next.inj (ht.symm.trans (congrArg Host.Outcome.next (when_true hfresh _ s)))
    exact ⟨t, ht, htame.intact, ⟨_, hrun⟩, fun _ => hrun, fun _ _ hrdx => absurd (hopc.symm.trans hrdx) (by decide)⟩
  · obtain ⟨t, ht, htame⟩ := execRdx_out s id mc
    have hrun := Host.Outcome.next.inj (ht.symm.trans (congrArg Host.Outcome.next (when_true hfresh _ s)))
    rw [hq] at hrun
    refine ⟨t, ht, htame.intact, ?_, fun hoff => ?_, fun hoff hacc _ => ?_⟩
    · rw [hrun]
      dsimp only
      split
      · exact ⟨_, rfl⟩
      · exact ⟨_, rfl⟩
    · exact hrun.trans (if_pos (by simp [hoff]))
    · have hmark := hrun.trans (if_neg (by simp [hoff, hacc, ha]))
      rw [hmark]
      exact ⟨_, Tbl.find_ins_same .., rfl, rfl, List.mem_cons_self⟩

/-- Settles O35: each command's run, followed to the record, the response and the queue that it leaves. -/
theorem nopMgmtAndReads : Obligations.NopMgmtAndReads := by
  refine ⟨fun s id q hw hq htok => ⟨fun hfresh => ?_, fun hfresh hbehind hmains ha => ?_⟩,
    fun s id mc q c hw hq ha htok hgot hpm hsent hc => ?_⟩
  · have hfind := Tbl.find_ins_del hw id (v := { q with phase := .performed })
    exact .of_exec (exec_nop hq htok hfresh) ⟨(hfind id).trans (if_pos rfl), fun i hi => (hfind i).trans (if_neg hi), rfl⟩
  · have ho : Opc.answered q.opc = true := by rw [(State.fresh_some hq hfresh).2]; decide
    obtain ⟨t, ht, htame⟩ := execMgmt_out s id
    obtain ⟨hpend, hdram, hfuse⟩ := htame.intact
    have hrun : t = s.doMgmt id q := Host.Outcome.next.inj (ht.symm.trans (exec_mgmt hq hfresh hbehind hmains))
    rw [State.doMgmt_settle] at hrun
    obtain ⟨_, _, _, _, honly⟩ := (s.mgAccess q).settle_only id .performed Rc.ok 0 (s.mgAccess q).reply.mstat
      (if q.mgWrite then 0 else (s.mgAccess q).reply.val.toNat) []
    refine ⟨t, ht, by rw [hrun, honly], by rw [hrun, honly], hpend, hdram, hfuse, fun hq' hw' => ?_⟩
    rw [hrun]
    exact State.settle_gone hw' hq' ha ho htok (.inl rfl) ..
  · intro u marked
    have ho : Opc.answered q.opc = true := by
      obtain ⟨-, hfresh⟩ | ⟨-, hfresh⟩ := hc <;> rw [(State.fresh_some hq hfresh).2] <;> decide
    obtain ⟨t, ht, hintact, ⟨resv, rfl⟩, hoffT, hmarks⟩ := exec_read hq ha hc
    refine ⟨fun hoff => ?_, fun d hoff hchunk hone hsrc => ?_, fun hoff hchunk hn hsrc hfits => ?_⟩
    · obtain ⟨hclk, hgone, hresv, hraces, htx⟩ := State.doRead_off_answered (mc := mc) hw hq ha ho htok hoff
      exact ⟨_, ht, hintact, hclk, hgone, (congrArg (fun x : State => x.hop.resv) (hoffT hoff)).trans hresv, hraces, htx⟩
    · obtain ⟨hclk, hgone, -, hraces, htx⟩ := State.doRead_gives_answered hw hq ha ho htok hsent hgot hpm hone hoff hchunk hsrc
      have hacc : (s.doRead id mc).reqIs id (fun q => q.phase = .accepted) = false := by rw [State.reqIs, hgone]
      exact ⟨_, ht, hintact, hclk, hgone, hraces, hmarks hoff hacc, htx⟩
    · obtain ⟨hclk, hmods, ⟨x, hwaits⟩, ⟨es, hrq, hlen⟩, hothers⟩ := State.doRead_race_queued hq hsent hoff hchunk hn hsrc hfits
      have hacc : (s.doRead id mc).reqIs id (fun q => q.phase = .accepted) = false := State.reqIs_some hwaits _
      refine ⟨_, ht, hintact, hclk, hmods, hmarks hoff hacc, ⟨x, hwaits⟩, ?_, ⟨es, hrq.symm⟩, hothers⟩
      exact (congrArg List.length hrq).trans (List.length_append.trans (by rw [hlen]))

end Sys2Proof.Machine
end

section
/-!
The obligation on the states of a module, refuted: `modFitted` bounds a module's number by the number of modules fitted, and that number by nothing. A
device with more than the 20 modules of its register file has module numbers whose HEAD_MOD_CTRL is at the place of another register; there the checks
of a write pass and the write disables no module.
-/
namespace Sys2Proof.Machine

/-- The number of the "module" whose HEAD_MOD_CTRL would be at the place of FLUME_CFG. -/
def strayModule : Nat := 260

/-- A device in RUN with 600 modules fitted. -/
def overfitted : State := { boot := { inReset := none, westUp := true }, ld := { hmods := 600 } }

/-- The enable of a module after a command. -/
def enableAfter (m : Nat) : Host.Outcome State Fault Refusal → Nat
  | .next t => t.fheld Fld.HEAD_MOD_CTRL_EN m
  | _ => 0

theorem overfitted_fitted : modFitted overfitted.ld strayModule = true := by decide +kernel

theorem overfitted_calm : overfitted.fheld Fld.HEAD_MOD_CTRL_RESTART strayModule = 0 ∧ overfitted.fheld Fld.HEAD_MOD_CTRL_RECAL strayModule = 0 := by
  decide +kernel

theorem overfitted_enabled : overfitted.fheld Fld.HEAD_MOD_CTRL_EN strayModule = 1 := by decide +kernel

theorem overfitted_granted : overfitted.grantsField (.fw 0) Fld.HEAD_MOD_CTRL_EN 0 strayModule 0 = true := by decide +kernel

/-- The write reaches no module's register: the enable stays. -/
theorem overfitted_stays : enableAfter strayModule (exec (.moduleEnable (.fw 0) strayModule false) overfitted) = 1 := by decide +kernel

/-- The part of the obligation that fails: a write of EN = 0 that passes every check clears the enable. -/
theorem ModulesChangeState.disable_clears (h : Obligations.ModulesChangeState) (s : State) (path : Path) (m : Nat) (hw : s.regs.wf = true)
    (hfit : modFitted s.ld m = true) (hcalm : s.fheld Fld.HEAD_MOD_CTRL_RESTART m = 0 ∧ s.fheld Fld.HEAD_MOD_CTRL_RECAL m = 0)
    (hgrant : s.grantsField path Fld.HEAD_MOD_CTRL_EN 0 m 0 = true) (hen : s.fheld Fld.HEAD_MOD_CTRL_EN m = 1) :
    ∃ t, exec (.moduleEnable path m false) s = .next t ∧ t.fheld Fld.HEAD_MOD_CTRL_EN m = 0 := by
  obtain ⟨-, hwrites⟩ := h
  obtain ⟨hdisable, -⟩ := hwrites s path m hw hfit hcalm.1 hcalm.2
  obtain ⟨t, ht, -, -, -, -, -, -, hclear⟩ := hdisable hgrant hen
  exact ⟨t, ht, hclear⟩

/-- Refutes O34: `strayModule` is fitted, the write that disables it is granted, and its enable stays. -/
theorem not_modulesChangeState : ¬ Obligations.ModulesChangeState := by
  intro h
  obtain ⟨t, ht, hclear⟩ :=
    ModulesChangeState.disable_clears h overfitted (.fw 0) strayModule (by decide) overfitted_fitted overfitted_calm overfitted_granted
      overfitted_enabled
  have hstays : t.fheld Fld.HEAD_MOD_CTRL_EN strayModule = 1 := (congrArg (enableAfter strayModule) ht).symm.trans overfitted_stays
  exact absurd (hclear.symm.trans hstays) (by decide)

end Sys2Proof.Machine
end

section
/-! SUPPORT. What a raise and a landing leave of a module, and the null flits that a module sends. -/
namespace Sys2Proof.Machine

variable {s t u : State} {m : Nat}

/-! ### A raise at a module -/

theorem Raised.clk (h : Raised s t) : t.clk = s.clk := (congrArg State.clk h.rest :)

/-- Of a module a raise changes the responses held, which a projection p does not see. -/
theorem Raised.mod_proj {α : Type} (h : Raised s t) (p : ModSt → α) (hp : ∀ (x : ModSt) (tx : List Resp), p { x with tx := tx } = p x)
    (m : Nat) : p (t.mod m) = p (s.mod m) :=
  (hp (t.mod m) (s.mod m).tx).symm.trans (congrArg p (h.mods m))

theorem srcRow_head {src : Nat} (hsrc : src = Src.HEAD_PROTO ∨ src = Src.HEAD_LINK) : ∃ r, srcRow src = some r ∧ r.n = 20 := by
  obtain rfl | rfl := hsrc
  · exact ⟨_, rfl, rfl⟩
  · exact ⟨_, rfl, rfl⟩

theorem State.noteUnder_regs (s : State) (l : List RaiseEv) : (s.noteUnder l).regs = s.regs := by
  unfold State.noteUnder
  split <;> rfl

/-- A raise at a number past the 20 modules is not seen, and so writes no register. -/
theorem State.raise_stray_regs {src : Nat} (hsrc : src = Src.HEAD_PROTO ∨ src = Src.HEAD_LINK) (hm : 20 ≤ m) (s : State) (detail : Nat) :
    (s.raise src m detail).regs = s.regs := by
  obtain ⟨r, hrow, hn⟩ := srcRow_head hsrc
  have hseen : s.raiseSeen { src := src, inst := m, detail := detail } = false := by
    simp [State.raiseSeen, hrow, hn, Nat.not_lt.mpr hm]
  rw [← s.noteUnder_regs [{ src := src, inst := m, detail := detail }]]
  simp [State.raise, State.raiseAll, List.filter, hseen, each]

/-- A raise at a module, whatever its number, leaves the word of the module's counters. -/
theorem State.raise_err {src : Nat} (hsrc : src = Src.HEAD_PROTO ∨ src = Src.HEAD_LINK) (hw : s.regs.wf = true) (m detail : Nat) :
    (s.raise src m detail).raw .HEAD_MOD_ERR (Reg.key .HEAD_MOD_ERR m 0) = s.raw .HEAD_MOD_ERR (Reg.key .HEAD_MOD_ERR m 0) := by
  have hraised := s.raise_raised src m detail
  obtain hm | hm := Nat.lt_or_ge m 20
  · have hkey : Reg.key .HEAD_MOD_ERR m 0 = 0x10 + m * 0x1000 + 0 := rfl
    refine (hraised.regs hw).2 _ _ (fun h => ?_) (fun i => ?_) ?_ ?_
    · have hfan : Reg.key .FAN_CTRL 0 h = 0xA00008 + 0 + h * 0x80000 := rfl
      omega
    · have hspin : Reg.key .SPIN_STAT i 0 = 0x800800 + i * 0x10000 + 0 := rfl
      omega
    · have hwake : Reg.key .GOV_WAKE 0 0 = 0xD00030 := rfl
      omega
    · omega
  · have hld : (s.raise src m detail).ld = s.ld := (congrArg State.ld hraised.rest :)
    rw [State.raw, State.raw, State.raise_stray_regs hsrc hm, hld]

/-- t is s but for what leaves the clock and module m's link as they were. -/
def LinkStands (m : Nat) (s t : State) : Prop := t.clk = s.clk ∧ (t.mod m).link = (s.mod m).link

theorem LinkStands.refl (m : Nat) (s : State) : LinkStands m s s := ⟨rfl, rfl⟩

theorem LinkStands.trans (h : LinkStands m s t) (g : LinkStands m t u) : LinkStands m s u := ⟨g.1.trans h.1, g.2.trans h.2⟩

theorem LinkStands.ite {c : Prop} [Decidable c] (ht : LinkStands m s t) (hu : LinkStands m s u) : LinkStands m s (if c then t else u) := by
  split
  · exact ht
  · exact hu

theorem Raised.linkStands (h : Raised s t) (m : Nat) : LinkStands m s t := ⟨h.clk, h.mod_proj ModSt.link (fun _ _ => rfl) m⟩

/-! ### What lands (R71, R72, R78, R81) -/

theorem Counted.clk (h : Counted s t) : t.clk = s.clk := (congrArg State.clk h :)

theorem Counted.linkStands (h : Counted s t) (m : Nat) : LinkStands m s t := ⟨h.clk, by rw [h.mod]⟩

theorem State.judge_clk (s : State) (m mc : Nat) (bad : Bool) (h : ReqHdr) (data : List Cell) : (s.judge m mc bad h data).1.clk = s.clk := by
  have hjudged := s.judge_judged m mc bad h data
  generalize s.judge m mc bad h data = r at hjudged ⊢
  cases hjudged with
  | refused _ => rfl
  | deferred ht => exact ht.rest.clk
  | @accepted t n ht _ _ _ _ _ _ =>
    have hcount := t.accept_counted n h mc data
    obtain ⟨resv, haccept⟩ := (t.admitted n (t.newReq n h mc data)).onAccept_parts (t.newReq n h mc data)
    rw [haccept] at hcount
    exact hcount.clk.trans ht.rest.clk

theorem State.judge_stands (s : State) (m mc : Nat) (bad : Bool) (h : ReqHdr) (data : List Cell) : LinkStands m s (s.judge m mc bad h data).1 :=
  ⟨s.judge_clk m mc bad h data, s.judge_link m mc bad h data⟩

/-- The headers judged one after the other: the link stands, and each slot has a verdict. -/
theorem State.judgeAll_stands (m mc : Nat) (bad : Bool) (hdrs : List (Option ReqHdr)) (s : State) (cs : List (List Cell)) :
    LinkStands m s (s.judgeAll m mc bad hdrs cs).1 ∧ (s.judgeAll m mc bad hdrs cs).2.length = hdrs.length := by
  induction hdrs generalizing s cs with
  | nil => exact ⟨.refl m s, rfl⟩
  | cons h hdrs ih =>
    cases h with
    | none =>
      obtain ⟨hstands, hlen⟩ := ih s (cs.drop 1)
      exact ⟨hstands, congrArg (· + 1) hlen⟩
    | some h =>
      obtain ⟨hstands, hlen⟩ := ih (s.judge m mc bad h (cs.headD [])).1 (cs.drop 1)
      exact ⟨(s.judge_stands m mc bad h _).trans hstands, congrArg (· + 1) hlen⟩

theorem State.landing_stands (s : State) (m : Nat) : LinkStands m s s.landing :=
  (show LinkStands m s { s with gov := { s.gov with idleTurns := 0 } } from ⟨rfl, rfl⟩).trans ((State.wakeEvent_raised _ 0x8).linkStands m)

/-- A flit that lands: acknowledged, counted, and with a header three verdicts join the queue. -/
theorem State.land_link (s : State) (m mc : Nat) (f : Flit) : (s.land m mc f).clk = s.clk ∧
    ∃ vs, ((s.land m mc f).mod m).link = ((s.mod m).st, flSeq f, false, (s.mod m).landed + 1, (s.mod m).verdQ ++ vs)
      ∧ ((flitHdrs f).any Option.isSome = false → vs = [])
      ∧ ((flitHdrs f).any Option.isSome = true → ∃ v, v.length = 3 ∧ vs = [(flSeq f, v)]) := by
  unfold State.land
  extract_lets x hdrs n q cl resv stale bad any x' s₁ s₂ s₃ s₄ y z
  have h₁ : s₁.clk = s.clk ∧ (s₁.mod m).link = (x.st, flSeq f, false, n, x.verdQ) :=
    ⟨rfl, by rw [State.mod_ins, if_pos rfl]; rfl⟩
  clear_value s₁
  have h₂ : LinkStands m s₁ s₂ := .ite (s₁.landing_stands m) (.refl m s₁)
  clear_value s₂
  have h₃ : LinkStands m s₁ s₃ := h₂.trans ((s₂.tally_counted _ _ _ _).linkStands m)
  clear_value s₃
  have hraise : LinkStands m s₃ ((s₃.fadd Fld.HEAD_MOD_ERR_PROTO 1 m).raise Src.HEAD_PROTO m 0) :=
    ((s₃.fset_counted Fld.HEAD_MOD_ERR_PROTO _ m 0).linkStands m).trans ((State.raise_raised _ _ _ _).linkStands m)
  have h₄ : LinkStands m s₁ s₄ := h₃.trans (.ite hraise (.refl m s₃))
  clear_value s₄
  obtain ⟨hjudged, hlen⟩ := State.judgeAll_stands m mc bad hdrs s₄ (match cl with | some (cs, _) => cs | none => [])
  have hy : LinkStands m s₁ y.1 := h₄.trans hjudged
  have hylen : y.2.length = 3 := hlen.trans rfl
  clear_value y
  obtain ⟨hclk, hlink⟩ : y.1.clk = s.clk ∧ (y.1.mod m).link = (x.st, flSeq f, false, n, x.verdQ) := ⟨hy.1.trans h₁.1, hy.2.trans h₁.2⟩
  cases hany : any with
  | false => exact ⟨hclk, [], by simpa [hany] using hlink, fun _ => rfl, fun h => absurd (hany.symm.trans h) (by decide)⟩
  | true =>
    refine ⟨hclk, [(flSeq f, y.2)], ?_, fun h => absurd (hany.symm.trans h) (by decide), fun _ => ⟨y.2, hylen, rfl⟩⟩
    rw [if_pos rfl, State.mod_ins, if_pos rfl]
    simp only [ModSt.link, Prod.mk.injEq] at hlink ⊢
    obtain ⟨hst, hack, hnak, hlanded, hverdQ⟩ := hlink
    exact ⟨hst, hack, hnak, hlanded, by rw [← hverdQ]⟩

/-! ### Null flits (R63, R65) -/

/-- Between what lies below it and what lies above it, a bit that is set reads as set. -/
theorem testBit_between {low a w n : Nat} (hlow : low < 2 ^ w) (hn : a + w < n) (high : Nat) :
    ((low + 2 ^ w) * 2 ^ a + high * 2 ^ n).testBit (a + w) = true := by
  obtain ⟨k, rfl⟩ := Nat.exists_eq_add_of_lt hn
  have hsum : (low + 2 ^ w) * 2 ^ a + high * 2 ^ (a + w + k + 1) = 2 ^ a * (2 ^ w * (2 * (high * 2 ^ k) + 1) + low) := by ring
  rw [hsum, Nat.testBit_two_pow_mul]
  simp [Nat.testBit_two_pow_mul_add, hlow, Nat.testBit_zero]

/-- The NULL bit of a flit that is built: its trailer lies at bit 384, and its CRC at bit 480. -/
theorem flNull_of_mark {low : Nat} (hlow : low < 2 ^ 21) (crc : Nat) :
    flNull (BitVec.ofNat 2048 ((low + 2 ^ 21) * 2 ^ 384 + crc * 2 ^ 480)) = true := by
  have hbit := testBit_between hlow (a := 384) (n := 480) (by decide) crc
  rw [flNull, flTrl, bits, Nat.pow_one, decide_eq_true_iff, Nat.mod_two_eq_one_iff_testBit_zero, Nat.testBit_shiftRight, BitVec.testBit_toNat,
    BitVec.getLsbD_ofNat]
  exact (Bool.and_eq_true _ _).mpr ⟨rfl, hbit⟩

/-- The slots of a flit that is given nothing sum to nothing. -/
theorem foldl_empty_slots {w : Nat} (g : Nat → Nat) (l : List Nat) :
    l.foldl (fun a i => a + (([] : List (BitVec w)).getD i 0).toNat * g i) 0 = 0 := by
  simp

/-- A flit built as a null flit reads as one. -/
theorem flNull_flBuild_null (seq ack : Nat) (nak : Bool) : flNull (flBuild [] [] 0 seq ack 0 nak true false []) = true := by
  have hlow : seq % 1024 + ack % 1024 * 2 ^ 10 + b2n nak * 2 ^ 20 < 2 ^ 21 := by
    have hnak : b2n nak ≤ 1 := by cases nak <;> decide
    omega
  unfold flBuild
  extract_lets h t c f₀ crc
  have hh : h = 0 := foldl_empty_slots (fun i => 2 ^ (128 * i)) _
  have hc : c = 0 := foldl_empty_slots (fun i => 2 ^ (512 * (i + 1))) _
  have ht : t = seq % 1024 + ack % 1024 * 2 ^ 10 + b2n nak * 2 ^ 20 + 2 ^ 21 := by simp [t, b2n]
  have hf₀ : f₀ = h + t * 2 ^ 384 + c := rfl
  clear_value crc f₀ h c t
  rw [hf₀, hh, hc, ht, Nat.zero_add, Nat.add_zero]
  exact flNull_of_mark hlow crc

end Sys2Proof.Machine
end

section
/-! The obligation on flits. -/
namespace Sys2Proof.Machine

variable {s t u : State} {m mc : Nat} {f : Flit}

/-- s at an mc of the present Turn. -/
def State.reach (s : State) (mc : Nat) : State := { s with clk := s.clkAt mc }

/-! ### A flit that arrives (R57, R63, R65, R81, R83, R87) -/

theorem exec_flitReceive (hfit : modFitted s.ld m = true) (hon : s.modOn m = true) :
    exec (.flitReceive m mc f) s = .next ((s.reach mc).flitIn m mc f) :=
  congrArg Host.Outcome.next (when_true (by simp [hfit, hon]) _ s)

/-- The command's run, with what every command keeps. -/
theorem exec_flitReceive_intact (hfit : modFitted s.ld m = true) (hon : s.modOn m = true) :
    Intact s ((s.reach mc).flitIn m mc f) := by
  obtain ⟨t, ht, htame⟩ := execFlitReceive_out s m mc f
  have hrun : t = _ := Host.Outcome.next.inj (ht.symm.trans (exec_flitReceive hfit hon))
  exact hrun ▸ htame.intact

/-- The module after the ACK and NAK of a good flit. -/
def ModSt.heard (x : ModSt) (f : Flit) : ModSt := { x.useAck (flAck f) (flNak f) with st := .active }

/-- A null flit with the number next expected and a header or data mark. -/
def ModSt.misnull (x : ModSt) (f : Flit) : Bool :=
  decide (flSeq f = (x.ack + 1) % 1024) && ((flitHdrs f).any Option.isSome || decide (flCv f ≠ 0))

theorem State.flitIn_crc (htakes : (s.mod m).takes s.clk.age = true) (hgood : flGood f = false) :
    s.flitIn m mc f = (s.fadd Fld.HEAD_MOD_ERR_CRC 1 m).setMod m { s.mod m with nak := true } := by
  unfold State.flitIn
  simp only [htakes, hgood]
  rfl

theorem State.flitIn_null (htakes : (s.mod m).takes s.clk.age = true) (hgood : flGood f = true) (hnull : flNull f = true) :
    s.flitIn m mc f =
      let u := s.setMod m { (s.mod m).heard f with nak := decide (flSeq f ≠ ((s.mod m).ack + 1) % 1024) }
      if (s.mod m).misnull f then u.badNull m else u := by
  unfold State.flitIn
  simp only [htakes, hgood, hnull]
  rfl

theorem State.flitIn_discarded (htakes : (s.mod m).takes s.clk.age = true) (hgood : flGood f = true) (hnull : flNull f = false)
    (hout : flSeq f ≠ ((s.mod m).ack + 1) % 1024 ∨ 64 ≤ (s.mod m).verdQ.length) :
    s.flitIn m mc f = s.setMod m { (s.mod m).heard f with nak := true } := by
  have hcond : (flSeq f ≠ (((s.mod m).heard f).ack + 1) % 1024 || decide (((s.mod m).heard f).verdQ.length ≥ 64)) = true := by
    simpa [ModSt.heard, ModSt.useAck] using hout
  unfold State.flitIn
  simp only [htakes, hgood, hnull]
  exact if_pos hcond

theorem State.flitIn_lands (htakes : (s.mod m).takes s.clk.age = true) (hgood : flGood f = true) (hnull : flNull f = false)
    (hseq : flSeq f = ((s.mod m).ack + 1) % 1024) (hroom : (s.mod m).verdQ.length < 64) :
    s.flitIn m mc f = (s.setMod m ((s.mod m).heard f)).land m mc f := by
  have hcond : (flSeq f ≠ (((s.mod m).heard f).ack + 1) % 1024 || decide (((s.mod m).heard f).verdQ.length ≥ 64)) = false := by
    simpa [ModSt.heard, ModSt.useAck, hseq] using hroom
  unfold State.flitIn
  simp only [htakes, hgood, hnull]
  exact if_neg (ne_true_of_eq_false hcond)

theorem State.badNull_stands (s : State) (m : Nat) : LinkStands m s (s.badNull m) := by
  have hins : LinkStands m s (s.setMod m { s.mod m with dataQ := [] }) := ⟨rfl, by rw [State.mod_setMod]; rfl⟩
  exact (hins.trans ((State.fset_counted _ Fld.HEAD_MOD_ERR_PROTO _ m 0).linkStands m)).trans ((State.raise_raised _ _ _ _).linkStands m)

/-- A protocol error with no header to answer is counted, and what the module's queue of data holds goes (R72). -/
theorem State.badNull_parts (hw : s.regs.wf = true) (m : Nat) : ((s.badNull m).mod m).dataQ = []
    ∧ (s.badNull m).fheld Fld.HEAD_MOD_ERR_PROTO m = satAdd Fld.HEAD_MOD_ERR_PROTO.w (s.fheld Fld.HEAD_MOD_ERR_PROTO m) 1
    ∧ (s.badNull m).pond = s.pond ∧ (s.badNull m).flume = s.flume := by
  obtain ⟨g, hadd, hwf, hval, -⟩ := (s.setMod m { s.mod m with dataQ := [] }).fadd_table Fld.HEAD_MOD_ERR_PROTO 1 m 0 hw (by decide)
  have hbad : s.badNull m = ({ s.setMod m { s.mod m with dataQ := [] } with regs := g } : State).raise Src.HEAD_PROTO m 0 :=
    congrArg (fun u : State => u.raise Src.HEAD_PROTO m 0) hadd
  have hraised := State.raise_raised { s.setMod m { s.mod m with dataQ := [] } with regs := g } Src.HEAD_PROTO m 0
  have herr := State.raise_err (s := { s.setMod m { s.mod m with dataQ := [] } with regs := g }) (.inl rfl) hwf m 0
  rw [hbad]
  refine ⟨?_, ?_, (congrArg State.pond hraised.rest :), (congrArg State.flume hraised.rest :)⟩
  · refine (hraised.mod_proj ModSt.dataQ (fun _ _ => rfl) m).trans ?_
    exact congrArg ModSt.dataQ (s.mod_setMod m { s.mod m with dataQ := [] })
  · exact (congrArg Fld.HEAD_MOD_ERR_PROTO.of herr).trans (hval _ rfl rfl)

theorem State.flitIn_crc_parts (hw : s.regs.wf = true) (htakes : (s.mod m).takes s.clk.age = true) (hgood : flGood f = false) :
    let t := s.flitIn m mc f
    t.mod m = { s.mod m with nak := true }
    ∧ t.fheld Fld.HEAD_MOD_ERR_CRC m = satAdd Fld.HEAD_MOD_ERR_CRC.w (s.fheld Fld.HEAD_MOD_ERR_CRC m) 1
    ∧ ({ t with regs := s.regs, mods := s.mods } : State) = s := by
  intro t
  obtain ⟨g, hadd, -, hval, -⟩ := s.fadd_table Fld.HEAD_MOD_ERR_CRC 1 m 0 hw (by decide)
  have ht : t = ({ s with regs := g } : State).setMod m { s.mod m with nak := true } := by rw [← hadd]; exact State.flitIn_crc htakes hgood
  rw [ht]
  exact ⟨State.mod_setMod _ m _, hval _ rfl rfl, rfl⟩

/-- What a null flit leaves (R65, R72), whether or not its marks are a protocol error. -/
theorem State.flitIn_null_parts (hw : s.regs.wf = true) (htakes : (s.mod m).takes s.clk.age = true) (hgood : flGood f = true)
    (hnull : flNull f = true) :
    let t := s.flitIn m mc f
    t.clk = s.clk
    ∧ (t.mod m).link = (.active, (s.mod m).ack, decide (flSeq f ≠ ((s.mod m).ack + 1) % 1024), (s.mod m).landed, (s.mod m).verdQ)
    ∧ ((s.mod m).misnull f = false → ({ t with mods := s.mods } : State) = s)
    ∧ ((s.mod m).misnull f = true → (t.mod m).dataQ = []
        ∧ t.fheld Fld.HEAD_MOD_ERR_PROTO m = satAdd Fld.HEAD_MOD_ERR_PROTO.w (s.fheld Fld.HEAD_MOD_ERR_PROTO m) 1
        ∧ t.pond = s.pond ∧ t.flume = s.flume) := by
  intro t
  let u := s.setMod m { (s.mod m).heard f with nak := decide (flSeq f ≠ ((s.mod m).ack + 1) % 1024) }
  have hu : (u.mod m).link = (.active, (s.mod m).ack, decide (flSeq f ≠ ((s.mod m).ack + 1) % 1024), (s.mod m).landed, (s.mod m).verdQ) :=
    congrArg ModSt.link (s.mod_setMod m _)
  have ht : t = if (s.mod m).misnull f then u.badNull m else u := State.flitIn_null htakes hgood hnull
  cases hbad : (s.mod m).misnull f with
  | false =>
    rw [hbad, if_neg Bool.false_ne_true] at ht
    rw [ht]
    exact ⟨rfl, hu, fun _ => rfl, fun h => absurd h Bool.false_ne_true⟩
  | true =>
    obtain ⟨hclk, hlink⟩ := u.badNull_stands m
    rw [hbad, if_pos rfl] at ht
    rw [ht]
    exact ⟨hclk, hlink.trans hu, fun h => absurd h (by decide), fun _ => State.badNull_parts (s := u) hw m⟩

theorem State.flitIn_discarded_parts (htakes : (s.mod m).takes s.clk.age = true) (hgood : flGood f = true) (hnull : flNull f = false)
    (hout : flSeq f ≠ ((s.mod m).ack + 1) % 1024 ∨ 64 ≤ (s.mod m).verdQ.length) :
    let t := s.flitIn m mc f
    (t.mod m).nak = true ∧ (t.mod m).ack = (s.mod m).ack ∧ (t.mod m).verdQ = (s.mod m).verdQ ∧ (t.mod m).dataQ = (s.mod m).dataQ
    ∧ ({ t with mods := s.mods } : State) = s := by
  intro t
  have ht : t = s.setMod m { (s.mod m).heard f with nak := true } := State.flitIn_discarded htakes hgood hnull hout
  rw [ht, State.mod_setMod]
  exact ⟨rfl, rfl, rfl, rfl, rfl⟩

theorem State.flitIn_lands_parts (htakes : (s.mod m).takes s.clk.age = true) (hgood : flGood f = true) (hnull : flNull f = false)
    (hseq : flSeq f = ((s.mod m).ack + 1) % 1024) (hroom : (s.mod m).verdQ.length < 64) :
    let t := s.flitIn m mc f
    t.clk = s.clk ∧ ∃ vs, (t.mod m).link = (.active, flSeq f, false, (s.mod m).landed + 1, (s.mod m).verdQ ++ vs)
      ∧ ((flitHdrs f).any Option.isSome = false → vs = [])
      ∧ ((flitHdrs f).any Option.isSome = true → ∃ v, v.length = 3 ∧ vs = [(flSeq f, v)]) := by
  intro t
  obtain ⟨hclk, vs, hlink, hvs⟩ := (s.setMod m ((s.mod m).heard f)).land_link m mc f
  have ht : t = (s.setMod m ((s.mod m).heard f)).land m mc f := State.flitIn_lands htakes hgood hnull hseq hroom
  rw [State.mod_setMod] at hlink
  rw [ht]
  exact ⟨hclk, vs, hlink, hvs⟩

/-! ### A flit that leaves (R65, R73, R83, R87, R89) -/

theorem exec_upstreamFlitSend (hfit : modFitted s.ld m = true) (hon : s.modOn m = true) :
    exec (.upstreamFlitSend m mc) s = .next ((s.reach mc).flitOut m) :=
  congrArg Host.Outcome.next (when_true (by simp [hfit, hon]) _ s)

theorem exec_upstreamFlitSend_intact (hfit : modFitted s.ld m = true) (hon : s.modOn m = true) :
    Intact s ((s.reach mc).flitOut m) := by
  obtain ⟨t, ht, htame⟩ := execUpstreamFlitSend_out s m mc
  have hrun : t = _ := Host.Outcome.next.inj (ht.symm.trans (exec_upstreamFlitSend hfit hon))
  exact hrun ▸ htame.intact

theorem State.flitOut_clk (s : State) (m : Nat) : (s.flitOut m).clk = s.clk := (State.flitOut_tame (dr := true) (fu := true) (.refl s) m).clk rfl

/-- The module's counts of flit times, one further. -/
def ModSt.tick (x : ModSt) : ModSt :=
  { x with flitCt := (x.flitCt + 1) % 65536, repWin := if x.flitCt + 1 ≥ 65536 then 0 else x.repWin, ftime := x.ftime + 1 }

theorem State.flitOut_open (hst : (s.mod m).st = .open_) : s.flitOut m
    = s.setMod m { (s.mod m).tick with up := flBuild [] [] 0 (s.mod m).txSeq (s.mod m).ack 0 (s.mod m).nak true false [] } := by
  unfold State.flitOut
  exact if_pos hst

theorem State.flitOut_new (hst : (s.mod m).st = .active) (hresend : (s.mod m).resend = []) : ∃ e w, s.flitOut m
    = { s.setMod m { (s.mod m).tick.newFlit.2 with up := (s.mod m).tick.newFlit.1 } with tlyE := e, tlyW := w } := by
  have hopen : (s.mod m).st ≠ .open_ := by rw [hst]; decide
  unfold State.flitOut
  extract_lets x tick s₁ y s₂
  rw [if_neg hopen, if_pos hst]
  split
  · next heq => exact absurd (heq.symm.trans hresend) (List.cons_ne_nil _ _)
  · split
    · exact ⟨_, _, rfl⟩
    · exact ⟨_, _, rfl⟩

theorem State.flitOut_replay {e : Nat × Flit} {rest : List (Nat × Flit)} (hst : (s.mod m).st = .active) (hresend : (s.mod m).resend = e :: rest) :
    s.flitOut m = (s.setMod m (s.mod m).tick).sendReplay m e rest := by
  have hopen : (s.mod m).st ≠ .open_ := by rw [hst]; decide
  unfold State.flitOut
  extract_lets x tick s₁ y s₂
  rw [if_neg hopen, if_pos hst]
  split
  · next heq =>
    obtain ⟨rfl, rfl⟩ := List.cons.inj (heq.symm.trans hresend)
    rfl
  · next heq => exact absurd (hresend.symm.trans heq) (List.cons_ne_nil _ _)

/-- A new flit is a null flit, which changes nothing of the module, or joins what is kept until it is acknowledged. -/
theorem ModSt.newFlit_keeps (x : ModSt) : x.newFlit.2 = x ∨ (x.newFlit.2.replay = x.replay ++ [(x.txSeq, x.newFlit.1)]
    ∧ x.newFlit.2.txSeq = (x.txSeq + 1) % 1024 ∧ x.newFlit.2.verdQ = x.verdQ.drop 1 ∧ x.replay.length < 64) := by
  unfold ModSt.newFlit
  extract_lets pc pl full pk cells atoms ver f
  split
  · exact .inl rfl
  · next hsome =>
    have hfull : full = false := by
      simp only [Bool.or_eq_true, not_or, Bool.not_eq_true] at hsome
      exact hsome.1
    exact .inr ⟨rfl, rfl, rfl, by simpa [full] using hfull⟩

/-! ### A replay (R87, R89) -/

/-- s before it raises the link restart of module m. -/
def State.restartDue (s : State) (m : Nat) : State :=
  ((((s.discardResp m).toTrain m).fset Fld.HEAD_MOD_CTRL_RESTART 0 m).fset Fld.HEAD_MOD_CTRL_RECAL 0 m).fadd Fld.HEAD_MOD_STATUS_RESTARTS 1 m

theorem State.linkRestart_raise (s : State) (m : Nat) : s.linkRestart m = (s.restartDue m).raise Src.HEAD_LINK m 0 := rfl

theorem State.restartDue_counted (s : State) (m : Nat) : Counted ((s.discardResp m).toTrain m) (s.restartDue m) :=
  ((State.fset_counted _ Fld.HEAD_MOD_CTRL_RESTART 0 m 0).trans (State.fset_counted _ Fld.HEAD_MOD_CTRL_RECAL 0 m 0)).trans
    (State.fset_counted _ Fld.HEAD_MOD_STATUS_RESTARTS _ m 0)

theorem State.linkRestart_link (s : State) (m : Nat) : ((s.linkRestart m).mod m).st = .train ∧ ((s.linkRestart m).mod m).up = (s.mod m).up := by
  have hraised := (s.restartDue m).raise_raised Src.HEAD_LINK m 0
  have hmod : (s.restartDue m).mod m = _ := ((s.restartDue_counted m).mod m).trans (State.mod_setMod _ m _)
  rw [State.linkRestart_raise]
  exact ⟨(hraised.mod_proj ModSt.st (fun _ _ => rfl) m).trans (congrArg ModSt.st hmod),
    (hraised.mod_proj ModSt.up (fun _ _ => rfl) m).trans (congrArg ModSt.up hmod :)⟩

/-- A link restart leaves the word of the module's counters. -/
theorem State.linkRestart_err (hw : s.regs.wf = true) (m : Nat) :
    (s.linkRestart m).raw .HEAD_MOD_ERR (Reg.key .HEAD_MOD_ERR m 0) = s.raw .HEAD_MOD_ERR (Reg.key .HEAD_MOD_ERR m 0) := by
  have herr : Reg.key .HEAD_MOD_ERR m 0 = 0x10 + m * 0x1000 + 0 := rfl
  have hctrl : Reg.key .HEAD_MOD_CTRL m 0 = 0 + m * 0x1000 + 0 := rfl
  have hstat : Reg.key .HEAD_MOD_STATUS m 0 = 0x8 + m * 0x1000 + 0 := rfl
  have hneCtrl : Reg.key .HEAD_MOD_ERR m 0 ≠ Reg.key .HEAD_MOD_CTRL m 0 := by omega
  have hneStat : Reg.key .HEAD_MOD_ERR m 0 ≠ Reg.key .HEAD_MOD_STATUS m 0 := by omega
  have hw₁ := ((s.discardResp m).toTrain m).fset_wf Fld.HEAD_MOD_CTRL_RESTART 0 m 0 hw
  have hw₂ := State.fset_wf _ Fld.HEAD_MOD_CTRL_RECAL 0 m 0 hw₁
  have hw₃ : (s.restartDue m).regs.wf = true := State.fset_wf _ Fld.HEAD_MOD_STATUS_RESTARTS _ m 0 hw₂
  rw [State.linkRestart_raise, State.raise_err (.inr rfl) hw₃]
  exact (State.raw_fset_other _ Fld.HEAD_MOD_STATUS_RESTARTS _ m 0 _ _ hw₂ hneStat).trans
    ((State.raw_fset_other _ Fld.HEAD_MOD_CTRL_RECAL 0 m 0 _ _ hw₁ hneCtrl).trans
      (State.raw_fset_other _ Fld.HEAD_MOD_CTRL_RESTART 0 m 0 _ _ hw hneCtrl))

/-- The module's record after the flit e of the replay. -/
def ModSt.replayed (x : ModSt) (e : Nat × Flit) (rest : List (Nat × Flit)) : ModSt :=
  { x with resend := rest, up := flRefresh e.2 x.ack x.nak, sameRep := x.sameRep.ins e.1 (x.sameRep.get 0 e.1 + 1)
           sent := x.sent.ins e.1 x.ftime, repWin := x.repWin + 1, postRecal := x.postRecal.map (· + 1) }

/-- s with the flit e of the replay sent and counted. -/
def State.replayed (s : State) (m : Nat) (e : Nat × Flit) (rest : List (Nat × Flit)) : State :=
  ((s.setMod m ((s.mod m).replayed e rest)).fadd Fld.HEAD_MOD_ERR_REPLAY 1 m).tallyMod m 7 1

theorem State.replayed_mod (s : State) (m : Nat) (e : Nat × Flit) (rest : List (Nat × Flit)) :
    (s.replayed m e rest).mod m = (s.mod m).replayed e rest :=
  (((State.fset_counted _ Fld.HEAD_MOD_ERR_REPLAY _ m 0).trans (State.tally_counted _ _ _ _ _)).mod m).trans (s.mod_setMod m _)

theorem State.replayed_regs (hw : s.regs.wf = true) (m : Nat) (e : Nat × Flit) (rest : List (Nat × Flit)) : (s.replayed m e rest).regs.wf = true
    ∧ (s.replayed m e rest).fheld Fld.HEAD_MOD_ERR_REPLAY m = satAdd Fld.HEAD_MOD_ERR_REPLAY.w (s.fheld Fld.HEAD_MOD_ERR_REPLAY m) 1 := by
  obtain ⟨g, hadd, hwf, hval, -⟩ := (s.setMod m ((s.mod m).replayed e rest)).fadd_table Fld.HEAD_MOD_ERR_REPLAY 1 m 0 hw (by decide)
  rw [State.replayed, hadd]
  exact ⟨hwf, hval _ (State.tallyMod_regs ..) (State.tallyMod_ld ..)⟩

theorem State.sendReplay_eq (s : State) (m : Nat) (e : Nat × Flit) (rest : List (Nat × Flit)) : s.sendReplay m e rest =
    if 4 ≤ ((s.mod m).postRecal.map (· + 1)).getD 0 then (s.replayed m e rest).linkRestart m
    else if decide (4 ≤ (s.mod m).sameRep.get 0 e.1 + 1) || (decide (s.fget Fld.HEAD_MOD_CTRL_RECAL_THR m ≠ 0)
        && decide (s.fget Fld.HEAD_MOD_CTRL_RECAL_THR m < (s.mod m).repWin + 1)) then (s.replayed m e rest).enterRecal m
    else s.replayed m e rest := by
  unfold State.sendReplay
  extract_lets x f n thr x' s₁ s₂
  have hs₂ : s₂ = s.replayed m e rest := rfl
  clear_value s₂
  rw [hs₂]

theorem State.enterRecal_keeps (s : State) (m : Nat) :
    ((s.enterRecal m).mod m).st = .recal ∧ ((s.enterRecal m).mod m).up = (s.mod m).up ∧ ((s.enterRecal m).mod m).replay = (s.mod m).replay := by
  rw [show (s.enterRecal m).mod m = _ from s.mod_setMod m _]
  exact ⟨rfl, rfl, rfl⟩

theorem State.enterRecal_fheld (s : State) (m : Nat) (f : Field) (i : Nat) : (s.enterRecal m).fheld f i = s.fheld f i := rfl

/-- Whatever the replay brings about, its flit has left and is counted. -/
theorem State.sendReplay_sent (hw : s.regs.wf = true) (m : Nat) (e : Nat × Flit) (rest : List (Nat × Flit)) :
    ((s.sendReplay m e rest).mod m).up = flRefresh e.2 (s.mod m).ack (s.mod m).nak
    ∧ (s.sendReplay m e rest).fheld Fld.HEAD_MOD_ERR_REPLAY m = satAdd Fld.HEAD_MOD_ERR_REPLAY.w (s.fheld Fld.HEAD_MOD_ERR_REPLAY m) 1 := by
  obtain ⟨hwf, hcount⟩ := s.replayed_regs hw m e rest
  have hup : ((s.replayed m e rest).mod m).up = flRefresh e.2 (s.mod m).ack (s.mod m).nak := congrArg ModSt.up (s.replayed_mod m e rest)
  rw [State.sendReplay_eq]
  split
  · exact ⟨(State.linkRestart_link _ m).2.trans hup, (congrArg Fld.HEAD_MOD_ERR_REPLAY.of (State.linkRestart_err hwf m)).trans hcount⟩
  · split
    · exact ⟨(State.enterRecal_keeps _ m).2.1.trans hup, (State.enterRecal_fheld _ m _ m).trans hcount⟩
    · exact ⟨hup, hcount⟩

/-- After a RECAL the fourth replay without an ACK restarts the link. -/
theorem State.sendReplay_restarts {k : Nat} (hk : (s.mod m).postRecal = some k) (h3 : 3 ≤ k) (e : Nat × Flit) (rest : List (Nat × Flit)) :
    ((s.sendReplay m e rest).mod m).st = .train := by
  rw [State.sendReplay_eq, if_pos (by simpa [hk] using h3)]
  exact (State.linkRestart_link _ m).1

/-- The fourth replay of one flit pauses the module. -/
theorem State.sendReplay_pauses (hk : ∀ k, (s.mod m).postRecal = some k → k < 3) {e : Nat × Flit} (h3 : 3 ≤ (s.mod m).sameRep.get 0 e.1)
    (rest : List (Nat × Flit)) :
    ((s.sendReplay m e rest).mod m).st = .recal ∧ ((s.sendReplay m e rest).mod m).replay = (s.mod m).replay := by
  have hpost : ¬4 ≤ ((s.mod m).postRecal.map (· + 1)).getD 0 := by
    cases hp : (s.mod m).postRecal with
    | none => simp
    | some k => simpa using hk k hp
  have hfourth : decide (4 ≤ (s.mod m).sameRep.get 0 e.1 + 1) = true := decide_eq_true (by omega)
  obtain ⟨hst, -, hreplay⟩ := (s.replayed m e rest).enterRecal_keeps m
  rw [State.sendReplay_eq, if_neg hpost, if_pos (by rw [hfourth, Bool.true_or])]
  exact ⟨hst, hreplay.trans (congrArg ModSt.replay (s.replayed_mod m e rest) :)⟩

theorem State.flitOut_open_parts (hst : (s.mod m).st = .open_) :
    let t := s.flitOut m
    flNull (t.mod m).up = true ∧ (t.mod m).replay = (s.mod m).replay ∧ (t.mod m).txSeq = (s.mod m).txSeq
    ∧ ({ t with mods := s.mods } : State) = s := by
  intro t
  have ht : t = s.setMod m { (s.mod m).tick with up := flBuild [] [] 0 (s.mod m).txSeq (s.mod m).ack 0 (s.mod m).nak true false [] } :=
    State.flitOut_open hst
  rw [ht, State.mod_setMod]
  exact ⟨flNull_flBuild_null _ _ _, rfl, rfl, rfl⟩

theorem State.flitOut_new_parts (hst : (s.mod m).st = .active) (hresend : (s.mod m).resend = []) (hlen : (s.mod m).replay.length ≤ 64) :
    let t := s.flitOut m
    t.hop = s.hop ∧ t.regs = s.regs ∧ (t.mod m).replay.length ≤ 64
    ∧ (((t.mod m).replay = (s.mod m).replay ∧ (t.mod m).txSeq = (s.mod m).txSeq ∧ (t.mod m).tx = (s.mod m).tx)
      ∨ ((t.mod m).replay = (s.mod m).replay ++ [((s.mod m).txSeq, (t.mod m).up)] ∧ (t.mod m).txSeq = ((s.mod m).txSeq + 1) % 1024
          ∧ (t.mod m).verdQ = (s.mod m).verdQ.drop 1)) := by
  intro t
  obtain ⟨e, w, ht⟩ := State.flitOut_new hst hresend
  have hmod : t.mod m = { (s.mod m).tick.newFlit.2 with up := (s.mod m).tick.newFlit.1 } := by
    rw [show t = _ from ht]
    exact s.mod_setMod m _
  have hhop : t.hop = s.hop := (congrArg State.hop ht :)
  have hregs : t.regs = s.regs := (congrArg State.regs ht :)
  rw [hmod]
  obtain hsame | ⟨hreplay, hseq, hverdQ, hroom⟩ := (s.mod m).tick.newFlit_keeps
  · dsimp only
    rw [hsame]
    exact ⟨hhop, hregs, hlen, .inl ⟨rfl, rfl, rfl⟩⟩
  · refine ⟨hhop, hregs, ?_, .inr ⟨hreplay, hseq, hverdQ⟩⟩
    show (s.mod m).tick.newFlit.2.replay.length ≤ 64
    rw [hreplay, List.length_append]
    exact hroom

theorem State.flitOut_replay_parts (hw : s.regs.wf = true) {e : Nat × Flit} {rest : List (Nat × Flit)} (hst : (s.mod m).st = .active)
    (hresend : (s.mod m).resend = e :: rest) :
    let t := s.flitOut m
    (t.mod m).up = flRefresh e.2 (s.mod m).ack (s.mod m).nak
    ∧ t.fheld Fld.HEAD_MOD_ERR_REPLAY m = satAdd Fld.HEAD_MOD_ERR_REPLAY.w (s.fheld Fld.HEAD_MOD_ERR_REPLAY m) 1
    ∧ ((∃ k, (s.mod m).postRecal = some k ∧ 3 ≤ k) → (t.mod m).st = .train)
    ∧ ((∀ k, (s.mod m).postRecal = some k → k < 3) → 3 ≤ (s.mod m).sameRep.get 0 e.1 →
        (t.mod m).st = .recal ∧ (t.mod m).replay = (s.mod m).replay) := by
  intro t
  have hmod : (s.setMod m (s.mod m).tick).mod m = (s.mod m).tick := s.mod_setMod m _
  have ht : t = (s.setMod m (s.mod m).tick).sendReplay m e rest := State.flitOut_replay hst hresend
  obtain ⟨hup, hcount⟩ := State.sendReplay_sent (s := s.setMod m (s.mod m).tick) hw m e rest
  have hrestart {k : Nat} := State.sendReplay_restarts (s := s.setMod m (s.mod m).tick) (m := m) (k := k)
  have hpause := State.sendReplay_pauses (s := s.setMod m (s.mod m).tick) (m := m) (e := e)
  rw [hmod] at hup hrestart hpause
  rw [ht]
  exact ⟨hup, hcount, fun ⟨k, hk, h3⟩ => hrestart hk h3 e rest, fun hk h3 => hpause hk h3 rest⟩

/-! ### The obligation -/

/-- Settles O32: each branch of a flit's arrival and of its departure, followed to what it leaves of the module. -/
theorem flitsInSequence : Obligations.FlitsInSequence := by
  refine ⟨fun s m mc f hw hfit hon htakes => ?_, fun s m mc hw hfit hon => ?_⟩
  · have hrun := exec_flitReceive (mc := mc) (f := f) hfit hon
    have hintact := exec_flitReceive_intact (mc := mc) (f := f) hfit hon
    refine ⟨fun hgood => ?_, fun hgood hnull => ?_, fun hgood hnull hout => ?_, fun hgood hnull hseq hroom => ?_⟩
    · obtain ⟨hmod, herr, hrest⟩ := State.flitIn_crc_parts (s := s.reach mc) (mc := mc) hw htakes hgood
      exact .of_exec hrun ⟨(congrArg State.clk hrest :), hmod, herr, (congrArg (fun t : State => { t with clk := s.clk }) hrest :)⟩
    · obtain ⟨hclk, hlink, hcalm, herr⟩ := State.flitIn_null_parts (s := s.reach mc) (mc := mc) hw htakes hgood hnull
      simp only [ModSt.link, Prod.mk.injEq] at hlink
      obtain ⟨hst, hack, hnak, -, hverdQ⟩ := hlink
      exact .of_exec hrun ⟨hintact, hclk, hst, hnak, hack, hverdQ,
        fun h => (congrArg (fun t : State => { t with clk := s.clk }) (hcalm h) :), herr⟩
    · obtain ⟨hnak, hack, hverdQ, hdataQ, hrest⟩ := State.flitIn_discarded_parts (s := s.reach mc) (mc := mc) htakes hgood hnull hout
      exact .of_exec hrun ⟨(congrArg State.clk hrest :), hnak, hack, hverdQ, hdataQ,
        (congrArg (fun t : State => { t with clk := s.clk }) hrest :)⟩
    · obtain ⟨hclk, vs, hlink, hnone, hsome⟩ := State.flitIn_lands_parts (s := s.reach mc) (mc := mc) htakes hgood hnull hseq hroom
      simp only [ModSt.link, Prod.mk.injEq] at hlink
      obtain ⟨hst, hack, hnak, hlanded, hverdQ⟩ := hlink
      refine .of_exec hrun ⟨hintact, hclk, hst, hack, hnak, hlanded, fun hall => ?_, fun hany => ?_⟩
      · rw [hverdQ, hnone (by simpa [List.any_eq_false] using hall), List.append_nil]
        rfl
      · obtain ⟨v, hv, rfl⟩ := hsome hany
        exact ⟨v, hv, hverdQ⟩
  · have hrun := exec_upstreamFlitSend (mc := mc) hfit hon
    have hintact := exec_upstreamFlitSend_intact (mc := mc) hfit hon
    have hclk := (s.reach mc).flitOut_clk m
    refine ⟨fun hst => ?_, fun hst hresend hlen => ?_, fun e rest hst hresend => ?_⟩
    · obtain ⟨hnull, hreplay, hseq, hrest⟩ := State.flitOut_open_parts (s := s.reach mc) hst
      exact .of_exec hrun ⟨hclk, hnull, hreplay, hseq, (congrArg (fun t : State => { t with clk := s.clk }) hrest :)⟩
    · obtain ⟨hhop, hregs, hlen', hsent⟩ := State.flitOut_new_parts (s := s.reach mc) hst hresend hlen
      exact .of_exec hrun ⟨hintact, hclk, hhop, hregs, hlen', hsent⟩
    · exact .of_exec hrun ⟨hintact, hclk, State.flitOut_replay_parts (s := s.reach mc) hw hst hresend⟩

end Sys2Proof.Machine
end

section
/-! SUPPORT. Requests that end: the tables of records that agree but at one number, and what a request that ends leaves of its record. -/
namespace Sys2Proof.Machine

variable {s t u : State} {id : Nat} {q : Req}

/-! ### Sparse tables -/

/-- Canonical if t is, u holds at every other key than k what t holds. -/
def Tbl.SameBut {α : Type} (k : Nat) (t u : Tbl α) : Prop := t.wf = true → u.wf = true ∧ ∀ i, i ≠ k → u.find? i = t.find? i

section
variable {α : Type} {k : Nat} {t u v : Tbl α}

theorem Tbl.SameBut.refl (k : Nat) (t : Tbl α) : t.SameBut k t := fun hw => ⟨hw, fun _ _ => rfl⟩

theorem Tbl.SameBut.trans (h : t.SameBut k u) (g : u.SameBut k v) : t.SameBut k v := fun hw => by
  obtain ⟨hu, htu⟩ := h hw
  obtain ⟨hv, huv⟩ := g hu
  exact ⟨hv, fun i hi => (huv i hi).trans (htu i hi)⟩

theorem Tbl.sameBut_ins (k : Nat) (t : Tbl α) (x : α) : t.SameBut k (t.ins k x) :=
  fun hw => ⟨t.wf_ins k x hw, fun i hi => t.find_ins_other k i x hi⟩

theorem Tbl.sameBut_del (k : Nat) (t : Tbl α) : t.SameBut k (t.del k) :=
  fun hw => ⟨t.wf_del k hw, fun i hi => (t.find_del k i hw).trans (if_neg hi)⟩

theorem Tbl.rising_tail {b : Option Nat} {j : Nat} {v : α} {l : List (Nat × α)} (h : Tbl.risingFrom b ((j, v) :: l) = true) :
    Tbl.risingFrom (some j) l = true := by
  cases b with
  | none => exact h
  | some b => exact (Bool.and_eq_true_iff.mp h).2

/-- A key whose rows are kept reads as before. -/
theorem Tbl.find_keep_key {p : Nat → α → Bool} (hw : t.wf = true) (hp : ∀ v, p k v = true) : (t.keep p).find? k = t.find? k := by
  have hrising (l : List (Nat × α)) (b : Option Nat) (h : Tbl.risingFrom b l = true) :
      Tbl.findIn k (l.filter fun r => p r.1 r.2) = Tbl.findIn k l := by
    induction l generalizing b with
    | nil => rfl
    | cons x l ih =>
      obtain ⟨j, v⟩ := x
      have hl := Tbl.rising_tail h
      rw [List.filter_cons]
      split
      · simp only [Tbl.findIn, ih (some j) hl]
      · next hdrop =>
        have hjk : j ≠ k := fun e => hdrop (e ▸ hp v)
        rw [ih (some j) hl, Tbl.findIn, if_neg hjk]
        split
        · next hlow => exact Tbl.findIn_low k j l hl (Nat.le_of_lt hlow)
        · rfl
  exact hrising t.rows none hw

end

/-! ### Requests -/

theorem State.answer_sameBut (s : State) (id code pmask mstat val : Nat) (cells : List Cell) :
    s.hop.reqs.SameBut id (s.answer id code pmask mstat val cells).hop.reqs := by
  unfold State.answer
  split
  · exact .refl _ _
  · split
    · exact .refl _ _
    · dsimp only
      split
      · exact Tbl.sameBut_ins _ _ _
      · exact Tbl.sameBut_ins _ _ _

theorem State.updReq_sameBut (s : State) (id : Nat) (f : Req → Req) : s.hop.reqs.SameBut id (s.updReq id f).hop.reqs := by
  unfold State.updReq
  split
  · exact Tbl.sameBut_ins _ _ _
  · exact .refl _ _

theorem State.reap_sameBut (s : State) (id : Nat) : s.hop.reqs.SameBut id (s.reap id).hop.reqs := by
  unfold State.reap
  split
  · split
    · exact Tbl.sameBut_del _ _
    · exact .refl _ _
  · exact .refl _ _

theorem State.endReq_sameBut (s : State) (id code : Nat) (ph : ReqPhase) : s.hop.reqs.SameBut id (s.endReq id code ph).hop.reqs :=
  ((s.answer_sameBut id code 0 0 0 []).trans (State.updReq_sameBut _ id _)).trans (State.reap_sameBut _ id)

theorem State.reap_unfinished (hq : s.hop.reqs.find? id = some q) (hf : q.finished = false) : s.reap id = s := by
  unfold State.reap
  rw [hq]
  exact if_neg (by simp [hf])

/-- A record that is finished is gone once reaped, and any other stands. -/
theorem State.reap_find (hw : s.hop.reqs.wf = true) (hq : s.hop.reqs.find? id = some q) :
    (s.reap id).hop.reqs.find? id = if q.finished then none else some q := by
  cases hf : q.finished with
  | true =>
    rw [State.reap_finished hq hf]
    exact (Tbl.find_del _ id id hw).trans (if_pos rfl)
  | false =>
    rw [State.reap_unfinished hq hf]
    exact hq

/-- What is left of a request that is updated and reaped, if anything, is the updated record. -/
theorem State.updReq_reap_find (hw : s.hop.reqs.wf = true) {f : Req → Req} (h : ((s.updReq id f).reap id).hop.reqs.find? id = some q) :
    ∃ p, q = f p := by
  cases hp : s.hop.reqs.find? id with
  | none =>
    have hstands : (s.updReq id f).reap id = s := by simp only [State.updReq, State.reap, hp]
    rw [hstands, hp] at h
    cases h
  | some p =>
    rw [State.updReq_some hp] at h
    have hfind := (State.reap_find (State.putReq_wf hw id (f p)) (State.putReq_find s id (f p))).symm.trans h
    split at hfind
    · cases hfind
    · exact ⟨p, (Option.some.inj hfind).symm⟩

/-- The record of a request that has ended, where it is still held, is in the phase in which it ended. -/
theorem State.endReq_phase (hw : s.hop.reqs.wf = true) {code : Nat} {ph : ReqPhase} (h : (s.endReq id code ph).hop.reqs.find? id = some q) :
    q.phase = ph := by
  obtain ⟨p, rfl⟩ := State.updReq_reap_find (s.answer_sameBut id code 0 0 0 [] hw).1 h
  rfl

/-- A list of requests that end: each of them is in its phase or gone, and the others stand. -/
theorem each_endReq_find {l : List Nat} {code : Nat} {ph : ReqPhase} (hw : s.hop.reqs.wf = true)
    (h : (each l (fun i s => s.endReq i code ph) s).hop.reqs.find? id = some q) :
    (id ∈ l → q.phase = ph) ∧ (id ∉ l → s.hop.reqs.find? id = some q) := by
  unfold each at h
  induction l generalizing s with
  | nil => exact ⟨fun hmem => absurd hmem List.not_mem_nil, fun _ => h⟩
  | cons i l ih =>
    obtain ⟨hw', hothers⟩ := s.endReq_sameBut i code ph hw
    obtain ⟨hended, hstands⟩ := ih hw' h
    refine ⟨fun hmem => ?_, fun hmem => ?_⟩
    · by_cases hl : id ∈ l
      · exact hended hl
      · obtain rfl : id = i := (List.mem_cons.mp hmem).resolve_right hl
        exact State.endReq_phase hw (hstands hl)
    · obtain ⟨hi, hl⟩ := not_or.mp (fun h => hmem (List.mem_cons.mpr h))
      exact (hothers id hi).symm.trans (hstands hl)

/-- t is s but for the records of requests, the responses that modules hold, and Tally's counters. -/
def OnlyAnswers (s t : State) : Prop := ∃ reqs mods e w, t = { s with hop := { s.hop with reqs := reqs }, mods := mods, tlyE := e, tlyW := w }

theorem OnlyAnswers.refl (s : State) : OnlyAnswers s s := ⟨_, _, _, _, rfl⟩

theorem OnlyAnswers.trans (h : OnlyAnswers s t) (g : OnlyAnswers t u) : OnlyAnswers s u := by
  obtain ⟨_, _, _, _, rfl⟩ := h
  obtain ⟨_, _, _, _, rfl⟩ := g
  exact ⟨_, _, _, _, rfl⟩

theorem each_endReq_only (l : List Nat) (code : Nat) (ph : ReqPhase) (s : State) : OnlyAnswers s (each l (fun i s => s.endReq i code ph) s) := by
  unfold each
  induction l generalizing s with
  | nil => exact .refl s
  | cons i l ih => exact OnlyAnswers.trans (s.settle_only i ph code 0 0 0 []) (ih (s.endReq i code ph))

/-- The answer of a request that ends joins what its module holds, whatever becomes of its record. -/
theorem State.settle_tx (hq : s.hop.reqs.find? id = some q) (ha : q.answered = false) (ho : Opc.answered q.opc = true) (ph : ReqPhase)
    (code pmask mstat val : Nat) (cells : List Cell) :
    ((s.settle id ph code pmask mstat val cells).mod q.m).tx = (s.mod q.m).tx ++ [q.resp code pmask mstat val s.now id cells] := by
  obtain ⟨reqs, hend⟩ := ((s.answer id code pmask mstat val cells).updReq_only id fun q => { q with phase := ph }).trans (State.reap_only _ id)
  rw [State.settle, hend]
  exact State.answer_tx hq ha ho code pmask mstat val cells

/-- A command that neither stores to DRAM nor burns fuses leaves both, and the queue of commands. -/
theorem exec_intact {c : Instr} (h : exec c s = .next t) (hd : storesDram c = false) (hf : burnsFuses c = false) : Intact s t := by
  obtain ⟨v, hv, htame⟩ := exec_tame c s
  obtain rfl := Host.Outcome.next.inj (hv.symm.trans h)
  rw [hd, hf] at htame
  exact htame.intact

end Sys2Proof.Machine
end

section
/-! The obligation on tokens. -/
namespace Sys2Proof.Machine

variable {s t : State} {id : Nat} {q : Req}

/-! ### The commands -/

theorem exec_tokenRelease (hq : s.hop.reqs.find? id = some q) (hcan : s.canRelease id q = true) :
    exec (.tokenRelease id) s = .next (s.putReq id { q with tok := 1 }) :=
  congrArg Host.Outcome.next ((when_true (by rwa [State.reqIs_some hq]) _ s).trans (State.updReq_some hq _))

theorem exec_tokenApply (hq : s.hop.reqs.find? id = some q) (hcan : s.canApply id q = true) :
    exec (.tokenApply id) s = .next ((s.applyToken id q).reap id) := by
  have hrun := when_true (c := s.reqIs id fun q => s.canApply id q) (by rwa [State.reqIs_some hq])
    (fun s => match s.hop.reqs.find? id with | some q => (s.applyToken id q).reap id | none => s) s
  simp only [hq] at hrun
  exact congrArg Host.Outcome.next hrun

theorem exec_tokenAck (hq : s.hop.reqs.find? id = some q) (htok : q.tok = 2) :
    exec (.tokenAck id) s = .next ((s.putReq id { q with tok := 3 }).reap id) := by
  have hrun := when_true (c := s.reqIs id fun q => q.tok = 2) (by simpa [State.reqIs_some hq] using htok)
    (fun s => (s.updReq id fun q => { q with tok := 3 }).reap id) s
  rw [State.updReq_some hq] at hrun
  exact congrArg Host.Outcome.next hrun

/-! ### Stores that become visible (R95, R98, R113) -/

/-- The entries of the request's store in Millpond, with their places from n on in the coherence order. -/
def State.placed (s : State) (id n : Nat) : List PondEnt :=
  mapIf (fun e => decide (e.id = id) && !e.tally) (fun e => { e with vis := n + e.k }) s.pond

/-- The store writes to a cell that the reservation holds. -/
def State.storeMeets (s : State) (id : Nat) (r : Resv) : Bool :=
  ((s.pond.filter (fun e => e.id = id ∧ !e.tally ∧ e.mask ≠ 0)).map (fun e => e.addr)).any fun a => r.holds a

theorem State.makeVisible_true (s : State) (id : Nat) : s.makeVisible id true =
    { s with pond := s.placed id s.hop.visNext
             hop := { s.hop with visNext := s.hop.visNext + 8, resv := s.hop.resv.keep fun _ r => !s.storeMeets id r } } :=
  each_touch (fun a => a) _ _

theorem State.storeMeets_holds {e : PondEnt} {r : Resv} (he : e ∈ s.pond) (hid : e.id = id) (ht : e.tally = false) (hm : e.mask ≠ 0)
    (h : s.storeMeets id r = false) : r.holds e.addr = false := by
  simp only [State.storeMeets, List.any_eq_false, Bool.not_eq_true] at h
  exact h _ (List.mem_map_of_mem (List.mem_filter.mpr ⟨he, by simpa [hid, ht] using hm⟩))

/-- A WR, or a WRP that stores, applied: its entries in the coherence order, and the request performed. -/
theorem State.applyToken_store (hq : s.hop.reqs.find? id = some q) (hopc : q.opc = Opc.wr ∨ (q.opc = Opc.wrp ∧ q.arg ≠ 0)) :
    s.applyToken id q = ((s.putReq id { q with tok := 2 }).makeVisible id true).updReq id fun q => { q with phase := .performed } := by
  have hamo : q.opc ≠ Opc.amo ∧ q.opc ≠ Opc.wrc := by
    obtain h | ⟨h, -⟩ := hopc <;> rw [h] <;> decide
  have hwrp : ¬ (q.opc = Opc.wrp && q.arg = 0) = true := by
    obtain h | ⟨-, h⟩ := hopc
    · rw [h]; simp [Opc.wr, Opc.wrp]
    · simpa using fun _ => h
  unfold State.applyToken
  rw [State.updReq_some hq]
  exact (if_neg hamo.1).trans ((if_neg hamo.2).trans (if_neg hwrp))

/-- A store applied; its token is not acknowledged yet, so its record is held. -/
theorem State.applyToken_store_reap (hq : s.hop.reqs.find? id = some q) (hopc : q.opc = Opc.wr ∨ (q.opc = Opc.wrp ∧ q.arg ≠ 0)) :
    ∃ reqs, (s.applyToken id q).reap id =
        { s with pond := s.placed id s.hop.visNext
                 hop := { s.hop with reqs := reqs, visNext := s.hop.visNext + 8, resv := s.hop.resv.keep fun _ r => !s.storeMeets id r } }
      ∧ reqs.find? id = some { q with tok := 2, phase := .performed } := by
  have hfin : Req.finished { q with tok := 2, phase := .performed } = false := by simp [Req.finished]
  rw [State.applyToken_store hq hopc, State.makeVisible_true, State.updReq_some (q := { q with tok := 2 }) (by exact State.putReq_find s id _),
    State.reap_unfinished (q := { q with tok := 2, phase := .performed }) (by exact Tbl.find_ins_same ..) hfin]
  exact ⟨_, rfl, Tbl.find_ins_same ..⟩

/-! ### A WRC without a reservation (R112) -/

/-- The stream holds a reservation of the cell. -/
def State.reserved (s : State) (st a : Nat) : Bool :=
  match s.hop.resv.find? st with | some r => r.holds a | none => false

theorem State.reserved_eq_false {st a : Nat} (h : ∀ r, s.hop.resv.find? st = some r → r.holds a = false) : s.reserved st a = false := by
  unfold State.reserved
  split
  · next r hr => exact h r hr
  · rfl

/-- s after the token of a WRC that fails: its stream without a reservation, nothing of it in Millpond, its record performed. -/
def State.resFailed (s : State) (id : Nat) (q : Req) : State :=
  ((((s.putReq id { q with tok := 2 }).clearResv fun k _ => k = q.stream).putReq id { q with tok := 2, phase := .performed }).pondDrop id).tallyStore
    q.target 13 1

theorem State.applyToken_wrcFails (hq : s.hop.reqs.find? id = some q) (hopc : q.opc = Opc.wrc) (hnone : s.reserved q.stream q.addr = false) :
    s.applyToken id q = (s.resFailed id q).settle id .performed Rc.resfail 0 0 0 [] := by
  have hamo : q.opc ≠ Opc.amo := by rw [hopc]; decide
  have hdone := State.updReq_some (s := (s.putReq id { q with tok := 2 }).clearResv fun k _ => k = q.stream)
    (State.putReq_find s id _) fun q => { q with phase := .performed }
  unfold State.applyToken
  rw [State.updReq_some hq]
  refine (if_neg hamo).trans ((if_pos hopc).trans ((if_pos (congrArg (!·) hnone)).trans ?_))
  exact congrArg (fun v => ((v.pondDrop id).tallyStore q.target 13 1).endReq id Rc.resfail .performed) hdone

/-- A WRC that fails answers RESFAIL and leaves its stream no reservation, and nothing to store in Millpond. -/
structure WrcFailed (id : Nat) (q : Req) (s t : State) : Prop where
  clk : t.clk = s.clk
  pond : t.pond = s.pond.filter (fun e => e.tally || e.id ≠ id)
  resv : t.hop.resv.find? q.stream = none
  races : t.races = s.races
  tx : (t.mod q.m).tx = (s.mod q.m).tx ++ [q.resp Rc.resfail 0 0 0 s.now id []]

theorem State.resFailed_resv (s : State) (id : Nat) (q : Req) : (s.resFailed id q).hop.resv.find? q.stream = none := by
  refine Option.eq_none_iff_forall_ne_some.mpr fun r hr => ?_
  have hkept : (!decide (q.stream = q.stream)) = true := Tbl.find_keep (t := s.hop.resv) hr
  simp at hkept

theorem State.applyToken_wrcFailed (hq : s.hop.reqs.find? id = some q) (hopc : q.opc = Opc.wrc) (ha : q.answered = false)
    (hnone : s.reserved q.stream q.addr = false) : WrcFailed id q s ((s.applyToken id q).reap id) := by
  have ho : Opc.answered q.opc = true := by rw [hopc]; decide
  have htx := State.settle_tx (s := s.resFailed id q) (q := { q with tok := 2, phase := .performed }) (State.putReq_find _ id _) ha ho .performed
    Rc.resfail 0 0 0 []
  obtain ⟨_, _, _, _, hsettle⟩ := (s.resFailed id q).settle_only id .performed Rc.resfail 0 0 0 []
  rw [State.applyToken_wrcFails hq hopc hnone]
  obtain ⟨_, hreap⟩ := ((s.resFailed id q).settle id .performed Rc.resfail 0 0 0 []).reap_only id
  rw [hreap]
  exact ⟨by rw [hsettle]; rfl, by rw [hsettle]; rfl, by rw [hsettle]; exact s.resFailed_resv id q, by rw [hsettle]; rfl, htx⟩

/-- Settles O37: a store applied has its places and clears what it meets (`State.applyToken_store_reap`), a WRC without a reservation only ends
(`State.applyToken_wrcFails`), and release and acknowledgment are the record's token. -/
theorem tokensOrderStores : Obligations.TokensOrderStores := by
  intro s id q hw hq
  refine ⟨fun hcan => ?_, fun hcan hopc => ?_, fun hcan hopc ha hnone => ?_, fun htok => ?_⟩
  · exact .of_exec (exec_tokenRelease hq hcan) ⟨Tbl.find_ins_same .., fun i hi => Tbl.find_ins_other _ _ _ _ hi, rfl⟩
  · have hrun := exec_tokenApply hq hcan
    have hintact := exec_intact hrun rfl rfl
    obtain ⟨reqs, happly, hfind⟩ := State.applyToken_store_reap hq hopc
    rw [happly] at hrun hintact
    refine .of_exec hrun ⟨hintact, rfl, hfind, rfl, rfl, rfl, rfl, rfl, fun e he hid ht hm st r hr => ?_⟩
    exact State.storeMeets_holds he hid ht hm (by simpa using Tbl.find_keep hr)
  · have hrun := exec_tokenApply hq hcan
    have hintact := exec_intact hrun rfl rfl
    obtain ⟨hclk, hpond, hresv, hraces, htx⟩ := State.applyToken_wrcFailed hq hopc ha (State.reserved_eq_false hnone)
    exact .of_exec hrun ⟨hintact, hclk, hpond, hresv, hraces, htx⟩
  · obtain ⟨reqs, hreap⟩ := (s.putReq id { q with tok := 3 }).reap_only id
    refine .of_exec (exec_tokenAck hq htok) ⟨?_, fun i hi => ?_, by rw [hreap]; rfl⟩
    · exact State.reap_find (State.putReq_wf hw id _) (State.putReq_find s id _)
    · exact (((Tbl.sameBut_ins id s.hop.reqs _).trans (State.reap_sameBut (s.putReq id _) id)) hw).2 i hi

end Sys2Proof.Machine
end

section
/-! The obligation on barriers. -/
namespace Sys2Proof.Machine

variable {s t : State} {id half : Nat} {q : Req}

/-- A barrier of any scope is sent to both Hoppers in one way (R119). -/
theorem exec_startBar {c : Instr} (hq : s.hop.reqs.find? id = some q) (h : (c = .barS id ∧ s.fresh id Opc.barS = true)
      ∨ (c = .barG id ∧ s.fresh id Opc.barG = true) ∨ (c = .barD id ∧ s.fresh id Opc.barD = true)) :
    exec c s = .next (s.putReq id { q with phase := .working }) := by
  have hstart : s.startBar id = s.putReq id { q with phase := .working } := State.updReq_some hq _
  rw [← hstart]
  obtain ⟨rfl, hf⟩ | ⟨rfl, hf⟩ | ⟨rfl, hf⟩ := h <;> exact congrArg Host.Outcome.next (when_true hf _ s)

theorem exec_barrierPartResolved (hq : s.hop.reqs.find? id = some q) (hbar : Opc.barrier q.opc = true) (hph : q.phase = .working)
    (hclear : s.partClear half id q = true) : exec (.barrierPartResolved half id) s
      = .next (s.putReq id { q with partE := q.partE || half = 0, partW := q.partW || half ≠ 0 }) :=
  congrArg Host.Outcome.next
    ((when_true (by rw [State.reqIs_some hq]; simp [hbar, hph, hclear]) _ s).trans (State.updReq_some hq _))

/-! ### The response (R124, R125) -/

/-- s after the LOST mark of the barrier's scope is cleared where the response reports it or there is none, and the response counted. -/
def State.barReported (s : State) (id : Nat) (q : Req) : State :=
  let code := s.barCode id q
  let u := ({ s with hop := if code = Rc.lost ∨ code = Rc.ok then s.hop.clearMark q else s.hop } : State).tallyStore q.home 11 1
  if code = Rc.lost then u.tallyStore q.home 12 1 else u

theorem exec_barrierComplete (hq : s.hop.reqs.find? id = some q) (hbar : Opc.barrier q.opc = true) (hph : q.phase = .working)
    (hdone : (q.partE = true ∧ q.partW = true) ∨ s.barCut id q = true) :
    exec (.barrierComplete id) s = .next ((s.barReported id q).settle id .performed (s.barCode id q) 0 0 0 []) := by
  show execBarrierComplete id s = _
  unfold execBarrierComplete
  rw [hq]
  exact congrArg Host.Outcome.next (when_true (by simpa [hbar, hph] using hdone) _ s)

theorem State.barReported_only (s : State) (id : Nat) (q : Req) : ∃ e w, s.barReported id q =
    { s with hop := if s.barCode id q = Rc.lost ∨ s.barCode id q = Rc.ok then s.hop.clearMark q else s.hop, tlyE := e, tlyW := w } := by
  unfold State.barReported
  dsimp only
  split
  · exact ⟨_, _, rfl⟩
  · exact ⟨_, _, rfl⟩

theorem Hop.clearMark_reqs (x : Hop) (q : Req) : (x.clearMark q).reqs = x.reqs := by
  unfold Hop.clearMark
  split
  · rfl
  · split <;> rfl

/-- The LOST marks of the device. -/
def Hop.marks (x : Hop) : Tbl Bool × Tbl Bool × Bool := (x.lostS, x.lostG, x.lostD)

/-- The mark cleared reads unset. -/
theorem State.lostMark_clearMark (hS : s.hop.lostS.wf = true) (hG : s.hop.lostG.wf = true) (ht : t.hop.marks = (s.hop.clearMark q).marks) :
    t.lostMark q = false := by
  have hdel {x : Tbl Bool} (hx : x.wf = true) (k : Nat) : (x.del k).get false k = false := by
    rw [Tbl.get, Tbl.find_del _ _ _ hx, if_pos rfl]
    rfl
  simp only [Hop.marks, Prod.mk.injEq] at ht
  obtain ⟨hlostS, hlostG, hlostD⟩ := ht
  unfold State.lostMark
  rw [hlostS, hlostG, hlostD]
  unfold Hop.clearMark
  by_cases hs : q.opc = Opc.barS
  · simp only [if_pos hs]
    exact hdel hS q.stream
  · by_cases hg : q.opc = Opc.barG
    · simp only [if_neg hs, if_pos hg]
      exact hdel hG q.grp
    · simp only [if_neg hs, if_neg hg]

theorem Opc.answered_of_barrier {o : Nat} (h : Opc.barrier o = true) : Opc.answered o = true := by
  simp only [Opc.barrier, List.mem_cons, List.not_mem_nil, or_false, decide_eq_true_eq] at h
  obtain rfl | rfl | rfl := h <;> decide

/-- A barrier complete is answered and gone; the marks are those of its report, and nothing else that the statement names changes. -/
structure BarrierAnswered (id : Nat) (q : Req) (s t : State) : Prop where
  gone : t.hop.reqs.find? id = none
  tx : (t.mod q.m).tx = (s.mod q.m).tx ++ [q.resp (s.barCode id q) 0 0 0 s.now id []]
  marks : t.hop.marks = (if s.barCode id q = Rc.lost ∨ s.barCode id q = Rc.ok then s.hop.clearMark q else s.hop).marks
  rest : ({ t with hop := s.hop, mods := s.mods, tlyE := s.tlyE, tlyW := s.tlyW } : State) = s

theorem State.barReported_answered (hw : s.hop.reqs.wf = true) (hq : s.hop.reqs.find? id = some q) (hbar : Opc.barrier q.opc = true)
    (ha : q.answered = false) (htok : q.tok = 0) :
    BarrierAnswered id q s ((s.barReported id q).settle id .performed (s.barCode id q) 0 0 0 []) := by
  obtain ⟨e, w, honly⟩ := s.barReported_only id q
  have hreqs : (s.barReported id q).hop.reqs = s.hop.reqs := by
    rw [honly]
    dsimp only
    split
    · exact s.hop.clearMark_reqs q
    · rfl
  obtain ⟨hgone, htx⟩ := State.settle_gone (hreqs ▸ hw) (hreqs ▸ hq) ha (Opc.answered_of_barrier hbar) htok (.inl rfl) (s.barCode id q)
    0 0 0 []
  obtain ⟨_, _, _, _, hsettle⟩ := (s.barReported id q).settle_only id .performed (s.barCode id q) 0 0 0 []
  exact ⟨hgone, htx.trans (by rw [honly]; rfl), by rw [hsettle, honly]; rfl, by rw [hsettle, honly]⟩

/-- Settles O39: a barrier's start and its parts are its record's; complete, it is answered and its mark
is cleared or stands (`State.barReported_answered`). -/
theorem barriersRun : Obligations.BarriersRun := by
  intro s id half q c hw hq
  refine ⟨fun hc => ?_, fun hbar hph hclear => ?_, fun hbar hph hdone ha htok => ?_⟩
  · exact .of_exec (exec_startBar hq hc) ⟨Tbl.find_ins_same .., fun i hi => Tbl.find_ins_other _ _ _ _ hi, rfl⟩
  · exact .of_exec (exec_barrierPartResolved hq hbar hph hclear) ⟨Tbl.find_ins_same .., fun i hi => Tbl.find_ins_other _ _ _ _ hi, rfl⟩
  · have hrun := exec_barrierComplete hq hbar hph hdone
    have hintact := exec_intact hrun rfl rfl
    obtain ⟨hgone, htx, hmarks, hrest⟩ := State.barReported_answered hw hq hbar ha htok
    refine .of_exec hrun ⟨hintact, (congrArg State.clk hrest :), hgone, (congrArg State.regs hrest :), (congrArg State.pond hrest :),
      (congrArg State.flume hrest :), (congrArg State.races hrest :), htx, fun hcode hS hG => ?_, fun hcode => ?_⟩
    · rw [if_pos hcode.symm] at hmarks
      exact State.lostMark_clearMark hS hG hmarks
    · have hkeeps : ¬ (s.barCode id q = Rc.lost ∨ s.barCode id q = Rc.ok) := by
        obtain h | h := hcode <;> rw [h] <;> decide
      rw [if_neg hkeeps] at hmarks
      simpa [Hop.marks] using hmarks

end Sys2Proof.Machine
end

section
/-! SUPPORT. What the decision of an isolation and the drop of a race's stores leave of the races, the buffers and the registers. -/
namespace Sys2Proof.Machine

variable {s t u : State} {race : Nat}

/-! ### Raises -/

theorem Raised.hst (h : Raised s t) (half : Nat) : t.hst half = s.hst half := (congrArg (fun x : State => x.hst half) h.rest :)

/-- A raise leaves DRS_ISOL. -/
theorem Raised.isol (h : Raised s t) (hw : s.regs.wf = true) : t.fheld Fld.DRS_ISOL_ISOL = s.fheld Fld.DRS_ISOL_ISOL := by
  have hkey : Reg.key .DRS_ISOL 0 0 = 0xB02010 := rfl
  refine congrArg Fld.DRS_ISOL_ISOL.of ((h.regs hw).2 .DRS_ISOL (Reg.key .DRS_ISOL 0 0) (fun i => ?_) (fun i => ?_) ?_ ?_)
  · have hfan : Reg.key .FAN_CTRL 0 i = 0xA00008 + 0 + i * 0x80000 := rfl
    omega
  · have hspin : Reg.key .SPIN_STAT i 0 = 0x800800 + i * 0x10000 + 0 := rfl
    omega
  · have hwake : Reg.key .GOV_WAKE 0 0 = 0xD00030 := rfl
    omega
  · omega

/-! ### The decision (R303, R304, R339) -/

/-- A race's record once its isolation is decided. -/
def Race.closed (x : Race) (age : Nat) : Race :=
  { x with isoAt := some age, run := false, fill := none, fillQ := [], filling := [], grantA := [], grantB := [], grantR := [] }

/-- A half's record with the present epoch noted for the race in the headers to come (R339), and no grant of the race's blocks. -/
def Hst.voided (x : Hst) (race : Nat) : Hst :=
  { x with void := x.void.ins race x.epoch, hdrDue := true, granted := x.granted.filter (fun b => b % 32 ≠ race)
           asks := x.asks.filter (fun b => b % 32 ≠ race) }

/-- s after the decision for a race whose retraining has stopped: the race closed and recorded, its half told. -/
def State.isolNoted (s : State) (race : Nat) : State :=
  let u := (s.fset Fld.DRS_ISOL_ISOL (s.fheld Fld.DRS_ISOL_ISOL ||| 2 ^ race)).setRace race ((s.race race).closed s.clk.age)
  let v := u.setHst (raceHalf race) ((u.hst (raceHalf race)).voided race)
  { v with brk := { v.brk with isoNext := v.brk.isoNext.filter (· ≠ race), isoDue := v.brk.isoDue.filter (· ≠ race) } }

theorem State.isolMark_eq (s : State) (race : Nat) : s.isolMark race = (s.stopRetrain race).isolNoted race := rfl

theorem State.isolNoted_race (s : State) (race : Nat) : (s.isolNoted race).race race = (s.race race).closed s.clk.age := State.race_setRace ..

theorem State.isolNoted_race_other (s : State) {r : Nat} (hr : r ≠ race) : (s.isolNoted race).race r = s.race r :=
  State.race_setRace_other _ _ _ _ hr

theorem State.isolNoted_hst (s : State) (race : Nat) : (s.isolNoted race).hst (raceHalf race) = (s.hst (raceHalf race)).voided race :=
  State.hst_setHst ..

theorem State.isolNoted_isol (hw : s.regs.wf = true) (hr : race < 32) : bit ((s.isolNoted race).fheld Fld.DRS_ISOL_ISOL) race = true := by
  have hheld : (s.isolNoted race).fheld Fld.DRS_ISOL_ISOL = (s.fheld Fld.DRS_ISOL_ISOL ||| 2 ^ race) % 2 ^ 32 :=
    s.fheld_fset Fld.DRS_ISOL_ISOL (s.fheld Fld.DRS_ISOL_ISOL ||| 2 ^ race) 0 0 hw (by decide)
  rw [hheld, bit, Nat.testBit_mod_two_pow, Nat.testBit_or, Nat.testBit_two_pow_self]
  simp [hr]

theorem State.isolNoted_wf (hw : s.regs.wf = true) (race : Nat) : (s.isolNoted race).regs.wf = true := s.fset_wf _ _ _ _ hw

/-- What the stop of a retraining and the raise of DRS_ISOL around the record of the decision leave of it. -/
theorem State.isolate_around (hw : s.regs.wf = true) (hiso : s.isolated race = false) :
    ∃ u, Raised s u ∧ u.regs.wf = true ∧ Raised (u.isolNoted race) (s.isolate race) := by
  have hstop := s.stopRetrain_raised race
  refine ⟨s.stopRetrain race, hstop, (hstop.regs hw).1, ?_⟩
  rw [State.isolate, if_neg (by simp [hiso]), State.isolMark_eq]
  exact State.raise_raised ..

/-! ### Stores dropped (R126) -/

/-- What the stores of a race stand in, and the clock. -/
structure Buffers where
  clk : Clk
  pond : List PondEnt
  flume : List FlumeEnt
  wq : Nat → List WqEnt
  fau : Nat → List FauEnt
  banks : Nat → Tbl Bank

def State.buffers (s : State) : Buffers :=
  { clk := s.clk, pond := s.pond, flume := s.flume, wq := fun r => (s.race r).wq, fau := fun r => (s.race r).fau, banks := fun r => (s.race r).banks }

theorem Raised.buffers (h : Raised s t) : t.buffers = s.buffers := by
  have hpond : t.pond = s.pond := (congrArg State.pond h.rest :)
  have hflume : t.flume = s.flume := (congrArg State.flume h.rest :)
  have hwq (r : Nat) : (t.race r).wq = (s.race r).wq := (congrArg Race.wq (h.races r) :)
  have hfau (r : Nat) : (t.race r).fau = (s.race r).fau := (congrArg Race.fau (h.races r) :)
  have hbanks (r : Nat) : (t.race r).banks = (s.race r).banks := (congrArg Race.banks (h.races r) :)
  simp only [State.buffers, h.clk, hpond, hflume, hwq, hfau, hbanks]

theorem State.setRaw_buffers (s : State) (r : Reg) (k : Nat) (w : Word) : (s.setRaw r k w).buffers = s.buffers := rfl

theorem State.logLost_buffers (s : State) (h stream a : Nat) : (s.logLost h stream a).buffers = s.buffers := by
  unfold State.logLost
  split
  · exact s.setRaw_buffers _ _ _
  · exact s.setRaw_buffers _ _ _

/-- A drop is recorded and raised; the buffers stand. -/
theorem State.dropStore_buffers (s : State) (stream a : Nat) : (s.dropStore stream a).buffers = s.buffers :=
  (State.raise_raised _ _ _ _).buffers.trans (((s.markLost stream).logLost_buffers _ _ _).trans rfl)

theorem each_dropStore_buffers (l : List (Nat × Nat × Nat)) (s : State) : (each l (fun e s => s.dropStore e.2.1 e.2.2) s).buffers = s.buffers := by
  unfold each
  induction l generalizing s with
  | nil => rfl
  | cons e l ih => exact (ih _).trans (s.dropStore_buffers e.2.1 e.2.2)

/-- A race's record once its stores are dropped. -/
def Race.emptied (x : Race) : Race := { x with wq := [], fau := [], flights := [], isoDrop := true }

/-- s with the buffers of a race emptied. -/
def State.bufferless (s : State) (race : Nat) : State :=
  ({ s with pond := s.pond.filter (fun e => e.race ≠ race), flume := s.flume.filter (fun e => e.race ≠ race) } : State).setRace race
    (s.race race).emptied

theorem State.bufferless_race (s : State) (race : Nat) : (s.bufferless race).race race = (s.race race).emptied := State.race_setRace ..

theorem State.bufferless_race_other (s : State) {r : Nat} (hr : r ≠ race) : (s.bufferless race).race r = s.race r :=
  State.race_setRace_other _ _ _ _ hr

/-- The drop of a race's stores: they are recorded as lost, their buffers emptied, and the requests answered. -/
theorem State.dropRace_around (s : State) (race : Nat) : ∃ u : State, u.buffers = s.buffers ∧ Raised (u.bufferless race) (s.dropRace race) := by
  refine ⟨_, each_dropStore_buffers (storesOnce (s.lostStores race)) s, ?_⟩
  refine each_raised fun id u => ?_
  split
  · exact .refl u
  · refine u.endReq_raised id _ _ ?_
    split <;> decide

end Sys2Proof.Machine
end

section
/-! The obligation on the steps of an isolation. -/
namespace Sys2Proof.Machine

variable {s t : State} {race : Nat}

/-! ### The commands -/

theorem exec_isolationDecision (hdue : race ∈ s.brk.isoDue) (hiso : s.isolated race = false) :
    exec (.isolationDecision race) s = .next (s.isolate race) :=
  congrArg Host.Outcome.next (when_true (by simp [hdue, hiso]) _ s)

theorem exec_isolationAdmitOff (hdue : s.isoReached race 1 = true) (hoff : (s.race race).isoOff = false) : exec (.isolationAdmitOff race) s
    = .next ((s.setRace race { s.race race with isoOff := true }).clearResv fun _ r => s.raceAt r.base = race) :=
  congrArg Host.Outcome.next (when_true (by simp [hdue, hoff]) _ s)

theorem exec_isolationReadsOff (hdue : s.isoReached race 2 = true) (hreads : (s.race race).isoReads = false) :
    exec (.isolationReadsOff race) s = .next (s.readsOff race) :=
  congrArg Host.Outcome.next (when_true (by simp [hdue, hreads]) _ s)

theorem exec_isolationStoreDrop (hage : (s.isoAge race).isSome = true) (hdrop : (s.race race).isoDrop = false) :
    exec (.isolationStoreDrop race) s = .next (s.dropRace race) :=
  congrArg Host.Outcome.next (when_true (by simp [hage, hdrop]) _ s)

/-- s with the race's map bits clear and its isolation done. -/
def State.unmapped (s : State) (race : Nat) : State :=
  { s.setRace race { s.race race with isoDone := true, isoAt := none } with
    dram := { s.dram with wmap := s.dram.wmap.keep (fun b _ => b % 32 ≠ race), zeroed := s.dram.zeroed.keep (fun b _ => b % 32 ≠ race) } }

theorem exec_isolationFinal (hdue : s.isoReached race 64 = true) (hdone : (s.race race).isoDone = false) :
    exec (.isolationFinal race) s = .next (s.unmapped race) :=
  congrArg Host.Outcome.next (when_true (by simp [hdue, hdone]) _ s)

/-! ### Reads (R304) -/

/-- The reads of the race that are open. -/
def State.openReads (s : State) (race : Nat) : List Nat :=
  (s.hop.reqs.rows.filter (fun kv => kv.2.race = race ∧ (kv.2.opc = Opc.rd ∨ kv.2.opc = Opc.rdx) ∧ kv.2.open_ = true)).map Prod.fst

/-- s with the race's read queue empty and its cells gone from the scrubber. -/
def State.readless (s : State) (race : Nat) : State := (s.scrubDrop race).setRace race { s.race race with rq := [], isoReads := true }

theorem State.readsOff_eq (s : State) (race : Nat) :
    s.readsOff race = each (s.openReads race) (fun id s => s.endReq id Rc.off .dropped) (s.readless race) := rfl

theorem State.readsOff_only (s : State) (race : Nat) : OnlyAnswers (s.readless race) (s.readsOff race) :=
  each_endReq_only (s.openReads race) Rc.off .dropped (s.readless race)

/-- No read of the race is open afterwards: the open ones end, and the others stand. -/
theorem State.readsOff_closed (hw : s.hop.reqs.wf = true) {id : Nat} {q : Req} (hq : (s.readsOff race).hop.reqs.find? id = some q)
    (hrace : q.race = race) (hopc : q.opc = Opc.rd ∨ q.opc = Opc.rdx) : q.open_ = false := by
  rw [State.readsOff_eq] at hq
  obtain ⟨hended, hstands⟩ := each_endReq_find (s := s.readless race) hw hq
  by_cases hid : id ∈ s.openReads race
  · rw [Req.open_, hended hid]
    rfl
  · by_contra hopen
    have hmem : (id, q) ∈ s.hop.reqs.rows := Tbl.mem_of_find (hstands hid)
    exact hid (List.mem_map_of_mem (f := Prod.fst) (List.mem_filter.mpr ⟨hmem, by simpa [hrace, hopc] using hopen⟩))

/-! ### The steps -/

/-- The decision: the race closed and recorded, its half told, the other races' banks and the buffers as they were. -/
structure IsolationDecided (race : Nat) (s t : State) : Prop where
  clk : t.clk = s.clk
  isol : bit (t.fheld Fld.DRS_ISOL_ISOL) race = true
  isoAt : (t.race race).isoAt = some s.clk.age
  run : (t.race race).run = false
  fill : (t.race race).fill = none
  fillQ : (t.race race).fillQ = []
  grantA : (t.race race).grantA = []
  grantB : (t.race race).grantB = []
  grantR : (t.race race).grantR = []
  void : (t.hst (raceHalf race)).void.find? race = some (s.hst (raceHalf race)).epoch
  hdrDue : (t.hst (raceHalf race)).hdrDue = true
  others : OtherRaces race s t

theorem State.isolate_decided (hw : s.regs.wf = true) (hr : race < 32) (hiso : s.isolated race = false) :
    IsolationDecided race s (s.isolate race) := by
  obtain ⟨u, hbefore, hwu, hafter⟩ := State.isolate_around hw hiso
  have hrace := hafter.races race
  rw [State.isolNoted_race, hbefore.clk] at hrace
  have hhst : (s.isolate race).hst (raceHalf race) = (s.hst (raceHalf race)).voided race := by
    rw [hafter.hst, State.isolNoted_hst, hbefore.hst]
  refine ⟨hafter.clk.trans hbefore.clk, ?_, (congrArg Race.isoAt hrace :), (congrArg Race.run hrace :), (congrArg Race.fill hrace :),
    (congrArg Race.fillQ hrace :), (congrArg Race.grantA hrace :), (congrArg Race.grantB hrace :), (congrArg Race.grantR hrace :), ?_, ?_,
    fun r hne => ?_, (congrArg State.pond hafter.rest :).trans (congrArg State.pond hbefore.rest :),
    (congrArg State.flume hafter.rest :).trans (congrArg State.flume hbefore.rest :)⟩
  · rw [hafter.isol (State.isolNoted_wf hwu race)]
    exact State.isolNoted_isol hwu hr
  · rw [hhst]
    exact Tbl.find_ins_same ..
  · rw [hhst]
    rfl
  · have hother := hafter.races r
    rw [State.isolNoted_race_other _ hne] at hother
    exact ⟨(congrArg Race.banks hother :).trans (congrArg Race.banks (hbefore.races r) :),
      (congrArg Race.sref hother :).trans (congrArg Race.sref (hbefore.races r) :)⟩

/-- The drop of a race's stores: nothing of them is left in a buffer, and the other races' buffers stand. -/
structure StoresDropped (race : Nat) (s t : State) : Prop where
  clk : t.clk = s.clk
  isoDrop : (t.race race).isoDrop = true
  wq : (t.race race).wq = []
  fau : (t.race race).fau = []
  flights : (t.race race).flights = []
  pond : t.pond = s.pond.filter (fun e => e.race ≠ race)
  flume : t.flume = s.flume.filter (fun e => e.race ≠ race)
  others : ∀ r, r ≠ race → (t.race r).wq = (s.race r).wq ∧ (t.race r).fau = (s.race r).fau ∧ (t.race r).banks = (s.race r).banks

theorem State.dropRace_dropped (s : State) (race : Nat) : StoresDropped race s (s.dropRace race) := by
  obtain ⟨u, hbefore, hafter⟩ := s.dropRace_around race
  simp only [State.buffers, Buffers.mk.injEq] at hbefore
  obtain ⟨hclk, hpond, hflume, hwq, hfau, hbanks⟩ := hbefore
  have hrace := hafter.races race
  rw [State.bufferless_race] at hrace
  refine ⟨hafter.clk.trans hclk, (congrArg Race.isoDrop hrace :), (congrArg Race.wq hrace :), (congrArg Race.fau hrace :),
    (congrArg Race.flights hrace :), ?_, ?_, fun r hne => ?_⟩
  · exact (congrArg State.pond hafter.rest :).trans (congrArg (List.filter fun e : PondEnt => e.race ≠ race) hpond)
  · exact (congrArg State.flume hafter.rest :).trans (congrArg (List.filter fun e : FlumeEnt => e.race ≠ race) hflume)
  · have hother := hafter.races r
    rw [State.bufferless_race_other _ hne] at hother
    exact ⟨(congrArg Race.wq hother :).trans (congrFun hwq r), (congrArg Race.fau hother :).trans (congrFun hfau r),
      (congrArg Race.banks hother :).trans (congrFun hbanks r)⟩

/-- Settles O23: each step's run, followed to the race's record, the buffers and the map. -/
theorem isolationGoesInSteps : Obligations.IsolationGoesInSteps := by
  intro s race hw hmap hr
  refine ⟨fun hdue hiso => ?_, fun hdue hoff => ?_, fun hdue hreads => ?_, fun hage hdrop => ?_, fun hdue hdone => ?_⟩
  · have hrun := exec_isolationDecision hdue hiso
    obtain ⟨hclk, hisol, hat, hrunR, hfill, hfillQ, hA, hB, hR, hvoid, hhdr, hothers⟩ := State.isolate_decided hw hr hiso
    exact .of_exec hrun ⟨exec_intact hrun rfl rfl, hclk, hisol, hat, hrunR, hfill, hfillQ, hA, hB, hR, hvoid, hhdr, hothers⟩
  · exact .of_exec (exec_isolationAdmitOff hdue hoff) ⟨State.race_setRace .., fun r hne => State.race_setRace_other _ _ _ _ hne, rfl, rfl⟩
  · have hrun := exec_isolationReadsOff hdue hreads
    have hintact := exec_intact hrun rfl rfl
    obtain ⟨_, _, _, _, honly⟩ := s.readsOff_only race
    have hraces : (s.readsOff race).races = (s.readless race).races := by rw [honly]
    refine .of_exec hrun ⟨hintact, by rw [honly]; rfl, ?_, fun r hne => ?_, by rw [honly]; rfl, by rw [honly]; rfl, by rw [honly]; rfl,
      fun hreqs id q hq hrace hopc => State.readsOff_closed hreqs hq hrace hopc⟩
    · rw [State.race, hraces]
      exact State.race_setRace ..
    · rw [State.race, hraces]
      exact State.race_setRace_other _ _ _ _ hne
  · have hrun := exec_isolationStoreDrop hage hdrop
    obtain ⟨hclk, hdropped, hwq, hfau, hflights, hpond, hflume, hothers⟩ := s.dropRace_dropped race
    exact .of_exec hrun ⟨exec_intact hrun rfl rfl, hclk, hdropped, hwq, hfau, hflights, hpond, hflume, hothers⟩
  · refine .of_exec (exec_isolationFinal hdue hdone) ⟨State.race_setRace .., fun r hne => State.race_setRace_other _ _ _ _ hne, fun b hb => ?_,
      fun b hb => Tbl.find_keep_key hmap fun _ => by simpa using hb, rfl, rfl⟩
    refine Option.eq_none_iff_forall_ne_some.mpr fun v hv => ?_
    have hkept : decide (b % 32 ≠ race) = true := Tbl.find_keep (t := s.dram.wmap) hv
    exact of_decide_eq_true hkept hb

end Sys2Proof.Machine
end

section
/-! The obligations on the state after reset and on the DRAM content. -/
namespace Sys2Proof.Machine

/-! ### The state after reset -/

/-- After reset no register holds a word of its own: each reads its reset word. -/
theorem State.reset_raw (r : Reg) (k : Nat) : State.reset.raw r k = resetWord State.reset.ld r k := rfl

theorem State.reset_mapCfg : (locate (Reg.key .HOP_AMAP_CFG 0 0)).map State.reset.shown = some 0x0011301F := by decide +kernel

/-- Settles O4: the word of a layout with fixed reset values is the same at each of its places. -/
theorem resetHoldsTheSpecsValues : Obligations.ResetHoldsTheSpecsValues := by
  refine ⟨by decide, rfl, rfl, rfl, fun _ => rfl, fun i h _ => ⟨State.reset_mapCfg, ?_⟩⟩
  simp only [State.reset_raw]
  exact ⟨rfl, rfl, fun _ => rfl, rfl, rfl, rfl, rfl⟩

/-! ### The DRAM content -/

variable (d : Dram) (n blk : Nat) (w : Codeword)

/-- A stored word is dropped where the block's fill already reads as it, and listed elsewhere. -/
theorem Dram.store_cells_find (hw : d.cells.wf = true) (m : Nat) :
    (d.store n blk w).cells.find? m = if m = n then (if d.base blk = some w then none else some w) else d.cells.find? m := by
  unfold Dram.store
  dsimp only
  by_cases hbase : d.base blk = some w
  · simp [hbase, Tbl.find_del _ _ _ hw]
  · by_cases hm : m = n
    · subst hm
      simp [hbase, Tbl.find_ins_same]
    · simp [hbase, hm, Tbl.find_ins_other _ _ _ _ hm]

theorem Dram.word_store_same (hw : d.cells.wf = true) : (d.store n blk w).word n blk = w := by
  unfold Dram.word
  rw [Dram.store_cells_find d n blk w hw, if_pos rfl]
  by_cases hbase : d.base blk = some w
  · rw [if_pos hbase]
    change (d.base blk).getD _ = w
    rw [hbase, Option.getD_some]
  · rw [if_neg hbase]

theorem Dram.word_store_other (hw : d.cells.wf = true) {m : Nat} (hm : m ≠ n) (b : Nat) : (d.store n blk w).word m b = d.word m b := by
  unfold Dram.word
  rw [Dram.store_cells_find d n blk w hw, if_neg hm]
  rfl

theorem Dram.store_cells_wf (hw : d.cells.wf = true) : (d.store n blk w).cells.wf = true := by
  unfold Dram.store
  dsimp only
  split
  · exact Tbl.wf_del _ _ hw
  · exact Tbl.wf_ins _ _ _ hw

/-- Settles O17: a store changes the listing of its own cell only, and a cell not listed reads as its block's fill. -/
theorem dramReadsBack : Obligations.DramReadsBack := fun d n blk w hw =>
  ⟨d.word_store_same n blk w hw, fun _ b hm => d.word_store_other n blk w hw hm b, d.store_cells_wf n blk w hw, rfl, rfl⟩

end Sys2Proof.Machine
end

section
/-!
The obligation on fills, refuted: with room for a fill and none running, its first clause has the block asked for begin at once. Where a fill waits,
the model begins the one that has waited longest (R141) and lets the new one wait. A race comes there when a place comes free by the execution of
a far atomic, which begins no fill.
-/
namespace Sys2Proof.Machine

/-- A store for block 0 has entered Millpond of a device in RUN without a granary; race 0 runs no fill, has the write queue empty, and region 3
waits for a fill. -/
def fillWaits : State :=
  { boot := { inReset := none, westUp := true }
    ld := { gports := 0 }
    pond := [{ id := 1, k := 0, half := 0, race := 0, addr := 0, data := 0, mask := 1, psn := false, vis := 1, amo := false, stream := 0, cls := 2 }]
    races := ⟨[(0, { run := true, fillQ := [3] })]⟩ }

/-- The region of race 0's running fill. -/
def fillRunning : Host.Outcome State Fault Refusal → Option Nat
  | .next t => (t.race 0).fill.map (fun f => f.v)
  | _ => none

/-- The waiting region's fill begins, not that of block 0. -/
theorem fillWaits_runs : fillRunning (exec (.fillOpen 0 0) fillWaits) = some 3 := by decide +kernel

theorem fillWaits_serves : fillWaits.raceCmd 0 = true ∧ fillWaits.works 0 = true := by decide +kernel

theorem fillWaits_unwritten : fillWaits.dram.wmap.get false 0 = false ∧ fillWaits.fget Fld.QRN_WMAP_CFG_EN 0 (raceHalf 0) = 1 := by decide +kernel

theorem fillWaits_offered : fillWaits.fillWanted 0 = true := by decide +kernel

/-- The part of the obligation that fails: where there is no granary and the write queue has room, a store offered begins the fill of its own block. -/
theorem FillsZeroBlocks.opens (h : Obligations.FillsZeroBlocks) (s : State) (race v : Nat) (hregs : s.regs.wf = true) (hdram : s.dram.wf = true)
    (hrun : s.raceCmd race = true ∧ s.works race = true) (hv : v < regionsOf s.ld)
    (hunw : s.dram.wmap.get false (32 * v + race) = false ∧ s.fget Fld.QRN_WMAP_CFG_EN 0 (raceHalf race) = 1)
    (hnew : v ∉ (s.race race).fills ∧ (s.race race).fills.length < 4) (hwant : s.fillWanted (32 * v + race) = true)
    (hgran : hoistFitted s.ld = false) (hroom : 2 ≤ (s.race race).wqRoom) :
    ∃ t, exec (.fillOpen race v) s = .next t ∧ (t.race race).fill = some ((s.race race).fill.getD { v := v, at_ := s.now }) := by
  obtain ⟨hcmd, hworks⟩ := hrun
  obtain ⟨hmap, hen⟩ := hunw
  obtain ⟨hin, hlen⟩ := hnew
  obtain ⟨hopen, -⟩ := h s race v 0 0 hregs hdram
  obtain ⟨hgranted, -⟩ := hopen hcmd hworks hv hmap hen hin hwant
  obtain ⟨t, ht, -, -, hfill, -⟩ := hgranted (.inl hgran) hlen (.inr hroom)
  exact ⟨t, ht, hfill⟩

/-- Refutes O21: in `fillWaits` the fill of block 0 is to begin, and that of region 3 does. -/
theorem not_fillsZeroBlocks : ¬ Obligations.FillsZeroBlocks := by
  intro h
  obtain ⟨t, ht, hfill⟩ := FillsZeroBlocks.opens h fillWaits 0 0 rfl rfl fillWaits_serves (by decide) fillWaits_unwritten (by decide)
    fillWaits_offered (by decide) (by decide)
  have hruns : (t.race 0).fill.map (fun f => f.v) = some 3 := (congrArg fillRunning ht).symm.trans fillWaits_runs
  have hfirst : (t.race 0).fill.map (fun f => f.v) = some 0 := congrArg (Option.map (fun f : Fill => f.v)) hfill
  exact absurd (hfirst.symm.trans hruns) (by decide)

end Sys2Proof.Machine
end

section
/-!
SUPPORT. A race's own steps: what they make of the race's record, and that of the rest of the machine only the counts of Tally follow.
-/
namespace Sys2Proof.Machine

variable {s u : State} {r : Nat} {y : Race}

/-- u is s with record y at race r, and Tally's counts. -/
structure RaceSet (r : Nat) (y : Race) (s u : State) : Prop where
  rest : ∃ races e w, u = { s with races := races, tlyE := e, tlyW := w }
  race : u.race r = y
  others : ∀ i, i ≠ r → u.race i = s.race i

theorem RaceSet.refl (r : Nat) (s : State) : RaceSet r (s.race r) s s := ⟨⟨_, _, _, rfl⟩, rfl, fun _ _ => rfl⟩

theorem RaceSet.setRace (h : RaceSet r y s u) (z : Race) : RaceSet r z s (u.setRace r z) := by
  obtain ⟨⟨_, _, _, rfl⟩, -, hothers⟩ := h
  exact ⟨⟨_, _, _, rfl⟩, State.race_setRace .., fun i hi => (State.race_setRace_other _ _ _ _ hi).trans (hothers i hi)⟩

theorem RaceSet.tally (h : RaceSet r y s u) (half bank i n : Nat) : RaceSet r y s (u.tally half bank i n) := by
  obtain ⟨⟨_, _, _, rfl⟩, hrace, hothers⟩ := h
  exact ⟨⟨_, _, _, rfl⟩, hrace, hothers⟩

theorem RaceSet.tallyRace (h : RaceSet r y s u) (i e n : Nat) : RaceSet r y s (u.tallyRace i e n) := h.tally ..

theorem RaceSet.ite {c : Prop} [Decidable c] {v : State} (hu : RaceSet r y s u) (hv : RaceSet r y s v) : RaceSet r y s (if c then u else v) := by
  split <;> assumption

theorem RaceSet.tallyCol (h : RaceSet r y s u) (i : Nat) (e : Ent) (hit : Bool) : RaceSet r y s (u.tallyCol i e hit) :=
  ((h.tallyRace _ _ _).tallyRace _ _ _ |>.ite (h.tallyRace _ _ _)).tallyRace _ _ _

/-! ### What is read of the rest -/

theorem RaceSet.tim (h : RaceSet r y s u) (i : Nat) : u.tim i = s.tim i := by
  obtain ⟨⟨_, _, _, rfl⟩, -⟩ := h
  rfl

theorem RaceSet.fget (h : RaceSet r y s u) (f : Field) (i half : Nat) : u.fget f i half = s.fget f i half := by
  obtain ⟨⟨_, _, _, rfl⟩, -⟩ := h
  rfl

theorem RaceSet.fillAddr (h : RaceSet r y s u) (f : Fill) (i pr k : Nat) : u.fillAddr f i pr k = s.fillAddr f i pr k := by
  obtain ⟨⟨_, _, _, rfl⟩, -⟩ := h
  rfl

theorem RaceSet.epochTag (h : RaceSet r y s u) (half : Nat) : u.epochTag half = s.epochTag half := by
  obtain ⟨⟨_, _, _, rfl⟩, -⟩ := h
  rfl

/-- A cell is stored at the place where s has it. -/
theorem RaceSet.storeCell (h : RaceSet r y s u) (a : Nat) (w : Codeword) :
    RaceSet r y { s with dram := s.dram.store (a / 64) (s.blockOf a) w } (u.storeCell a w) := by
  obtain ⟨⟨_, _, _, rfl⟩, hrace, hothers⟩ := h
  exact ⟨⟨_, _, _, rfl⟩, hrace, hothers⟩

theorem RaceSet.bgUse (h : RaceSet r y s u) (cls n : Nat) : ∃ w, RaceSet r y { s with weir := w } (u.bgUse cls n) := by
  obtain ⟨⟨_, _, _, rfl⟩, hrace, hothers⟩ := h
  exact ⟨_, ⟨_, _, _, rfl⟩, hrace, hothers⟩

/-! ### The whole command -/

theorem RaceSet.race_clk (h : RaceSet r y s u) (c : Clk) : ({ u with clk := c } : State).race r = y := h.race

theorem RaceSet.atRace (h : RaceSet r y s u) (c : Clk) : AtRace r s { u with clk := c } := by
  obtain ⟨⟨_, _, _, rfl⟩, -, hothers⟩ := h
  exact ⟨rfl, hothers⟩

theorem RaceSet.intact (h : RaceSet r y s u) (c : Clk) : Intact s { u with clk := c } := by
  obtain ⟨⟨_, _, _, rfl⟩, -⟩ := h
  exact ⟨rfl, rfl, rfl⟩

/-- So it is with what a WR changes besides. -/
theorem RaceSet.afterWrite {d : Dram} {b : Weir} (h : RaceSet r y { s with dram := d, weir := b } u) (c : Clk) :
    let t : State := { u with clk := c }
    t.pending = s.pending ∧ t.fuse = s.fuse ∧ t.dram = d ∧ t.weir = b ∧ AtRace r { s with dram := t.dram, weir := t.weir } t := by
  obtain ⟨⟨_, _, _, rfl⟩, -, hothers⟩ := h
  exact ⟨rfl, rfl, rfl, rfl, rfl, hothers⟩

/-! ### Parts that column commands share -/

/-- The mode latch. -/
theorem RaceSet.modeAt (h : RaceSet r y s u) (t : Nat) : ∃ m, RaceSet r { y with wmode := m } s (u.modeAt r t) := by
  obtain ⟨hrest, rfl, hothers⟩ := h
  exact ⟨_, RaceSet.setRace ⟨hrest, rfl, hothers⟩ _⟩

/-- The marks of a column command touch the bank and the history. -/
theorem RaceSet.colBank (h : RaceSet r y s u) (t : Nat) (n : RowReq) (qid : Option Nat) (conflict : Bool) :
    ∃ b l, RaceSet r { y with banks := b, hist := l } s (u.colBank r t n qid conflict) := by
  obtain ⟨hrest, rfl, hothers⟩ := h
  exact ⟨_, _, RaceSet.setRace ⟨hrest, rfl, hothers⟩ _⟩

theorem Race.wqPut_fill (x : Race) (a : Nat) (data : Cell) (psn : Bool) (epoch cls now : Nat) (own : WrOwner) (strs : List (Nat × Nat)) :
    (x.wqPut a data psn epoch cls now own strs).fill = x.fill := by
  unfold Race.wqPut Race.newer
  dsimp only
  split <;> split <;> rfl

/-- The fill that begins is the only change. -/
theorem RaceSet.fillIn (h : RaceSet r y s u) (t : Nat) : ∃ f q, RaceSet r { y with fill := f, fillQ := q } s (u.fillIn r t) := by
  unfold State.fillIn
  dsimp only
  rw [h.race]
  split
  · split
    · exact ⟨_, _, h.setRace _⟩
    · exact ⟨_, _, h⟩
  · exact ⟨_, _, h⟩

/-- A write-back enters the write queue with a cell of the background budget; without write-backs nothing happens. -/
theorem RaceSet.backIn (h : RaceSet r y s u) (t : Nat) :
    ∃ z b, RaceSet r z { s with weir := b } (u.backIn r t) ∧ z.fill = y.fill ∧ (y.backs = [] → b = s.weir ∧ z = y) := by
  unfold State.backIn
  dsimp only
  rw [h.race]
  split
  · exact ⟨y, s.weir, h, rfl, fun _ => ⟨rfl, rfl⟩⟩
  · next b rest hbacks =>
    have hne : y.backs ≠ [] := by simp [hbacks]
    split
    · exact ⟨_, s.weir, h.setRace _, rfl, fun hnil => absurd hnil hne⟩
    · split
      · exact ⟨y, s.weir, h, rfl, fun hnil => absurd hnil hne⟩
      · obtain ⟨w, hused⟩ := h.bgUse 3 1
        exact ⟨_, w, hused.setRace _, y.wqPut_fill .., fun hnil => absurd hnil hne⟩

end Sys2Proof.Machine
end

section
/-! The obligation on column commands. -/
namespace Sys2Proof.Machine

variable {s : State} {race r mc qid pr : Nat}

/-! ### The runs of the commands -/

theorem exec_dramRd_queue {e : Ent} (hcmd : s.raceCmd race = true) (he : (s.waiting race).find? (fun e => e.qid = qid ∧ !e.wr) = some e)
    (hlegal : s.legal race (s.at mc) e.req = true) (hgrant : s.colGranted race e.place.pr (s.at mc) (.ent qid) = true) :
    exec (.dramRd race mc (.queue qid)) s = .next { s.rdIssue race (s.at mc) e with clk := s.clkAt mc } := by
  change Host.Outcome.next _ = _
  simp only [he, hcmd, hlegal, hgrant, Bool.and_self, when_true]

theorem exec_dramWr_queue {w : WqEnt} (hcmd : s.raceCmd race = true) (hw : (s.race race).wq.find? (fun e => e.qid = qid) = some w)
    (hlegal : s.legal race (s.at mc) (s.wrEnt w).req = true) (hgrant : s.colGranted race (s.wrEnt w).place.pr (s.at mc) (.ent qid) = true) :
    exec (.dramWr race mc (.queue qid)) s = .next { s.wrIssue race (s.at mc) (s.wrEnt w) w with clk := s.clkAt mc } := by
  change Host.Outcome.next _ = _
  simp only [hw, hcmd, hlegal, hgrant, Bool.and_self, when_true]

theorem exec_dramWr_fill {f : Fill} (hcmd : s.raceCmd race = true) (hf : (s.race race).fill = some f) (hpr : pr < 2) (hdone : f.done pr < 512)
    (hlegal : s.legal race (s.at mc) (s.fillReq f pr (f.done pr / 16) .wr) = true) (hgrant : s.colGranted race pr (s.at mc) .fill = true) :
    exec (.dramWr race mc (.fill pr)) s = .next { s.fillIssue race pr (s.at mc) f with clk := s.clkAt mc } := by
  change Host.Outcome.next _ = _
  simp only [hf, hcmd, hpr, hdone, hlegal, hgrant, decide_true, Bool.and_self, when_true]

/-- The next probe of pr. -/
def State.nextProbe (s : State) (race pr : Nat) : RowReq := (s.race race).probeReq pr (probeCmd ((s.race race).tr.next pr))

/-- A probe issues in the command of its own direction. -/
theorem exec_probe {c : Instr} (hc : c = .dramRd race mc (.probe pr) ∧ (s.nextProbe race pr).cmd = .rd
      ∨ c = .dramWr race mc (.probe pr) ∧ (s.nextProbe race pr).cmd = .wr)
    (hcmd : s.raceCmd race = true) (hworks : s.works race = true) (hlegal : s.legal race (s.at mc) (s.nextProbe race pr) = true)
    (hgrant : s.colGranted race pr (s.at mc) .probe = true) :
    exec c s = .next { s.probeIssue race pr (s.at mc) with clk := s.clkAt mc } := by
  rw [State.nextProbe] at hc hlegal
  obtain ⟨rfl, hdir⟩ | ⟨rfl, hdir⟩ := hc
  all_goals
    change Host.Outcome.next _ = _
    simp only [hcmd, hworks, hdir, hlegal, hgrant, decide_true, Bool.and_self, when_true]

/-! ### RD of an entry -/

/-- The burst of a read-queue entry. -/
def State.readFlight (s : State) (r t : Nat) (e : Ent) (q : RqEnt) : Flight :=
  { pr := e.place.pr, at_ := (s.tim r).strobe .rd t, mrr := false, qid := q.qid, kind := q.kind, id := q.id, k := q.k, addr := q.addr
    word := s.cellWord e.addr, retry := q.retry, stale := q.stale }

/-- The burst of an entry of the far-atomic unit. -/
def State.unitFlight (s : State) (r t : Nat) (e : Ent) : Flight :=
  { pr := e.place.pr, at_ := (s.tim r).strobe .rd t, mrr := false, qid := e.qid, kind := .fau, id := 0, k := 0, addr := e.addr
    word := s.cellWord e.addr }

theorem State.rdIssue_queue {e : Ent} {q : RqEnt} (t : Nat) (hq : (s.race r).rq.find? (fun o => o.qid = e.qid) = some q) :
    ∃ b l m, RaceSet r { s.race r with banks := b, hist := l, wmode := m, rq := (s.race r).rq.filter (fun o => o.qid ≠ q.qid)
                                       flights := (s.race r).flights ++ [s.readFlight r t e q] } s (s.rdIssue r t e) := by
  obtain ⟨b, l, hcol⟩ := (RaceSet.refl r s).colBank t e.req (some e.qid) (conflictWaits (s.waiting r) (s.race r) e.req)
  unfold State.rdIssue
  dsimp only
  rw [hcol.race, hcol.tim]
  dsimp only
  rw [hq]
  have hset := (hcol.tallyCol r e (decide (((s.race r).bankOf e.req).actAt ≤ e.since))).setRace
    { s.race r with banks := b, hist := l, wmode := s.writeMode r t (s.waiting r), rq := (s.race r).rq.filter (fun o => o.qid ≠ q.qid)
                    flights := (s.race r).flights ++ [s.readFlight r t e q] }
  exact ⟨b, l, _, RaceSet.ite ((hset.tallyRace _ _ _).tally _ _ _ _) hset⟩

theorem State.rdIssue_unit {e : Ent} (t : Nat) (hq : (s.race r).rq.find? (fun o => o.qid = e.qid) = none) :
    ∃ b l m, RaceSet r { s.race r with banks := b, hist := l, wmode := m, flights := (s.race r).flights ++ [s.unitFlight r t e]
                                       fau := mapIf (fun o => o.qid = e.qid) (fun o => { o with rdAt := some t }) (s.race r).fau }
      s (s.rdIssue r t e) := by
  obtain ⟨b, l, hcol⟩ := (RaceSet.refl r s).colBank t e.req (some e.qid) (conflictWaits (s.waiting r) (s.race r) e.req)
  unfold State.rdIssue
  dsimp only
  rw [hcol.race, hcol.tim]
  dsimp only
  rw [hq]
  exact ⟨b, l, _, (hcol.tallyCol r e _).setRace _⟩

/-! ### WR of an entry and of the fill -/

/-- The entry leaves the queue, where a write-back may take its place, and its cell holds the codeword. -/
theorem State.wrIssue_set (s : State) (r t : Nat) (e : Ent) (w : WqEnt) :
    ∃ y b, RaceSet r y { s with dram := s.dram.store (w.addr / 64) (s.blockOf w.addr) (storeWord w.data w.psn w.epoch), weir := b } (s.wrIssue r t e w)
      ∧ ((s.race r).backs = [] → b = s.weir ∧ y.wq = (s.race r).wq.filter (fun o => o.qid ≠ e.qid)) := by
  obtain ⟨k, l, hcol⟩ := (RaceSet.refl r s).colBank t e.req (some e.qid) (conflictWaits (s.waiting r) (s.race r) e.req)
  have hcount := hcol.tallyCol r e (decide (((s.race r).bankOf e.req).actAt ≤ e.since))
  unfold State.wrIssue
  dsimp only
  rw [hcount.race]
  obtain ⟨y, b, hback, -, hnone⟩ := (hcount.setRace _).backIn t
  obtain ⟨f, q, hfill⟩ := hback.fillIn t
  refine ⟨_, b, hfill.storeCell w.addr (storeWord w.data w.psn w.epoch), fun hbacks => ?_⟩
  obtain ⟨hweir, rfl⟩ := hnone hbacks
  exact ⟨hweir, rfl⟩

/-- The fill with one more burst of pr placed. -/
def Fill.placed (f : Fill) (pr : Nat) : Fill :=
  { f with doneA := if pr = 0 then f.doneA + 1 else f.doneA, doneB := if pr = 0 then f.doneB else f.doneB + 1 }

theorem State.fillIssue_set (s : State) (r pr t : Nat) (f : Fill) :
    ∃ y b, RaceSet r y { s with dram := s.dram.store (s.fillAddr f r pr (f.done pr) / 64) (s.blockOf (s.fillAddr f r pr (f.done pr)))
                                  (storeWord 0 false (s.epochTag (raceHalf r)))
                                weir := b } (s.fillIssue r pr t f)
      ∧ y.fill = some (f.placed pr) ∧ ((s.race r).backs = [] → b = s.weir) := by
  obtain ⟨m, hmode⟩ := (RaceSet.refl r s).modeAt t
  unfold State.fillIssue
  dsimp only
  obtain ⟨k, l, hcol⟩ := hmode.colBank t ((s.modeAt r t).fillReq f pr (f.done pr / 16) .wr) (some 0)
    (conflictWaits ((s.modeAt r t).waiting r) ((s.modeAt r t).race r) ((s.modeAt r t).fillReq f pr (f.done pr / 16) .wr))
  have hcount := (hcol.tallyRace r 2 1).tallyRace r 11 1
  rw [hcount.fillAddr, hcount.epochTag]
  have hstored := hcount.storeCell (s.fillAddr f r pr (f.done pr)) (storeWord 0 false (s.epochTag (raceHalf r)))
  rw [hstored.race]
  obtain ⟨y, b, hback, hfill, hnone⟩ := (hstored.setRace { s.race r with wmode := m, banks := k, hist := l, fill := some (f.placed pr) }).backIn t
  exact ⟨y, b, hback, hfill, fun hbacks => (hnone hbacks).1⟩

/-! ### Probes -/

theorem Train.probeDone_next (x : Train) (k j : Nat) (c : Nat × Int) (pr : Nat) : (x.probeDone k j c).next pr = x.next pr := by
  unfold Train.probeDone
  split
  · rfl
  · split
    · rfl
    · split <;> rfl

theorem Train.probeDone_cols (x : Train) (k : Nat) {j : Nat} (c : Nat × Int) (hj : probeCmd j = .wr) :
    (x.probeDone k j c).cols.find? (16 * k + c.1) = some (Config.trackPattern c.1, c.2) := by
  rw [Train.probeDone, if_pos hj]
  exact Tbl.find_ins_same _ _ _

theorem Race.dropClaim_flights (x : Race) (pr age turn slot : Nat) : (x.dropClaim pr age turn slot).flights = x.flights := by
  unfold Race.dropClaim
  dsimp only
  split
  · rfl
  · split <;> rfl

/-- Column and distance of the next probe of pr. -/
def State.probeColumn (s : State) (r pr : Nat) : Nat × Int :=
  let j := (s.race r).tr.next pr
  (s.race r).tr.probePlace (4 * pr + j / 6) j (s.fget Fld.FAN_CFG_TRK_M 0 (raceHalf r))

/-- The burst of a read probe: it carries what its column holds. -/
def State.probeFlight (s : State) (r pr t : Nat) : Flight :=
  let j := (s.race r).tr.next pr
  let c := s.probeColumn r pr
  { pr := pr, at_ := (s.tim r).strobe .rd t, mrr := false, qid := 0, kind := .probe, id := j, k := c.1, addr := 0
    word := (((s.race r).tr.cols.find? (16 * (4 * pr + j / 6) + c.1)).getD (Config.trackPattern c.1, 0)).1, off := c.2 }

theorem State.probeIssue_set (s : State) (r pr t : Nat) :
    let j := (s.race r).tr.next pr
    let c := s.probeColumn r pr
    ∃ y, RaceSet r y s (s.probeIssue r pr t) ∧ y.tr.next pr = j + 1
      ∧ y.flights = (if probeCmd j = .wr then (s.race r).flights else (s.race r).flights ++ [s.probeFlight r pr t])
      ∧ (probeCmd j = .wr → y.tr.cols.find? (16 * (4 * pr + j / 6) + c.1) = some (Config.trackPattern c.1, c.2)) := by
  obtain ⟨m, hmode⟩ := (RaceSet.refl r s).modeAt t
  unfold State.probeIssue
  dsimp only
  generalize s.modeAt r t = u at hmode ⊢
  have htr : (u.race r).tr = (s.race r).tr := (congrArg Race.tr hmode.race :)
  have hcolumn : u.probeColumn r pr = s.probeColumn r pr := by rw [State.probeColumn, State.probeColumn, htr, hmode.fget]
  have hflight : u.probeFlight r pr t = s.probeFlight r pr t := by rw [State.probeFlight, State.probeFlight, htr, hcolumn, hmode.tim]
  obtain ⟨b, l, hcol⟩ := hmode.colBank t (u.nextProbe r pr) none (conflictWaits (u.waiting r) (u.race r) (u.nextProbe r pr))
  unfold State.nextProbe at hcol
  have hcount := hcol.tallyRace r (if probeCmd ((u.race r).tr.next pr) = .wr then 2 else 1) 1
  rw [← htr, ← hcolumn, ← hflight]
  refine ⟨_, hcount.setRace _, ?_, ?_, Train.probeDone_cols _ _ _⟩
  · rw [Train.probeDone_next]
    unfold Train.next
    split <;> rfl
  · dsimp only
    rw [Race.dropClaim_flights, hcount.race, (hcount.tim r).trans (hmode.tim r).symm]
    rfl

/-! ### The obligation -/

/-- Settles O16: each command runs its issue, which sets the race's record, and for a WR a cell and the budget of a write-back. -/
theorem columnCommandsMoveData : Obligations.ColumnCommandsMoveData := by
  intro s race mc qid pr hcmd
  refine ⟨fun e he hlegal hgrant => ?_, fun w hw hlegal hgrant => ?_, fun f hf hpr hdone hlegal hgrant => ?_, fun hworks hlegal hgrant => ?_⟩
  · have hrun := exec_dramRd_queue hcmd he hlegal hgrant
    cases hq : (s.race race).rq.find? (fun o => o.qid = e.qid) with
    | some q =>
      obtain ⟨b, l, m, hset⟩ := State.rdIssue_queue (s.at mc) hq
      refine .of_exec hrun ⟨hset.intact _, rfl, hset.atRace _, fun q' hq' => ?_, fun hnone => nomatch hnone⟩
      cases hq'
      exact ⟨(congrArg Race.rq (hset.race_clk _) :), _, (congrArg Race.flights (hset.race_clk _) :), rfl, rfl, rfl, rfl, rfl, rfl, rfl⟩
    | none =>
      obtain ⟨b, l, m, hset⟩ := State.rdIssue_unit (s.at mc) hq
      refine .of_exec hrun ⟨hset.intact _, rfl, hset.atRace _, fun q' hq' => (nomatch hq'), fun _ => ?_⟩
      exact ⟨(congrArg Race.fau (hset.race_clk _) :), _, (congrArg Race.flights (hset.race_clk _) :), rfl, rfl, rfl, rfl⟩
  · have hqid : (s.wrEnt w).qid = qid := of_decide_eq_true (List.find?_some hw :)
    obtain ⟨y, b, hset, hbacks⟩ := s.wrIssue_set race (s.at mc) (s.wrEnt w) w
    obtain ⟨hpend, hfuse, hdram, hweir, hat⟩ := hset.afterWrite (s.clkAt mc)
    refine .of_exec (exec_dramWr_queue hcmd hw hlegal hgrant) ⟨hpend, hfuse, rfl, hdram, hat, fun hnone => ?_⟩
    obtain ⟨hb, hwq⟩ := hbacks hnone
    rw [hqid] at hwq
    exact ⟨hweir.trans hb, (congrArg Race.wq (hset.race_clk (s.clkAt mc))).trans hwq⟩
  · obtain ⟨y, b, hset, hfill, hbacks⟩ := s.fillIssue_set race pr (s.at mc) f
    obtain ⟨hpend, hfuse, hdram, hweir, hat⟩ := hset.afterWrite (s.clkAt mc)
    exact .of_exec (exec_dramWr_fill hcmd hf hpr hdone hlegal hgrant)
      ⟨hpend, hfuse, rfl, hdram, (congrArg Race.fill (hset.race_clk (s.clkAt mc))).trans hfill, hat, fun hnone => hweir.trans (hbacks hnone)⟩
  · obtain ⟨y, hset, hnext, hflights, hcols⟩ := s.probeIssue_set race pr (s.at mc)
    have hnext' := (congrArg (fun x : Race => x.tr.next pr) (hset.race_clk (s.clkAt mc))).trans hnext
    have hflights' := (congrArg Race.flights (hset.race_clk (s.clkAt mc))).trans hflights
    refine ⟨fun hrd => ?_, fun hwr => ?_⟩
    · have hread : probeCmd ((s.race race).tr.next pr) ≠ .wr := fun h => absurd (h.symm.trans hrd) (by decide)
      exact .of_exec (exec_probe (.inl ⟨rfl, hrd⟩) hcmd hworks hlegal hgrant)
        ⟨hset.intact _, rfl, hset.atRace _, hnext', _, hflights'.trans (if_neg hread), rfl, rfl, rfl, rfl, rfl⟩
    · exact .of_exec (exec_probe (.inr ⟨rfl, hwr⟩) hcmd hworks hlegal hgrant)
        ⟨hset.intact _, rfl, hset.atRace _, hnext', hflights'.trans (if_pos hwr),
          (congrArg (fun x : Race => x.tr.cols.find? _) (hset.race_clk (s.clkAt mc))).trans (hcols hwr)⟩

end Sys2Proof.Machine
end

section
/-! The obligation on ACT and PRE. -/
namespace Sys2Proof.Machine

variable {s t u : State} {race r mc pr sid bg bank row : Nat} {x y : Race} {n : RowReq}

/-! ### What a row command leaves -/

theorem Race.bankOf_setBank (x : Race) (n : RowReq) (b : Bank) : (x.setBank n b).bankOf n = b := Tbl.get_ins_same ..

/-- Race r of t has the banks and the history of y; the banks of the other races and the store buffers are those of s. -/
structure RowsSet (r : Nat) (y : Race) (s t : State) : Prop where
  banks : (t.race r).banks = y.banks
  hist : (t.race r).hist = y.hist
  others : OtherRaces r s t

theorem RaceSet.rowsSet (h : RaceSet r y s u) : RowsSet r y s u := by
  obtain ⟨⟨_, _, _, rfl⟩, rfl, hothers⟩ := h
  exact ⟨rfl, rfl, fun i hi => by rw [hothers i hi]; exact ⟨rfl, rfl⟩, rfl, rfl⟩

theorem RowsSet.raised (h : RowsSet r y s u) (hr : Raised u t) : RowsSet r y s t := by
  obtain ⟨hbanks, hhist, hothers, hpond, hflume⟩ := h
  have hbank (i : Nat) : (t.race i).banks = (u.race i).banks := (congrArg Race.banks (hr.races i) :)
  have hsref (i : Nat) : (t.race i).sref = (u.race i).sref := (congrArg Race.sref (hr.races i) :)
  refine ⟨(hbank r).trans hbanks, (congrArg Race.hist (hr.races r) :).trans hhist, fun i hi => ?_,
    (congrArg State.pond hr.rest :).trans hpond, (congrArg State.flume hr.rest :).trans hflume⟩
  exact ⟨(hbank i).trans (hothers i hi).1, (hsref i).trans (hothers i hi).2⟩

theorem State.setRace_rows (hbanks : y.banks = (s.race r).banks) (hhist : y.hist = (s.race r).hist) : RowsSet r (s.race r) s (s.setRace r y) := by
  obtain ⟨gbanks, ghist, gothers⟩ := ((RaceSet.refl r s).setRace y).rowsSet
  exact ⟨gbanks.trans hbanks, ghist.trans hhist, gothers⟩

theorem RowsSet.fadd (h : RowsSet r y s u) (f : Field) (k i half : Nat) : RowsSet r y s (u.fadd f k i half) := ⟨h.banks, h.hist, h.others⟩

theorem RowsSet.ite {c : Prop} [Decidable c] (hu : RowsSet r y s u) (ht : RowsSet r y s t) : RowsSet r y s (if c then u else t) := by
  split <;> assumption

theorem RowsSet.trans (h : RowsSet r y s u) (g : RowsSet r (u.race r) u t) : RowsSet r y s t := by
  obtain ⟨hbanks, hhist, hothers, hpond, hflume⟩ := h
  obtain ⟨gbanks, ghist, gothers, gpond, gflume⟩ := g
  exact ⟨gbanks.trans hbanks, ghist.trans hhist, fun i hi => ⟨(gothers i hi).1.trans (hothers i hi).1, (gothers i hi).2.trans (hothers i hi).2⟩,
    gpond.trans hpond, gflume.trans hflume⟩

theorem RowsSet.bankOf (h : RowsSet r y s t) (n : RowReq) : (t.race r).bankOf n = y.bankOf n :=
  congrArg (fun b : Tbl Bank => b.get {} (bankNo n.pr n.sid n.bg n.bank)) h.banks

/-! ### ACT (R149, R193 to R195) -/

/-- The bank of an ACT: opened for o, with an RFM asked for or its urgency arisen. -/
def Bank.opened (b : Bank) (row t : Nat) (o : Option Nat) (ask urg : Bool) : Bank :=
  { b with row := some row, actAt := t, used := false, opener := o, hits := 0, raa := min (b.raa + 1) 255, rfmReq := b.rfmReq || ask
           urgRfm := b.urgRfm || urg, trk := track b.trk row }

/-- The next ACT of the bank brings it to RFM_TH (R193). -/
def State.rfmDue (s : State) (r : Nat) (b : Bank) : Bool :=
  s.fb Fld.RACE_REF_CFG_RFM_EN r && decide (min (b.raa + 1) 255 ≥ s.fget Fld.RACE_REF_CFG_RFM_TH r)

/-- The record of a race after an ACT: mode, opener, urgency and the queue of RFMs are as the race's state gives them. -/
def Race.acted (x : Race) (n : RowReq) (t : Nat) (m : Bool) (o : Option Nat) (due urg : Bool) (q : List (Nat × Nat × Nat)) : Race :=
  let b := x.bankOf n
  Race.issue { ({ x with wmode := m } : Race).setBank n (b.opened n.row t o (due && !b.rfmReq) urg) with rfmQ := q, idleSince := none } n t 0

theorem Race.bankOf_acted (x : Race) (n : RowReq) (t : Nat) (m : Bool) (o : Option Nat) (due urg : Bool) (q : List (Nat × Nat × Nat)) :
    (x.acted n t m o due urg q).bankOf n = (x.bankOf n).opened n.row t o (due && !(x.bankOf n).rfmReq) urg :=
  Race.bankOf_setBank ..

/-- An ACT sets the race's record, and where RAA_MAX is reached an urgent RFM arises with it. -/
theorem State.actBank_acted (s : State) (r t : Nat) (n : RowReq) :
    ∃ m o urg q u, RaceSet r ((s.race r).acted n t m o (s.rfmDue r ((s.race r).bankOf n)) urg q) s u
      ∧ s.actBank r t n = (if urg then u.urgArises r n.pr else u) ∧ (s.fb Fld.RACE_REF_CFG_RFM_EN r = false → urg = false) := by
  obtain ⟨m, hmode⟩ := (RaceSet.refl r s).modeAt t
  unfold State.actBank
  extract_lets s₁ x b raa want ask urg k b' src x' u
  have hx : x = { s.race r with wmode := m } := hmode.race
  have hwant : want = s.rfmDue r ((s.race r).bankOf n) := by
    simp only [want, raa, b, hx, State.rfmDue, State.fb, s₁, hmode.fget]
    rfl
  refine ⟨m, s₁.openerOf r t n, urg, x'.rfmQ, u, ?_, rfl, fun hoff => ?_⟩
  · rw [← hwant]
    have hset := (hmode.setRace (x'.issue n t 0)).tallyRace r 0 1
    have hrec : x'.issue n t 0 = (s.race r).acted n t m (s₁.openerOf r t n) want urg x'.rfmQ := by
      simp only [x', src, b', ask, raa, b, hx]
      rfl
    exact hrec ▸ hset
  · simp [urg, hwant, State.rfmDue, hoff]

/-- An urgent refresh that arises is counted in the race, and RACE_REF may be raised. -/
theorem State.urgArises_rows (s : State) (r pr : Nat) : RowsSet r (s.race r) s (s.urgArises r pr) := by
  unfold State.urgArises
  extract_lets x k s₁
  have hset : RowsSet r (s.race r) s s₁ := State.setRace_rows rfl rfl
  exact ((hset.fadd ..).raised (State.raise_raised ..)).ite hset

/-- What an ACT leaves: its race's record in banks and history, the others' banks, and with RFM_EN 0 nothing else changed. -/
theorem State.actBank_rows (s : State) (r t : Nat) (n : RowReq) :
    ∃ m o urg q, RowsSet r ((s.race r).acted n t m o (s.rfmDue r ((s.race r).bankOf n)) urg q) s (s.actBank r t n)
      ∧ (s.fb Fld.RACE_REF_CFG_RFM_EN r = false → ∀ c, AtRace r s { s.actBank r t n with clk := c }) := by
  obtain ⟨m, o, urg, q, u, hset, hrun, hoff⟩ := s.actBank_acted r t n
  refine ⟨m, o, urg, q, ?_, fun hen c => ?_⟩
  · rw [hrun]
    cases urg with
    | true => exact hset.rowsSet.trans (u.urgArises_rows r n.pr)
    | false => exact hset.rowsSet
  · rw [hrun, hoff hen]
    exact hset.atRace c

theorem exec_dramAct (hcmd : s.raceCmd race = true) (hlegal : s.legal race (s.at mc) ⟨.act, pr, sid, bg, bank, row⟩ = true)
    (hgrant : s.rowGranted race (s.at mc) ⟨.act, pr, sid, bg, bank, row⟩ = true) :
    exec (.dramAct race mc pr sid bg bank row) s
      = .next { s.actBank race (s.at mc) ⟨.act, pr, sid, bg, bank, row⟩ with clk := s.clkAt mc } :=
  congrArg Host.Outcome.next (when_true (by simp [hcmd, hlegal, hgrant]) _ s)

/-! ### PRE (R149, R157) -/

/-- A bank whose row is closed. -/
def Bank.closed (b : Bank) : Bank := { b with row := none, hits := 0, used := false, opener := none }

theorem RaceSet.pdNote (h : RaceSet r y s u) (t : Nat) : ∃ i, RaceSet r { y with idleSince := i } s (u.pdNote r t) := by
  obtain ⟨hrest, rfl, hothers⟩ := h
  exact ⟨_, RaceSet.setRace ⟨hrest, rfl, hothers⟩ _⟩

theorem State.preBank_set (s : State) (r t : Nat) (n : RowReq) :
    ∃ m i, RaceSet r { (({ s.race r with wmode := m } : Race).setBank n ((s.race r).bankOf n).closed).issue n t 0 with idleSince := i } s
      (s.preBank r t n) := by
  obtain ⟨m, hmode⟩ := (RaceSet.refl r s).modeAt t
  unfold State.preBank
  dsimp only
  rw [hmode.race]
  exact ⟨m, (hmode.setRace _).pdNote t⟩

/-- The row bus has granted the PRE for this mc, or the race picks a PRE of the bank. -/
def State.preGranted (s : State) (race t : Nat) (n : RowReq) : Prop :=
  (∃ g, (s.race race).grantR.find? (fun g => g.2 = t) = some g ∧ ({ g.1 with row := 0 } : RowReq) = n)
    ∨ ((s.race race).grantR.find? (fun g => g.2 = t) = none
      ∧ ∃ m, s.pickRow race t = some m ∧ m.cmd = .pre ∧ bankNo m.pr m.sid m.bg m.bank = bankNo n.pr n.sid n.bg n.bank)

theorem exec_dramPre (hcmd : s.raceCmd race = true) (hlegal : s.legal race (s.at mc) ⟨.pre, pr, sid, bg, bank, 0⟩ = true)
    (hgrant : s.preGranted race (s.at mc) ⟨.pre, pr, sid, bg, bank, 0⟩) :
    exec (.dramPre race mc pr sid bg bank) s = .next { s.preBank race (s.at mc) ⟨.pre, pr, sid, bg, bank, 0⟩ with clk := s.clkAt mc } := by
  change Host.Outcome.next _ = _
  obtain ⟨g, hg, hn⟩ | ⟨hg, m, hm, hpre, hbank⟩ := hgrant
  · simp only [hcmd, hlegal, hg, hn, decide_true, Bool.and_self, when_true]
  · simp only [hcmd, hlegal, hg, hm, hpre, hbank, decide_true, Bool.and_self, when_true]

/-! ### The obligation -/

/-- Settles O15: an ACT and a PRE set their race's record; only an RFM that has become urgent reaches further, by a raise. -/
theorem rowCommandsOpenAndClose : Obligations.RowCommandsOpenAndClose := by
  intro s race mc pr sid bg bank row hcmd
  refine ⟨?act, ?pre⟩
  case act =>
    intro n b raa hlegal hgrant
    have hrun := exec_dramAct hcmd hlegal hgrant
    obtain ⟨m, o, urg, q, hrows, hat⟩ := s.actBank_rows race (s.at mc) n
    have hbank := (hrows.bankOf n).trans (Race.bankOf_acted ..)
    have hrfm := congrArg Bank.rfmReq hbank
    refine .of_exec hrun ⟨exec_intact hrun rfl rfl, rfl, congrArg List.head? hrows.hist, hrows.others, fun hoff => hat hoff _, (congrArg Bank.row hbank :),
      (congrArg Bank.actAt hbank :), (congrArg Bank.raa hbank :), (congrArg Bank.hits hbank :), (congrArg Bank.used hbank :),
      (congrArg Bank.trk hbank :), hrfm.trans ?_⟩
    show (b.rfmReq || (s.rfmDue race b && !b.rfmReq)) = (b.rfmReq || s.rfmDue race b)
    cases b.rfmReq <;> simp
  case pre =>
    intro n hlegal hgrant
    have hrun := exec_dramPre hcmd hlegal hgrant
    obtain ⟨m, i, hset⟩ := s.preBank_set race (s.at mc) n
    have hrace := hset.race_clk (s.clkAt mc)
    exact .of_exec hrun ⟨hset.intact _, rfl, (congrArg (fun x : Race => x.hist.head?) hrace :), hset.atRace _,
      (congrArg (fun x : Race => x.bankOf n) hrace).trans (Race.bankOf_setBank ..)⟩

end Sys2Proof.Machine
end

section
/-! The obligation on power-down and the mode-register port. -/
namespace Sys2Proof.Machine

variable {s t u : State} {race r mc k : Nat} {y : Race}

/-! ### A race's record and one register -/

theorem State.fset_sameBut (s : State) (f : Field) (v i h : Nat) : s.regs.SameBut (f.reg.key i h) (s.fset f v i h).regs := by
  unfold State.fset State.regsF regsPut
  dsimp only
  split
  · exact Tbl.sameBut_del _ _
  · exact Tbl.sameBut_ins _ _ _

/-- u is s with record y at race r, and another word in the register at k. -/
structure PortSet (r : Nat) (y : Race) (k : Nat) (s u : State) : Prop where
  rest : ∃ races g, u = { s with races := races, regs := g }
  race : u.race r = y
  others : ∀ i, i ≠ r → u.race i = s.race i
  regs : s.regs.SameBut k u.regs

theorem PortSet.refl (r k : Nat) (s : State) : PortSet r (s.race r) k s s := ⟨⟨_, _, rfl⟩, rfl, fun _ _ => rfl, .refl _ _⟩

theorem PortSet.setRace (h : PortSet r y k s u) (z : Race) : PortSet r z k s (u.setRace r z) := by
  obtain ⟨⟨_, _, rfl⟩, -, hothers, hregs⟩ := h
  exact ⟨⟨_, _, rfl⟩, State.race_setRace .., fun i hi => (State.race_setRace_other _ _ _ _ hi).trans (hothers i hi), hregs⟩

theorem PortSet.fset {f : Field} {i h : Nat} (hu : PortSet r y (f.reg.key i h) s u) (v : Nat) : PortSet r y (f.reg.key i h) s (u.fset f v i h) := by
  obtain ⟨⟨_, _, rfl⟩, hrace, hothers, hregs⟩ := hu
  exact ⟨⟨_, _, rfl⟩, hrace, hothers, hregs.trans (State.fset_sameBut _ f v i h)⟩

theorem PortSet.wf (h : PortSet r y k s u) (hw : s.regs.wf = true) : u.regs.wf = true := (h.regs hw).1

theorem PortSet.clk (h : PortSet r y k s u) : u.clk = s.clk := by
  obtain ⟨⟨_, _, rfl⟩, -⟩ := h
  rfl

theorem PortSet.atRace (h : PortSet r y k s u) : AtRace r { s with regs := u.regs } u := by
  obtain ⟨⟨_, _, rfl⟩, -, hothers, -⟩ := h
  exact ⟨rfl, hothers⟩

theorem PortSet.atRace_clk (h : PortSet r y k s u) (c : Clk) : AtRace r { s with regs := u.regs } { u with clk := c } := by
  obtain ⟨⟨_, _, rfl⟩, -, hothers, -⟩ := h
  exact ⟨rfl, hothers⟩

theorem PortSet.find (h : PortSet r y k s u) (hw : s.regs.wf = true) : ∀ i, i ≠ k → u.regs.find? i = s.regs.find? i := (h.regs hw).2

/-! ### Power-down (R172, R273) -/

/-- s with the race in power-down from t on: TRACK is left. -/
def State.pdEntered (s : State) (race t : Nat) : State :=
  let u := s.setRace race { (s.race race).issue { cmd := .pde } t 0 with pd := some t }
  if u.fheld Fld.SPIN_STAT_STATE race = 2 then u.fset Fld.SPIN_STAT_STATE 6 race else u

/-- s with the race out of power-down. -/
def State.pdLeft (s : State) (race t : Nat) : State :=
  s.setRace race { (s.race race).issue { cmd := .pdx } t 0 with pd := none }

/-- Tracking is taken up again: a new round, with every count at zero. -/
def State.tracked (s : State) (race : Nat) : State :=
  (s.setRace race { s.race race with tr := (s.race race).tr.restart s.clk.age }).fset Fld.SPIN_STAT_STATE 2 race

/-- Tracking is due to restart: SPIN_STAT was idle, and tracking runs. -/
def State.trackDue (s : State) (race : Nat) : Bool := s.fheld Fld.SPIN_STAT_STATE race = 6 && s.trackState race = 2

/-- s after a PDX at t. -/
def State.pdExited (s : State) (race t : Nat) : State :=
  if (s.pdLeft race t).trackDue race then (s.pdLeft race t).tracked race else s.pdLeft race t

theorem exec_pde (hcmd : s.raceCmd race = true) (hlegal : s.legal race (s.at mc) { cmd := .pde } = true)
    (hgrant : s.rowGranted race (s.at mc) { cmd := .pde } = true) :
    exec (.pde race mc) s = .next { s.pdEntered race (s.at mc) with clk := s.clkAt mc } := by
  change Host.Outcome.next _ = _
  simp only [hcmd, hlegal, hgrant, Bool.and_self, when_true]
  rfl

theorem exec_pdx (hcmd : s.raceCmd race = true) (hdue : s.pdxDue race = true) (hlegal : s.legal race (s.at mc) { cmd := .pdx } = true)
    (hgrant : s.rowGranted race (s.at mc) { cmd := .pdx } = true) :
    exec (.pdx race mc) s = .next { s.pdExited race (s.at mc) with clk := s.clkAt mc } := by
  have hok : (s.raceCmd race && s.pdxDue race && s.legal race (s.at mc) { cmd := .pdx } && s.rowGranted race (s.at mc) { cmd := .pdx }) = true := by
    simp [hcmd, hdue, hlegal, hgrant]
  have hclk : s.clkAt mc = (s.pdExited race (s.at mc)).clkAt mc := by
    unfold State.pdExited
    split <;> rfl
  rw [hclk]
  exact congrArg Host.Outcome.next (when_true hok _ s)

/-- A race that is due for power-down tracks or is idle. -/
theorem State.pdeDue_state (h : s.pdeDue race (s.at mc) = true) : s.fheld Fld.SPIN_STAT_STATE race = 2 ∨ s.fheld Fld.SPIN_STAT_STATE race = 6 := by
  simp only [State.pdeDue, State.serves, Bool.and_eq_true, Bool.or_eq_true, decide_eq_true_eq] at h
  tauto

theorem State.pdEntered_set (s : State) (race t : Nat) :
    PortSet race { (s.race race).issue { cmd := .pde } t 0 with pd := some t } (Reg.key .SPIN_STAT race 0) s (s.pdEntered race t) := by
  have hset := (PortSet.refl race (Fld.SPIN_STAT_STATE.reg.key race 0) s).setRace { (s.race race).issue { cmd := .pde } t 0 with pd := some t }
  unfold State.pdEntered
  dsimp only
  split
  · exact hset.fset 6
  · exact hset

theorem State.pdEntered_state (hw : s.regs.wf = true) (h : s.fheld Fld.SPIN_STAT_STATE race = 2 ∨ s.fheld Fld.SPIN_STAT_STATE race = 6) (t : Nat) :
    (s.pdEntered race t).fheld Fld.SPIN_STAT_STATE race = 6 := by
  have hheld : (s.setRace race { (s.race race).issue { cmd := .pde } t 0 with pd := some t }).fheld Fld.SPIN_STAT_STATE race
      = s.fheld Fld.SPIN_STAT_STATE race := rfl
  unfold State.pdEntered
  dsimp only
  rw [hheld]
  split
  · exact State.fheld_fset _ _ _ _ _ hw (by decide)
  · next h2 => exact hheld.trans (h.resolve_left h2)

theorem State.pdLeft_set (s : State) (race t k : Nat) :
    PortSet race { (s.race race).issue { cmd := .pdx } t 0 with pd := none } k s (s.pdLeft race t) := (PortSet.refl race k s).setRace _

theorem PortSet.tracked (h : PortSet race y (Reg.key .SPIN_STAT race 0) s u) :
    PortSet race { y with tr := y.tr.restart s.clk.age } (Reg.key .SPIN_STAT race 0) s (u.tracked race) := by
  have hset := (h.setRace { u.race race with tr := (u.race race).tr.restart u.clk.age }).fset (f := Fld.SPIN_STAT_STATE) 2
  rw [h.race, h.clk] at hset
  rw [State.tracked, h.race, h.clk]
  exact hset

theorem State.tracked_state (hw : s.regs.wf = true) (race : Nat) : (s.tracked race).fheld Fld.SPIN_STAT_STATE race = 2 :=
  State.fheld_fset _ _ _ _ _ hw (by decide)

/-- Tracking goes on where it is enabled, the race in service and out of power-down, and a SID out of self-refresh. -/
theorem State.trackState_on (hen : s.fheld Fld.FAN_CFG_TRACK_EN 0 (raceHalf race) = 1) (hpd : (s.race race).pd = none)
    (hiso : s.isolated race = false) (hsid : ∃ sd, sd < s.nsid ∧ (s.race race).sref.get false sd = false) : s.trackState race = 2 := by
  obtain ⟨sd, hsd, hout⟩ := hsid
  have hany : ((List.range s.nsid).any fun sd => !(s.race race).sref.get false sd) = true :=
    List.any_eq_true.mpr ⟨sd, List.mem_range.mpr hsd, by simp [hout]⟩
  simp [State.trackState, hen, hpd, hiso, hany]

theorem State.raceCmd_isolated (h : s.raceCmd race = true) : s.isolated race = false := by
  simp only [State.raceCmd, State.raceRuns, Bool.and_eq_true, Bool.not_eq_true'] at h
  exact h.2.1.2

/-- The conditions under which tracking restarts at PDX. -/
theorem State.pdLeft_tracks (hcmd : s.raceCmd race = true) (hstate : s.fheld Fld.SPIN_STAT_STATE race = 6)
    (hen : s.fheld Fld.FAN_CFG_TRACK_EN 0 (raceHalf race) = 1) (hsid : ∃ sd, sd < s.nsid ∧ (s.race race).sref.get false sd = false) (t : Nat) :
    (s.pdLeft race t).trackDue race = true := by
  have hrace : (s.pdLeft race t).race race = { (s.race race).issue { cmd := .pdx } t 0 with pd := none } := State.race_setRace ..
  have hheld : (s.pdLeft race t).fheld Fld.SPIN_STAT_STATE race = 6 := hstate
  have hon : (s.pdLeft race t).trackState race = 2 :=
    State.trackState_on hen (by rw [hrace]) (by rw [State.isolated, hrace]; exact State.raceCmd_isolated hcmd) (by rw [hrace]; exact hsid)
  simp [State.trackDue, hheld, hon]

/-- What a PDX leaves: the race out of power-down, and tracking restarted where it is due. -/
theorem State.pdExited_set (hw : s.regs.wf = true) (hcmd : s.raceCmd race = true) (t : Nat) :
    ∃ y, PortSet race y (Reg.key .SPIN_STAT race 0) s (s.pdExited race t)
      ∧ y.hist.head? = some ⟨t, .pdx, 0, 0, 0, 0, 0⟩ ∧ y.pd = none
      ∧ (s.fheld Fld.SPIN_STAT_STATE race = 6 → s.fheld Fld.FAN_CFG_TRACK_EN 0 (raceHalf race) = 1 →
          (∃ sd, sd < s.nsid ∧ (s.race race).sref.get false sd = false) →
          (s.pdExited race t).fheld Fld.SPIN_STAT_STATE race = 2 ∧ ((s.pdExited race t).race race).tr.failing = {}
            ∧ ((s.pdExited race t).race race).tr.roundAt = s.clk.age) := by
  have hleft := s.pdLeft_set race t (Reg.key .SPIN_STAT race 0)
  by_cases hon : (s.pdLeft race t).trackDue race = true
  · rw [State.pdExited, if_pos hon]
    have hset := hleft.tracked
    have hstate := State.tracked_state (hleft.wf hw) race
    exact ⟨_, hset, rfl, rfl, fun _ _ _ => ⟨hstate, congrArg (fun x : Race => x.tr.failing) hset.race, congrArg (fun x : Race => x.tr.roundAt) hset.race⟩⟩
  · rw [State.pdExited, if_neg hon]
    exact ⟨_, hleft, rfl, rfl, fun hstate hen hsid => absurd (State.pdLeft_tracks hcmd hstate hen hsid t) hon⟩

/-! ### The mode-register port (R173) -/

/-- s with the fields of a mode-register command that has ended with a result. -/
def State.mrClosed (s : State) (race result : Nat) : State :=
  ((s.fset Fld.RACE_MR_CMD_RESULT result race).fset Fld.RACE_MR_CMD_GO 0 race).fset Fld.RACE_MR_CMD_BUSY 0 race

theorem State.mrEnd_eq (s : State) (race result : Nat) : s.mrEnd race result =
    (s.mrClosed race result).setRace race { (s.mrClosed race result).race race with mrAt := none, mrIssued := false } := rfl

theorem PortSet.mrEnd (h : PortSet race y (Reg.key .RACE_MR_CMD race 0) s u) (result : Nat) :
    PortSet race { y with mrAt := none, mrIssued := false } (Reg.key .RACE_MR_CMD race 0) s (u.mrEnd race result) := by
  have hset : PortSet race y (Reg.key .RACE_MR_CMD race 0) s (u.mrClosed race result) :=
    ((h.fset (f := Fld.RACE_MR_CMD_RESULT) result).fset (f := Fld.RACE_MR_CMD_GO) 0).fset (f := Fld.RACE_MR_CMD_BUSY) 0
  rw [State.mrEnd_eq, hset.race]
  exact hset.setRace _

theorem State.clk_fheld (s : State) (c : Clk) (f : Field) (i h : Nat) : ({ s with clk := c } : State).fheld f i h = s.fheld f i h := rfl

theorem State.setRace_fheld (s : State) (r : Nat) (x : Race) (f : Field) (i h : Nat) : (s.setRace r x).fheld f i h = s.fheld f i h := rfl

/-- Three fields of one register written one after the other read back. -/
theorem State.fset_thrice (hw : s.regs.wf = true) {e f g : Field} {a b c i h : Nat} (hef : e.reg = f.reg) (heg : e.reg = g.reg) (hfg : f.reg = g.reg)
    (he : e.lo + e.w ≤ 64) (hf : f.lo + f.w ≤ 64) (hg : g.lo + g.w ≤ 64) (aef : e.apart f) (aeg : e.apart g) (afg : f.apart g) :
    let u := ((s.fset e a i h).fset f b i h).fset g c i h
    u.fheld e i h = a % 2 ^ e.w ∧ u.fheld f i h = b % 2 ^ f.w ∧ u.fheld g i h = c % 2 ^ g.w := by
  have hw₁ := s.fset_wf e a i h hw
  have hw₂ := State.fset_wf _ f b i h hw₁
  refine ⟨?_, ?_, State.fheld_fset _ _ _ _ _ hw₂ hg⟩
  · rw [State.fheld_fset_field _ _ _ _ _ _ hw₂ heg he aeg, State.fheld_fset_field _ _ _ _ _ _ hw₁ hef he aef, State.fheld_fset _ _ _ _ _ hw he]
  · rw [State.fheld_fset_field _ _ _ _ _ _ hw₂ hfg hf afg, State.fheld_fset _ _ _ _ _ hw₁ hf]

theorem State.mrClosed_fields (hw : s.regs.wf = true) (race result : Nat) :
    (s.mrClosed race result).fheld Fld.RACE_MR_CMD_RESULT race = result % 2 ^ 2
      ∧ (s.mrClosed race result).fheld Fld.RACE_MR_CMD_GO race = 0 % 2 ^ 1 ∧ (s.mrClosed race result).fheld Fld.RACE_MR_CMD_BUSY race = 0 % 2 ^ 1 := by
  unfold State.mrClosed
  exact State.fset_thrice hw rfl rfl rfl (by decide) (by decide) (by decide) (.inl (by decide)) (.inl (by decide)) (.inr (by decide))

theorem State.mrEnd_fields (hw : s.regs.wf = true) (race result : Nat) :
    (s.mrEnd race result).fheld Fld.RACE_MR_CMD_RESULT race = result % 4 ∧ (s.mrEnd race result).fheld Fld.RACE_MR_CMD_GO race = 0
      ∧ (s.mrEnd race result).fheld Fld.RACE_MR_CMD_BUSY race = 0 := by
  obtain ⟨hresult, hgo, hbusy⟩ := s.mrClosed_fields hw race result
  have hend := s.mrEnd_eq race result
  generalize s.mrClosed race result = u at hresult hgo hbusy hend
  rw [hend, State.setRace_fheld, State.setRace_fheld, State.setRace_fheld]
  exact ⟨hresult, hgo.trans (Nat.zero_mod _), hbusy.trans (Nat.zero_mod _)⟩

/-- s with command n of the port issued. -/
def State.mrIssue (s : State) (race t : Nat) : State := s.setRace race ((s.race race).issue (s.mrReq race) t 0)

/-- The burst of an MRR. -/
def State.mrFlight (s : State) (race t : Nat) : Flight :=
  { pr := (s.mrReq race).pr, at_ := (s.tim race).strobe .mrr t, mrr := true, qid := 0, kind := .probe, id := 0, k := 0, addr := 0 }

theorem exec_mrw (hcmd : s.raceCmd race = true) (hwaits : s.mrWaits race = true) (hlegal : s.legal race (s.at mc) (s.mrReq race) = true)
    (hmrw : (s.mrReq race).cmd = .mrw) (hgrant : s.rowGranted race (s.at mc) (s.mrReq race) = true) :
    exec (.mrw race mc) s = .next { (s.mrIssue race (s.at mc)).mrEnd race 0 with clk := s.clkAt mc } :=
  congrArg Host.Outcome.next (when_true (by simp [hcmd, hwaits, hlegal, hmrw, hgrant]) _ s)

theorem exec_mrr (hcmd : s.raceCmd race = true) (hworks : s.works race = true) (hwaits : s.mrWaits race = true)
    (hlegal : s.legal race (s.at mc) (s.mrReq race) = true) (hmrr : (s.mrReq race).cmd = .mrr)
    (hgrant : s.colGranted race (s.mrReq race).pr (s.at mc) .mr = true) :
    exec (.mrr race mc) s = .next { s.setRace race { (s.race race).issue (s.mrReq race) (s.at mc) ((s.tim race).dataAt .mrr (s.at mc)) with
      flights := (s.race race).flights ++ [s.mrFlight race (s.at mc)], mrIssued := true } with clk := s.clkAt mc } :=
  congrArg Host.Outcome.next (when_true (by simp [hcmd, hworks, hwaits, hlegal, hmrr, hgrant]) _ s)

theorem exec_mrCmdTimeout {a : Nat} (hrace : race < 32) (hwaits : s.mrWaits race = true) (hat : (s.race race).mrAt = some a)
    (hold : s.clk.age ≥ a + 64) : exec (.mrCmdTimeout race) s = .next (s.mrEnd race 1) :=
  congrArg Host.Outcome.next (when_true (by simp [hrace, hwaits, hat, hold]) _ s)

/-! ### The obligation -/

/-- Settles O19: each command sets its race's record and the fields of one register. -/
theorem portCommandsEnd : Obligations.PortCommandsEnd := by
  intro s race mc hw hrace
  refine ⟨?pde, ?pdx, ?port, ?timeout⟩
  case pde =>
    intro n hcmd hdue hlegal hgrant
    have hrun := exec_pde hcmd hlegal hgrant
    have hset := s.pdEntered_set race (s.at mc)
    have hstate := State.pdEntered_state hw (State.pdeDue_state hdue) (s.at mc)
    generalize s.pdEntered race (s.at mc) = u at hrun hset hstate
    exact .of_exec hrun ⟨rfl, congrArg (fun x : Race => x.hist.head?) hset.race, hset.atRace_clk _, congrArg Race.pd hset.race, hset.find hw,
      (State.clk_fheld ..).trans hstate⟩
  case pdx =>
    intro n hcmd hdue hlegal hgrant
    obtain ⟨y, hset, hhist, hpd, htrack⟩ := s.pdExited_set hw hcmd (s.at mc)
    have hrun := exec_pdx hcmd hdue hlegal hgrant
    generalize s.pdExited race (s.at mc) = u at hrun hset htrack
    refine .of_exec hrun ⟨rfl, (congrArg (fun x : Race => x.hist.head?) hset.race).trans hhist, hset.atRace_clk _,
      (congrArg Race.pd hset.race).trans hpd, hset.find hw, fun hstate hen hsid => ?_⟩
    obtain ⟨htwo, hround⟩ := htrack hstate hen hsid
    exact ⟨(State.clk_fheld ..).trans htwo, hround⟩
  case port =>
    intro n hcmd hwaits hlegal
    refine ⟨fun hmrw hgrant => ?mrw, fun hmrr hworks hgrant => ?mrr⟩
    case mrw =>
      have hissue : PortSet race ((s.race race).issue (s.mrReq race) (s.at mc) 0) (Reg.key .RACE_MR_CMD race 0) s (s.mrIssue race (s.at mc)) :=
        (PortSet.refl ..).setRace _
      have hrun := exec_mrw hcmd hwaits hlegal hmrw hgrant
      have hset := hissue.mrEnd 0
      obtain ⟨hresult, hgo, hbusy⟩ := State.mrEnd_fields (hissue.wf hw) race 0
      generalize (s.mrIssue race (s.at mc)).mrEnd race 0 = u at hrun hset hresult hgo hbusy
      exact .of_exec hrun ⟨rfl, congrArg (fun x : Race => x.hist.head?) hset.race, hset.atRace_clk _, hset.find hw, congrArg Race.mrAt hset.race,
        (State.clk_fheld ..).trans hresult, (State.clk_fheld ..).trans hbusy, (State.clk_fheld ..).trans hgo⟩
    case mrr =>
      have hset := (RaceSet.refl race s).setRace { (s.race race).issue n (s.at mc) ((s.tim race).dataAt .mrr (s.at mc)) with
        flights := (s.race race).flights ++ [s.mrFlight race (s.at mc)], mrIssued := true }
      have hnow := hset.race_clk (s.clkAt mc)
      exact .of_exec (exec_mrr hcmd hworks hwaits hlegal hmrr hgrant) ⟨hset.intact _, rfl, hset.atRace _, congrArg Race.mrIssued hnow,
        s.mrFlight race (s.at mc), congrArg Race.flights hnow, rfl, rfl, rfl⟩
  case timeout =>
    intro a hwaits hat hold
    have hrun := exec_mrCmdTimeout hrace hwaits hat hold
    have hset := (PortSet.refl race (Reg.key .RACE_MR_CMD race 0) s).mrEnd 1
    obtain ⟨hresult, hgo, hbusy⟩ := State.mrEnd_fields hw race 1
    generalize s.mrEnd race 1 = u at hrun hset hresult hgo hbusy
    exact .of_exec hrun ⟨hset.clk, hset.atRace, hset.find hw, congrArg Race.mrAt hset.race, hresult, hbusy, hgo⟩

end Sys2Proof.Machine
end

section
/-!
SUPPORT. What the reports, repairs and write-backs that follow a decode leave: the bursts under way, the counts of missing strobes and RACE_ERR.
-/
namespace Sys2Proof.Machine

variable {s t u : State} {r : Nat} {x y : Race}

/-- The bursts under way on a race, and what it counts of missing ones (R174). -/
structure Strobes where
  flights : List Flight
  missA : Nat
  missB : Nat
  tmoA : Bool
  tmoB : Bool

def Race.strobes (x : Race) : Strobes := { flights := x.flights, missA := x.missA, missB := x.missB, tmoA := x.tmoA, tmoB := x.tmoB }

/-- The strobes of every race stand in t, and RACE_ERR of every race. -/
structure StrobesStand (s t : State) : Prop where
  races : ∀ i, (t.race i).strobes = (s.race i).strobes
  err : s.regs.wf = true → t.regs.wf = true ∧ ∀ i, i < 32 → t.raw .RACE_ERR (Reg.key .RACE_ERR i 0) = s.raw .RACE_ERR (Reg.key .RACE_ERR i 0)

theorem StrobesStand.refl (s : State) : StrobesStand s s := ⟨fun _ => rfl, fun hw => ⟨hw, fun _ _ => rfl⟩⟩

theorem StrobesStand.trans (h : StrobesStand s t) (g : StrobesStand t u) : StrobesStand s u := by
  refine ⟨fun i => (g.races i).trans (h.races i), fun hw => ?_⟩
  obtain ⟨hwt, ht⟩ := h.err hw
  obtain ⟨hwu, hu⟩ := g.err hwt
  exact ⟨hwu, fun i hi => (hu i hi).trans (ht i hi)⟩

theorem StrobesStand.ite {c : Prop} [Decidable c] (ht : StrobesStand s t) (hu : StrobesStand s u) : StrobesStand s (if c then t else u) := by
  split <;> assumption

theorem StrobesStand.each {α : Type} {f : α → State → State} (hf : ∀ a v, StrobesStand v (f a v)) (l : List α) (s : State) :
    StrobesStand s (each l f s) := by
  unfold Machine.each
  induction l generalizing s with
  | nil => exact .refl s
  | cons a l ih => exact (hf a s).trans (ih (f a s))

/-! ### Changes of one part -/

/-- A change of neither the races nor the registers. -/
theorem StrobesStand.elsewhere (hraces : t.races = s.races) (hregs : t.regs = s.regs) (hld : t.ld = s.ld) : StrobesStand s t := by
  refine ⟨fun i => by rw [State.race, hraces]; rfl, fun hw => ⟨hregs ▸ hw, fun i _ => ?_⟩⟩
  rw [State.raw, hregs, hld]
  rfl

theorem State.setRace_strobes (s : State) (h : y.strobes = (s.race r).strobes) : StrobesStand s (s.setRace r y) := by
  refine ⟨fun i => ?_, fun hw => ⟨hw, fun _ _ => rfl⟩⟩
  rw [State.setRace_races_at]
  split
  · next hi => rw [hi, h]
  · rfl

theorem State.modeLatch_strobes (s : State) (r : Nat) : StrobesStand s (s.modeLatch r) := s.setRace_strobes rfl

/-- No RACE_ERR of a race is at offset k. -/
def offRaceErr (k : Nat) : Prop := k % 0x10000 ≠ 0x208 ∨ 0xA00000 ≤ k

theorem offRaceErr.key_ne {k i : Nat} (h : offRaceErr k) (hi : i < 32) : Reg.key .RACE_ERR i 0 ≠ k := by
  have hkey : Reg.key .RACE_ERR i 0 = 0x800208 + i * 0x10000 + 0 := rfl
  unfold offRaceErr at h
  omega

theorem State.setRaw_strobes (s : State) (q : Reg) {k : Nat} (w : Word) (h : offRaceErr k) : StrobesStand s (s.setRaw q k w) :=
  ⟨fun _ => rfl, fun hw => ⟨State.setRaw_wf _ _ _ _ hw, fun _ hi => State.raw_setRaw_other _ _ _ _ _ _ hw (h.key_ne hi)⟩⟩

theorem State.fset_strobes (s : State) {f : Field} {i h : Nat} (v : Nat) (hk : offRaceErr (f.reg.key i h)) : StrobesStand s (s.fset f v i h) :=
  s.setRaw_strobes _ _ hk

/-- What the Brake does. -/
theorem Raised.strobes (h : Raised s t) : StrobesStand s t := by
  refine ⟨fun i => (congrArg Race.strobes (h.races i) :), fun hw => ?_⟩
  obtain ⟨hwt, hraw⟩ := h.regs hw
  refine ⟨hwt, fun i hi => hraw _ _ (fun half => ?_) (fun j => ?_) ?_ ?_⟩
  all_goals have herr : Reg.key .RACE_ERR i 0 = 0x800208 + i * 0x10000 + 0 := rfl
  · have hfan : Reg.key .FAN_CTRL 0 half = 0xA00008 + 0 + half * 0x80000 := rfl
    omega
  · have hspin : Reg.key .SPIN_STAT j 0 = 0x800800 + j * 0x10000 + 0 := rfl
    omega
  · have hwake : Reg.key .GOV_WAKE 0 0 = 0xD00030 := rfl
    omega
  · omega

theorem State.raise_strobes (s : State) (src inst detail : Nat) : StrobesStand s (s.raise src inst detail) := (s.raise_raised ..).strobes

theorem OnlyAnswers.strobes (h : OnlyAnswers s t) : StrobesStand s t := by
  obtain ⟨_, _, _, _, rfl⟩ := h
  exact .elsewhere rfl rfl rfl

/-! ### Registers that the reports write -/

theorem qrnCnt_off (race : Nat) : offRaceErr (Reg.key .QRN_CNT race 0) := by
  have hkey : Reg.key .QRN_CNT race 0 = 0x800900 + race * 0x10000 + 0 := rfl
  unfold offRaceErr
  omega

theorem qrnPin_off (race : Nat) : offRaceErr (Reg.key .QRN_PIN race 0) := by
  have hkey : Reg.key .QRN_PIN race 0 = 0x800908 + race * 0x10000 + 0 := rfl
  unfold offRaceErr
  omega

theorem mrCmd_off (race : Nat) : offRaceErr (Reg.key .RACE_MR_CMD race 0) := by
  have hkey : Reg.key .RACE_MR_CMD race 0 = 0x800200 + race * 0x10000 + 0 := rfl
  unfold offRaceErr
  omega

theorem qrnUeLog_off (half : Nat) : offRaceErr (Reg.key .QRN_UE_LOG 0 half) := by
  have hkey : Reg.key .QRN_UE_LOG 0 half = 0xB00100 + 0 + half * 0x80000 := rfl
  unfold offRaceErr
  omega

theorem qrnRowLog_off (half : Nat) : offRaceErr (Reg.key .QRN_ROW_LOG 0 half) := by
  have hkey : Reg.key .QRN_ROW_LOG 0 half = 0xB00108 + 0 + half * 0x80000 := rfl
  unfold offRaceErr
  omega

theorem drsSoft_off (i : Nat) : offRaceErr (Reg.key .DRS_SOFT i 0) := by
  have hkey : Reg.key .DRS_SOFT i 0 = 0xB03000 + i * 0x8 + 0 := rfl
  unfold offRaceErr
  omega

theorem fanCtrl_off (half : Nat) : offRaceErr (Reg.key .FAN_CTRL 0 half) := by
  have hkey : Reg.key .FAN_CTRL 0 half = 0xA00008 + 0 + half * 0x80000 := rfl
  unfold offRaceErr
  omega

/-! ### Counts and logs (R294 to R296, R306) -/

theorem State.tallyStore_strobes (s : State) (half e n : Nat) : StrobesStand s (s.tallyStore half e n) := .elsewhere rfl rfl rfl

theorem State.setFan_strobes (s : State) (half : Nat) (x : Fan) : StrobesStand s (s.setFan half x) := .elsewhere rfl rfl rfl

theorem State.bgUse_strobes (s : State) (cls n : Nat) : StrobesStand s (s.bgUse cls n) := .elsewhere rfl rfl rfl

/-- A free value is taken. -/
theorem State.freeCtr_strobes (s : State) (n : Nat) : StrobesStand s { s with freeCtr := n } := .elsewhere rfl rfl rfl

theorem State.countUE_strobes (s : State) (race : Nat) : StrobesStand s (s.countUE race) :=
  (s.fset_strobes (f := Fld.QRN_CNT_UE) _ (qrnCnt_off race)).trans (State.tallyStore_strobes ..)

theorem State.countCE_strobes (s : State) (race : Nat) : StrobesStand s (s.countCE race) :=
  (s.fset_strobes (f := Fld.QRN_CNT_CE) _ (qrnCnt_off race)).trans (State.tallyStore_strobes ..)

theorem State.countPsn_strobes (s : State) (race : Nat) : StrobesStand s (s.countPsn race) := s.fset_strobes (f := Fld.QRN_CNT_PSN) _ (qrnCnt_off race)

theorem State.logUE_strobes (s : State) (half src a : Nat) : StrobesStand s (s.logUE half src a) :=
  (s.setRaw_strobes _ _ (qrnUeLog_off half)).ite (s.fset_strobes (f := Fld.QRN_UE_LOG_MULTI) _ (qrnUeLog_off half))

theorem State.reportUE_strobes (s : State) (src a : Nat) : StrobesStand s (s.reportUE src a) :=
  (s.logUE_strobes _ _ _).trans (State.raise_strobes ..)

theorem State.setQrn_strobes (s : State) (half : Nat) (q : Qrn) : StrobesStand s (s.setQrn half q) := .elsewhere rfl rfl rfl

theorem State.setHst_strobes (s : State) (half : Nat) (x : Hst) : StrobesStand s (s.setHst half x) := .elsewhere rfl rfl rfl

theorem State.countPins_strobes (s : State) (race pr : Nat) (syms : List Nat) : StrobesStand s (s.countPins race pr syms) := by
  unfold State.countPins
  refine StrobesStand.each (fun pin v => ?_) _ _
  dsimp only
  refine StrobesStand.ite (.refl v) (StrobesStand.ite ?_ (v.setQrn_strobes _ _))
  exact (((v.setQrn_strobes _ _).trans (State.setQrn_strobes ..)).trans (State.setRaw_strobes _ _ _ (qrnPin_off race))).trans (State.raise_strobes ..)

theorem State.askRetrain_strobes (s : State) (race : Nat) : StrobesStand s (s.askRetrain race) :=
  StrobesStand.ite (.refl s) ((s.fset_strobes (f := Fld.FAN_CTRL_RETRAIN) _ (fanCtrl_off (raceHalf race))).trans (State.setFan_strobes ..))

theorem State.queueRepair_strobes {p : Place} (h : s.queueRepair p = some t) : StrobesStand s t := by
  unfold State.queueRepair at h
  split at h
  · cases h
  · split at h
    · cases h
    · cases h
      exact (s.setRaw_strobes _ _ (drsSoft_off _)).trans (State.askRetrain_strobes ..)

theorem State.queueRepair_getD_strobes (s : State) (p : Place) : StrobesStand s ((s.queueRepair p).getD s) := by
  cases hrepair : s.queueRepair p with
  | none => exact .refl s
  | some t => exact State.queueRepair_strobes hrepair

theorem State.trackRow_strobes (s : State) (a : Nat) (ue : Bool) : StrobesStand s (s.trackRow a ue) := by
  unfold State.trackRow
  extract_lets p half q base thr old cnt0 cnt e rest low kept u w logged raised
  have hu : StrobesStand s u := s.setQrn_strobes _ _
  have hraised : StrobesStand s raised := (hu.trans (u.setRaw_strobes _ _ (qrnRowLog_off half))).trans (logged.raise_strobes ..)
  exact StrobesStand.ite (StrobesStand.ite (hraised.trans (raised.queueRepair_getD_strobes p)) hraised) hu

theorem State.noteCE_strobes (s : State) (a : Nat) (syms : List Nat) : StrobesStand s (s.noteCE a syms) :=
  ((s.countCE_strobes _).trans (State.countPins_strobes ..)).trans (State.trackRow_strobes ..)

/-! ### Write-backs (R286, R292) -/

/-- A write-back makes no burst under way stale. -/
theorem Race.wqPut_quern_strobes (x : Race) (a : Nat) (data : Cell) (psn : Bool) (epoch cls now : Nat) (strs : List (Nat × Nat)) :
    (x.wqPut a data psn epoch cls now .quern strs).strobes = x.strobes := by
  unfold Race.wqPut
  rw [if_pos rfl, apply_ite Race.strobes]
  exact ite_self _

theorem State.writeBack_strobes (s : State) (a : Nat) (data : Cell) (psn : Bool) (epoch : Nat) (stale : Bool) :
    StrobesStand s (s.writeBack a data psn epoch stale) := by
  unfold State.writeBack
  refine StrobesStand.ite (.refl s) (StrobesStand.ite (s.setRace_strobes rfl) ?_)
  have hlatched : StrobesStand s ((s.modeLatch (s.raceAt a)).bgUse 3 1) := (s.modeLatch_strobes _).trans (State.bgUse_strobes ..)
  exact hlatched.trans (State.setRace_strobes _ (Race.wqPut_quern_strobes ..))

theorem State.correct_strobes (s : State) (a : Nat) (w : Codeword) (syms : List Nat) (stale : Bool) : StrobesStand s (s.correct a w syms stale) :=
  StrobesStand.ite (s.writeBack_strobes ..) (.refl s)

theorem State.dirtyAt_strobes (s : State) (a : Nat) : StrobesStand s (s.dirtyAt a) := StrobesStand.ite (.elsewhere rfl rfl rfl) (.refl s)

theorem State.poisonBack_strobes (s : State) (a : Nat) (w : Codeword) (report stale : Bool) : StrobesStand s (s.poisonBack a w report stale) := by
  unfold State.poisonBack
  extract_lets race drop u v
  have hback : StrobesStand s u := s.writeBack_strobes ..
  have hdirty : StrobesStand s v := StrobesStand.ite hback (hback.trans (State.dirtyAt_strobes ..))
  exact StrobesStand.ite (((hdirty.trans (State.countUE_strobes ..)).trans (State.reportUE_strobes ..)).trans (State.trackRow_strobes ..)) hdirty

theorem State.pieceDone_strobes (s : State) (a : Nat) (prio : Bool) : StrobesStand s (s.pieceDone a prio) :=
  StrobesStand.ite (.refl s) (s.setQrn_strobes _ _)

theorem State.scrubAgain_strobes (s : State) (a : Nat) (prio : Bool) : StrobesStand s (s.scrubAgain a prio) := by
  unfold State.scrubAgain
  extract_lets race half x kept waits
  have hwaits : StrobesStand s waits := s.setQrn_strobes _ _
  split
  · refine StrobesStand.ite hwaits ?_
    have hdone := s.pieceDone_strobes a prio
    exact StrobesStand.ite hdone (hdone.trans (State.fset_strobes (f := Fld.QRN_CNT_TRANS) _ _ (qrnCnt_off race)))
  · refine StrobesStand.ite hwaits ?_
    have hlatched : StrobesStand s ((s.modeLatch race).bgUse 3 1) := (s.modeLatch_strobes _).trans (State.bgUse_strobes ..)
    exact hlatched.trans (State.setRace_strobes _ rfl)

/-! ### The owners of a burst (R174, R283) -/

/-- A request with cell k bound (R94, R99). -/
def Req.bound (q : Req) (k : Nat) (c : Cell) (psn : Bool) : Req := { q with got := q.got.ins k c, pmask := if psn then q.pmask ||| 2 ^ k else q.pmask }

/-- The cells of a request with all of them bound answer it. -/
theorem State.bindCell_eq {id : Nat} {q : Req} (hq : s.hop.reqs.find? id = some q) (k : Nat) (c : Cell) (psn : Bool) :
    s.bindCell id k c psn = if (q.bound k c psn).got.rows.length = q.nCells
      then (s.putReq id (q.bound k c psn)).settle id .performed (q.bound k c psn).readCode (q.bound k c psn).pmask 0 0 (q.bound k c psn).got.vals
      else s.putReq id (q.bound k c psn) := by
  unfold State.bindCell
  rw [hq]
  rfl

theorem State.bindCell_only (s : State) (id k : Nat) (c : Cell) (psn : Bool) : OnlyAnswers s (s.bindCell id k c psn) := by
  cases hq : s.hop.reqs.find? id with
  | none => rw [State.bindCell, hq]; exact .refl s
  | some q =>
    have hput : OnlyAnswers s (s.putReq id (q.bound k c psn)) := ⟨_, _, _, _, rfl⟩
    rw [State.bindCell_eq hq]
    split
    · exact hput.trans (State.settle_only ..)
    · exact hput

theorem State.bindCell_strobes (s : State) (id k : Nat) (c : Cell) (psn : Bool) : StrobesStand s (s.bindCell id k c psn) :=
  (s.bindCell_only id k c psn).strobes

/-- A free value is taken, and a cell bound to it. -/
theorem State.bindFree_strobes (s : State) (id k : Nat) (c : Cell) : StrobesStand s (({ s with freeCtr := s.freeCtr + 1 } : State).bindCell id k c true) :=
  (s.freeCtr_strobes _).trans (State.bindCell_strobes ..)

/-- A poisoned decode is counted, with its corrections. -/
theorem State.poisoned_strobes (s : State) (race a : Nat) (fixed : List Nat) :
    StrobesStand s (if fixed.isEmpty then s.countPsn race else (s.countPsn race).noteCE a fixed) :=
  StrobesStand.ite (s.countPsn_strobes race) ((s.countPsn_strobes race).trans (State.noteCE_strobes ..))

theorem State.demand_strobes (s : State) (id k a : Nat) (d : Decoded) (stale : Bool) : StrobesStand s (s.demand id k a d stale) := by
  unfold State.demand
  cases d.out with
  | clean => exact s.bindCell_strobes ..
  | ce => exact ((s.noteCE_strobes a d.fixed).trans (State.correct_strobes ..)).trans (State.bindCell_strobes ..)
  | poisoned => exact (s.poisoned_strobes (s.raceAt a) a d.fixed).trans (State.bindFree_strobes ..)
  | ue | miss =>
    exact ((((s.countUE_strobes _).trans (State.reportUE_strobes ..)).trans (State.trackRow_strobes ..)).trans (State.setQrn_strobes ..)).trans
      (State.bindFree_strobes ..)

theorem State.scrubbed_strobes (s : State) (a : Nat) (prio retry : Bool) (d : Decoded) (stale : Bool) : StrobesStand s (s.scrubbed a prio retry d stale) := by
  unfold State.scrubbed
  extract_lets race half again u v
  have hu : StrobesStand s u := StrobesStand.ite (.refl s) (s.pieceDone_strobes ..)
  have hv : StrobesStand s v := StrobesStand.ite (hu.trans (State.fset_strobes (f := Fld.QRN_CNT_TRANS) _ _ (qrnCnt_off race))) hu
  refine hv.trans ?_
  cases d.out with
  | clean => exact .refl v
  | ce => exact (v.noteCE_strobes ..).trans (State.correct_strobes ..)
  | poisoned => exact v.poisoned_strobes ..
  | ue => exact StrobesStand.ite (v.scrubAgain_strobes ..) (v.poisonBack_strobes ..)
  | miss => exact StrobesStand.ite (.refl v) ((v.countUE_strobes _).trans (State.reportUE_strobes ..))

theorem State.hoistReport_strobes (s : State) (a : Nat) (d : Decoded) : StrobesStand s (s.hoistReport a d) := by
  unfold State.hoistReport
  cases d.out with
  | clean => exact .refl s
  | ce => exact s.noteCE_strobes ..
  | poisoned => exact s.poisoned_strobes ..
  | ue | miss => exact ((s.countUE_strobes _).trans (State.reportUE_strobes ..)).trans (State.trackRow_strobes ..)

theorem State.hoistGot_strobes (s : State) (wid a : Nat) (d : Decoded) : StrobesStand s (s.hoistGot wid a d) := by
  unfold State.hoistGot
  extract_lets half u
  have hu : StrobesStand s u := s.hoistReport_strobes a d
  exact hu.trans (StrobesStand.ite (State.setHst_strobes ..) (State.setHst_strobes ..))

theorem State.mrBack_strobes (s : State) (race : Nat) : StrobesStand s (s.mrBack race) := by
  have hoff (f : Field) (hf : f.reg = .RACE_MR_CMD) : offRaceErr (f.reg.key race 0) := hf ▸ mrCmd_off race
  have hclosed (v : State) (result : Nat) : StrobesStand v (v.mrClosed race result) :=
    ((v.fset_strobes _ (hoff Fld.RACE_MR_CMD_RESULT rfl)).trans (State.fset_strobes _ _ (hoff Fld.RACE_MR_CMD_GO rfl))).trans
      (State.fset_strobes _ _ (hoff Fld.RACE_MR_CMD_BUSY rfl))
  unfold State.mrBack
  extract_lets u
  have hu : StrobesStand s u := s.fset_strobes _ (hoff Fld.RACE_MR_CMD_OP rfl)
  rw [State.mrEnd_eq]
  exact ((hu.trans (State.freeCtr_strobes ..)).trans (hclosed _ 0)).trans (State.setRace_strobes _ rfl)

/-- A burst that ends leaves the race's bursts, and nothing more of them changes. -/
theorem State.deliver_strobes (s : State) (race : Nat) (f : Flight) (d : Decoded) :
    StrobesStand (s.setRace race { s.race race with flights := (s.race race).flights.erase f }) (s.deliver race f d) := by
  unfold State.deliver
  extract_lets x u
  refine StrobesStand.ite (u.mrBack_strobes race) ?_
  cases f.kind with
  | host => exact u.demand_strobes ..
  | scrub => exact u.scrubbed_strobes ..
  | scrubPrio => exact u.scrubbed_strobes ..
  | hoist => exact u.hoistGot_strobes ..
  | fau => exact u.setRace_strobes rfl
  | probe => exact .refl u

end Sys2Proof.Machine
end

section
/-! The obligation on bursts and on the far-atomic unit. -/
namespace Sys2Proof.Machine

variable {s t u v : State} {race r pr mc id k : Nat} {x y : Race} {f : Flight} {d : Decoded} {q : Req} {err : List (Nat × Byte)}

/-! ### Strobes that come (R174, R283) -/

/-- A race that has seen a strobe of pr. -/
def Race.seen (x : Race) (pr : Nat) : Race :=
  { x with missA := if pr = 0 then 0 else x.missA, missB := if pr = 0 then x.missB else 0
           tmoA := if pr = 0 then false else x.tmoA, tmoB := if pr = 0 then x.tmoB else false }

theorem State.causeOff_brk (s : State) (src inst : Nat) : ∃ b, s.causeOff src inst = { s with brk := b } := by
  unfold State.causeOff
  split
  · exact ⟨_, rfl⟩
  · split
    · exact ⟨_, rfl⟩
    · exact ⟨_, rfl⟩

/-- A strobe changes the race's counts and ends the cause of a timeout. -/
theorem State.strobeSeen_eq (s : State) (r pr : Nat) : ∃ b, s.strobeSeen r pr = { s.setRace r ((s.race r).seen pr) with brk := b } := by
  unfold State.strobeSeen
  extract_lets x y u
  split
  · exact ⟨_, rfl⟩
  · exact u.causeOff_brk Src.RACE_TMO r

theorem State.strobeSeen_leaves (s : State) (r pr : Nat) :
    (s.strobeSeen r pr).race r = (s.race r).seen pr ∧ (s.strobeSeen r pr).hop = s.hop ∧ (s.strobeSeen r pr).mods = s.mods
      ∧ (s.strobeSeen r pr).clk = s.clk := by
  obtain ⟨b, hseen⟩ := s.strobeSeen_eq r pr
  rw [hseen]
  exact ⟨State.race_setRace .., rfl, rfl, rfl⟩

theorem exec_readBurstReturn (hf : (s.race race).flights.find? (fun f => f.due pr (s.at mc)) = some f) :
    exec (.readBurstReturn race pr mc err) s =
      .next ((({ s with clk := s.clkAt mc } : State).strobeSeen race pr).deliver race f (rsDecode (corrupt f.word err))) := by
  change execReadBurstReturn race pr mc err s = _
  rw [execReadBurstReturn, hf]

theorem exec_missingBurst (hf : (s.race race).flights.find? (fun f => f.pr = pr ∧ f.at_ + 2 < s.at mc) = some f) :
    exec (.missingBurst race pr mc) s = .next ((({ s with clk := s.clkAt mc } : State).strobeMissed race pr).deliver race f ⟨.miss, 0, []⟩) := by
  change execMissingBurst race pr mc s = _
  rw [execMissingBurst, hf]

theorem exec_strayStrobe (hrace : race < 32) (hnone : (s.race race).flights.any (fun f => f.due pr s.now) = false) :
    exec (.strayStrobe race pr) s = .next (s.fadd Fld.RACE_ERR_STRAY 1 race) :=
  congrArg Host.Outcome.next (when_true (by rw [hnone, decide_eq_true hrace]; rfl) _ s)

/-- A burst that ends is no longer under way; the counts of missing bursts stand. -/
theorem State.deliver_race (u : State) (r : Nat) (f : Flight) (d : Decoded) :
    ((u.deliver r f d).race r).strobes = { (u.race r).strobes with flights := (u.race r).flights.erase f } :=
  ((u.deliver_strobes r f d).races r).trans (congrArg Race.strobes (State.race_setRace ..))

theorem State.deliver_clk (u : State) (r : Nat) (f : Flight) (d : Decoded) : (u.deliver r f d).clk = u.clk :=
  (State.deliver_tame (dr := false) (fu := false) (ck := true) (.refl u) r f d).clk rfl

/-- The read of a far-atomic entry is kept with it (R171). -/
theorem State.deliver_fau (hmrr : f.mrr = false) (hkind : f.kind = .fau) (u : State) (r : Nat) (d : Decoded) :
    ((u.deliver r f d).race r).fau =
      mapIf (fun e => e.qid = f.qid) (fun e => { e with back := some (outCode d.out, d.word, d.fixed) }) (u.race r).fau := by
  unfold State.deliver
  rw [hmrr, hkind]
  refine (congrArg Race.fau (State.race_setRace ..)).trans ?_
  dsimp only
  rw [State.race_setRace]

/-- A clean demand read binds its cell. -/
theorem State.deliver_clean (hmrr : f.mrr = false) (hkind : f.kind = .host) (hclean : d.out = .clean) (u : State) (r : Nat) :
    u.deliver r f d = (u.setRace r { u.race r with flights := (u.race r).flights.erase f }).bindCell f.id f.k (cwData d.word) false := by
  unfold State.deliver State.demand
  rw [hmrr, hkind, hclean]
  rfl

/-! ### Cells bound (R94, R99) -/

/-- A cell that is not the last of its request is kept with it. -/
theorem State.bindCell_more {c : Cell} {psn : Bool} (hq : s.hop.reqs.find? id = some q) (hmore : (q.got.ins k c).rows.length ≠ q.nCells) :
    s.bindCell id k c psn = s.putReq id (q.bound k c psn) := by
  rw [State.bindCell_eq hq]
  exact if_neg hmore

/-- The last cell of a request sends its response. -/
theorem State.bindCell_tx {c : Cell} {psn : Bool} (hq : s.hop.reqs.find? id = some q) (hlast : (q.got.ins k c).rows.length = q.nCells)
    (ha : q.answered = false) (ho : Opc.answered q.opc = true) :
    ((s.bindCell id k c psn).mod q.m).tx =
      (s.mod q.m).tx ++ [q.resp (q.bound k c psn).readCode (q.bound k c psn).pmask 0 0 s.now id (q.got.ins k c).vals] := by
  have hlast' : (q.bound k c psn).got.rows.length = q.nCells := hlast
  rw [State.bindCell_eq hq, if_pos hlast']
  exact State.settle_tx (s.putReq_find id (q.bound k c psn)) ha ho .performed _ _ 0 0 _

/-! ### Strobes that do not come (R174) -/

theorem State.fheld_congr {f : Field} {i h : Nat} (hraw : t.raw f.reg (f.reg.key i h) = s.raw f.reg (f.reg.key i h)) : t.fheld f i h = s.fheld f i h :=
  congrArg f.of hraw

theorem StrobesStand.wf (h : StrobesStand s t) (hw : s.regs.wf = true) : t.regs.wf = true := (h.err hw).1

theorem StrobesStand.miss (h : StrobesStand s t) (hw : s.regs.wf = true) (hr : r < 32) :
    t.fheld Fld.RACE_ERR_MISS r = s.fheld Fld.RACE_ERR_MISS r := State.fheld_congr ((h.err hw).2 r hr)

/-- A missing burst is counted, and changes none that is under way. -/
theorem State.strobeMissed_stands (s : State) (r pr : Nat) :
    ∃ y, StrobesStand ((s.fadd Fld.RACE_ERR_MISS 1 r).setRace r y) (s.strobeMissed r pr) ∧ y.flights = (s.race r).flights := by
  unfold State.strobeMissed
  extract_lets x n was mine hit counted u
  exact ⟨_, StrobesStand.ite (u.raise_strobes ..) (.refl u), rfl⟩

theorem State.strobeMissed_flights (s : State) (r pr : Nat) : ((s.strobeMissed r pr).race r).flights = (s.race r).flights := by
  obtain ⟨y, hstand, hy⟩ := s.strobeMissed_stands r pr
  have hrace := (hstand.races r).trans (congrArg Race.strobes (State.race_setRace ..))
  exact (congrArg Strobes.flights hrace).trans hy

theorem State.strobeMissed_clk (s : State) (r pr : Nat) : (s.strobeMissed r pr).clk = s.clk :=
  (State.strobeMissed_tame (dr := false) (fu := false) (ck := true) (.refl s) r pr).clk rfl

theorem State.strobeMissed_miss (hw : s.regs.wf = true) (hr : r < 32) (pr : Nat) :
    (s.strobeMissed r pr).regs.wf = true
      ∧ (s.strobeMissed r pr).fheld Fld.RACE_ERR_MISS r = satAdd Fld.RACE_ERR_MISS.w (s.fheld Fld.RACE_ERR_MISS r) 1 := by
  obtain ⟨y, hstand, -⟩ := s.strobeMissed_stands r pr
  obtain ⟨g, hadd, hwf, hval, -⟩ := s.fadd_table Fld.RACE_ERR_MISS 1 r 0 hw (by decide)
  rw [hadd] at hstand
  exact ⟨hstand.wf hwf, (hstand.miss hwf hr).trans (hval _ rfl rfl)⟩

/-! ### The far-atomic unit (R169, R171) -/

variable {b : Flight} {e : PondEnt} {f : FauEnt} {i : FauIn}

/-- A race whose unit has taken a Millpond entry at t. -/
def Race.fauTaken (x : Race) (t : Nat) (e : PondEnt) : Race :=
  { x with fau := x.fau ++ [{ qid := x.nextQ, id := e.id, k := e.k, addr := e.addr, amo := e.amo, data := e.data, mask := e.mask, stream := e.stream
                              cls := e.cls, since := t }]
           nextQ := x.nextQ + 1, idleSince := none }

theorem RaceSet.fauTake (h : RaceSet r y s u) (t : Nat) (e : PondEnt) : RaceSet r (y.fauTaken t e) s (u.fauTake r t e) := by
  have hset := h.setRace ((u.race r).fauTaken t e)
  rw [h.race] at hset
  change RaceSet r _ s (u.setRace r ((u.race r).fauTaken t e))
  rw [h.race]
  exact hset

theorem exec_fauTake (hcmd : s.raceCmd race = true) (he : s.pond.find? (fun e => e.id = id ∧ e.k = k ∧ !e.tally) = some e)
    (hcan : s.fauCan race e = true) :
    exec (.fauTake race mc id k) s = .next { (s.modeLatch race).fauTake race (s.at mc) e with clk := s.clkAt mc } := by
  change execFauTake race mc id k s = _
  rw [execFauTake, he]
  exact congrArg Host.Outcome.next (when_true (by rw [hcmd, hcan]; rfl) _ s)

/-- s with the result of a unit entry in the write queue. -/
def State.fauPut (s : State) (r : Nat) (f : FauEnt) (c : Cell) : State :=
  s.setRace r ((s.race r).wqUpdate f.addr c false (s.epochTag (raceHalf r)) f.cls s.now f.id f.stream)

/-- s with what an atomic writes, if it writes (R115). -/
def State.amoPut (s : State) (r : Nat) (f : FauEnt) (a : Cell × Bool × Cell) : State :=
  if a.2.1 then (s.fauPut r f a.1).touch f.addr else s

/-- An operand without error is not counted. -/
theorem State.fauCount_clean (s : State) (a : Nat) (hcode : i.code = 0) : s.fauCount a i = s := by
  unfold State.fauCount
  dsimp only
  rw [if_pos hcode]
  exact ite_self s

theorem State.fauMerge_clean (s : State) (r t : Nat) (f : FauEnt) (hcode : i.code = 0) :
    s.fauMerge r t f i = ((s.fauFree r t f).fauPut r f (mergeCell i.cell f.data f.mask)).maskedDone f.id false := by
  unfold State.fauMerge
  rw [State.fauCount_clean _ _ hcode, hcode]
  rfl

theorem State.fauAmo_clean (s : State) (r t : Nat) (f : FauEnt) (q : Req) (hcode : i.code = 0) :
    s.fauAmo r t f i q = (((s.fauFree r t f).tallyStore (raceHalf r) 14 1).amoPut r f (amoApply q.arg.toNat f.data i.cell)).bindCell f.id f.k
      (amoApply q.arg.toNat f.data i.cell).2.2 false := by
  unfold State.fauAmo
  rw [State.fauCount_clean _ _ hcode, hcode]
  rfl

/-- s at the mc of a unit entry's execution, with the mode of the race's queues latched. -/
def State.fauAt (s : State) (race mc : Nat) : State := ({ s with clk := s.clkAt mc } : State).modeLatch race

theorem exec_fauMerge (hcmd : s.raceCmd race = true) (hf : (s.race race).fau.find? (fun f => f.id = id ∧ f.k = k) = some f)
    (hin : s.fauIn race (s.at mc) f = some i) (hamo : f.amo = false) :
    exec (.fauExecute race mc id k) s = .next ((s.fauAt race mc).fauMerge race (s.at mc) f i) := by
  change execFauExecute race mc id k s = _
  unfold execFauExecute
  dsimp only
  rw [hf]
  dsimp only
  rw [hin]
  exact congrArg Host.Outcome.next ((when_true hcmd _ s).trans (by rw [hamo]; rfl))

theorem exec_fauAmo (hcmd : s.raceCmd race = true) (hf : (s.race race).fau.find? (fun f => f.id = id ∧ f.k = k) = some f)
    (hin : s.fauIn race (s.at mc) f = some i) (hamo : f.amo = true) (hq : s.hop.reqs.find? id = some q) :
    exec (.fauExecute race mc id k) s = .next ((s.fauAt race mc).fauAmo race (s.at mc) f i q) := by
  change execFauExecute race mc id k s = _
  unfold execFauExecute
  dsimp only
  rw [hf]
  dsimp only
  rw [hin, hq]
  exact congrArg Host.Outcome.next ((when_true hcmd _ s).trans (by rw [hamo]; rfl))

theorem exec_fauGone (hcmd : s.raceCmd race = true) (hf : (s.race race).fau.find? (fun f => f.id = id ∧ f.k = k) = some f)
    (hin : s.fauIn race (s.at mc) f = some i) (hamo : f.amo = true) (hq : s.hop.reqs.find? id = none) :
    exec (.fauExecute race mc id k) s = .next ((s.fauAt race mc).fauFree race (s.at mc) f) := by
  change execFauExecute race mc id k s = _
  unfold execFauExecute
  dsimp only
  rw [hf]
  dsimp only
  rw [hin, hq]
  exact congrArg Host.Outcome.next ((when_true hcmd _ s).trans (by rw [hamo]; rfl))

/-- The entry has left the unit, and its Millpond entry is free: entries of its cell execute no earlier than the mc after t (R169). -/
structure UnitLeft (race t : Nat) (f : FauEnt) (s u : State) : Prop where
  pond : u.pond = s.pond.filter (fun o => !(o.id = f.id ∧ o.k = f.k ∧ !o.tally))
  flume : u.flume = s.flume
  clk : u.clk = s.clk
  fau : (u.race race).fau = mapIf (fun o => o.addr = f.addr) (fun o => { o with after := t + 1 }) ((s.race race).fau.filter (fun o => o.qid ≠ f.qid))

theorem State.fauFree_left (s : State) (race mc t : Nat) (f : FauEnt) :
    UnitLeft race t f { s with clk := s.clkAt mc } ((s.fauAt race mc).fauFree race t f) :=
  ⟨rfl, rfl, rfl, (congrArg Race.fau (State.race_setRace ..)).trans (by rw [State.fauAt, State.modeLatch_race])⟩

theorem State.fauAt_wq (s : State) (race mc : Nat) : ((s.fauAt race mc).race race).wq = (s.race race).wq := by rw [State.fauAt, State.modeLatch_race]; rfl

theorem State.fauFree_wq (s : State) (r t : Nat) (f : FauEnt) : ((s.fauFree r t f).race r).wq = (s.race r).wq :=
  (congrArg Race.wq (State.race_setRace ..)).trans rfl

theorem UnitLeft.setRace {n : Nat} (h : UnitLeft race n f s u) (hy : y.fau = (u.race race).fau) : UnitLeft race n f s (u.setRace race y) :=
  ⟨h.pond, h.flume, h.clk, (congrArg Race.fau (State.race_setRace ..)).trans (hy.trans h.fau)⟩

theorem UnitLeft.answers {n : Nat} (h : UnitLeft race n f s u) (g : OnlyAnswers u v) : UnitLeft race n f s v := by
  obtain ⟨_, _, _, _, rfl⟩ := g
  exact ⟨h.pond, h.flume, h.clk, h.fau⟩

theorem UnitLeft.touch {n : Nat} (h : UnitLeft race n f s u) (a : Nat) : UnitLeft race n f s (u.touch a) := ⟨h.pond, h.flume, h.clk, h.fau⟩

theorem Race.wqPut_fau (x : Race) (a : Nat) (data : Cell) (psn : Bool) (epoch cls now : Nat) (strs : List (Nat × Nat)) :
    (x.wqPut a data psn epoch cls now .host strs).fau = x.fau := by
  unfold Race.wqPut
  have hnewer : (if WrOwner.host = WrOwner.quern then x else x.newer a) = x.newer a := if_neg (by decide)
  rw [hnewer, apply_ite Race.fau]
  exact ite_self _

theorem UnitLeft.fauPut {n : Nat} (h : UnitLeft race n f s u) (c : Cell) : UnitLeft race n f s (u.fauPut race f c) := h.setRace (Race.wqPut_fau ..)

theorem UnitLeft.amoPut {n : Nat} (h : UnitLeft race n f s u) (a : Cell × Bool × Cell) : UnitLeft race n f s (u.amoPut race f a) := by
  unfold State.amoPut
  split
  · exact (h.fauPut a.1).touch f.addr
  · exact h

theorem OnlyAnswers.race_stands (h : OnlyAnswers s t) (r : Nat) : t.race r = s.race r := by
  obtain ⟨_, _, _, _, rfl⟩ := h
  rfl

theorem State.maskedDone_answers (s : State) (id : Nat) (psn : Bool) : OnlyAnswers s (s.maskedDone id psn) := s.maskedDone_only id psn

/-- The result of a unit entry stands in the write queue. -/
theorem State.fauPut_wqAt (s : State) (r : Nat) (f : FauEnt) (c : Cell) :
    ∃ w, ((s.fauPut r f c).race r).wqAt f.addr = some w ∧ w.data = c ∧ w.psn = false := by
  rw [State.fauPut, State.race_setRace]
  exact Race.wqAt_wqPut ..

theorem State.amoPut_wqAt {a : Cell × Bool × Cell} (ha : a.2.1 = true) (s : State) (r : Nat) (f : FauEnt) :
    ∃ w, ((s.amoPut r f a).race r).wqAt f.addr = some w ∧ w.data = a.1 ∧ w.psn = false := by
  rw [State.amoPut, if_pos ha]
  exact s.fauPut_wqAt r f a.1

/-- What an atomic writes changes no request's record, no module and no time. -/
theorem State.amoPut_rest (s : State) (r : Nat) (f : FauEnt) (a : Cell × Bool × Cell) :
    (s.amoPut r f a).hop.reqs = s.hop.reqs ∧ (s.amoPut r f a).mods = s.mods ∧ (s.amoPut r f a).now = s.now := by
  unfold State.amoPut
  split
  · exact ⟨rfl, rfl, rfl⟩
  · exact ⟨rfl, rfl, rfl⟩

/-! ### The obligation -/

/-- What a burst that returns leaves of the race, the requests and the modules (R174, R283). -/
theorem burstReturned (hf : (s.race race).flights.find? (fun f => f.due pr (s.at mc)) = some b) :
    let d := rsDecode (corrupt b.word err)
    Completes (.readBurstReturn race pr mc err) s (fun t => Intact s t ∧ t.clk = s.clkAt mc
      ∧ (t.race race).flights = (s.race race).flights.erase b
      ∧ (pr = 0 → (t.race race).missA = 0 ∧ (t.race race).tmoA = false) ∧ (pr ≠ 0 → (t.race race).missB = 0 ∧ (t.race race).tmoB = false)
      ∧ (b.mrr = false → b.kind = .fau → (t.race race).fau = mapIf (fun e => e.qid = b.qid)
          (fun e => { e with back := some (outCode d.out, d.word, d.fixed) }) (s.race race).fau)
      ∧ (∀ q, b.mrr = false → b.kind = .host → d.out = .clean → s.hop.reqs.find? b.id = some q →
          let got := q.got.ins b.k (cwData d.word)
          (got.rows.length ≠ q.nCells → t.hop.reqs.find? b.id = some { q with got := got } ∧ t.mods = s.mods)
          ∧ (got.rows.length = q.nCells → q.answered = false → Opc.answered q.opc = true →
              (t.mod q.m).tx = (s.mod q.m).tx ++ [q.resp q.readCode q.pmask 0 0 (s.at mc) b.id got.vals]))) := by
  intro d
  have hrun := exec_readBurstReturn (err := err) hf
  have hintact := exec_intact hrun rfl rfl
  obtain ⟨hrace, hhop, hmods, hclk⟩ := ({ s with clk := s.clkAt mc } : State).strobeSeen_leaves race pr
  generalize ({ s with clk := s.clkAt mc } : State).strobeSeen race pr = u at hrun hintact hrace hhop hmods hclk
  change u.race race = (s.race race).seen pr at hrace
  have hends := u.deliver_race race b d
  rw [hrace] at hends
  refine .of_exec hrun ⟨hintact, (u.deliver_clk ..).trans hclk, congrArg Strobes.flights hends, fun hpr => ?first, fun hpr => ?second,
    fun hmrr hkind => ?fau, fun q hmrr hkind hclean hq => ?host⟩
  case first => exact ⟨(congrArg Strobes.missA hends).trans (if_pos hpr), (congrArg Strobes.tmoA hends).trans (if_pos hpr)⟩
  case second => exact ⟨(congrArg Strobes.missB hends).trans (if_neg hpr), (congrArg Strobes.tmoB hends).trans (if_neg hpr)⟩
  case fau =>
    have hfau : (u.race race).fau = (s.race race).fau := by rw [hrace]; rfl
    exact (u.deliver_fau hmrr hkind race d).trans (congrArg _ hfau)
  case host =>
    have hnow : u.now = s.at mc := by rw [State.now, hclk]; rfl
    rw [u.deliver_clean hmrr hkind hclean race]
    generalize hv : u.setRace race { u.race race with flights := (u.race race).flights.erase b } = v
    have hreqs : v.hop.reqs.find? b.id = some q := by rw [← hv, State.setRace_hop, hhop]; exact hq
    have hvmods : v.mods = s.mods := by rw [← hv, State.setRace_mods, hmods]
    have hvnow : v.now = s.at mc := by rw [← hv]; exact hnow
    refine ⟨fun hmore => ?_, fun hlast ha ho => ?_⟩
    · rw [State.bindCell_more hreqs hmore]
      exact ⟨State.putReq_find .., hvmods⟩
    · have htx := State.bindCell_tx (psn := false) hreqs hlast ha ho
      rw [hvnow, State.mod.eq_1 v, hvmods] at htx
      exact htx

theorem burstMissing (hw : s.regs.wf = true) (hrace : race < 32)
    (hf : (s.race race).flights.find? (fun f => f.pr = pr ∧ f.at_ + 2 < s.at mc) = some b) :
    Completes (.missingBurst race pr mc) s (fun t => Intact s t ∧ t.clk = s.clkAt mc
      ∧ (t.race race).flights = (s.race race).flights.erase b
      ∧ t.fheld Fld.RACE_ERR_MISS race = satAdd Fld.RACE_ERR_MISS.w (s.fheld Fld.RACE_ERR_MISS race) 1) := by
  have hrun := exec_missingBurst hf
  have hintact := exec_intact hrun rfl rfl
  obtain ⟨hwf, hmiss⟩ := State.strobeMissed_miss (s := { s with clk := s.clkAt mc }) hw hrace pr
  have hflights := ({ s with clk := s.clkAt mc } : State).strobeMissed_flights race pr
  have hclk := ({ s with clk := s.clkAt mc } : State).strobeMissed_clk race pr
  rw [State.clk_fheld] at hmiss
  generalize ({ s with clk := s.clkAt mc } : State).strobeMissed race pr = u at hrun hintact hwf hmiss hflights hclk
  have hends := u.deliver_strobes race b ⟨.miss, 0, []⟩
  have hstart : (u.setRace race { u.race race with flights := (u.race race).flights.erase b }).fheld Fld.RACE_ERR_MISS race
      = u.fheld Fld.RACE_ERR_MISS race := State.setRace_fheld ..
  refine .of_exec hrun ⟨hintact, (u.deliver_clk ..).trans hclk, ?_, (hends.miss hwf hrace).trans (hstart.trans hmiss)⟩
  exact (congrArg Strobes.flights (u.deliver_race ..)).trans (congrArg (List.erase · b) hflights)

theorem burstStray (hw : s.regs.wf = true) (hrace : race < 32) (hnone : (s.race race).flights.any (fun f => f.due pr s.now) = false) :
    Completes (.strayStrobe race pr) s (fun t => t = s.fadd Fld.RACE_ERR_STRAY 1 race
      ∧ t.fheld Fld.RACE_ERR_STRAY race = satAdd Fld.RACE_ERR_STRAY.w (s.fheld Fld.RACE_ERR_STRAY race) 1) := by
  have hrun := exec_strayStrobe hrace hnone
  obtain ⟨g, hadd, -, hval, -⟩ := s.fadd_table Fld.RACE_ERR_STRAY 1 race 0 hw (by decide)
  rw [hadd] at hrun
  exact .of_exec hrun ⟨hadd.symm, hval _ rfl rfl⟩

/-- A merge leaves its result in the write queue. -/
theorem mergeExecuted (hcmd : s.raceCmd race = true) (hf : (s.race race).fau.find? (fun f => f.id = id ∧ f.k = k) = some f)
    (hin : s.fauIn race (s.at mc) f = some i) (hcode : i.code = 0) (hamo : f.amo = false) :
    Completes (.fauExecute race mc id k) s (fun t => Intact s t ∧ UnitLeft race (s.at mc) f { s with clk := s.clkAt mc } t
      ∧ ∃ w, (t.race race).wqAt f.addr = some w ∧ w.data = mergeCell i.cell f.data f.mask ∧ w.psn = false) := by
  have hrun := exec_fauMerge hcmd hf hin hamo
  have hintact := exec_intact hrun rfl rfl
  have hleft := s.fauFree_left race mc (s.at mc) f
  rw [State.fauMerge_clean _ _ _ _ hcode] at hrun hintact
  have hdone := State.maskedDone_answers (((s.fauAt race mc).fauFree race (s.at mc) f).fauPut race f (mergeCell i.cell f.data f.mask)) f.id false
  refine .of_exec hrun ⟨hintact, (hleft.fauPut _).answers hdone, ?_⟩
  rw [hdone.race_stands]
  exact State.fauPut_wqAt ..

/-- An atomic writes what its operation gives, if it writes, and answers. -/
theorem amoExecuted (hcmd : s.raceCmd race = true) (hf : (s.race race).fau.find? (fun f => f.id = id ∧ f.k = k) = some f)
    (hin : s.fauIn race (s.at mc) f = some i) (hcode : i.code = 0) (hamo : f.amo = true) (hq : s.hop.reqs.find? id = some q) :
    let a := amoApply q.arg.toNat f.data i.cell
    Completes (.fauExecute race mc id k) s (fun t => Intact s t ∧ UnitLeft race (s.at mc) f { s with clk := s.clkAt mc } t
      ∧ (a.2.1 = true → ∃ w, (t.race race).wqAt f.addr = some w ∧ w.data = a.1 ∧ w.psn = false)
      ∧ (a.2.1 = false → (t.race race).wq = (s.race race).wq)
      ∧ (q.opc = Opc.amo → q.answered = false → q.got = {} → q.pmask = 0 →
          (t.mod q.m).tx = (s.mod q.m).tx ++ [q.resp Rc.ok 0 0 0 (s.at mc) id [a.2.2]])) := by
  intro a
  have hkey : f.id = id ∧ f.k = k := by simpa using List.find?_some hf
  have hrun := exec_fauAmo hcmd hf hin hamo hq
  have hintact := exec_intact hrun rfl rfl
  have hleft := (s.fauFree_left race mc (s.at mc) f).answers (v := ((s.fauAt race mc).fauFree race (s.at mc) f).tallyStore (raceHalf race) 14 1)
    ⟨_, _, _, _, rfl⟩
  rw [State.fauAmo_clean _ _ _ _ _ hcode] at hrun hintact
  have hwq : ((((s.fauAt race mc).fauFree race (s.at mc) f).tallyStore (raceHalf race) 14 1).race race).wq = (s.race race).wq :=
    (State.fauFree_wq ..).trans (s.fauAt_wq race mc)
  have hreqs : (((s.fauAt race mc).fauFree race (s.at mc) f).tallyStore (raceHalf race) 14 1).hop.reqs = s.hop.reqs := rfl
  have hmods : (((s.fauAt race mc).fauFree race (s.at mc) f).tallyStore (raceHalf race) 14 1).mods = s.mods := rfl
  have hnow : (((s.fauAt race mc).fauFree race (s.at mc) f).tallyStore (raceHalf race) 14 1).now = s.at mc := rfl
  generalize ((s.fauAt race mc).fauFree race (s.at mc) f).tallyStore (raceHalf race) 14 1 = u at hrun hintact hleft hwq hreqs hmods hnow
  obtain ⟨hreqs', hmods', hnow'⟩ := u.amoPut_rest race f a
  have hdone := (u.amoPut race f a).bindCell_only f.id f.k a.2.2 false
  refine .of_exec hrun ⟨hintact, (hleft.amoPut a).answers hdone, fun hwrites => ?_, fun hreads => ?_, fun hopc ha hgot hpm => ?_⟩
  · rw [hdone.race_stands]
    exact u.amoPut_wqAt hwrites race f
  · rw [hdone.race_stands, State.amoPut, if_neg (by simp [hreads])]
    exact hwq
  · have hfound : (u.amoPut race f a).hop.reqs.find? f.id = some q := by rw [hreqs', hreqs, hkey.1]; exact hq
    have hlast : (q.got.ins f.k a.2.2).rows.length = q.nCells := by rw [hgot, Req.nCells, hopc]; rfl
    have hvals : (q.got.ins f.k a.2.2).vals = [a.2.2] := by rw [hgot]; rfl
    have hcode : (q.bound f.k a.2.2 false).readCode = Rc.ok := if_pos hpm
    have hpoison : (q.bound f.k a.2.2 false).pmask = 0 := hpm
    have htx := State.bindCell_tx (psn := false) hfound hlast ha (by rw [hopc]; rfl)
    rw [hcode, hpoison, hvals, hnow', hnow, State.mod.eq_1 (u.amoPut race f a), hmods', hmods, hkey.1] at htx
    rw [hkey.1]
    exact htx

/-- An entry whose request is gone leaves the unit. -/
theorem goneExecuted (hcmd : s.raceCmd race = true) (hf : (s.race race).fau.find? (fun f => f.id = id ∧ f.k = k) = some f)
    (hin : s.fauIn race (s.at mc) f = some i) (hamo : f.amo = true) (hq : s.hop.reqs.find? id = none) :
    Completes (.fauExecute race mc id k) s (fun t => Intact s t ∧ UnitLeft race (s.at mc) f { s with clk := s.clkAt mc } t) := by
  have hrun := exec_fauGone hcmd hf hin hamo hq
  exact .of_exec hrun ⟨exec_intact hrun rfl rfl, s.fauFree_left race mc (s.at mc) f⟩

/-- Settles O20: the bursts, and the unit's entries by what they do. -/
theorem burstsAndFarAtomics : Obligations.BurstsAndFarAtomics := by
  refine ⟨fun s race pr mc err hw hrace => ⟨fun f hf => burstReturned hf, fun f hf => burstMissing hw hrace hf, fun hnone => burstStray hw hrace hnone⟩,
    fun s race mc id k hcmd => ⟨fun e he hcan => ?take, fun f i hf hin hcode => ?execute⟩⟩
  case take =>
    obtain ⟨m, hlatched⟩ := (RaceSet.refl race s).modeAt s.now
    have hset := hlatched.fauTake (s.at mc) e
    have hnow := hset.race_clk (s.clkAt mc)
    exact .of_exec (exec_fauTake hcmd he hcan) ⟨hset.intact _, rfl, hset.atRace _, congrArg Race.nextQ hnow, congrArg Race.fau hnow⟩
  case execute =>
    cases hamo : f.amo with
    | false =>
      obtain ⟨t, hrun, hintact, ⟨hpond, hflume, hclk, hfau⟩, hput⟩ := mergeExecuted hcmd hf hin hcode hamo
      exact ⟨t, hrun, hintact, hclk, hpond, hflume, hfau, fun _ => hput, nofun⟩
    | true =>
      cases hq : s.hop.reqs.find? id with
      | none =>
        obtain ⟨t, hrun, hintact, hpond, hflume, hclk, hfau⟩ := goneExecuted hcmd hf hin hamo hq
        exact ⟨t, hrun, hintact, hclk, hpond, hflume, hfau, nofun, nofun⟩
      | some q =>
        obtain ⟨t, hrun, hintact, ⟨hpond, hflume, hclk, hfau⟩, hamo⟩ := amoExecuted hcmd hf hin hcode hamo hq
        exact ⟨t, hrun, hintact, hclk, hpond, hflume, hfau, nofun, fun _ _ hq' => by obtain rfl := Option.some.inj hq'; exact hamo⟩

end Sys2Proof.Machine
end

section
/-! The obligation on what a write asks of the races. -/
namespace Sys2Proof.Machine

variable {s t u : State} {path : Path} {race j half i k : Nat} {val w : Word} {f g : Field} {r : Reg} {l : Loc} {ix : List Nat}

/-! ### Writes that are granted, stored and answered -/

theorem i3cStat_key : Reg.key .MIL_I3C_STAT 0 0 = 0xF00900 + 0 + 0 * 0x80000 := rfl

/-- t is u, answered OK (R91, R411). -/
structure AnsweredFrom (path : Path) (u t : State) : Prop where
  reply : Answered t
  rest : ({ t with regs := u.regs, reply := u.reply } : State) = u
  raw : ∀ r k, (path = .i3c → k ≠ Reg.key .MIL_I3C_STAT 0 0) → t.raw r k = u.raw r k

theorem State.answered_from (hw : u.regs.wf = true) (path : Path) : AnsweredFrom path u (u.answered path St.ok 0) := by
  refine ⟨State.answered_reply .., ?_, fun r k hk => State.answered_raw _ _ hw hk⟩
  obtain ⟨g, hans⟩ := u.answered_as path St.ok 0
  rw [hans]

theorem AnsweredFrom.fheld (h : AnsweredFrom path u t) (hk : f.reg.key i half ≠ Reg.key .MIL_I3C_STAT 0 0) : t.fheld f i half = u.fheld f i half :=
  State.fheld_congr (h.raw _ _ fun _ => hk)

/-- A write that is granted reaches the register at its offset. -/
theorem State.grantsWrite_acs {off : Nat} {w64 : Bool} {a : Acs} (hg : s.grantsWrite path off w64 val = true) (ha : findAcs off w64 = some a) :
    s.acs path off w64 false = .ok a := by
  cases hacs : s.acs path off w64 false with
  | error e => simp [State.grantsWrite, hacs] at hg
  | ok b => rw [Option.some.inj ((State.acs_findAcs hacs).symm.trans ha)]

/-- Every field of a written word, of a register without limits, is merged with its own bits. -/
theorem Field.of_newWord (hg : g ∈ l.reg.fields) (hfree : l.reg.unlimited = true) (val : Word) :
    g.of (s.newWord ⟨l, 0⟩ val) = g.merge (g.of (s.raw l.reg l.key)) (g.of val) (2 ^ g.w - 1) := by
  obtain ⟨hmask, hval⟩ := Field.of_writtenBits hg val
  rw [State.newWord, Field.of_limitWord_free hg (Reg.unlimited_free hfree hg), Field.of_mergeWord hg, hmask, hval]

theorem Stored.eq (h : Stored s u r k w) : u = { s with regs := u.regs } := congrArg (fun x : State => { x with regs := u.regs }) h.rest

theorem Stored.fheld (h : Stored s u r (r.key i half) w) (hf : f ∈ r.fields) : u.fheld f i half = f.of w := State.fheld_of_raw hf h.word

/-- A register keeps its word. -/
theorem Stored.same (hw : s.regs.wf = true) (r : Reg) (k : Nat) : Stored s s r k (s.raw r k) := ⟨rfl, hw, rfl, fun _ _ _ => rfl⟩

/-! ### The mode-register port (R173) -/

theorem mrCmd_found : ∀ race < 32, Fld.RACE_MR_CMD_GO.Found [race] race 0 := by unfold Field.Found; decide +kernel

/-- The word of a mode-register command. -/
def State.mrWord (s : State) (race : Nat) (val : Word) : Word :=
  s.newWord ⟨Fld.RACE_MR_CMD_GO.loc [race] race 0, 0⟩ (Fld.RACE_MR_CMD_GO.put val 1)

/-- The command's word has GO set, BUSY as it stood, and the address and the data written. -/
theorem State.mrWord_fields (s : State) (race : Nat) (val : Word) (hgo : s.fheld Fld.RACE_MR_CMD_GO race = 0)
    (hbusy : s.fheld Fld.RACE_MR_CMD_BUSY race = 0) :
    Fld.RACE_MR_CMD_GO.of (s.mrWord race val) = 1 ∧ Fld.RACE_MR_CMD_BUSY.of (s.mrWord race val) = 0
      ∧ Fld.RACE_MR_CMD_MA.of (s.mrWord race val) = Fld.RACE_MR_CMD_MA.of val
      ∧ Fld.RACE_MR_CMD_OP.of (s.mrWord race val) = Fld.RACE_MR_CMD_OP.of val := by
  have hfree : Reg.unlimited .RACE_MR_CMD = true := by decide +kernel
  have hword {g : Field} (hg : g ∈ Reg.fields .RACE_MR_CMD) : g.of (s.mrWord race val)
      = g.merge (s.fheld g race) (g.of (Fld.RACE_MR_CMD_GO.put val 1)) (2 ^ g.w - 1) := by
    refine (Field.of_newWord (l := Fld.RACE_MR_CMD_GO.loc [race] race 0) hg hfree _).trans ?_
    rw [State.fheld_eq, (Reg.fields_fit _ g hg).1]
    rfl
  have hother {g : Field} (hg : g ∈ Reg.fields .RACE_MR_CMD) (hacc : g.acc = .rw) (hne : Fld.RACE_MR_CMD_GO ≠ g) :
      g.of (s.mrWord race val) = g.of val := by
    rw [hword hg, Field.merge_full (g.of_lt _), hacc]
    exact Field.of_put_apart _ _ (Reg.fields_fit _ g hg).2 (Reg.fields_apart (by decide) hg hne)
  have hone : Fld.RACE_MR_CMD_GO.of (Fld.RACE_MR_CMD_GO.put val 1) = 1 := Field.of_put _ _ _ (by decide)
  refine ⟨?_, ?_, hother (by decide) rfl (by decide), hother (by decide) rfl (by decide)⟩
  · rw [hword (by decide), hgo, hone]
    rfl
  · rw [hword (by decide), hbusy, Field.merge_full (Field.of_lt _ _)]
    rfl

/-- A command that is granted begins: its word is stored, and the port acts on it. -/
theorem State.mrCmd_stored (hrace : race < 32) (hg : s.grantsWrite path (Reg.key .RACE_MR_CMD race 0) true (Fld.RACE_MR_CMD_GO.put val 1) = true)
    (hbusy : s.fheld Fld.RACE_MR_CMD_BUSY race = 0) (hgo : s.fheld Fld.RACE_MR_CMD_GO race = 0) :
    s.writeReg path .RACE_MR_CMD (Reg.key .RACE_MR_CMD race 0) (Fld.RACE_MR_CMD_GO.put val 1) =
      ((s.setRaw .RACE_MR_CMD (Reg.key .RACE_MR_CMD race 0) (s.mrWord race val)).startMr race (s.mrWord race val)).answered path St.ok 0 := by
  have hacs := State.grantsWrite_acs hg (mrCmd_found race hrace).findAcs
  have hown : Reg.ownRule .RACE_MR_CMD = false := by decide
  have hstored : _ = (State.store _ _ (Fld.RACE_MR_CMD_GO.loc [race] race 0) (s.raw .RACE_MR_CMD (Reg.key .RACE_MR_CMD race 0))
      (s.honoured (Fld.RACE_MR_CMD_GO.loc [race] race 0) (s.raw .RACE_MR_CMD (Reg.key .RACE_MR_CMD race 0)) (s.mrWord race val)) _).answered _ _ _ :=
    State.regWrite_stored hacs hown rfl (State.grantsWrite_refuses hg hacs hown)
  obtain ⟨hset, -⟩ := s.mrWord_fields race val hgo hbusy
  have hhonoured : s.honoured (Fld.RACE_MR_CMD_GO.loc [race] race 0) (s.raw .RACE_MR_CMD (Reg.key .RACE_MR_CMD race 0)) (s.mrWord race val)
      = s.mrWord race val := if_neg (show ¬ s.fheld Fld.RACE_MR_CMD_BUSY race = 1 by omega)
  have hstarts (v : State) (nv : Word) : v.writeHook path (Fld.RACE_MR_CMD_GO.loc [race] race 0) (s.raw .RACE_MR_CMD (Reg.key .RACE_MR_CMD race 0))
      (s.mrWord race val) nv = v.startMr race (s.mrWord race val) := if_pos (by
    have hb : Fld.RACE_MR_CMD_BUSY.of (s.raw .RACE_MR_CMD (Reg.key .RACE_MR_CMD race 0)) = 0 := hbusy
    have hz : Fld.RACE_MR_CMD_GO.of (s.raw .RACE_MR_CMD (Reg.key .RACE_MR_CMD race 0)) = 0 := hgo
    simp [hb, hz, hset])
  rw [hhonoured, State.store_field (by decide), hstarts] at hstored
  exact hstored

/-- The word of a command that is denied. -/
def mrDeniedWord (w : Word) : Word := Fld.RACE_MR_CMD_GO.put (Fld.RACE_MR_CMD_RESULT.put w 2) 0

theorem mrDeniedWord_fields (w : Word) : Fld.RACE_MR_CMD_RESULT.of (mrDeniedWord w) = 2 ∧ Fld.RACE_MR_CMD_GO.of (mrDeniedWord w) = 0
    ∧ Fld.RACE_MR_CMD_BUSY.of (mrDeniedWord w) = Fld.RACE_MR_CMD_BUSY.of w := by
  have hgo (g : Field) (h64 : g.lo + g.w ≤ 64) (ha : Fld.RACE_MR_CMD_GO.apart g) (x : Word) : g.of (Fld.RACE_MR_CMD_GO.put x 0) = g.of x :=
    Field.of_put_apart _ _ h64 ha
  refine ⟨(hgo _ (by decide) (.inr (by decide)) _).trans (Field.of_put _ _ _ (by decide)), Field.of_put _ _ _ (by decide), ?_⟩
  exact (hgo _ (by decide) (.inr (by decide)) _).trans (Field.of_put_apart _ _ (by decide) (.inl (by decide)))

theorem State.startMr_denied (hma : Fld.RACE_MR_CMD_MA.of w < 0x20) (hun : u.unlocked = false) :
    u.startMr race w = (u.fset Fld.RACE_MR_CMD_RESULT 2 race).fset Fld.RACE_MR_CMD_GO 0 race :=
  if_pos (by rw [hun, decide_eq_true hma]; rfl)

/-- u with a command that waits at the port of a race. -/
def State.mrWaiting (u : State) (race : Nat) : State := u.setRace race { u.race race with mrAt := some u.clk.age, mrIssued := false }

theorem Stored.mrWaiting (h : Stored s u r k w) (race : Nat) :
    u.mrWaiting race = u.setRace race { s.race race with mrAt := some s.clk.age, mrIssued := false } := by
  have hrace : u.race race = s.race race := by rw [h.eq]; rfl
  have hclk : u.clk = s.clk := by rw [h.eq]
  rw [State.mrWaiting, hrace, hclk]

theorem State.startMr_begun (h : 0x20 ≤ Fld.RACE_MR_CMD_MA.of w ∨ u.unlocked = true) :
    u.startMr race w = (u.fset Fld.RACE_MR_CMD_BUSY 1 race).mrWaiting race :=
  if_neg (by
    intro hdenied
    obtain ⟨hma, hun⟩ := Bool.and_eq_true_iff.mp hdenied
    have hlt := of_decide_eq_true hma
    obtain hge | hon := h
    · omega
    · simp [hon] at hun)

/-- A command for an address that is closed is denied at once. -/
theorem Stored.startMr_denied (h : Stored s u .RACE_MR_CMD (Reg.key .RACE_MR_CMD race 0) w) (hma : Fld.RACE_MR_CMD_MA.of w < 0x20)
    (hun : s.unlocked = false) : Stored s (u.startMr race w) .RACE_MR_CMD (Reg.key .RACE_MR_CMD race 0) (mrDeniedWord w) := by
  have hlocked : u.unlocked = false := by rw [h.eq]; exact hun
  rw [State.startMr_denied hma hlocked]
  exact (h.fset (f := Fld.RACE_MR_CMD_RESULT) 2).fset (f := Fld.RACE_MR_CMD_GO) 0

/-- Every other command waits at the port. -/
theorem Stored.startMr_begun (h : Stored s u .RACE_MR_CMD (Reg.key .RACE_MR_CMD race 0) w)
    (hopen : 0x20 ≤ Fld.RACE_MR_CMD_MA.of w ∨ s.unlocked = true) :
    ∃ v, u.startMr race w = v.setRace race { s.race race with mrAt := some s.clk.age, mrIssued := false }
      ∧ Stored s v .RACE_MR_CMD (Reg.key .RACE_MR_CMD race 0) (Fld.RACE_MR_CMD_BUSY.put w 1) := by
  have hopen' : 0x20 ≤ Fld.RACE_MR_CMD_MA.of w ∨ u.unlocked = true := by rw [h.eq]; exact hopen
  have hbusy : Stored s (u.fset Fld.RACE_MR_CMD_BUSY 1 race) .RACE_MR_CMD _ _ := h.fset (f := Fld.RACE_MR_CMD_BUSY) 1
  exact ⟨_, (State.startMr_begun hopen').trans (hbusy.mrWaiting race), hbusy⟩

theorem mrCmd_key_ne (race : Nat) : Reg.key .RACE_MR_CMD race 0 ≠ Reg.key .MIL_I3C_STAT 0 0 := by
  have hport : Reg.key .RACE_MR_CMD race 0 = 0x800200 + race * 0x10000 + 0 := rfl
  have hstat := i3cStat_key
  omega

/-- What a mode-register command leaves when it is denied. -/
theorem mrDenied (hs : Stored s u .RACE_MR_CMD (Reg.key .RACE_MR_CMD race 0) (mrDeniedWord w)) (hbusy : Fld.RACE_MR_CMD_BUSY.of w = 0)
    (ht : AnsweredFrom path u t) :
    t.clk = s.clk ∧ t.fheld Fld.RACE_MR_CMD_RESULT race = 2 ∧ t.fheld Fld.RACE_MR_CMD_GO race = 0 ∧ t.fheld Fld.RACE_MR_CMD_BUSY race = 0
      ∧ t.races = s.races := by
  have hfield {f : Field} (hf : f ∈ Reg.fields .RACE_MR_CMD) : t.fheld f race = f.of (mrDeniedWord w) := by
    have hkey : f.reg.key race 0 ≠ Reg.key .MIL_I3C_STAT 0 0 := by rw [(Reg.fields_fit _ f hf).1]; exact mrCmd_key_ne race
    exact (ht.fheld hkey).trans (hs.fheld hf)
  obtain ⟨hresult, hgo, hkept⟩ := mrDeniedWord_fields w
  refine ⟨(congrArg State.clk ht.rest :).trans (congrArg State.clk hs.rest :), (hfield (by decide)).trans hresult, (hfield (by decide)).trans hgo,
    (hfield (by decide)).trans (hkept.trans hbusy), (congrArg State.races ht.rest :).trans (congrArg State.races hs.rest :)⟩

/-- What a mode-register command leaves when it begins. -/
theorem mrBegun (hs : Stored s u .RACE_MR_CMD (Reg.key .RACE_MR_CMD race 0) (Fld.RACE_MR_CMD_BUSY.put w 1))
    (ht : AnsweredFrom path (u.setRace race { s.race race with mrAt := some s.clk.age, mrIssued := false }) t) :
    t.clk = s.clk ∧ t.fheld Fld.RACE_MR_CMD_BUSY race = 1 ∧ t.race race = { s.race race with mrAt := some s.clk.age, mrIssued := false }
      ∧ t.fheld Fld.RACE_MR_CMD_MA race = Fld.RACE_MR_CMD_MA.of w ∧ t.fheld Fld.RACE_MR_CMD_OP race = Fld.RACE_MR_CMD_OP.of w
      ∧ ∀ r, r ≠ race → t.race r = s.race r := by
  have hfield {f : Field} (hf : f ∈ Reg.fields .RACE_MR_CMD) : t.fheld f race = f.of (Fld.RACE_MR_CMD_BUSY.put w 1) := by
    have hkey : f.reg.key race 0 ≠ Reg.key .MIL_I3C_STAT 0 0 := by rw [(Reg.fields_fit _ f hf).1]; exact mrCmd_key_ne race
    exact (ht.fheld hkey).trans ((State.setRace_fheld ..).trans (hs.fheld hf))
  have hother {g : Field} (hg : g ∈ Reg.fields .RACE_MR_CMD) (hne : Fld.RACE_MR_CMD_BUSY ≠ g) : t.fheld g race = g.of w :=
    (hfield hg).trans (Field.of_put_apart _ _ (Reg.fields_fit _ g hg).2 (Reg.fields_apart (by decide) hg hne))
  have hraces (r : Nat) : t.race r = (u.setRace race { s.race race with mrAt := some s.clk.age, mrIssued := false }).race r :=
    (congrArg (fun x : State => x.race r) ht.rest :)
  refine ⟨(congrArg State.clk ht.rest :).trans (congrArg State.clk hs.rest :), (hfield (by decide)).trans (Field.of_put _ _ _ (by decide)),
    (hraces race).trans (State.race_setRace ..), hother (by decide) (by decide), hother (by decide) (by decide), fun r hr => ?_⟩
  exact ((hraces r).trans (State.race_setRace_other _ _ _ _ hr)).trans (congrArg (fun x : State => x.race r) hs.rest :)

/-! ### Slot swaps (R211, R216) -/

theorem swap_asks {races : Nat} (hlt : races < 2 ^ 32) : Fld.SLU_SLOT_SWAP_RACES.Asks races := ⟨by decide, hlt, by decide +kernel, by decide⟩

theorem swap_found : Fld.SLU_SLOT_SWAP_RACES.Found [] 0 0 := by unfold Field.Found; decide +kernel

/-- The clock after a swap of the races in new was asked for, where old was: from mc 48 on it is for the Turn after the next. -/
def Clk.swapAsked (c : Clk) (old new : Nat) : Clk := if c.mc < 48 then c else { c with swapLate := c.swapLate ||| (new &&& (old ^^^ 0xFFFFFFFF)) }

theorem Clk.swapAsked_eq (c : Clk) (old new : Nat) : c.swapAsked old new = if c.mc < 48 then c else { c with swapLate := (c.swapAsked old new).swapLate } := by
  unfold Clk.swapAsked
  split <;> rfl

/-- A race waits for the Turn after the next where it did, or where it was not asked for before. -/
theorem Clk.swapAsked_late (c : Clk) (old races : Nat) (hmc : 48 ≤ c.mc) {r : Nat} (hr : r < 32) :
    bit (c.swapAsked old (old ||| races)).swapLate r = (bit c.swapLate r || (bit races r && !bit old r)) := by
  have hones : (0xFFFFFFFF : Nat).testBit r = true := by
    rw [show (0xFFFFFFFF : Nat) = 2 ^ 32 - 1 from rfl, Nat.testBit_two_pow_sub_one, decide_eq_true hr]
  rw [Clk.swapAsked, if_neg (by omega)]
  simp only [bit, Nat.testBit_or, Nat.testBit_and, Nat.testBit_xor, hones]
  cases old.testBit r <;> simp

theorem State.writeHook_swap (u : State) (old new nv : Word) : u.writeHook path (Fld.SLU_SLOT_SWAP_RACES.loc [] 0 0) old new nv =
    { u with clk := u.clk.swapAsked (Fld.SLU_SLOT_SWAP_RACES.of old) (Fld.SLU_SLOT_SWAP_RACES.of new) } := by
  change (if u.clk.mc < 48 then u else _) = _
  unfold Clk.swapAsked
  split <;> rfl

/-- A slot swap that is granted adds its races to those asked for. -/
theorem State.writeField_swap {races : Nat} (hlt : races < 2 ^ 32) (hw : s.regs.wf = true)
    (hg : s.grantsField path Fld.SLU_SLOT_SWAP_RACES races 0 0 = true) :
    ∃ u, s.writeField path Fld.SLU_SLOT_SWAP_RACES races = State.answered u path St.ok 0
      ∧ Stored { s with clk := s.clk.swapAsked (s.fheld Fld.SLU_SLOT_SWAP_RACES) (s.fheld Fld.SLU_SLOT_SWAP_RACES ||| races) } u .SLU_SLOT_SWAP
          (Reg.key .SLU_SLOT_SWAP 0 0) (s.fieldWord Fld.SLU_SLOT_SWAP_RACES races 0 0 [])
      ∧ Fld.SLU_SLOT_SWAP_RACES.of (s.fieldWord Fld.SLU_SLOT_SWAP_RACES races 0 0 []) = s.fheld Fld.SLU_SLOT_SWAP_RACES ||| races := by
  have ha := swap_asks hlt
  have hvalue : Fld.SLU_SLOT_SWAP_RACES.of (s.fieldWord Fld.SLU_SLOT_SWAP_RACES races 0 0 []) = s.fheld Fld.SLU_SLOT_SWAP_RACES ||| races := by
    rw [ha.of_named, Field.merge_full ha.fits]
    rfl
  have hold : Fld.SLU_SLOT_SWAP_RACES.of (s.raw Fld.SLU_SLOT_SWAP_RACES.reg (Fld.SLU_SLOT_SWAP_RACES.reg.key 0 0)) = s.fheld Fld.SLU_SLOT_SWAP_RACES := rfl
  have hhonoured (old new : Word) : s.honoured (Fld.SLU_SLOT_SWAP_RACES.loc [] 0 0) old new = new := rfl
  have hwrite := State.writeField_stored hg swap_found (by decide)
  rw [State.store_field (by decide), State.writeHook_swap, hhonoured, hvalue, hold] at hwrite
  refine ⟨_, hwrite, ?_, hvalue⟩
  obtain ⟨hrest, hwf, hword, hother⟩ := Stored.setRaw hw .SLU_SLOT_SWAP (Reg.key .SLU_SLOT_SWAP 0 0) (s.fieldWord Fld.SLU_SLOT_SWAP_RACES races 0 0 [])
  exact ⟨rfl, hwf, hword, hother⟩

/-! ### Retrainings (R274) -/

theorem retrain_asks (hi : i < 16) : Fld.FAN_CTRL_RETRAIN.Asks (2 ^ i) :=
  ⟨by decide, Nat.pow_lt_pow_right (by decide) hi, by decide +kernel, by decide⟩

theorem retrain_found : ∀ half < 2, Fld.FAN_CTRL_RETRAIN.Found [] 0 half := by unfold Field.Found; decide +kernel

/-- The races whose bit a write sets. -/
def newlyAsked (old new : Nat) : List Nat := (List.range 16).filter (fun k => bit new k && !bit old k)

theorem newlyAsked_one (hi : i < 16) {old : Nat} (hold : bit old i = false) : newlyAsked old (old ||| 2 ^ i) = [i] := by
  have hbit : ∀ k ∈ List.range 16, (bit (old ||| 2 ^ i) k && !bit old k) = decide (i = k) := by
    intro k _
    by_cases hk : i = k
    · subst hk
      simp only [bit] at hold ⊢
      simp [hold]
    · simp [bit, hk]
  rw [newlyAsked, List.filter_congr hbit]
  clear hbit hold
  revert i
  decide

/-- A race that runs asks for its retraining. -/
def State.askIfRuns (u : State) (r : Nat) : State := if u.raceRuns r then u.askRetrain r else u

theorem State.writeHook_retrain (u : State) (old new nv : Word) : u.writeHook path (Fld.FAN_CTRL_RETRAIN.loc [] 0 half) old new nv =
    each (newlyAsked (Fld.FAN_CTRL_RETRAIN.of old) (Fld.FAN_CTRL_RETRAIN.of new)) (fun k v => v.askIfRuns (16 * half + k))
      (u.fset Fld.FAN_CTRL_RETRAIN (Fld.FAN_CTRL_RETRAIN.of old) 0 half) := rfl

theorem State.askRetrain_new (hqueue : race ∉ (s.fan (raceHalf race)).queue) (hrunning : (s.fan (raceHalf race)).running ≠ some race) :
    s.askRetrain race =
      (s.fset Fld.FAN_CTRL_RETRAIN (s.fheld Fld.FAN_CTRL_RETRAIN 0 (raceHalf race) ||| 2 ^ (race % 16)) 0 (raceHalf race)).setFan (raceHalf race)
        { s.fan (raceHalf race) with queue := (s.fan (raceHalf race)).queue ++ [race] } :=
  if_neg (by simp [hqueue, hrunning])

/-- A request that is granted is one race's, and that race asks if it runs. -/
theorem State.writeField_retrain (hhalf : half < 2) (hi : i < 16) (hw : s.regs.wf = true)
    (hg : s.grantsField path Fld.FAN_CTRL_RETRAIN (2 ^ i) 0 half = true) (hold : bit (s.fheld Fld.FAN_CTRL_RETRAIN 0 half) i = false) :
    ∃ u, s.writeField path Fld.FAN_CTRL_RETRAIN (2 ^ i) 0 half = (u.askIfRuns (16 * half + i)).answered path St.ok 0
      ∧ ∃ w, Stored s u .FAN_CTRL (Reg.key .FAN_CTRL 0 half) w ∧ Fld.FAN_CTRL_RETRAIN.of w = s.fheld Fld.FAN_CTRL_RETRAIN 0 half := by
  have ha := retrain_asks hi
  have hvalue : Fld.FAN_CTRL_RETRAIN.of (s.fieldWord Fld.FAN_CTRL_RETRAIN (2 ^ i) 0 half []) = s.fheld Fld.FAN_CTRL_RETRAIN 0 half ||| 2 ^ i := by
    rw [ha.of_named, Field.merge_full ha.fits]
    rfl
  have hwas : Fld.FAN_CTRL_RETRAIN.of (s.raw Fld.FAN_CTRL_RETRAIN.reg (Fld.FAN_CTRL_RETRAIN.reg.key 0 half)) = s.fheld Fld.FAN_CTRL_RETRAIN 0 half := rfl
  have hhonoured (old new : Word) : s.honoured (Fld.FAN_CTRL_RETRAIN.loc [] 0 half) old new = new := rfl
  have hwrite := State.writeField_stored hg (retrain_found half hhalf) (by decide)
  rw [State.store_field (by decide), State.writeHook_retrain, hhonoured, hvalue, hwas, newlyAsked_one hi hold] at hwrite
  refine ⟨_, hwrite, _, (Stored.setRaw hw .FAN_CTRL (Reg.key .FAN_CTRL 0 half) _).fset (f := Fld.FAN_CTRL_RETRAIN) _, ?_⟩
  exact (Field.of_put _ _ _ (by decide)).trans (Nat.mod_eq_of_lt (Field.of_lt _ _))

/-- A race that runs joins its half's queue, and its bit is set. -/
theorem Stored.askRetrain (hs : Stored s u .FAN_CTRL (Reg.key .FAN_CTRL 0 half) w) (hheld : Fld.FAN_CTRL_RETRAIN.of w = s.fheld Fld.FAN_CTRL_RETRAIN 0 half)
    (hi : i < 16) (hqueue : (16 * half + i) ∉ (s.fan half).queue) (hrunning : (s.fan half).running ≠ some (16 * half + i)) :
    ∃ v w', u.askRetrain (16 * half + i) = v.setFan half { s.fan half with queue := (s.fan half).queue ++ [16 * half + i] }
      ∧ Stored s v .FAN_CTRL (Reg.key .FAN_CTRL 0 half) w'
      ∧ Fld.FAN_CTRL_RETRAIN.of w' = (s.fheld Fld.FAN_CTRL_RETRAIN 0 half ||| 2 ^ i) % 2 ^ 16 := by
  have hhalf : raceHalf (16 * half + i) = half := by unfold raceHalf; omega
  have hbit : (16 * half + i) % 16 = i := by omega
  have hfan : u.fan half = s.fan half := by rw [hs.eq]; rfl
  have hset : u.fheld Fld.FAN_CTRL_RETRAIN 0 half = s.fheld Fld.FAN_CTRL_RETRAIN 0 half := (hs.fheld (by decide)).trans hheld
  have hasks := State.askRetrain_new (s := u) (race := 16 * half + i) (by rw [hhalf, hfan]; exact hqueue) (by rw [hhalf, hfan]; exact hrunning)
  rw [hhalf, hbit, hset, hfan] at hasks
  exact ⟨_, _, hasks, hs.fset (f := Fld.FAN_CTRL_RETRAIN) _, Field.of_put _ _ _ (by decide)⟩

theorem fanCtrl_key_ne (half : Nat) : Reg.key .FAN_CTRL 0 half ≠ Reg.key .MIL_I3C_STAT 0 0 := by
  have hctrl : Reg.key .FAN_CTRL 0 half = 0xA00008 + 0 + half * 0x80000 := rfl
  have hstat := i3cStat_key
  omega

/-- A retraining asked for changes no race's service: FAN_CTRL is not DRS_ISOL. -/
theorem Stored.raceRuns (hs : Stored s u .FAN_CTRL (Reg.key .FAN_CTRL 0 half) w) (race : Nat) : u.raceRuns race = s.raceRuns race := by
  have hoff : Reg.key .DRS_ISOL 0 0 ≠ Reg.key .FAN_CTRL 0 half := by
    have hctrl : Reg.key .FAN_CTRL 0 half = 0xA00008 + 0 + half * 0x80000 := rfl
    have hisol : Reg.key .DRS_ISOL 0 0 = 0xB02010 + 0 + 0 * 0x80000 := rfl
    omega
  have hisol : u.fheld Fld.DRS_ISOL_ISOL = s.fheld Fld.DRS_ISOL_ISOL := State.fheld_congr (hs.other _ _ hoff)
  have hrace : u.race race = s.race race := (congrArg (fun x : State => x.race race) hs.rest :)
  have hgov : u.gov = s.gov := (congrArg State.gov hs.rest :)
  rw [State.raceRuns, State.raceRuns, State.isolated, State.isolated, hisol, hrace, hgov]

theorem State.setFan_fheld (s : State) (half : Nat) (x : Fan) (f : Field) (i h : Nat) : (s.setFan half x).fheld f i h = s.fheld f i h := rfl

/-! ### Slot words (R206, R216) -/

/-- Word j of a race's active slot table, as an access finds it. -/
def slotLoc (race j : Nat) : Loc := ⟨.RACE_SLOT_ACT, Reg.key2 .RACE_SLOT_ACT race j 0, [race, j], 0, false⟩

theorem slot_found : ∀ race < 32, ∀ j < 8, findAcs (Reg.key2 .RACE_SLOT_ACT race j 0) true = some ⟨slotLoc race j, 0⟩ := by decide +kernel

/-- The one field of a slot word is the word. -/
theorem slotEntry_of (w : Word) : Fld.RACE_SLOT_ACT_ENTRY.of w = w.toNat := by
  change (w.toNat >>> 0) % 2 ^ 64 = w.toNat
  exact Nat.mod_eq_of_lt w.isLt

theorem State.slot_newWord (s : State) (race j : Nat) (val : Word) : s.newWord ⟨slotLoc race j, 0⟩ val = val := by
  have hfree : Reg.unlimited .RACE_SLOT_ACT = true := by decide +kernel
  have hmerge := Field.of_newWord (s := s) (l := slotLoc race j) (g := Fld.RACE_SLOT_ACT_ENTRY) (by simp [slotLoc, Reg.fields]) hfree val
  rw [Field.merge_full (Field.of_lt _ _), slotEntry_of, slotEntry_of] at hmerge
  exact BitVec.eq_of_toNat_eq hmerge

/-- A slot word that is granted is stored with reserved codes as OPEN. -/
theorem State.slotWrite_stored (hrace : race < 32) (hj : j < 8) (hg : s.grantsWrite path (Reg.key2 .RACE_SLOT_ACT race j 0) true val = true) :
    s.writeReg path .RACE_SLOT_ACT (Reg.key2 .RACE_SLOT_ACT race j 0) val =
      (s.store path (slotLoc race j) (s.actWord race j) (slotWord val).1 val).answered path St.ok 0 := by
  have hacs := State.grantsWrite_acs hg (slot_found race hrace j hj)
  have hold : s.oldWord (slotLoc race j) = s.actWord race j := if_neg (show Reg.RACE_SLOT_ACT ≠ .TLY_HEAT_DATA by decide)
  have hword : limitWord (slotLoc race j).reg (mergeWord (slotLoc race j).reg (s.actWord race j) (writtenBits ⟨slotLoc race j, 0⟩ val).2
      (writtenBits ⟨slotLoc race j, 0⟩ val).1) = val := s.slot_newWord race j val
  have hhonoured : s.honoured (slotLoc race j) (s.actWord race j) val = (slotWord val).1 := rfl
  simp only [State.grantsWrite, hacs, Option.isNone_iff_eq_none] at hg
  change s.regWrite path _ true val = _
  simp only [State.regWrite, hacs, hg]
  rw [hold, hword, hhonoured]
  rfl

/-- v with a direct write of slot words that stood as was, with reserved codes or without (R206, R211). -/
def State.slotNoted (v : State) (race : Nat) (bad : Bool) (was : List Word) : State :=
  (((if bad then v.fset Fld.RACE_SLOT_STAT_BADCODE 1 race else v).keepTable race was).fset Fld.RACE_SLOT_STAT_DIRECT 1 race).fset
    Fld.RACE_SLOT_STAT_ADMIT 0 race

/-- The race's status word after a direct write. -/
def slotStat (w : Word) (bad : Bool) : Word :=
  Fld.RACE_SLOT_STAT_ADMIT.put (Fld.RACE_SLOT_STAT_DIRECT.put (if bad then Fld.RACE_SLOT_STAT_BADCODE.put w 1 else w) 1) 0

theorem slotStat_fields (w : Word) (bad : Bool) : Fld.RACE_SLOT_STAT_DIRECT.of (slotStat w bad) = 1 ∧ Fld.RACE_SLOT_STAT_ADMIT.of (slotStat w bad) = 0
    ∧ Fld.RACE_SLOT_STAT_BADCODE.of (slotStat w bad) = if bad then 1 else Fld.RACE_SLOT_STAT_BADCODE.of w := by
  have hput {f g : Field} (hf : f ∈ Reg.fields .RACE_SLOT_STAT) (hg : g ∈ Reg.fields .RACE_SLOT_STAT) (hne : f ≠ g) (v : Nat) (x : Word) :
      g.of (f.put x v) = g.of x := Field.of_put_apart _ _ (Reg.fields_fit _ g hg).2 (Reg.fields_apart hf hg hne)
  unfold slotStat
  refine ⟨?_, Field.of_put _ _ _ (by decide), ?_⟩
  · rw [hput (by decide) (by decide) (by decide)]
    exact Field.of_put _ _ _ (by decide)
  · rw [hput (by decide) (by decide) (by decide), hput (by decide) (by decide) (by decide)]
    cases bad with
    | true => exact Field.of_put _ _ _ (by decide)
    | false => rfl

/-- A race's record with the table before a direct write kept (R213, R217, R219). -/
def Race.tableKept (x : Race) (now mc : Nat) (was : List Word) : Race :=
  { x with actPrev := some (match x.actPrev with | some (m, ws) => if m = now then (m, ws) else (now, was) | none => (now, was))
           act48 := if mc < 48 || x.act48.isSome then x.act48 else some was }

theorem Stored.keepTable (h : Stored s u r k w) (race : Nat) (was : List Word) :
    u.keepTable race was = u.setRace race ((s.race race).tableKept s.now s.clk.mc was) := by
  rw [h.eq]
  rfl

/-- The rest of a race's record stands. -/
theorem Race.tableKept_rest (x : Race) (now mc : Nat) (was : List Word) :
    ({ x.tableKept now mc was with actPrev := x.actPrev, act48 := x.act48 } : Race) = x := rfl

theorem State.setRace_fset (s : State) (r : Nat) (x : Race) (f : Field) (v i h : Nat) : (s.setRace r x).fset f v i h = (s.fset f v i h).setRace r x := rfl

/-- A direct write marks the table and keeps the one before it. -/
theorem State.slotNoted_eq (hw : u.regs.wf = true) (race : Nat) (bad : Bool) (was : List Word) :
    ∃ v, u.slotNoted race bad was = v.setRace race ((u.race race).tableKept u.now u.clk.mc was)
      ∧ Stored u v .RACE_SLOT_STAT (Reg.key .RACE_SLOT_STAT race 0) (slotStat (u.raw .RACE_SLOT_STAT (Reg.key .RACE_SLOT_STAT race 0)) bad) := by
  have hbad : Stored u (if bad then u.fset Fld.RACE_SLOT_STAT_BADCODE 1 race else u) .RACE_SLOT_STAT (Reg.key .RACE_SLOT_STAT race 0)
      (if bad then Fld.RACE_SLOT_STAT_BADCODE.put (u.raw .RACE_SLOT_STAT (Reg.key .RACE_SLOT_STAT race 0)) 1
        else u.raw .RACE_SLOT_STAT (Reg.key .RACE_SLOT_STAT race 0)) := by
    cases bad with
    | true => exact (Stored.same hw .RACE_SLOT_STAT _).fset (f := Fld.RACE_SLOT_STAT_BADCODE) 1
    | false => exact .same hw _ _
  have hnoted := (hbad.fset (f := Fld.RACE_SLOT_STAT_DIRECT) 1).fset (f := Fld.RACE_SLOT_STAT_ADMIT) 0
  refine ⟨_, ?_, hnoted⟩
  rw [State.slotNoted, hbad.keepTable, State.setRace_fset, State.setRace_fset]

theorem slotAct_key (race j : Nat) : Reg.key2 .RACE_SLOT_ACT race j 0 = 0x800440 + (race * 0x10000 + j * 0x8) + 0 * 0x80000 := rfl

theorem slotStat_key (race : Nat) : Reg.key .RACE_SLOT_STAT race 0 = 0x800480 + race * 0x10000 + 0 * 0x80000 := rfl

/-- The active table with one word replaced by what it was. -/
def State.tableWas (v : State) (race j : Nat) (old : Word) : List Word := (List.range 8).map (fun n => if n = j then old else v.actWord race n)

theorem State.writeHook_slot (u : State) (race j : Nat) (old new nv : Word) : u.writeHook path (slotLoc race j) old new nv =
    u.slotNoted race (slotWord nv).2
      ((if (slotWord nv).2 then u.fset Fld.RACE_SLOT_STAT_BADCODE 1 race else u).tableWas race j old) := rfl

/-- The table before a direct write is the table that was held. -/
theorem Stored.tableWas (hs : Stored s u .RACE_SLOT_ACT (Reg.key2 .RACE_SLOT_ACT race j 0) w) (bad : Bool) :
    (if bad then u.fset Fld.RACE_SLOT_STAT_BADCODE 1 race else u).tableWas race j (s.actWord race j) = (List.range 8).map (s.actWord race) := by
  refine List.map_congr_left fun n hn => ?_
  have hlt := List.mem_range.mp hn
  have hact := slotAct_key race
  have hstat := slotStat_key race
  split
  · next hnj => rw [hnj]
  · next hnj =>
    have hkept : u.actWord race n = s.actWord race n := hs.other _ _ (by rw [hact, hact]; omega)
    cases bad with
    | true =>
      exact (((Stored.same hs.wf .RACE_SLOT_STAT (Reg.key .RACE_SLOT_STAT race 0)).fset (f := Fld.RACE_SLOT_STAT_BADCODE) 1).other _ _
        (by rw [hact]; change _ ≠ Reg.key .RACE_SLOT_STAT race 0; rw [hstat]; omega)).trans hkept
    | false => exact hkept

theorem State.setRace_raw (s : State) (r : Nat) (x : Race) (q : Reg) (k : Nat) : (s.setRace r x).raw q k = s.raw q k := rfl

theorem slotStat_ne_act (hj : j < 8) : Reg.key .RACE_SLOT_STAT race 0 ≠ Reg.key2 .RACE_SLOT_ACT race j 0 := by
  rw [slotStat_key, slotAct_key]
  omega

/-- The one race whose record a direct write changes keeps its tables in it. -/
theorem State.tableKept_races (v : State) (race now mc : Nat) (was : List Word) (r : Nat) :
    ({ (v.setRace race ((v.race race).tableKept now mc was)).race r with actPrev := (v.race r).actPrev, act48 := (v.race r).act48 } : Race) = v.race r := by
  rw [State.setRace_races_at]
  split
  · next hr => rw [hr]; exact Race.tableKept_rest ..
  · rfl

theorem Race.tableKept_prev {x : Race} (hnone : x.actPrev = none) (now mc : Nat) (was : List Word) :
    (x.tableKept now mc was).actPrev = some (now, was) := by
  rw [Race.tableKept, hnone]

theorem Race.tableKept_act48 {x : Race} (hnone : x.act48 = none) (now mc : Nat) (was : List Word) :
    (x.tableKept now mc was).act48 = if mc < 48 then none else some was := by
  rw [Race.tableKept, hnone]
  simp

/-- What a direct slot write leaves: v holds the marked table's status, u the word written. -/
theorem slotLeft {v : State} {bad : Bool} {was : List Word} (hj : j < 8)
    (hs : Stored s u .RACE_SLOT_ACT (Reg.key2 .RACE_SLOT_ACT race j 0) w)
    (hv : Stored u v .RACE_SLOT_STAT (Reg.key .RACE_SLOT_STAT race 0) (slotStat (s.raw .RACE_SLOT_STAT (Reg.key .RACE_SLOT_STAT race 0)) bad))
    (ht : AnsweredFrom path (v.setRace race ((s.race race).tableKept s.now s.clk.mc was)) t) :
    Answered t ∧ ({ t with regs := s.regs, reply := s.reply, races := s.races } : State) = s
      ∧ (∀ r k, k ∉ [Reg.key2 .RACE_SLOT_ACT race j 0, Reg.key .RACE_SLOT_STAT race 0] → (path = .i3c → k ≠ Reg.key .MIL_I3C_STAT 0 0) →
          t.raw r k = s.raw r k)
      ∧ (∀ r, ({ t.race r with actPrev := (s.race r).actPrev, act48 := (s.race r).act48 } : Race) = s.race r)
      ∧ (((s.race race).actPrev = none → (t.race race).actPrev = some (s.now, was))
         ∧ ((s.race race).act48 = none → (t.race race).act48 = (if s.clk.mc < 48 then none else some was)))
      ∧ t.raw .RACE_SLOT_ACT (Reg.key2 .RACE_SLOT_ACT race j 0) = w ∧ t.fheld Fld.RACE_SLOT_STAT_DIRECT race = 1
      ∧ t.fheld Fld.RACE_SLOT_STAT_ADMIT race = 0
      ∧ t.fheld Fld.RACE_SLOT_STAT_BADCODE race = (if bad then 1 else s.fheld Fld.RACE_SLOT_STAT_BADCODE race) := by
  have hraces (r : Nat) : t.race r = (v.setRace race ((s.race race).tableKept s.now s.clk.mc was)).race r :=
    (congrArg (fun x : State => x.race r) ht.rest :)
  have hsame (r : Nat) : v.race r = s.race r := (congrArg (fun x : State => x.race r) hv.rest :).trans (congrArg (fun x : State => x.race r) hs.rest :)
  have hrace : t.race race = (s.race race).tableKept s.now s.clk.mc was := (hraces race).trans (State.race_setRace ..)
  have hother (r : Reg) (k : Nat) (hi : path = .i3c → k ≠ Reg.key .MIL_I3C_STAT 0 0) : t.raw r k = v.raw r k :=
    (ht.raw r k hi).trans (State.setRace_raw ..)
  have hfield {f : Field} (hf : f ∈ Reg.fields .RACE_SLOT_STAT) :
      t.fheld f race = f.of (slotStat (s.raw .RACE_SLOT_STAT (Reg.key .RACE_SLOT_STAT race 0)) bad) := by
    have hkey : f.reg.key race 0 ≠ Reg.key .MIL_I3C_STAT 0 0 := by
      rw [(Reg.fields_fit _ f hf).1, slotStat_key, i3cStat_key]
      omega
    exact ((ht.fheld hkey).trans (State.setRace_fheld ..)).trans (hv.fheld hf)
  obtain ⟨hdirect, hadmit, hbad⟩ := slotStat_fields (s.raw .RACE_SLOT_STAT (Reg.key .RACE_SLOT_STAT race 0)) bad
  have hframe := congrArg (fun x : State => { x with regs := s.regs, reply := s.reply, races := s.races }) ht.rest
  have hmarked := congrArg (fun x : State => { x with regs := s.regs, reply := s.reply, races := s.races }) hv.rest
  have hstored := congrArg (fun x : State => { x with reply := s.reply, races := s.races }) hs.rest
  refine ⟨ht.reply, (hframe.trans hmarked).trans hstored, fun r k hk hi => ?raw, fun r => ?races, ⟨fun hnone => ?prev, fun hnone => ?act⟩, ?word,
    (hfield (by decide)).trans hdirect, (hfield (by decide)).trans hadmit, (hfield (by decide)).trans hbad⟩
  case raw =>
    simp only [List.mem_cons, List.not_mem_nil, or_false, not_or] at hk
    exact ((hother r k hi).trans (hv.other r k hk.2)).trans (hs.other r k hk.1)
  case races =>
    have hkept := v.tableKept_races race s.now s.clk.mc was r
    rw [hsame, hsame] at hkept
    rw [hraces]
    exact hkept
  case prev => rw [hrace, Race.tableKept_prev hnone]
  case act => rw [hrace, Race.tableKept_act48 hnone]
  case word =>
    have hi3c : Reg.key2 .RACE_SLOT_ACT race j 0 ≠ Reg.key .MIL_I3C_STAT 0 0 := by
      rw [slotAct_key, i3cStat_key]
      omega
    exact ((hother _ _ fun _ => hi3c).trans (hv.other _ _ (slotStat_ne_act hj).symm)).trans hs.word

/-! ### The obligation -/

theorem mrCmdAsked (hw : s.regs.wf = true) (hrace : race < 32)
    (hg : s.grantsWrite path (Reg.key .RACE_MR_CMD race 0) true (Fld.RACE_MR_CMD_GO.put val 1) = true)
    (hbusy : s.fheld Fld.RACE_MR_CMD_BUSY race = 0) (hgo : s.fheld Fld.RACE_MR_CMD_GO race = 0) :
    Completes (.mrCmd path race val) s (fun t => Intact s t ∧ t.clk = s.clk ∧ Answered t
      ∧ (Fld.RACE_MR_CMD_MA.of val < 0x20 → s.unlocked = false → t.fheld Fld.RACE_MR_CMD_RESULT race = 2
          ∧ t.fheld Fld.RACE_MR_CMD_GO race = 0 ∧ t.fheld Fld.RACE_MR_CMD_BUSY race = 0 ∧ t.races = s.races)
      ∧ (0x20 ≤ Fld.RACE_MR_CMD_MA.of val ∨ s.unlocked = true → t.fheld Fld.RACE_MR_CMD_BUSY race = 1
          ∧ t.race race = { s.race race with mrAt := some s.clk.age, mrIssued := false }
          ∧ t.fheld Fld.RACE_MR_CMD_MA race = Fld.RACE_MR_CMD_MA.of val ∧ t.fheld Fld.RACE_MR_CMD_OP race = Fld.RACE_MR_CMD_OP.of val
          ∧ ∀ r, r ≠ race → t.race r = s.race r)) := by
  obtain ⟨-, hb, hma, hop⟩ := s.mrWord_fields race val hgo hbusy
  have hrun : exec (.mrCmd path race val) s = .next _ :=
    congrArg Host.Outcome.next ((when_true (decide_eq_true hrace) _ s).trans (State.mrCmd_stored hrace hg hbusy hgo))
  have hintact := exec_intact hrun rfl rfl
  have hs := Stored.setRaw hw .RACE_MR_CMD (Reg.key .RACE_MR_CMD race 0) (s.mrWord race val)
  by_cases hdenied : Fld.RACE_MR_CMD_MA.of val < 0x20 ∧ s.unlocked = false
  · have hd := hs.startMr_denied (by rw [hma]; exact hdenied.1) hdenied.2
    have ht := State.answered_from hd.wf path
    obtain ⟨hclk, hleft⟩ := mrDenied hd hb ht
    refine .of_exec hrun ⟨hintact, hclk, ht.reply, fun _ _ => hleft, fun hopen => ?_⟩
    obtain hge | hon := hopen
    · omega
    · exact absurd (hdenied.2.symm.trans hon) (by decide)
  · have hopen : 0x20 ≤ Fld.RACE_MR_CMD_MA.of (s.mrWord race val) ∨ s.unlocked = true := by
      rw [hma]
      by_cases hlow : Fld.RACE_MR_CMD_MA.of val < 0x20
      · exact .inr (by simpa [hlow] using hdenied)
      · exact .inl (by omega)
    obtain ⟨v, hstart, hv⟩ := hs.startMr_begun hopen
    rw [hstart] at hrun hintact
    have ht := State.answered_from (u := v.setRace race { s.race race with mrAt := some s.clk.age, mrIssued := false }) hv.wf path
    have hleft := mrBegun hv ht
    rw [hma, hop] at hleft
    exact .of_exec hrun ⟨hintact, hleft.1, ht.reply, fun hlow hun => absurd ⟨hlow, hun⟩ hdenied, fun _ => hleft.2⟩

theorem slotSwapAsked {races : Nat} (hw : s.regs.wf = true) (hlt : races < 2 ^ 32) (hg : s.grantsField path Fld.SLU_SLOT_SWAP_RACES races 0 0 = true) :
    Completes (.slotSwapRequest path races) s (fun t => Answered t
      ∧ ({ t with regs := s.regs, reply := s.reply, clk := s.clk } : State) = s
      ∧ (∀ r k, k ≠ Reg.key .SLU_SLOT_SWAP 0 0 → (path = .i3c → k ≠ Reg.key .MIL_I3C_STAT 0 0) → t.raw r k = s.raw r k)
      ∧ t.clk = (if s.clk.mc < 48 then s.clk else { s.clk with swapLate := t.clk.swapLate })
      ∧ (48 ≤ s.clk.mc → ∀ r, r < 32 → bit t.clk.swapLate r
          = (bit s.clk.swapLate r || (bit races r && !bit (s.fheld Fld.SLU_SLOT_SWAP_RACES) r)))
      ∧ t.fheld Fld.SLU_SLOT_SWAP_RACES = (s.fheld Fld.SLU_SLOT_SWAP_RACES ||| races)) := by
  obtain ⟨u, hwrite, hs, hvalue⟩ := State.writeField_swap hlt hw hg
  have hkey : Reg.key .SLU_SLOT_SWAP 0 0 ≠ Reg.key .MIL_I3C_STAT 0 0 := State.grantsField_key_ne hg swap_found (by decide)
  have hrun : exec (.slotSwapRequest path races) s = .next _ := congrArg Host.Outcome.next hwrite
  have ht := State.answered_from hs.wf path
  generalize u.answered path St.ok 0 = t at hrun ht
  have hclk : t.clk = s.clk.swapAsked (s.fheld Fld.SLU_SLOT_SWAP_RACES) (s.fheld Fld.SLU_SLOT_SWAP_RACES ||| races) :=
    (congrArg State.clk ht.rest :).trans (congrArg State.clk hs.rest :)
  have hframe := congrArg (fun x : State => { x with regs := s.regs, reply := s.reply, clk := s.clk }) ht.rest
  have hbefore := congrArg (fun x : State => { x with reply := s.reply, clk := s.clk }) hs.rest
  refine .of_exec hrun ⟨ht.reply, hframe.trans hbefore, fun r k hk hi => (ht.raw r k hi).trans (hs.other r k hk), ?_, fun hmc r hr => ?_, ?_⟩
  · rw [hclk]
    exact Clk.swapAsked_eq ..
  · rw [hclk]
    exact Clk.swapAsked_late _ _ _ hmc hr
  · exact ((ht.fheld (f := Fld.SLU_SLOT_SWAP_RACES) hkey).trans (hs.fheld (by decide))).trans hvalue

theorem slotWritten (hw : s.regs.wf = true) (hrace : race < 32) (hj : j < 8)
    (hg : s.grantsWrite path (Reg.key2 .RACE_SLOT_ACT race j 0) true val = true) :
    Completes (.slotDirectWrite path race j val) s (fun t =>
      Answered t ∧ ({ t with regs := s.regs, reply := s.reply, races := s.races } : State) = s
      ∧ (∀ r k, k ∉ [Reg.key2 .RACE_SLOT_ACT race j 0, Reg.key .RACE_SLOT_STAT race 0] → (path = .i3c → k ≠ Reg.key .MIL_I3C_STAT 0 0) →
          t.raw r k = s.raw r k)
      ∧ (∀ r, ({ t.race r with actPrev := (s.race r).actPrev, act48 := (s.race r).act48 } : Race) = s.race r)
      ∧ (let was := (List.range 8).map (s.actWord race)
         ((s.race race).actPrev = none → (t.race race).actPrev = some (s.now, was))
         ∧ ((s.race race).act48 = none → (t.race race).act48 = (if s.clk.mc < 48 then none else some was)))
      ∧ t.raw .RACE_SLOT_ACT (Reg.key2 .RACE_SLOT_ACT race j 0) = (slotWord val).1 ∧ t.fheld Fld.RACE_SLOT_STAT_DIRECT race = 1
      ∧ t.fheld Fld.RACE_SLOT_STAT_ADMIT race = 0
      ∧ t.fheld Fld.RACE_SLOT_STAT_BADCODE race = (if (slotWord val).2 then 1 else s.fheld Fld.RACE_SLOT_STAT_BADCODE race)) := by
  have hs := Stored.setRaw hw .RACE_SLOT_ACT (Reg.key2 .RACE_SLOT_ACT race j 0) (slotWord val).1
  have hok : (decide (race < 32) && decide (j < 8)) = true := by simp [hrace, hj]
  have hrun : exec (.slotDirectWrite path race j val) s = .next _ :=
    congrArg Host.Outcome.next ((when_true hok _ s).trans (State.slotWrite_stored hrace hj hg))
  rw [State.store_now (by rfl), State.writeHook_slot, slotLoc, hs.tableWas] at hrun
  obtain ⟨v, hnoted, hv⟩ := State.slotNoted_eq hs.wf race (slotWord val).2 ((List.range 8).map (s.actWord race))
  have hnew : (s.setRaw .RACE_SLOT_ACT (Reg.key2 .RACE_SLOT_ACT race j 0) (slotWord val).1).slotNoted race (slotWord val).2
      ((List.range 8).map (s.actWord race)) = v.setRace race ((s.race race).tableKept s.now s.clk.mc ((List.range 8).map (s.actWord race))) := hnoted
  have hkept : (s.setRaw .RACE_SLOT_ACT (Reg.key2 .RACE_SLOT_ACT race j 0) (slotWord val).1).raw .RACE_SLOT_STAT (Reg.key .RACE_SLOT_STAT race 0)
      = s.raw .RACE_SLOT_STAT (Reg.key .RACE_SLOT_STAT race 0) := hs.other _ _ (slotStat_ne_act hj)
  generalize s.setRaw .RACE_SLOT_ACT (Reg.key2 .RACE_SLOT_ACT race j 0) (slotWord val).1 = u at hrun hs hv hnew hkept
  rw [hkept] at hv
  rw [hnew] at hrun
  exact .of_exec hrun (slotLeft hj hs hv (State.answered_from (u := v.setRace race _) hv.wf path))

theorem retrainAsked (hw : s.regs.wf = true) (hhalf : half < 2) (hi : i < 16)
    (hg : s.grantsField path Fld.FAN_CTRL_RETRAIN (2 ^ i) 0 half = true) (hold : bit (s.fheld Fld.FAN_CTRL_RETRAIN 0 half) i = false)
    (hqueue : (16 * half + i) ∉ (s.fan half).queue) (hrunning : (s.fan half).running ≠ some (16 * half + i)) :
    (s.raceRuns (16 * half + i) = true → Completes (.retrainRequest path half i) s (fun t => Answered t
      ∧ t.fan half = { s.fan half with queue := (s.fan half).queue ++ [16 * half + i] }
      ∧ t.fheld Fld.FAN_CTRL_RETRAIN 0 half = (s.fheld Fld.FAN_CTRL_RETRAIN 0 half ||| 2 ^ i)
      ∧ ({ t with regs := s.regs, reply := s.reply, fanE := s.fanE, fanW := s.fanW } : State) = s))
    ∧ (s.raceRuns (16 * half + i) = false → Completes (.retrainRequest path half i) s (fun t => Answered t ∧ t.fan half = s.fan half
      ∧ t.fheld Fld.FAN_CTRL_RETRAIN 0 half = s.fheld Fld.FAN_CTRL_RETRAIN 0 half)) := by
  obtain ⟨u, hwrite, w, hs, hheld⟩ := State.writeField_retrain hhalf hi hw hg hold
  have hok : (decide (half < 2) && decide (i < 16)) = true := by simp [hhalf, hi]
  have hrun : exec (.retrainRequest path half i) s = .next _ := congrArg Host.Outcome.next ((when_true hok _ s).trans hwrite)
  have hruns := hs.raceRuns (16 * half + i)
  refine ⟨fun hon => ?_, fun hoff => ?_⟩
  · obtain ⟨v, w', hask, hv, hvalue⟩ := hs.askRetrain hheld hi hqueue hrunning
    have hlt : s.fheld Fld.FAN_CTRL_RETRAIN 0 half ||| 2 ^ i < 2 ^ 16 := Nat.or_lt_two_pow (Field.of_lt _ _) (Nat.pow_lt_pow_right (by decide) hi)
    rw [State.askIfRuns, if_pos (hruns.trans hon), hask] at hrun
    have ht := State.answered_from (u := v.setFan half { s.fan half with queue := (s.fan half).queue ++ [16 * half + i] }) hv.wf path
    have hfan := State.fan_setFan (s := v) half { s.fan half with queue := (s.fan half).queue ++ [16 * half + i] }
    generalize State.answered (v.setFan half _) path St.ok 0 = t at hrun ht
    have hframe := congrArg (fun x : State => { x with regs := s.regs, reply := s.reply, fanE := s.fanE, fanW := s.fanW }) ht.rest
    have hbefore := congrArg (fun x : State => { x with reply := s.reply, fanE := s.fanE, fanW := s.fanW }) hv.rest
    refine .of_exec hrun ⟨ht.reply, (congrArg (fun x : State => x.fan half) ht.rest :).trans hfan, ?_, hframe.trans hbefore⟩
    have hv' : v.fheld Fld.FAN_CTRL_RETRAIN 0 half = s.fheld Fld.FAN_CTRL_RETRAIN 0 half ||| 2 ^ i :=
      ((hv.fheld (by decide)).trans hvalue).trans (Nat.mod_eq_of_lt hlt)
    exact ((ht.fheld (f := Fld.FAN_CTRL_RETRAIN) (fanCtrl_key_ne half)).trans (State.setFan_fheld ..)).trans hv'
  · rw [State.askIfRuns, if_neg (by simp [hruns, hoff])] at hrun
    have ht := State.answered_from hs.wf path
    generalize u.answered path St.ok 0 = t at hrun ht
    refine .of_exec hrun ⟨ht.reply, (congrArg (fun x : State => x.fan half) ht.rest :).trans (congrArg (fun x : State => x.fan half) hs.rest :), ?_⟩
    exact ((ht.fheld (f := Fld.FAN_CTRL_RETRAIN) (fanCtrl_key_ne half)).trans (hs.fheld (by decide))).trans hheld

/-- Settles O44: what each of the four writes asks for is what its register's rule does with the word stored. -/
theorem raceCommandsAreAskedFor : Obligations.RaceCommandsAreAskedFor := fun _ _ _ _ _ _ _ hw hrace hj hhalf hi =>
  ⟨fun hg hbusy hgo => mrCmdAsked hw hrace hg hbusy hgo, fun _ hlt hg => slotSwapAsked hw hlt hg, fun hg => slotWritten hw hrace hj hg,
    fun hg hold hqueue hrunning => retrainAsked hw hhalf hi hg hold hqueue hrunning⟩

end Sys2Proof.Machine
end

section
/-! The obligation on refreshes and self-refresh. -/
namespace Sys2Proof.Machine

variable {s t u v : State} {race r mc pr sid slot : Nat} {x y : Race} {n : RowReq} {K : Set Nat}

/-! ### REFab and self-refresh (R199 to R201) -/

/-- Only the banks change, and stay canonical. -/
theorem Race.mapBanks_eq (x : Race) (pr sid : Nat) (f : Bank → Bank) :
    ∃ b, x.mapBanks pr sid f = { x with banks := b } ∧ (x.banks.wf = true → b.wf = true) :=
  ⟨_, rfl, fun hw => foldl_tbl_wf hw fun _ _ h => Tbl.wf_upd _ _ _ _ h⟩

theorem Race.mapBanks_both_eq (x : Race) (sid : Nat) (f : Bank → Bank) :
    ∃ b, (x.mapBanks 0 sid f).mapBanks 1 sid f = { x with banks := b } ∧ (x.banks.wf = true → b.wf = true) := by
  obtain ⟨b₀, hb₀, hw₀⟩ := x.mapBanks_eq 0 sid f
  obtain ⟨b, hb, hw⟩ := ({ x with banks := b₀ } : Race).mapBanks_eq 1 sid f
  rw [hb₀, hb]
  exact ⟨b, rfl, hw ∘ hw₀⟩

/-- Besides the banks, clearing a SID changes its dues and the queue of RFMs. -/
theorem Race.clearSid_eq (x : Race) (sd : Nat) :
    ∃ b q, x.clearSid sd = { x with banks := b, acc := (x.acc.del sd).del (4 + sd), owed := (x.owed.del sd).del (4 + sd), rfmQ := q }
      ∧ (x.banks.wf = true → b.wf = true) := by
  unfold Race.clearSid
  extract_lets z y
  obtain ⟨b, hb, hw⟩ := x.mapBanks_both_eq sd z
  have hy : y = { x with banks := b } := hb
  rw [hy]
  exact ⟨b, _, rfl, hw⟩

/-- The record after a REFab at t. -/
def Race.refreshedAll (x : Race) (pr sid t : Nat) : Race :=
  let y := (x.mapBanks pr sid fun b => { b with ppc := 0, urgRef := false }).issue ⟨.refab, pr, sid, 0, 0, 0⟩ t 0
  { y with owed := y.owed.del (4 * pr + sid), mustRefab := y.mustRefab.filter (· ≠ 4 * pr + sid)
           handAb := if (y.hand.find? sid).isSome then y.handAb ++ [4 * pr + sid] else y.handAb }

theorem Race.refreshedAll_parts (x : Race) (pr sid t : Nat) :
    (x.refreshedAll pr sid t).hist.head? = some ⟨t, .refab, pr, sid, 0, 0, 0⟩
      ∧ (x.refreshedAll pr sid t).owed = x.owed.del (4 * pr + sid)
      ∧ (x.refreshedAll pr sid t).mustRefab = x.mustRefab.filter (· ≠ 4 * pr + sid)
      ∧ (x.refreshedAll pr sid t).banks = (x.mapBanks pr sid (fun b => { b with ppc := 0, urgRef := false })).banks := by
  obtain ⟨b, hb, -⟩ := x.mapBanks_eq pr sid fun b => { b with ppc := 0, urgRef := false }
  rw [Race.refreshedAll, hb]
  exact ⟨rfl, rfl, rfl, rfl⟩

theorem exec_refab (hcmd : s.raceCmd race = true) (hlegal : s.legal race (s.at mc) ⟨.refab, pr, sid, 0, 0, 0⟩ = true)
    (hgrant : s.rowGranted race (s.at mc) ⟨.refab, pr, sid, 0, 0, 0⟩ = true) :
    exec (.refab race mc pr sid) s = .next { s.setRace race ((s.race race).refreshedAll pr sid (s.at mc)) with clk := s.clkAt mc } :=
  congrArg Host.Outcome.next (when_true (by simp [hcmd, hlegal, hgrant]) _ s)

/-- The record after an SRE at t, which leaves the pads as p. -/
def Race.asleep (x : Race) (sid t : Nat) (p : Bool) : Race :=
  let calm := fun b : Bank => { b with rfmReq := false, urgRfm := false }
  let y := ((x.mapBanks 0 sid calm).mapBanks 1 sid calm).issue ⟨.sre, 0, sid, 0, 0, 0⟩ t 0
  let y := { y with sref := y.sref.ins sid true, hand := y.hand.del sid, rfmQ := y.rfmQ.filter (fun q => q.2.1 / 32 % 4 ≠ sid) }
  { y with spinPads := p }

theorem Race.asleep_parts (x : Race) (sid t : Nat) (p : Bool) :
    (x.asleep sid t p).hist.head? = some ⟨t, .sre, 0, sid, 0, 0, 0⟩ ∧ (x.asleep sid t p).sref = x.sref.ins sid true
      ∧ (x.asleep sid t p).hand = x.hand.del sid := by
  obtain ⟨b, hb, -⟩ := x.mapBanks_both_eq sid fun b => { b with rfmReq := false, urgRfm := false }
  rw [Race.asleep, hb]
  exact ⟨rfl, rfl, rfl⟩

/-- s with the line of the SID's die at the rate in force (R199). -/
def State.srrSet (s : State) (race sid : Nat) : State :=
  { s with gov := { s.gov with srr := s.gov.srr.put 0 (dieOf race sid) ((s.race race).rate.get 2 sid) } }

theorem exec_sre (hcmd : s.raceCmd race = true) (hhand : ((s.race race).hand.find? sid).isSome = true)
    (hlegal : s.legal race (s.at mc) ⟨.sre, 0, sid, 0, 0, 0⟩ = true) (hgrant : s.rowGranted race (s.at mc) ⟨.sre, 0, sid, 0, 0, 0⟩ = true) :
    ∃ p, exec (.sre race mc sid) s
      = .next { (s.srrSet race sid).setRace race ((s.race race).asleep sid (s.at mc) p) with clk := s.clkAt mc } :=
  ⟨_, congrArg Host.Outcome.next (when_true (by simp [hcmd, hhand, hlegal, hgrant]) _ s)⟩

/-- The record after an SRX at t, with the counts of tracking as in tr. -/
def Race.awake (x : Race) (sid t : Nat) (tr : Train) : Race :=
  let y := x.clearSid sid
  { y.issue ⟨.srx, 0, sid, 0, 0, 0⟩ t 0 with sref := y.sref.del sid, tr := tr, spinPads := false }

theorem Race.awake_parts (x : Race) (sid t : Nat) (tr : Train) :
    (x.awake sid t tr).hist.head? = some ⟨t, .srx, 0, sid, 0, 0, 0⟩ ∧ (x.awake sid t tr).sref = x.sref.del sid
      ∧ (x.awake sid t tr).banks = (x.clearSid sid).banks ∧ (x.awake sid t tr).acc = (x.acc.del sid).del (4 + sid)
      ∧ (x.awake sid t tr).owed = (x.owed.del sid).del (4 + sid) := by
  obtain ⟨b, q, hclear, -⟩ := x.clearSid_eq sid
  rw [Race.awake, hclear]
  exact ⟨rfl, rfl, rfl, rfl, rfl⟩

theorem exec_srx (hcmd : s.raceCmd race = true) (hlegal : s.legal race (s.at mc) ⟨.srx, 0, sid, 0, 0, 0⟩ = true)
    (hgrant : s.rowGranted race (s.at mc) ⟨.srx, 0, sid, 0, 0, 0⟩ = true) :
    ∃ tr, exec (.srx race mc sid) s = .next { s.setRace race ((s.race race).awake sid (s.at mc) tr) with clk := s.clkAt mc } :=
  ⟨_, congrArg Host.Outcome.next (when_true (by simp [hcmd, hlegal, hgrant]) _ s)⟩

theorem exec_srHandover (hcmd : s.raceCmd race = true) (hsid : sid < s.nsid) (hawake : (s.race race).sref.get false sid = false)
    (hnone : (s.race race).hand.find? sid = none) (hasked : s.handAsked race sid = true) :
    exec (.srHandover race mc sid) s = .next { s.setRace race { s.race race with
      hand := (s.race race).hand.ins sid (s.at mc), handAb := (s.race race).handAb.filter (fun k => k % 4 ≠ sid) } with clk := s.clkAt mc } :=
  congrArg Host.Outcome.next (when_true (by simp [hcmd, hsid, hawake, hnone, hasked]) _ s)

/-! ### A handover for a reset that fails (R203) -/

theorem Tbl.get_upd_same {α : Type} [DecidableEq α] {b : Tbl α} (hw : b.wf = true) (d : α) (k : Nat) (f : α → α) :
    (b.upd d k f).get d k = f (b.get d k) := Tbl.get_put_same _ _ _ _ hw

theorem Tbl.get_upd_other {α : Type} [DecidableEq α] {b : Tbl α} (hw : b.wf = true) (d : α) {k i : Nat} (f : α → α) (hi : i ≠ k) :
    (b.upd d k f).get d i = b.get d i := Tbl.get_put_other _ _ _ _ _ hw hi

/-- What f gives every value holds at each key that is updated with f, and stays where it held. -/
theorem Tbl.get_foldl_upd {α : Type} [DecidableEq α] {d : α} {f : α → α} {P : α → Prop} (hf : ∀ a, P (f a)) {k : Nat} (l : List Nat)
    {b : Tbl α} (hw : b.wf = true) (h : k ∈ l ∨ P (b.get d k)) : P ((l.foldl (fun b k => b.upd d k f) b).get d k) := by
  induction l generalizing b with
  | nil => exact h.resolve_left (List.not_mem_nil)
  | cons i l ih =>
    refine ih (Tbl.wf_upd b d i f hw) ?_
    by_cases hi : k = i
    · subst hi
      exact .inr (by rw [Tbl.get_upd_same hw]; exact hf _)
    · rw [Tbl.get_upd_other hw d f hi]
      exact h.imp_left fun hmem => (List.mem_cons.mp hmem).resolve_left hi

/-- The banks of several SIDs changed one after the other. -/
theorem Race.foldl_mapBanks (f : Bank → Bank) (l : List (Nat × Nat)) (x : Race) :
    l.foldl (fun y e => y.mapBanks e.1 e.2 f) x
      = { x with banks := (l.flatMap fun e => bankKeys e.1 e.2).foldl (fun b k => b.upd {} k f) x.banks } := by
  rw [List.foldl_flatMap]
  exact List.foldl_hom (fun b => { x with banks := b }) (g₂ := fun y (e : Nat × Nat) => y.mapBanks e.1 e.2 f) fun _ _ => rfl

/-- Clearing SIDs keeps the banks canonical and leaves self-refresh alone. -/
theorem Race.foldl_clearSid (l : List Nat) (hw : x.banks.wf = true) :
    (l.foldl Race.clearSid x).banks.wf = true ∧ (l.foldl Race.clearSid x).sref = x.sref := by
  induction l generalizing x with
  | nil => exact ⟨hw, rfl⟩
  | cons sd l ih =>
    obtain ⟨b, q, hclear, hwf⟩ := x.clearSid_eq sd
    rw [List.foldl_cons, hclear]
    exact ih (hwf hw)

/-- The pseudo-races of a race, in each of its SIDs. -/
def State.prSids (s : State) : List (Nat × Nat) := (List.range 2).flatMap fun p => (List.range s.nsid).map fun sd => (p, sd)

theorem State.mem_bankKeys_prSids {k : Nat} (hk : k < 256) (hsid : k / 32 % 4 < s.nsid) : k ∈ s.prSids.flatMap fun e => bankKeys e.1 e.2 := by
  simp only [prSids, bankKeys, List.mem_flatMap, List.mem_map, List.mem_range]
  exact ⟨(k / 128, k / 32 % 4), ⟨k / 128, by omega, _, hsid, rfl⟩, k % 32, by omega, by omega⟩

theorem State.prSids_keys (s : State) :
    s.prSids.map (fun e => 4 * e.1 + e.2) = (List.range 2).flatMap fun p => (List.range s.nsid).map fun sd => 4 * p + sd := by
  simp [prSids, List.map_flatMap, Function.comp_def]

/-- What a failed handover leaves: no handover, self-refresh as it was, every RAA at RFM_TH and every REFab to be owed. -/
theorem State.handFail_set (s : State) (r : Nat) (hw : (s.race r).banks.wf = true) :
    ∃ y, s.handFail r = s.setRace r y ∧ y.hand = {} ∧ y.sref = (s.race r).sref
      ∧ (∀ k, k < 256 → k / 32 % 4 < s.nsid → (y.banks.get {} k).raa = s.fget Fld.RACE_REF_CFG_RFM_TH r)
      ∧ y.mustRefab = s.prSids.map (fun e => 4 * e.1 + e.2) := by
  obtain ⟨hbanks, hsref⟩ := Race.foldl_clearSid (List.range s.nsid) hw
  have hfold := Race.foldl_mapBanks (fun b => { b with raa := s.fget Fld.RACE_REF_CFG_RFM_TH r, row := none }) s.prSids
    ((List.range s.nsid).foldl Race.clearSid (s.race r))
  refine ⟨_, rfl, rfl, (congrArg Race.sref hfold).trans hsref, fun k hk hsid => ?_, rfl⟩
  refine (congrArg (fun y : Race => (y.banks.get {} k).raa) hfold).trans ?_
  exact Tbl.get_foldl_upd (P := fun b : Bank => b.raa = s.fget Fld.RACE_REF_CFG_RFM_TH r) (fun _ => rfl) _ hbanks
    (.inl (State.mem_bankKeys_prSids hk hsid))

theorem exec_handoverTimeout {a : Nat} (hrace : race < 32) (hreset : (s.race race).inReset = true) (hmust : (s.race race).mustRefab = [])
    (ha : a ∈ (s.race race).hand.vals) (hold : s.now ≥ a + 4 * 256) : exec (.handoverTimeout race) s = .next (s.handFail race) := by
  have hany : ((s.race race).hand.vals.any fun t => decide (s.now ≥ t + 4 * 256)) = true := List.any_eq_true.mpr ⟨a, ha, decide_eq_true hold⟩
  exact congrArg Host.Outcome.next (when_true (by simp only [hrace, hreset, hmust, hany, decide_true, List.isEmpty_nil, Bool.and_self]) _ s)

/-! ### What follows a refresh: its plan and its postponements (R186, R187) -/

/-- A bank but for the postponement of its REFpb. -/
def Bank.unpostponed (b : Bank) : Bank := { b with ppc := 0, urgRef := false }

/-- From s to t, race r has had its plan changed and REFpb of banks in K postponed. -/
structure Replanned (r : Nat) (K : Set Nat) (s t : State) : Prop where
  hist : (t.race r).hist = (s.race r).hist
  rfmQ : (t.race r).rfmQ = (s.race r).rfmQ
  banks : ∀ k, ((t.race r).banks.get {} k).unpostponed = ((s.race r).banks.get {} k).unpostponed
  kept : ∀ k, k ∉ K → (t.race r).banks.get {} k = (s.race r).banks.get {} k
  others : OtherRaces r s t

theorem OtherRaces.trans (h : OtherRaces r s t) (g : OtherRaces r t u) : OtherRaces r s u := by
  obtain ⟨hraces, hpond, hflume⟩ := h
  obtain ⟨graces, gpond, gflume⟩ := g
  exact ⟨fun i hi => ⟨(graces i hi).1.trans (hraces i hi).1, (graces i hi).2.trans (hraces i hi).2⟩, gpond.trans hpond, gflume.trans hflume⟩

theorem RowsSet.replanned (h : RowsSet r (s.race r) s t) (hq : (t.race r).rfmQ = (s.race r).rfmQ) : Replanned r K s t :=
  ⟨h.hist, hq, fun k => by rw [h.banks], fun k _ => by rw [h.banks], h.others⟩

theorem State.setRace_replanned (hbanks : y.banks = (s.race r).banks) (hhist : y.hist = (s.race r).hist) (hq : y.rfmQ = (s.race r).rfmQ) :
    Replanned r K s (s.setRace r y) := (State.setRace_rows hbanks hhist).replanned ((congrArg Race.rfmQ (State.race_setRace ..)).trans hq)

theorem Replanned.refl (r : Nat) (K : Set Nat) (s : State) : Replanned r K s s := (RaceSet.refl r s).rowsSet.replanned rfl

theorem Replanned.trans (h : Replanned r K s t) (g : Replanned r K t u) : Replanned r K s u :=
  ⟨g.hist.trans h.hist, g.rfmQ.trans h.rfmQ, fun k => (g.banks k).trans (h.banks k), fun k hk => (g.kept k hk).trans (h.kept k hk),
    h.others.trans g.others⟩

theorem Replanned.fadd (h : Replanned r K s u) (f : Field) (k i half : Nat) : Replanned r K s (u.fadd f k i half) :=
  ⟨h.hist, h.rfmQ, h.banks, h.kept, h.others⟩

theorem Replanned.raised (h : Replanned r K s u) (hr : Raised u t) : Replanned r K s t :=
  h.trans (((RaceSet.refl r u).rowsSet.raised hr).replanned (congrArg Race.rfmQ (hr.races r) :))

theorem Replanned.tally (h : Replanned r K s u) (half bank i k : Nat) : Replanned r K s (u.tally half bank i k) :=
  ⟨h.hist, h.rfmQ, h.banks, h.kept, h.others⟩

theorem Replanned.tallyRace (h : Replanned r K s u) (i e k : Nat) : Replanned r K s (u.tallyRace i e k) := h.tally ..

theorem Replanned.ite {c : Prop} [Decidable c] (hu : Replanned r K s u) (hv : Replanned r K s v) : Replanned r K s (if c then u else v) := by
  split <;> assumption

theorem Replanned.each {α : Type} {l : List α} {f : α → State → State} (h : Replanned r K s u) (hf : ∀ a v, Replanned r K v (f a v)) :
    Replanned r K s (each l f u) := by
  unfold Machine.each
  induction l generalizing u with
  | nil => exact h
  | cons a l ih => exact ih (h.trans (hf a u))

/-- Only the plans of x change. -/
theorem Race.mapSlots_eq (x : Race) (pr age turn : Nat) (f : List RefSlot → List RefSlot) :
    ∃ a b c d, x.mapSlots pr age turn f = { x with planA := a, planB := b, nextA := c, nextB := d } := by
  unfold Race.mapSlots Race.setPlan
  split
  · exact ⟨_, _, _, _, rfl⟩
  · split <;> exact ⟨_, _, _, _, rfl⟩

theorem State.mapSlots_replanned (s : State) (r pr age turn : Nat) (f : List RefSlot → List RefSlot) :
    Replanned r K s (s.setRace r ((s.race r).mapSlots pr age turn f)) := by
  obtain ⟨a, b, c, d, hx⟩ := (s.race r).mapSlots_eq pr age turn f
  rw [hx]
  exact State.setRace_replanned rfl rfl rfl

theorem State.refill_replanned (s : State) (r pr turn slot : Nat) : Replanned r K s (s.refill r pr turn slot) := s.mapSlots_replanned ..

theorem State.urgArises_replanned (s : State) (r pr : Nat) : Replanned r K s (s.urgArises r pr) := by
  unfold State.urgArises
  extract_lets z k s₁
  have hset : Replanned r K s s₁ := State.setRace_replanned rfl rfl rfl
  exact ((hset.fadd ..).raised (State.raise_raised ..)).ite hset

/-- A bank of K takes another postponement. -/
theorem State.putBank_replanned (s : State) (r : Nat) {k : Nat} {b : Bank} (hk : k ∈ K) (hb : b ≠ {})
    (hsame : b.unpostponed = ((s.race r).banks.get {} k).unpostponed) :
    Replanned r K s (s.setRace r { s.race r with banks := (s.race r).banks.put {} k b }) := by
  have hset := (RaceSet.refl r s).setRace { s.race r with banks := (s.race r).banks.ins k b }
  rw [Tbl.put, if_neg hb]
  refine ⟨by rw [hset.race], by rw [hset.race], fun i => ?_, fun i hi => ?_, hset.rowsSet.others⟩
  · rw [hset.race]
    by_cases hik : i = k
    · rw [hik, Tbl.get_ins_same, hsame]
    · rw [Tbl.get_ins_other _ _ _ _ _ hik]
  · rw [hset.race]
    exact Tbl.get_ins_other _ _ _ _ _ (ne_of_mem_of_not_mem hk hi).symm

theorem State.postpone_replanned (s : State) (r : Nat) {k : Nat} (hk : k ∈ K) : Replanned r K s (s.postpone r k) := by
  unfold State.postpone
  dsimp only
  refine .ite (.refl ..) (.ite (.trans ?urgent (State.urgArises_replanned ..)) (.fadd ?counted ..))
  case urgent => exact s.putBank_replanned r hk (fun h => Bool.noConfusion (congrArg Bank.urgRef h)) rfl
  case counted => exact s.putBank_replanned r hk (fun h => Nat.succ_ne_zero _ (congrArg Bank.ppc h)) rfl

theorem State.postponeSlot_replanned (s : State) (r pr turn : Nat) (e : RefSlot) : Replanned r Set.univ s (s.postponeSlot r pr turn e) := by
  have hset : Replanned r Set.univ s (s.setRace r ((s.race r).mapSlots pr s.clk.age turn (fun l => l.filter (fun q => q.slot ≠ e.slot)))) :=
    s.mapSlots_replanned ..
  unfold State.postponeSlot
  exact .ite hset (.ite (hset.fadd ..) (hset.trans (State.postpone_replanned _ _ (Set.mem_univ _))))

/-! ### REFpb and RFM (R186, R193, R194, R196) -/

/-- The number of the bank that a command names. -/
def RowReq.key (n : RowReq) : Nat := bankNo n.pr n.sid n.bg n.bank

/-- A bank after its REFpb. -/
def Bank.refreshed (b : Bank) (dec : Nat) : Bank := { b with ppc := 0, urgRef := false, raa := b.raa - dec }

/-- b' is b after an RFM, but for the row that it names. -/
structure Bank.Managed (b b' : Bank) (dec : Nat) : Prop where
  rfmReq : b'.rfmReq = false
  urgRfm : b'.urgRfm = false
  raa : b'.raa = b.raa - dec

/-- Race r of u is that of s after n in mc t, but for what follows on its plan. -/
structure RefIssued (r t : Nat) (n : RowReq) (s u : State) : Prop where
  issued : Issued r n t 0 u
  others : OtherRaces r s u
  refpb : n.cmd = .refpb → (u.race r).bankOf n = ((s.race r).bankOf n).refreshed (s.fget Fld.RACE_REF_CFG_REF_DEC r)
  rfmBank : n.cmd = .rfm → ((s.race r).bankOf n).Managed ((u.race r).bankOf n) (s.fget Fld.RACE_REF_CFG_RFM_DEC r)
  rfmQ : n.cmd = .rfm → (u.race r).rfmQ = (s.race r).rfmQ.filter fun q => q.2.1 ≠ n.key

theorem Bank.Managed.unpostponed {b c d : Bank} {dec : Nat} (h : b.Managed c dec) (hd : d.unpostponed = c.unpostponed) : b.Managed d dec :=
  ⟨(congrArg Bank.rfmReq hd :).trans h.rfmReq, (congrArg Bank.urgRfm hd :).trans h.urgRfm, (congrArg Bank.raa hd :).trans h.raa⟩

/-- The banks that a command may leave postponed: a REFpb none but its own. -/
def RowReq.mayPostpone (n : RowReq) : Set Nat := { k | n.cmd = .rfm ∨ k ≠ n.key }

theorem RefIssued.replanned {τ : Nat} (h : RefIssued r τ n s u) (g : Replanned r n.mayPostpone u v) : RefIssued r τ n s v where
  issued := (congrArg List.head? g.hist).trans h.issued
  others := h.others.trans g.others
  refpb hn := (g.kept n.key (by simp [RowReq.mayPostpone, hn])).trans (h.refpb hn)
  rfmBank hn := (h.rfmBank hn).unpostponed (g.banks n.key)
  rfmQ hn := g.rfmQ.trans (h.rfmQ hn)

/-- The bank that refBank leaves, in the race's record. -/
theorem State.refBank_set (s : State) (r : Nat) (n : RowReq) : ∃ y, s.refBank r n = s.setRace r y
    ∧ (n.cmd = .refpb → y.bankOf n = ((s.race r).bankOf n).refreshed (s.fget Fld.RACE_REF_CFG_REF_DEC r))
    ∧ (n.cmd = .rfm → ((s.race r).bankOf n).Managed (y.bankOf n) (s.fget Fld.RACE_REF_CFG_RFM_DEC r)
        ∧ y.rfmQ = (s.race r).rfmQ.filter fun q => q.2.1 ≠ n.key) := by
  unfold State.refBank
  dsimp only
  split
  · next hn =>
    refine ⟨_, rfl, fun hpb => absurd (hn.symm.trans hpb) (by decide), fun _ => ⟨?_, rfl⟩⟩
    show Bank.Managed _ (Race.bankOf (Race.setBank _ _ _) n) _
    rw [Race.bankOf_setBank]
    exact ⟨rfl, rfl, rfl⟩
  · next hn => exact ⟨_, rfl, fun _ => Race.bankOf_setBank .., fun hrfm => absurd hrfm hn⟩

/-- s with n issued in mc t and its bank as n leaves it. -/
def State.refDone (s : State) (r t : Nat) (n : RowReq) : State :=
  let u := (s.modeAt r t).refBank r n
  u.setRace r ((u.race r).issue n t 0)

theorem State.refDone_issued (s : State) (r t : Nat) (n : RowReq) : RefIssued r t n s (s.refDone r t n) := by
  obtain ⟨m, hmode⟩ := (RaceSet.refl r s).modeAt t
  obtain ⟨y, hbank, hpb, hrfm⟩ := (s.modeAt r t).refBank_set r n
  have hset := (hmode.setRace y).setRace (y.issue n t 0)
  rw [hmode.race, hmode.fget] at hpb hrfm
  rw [State.refDone, hbank, State.race_setRace]
  refine ⟨?_, hset.rowsSet.others, ?_, ?_, ?_⟩
  · exact congrArg (fun x : Race => x.hist.head?) hset.race
  all_goals rw [hset.race]
  · exact hpb
  · exact fun hn => (hrfm hn).1
  · exact fun hn => (hrfm hn).2

/-- What follows n: its counts, its slot spent, a command that the slot had planned postponed, another slot of n refilled. -/
theorem State.refIssue_replanned (s : State) (r t : Nat) (n : RowReq) : Replanned r n.mayPostpone (s.refDone r t n) (s.refIssue r t n) := by
  unfold State.refIssue
  extract_lets s₁ x urgent rfm k due others s₂ s₃ s₄ s₅ s₆
  have hcounted : Replanned r n.mayPostpone s₃ s₄ := .ite (((Replanned.refl ..).fadd ..).tallyRace ..) ((Replanned.refl ..).tallyRace ..)
  have hurgent : Replanned r n.mayPostpone s₃ s₅ := .ite ((hcounted.fadd ..).tally ..) hcounted
  refine Replanned.each (s := s₃) ?_ fun e u => State.refill_replanned ..
  have hspent (turn : Nat) (f : List RefSlot → List RefSlot) :
      Replanned r n.mayPostpone s₃ (s₅.setRace r ((s₅.race r).mapSlots n.pr s₅.clk.age turn f)) :=
    hurgent.trans (State.mapSlots_replanned ..)
  clear_value due
  simp only [s₆]
  split
  · exact hurgent
  · next turn e =>
    split
    · exact hspent ..
    · next hother =>
      split
      · exact (hspent ..).fadd ..
      · next hrfm =>
        refine (hspent ..).trans (State.postpone_replanned _ _ ?_)
        show n.cmd = .rfm ∨ e.key n.pr ≠ k
        by_contra h
        push Not at h
        simp [h.2, rfm, h.1, hrfm] at hother

theorem State.refIssue_issued (s : State) (r t : Nat) (n : RowReq) : RefIssued r t n s (s.refIssue r t n) :=
  (s.refDone_issued r t n).replanned (s.refIssue_replanned r t n)

/-! ### The commands of the refresh engine -/

theorem exec_refpb (hcmd : s.raceCmd race = true) (hruns : s.refRuns race = true) (hnow : s.refNow race pr (s.at mc) (s.waiting race) = some n)
    (hpb : n.cmd = .refpb) (hsid : n.sid = sid) (hgrant : s.rowGranted race (s.at mc) n = true) :
    exec (.refpb race mc pr sid) s = .next { s.refIssue race (s.at mc) n with clk := s.clkAt mc } := by
  change Host.Outcome.next _ = _
  simp only [hnow, hcmd, hruns, hpb, hsid, hgrant, decide_true, Bool.and_self, when_true]

theorem exec_rfm {bg bank : Nat} (hcmd : s.raceCmd race = true) (hruns : s.refRuns race = true)
    (hnow : s.refNow race pr (s.at mc) (s.waiting race) = some ⟨.rfm, pr, sid, bg, bank, 0⟩)
    (hgrant : s.rowGranted race (s.at mc) ⟨.rfm, pr, sid, bg, bank, 0⟩ = true) :
    exec (.rfm race mc pr sid bg bank) s = .next { s.refIssue race (s.at mc) ⟨.rfm, pr, sid, bg, bank, 0⟩ with clk := s.clkAt mc } :=
  congrArg Host.Outcome.next (when_true (by simp [hcmd, hruns, hnow, hgrant]) _ s)

section PlannedSlot

variable {turn : Nat} {e : RefSlot} (hcmd : s.raceCmd race = true) (hruns : s.refRuns race = true) (hpr : pr < 2)
  (hdue : (s.dueSlots race pr).find? (fun e => e.2.slot = slot ∧ s.refAt race pr e.1 slot < (s.clk.age + 1) * 256) = some (turn, e))
include hcmd hruns hpr hdue

/-- The slot's mc is past: it is given up. -/
theorem exec_plannedRefreshDue_late (hpast : s.refAt race pr turn slot < s.now) :
    exec (.plannedRefreshDue race pr slot) s = .next { s.postponeSlot race pr turn e with clk := s.clkAt (s.now % 256) } := by
  change Host.Outcome.next _ = _
  simp only [hdue, hcmd, hruns, hpr, Nat.max_eq_left hpast.le, hpast.ne', decide_true, Bool.and_self, when_true, if_false]

theorem exec_plannedRefreshDue_issue (hahead : s.now ≤ s.refAt race pr turn slot)
    (hnow : s.refNow race pr (s.refAt race pr turn slot) (s.waiting race) = some n)
    (hgrant : s.rowGranted race (s.refAt race pr turn slot) n = true) :
    exec (.plannedRefreshDue race pr slot) s
      = .next { s.refIssue race (s.refAt race pr turn slot) n with clk := s.clkAt (s.refAt race pr turn slot % 256) } := by
  change Host.Outcome.next _ = _
  simp only [hdue, hcmd, hruns, hpr, Nat.max_eq_right hahead, hnow, hgrant, decide_true, Bool.and_self, when_true, if_true]

end PlannedSlot

/-! ### Revocation (R227) -/

/-- The race's record with slot g of pr revoked: no grant of pr has data there. -/
def State.revoked (s : State) (r pr g : Nat) : Race :=
  let x := s.race r
  let keep := fun (l : List (ColPick × Nat)) => l.filter (fun c => !s.grantIn r pr g c)
  { x with revSlots := x.revSlots ++ [(pr, g)], revA := if pr = 0 then g / 128 + 1 else x.revA, revB := if pr = 0 then x.revB else g / 128 + 1
           grantA := if pr = 0 then keep x.grantA else x.grantA, grantB := if pr = 0 then x.grantB else keep x.grantB }

theorem State.mem_revoked_colGrants {g : Nat} {c : ColPick × Nat} :
    c ∈ (s.revoked r pr g).colGrants pr ↔ s.grantIn r pr g c = false ∧ c ∈ (s.race r).colGrants pr := by
  unfold State.revoked Race.colGrants
  split <;> simp [and_comm]

/-- s with the revocation noted and counted. -/
def State.revoke (s : State) (r pr g : Nat) : State :=
  ((s.setRace r (s.revoked r pr g)).fadd Fld.RACE_REF_CNT_REVOKE 1 r).tally (raceHalf r) 6 13 1

theorem State.revoke_race (s : State) (r pr g : Nat) : (s.revoke r pr g).race r = s.revoked r pr g := State.race_setRace ..

theorem State.revoke_others (s : State) (r pr g : Nat) : OtherRaces r s (s.revoke r pr g) :=
  (((RaceSet.refl r s).setRace (s.revoked r pr g)).rowsSet.fadd Fld.RACE_REF_CNT_REVOKE 1 r 0).others

theorem State.revoke_count (hw : s.regs.wf = true) (r pr g : Nat) :
    (s.revoke r pr g).fheld Fld.RACE_REF_CNT_REVOKE r = satAdd Fld.RACE_REF_CNT_REVOKE.w (s.fheld Fld.RACE_REF_CNT_REVOKE r) 1 := by
  obtain ⟨regs, hadd, -, hval, -⟩ := (s.setRace r (s.revoked r pr g)).fadd_table Fld.RACE_REF_CNT_REVOKE 1 r 0 hw (by decide)
  rw [State.revoke, hadd]
  exact hval _ rfl rfl

theorem exec_revocation {g : Nat} (hcmd : s.raceCmd race = true) (hruns : s.refRuns race = true) (hpr : pr < 2)
    (hg : s.revocation race pr (s.at mc) = some g) : exec (.revocation race pr mc) s = .next { s.revoke race pr g with clk := s.clkAt mc } := by
  change Host.Outcome.next _ = _
  rw [hg]
  exact congrArg Host.Outcome.next (when_true (by simp [hcmd, hruns, hpr]) _ s)

/-! ### The obligation -/

theorem handoverFails (hrace : race < 32) (hw : (s.race race).banks.wf = true) (hreset : (s.race race).inReset = true)
    (hmust : (s.race race).mustRefab = []) (hold : ∃ a ∈ (s.race race).hand.vals, s.now ≥ a + 4 * 256) :
    Completes (.handoverTimeout race) s (fun t => Intact s t ∧ AtRace race s t ∧ t.clk = s.clk ∧ (t.race race).hand = {}
      ∧ (t.race race).sref = (s.race race).sref
      ∧ (∀ k, k < 256 → k / 32 % 4 < s.nsid → ((t.race race).banks.get {} k).raa = s.fget Fld.RACE_REF_CFG_RFM_TH race)
      ∧ (t.race race).mustRefab = (List.range 2).flatMap (fun p => (List.range s.nsid).map (fun sd => 4 * p + sd))) := by
  obtain ⟨a, ha, hlate⟩ := hold
  obtain ⟨y, hfail, hhand, hsref, hraa, howed⟩ := s.handFail_set race hw
  have hrun := exec_handoverTimeout hrace hreset hmust ha hlate
  have hset := (RaceSet.refl race s).setRace y
  rw [hfail] at hrun
  refine .of_exec hrun ⟨hset.intact s.clk, hset.atRace s.clk, rfl, ?_⟩
  rw [hset.race]
  exact ⟨hhand, hsref, hraa, howed.trans s.prSids_keys⟩

/-- Settles O18: a command on a SID sets its race's record; a refresh of a bank is followed by changes of the plan and by postponements, which
leave the bank of a REFpb alone and of an RFM's bank all but its debt; a revocation is the record's and the count's. -/
theorem refreshAndSelfRefresh : Obligations.RefreshAndSelfRefresh := by
  refine ⟨fun s race mc pr sid => ⟨?refab, ?sre, ?srx, ?handover, handoverFails⟩,
    fun s race mc pr sid bg bank slot hcmd hruns => ⟨?refpb, ?rfm, ?planned, ?revocation⟩⟩
  case refab =>
    intro n hcmd hlegal hgrant
    have hset := (RaceSet.refl race s).setRace ((s.race race).refreshedAll pr sid (s.at mc))
    have hrace := hset.race_clk (s.clkAt mc)
    obtain ⟨hhist, howed, hmust, hbanks⟩ := (s.race race).refreshedAll_parts pr sid (s.at mc)
    exact .of_exec (exec_refab hcmd hlegal hgrant) ⟨hset.intact _, rfl, (congrArg (fun x : Race => x.hist.head?) hrace).trans hhist, hset.atRace _,
      (congrArg Race.owed hrace).trans howed, (congrArg Race.mustRefab hrace).trans hmust, (congrArg Race.banks hrace).trans hbanks⟩
  case sre =>
    intro n hcmd hhand hlegal hgrant
    obtain ⟨p, hrun⟩ := exec_sre hcmd hhand hlegal hgrant
    have hset := (RaceSet.refl race (s.srrSet race sid)).setRace ((s.race race).asleep sid (s.at mc) p)
    have hrace := hset.race_clk (s.clkAt mc)
    obtain ⟨hhist, hsref, hhand⟩ := (s.race race).asleep_parts sid (s.at mc) p
    exact .of_exec hrun ⟨hset.intact _, rfl, (congrArg (fun x : Race => x.hist.head?) hrace).trans hhist,
      (congrArg (fun x : Race => x.sref.find? sid) hrace).trans (hsref ▸ Tbl.find_ins_same ..), (congrArg Race.hand hrace).trans hhand, rfl,
      hset.atRace _⟩
  case srx =>
    intro n hcmd hlegal hgrant
    obtain ⟨tr, hrun⟩ := exec_srx hcmd hlegal hgrant
    have hset := (RaceSet.refl race s).setRace ((s.race race).awake sid (s.at mc) tr)
    have hrace := hset.race_clk (s.clkAt mc)
    obtain ⟨hhist, hsref, hbanks, hacc, howed⟩ := (s.race race).awake_parts sid (s.at mc) tr
    exact .of_exec hrun ⟨hset.intact _, rfl, (congrArg (fun x : Race => x.hist.head?) hrace).trans hhist, hset.atRace _,
      (congrArg Race.sref hrace).trans hsref, (congrArg Race.banks hrace).trans hbanks, (congrArg Race.acc hrace).trans hacc,
      (congrArg Race.owed hrace).trans howed⟩
  case handover =>
    intro hcmd hsid hawake hnone hasked
    have hset := (RaceSet.refl race s).setRace { s.race race with
      hand := (s.race race).hand.ins sid (s.at mc), handAb := (s.race race).handAb.filter (fun k => k % 4 ≠ sid) }
    exact .of_exec (exec_srHandover hcmd hsid hawake hnone hasked) ⟨hset.intact _, rfl, hset.atRace _, hset.race_clk _⟩
  case refpb =>
    intro n hnow hpb hsid hgrant
    have hrun := exec_refpb hcmd hruns hnow hpb hsid hgrant
    have hleft := s.refIssue_issued race (s.at mc) n
    have hbank := hleft.refpb hpb
    exact .of_exec hrun ⟨exec_intact hrun rfl rfl, rfl, hleft.issued, hleft.others, congrArg Bank.ppc hbank, congrArg Bank.urgRef hbank,
      congrArg Bank.raa hbank⟩
  case rfm =>
    intro n hnow hgrant
    have hrun := exec_rfm hcmd hruns hnow hgrant
    have hleft := s.refIssue_issued race (s.at mc) n
    obtain ⟨hreq, hurg, hraa⟩ := hleft.rfmBank rfl
    exact .of_exec hrun ⟨exec_intact hrun rfl rfl, rfl, hleft.issued, hleft.others, hleft.rfmQ rfl, hreq, hurg, hraa⟩
  case planned =>
    intro turn e hpr hdue
    refine ⟨fun hpast => ?late, fun n hahead hnow hgrant => ?issue⟩
    case late =>
      have hrun := exec_plannedRefreshDue_late hcmd hruns hpr hdue hpast
      exact .of_exec hrun ⟨exec_intact hrun rfl rfl, (s.postponeSlot_replanned race pr turn e).others, rfl, rfl⟩
    case issue =>
      have hrun := exec_plannedRefreshDue_issue hcmd hruns hpr hdue hahead hnow hgrant
      have hleft := s.refIssue_issued race (s.refAt race pr turn slot) n
      exact .of_exec hrun ⟨exec_intact hrun rfl rfl, hleft.others, rfl, hleft.issued⟩
  case revocation =>
    intro g hg hpr
    have hrun := exec_revocation hcmd hruns hpr hg
    have hrace := s.revoke_race race pr g
    refine .of_exec hrun ⟨exec_intact hrun rfl rfl, rfl, s.revoke_others race pr g, congrArg Race.revSlots hrace,
      fun hA => (congrArg Race.revA hrace).trans (if_pos hA), fun hB => (congrArg Race.revB hrace).trans (if_neg (by omega)), fun c hc => ?_,
      fun hw => State.revoke_count hw race pr g⟩
    exact State.mem_revoked_colGrants.mp ((congrArg (fun x : Race => c ∈ x.colGrants pr) hrace).mp hc)

end Sys2Proof.Machine
end

section
/-!
SUPPORT. The mailboxes (R412, R413, R418, R420): what a reply writes, that nothing else changes by it, and how a command comes to its own part.
-/
namespace Sys2Proof.Machine

variable {s t u : State} {c st det res n opc k : Nat} {v : Serve} {f : Field} {r : Reg} {w : Word}

/-! ### Where the words of a mailbox are kept -/

theorem mbReq_key (box w h : Nat) : Reg.key2 .MIL_MB_REQ box w h = 0xF01000 + (box * 0x100 + w * 0x8) + h * 0x80000 := rfl
theorem mbRsp_key (box w h : Nat) : Reg.key2 .MIL_MB_RSP box w h = 0xF01040 + (box * 0x100 + w * 0x8) + h * 0x80000 := rfl
theorem mbCtrl_key (box h : Nat) : Reg.key .MIL_MB_CTRL box h = 0xF01080 + box * 0x100 + h * 0x80000 := rfl

theorem mbRsp_ne_ctrl (box w h : Nat) (hw : w < 8) : Reg.key2 .MIL_MB_RSP box w h ≠ Reg.key .MIL_MB_CTRL box h := by
  rw [mbRsp_key, mbCtrl_key]
  omega

theorem mbRsp_word_ne (box h : Nat) {w x : Nat} (hne : w ≠ x) : Reg.key2 .MIL_MB_RSP box w h ≠ Reg.key2 .MIL_MB_RSP box x h := by
  rw [mbRsp_key, mbRsp_key]
  omega

/-! ### Registers written one after the other -/

/-- u is s but for the register instances at `key 0` to `key (n - 1)`, which hold the words `val` gives. -/
structure StoredEach (s u : State) (r : Reg) (key : Nat → Nat) (val : Nat → Word) (n : Nat) : Prop where
  rest : ({ u with regs := s.regs } : State) = s
  wf : u.regs.wf = true
  word : ∀ i, i < n → u.raw r (key i) = val i
  other : ∀ q k, (∀ i, i < n → k ≠ key i) → u.raw q k = s.raw q k

theorem each_setRaw (hw : s.regs.wf = true) (r : Reg) (key : Nat → Nat) (val : Nat → Word) (hinj : ∀ i j, i ≠ j → key i ≠ key j)
    (n : Nat) : StoredEach s (each (List.range n) (fun i s => s.setRaw r (key i) (val i)) s) r key val n := by
  induction n with
  | zero => exact ⟨rfl, hw, fun _ hi => absurd hi (Nat.not_lt_zero _), fun _ _ _ => rfl⟩
  | succ n ih =>
    unfold each at ih ⊢
    rw [List.range_succ, List.foldl_append]
    refine ⟨ih.rest, State.setRaw_wf _ _ _ _ ih.wf, fun i hi => ?_, fun q k hk => ?_⟩
    · by_cases hin : i = n
      · rw [hin]
        exact State.raw_setRaw _ _ _ _ ih.wf
      · exact (State.raw_setRaw_other _ _ _ _ _ _ ih.wf (hinj i n hin)).trans (ih.word i (by omega))
    · exact (State.raw_setRaw_other _ _ _ _ _ _ ih.wf (hk n (Nat.lt_succ_self n))).trans (ih.other q k fun i hi => hk i (by omega))

/-! ### Replies -/

theorem State.setCore_raw (t : State) (c : Nat) (x : Core) (r : Reg) (k : Nat) : (t.setCore c x).raw r k = t.raw r k := rfl

theorem State.setCore_fheld (t : State) (c : Nat) (x : Core) (f : Field) (i h : Nat) : (t.setCore c x).fheld f i h = t.fheld f i h := rfl

/-- t is s with a reply written to mailbox v (R413, R418), and perhaps the In-Band Interrupt that announces it. -/
structure HasReply (s t : State) (v : Serve) (st det res : Nat) : Prop where
  rest : ({ t with regs := s.regs, out := s.out } : State) = s
  other : ∀ r k, (∀ w, w < 8 → k ≠ Reg.key2 .MIL_MB_RSP v.box w v.half) → k ≠ Reg.key .MIL_MB_CTRL v.box v.half → t.raw r k = s.raw r k
  done : t.fheld Fld.MIL_MB_CTRL_DONE v.box v.half = 1
  busy : t.fheld Fld.MIL_MB_CTRL_BUSY v.box v.half = 0
  head : t.raw .MIL_MB_RSP (Reg.key2 .MIL_MB_RSP v.box 0 v.half) = mbReply (mbOpc (s.mbWord v 0)) (mbTag (s.mbWord v 0)) st det
  words : ∀ w, w < 7 → t.raw .MIL_MB_RSP (Reg.key2 .MIL_MB_RSP v.box (w + 1) v.half) = BitVec.ofNat 64 (bits res (64 * w) 64)

/-- The control word of a mailbox that is DONE and free. -/
def mbDoneWord (w : Word) : Word := Fld.MIL_MB_CTRL_GO.put (Fld.MIL_MB_CTRL_BUSY.put (Fld.MIL_MB_CTRL_DONE.put w 1) 0) 0

theorem mbDoneWord_fields (w : Word) : Fld.MIL_MB_CTRL_DONE.of (mbDoneWord w) = 1 ∧ Fld.MIL_MB_CTRL_BUSY.of (mbDoneWord w) = 0 := by
  have hput {f g : Field} (hf : f ∈ Reg.fields .MIL_MB_CTRL) (hg : g ∈ Reg.fields .MIL_MB_CTRL) (hne : f ≠ g) (v : Nat) (x : Word) :
      g.of (f.put x v) = g.of x := Field.of_put_apart _ _ (Reg.fields_fit _ g hg).2 (Reg.fields_apart hf hg hne)
  unfold mbDoneWord
  refine ⟨?_, ?_⟩
  · rw [hput (by decide) (by decide) (by decide), hput (by decide) (by decide) (by decide)]
    exact Field.of_put _ _ _ (by decide)
  · rw [hput (by decide) (by decide) (by decide)]
    exact Field.of_put _ _ _ (by decide)

/-- The first word, the seven others and the control word of a reply make it. -/
theorem HasReply.of_stored {a b : State}
    (ha : Stored s a .MIL_MB_RSP (Reg.key2 .MIL_MB_RSP v.box 0 v.half) (mbReply (mbOpc (s.mbWord v 0)) (mbTag (s.mbWord v 0)) st det))
    (hb : StoredEach a b .MIL_MB_RSP (fun w => Reg.key2 .MIL_MB_RSP v.box (w + 1) v.half) (fun w => BitVec.ofNat 64 (bits res (64 * w) 64)) 7)
    (ht : Stored b t .MIL_MB_CTRL (Reg.key .MIL_MB_CTRL v.box v.half) (mbDoneWord w)) : HasReply s t v st det res := by
  obtain ⟨hdone, hbusy⟩ := mbDoneWord_fields w
  refine ⟨?rest, fun r k hrsp hctrl => ?other, ?done, ?busy, ?head, fun w hlt => ?words⟩
  case rest =>
    have ht' := congrArg (fun x : State => { x with regs := s.regs, out := s.out }) ht.rest
    have hb' := congrArg (fun x : State => { x with regs := s.regs, out := s.out }) hb.rest
    exact (ht'.trans hb').trans (congrArg (fun x : State => { x with out := s.out }) ha.rest)
  case other =>
    have hkept := hb.other r k fun i hi => hrsp (i + 1) (by omega)
    exact (ht.other r k hctrl).trans (hkept.trans (ha.other r k (hrsp 0 (by decide))))
  case done => exact (ht.fheld (f := Fld.MIL_MB_CTRL_DONE) (by decide)).trans hdone
  case busy => exact (ht.fheld (f := Fld.MIL_MB_CTRL_BUSY) (by decide)).trans hbusy
  case head =>
    have hctrl := ht.other .MIL_MB_RSP _ (mbRsp_ne_ctrl v.box 0 v.half (by decide))
    have hkept := hb.other .MIL_MB_RSP (Reg.key2 .MIL_MB_RSP v.box 0 v.half) fun i _ => mbRsp_word_ne v.box v.half (by omega)
    exact hctrl.trans (hkept.trans ha.word)
  case words =>
    have hctrl := ht.other .MIL_MB_RSP _ (mbRsp_ne_ctrl v.box (w + 1) v.half (by omega))
    exact hctrl.trans (hb.word w hlt)

/-- What else leaves the block has no part in it. -/
theorem HasReply.withOut (h : HasReply s t v st det res) (o : Out) : HasReply s { t with out := o } v st det res :=
  ⟨h.rest, h.other, h.done, h.busy, h.head, h.words⟩

theorem State.putReply_hasReply (hw : s.regs.wf = true) (v : Serve) (st det res : Nat) : HasReply s (s.putReply v st det res) v st det res := by
  unfold State.putReply
  extract_lets w0 a b t
  have ha : Stored s a .MIL_MB_RSP _ _ := Stored.setRaw hw .MIL_MB_RSP (Reg.key2 .MIL_MB_RSP v.box 0 v.half) (mbReply (mbOpc w0) (mbTag w0) st det)
  have hb : StoredEach a b .MIL_MB_RSP _ _ 7 := each_setRaw ha.wf .MIL_MB_RSP (fun w => Reg.key2 .MIL_MB_RSP v.box (w + 1) v.half)
    (fun w => BitVec.ofNat 64 (bits res (64 * w) 64)) (fun i j hij => mbRsp_word_ne _ _ (by omega)) 7
  have ht : Stored b t .MIL_MB_CTRL (Reg.key .MIL_MB_CTRL v.box v.half) (mbDoneWord (b.raw .MIL_MB_CTRL (Reg.key .MIL_MB_CTRL v.box v.half))) :=
    (((Stored.same hb.wf .MIL_MB_CTRL _).fset (f := Fld.MIL_MB_CTRL_DONE) 1).fset (f := Fld.MIL_MB_CTRL_BUSY) 0).fset (f := Fld.MIL_MB_CTRL_GO) 0
  have hreply : HasReply s t v st det res := .of_stored ha hb ht
  split
  · exact hreply.withOut _
  · exact hreply

/-! ### The command in service -/

/-- u, reached from s by what the command in service on core c does, still serves it, and its request stands. -/
structure Serving (s u : State) (c : Nat) (v : Serve) : Prop where
  wf : u.regs.wf = true
  cur : (u.core c).cur = some v
  req : u.mbWord v 0 = s.mbWord v 0

theorem Serving.refl (hw : s.regs.wf = true) (hcur : (s.core c).cur = some v) : Serving s s c v := ⟨hw, hcur, rfl⟩

/-- Answered, nothing more than its mailbox and its core changes. -/
theorem Serving.endCur (h : Serving s u c v) (st det res : Nat) :
    OnlyMailbox v u (u.endCur c st det res) ∧ Replied s (u.endCur c st det res) c v st det res := by
  have hrep := State.putReply_hasReply h.wf v st det res
  have hend : u.endCur c st det res = (u.putReply v st det res).setCore c { (u.putReply v st det res).core c with cur := none } := by
    simp only [State.endCur, h.cur]
  rw [hend]
  generalize u.putReply v st det res = t at hrep
  have hrest := congrArg (fun x : State => { x with mil := u.mil }) hrep.rest
  have hhead := hrep.head
  rw [h.req] at hhead
  exact ⟨⟨hrest, fun r k hrsp hctrl => (State.setCore_raw ..).trans (hrep.other r k hrsp hctrl)⟩, congrArg Core.cur (State.core_setCore ..),
    (State.setCore_fheld ..).trans hrep.done, (State.setCore_fheld ..).trans hrep.busy, (State.setCore_raw ..).trans hhead,
    fun w hw => (State.setCore_raw ..).trans (hrep.words w hw)⟩

theorem Serving.okCur (h : Serving s u c v) (l : List (Nat × Nat × Nat)) :
    OnlyMailbox v u (u.okCur c l) ∧ Replied s (u.okCur c l) c v St.ok 0 (results l) := h.endCur St.ok 0 (results l)

/-! ### Registers below the mailboxes -/

/-- Registers below those of Miller are not a mailbox's. -/
theorem OnlyMailbox.raw_below (h : OnlyMailbox v u t) (r : Reg) (hk : k < 0xF01000) : t.raw r k = u.raw r k :=
  h.2 r k (fun w _ => by rw [mbRsp_key]; omega) (by rw [mbCtrl_key]; omega)

theorem OnlyMailbox.fheld_below (h : OnlyMailbox v u t) {i half : Nat} (hk : f.reg.key i half < 0xF01000) : t.fheld f i half = u.fheld f i half :=
  State.fheld_congr (h.raw_below _ hk)

theorem OnlyMailbox.clk (h : OnlyMailbox v u t) : t.clk = u.clk := (congrArg State.clk h.1 :)

theorem OnlyMailbox.fan (h : OnlyMailbox v u t) (half : Nat) : t.fan half = u.fan half := (congrArg (fun x : State => x.fan half) h.1 :)

/-- What leaves the mailboxes' registers alone leaves the request. -/
theorem State.arg_congr (hraw : ∀ r {k}, 0xF01000 ≤ k → u.raw r k = s.raw r k) (off n : Nat) : u.arg v off n = s.arg v off n := by
  have hword (w : Nat) : u.mbWord v w = s.mbWord v w := hraw _ (by rw [mbReq_key]; omega)
  simp only [State.arg, State.argAll, hword]

/-- What leaves Miller's records and the mailboxes' registers alone leaves the command in service. -/
theorem Serving.of_below (hwf : u.regs.wf = true) (hmil : u.mil = s.mil) (hcur : (s.core c).cur = some v)
    (hraw : ∀ r {k}, 0xF01000 ≤ k → u.raw r k = s.raw r k) : Serving s u c v := by
  refine ⟨hwf, ?_, hraw _ (by rw [mbReq_key]; omega)⟩
  rw [State.core, hmil]
  exact hcur

/-! ### The checks of a command -/

theorem State.serve_eq (hcur : (s.core c).cur = some v) (hc : c < 2) (hopc : v.opc = opc) (f : Serve → State → State) : s.serve c opc f = f v s := by
  simp only [State.serve, hcur, hc, hopc, and_self, if_true]

theorem State.checked_pass {l : List (Bool × Nat × Nat)} (h : ∀ e ∈ l, e.1 = false) (f : State → State) : s.checked c l f = f s := by
  have hnone : l.find? (fun e => e.1) = none := List.find?_eq_none.mpr fun e he => by simp [h e he]
  simp only [State.checked, hnone]

theorem State.checked_fail {l : List (Bool × Nat × Nat)} {b : Bool} (h : l.find? (fun e => e.1) = some (b, st, det)) (f : State → State) :
    s.checked c l f = s.endCur c st det 0 := by
  simp only [State.checked, h]

/-- No race of the list is off or isolated. -/
theorem State.offRace_none {l : List Nat} (h : ∀ r ∈ l, s.isolated r = false ∧ s.domainOn r = true) : s.offRace l = (false, 0, 0) := by
  have hnone : l.find? (fun r => s.isolated r || !s.domainOn r) = none := List.find?_eq_none.mpr fun r hr => by
    obtain ⟨hiso, hon⟩ := h r hr
    simp [hiso, hon]
  simp only [State.offRace, hnone]

theorem mem_racesOf {m r : Nat} : r ∈ racesOf m ↔ r < 32 ∧ bit m r = true := by
  simp [racesOf]

theorem racesOf_nodup (m : Nat) : (racesOf m).Nodup := List.nodup_range.filter _

end Sys2Proof.Machine
end

section
/-!
SUPPORT. Register writes of Miller's firmware (R211, R239, R259): they pass the checks of R21 and R91 wherever the register's domain is on. And how an
offset finds its register: one that lies outside a register's bytes does not find that one.
-/
namespace Sys2Proof.Machine

variable {s t u : State} {path : Path} {c i h half off race j : Nat} {w64 : Bool} {val w : Word} {f g : Field} {r : Reg} {l : Loc} {a : Acs}
  {ix : List Nat}

/-! ### Firmware's access -/

theorem State.acs_fw (ha : findAcs off w64 = some a) (hd : s.domainOn (regDomain a.loc) = true) : s.acs (.fw c) off w64 false = .ok a := by
  rw [State.acs_pathOpen (path := .fw c) (fun _ e => nomatch e), ha]
  simp [hd]

/-- A register that only firmware writes refuses it nothing. -/
theorem State.refuses_fwOnly (hr : l.reg.fwOnly = true) (old new nv : Word) : s.refuses (.fw c) l old new nv = none := by
  obtain ⟨r, k, ix, half, mir⟩ := l
  have hmem : r ∈ ([.RACE_SLOT_SHD, .SLU_SLOT_SWAP, .HOP_STREAM, .WEIR_GRP, .GOV_PWR_CTRL, .GOV_PWR_CFG, .GOV_THERM_CFG, .GOV_STEP_CFG,
      .BRK_SRC_CFG, .TLY_CFG, .TLY_RING, .TLY_USER, .TLY_HEAT_DATA] : List Reg) := by simpa [Reg.fwOnly] using hr
  fin_cases hmem <;> rfl

theorem State.grantsWrite_fw (ha : findAcs off w64 = some a) (hr : a.loc.reg.fwOnly = true) (hd : s.domainOn (regDomain a.loc) = true) :
    s.grantsWrite (.fw c) off w64 val = true := by
  simp only [State.grantsWrite, State.acs_fw ha hd, State.refuses_fwOnly hr]
  rfl

theorem State.grantsField_fw {v : Nat} (hl : f.Found ix i h) (hr : f.reg.fwOnly = true) (hd : s.domainOn (regDomain (f.loc ix i h)) = true) :
    s.grantsField (.fw c) f v i h = true := State.grantsWrite_fw hl.findAcs hr hd

/-- A write of a register that firmware alone writes and that has no rule of its own: stored and answered. -/
theorem State.fwWrite_stored (ha : findAcs (r.key i h) r.info.wide = some ⟨l, 0⟩) (hr : l.reg.fwOnly = true) (hown : l.reg.ownRule = false)
    (hm : l.mirror = false) (hd : s.domainOn (regDomain l) = true) (val : Nat) :
    s.fwWrite c r (r.key i h) val =
      (s.store (.fw c) l (s.raw l.reg l.key) (s.honoured l (s.raw l.reg l.key) (s.newWord ⟨l, 0⟩ (BitVec.ofNat 64 val)))
        (writtenBits ⟨l, 0⟩ (BitVec.ofNat 64 val)).2).answered (.fw c) St.ok 0 :=
  State.regWrite_stored (State.acs_fw ha hd) hown hm (State.refuses_fwOnly hr ..)

/-- A RW field without limits takes the value written. -/
theorem Field.of_newWord_rw (hg : g ∈ l.reg.fields) (hfree : ∀ e ∈ limits, e.1 ≠ g) (hacc : g.acc = .rw) (val : Word) :
    g.of (s.newWord ⟨l, 0⟩ val) = g.of val := by
  obtain ⟨hmask, hval⟩ := Field.of_writtenBits hg val
  rw [State.newWord, Field.of_limitWord_free hg hfree, Field.of_mergeWord hg, hmask, hval, Field.merge_full (g.of_lt _), hacc]

/-- East's fabric is on with the main domains (R374). -/
theorem State.domainOn_fabric (hs : s.mainsOn = true) : s.domainOn 60 = true := by
  simp [State.domainOn, hs]

/-! ### The registers that an offset finds -/

/-- Bytes over which the instances along some dimensions lie. -/
def dimsSpan : List (Nat × Nat) → Nat
  | [] => 1
  | (n, st) :: _ => n * st

/-- Bytes over which the instances of a register lie, of one half. -/
def Reg.span (r : Reg) : Nat := dimsSpan r.info.dims

theorem dimIdx_lt {d : Nat} {ds : List (Nat × Nat)} (hst : ∀ e ∈ ds, 0 < e.2) (h : dimIdx ds d = some ix) : d < dimsSpan ds := by
  cases ds with
  | nil =>
    simp only [dimIdx] at h
    split at h
    next hd => exact hd ▸ Nat.one_pos
    next => cases h
  | cons e ds =>
    simp only [dimIdx] at h
    split at h
    next hlt => exact (Nat.div_lt_iff_lt_mul (hst e (.head _))).mp hlt
    next => cases h

theorem Reg.strides_pos (r : Reg) : ∀ e ∈ r.info.dims, 0 < e.2 := by
  cases r <;> decide

theorem regTry_lt {o h : Nat} {mir : Bool} (hl : regTry r o h mir = some l) : r.info.base ≤ o ∧ o < r.info.base + r.span := by
  unfold regTry at hl
  split at hl
  next hbase =>
    split at hl
    next ix hix =>
      have hlt : o - r.info.base < r.span := dimIdx_lt r.strides_pos hix
      omega
    next => cases hl
  next => cases hl

/-- A register has no instance at an offset outside its bytes and, where it has any in the West half, outside those. -/
theorem regAt_none (hE : off < r.info.base ∨ r.info.base + r.span ≤ off)
    (hW : off < 0x80000 + r.info.base ∨ 0x80000 + r.info.base + r.span ≤ off) : regAt r off = none := by
  have hno {o h : Nat} {mir : Bool} (ho : o < r.info.base ∨ r.info.base + r.span ≤ o) : regTry r o h mir = none := by
    cases hl : regTry r o h mir with
    | none => rfl
    | some l =>
      have := regTry_lt hl
      omega
  rw [regAt_eq, hno hE]
  cases r.info.kind with
  | once => rfl
  | half =>
    dsimp only
    split
    next => exact hno (by omega)
    next => rfl
  | mirror =>
    dsimp only
    split
    next => exact hno (by omega)
    next => rfl

/-- The register of a list at an offset where no other one has an instance. -/
theorem findReg_only {rs : List Reg} (hr : r ∈ rs) (hl : regAt r off = some l) (hother : ∀ q ∈ rs, q ≠ r → regAt q off = none) :
    findReg rs off = some l := by
  induction rs with
  | nil => cases hr
  | cons q rs ih =>
    unfold findReg
    by_cases hq : q = r
    · rw [hq, hl]
    · rw [hother q (.head _) hq]
      exact ih ((List.mem_cons.mp hr).resolve_left (Ne.symm hq)) fun p hp => hother p (.tail _ hp)

end Sys2Proof.Machine
end

section
/-!
SUPPORT. What Miller's firmware leaves in the stream table (R239, R240), the group table (R241, R259) and the shadow slot tables (R206, R211).
-/
namespace Sys2Proof.Machine

variable {s t u : State} {path : Path} {c st grp race first : Nat} {val : Nat → Word} {ps qs : List (Nat × Nat)}

/-! ### The stream table -/

/-- A stream's instance of HOP_STREAM, as an access finds it. -/
def streamLoc (st : Nat) : Loc := ⟨.HOP_STREAM, Reg.key .HOP_STREAM st 0, [st], 0, false⟩

theorem stream_key (st : Nat) : Reg.key .HOP_STREAM st 0 = 0x108000 + st * 0x4 + 0 * 0x80000 := rfl

theorem regAt_stream (hst : st ≤ 4095) : regAt .HOP_STREAM (Reg.key .HOP_STREAM st 0) = some (streamLoc st) := by
  have hkey := stream_key st
  have hinfo : Reg.info .HOP_STREAM = ⟨0x108000, [(4096, 0x4)], false, .mirror⟩ := rfl
  have hlt : st < 4096 := by omega
  have hle : 0x108000 ≤ Reg.key .HOP_STREAM st 0 := by omega
  have hix : dimIdx [(4096, 0x4)] (Reg.key .HOP_STREAM st 0 - 0x108000) = some [st] := by
    rw [show Reg.key .HOP_STREAM st 0 - 0x108000 = st * 4 by omega]
    simp [dimIdx, hlt]
  have htry : regTry .HOP_STREAM (Reg.key .HOP_STREAM st 0) 0 false = some (streamLoc st) := by
    unfold streamLoc
    generalize Reg.key .HOP_STREAM st 0 = k at hix hle
    simp [regTry, hinfo, hle, hix]
  rw [regAt_eq, htry]

/-- No other register has an instance among those of the stream table. -/
theorem stream_apart : ∀ q ∈ Reg.all, q ≠ .HOP_STREAM →
    (0x10C000 ≤ q.info.base ∨ q.info.base + q.span ≤ 0x108000)
      ∧ (0x10C000 ≤ 0x80000 + q.info.base ∨ 0x80000 + q.info.base + q.span ≤ 0x108000) := by
  decide

theorem stream_found (hst : st ≤ 4095) : findAcs (Reg.key .HOP_STREAM st 0) false = some ⟨streamLoc st, 0⟩ := by
  have hloc : locate (Reg.key .HOP_STREAM st 0) = some (streamLoc st) :=
    findReg_only (by decide) (regAt_stream hst) fun q hq hne => by
      obtain ⟨hE, hW⟩ := stream_apart q hq hne
      rw [stream_key]
      exact regAt_none (by omega) (by omega)
  have h4 : Reg.key .HOP_STREAM st 0 % 4 = 0 := by
    rw [stream_key]
    omega
  simp only [findAcs, hloc, h4]
  rfl

/-- Two writes that reach the same bits of every field leave the same word. -/
theorem mergeWord_congr {r : Reg} {nv nv' mk mk' : Word} (h : ∀ f ∈ r.fields, f.of nv = f.of nv' ∧ f.of mk = f.of mk') (old : Word) :
    mergeWord r old nv mk = mergeWord r old nv' mk' :=
  List.foldl_ext _ _ _ fun w f hf => by rw [(h f hf).1, (h f hf).2]

/-- A stream is held where its register does not take the word written (R240). -/
theorem State.streamHeld_eq (s : State) (st x : Nat) : s.streamHeld st x =
    decide (s.honoured (streamLoc st) (s.raw (streamLoc st).reg (streamLoc st).key) (s.newWord ⟨streamLoc st, 0⟩ (BitVec.ofNat 64 x))
      ≠ s.newWord ⟨streamLoc st, 0⟩ (BitVec.ofNat 64 x)) := by
  have hword : mergeWord .HOP_STREAM (s.raw .HOP_STREAM (streamLoc st).key) (BitVec.ofNat 64 x) (BitVec.allOnes 64)
      = mergeWord .HOP_STREAM (s.raw .HOP_STREAM (streamLoc st).key) (writtenBits ⟨streamLoc st, 0⟩ (BitVec.ofNat 64 x)).2
          (writtenBits ⟨streamLoc st, 0⟩ (BitVec.ofNat 64 x)).1 := by
    refine mergeWord_congr (fun f hf => ?_) _
    obtain ⟨hmask, hval⟩ := Field.of_writtenBits (l := streamLoc st) hf (BitVec.ofNat 64 x)
    exact ⟨hval.symm, (Field.of_ones (Reg.fields_fit _ f hf).2 (Nat.le_refl 64)).trans hmask.symm⟩
  change decide (s.honoured (streamLoc st) (s.raw .HOP_STREAM (streamLoc st).key) (limitWord .HOP_STREAM
    (mergeWord .HOP_STREAM (s.raw .HOP_STREAM (streamLoc st).key) (BitVec.ofNat 64 x) (BitVec.allOnes 64))) ≠ limitWord .HOP_STREAM
    (mergeWord .HOP_STREAM (s.raw .HOP_STREAM (streamLoc st).key) (BitVec.ofNat 64 x) (BitVec.allOnes 64))) = _
  rw [hword]
  rfl

/-- The stream's word takes effect at the next boundary, and a change of its home clears its reservations (R114, R239). -/
theorem State.store_stream (s : State) (path : Path) (st : Nat) (old new nv : Word) : ∃ e h, s.store path (streamLoc st) old new nv =
    { s.setRaw .HOP_STREAM (streamLoc st).key new with eff := e, hop := h } := by
  have hhook (u : State) : ∃ h, u.writeHook path (streamLoc st) old new nv = { u with hop := h } := by
    change ∃ h, (if Fld.HOP_STREAM_HOME.of old ≠ Fld.HOP_STREAM_HOME.of new then u.clearResv (fun k _ => k = st) else u) = _
    split
    · exact ⟨_, rfl⟩
    · exact ⟨_, rfl⟩
  unfold State.store
  dsimp only
  split
  · obtain ⟨h, hh⟩ := hhook { s.setRaw (streamLoc st).reg (streamLoc st).key new with eff := s.eff.ins (streamLoc st).key old }
    exact ⟨_, h, hh⟩
  · obtain ⟨h, hh⟩ := hhook (s.setRaw (streamLoc st).reg (streamLoc st).key new)
    exact ⟨_, h, hh⟩

/-- u is s but for the stream's word, what of it is in force, reservations, and the answer. -/
structure StreamSet (s u : State) (st : Nat) (w : Word) : Prop where
  rest : ({ u with regs := s.regs, eff := s.eff, hop := s.hop, reply := s.reply } : State) = s
  wf : u.regs.wf = true
  word : u.raw .HOP_STREAM (Reg.key .HOP_STREAM st 0) = w
  other : ∀ q j, j ≠ Reg.key .HOP_STREAM st 0 → u.raw q j = s.raw q j

theorem Stored.streamSet {w : Word} (h : Stored s u .HOP_STREAM (Reg.key .HOP_STREAM st 0) w) (e : Tbl Word) (p : Hop) :
    StreamSet s (State.answered { u with eff := e, hop := p } (.fw c) St.ok 0) st w :=
  ⟨congrArg (fun x : State => { x with eff := s.eff, hop := s.hop, reply := s.reply }) h.rest, h.wf, h.word, h.other⟩

/-- Firmware's word for a stream that is not held is stored. -/
theorem State.fwWrite_stream (hw : s.regs.wf = true) (hs : s.mainsOn = true) (hst : st ≤ 4095) {x : Nat} (hfree : s.streamHeld st x = false) :
    StreamSet s (s.fwWrite c .HOP_STREAM (Reg.key .HOP_STREAM st 0) x) st (s.newWord ⟨streamLoc st, 0⟩ (BitVec.ofNat 64 x)) := by
  have htaken : s.honoured (streamLoc st) (s.raw (streamLoc st).reg (streamLoc st).key) (s.newWord ⟨streamLoc st, 0⟩ (BitVec.ofNat 64 x))
      = s.newWord ⟨streamLoc st, 0⟩ (BitVec.ofNat 64 x) := by
    rw [State.streamHeld_eq] at hfree
    exact not_not.mp (of_decide_eq_false hfree)
  have hwrite := State.fwWrite_stored (c := c) (l := streamLoc st) (stream_found hst) rfl rfl rfl (State.domainOn_fabric hs) x
  obtain ⟨e, h, hstore⟩ := s.store_stream (.fw c) st (s.raw (streamLoc st).reg (streamLoc st).key)
    (s.newWord ⟨streamLoc st, 0⟩ (BitVec.ofNat 64 x)) (writtenBits ⟨streamLoc st, 0⟩ (BitVec.ofNat 64 x)).2
  rw [htaken, hstore] at hwrite
  rw [hwrite]
  exact (Stored.setRaw hw .HOP_STREAM (streamLoc st).key (s.newWord ⟨streamLoc st, 0⟩ (BitVec.ofNat 64 x))).streamSet e h

theorem StreamSet.clk {w : Word} (h : StreamSet s u st w) : u.clk = s.clk := (congrArg State.clk h.rest :)

theorem stream_below (hst : st ≤ 4095) : Reg.key .HOP_STREAM st 0 < 0xF01000 := by
  rw [stream_key]
  omega

/-- The command in service goes on. -/
theorem StreamSet.serving {w : Word} {v : Serve} (h : StreamSet s u st w) (hst : st ≤ 4095) (hcur : (s.core c).cur = some v) : Serving s u c v :=
  .of_below h.wf (congrArg State.mil h.rest :) hcur fun q _ hj => h.other q _ (by have := stream_below hst; omega)

/-! ### The group table -/

/-- A group's instance of WEIR_GRP, as an access finds it. -/
def groupLoc (grp : Nat) : Loc := ⟨.WEIR_GRP, Reg.key .WEIR_GRP grp 0, [grp], 0, false⟩

theorem group_key (grp : Nat) : Reg.key .WEIR_GRP grp 0 = 0x300400 + grp * 0x8 + 0 * 0x80000 := rfl

theorem weirStatus_key : Reg.key .WEIR_STATUS 0 0 = 0x300010 + 0 + 0 * 0x80000 := rfl

theorem group_found : ∀ grp ≤ 63, findAcs (Reg.key .WEIR_GRP grp 0) true = some ⟨groupLoc grp, 0⟩ := by decide +kernel

/-- u is s but for the group's word, the allowance that Weir shows, and the answer. -/
structure GroupSet (s u : State) (grp : Nat) (w : Word) : Prop where
  rest : ({ u with regs := s.regs, reply := s.reply } : State) = s
  wf : u.regs.wf = true
  word : u.raw .WEIR_GRP (Reg.key .WEIR_GRP grp 0) = w
  other : ∀ q j, j ≠ Reg.key .WEIR_GRP grp 0 → j ≠ Reg.key .WEIR_STATUS 0 0 → u.raw q j = s.raw q j

theorem GroupSet.clk {w : Word} (h : GroupSet s u grp w) : u.clk = s.clk := (congrArg State.clk h.rest :)

theorem Stored.groupSet {a : State} {w w' : Word} (h : Stored s a .WEIR_GRP (Reg.key .WEIR_GRP grp 0) w)
    (h' : Stored a u .WEIR_STATUS (Reg.key .WEIR_STATUS 0 0) w') : GroupSet s (u.answered (.fw c) St.ok 0) grp w := by
  have hne : Reg.key .WEIR_GRP grp 0 ≠ Reg.key .WEIR_STATUS 0 0 := by
    rw [group_key, weirStatus_key]
    omega
  have hrest' := congrArg (fun x : State => { x with regs := s.regs, reply := s.reply }) h'.rest
  have hrest := congrArg (fun x : State => { x with reply := s.reply }) h.rest
  exact ⟨hrest'.trans hrest, h'.wf, (h'.other _ _ hne).trans h.word, fun q j hj hj' => (h'.other q j hj').trans (h.other q j hj)⟩

/-- Firmware's word for a group is stored, and Weir shows the allowance that follows from it (R259). -/
theorem State.fwWrite_group (hw : s.regs.wf = true) (hs : s.mainsOn = true) (hgrp : grp ≤ 63) (w : Word) :
    GroupSet s (s.fwWrite c .WEIR_GRP (Reg.key .WEIR_GRP grp 0) w.toNat) grp (s.newWord ⟨groupLoc grp, 0⟩ w) := by
  have hwrite := State.fwWrite_stored (s := s) (c := c) (l := groupLoc grp) (group_found grp hgrp) rfl rfl rfl (State.domainOn_fabric hs) w.toNat
  have hhonoured (old new : Word) : s.honoured (groupLoc grp) old new = new := rfl
  have hhook (u : State) (old new nv : Word) :
      u.writeHook (.fw c) (groupLoc grp) old new nv = u.fset Fld.WEIR_STATUS_A0 u.allowance := rfl
  rw [BitVec.ofNat_toNat, BitVec.setWidth_eq, hhonoured, State.store_now rfl, hhook] at hwrite
  rw [hwrite]
  have hstored := Stored.setRaw hw .WEIR_GRP (Reg.key .WEIR_GRP grp 0) (s.newWord ⟨groupLoc grp, 0⟩ w)
  exact hstored.groupSet (Stored.fset (f := Fld.WEIR_STATUS_A0) (Stored.same hstored.wf .WEIR_STATUS (Reg.key .WEIR_STATUS 0 0)) _)

/-- The command in service goes on. -/
theorem GroupSet.serving {w : Word} {v : Serve} (h : GroupSet s u grp w) (hgrp : grp ≤ 63) (hcur : (s.core c).cur = some v) : Serving s u c v := by
  refine .of_below h.wf (congrArg State.mil h.rest :) hcur fun q _ hk => h.other q _ ?_ ?_
  · rw [group_key]
    omega
  · rw [weirStatus_key]
    omega

/-! ### The shadow slot tables -/

/-- Word j of a race's shadow slot table, as an access finds it. -/
def shadowLoc (race j : Nat) : Loc := ⟨.RACE_SLOT_SHD, Reg.key2 .RACE_SLOT_SHD race j 0, [race, j], 0, false⟩

theorem shadow_key (race j : Nat) : Reg.key2 .RACE_SLOT_SHD race j 0 = 0x800400 + (race * 0x10000 + j * 0x8) + 0 * 0x80000 := rfl

theorem shadow_found : ∀ race < 32, ∀ j < 8, findAcs (Reg.key2 .RACE_SLOT_SHD race j 0) true = some ⟨shadowLoc race j, 0⟩ := by decide +kernel

theorem State.domainOn_race (hr : race < 32) :
    s.domainOn race = (s.mainsOn && (!(s.race race).isoDone && (decide (race < 16) || s.boot.westUp))) := by
  have h79 : race ≠ 79 := by omega
  simp [State.domainOn, hr, h79]

/-- The one field of a shadow slot word is the word. -/
theorem State.shadow_newWord (s : State) (race j : Nat) (w : Word) : s.newWord ⟨shadowLoc race j, 0⟩ w = w := by
  have hentry (x : Word) : Fld.RACE_SLOT_SHD_ENTRY.of x = x.toNat := Nat.mod_eq_of_lt x.isLt
  have hmem : Fld.RACE_SLOT_SHD_ENTRY ∈ (shadowLoc race j).reg.fields := List.mem_singleton.mpr rfl
  have hnew := Field.of_newWord_rw (s := s) (l := shadowLoc race j) hmem (by decide) rfl w
  rw [hentry, hentry] at hnew
  exact BitVec.eq_of_toNat_eq hnew

/-- Firmware's shadow slot word is stored with reserved codes as OPEN. -/
theorem State.fwWrite_shadow {j : Nat} (hrace : race < 32) (hj : j < 8) (hd : s.domainOn race = true) (x : Nat) :
    s.fwWrite c .RACE_SLOT_SHD (Reg.key2 .RACE_SLOT_SHD race j 0) x =
      (s.store (.fw c) (shadowLoc race j) (s.shdWord race j) (slotWord (BitVec.ofNat 64 x)).1 (BitVec.ofNat 64 x)).answered (.fw c) St.ok 0 := by
  have hacs : s.acs (.fw c) (Reg.key2 .RACE_SLOT_SHD race j 0) true false = .ok ⟨shadowLoc race j, 0⟩ :=
    State.acs_fw (shadow_found race hrace j hj) hd
  have hword : limitWord (shadowLoc race j).reg (mergeWord (shadowLoc race j).reg (s.oldWord (shadowLoc race j))
      (writtenBits ⟨shadowLoc race j, 0⟩ (BitVec.ofNat 64 x)).2 (writtenBits ⟨shadowLoc race j, 0⟩ (BitVec.ofNat 64 x)).1) = BitVec.ofNat 64 x :=
    s.shadow_newWord race j _
  change s.regWrite (.fw c) _ true _ = _
  simp only [State.regWrite, hacs, hword, State.refuses_fwOnly (l := shadowLoc race j) rfl]
  rfl

/-- u is s but for the words `first` + k of race r's shadow table, for each pair (r, k) of the list, for the marks of reserved codes of those
races, and for the answer. -/
structure SlotsSet (s u : State) (first : Nat) (val : Nat → Word) (ps : List (Nat × Nat)) : Prop where
  rest : ({ u with regs := s.regs, reply := s.reply } : State) = s
  wf : u.regs.wf = true
  word : ∀ p ∈ ps, u.raw .RACE_SLOT_SHD (Reg.key2 .RACE_SLOT_SHD p.1 (first + p.2) 0) = (slotWord (val p.2)).1
  other : ∀ q k, (∀ p ∈ ps, k ≠ Reg.key2 .RACE_SLOT_SHD p.1 (first + p.2) 0 ∧ k ≠ Reg.key .RACE_SLOT_STAT p.1 0) → u.raw q k = s.raw q k

theorem slotStat_ne_shadow {r j : Nat} (hj : j < 8) : Reg.key2 .RACE_SLOT_SHD r j 0 ≠ Reg.key .RACE_SLOT_STAT race 0 := by
  rw [slotStat_key, shadow_key]
  omega

theorem shadow_key_inj {r r' j j' : Nat} (hj : j < 8) (hj' : j' < 8) (h : Reg.key2 .RACE_SLOT_SHD r j 0 = Reg.key2 .RACE_SLOT_SHD r' j' 0) :
    r = r' ∧ j = j' := by
  rw [shadow_key, shadow_key] at h
  omega

theorem Stored.slotsSet {a : State} {k : Nat} {w : Word}
    (h : Stored s a .RACE_SLOT_SHD (Reg.key2 .RACE_SLOT_SHD race (first + k) 0) (slotWord (val k)).1)
    (h' : Stored a u .RACE_SLOT_STAT (Reg.key .RACE_SLOT_STAT race 0) w) (hj : first + k < 8) :
    SlotsSet s (u.answered (.fw c) St.ok 0) first val [(race, k)] := by
  have hrest' := congrArg (fun x : State => { x with regs := s.regs, reply := s.reply }) h'.rest
  have hrest := congrArg (fun x : State => { x with reply := s.reply }) h.rest
  refine ⟨hrest'.trans hrest, h'.wf, fun p hp => ?_, fun q i hi => ?_⟩
  · obtain rfl := List.mem_singleton.mp hp
    exact (h'.other _ _ (slotStat_ne_shadow hj)).trans h.word
  · obtain ⟨hword, hstat⟩ := hi _ (.head _)
    exact (h'.other q i hstat).trans (h.other q i hword)

/-- One word written. -/
theorem SlotsSet.one {k : Nat} (hw : s.regs.wf = true) (hrace : race < 32) (hj : first + k < 8) (hd : s.domainOn race = true) {x : Nat}
    (hx : val k = BitVec.ofNat 64 x) :
    SlotsSet s (s.fwWrite c .RACE_SLOT_SHD (Reg.key2 .RACE_SLOT_SHD race (first + k) 0) x) first val [(race, k)] := by
  have hstored := Stored.setRaw hw .RACE_SLOT_SHD (Reg.key2 .RACE_SLOT_SHD race (first + k) 0) (slotWord (val k)).1
  have hhook (u : State) (old new nv : Word) : u.writeHook (.fw c) (shadowLoc race (first + k)) old new nv =
      if (slotWord nv).2 then u.fset Fld.RACE_SLOT_STAT_BADCODE 1 race else u := rfl
  rw [State.fwWrite_shadow hrace hj hd, ← hx, State.store_now rfl, hhook]
  have hsame := Stored.same hstored.wf .RACE_SLOT_STAT (Reg.key .RACE_SLOT_STAT race 0)
  cases (slotWord (val k)).2 with
  | false => exact hstored.slotsSet hsame hj
  | true => exact hstored.slotsSet (hsame.fset (f := Fld.RACE_SLOT_STAT_BADCODE) 1) hj

/-- Words written after others; a word written twice is the same word. -/
theorem SlotsSet.append (h : SlotsSet s u first val ps) (h' : SlotsSet u t first val qs) (hps : ∀ p ∈ ps, first + p.2 < 8)
    (hqs : ∀ p ∈ qs, first + p.2 < 8) : SlotsSet s t first val (ps ++ qs) := by
  have hrest := congrArg (fun x : State => { x with regs := s.regs, reply := s.reply }) h'.rest
  refine ⟨hrest.trans h.rest, h'.wf, fun p hp => ?_, fun q k hk => ?_⟩
  · by_cases hq : p ∈ qs
    · exact h'.word p hq
    · have hp' : p ∈ ps := (List.mem_append.mp hp).resolve_right hq
      refine (h'.other _ _ fun q hmem => ⟨fun hkey => hq ?_, slotStat_ne_shadow (hps p hp')⟩).trans (h.word p hp')
      obtain ⟨hr, hj⟩ := shadow_key_inj (hps p hp') (hqs q hmem) hkey
      have heq : p = q := Prod.ext hr (by omega)
      exact heq ▸ hmem
  · exact (h'.other q k fun p hp => hk p (List.mem_append_right _ hp)).trans (h.other q k fun p hp => hk p (List.mem_append_left _ hp))

theorem SlotsSet.clk (h : SlotsSet s u first val ps) : u.clk = s.clk := (congrArg State.clk h.rest :)

theorem SlotsSet.domainOn (h : SlotsSet s u first val ps) (hr : race < 32) : u.domainOn race = s.domainOn race := by
  rw [State.domainOn_race hr, State.domainOn_race hr, ← congrArg State.mainsOn h.rest, ← congrArg (fun x : State => x.race race) h.rest,
    ← congrArg State.boot h.rest]
  rfl

/-- A slot word lies below the mailboxes, and so does a race's slot status. -/
theorem SlotsSet.raw_above (h : SlotsSet s u first val ps) (hps : ∀ p ∈ ps, p.1 < 32 ∧ first + p.2 < 8) (q : Reg) {k : Nat}
    (hk : 0xF01000 ≤ k) : u.raw q k = s.raw q k :=
  h.other q k fun p hp => by
    obtain ⟨hrace, hj⟩ := hps p hp
    rw [shadow_key, slotStat_key]
    omega

/-- The command in service goes on. -/
theorem SlotsSet.serving {v : Serve} (h : SlotsSet s u first val ps) (hps : ∀ p ∈ ps, p.1 < 32 ∧ first + p.2 < 8)
    (hcur : (s.core c).cur = some v) : Serving s u c v := .of_below h.wf (congrArg State.mil h.rest :) hcur (h.raw_above hps)

/-- One after the other, every word that the list names is written, from the request's ARG byte 8 on. -/
theorem SlotsSet.each {v : Serve} (hval : ∀ k, val k = BitVec.ofNat 64 (s.arg v (8 + 8 * k) 8)) (hw : s.regs.wf = true)
    (hps : ∀ p ∈ ps, p.1 < 32 ∧ first + p.2 < 8 ∧ s.domainOn p.1 = true) :
    SlotsSet s (Machine.each ps
      (fun p s => s.fwWrite c .RACE_SLOT_SHD (Reg.key2 .RACE_SLOT_SHD p.1 (first + p.2) 0) (s.arg v (8 + 8 * p.2) 8)) s) first val ps := by
  induction ps generalizing s with
  | nil => exact ⟨rfl, hw, fun _ hp => (nomatch hp), fun _ _ _ => rfl⟩
  | cons p ps ih =>
    obtain ⟨⟨hrace, hj, hd⟩, hps⟩ := List.forall_mem_cons.mp hps
    have hone := SlotsSet.one (c := c) hw hrace hj hd (hval p.2)
    have habove := hone.raw_above fun q hq => List.mem_singleton.mp hq ▸ ⟨hrace, hj⟩
    refine hone.append (ih (fun k => ?_) hone.wf fun q hq => ?_) (fun q hq => List.mem_singleton.mp hq ▸ hj) fun q hq => (hps q hq).2.1
    · rw [State.arg_congr habove]
      exact hval k
    · obtain ⟨hrace, hj, hd⟩ := hps q hq
      exact ⟨hrace, hj, (hone.domainOn hrace).trans hd⟩

/-- For each a of a list, for each b of another: for each pair. -/
theorem each_each {α β : Type} (l : List α) (m : List β) (f : α → β → State → State) (s : State) :
    each l (fun a s => each m (f a) s) s = each (l ×ˢ m) (fun p s => f p.1 p.2 s) s := by
  unfold each
  rw [show l ×ˢ m = l.flatMap fun a => m.map (Prod.mk a) from rfl, List.foldl_flatMap]
  simp only [List.foldl_map]

end Sys2Proof.Machine
end

section
/-!
SUPPORT. Retrainings asked for one after the other (R274).
-/
namespace Sys2Proof.Machine

variable {s t u : State} {c r h : Nat} {v : Serve}

/-- Race r waits in the queue of half h for its retraining, or is in it. -/
def State.toRetrain (s : State) (h r : Nat) : Prop := r ∈ (s.fan h).queue ∨ (s.fan h).running = some r

/-- u is s with retrainings asked for: the queues, and the bits of FAN_CTRL. -/
structure RetrainsAsked (s u : State) : Prop where
  rest : ({ u with regs := s.regs, fanE := s.fanE, fanW := s.fanW } : State) = s
  wf : u.regs.wf = true
  other : ∀ q k, k ≠ Reg.key .FAN_CTRL 0 0 → k ≠ Reg.key .FAN_CTRL 0 1 → u.raw q k = s.raw q k
  keeps : ∀ h r, s.toRetrain h r → u.toRetrain h r

theorem RetrainsAsked.refl (hw : s.regs.wf = true) : RetrainsAsked s s := ⟨rfl, hw, fun _ _ _ _ => rfl, fun _ _ => id⟩

theorem RetrainsAsked.trans (h : RetrainsAsked s u) (h' : RetrainsAsked u t) : RetrainsAsked s t :=
  ⟨(congrArg (fun x : State => { x with regs := s.regs, fanE := s.fanE, fanW := s.fanW }) h'.rest).trans h.rest, h'.wf,
    fun q k hE hW => (h'.other q k hE hW).trans (h.other q k hE hW), fun i r hr => h'.keeps i r (h.keeps i r hr)⟩

theorem State.setFan_raw (s : State) (h : Nat) (x : Fan) (q : Reg) (k : Nat) : (s.setFan h x).raw q k = s.raw q k := rfl

theorem State.fan_setFan_other {h i : Nat} (s : State) (hne : ¬ (h = 0 ↔ i = 0)) (x : Fan) : (s.setFan h x).fan i = s.fan i := by
  unfold State.fan State.setFan
  by_cases hh : h = 0 <;> by_cases hi : i = 0 <;> simp_all

theorem State.fan_half {h i : Nat} (s : State) (heq : h = 0 ↔ i = 0) : s.fan h = s.fan i := by
  simp only [State.fan, heq]

/-- A race that joins its half's queue. -/
theorem Stored.queued {half : Nat} {w : Word} (hs : Stored s u .FAN_CTRL (Reg.key .FAN_CTRL 0 half) w) (hhalf : half = 0 ∨ half = 1) (r : Nat) :
    RetrainsAsked s (u.setFan half { s.fan half with queue := (s.fan half).queue ++ [r] })
      ∧ (u.setFan half { s.fan half with queue := (s.fan half).queue ++ [r] }).toRetrain half r := by
  have hfan (i : Nat) : u.fan i = s.fan i := (congrArg (fun x : State => x.fan i) hs.rest :)
  refine ⟨⟨?rest, hs.wf, fun q k hE hW => ?other, fun i q hq => ?keeps⟩, ?joins⟩
  case rest => exact (congrArg (fun x : State => { x with fanE := s.fanE, fanW := s.fanW }) hs.rest :)
  case other =>
    refine (State.setFan_raw ..).trans (hs.other q k ?_)
    obtain rfl | rfl := hhalf <;> assumption
  case keeps =>
    unfold State.toRetrain at hq ⊢
    by_cases heq : i = 0 ↔ half = 0
    · rw [State.fan_half _ heq, State.fan_setFan]
      rw [State.fan_half _ heq] at hq
      exact hq.imp_left (List.mem_append_left _)
    · rw [State.fan_setFan_other _ fun h => heq h.symm, hfan]
      exact hq
  case joins =>
    unfold State.toRetrain
    rw [State.fan_setFan]
    exact .inl (List.mem_append_right _ (.head _))

/-- A race that asks joins its half's queue, unless it waits there or is in its retraining. -/
theorem State.askRetrain_asked (hw : s.regs.wf = true) (hr : r < 32) :
    RetrainsAsked s (s.askRetrain r) ∧ (s.askRetrain r).toRetrain (raceHalf r) r := by
  by_cases hin : s.toRetrain (raceHalf r) r
  · have hsame : s.askRetrain r = s := if_pos (by simpa [State.toRetrain] using hin)
    rw [hsame]
    exact ⟨.refl hw, hin⟩
  · obtain ⟨hqueue, hrunning⟩ := not_or.mp hin
    have hhalf : raceHalf r = 0 ∨ raceHalf r = 1 := by unfold raceHalf; omega
    rw [State.askRetrain_new hqueue hrunning]
    exact ((Stored.same hw .FAN_CTRL _).fset (f := Fld.FAN_CTRL_RETRAIN) _).queued hhalf r

theorem RetrainsAsked.raceRuns (h : RetrainsAsked s u) (r : Nat) : u.raceRuns r = s.raceRuns r := by
  have hraw : u.raw .DRS_ISOL (Reg.key .DRS_ISOL 0 0) = s.raw .DRS_ISOL (Reg.key .DRS_ISOL 0 0) := h.other _ _ (by decide) (by decide)
  have hisol : u.fheld Fld.DRS_ISOL_ISOL = s.fheld Fld.DRS_ISOL_ISOL := State.fheld_congr hraw
  have hrace : u.race r = s.race r := (congrArg (fun x : State => x.race r) h.rest :)
  have hgov : u.gov = s.gov := (congrArg State.gov h.rest :)
  rw [State.raceRuns, State.raceRuns, State.isolated, State.isolated, hisol, hrace, hgov]

theorem RetrainsAsked.clk (h : RetrainsAsked s u) : u.clk = s.clk := (congrArg State.clk h.rest :)

/-- Of a list of races those that run ask. -/
theorem each_askIfRuns (hw : s.regs.wf = true) {l : List Nat} (hl : ∀ r ∈ l, r < 32) :
    RetrainsAsked s (each l (fun r s => s.askIfRuns r) s)
      ∧ ∀ r ∈ l, s.raceRuns r = true → (each l (fun r s => s.askIfRuns r) s).toRetrain (raceHalf r) r := by
  induction l generalizing s with
  | nil => exact ⟨.refl hw, fun _ hr => nomatch hr⟩
  | cons a l ih =>
    obtain ⟨ha, hl⟩ := List.forall_mem_cons.mp hl
    have hstep : RetrainsAsked s (s.askIfRuns a) ∧ (s.raceRuns a = true → (s.askIfRuns a).toRetrain (raceHalf a) a) := by
      obtain ⟨hasked, hin⟩ := State.askRetrain_asked hw ha
      unfold State.askIfRuns
      split
      · exact ⟨hasked, fun _ => hin⟩
      · next hoff => exact ⟨.refl hw, fun hon => absurd hon hoff⟩
    obtain ⟨hfirst, hin⟩ := hstep
    obtain ⟨hrest, hall⟩ := ih hfirst.wf hl
    refine ⟨hfirst.trans hrest, fun r hr hon => ?_⟩
    cases hr with
    | head => exact hrest.keeps _ _ (hin hon)
    | tail _ hr => exact hall r hr ((hfirst.raceRuns r).trans hon)

/-- The command in service goes on. -/
theorem RetrainsAsked.serving (h : RetrainsAsked s u) (hcur : (s.core c).cur = some v) : Serving s u c v := by
  have hE : Reg.key .FAN_CTRL 0 0 < 0xF01000 := by decide
  have hW : Reg.key .FAN_CTRL 0 1 < 0xF01000 := by decide
  exact .of_below h.wf (congrArg State.mil h.rest :) hcur fun q _ hk => h.other q _ (by omega) (by omega)

end Sys2Proof.Machine
end

section
/-! The obligation on streams, groups, slot tables and retraining by mailbox. -/
namespace Sys2Proof.Machine

variable {s : State} {c : Nat} {v : Serve}

/-! ### What each command runs once its checks pass -/

/-- Words `first` to `first` + n - 1 of each race's shadow table, written by firmware from the request's ARG byte 8 on. -/
def State.writeSlots (s : State) (c : Nat) (v : Serve) (races : List Nat) (first n : Nat) : State :=
  each (races ×ˢ List.range n) (fun p s => s.fwWrite c .RACE_SLOT_SHD (Reg.key2 .RACE_SLOT_SHD p.1 (first + p.2) 0) (s.arg v (8 + 8 * p.2) 8)) s

/-- The races of a mask wait for their swap, and COMMIT_SLOTS waits with its bound for the boundary. -/
def State.committing (s : State) (mask b : Nat) : State :=
  let u := each (racesOf mask) (fun r s => s.setRace r { s.race r with admPend := true }) s
  { u with mil := { u.mil with commit := some (mask, b), swapped := none } }

section

variable (hc : c < 2) (hcur : (s.core c).cur = some v)
include hc hcur

theorem exec_setStream (hopc : v.opc = 0x10) (hst : s.arg v 0 2 ≤ 4095) (hfree : s.streamHeld (s.arg v 0 2) (s.arg v 4 4) = false) :
    exec (.setStream c) s = .next ((s.fwWrite c .HOP_STREAM (Reg.key .HOP_STREAM (s.arg v 0 2) 0) (s.arg v 4 4)).okCur c []) := by
  have hpass : ∀ e ∈ [badAt (decide (s.arg v 0 2 > 4095)) 0, (s.streamHeld (s.arg v 0 2) (s.arg v 4 4), St.busy, 0)], e.1 = false := by
    simp [badAt, hst, hfree]
  exact congrArg Host.Outcome.next ((State.serve_eq hcur hc hopc _).trans (State.checked_pass hpass _))

/-- A contract that passes its argument checks is judged with the others. -/
theorem exec_setGroup (hopc : v.opc = 0x12) (hgrp : s.arg v 0 1 ≤ 63)
    (hargs : ∀ e ∈ s.groupArgs (BitVec.ofNat 64 (s.arg v 8 8)), e.1 = false) : exec (.setGroup c) s = .next
      ((s.setRaw .WEIR_GRP (Reg.key .WEIR_GRP (s.arg v 0 1) 0) (BitVec.ofNat 64 (s.arg v 8 8))).overcommit.elim
        ((s.fwWrite c .WEIR_GRP (Reg.key .WEIR_GRP (s.arg v 0 1) 0) (BitVec.ofNat 64 (s.arg v 8 8) : Word).toNat).okCur c [])
        (fun d => s.endCur c St.overcommit d 0)) := by
  have hpass : ∀ e ∈ badAt (decide (s.arg v 0 1 > 63)) 0 :: s.groupArgs (BitVec.ofNat 64 (s.arg v 8 8)), e.1 = false :=
    List.forall_mem_cons.mpr ⟨by simp [badAt, hgrp], hargs⟩
  change Host.Outcome.next (s.cmdSetGroup c) = _
  rw [State.cmdSetGroup, State.serve_eq hcur hc hopc]
  dsimp only
  rw [State.checked_pass hpass]
  generalize State.overcommit _ = o
  cases o with
  | none => rfl
  | some d => rfl

theorem exec_setSlots (hopc : v.opc = 0x14) (hfirst : s.arg v 4 1 ≤ 7) (hpos : 1 ≤ s.arg v 5 1) (hn : s.arg v 5 1 ≤ 6)
    (hfit : s.arg v 4 1 + s.arg v 5 1 ≤ 8) (hon : ∀ r ∈ racesOf (s.arg v 0 4), s.isolated r = false ∧ s.domainOn r = true) :
    exec (.setSlots c) s = .next ((s.writeSlots c v (racesOf (s.arg v 0 4)) (s.arg v 4 1) (s.arg v 5 1)).okCur c []) := by
  have hpass : ∀ e ∈ [badAt (decide (s.arg v 4 1 > 7)) 4,
      badAt (decide (s.arg v 5 1 = 0) || decide (s.arg v 5 1 > 6) || decide (s.arg v 4 1 + s.arg v 5 1 > 8)) 5,
      s.offRace (racesOf (s.arg v 0 4))], e.1 = false := by
    have hne : s.arg v 5 1 ≠ 0 := by omega
    simp [badAt, hfirst, hne, hn, hfit, State.offRace_none hon]
  change Host.Outcome.next (s.cmdSetSlots c) = _
  rw [State.cmdSetSlots, State.serve_eq hcur hc hopc]
  dsimp only
  rw [State.checked_pass hpass, each_each]
  rfl

/-- A swap that passes its checks is asked for, its bound is shown and its races wait for it (R210, R254). -/
theorem exec_commitSlots (hopc : v.opc = 0x16) (hidle : s.mil.commit = none)
    (hpasses : ∀ r ∈ racesOf (s.arg v 0 4), s.isolated r = false ∧ s.domainOn r = true ∧ s.commitCheck r = 0) :
    exec (.commitSlots c) s = .next (((s.writeField (.fw c) Fld.SLU_SLOT_SWAP_RACES (s.arg v 0 4)).fset Fld.WEIR_STATUS_BOUND
      (min 511 (s.maxBound (racesOf (s.arg v 0 4))))).committing (s.arg v 0 4) (s.maxBound (racesOf (s.arg v 0 4)))) := by
  have hnone : (racesOf (s.arg v 0 4)).find? (fun r => decide (s.commitCheck r ≠ 0)) = none :=
    List.find?_eq_none.mpr fun r hr => by simp [(hpasses r hr).2.2]
  have hon : ∀ r ∈ racesOf (s.arg v 0 4), s.isolated r = false ∧ s.domainOn r = true := fun r hr => ⟨(hpasses r hr).1, (hpasses r hr).2.1⟩
  have hpass : ∀ e ∈ s.slotChecks (racesOf (s.arg v 0 4)), e.1 = false := by
    simp only [State.slotChecks, State.offRace_none hon, hnone, List.forall_mem_cons]
    simp
  have hwait : ¬ s.mil.commit.isSome = true := by simp [hidle]
  change Host.Outcome.next (s.cmdCommit c) = _
  rw [State.cmdCommit, State.serve_eq hcur hc hopc]
  dsimp only
  rw [if_neg hwait, State.checked_pass hpass]
  rfl

/-- The races that run ask for their retraining. -/
theorem exec_retrain (hopc : v.opc = 0x20) (halert : s.gov.alert = false)
    (hon : ∀ r ∈ racesOf (s.arg v 0 4), s.isolated r = false ∧ s.domainOn r = true) :
    exec (.retrain c) s = .next ((each (racesOf (s.arg v 0 4)) (fun r s => s.askIfRuns r) s).okCur c []) := by
  have hpass : ∀ e ∈ [s.offRace (racesOf (s.arg v 0 4)), (s.gov.alert, St.denied, 4)], e.1 = false := by
    simp [State.offRace_none hon, halert]
  change Host.Outcome.next (s.cmdRetrain c) = _
  rw [State.cmdRetrain, State.serve_eq hcur hc hopc]
  dsimp only
  rw [State.checked_pass hpass]
  rfl

end

/-! ### What they leave -/

theorem stream_fields : ∀ f ∈ [Fld.HOP_STREAM_EN, Fld.HOP_STREAM_GROUP, Fld.HOP_STREAM_CLASS, Fld.HOP_STREAM_HOME],
    f ∈ Reg.fields .HOP_STREAM ∧ f.acc = .rw ∧ ∀ e ∈ limits, e.1 ≠ f := by decide +kernel

theorem group_fields : ∀ f ∈ [Fld.WEIR_GRP_SHARE1, Fld.WEIR_GRP_C0_RATE, Fld.WEIR_GRP_C0_MODS],
    f ∈ Reg.fields .WEIR_GRP ∧ f.acc = .rw ∧ ∀ e ∈ limits, e.1 ≠ f := by decide +kernel

theorem mem_slotPairs {races : List Nat} {n : Nat} {p : Nat × Nat} : p ∈ races ×ˢ List.range n ↔ p.1 ∈ races ∧ p.2 < n := by
  rw [← List.mem_range]
  exact List.pair_mem_product

theorem State.writeSlots_set (s : State) (v : Serve) (hw : s.regs.wf = true) {first n m : Nat} (hfit : first + n ≤ 8)
    (hon : ∀ r ∈ racesOf m, s.domainOn r = true) :
    SlotsSet s (s.writeSlots c v (racesOf m) first n) first (fun k => BitVec.ofNat 64 (s.arg v (8 + 8 * k) 8)) (racesOf m ×ˢ List.range n) :=
  .each (fun _ => rfl) hw fun p hp => by
    obtain ⟨hr, hk⟩ := mem_slotPairs.mp hp
    exact ⟨(mem_racesOf.mp hr).1, by omega, hon _ hr⟩

theorem swapMask_lt (s : State) (v : Serve) : s.arg v 0 4 < 2 ^ 32 := Nat.mod_lt _ (by decide)

/-- A swap under way: the races are marked, and of Miller's records only its own two differ. -/
theorem State.committing_left (b : State) (mask n : Nat) :
    ({ b.committing mask n with races := b.races, mil := b.mil } : State) = b
      ∧ (b.committing mask n).mil = { b.mil with commit := some (mask, n), swapped := none }
      ∧ ∀ r ∈ racesOf mask, ((b.committing mask n).race r).admPend = true := by
  obtain ⟨hrest, hmarked⟩ := each_setRace (f := fun r s => s.setRace r { s.race r with admPend := true })
    (g := fun r => { b.race r with admPend := true }) b _ (racesOf_nodup mask) fun r u _ hu => by simp only [hu]
  unfold State.committing
  generalize each .. = u at hrest hmarked
  dsimp only
  have hmil : u.mil = b.mil := (congrArg State.mil hrest :)
  refine ⟨(congrArg (fun x : State => { x with mil := b.mil }) hrest :), by rw [hmil], fun r hr => ?_⟩
  have hrace : u.race r = { b.race r with admPend := true } := (hmarked r).trans (if_pos hr)
  exact (congrArg Race.admPend hrace :)

theorem Clk.swapAsked_rest (k : Clk) (old new : Nat) : ({ k.swapAsked old new with swapLate := k.swapLate } : Clk) = k := by
  unfold Clk.swapAsked
  split <;> rfl

/-- The swap asked for, its bound shown and its races marked: what is left. -/
theorem swapLeft {u a b : State} {k : Clk} {w w' : Word} (hu : Stored { s with clk := k } u .SLU_SLOT_SWAP (Reg.key .SLU_SLOT_SWAP 0 0) w)
    (ha : AnsweredFrom (.fw c) u a) (hb : Stored a b .WEIR_STATUS (Reg.key .WEIR_STATUS 0 0) w') (mask n : Nat) :
    (b.committing mask n).clk = k ∧ (b.committing mask n).mil = { s.mil with commit := some (mask, n), swapped := none }
      ∧ (b.committing mask n).fheld Fld.SLU_SLOT_SWAP_RACES = Fld.SLU_SLOT_SWAP_RACES.of w
      ∧ (b.committing mask n).fheld Fld.WEIR_STATUS_BOUND = Fld.WEIR_STATUS_BOUND.of w'
      ∧ ∀ r ∈ racesOf mask, ((b.committing mask n).race r).admPend = true := by
  obtain ⟨hrest, hmil, hmarked⟩ := b.committing_left mask n
  generalize b.committing mask n = t at hrest hmil hmarked
  have hfield (f : Field) : t.fheld f = b.fheld f := (congrArg (fun x : State => x.fheld f) hrest :)
  have hne : Reg.key .SLU_SLOT_SWAP 0 0 ≠ Reg.key .WEIR_STATUS 0 0 := by decide
  have hkept : b.fheld Fld.SLU_SLOT_SWAP_RACES = a.fheld Fld.SLU_SLOT_SWAP_RACES := State.fheld_congr (hb.other _ _ hne)
  have hmil' : b.mil = s.mil := (congrArg State.mil hb.rest :).trans ((congrArg State.mil ha.rest :).trans (congrArg State.mil hu.rest :))
  refine ⟨?_, hmil'.symm ▸ hmil, ?_, (hfield _).trans (hb.fheld (by decide)), hmarked⟩
  · exact (congrArg State.clk hrest :).trans
      ((congrArg State.clk hb.rest :).trans ((congrArg State.clk ha.rest :).trans (congrArg State.clk hu.rest :)))
  · exact ((hfield _).trans hkept).trans ((ha.fheld (by decide)).trans (hu.fheld (by decide)))

/-! ### The clauses -/

section

variable (hw : s.regs.wf = true) (hc : c < 2) (hcur : (s.core c).cur = some v)
include hw hc hcur

theorem streamStored (hs : s.mainsOn = true) (hopc : v.opc = 0x10) (hst : s.arg v 0 2 ≤ 4095)
    (hfree : s.streamHeld (s.arg v 0 2) (s.arg v 4 4) = false) :
    Completes (.setStream c) s (fun t => Intact s t ∧ t.clk = s.clk ∧ Replied s t c v St.ok 0 0
      ∧ ∀ f ∈ [Fld.HOP_STREAM_EN, Fld.HOP_STREAM_GROUP, Fld.HOP_STREAM_CLASS, Fld.HOP_STREAM_HOME],
          t.fheld f (s.arg v 0 2) = f.of (BitVec.ofNat 64 (s.arg v 4 4))) := by
  have hrun := exec_setStream hc hcur hopc hst hfree
  have hset := State.fwWrite_stream (c := c) hw hs hst hfree
  generalize State.fwWrite .. = u at hrun hset
  obtain ⟨honly, hreplied⟩ := (hset.serving hst hcur).okCur []
  refine .of_exec hrun ⟨exec_intact hrun rfl rfl, honly.clk.trans hset.clk, hreplied, fun f hf => ?_⟩
  obtain ⟨hmem, hacc, hnolimit⟩ := stream_fields f hf
  have hbelow : f.reg.key (s.arg v 0 2) 0 < 0xF01000 := by rw [(Reg.fields_fit _ f hmem).1]; exact stream_below hst
  exact (honly.fheld_below hbelow).trans
    ((State.fheld_of_raw hmem hset.word).trans (Field.of_newWord_rw (l := streamLoc (s.arg v 0 2)) hmem hnolimit hacc _))

theorem streamBusy (hopc : v.opc = 0x10) (hst : s.arg v 0 2 ≤ 4095) (hheld : s.streamHeld (s.arg v 0 2) (s.arg v 4 4) = true) :
    Completes (.setStream c) s (fun t => OnlyMailbox v s t ∧ Replied s t c v St.busy 0 0) := by
  have hfail : [badAt (decide (s.arg v 0 2 > 4095)) 0, (s.streamHeld (s.arg v 0 2) (s.arg v 4 4), St.busy, 0)].find? (fun e => e.1)
      = some (true, St.busy, 0) := by
    simp [badAt, Nat.not_lt.mpr hst, hheld]
  have hrun : exec (.setStream c) s = .next (s.endCur c St.busy 0 0) :=
    congrArg Host.Outcome.next ((State.serve_eq hcur hc hopc _).trans (State.checked_fail hfail _))
  exact .of_exec hrun ((Serving.refl hw hcur).endCur St.busy 0 0)

theorem groupStored (hs : s.mainsOn = true) (hopc : v.opc = 0x12) (hgrp : s.arg v 0 1 ≤ 63)
    (hargs : ∀ e ∈ s.groupArgs (BitVec.ofNat 64 (s.arg v 8 8)), e.1 = false)
    (hfits : (s.setRaw .WEIR_GRP (Reg.key .WEIR_GRP (s.arg v 0 1) 0) (BitVec.ofNat 64 (s.arg v 8 8))).overcommit = none) :
    Completes (.setGroup c) s (fun t => Intact s t ∧ t.clk = s.clk ∧ Replied s t c v St.ok 0 0
      ∧ ∀ f ∈ [Fld.WEIR_GRP_SHARE1, Fld.WEIR_GRP_C0_RATE, Fld.WEIR_GRP_C0_MODS],
          t.fheld f (s.arg v 0 1) = f.of (BitVec.ofNat 64 (s.arg v 8 8))) := by
  have hrun := exec_setGroup hc hcur hopc hgrp hargs
  rw [hfits, Option.elim_none] at hrun
  have hset := State.fwWrite_group (c := c) hw hs hgrp (BitVec.ofNat 64 (s.arg v 8 8))
  generalize State.fwWrite .. = u at hrun hset
  obtain ⟨honly, hreplied⟩ := (hset.serving hgrp hcur).okCur []
  refine .of_exec hrun ⟨exec_intact hrun rfl rfl, honly.clk.trans hset.clk, hreplied, fun f hf => ?_⟩
  obtain ⟨hmem, hacc, hnolimit⟩ := group_fields f hf
  have hbelow : f.reg.key (s.arg v 0 1) 0 < 0xF01000 := by
    rw [(Reg.fields_fit _ f hmem).1, group_key]
    omega
  exact (honly.fheld_below hbelow).trans
    ((State.fheld_of_raw hmem hset.word).trans (Field.of_newWord_rw (l := groupLoc (s.arg v 0 1)) hmem hnolimit hacc _))

theorem groupOvercommits (hopc : v.opc = 0x12) (hgrp : s.arg v 0 1 ≤ 63)
    (hargs : ∀ e ∈ s.groupArgs (BitVec.ofNat 64 (s.arg v 8 8)), e.1 = false) {d : Nat}
    (hover : (s.setRaw .WEIR_GRP (Reg.key .WEIR_GRP (s.arg v 0 1) 0) (BitVec.ofNat 64 (s.arg v 8 8))).overcommit = some d) :
    Completes (.setGroup c) s (fun t => OnlyMailbox v s t ∧ Replied s t c v St.overcommit d 0) := by
  have hrun := exec_setGroup hc hcur hopc hgrp hargs
  rw [hover, Option.elim_some] at hrun
  exact .of_exec hrun ((Serving.refl hw hcur).endCur St.overcommit d 0)

theorem slotsStored (hopc : v.opc = 0x14) (hfirst : s.arg v 4 1 ≤ 7) (hpos : 1 ≤ s.arg v 5 1) (hn : s.arg v 5 1 ≤ 6)
    (hfit : s.arg v 4 1 + s.arg v 5 1 ≤ 8) (hon : ∀ r ∈ racesOf (s.arg v 0 4), s.isolated r = false ∧ s.domainOn r = true) :
    Completes (.setSlots c) s (fun t => Intact s t ∧ t.clk = s.clk ∧ Replied s t c v St.ok 0 0
      ∧ (∀ r ∈ racesOf (s.arg v 0 4), ∀ k, k < s.arg v 5 1 → t.raw .RACE_SLOT_SHD (Reg.key2 .RACE_SLOT_SHD r (s.arg v 4 1 + k) 0)
          = (slotWord (BitVec.ofNat 64 (s.arg v (8 + 8 * k) 8))).1)
      ∧ ∀ r j, r < 32 → j < 8 → r ∉ racesOf (s.arg v 0 4) ∨ j < s.arg v 4 1 ∨ s.arg v 4 1 + s.arg v 5 1 ≤ j →
          t.raw .RACE_SLOT_SHD (Reg.key2 .RACE_SLOT_SHD r j 0) = s.raw .RACE_SLOT_SHD (Reg.key2 .RACE_SLOT_SHD r j 0)) := by
  have hrun := exec_setSlots hc hcur hopc hfirst hpos hn hfit hon
  have hset := s.writeSlots_set (c := c) v hw hfit fun r hr => (hon r hr).2
  generalize State.writeSlots .. = u at hrun hset
  have hpairs : ∀ p ∈ racesOf (s.arg v 0 4) ×ˢ List.range (s.arg v 5 1), p.1 < 32 ∧ s.arg v 4 1 + p.2 < 8 := fun p hp => by
    obtain ⟨hr, hk⟩ := mem_slotPairs.mp hp
    exact ⟨(mem_racesOf.mp hr).1, by omega⟩
  obtain ⟨honly, hreplied⟩ := (hset.serving hpairs hcur).okCur []
  have hbelow {r j : Nat} (hr : r < 32) (hj : j < 8) : Reg.key2 .RACE_SLOT_SHD r j 0 < 0xF01000 := by
    rw [shadow_key]
    omega
  refine .of_exec hrun ⟨exec_intact hrun rfl rfl, honly.clk.trans hset.clk, hreplied, fun r hr k hk => ?named,
    fun r j hr hj hout => ?others⟩
  case named => exact (honly.raw_below _ (hbelow (mem_racesOf.mp hr).1 (by omega))).trans (hset.word (r, k) (mem_slotPairs.mpr ⟨hr, hk⟩))
  case others =>
    refine (honly.raw_below _ (hbelow hr hj)).trans (hset.other _ _ fun p hp => ⟨fun hkey => ?_, slotStat_ne_shadow hj⟩)
    obtain ⟨hr', hk⟩ := mem_slotPairs.mp hp
    obtain ⟨hsame, hj'⟩ := shadow_key_inj hj (hpairs p hp).2 hkey
    obtain hnot | hlow | hhigh := hout
    · exact hnot (hsame ▸ hr')
    · omega
    · omega

theorem swapAskedFor (hs : s.mainsOn = true) (hopc : v.opc = 0x16) (hidle : s.mil.commit = none)
    (hpasses : ∀ r ∈ racesOf (s.arg v 0 4), s.isolated r = false ∧ s.domainOn r = true ∧ s.commitCheck r = 0) :
    Completes (.commitSlots c) s (fun t => Intact s t ∧ ({ t.clk with swapLate := s.clk.swapLate } : Clk) = s.clk ∧ (t.core c).cur = some v
      ∧ t.mil.commit = some (s.arg v 0 4, s.maxBound (racesOf (s.arg v 0 4)))
      ∧ t.fheld Fld.SLU_SLOT_SWAP_RACES = (s.fheld Fld.SLU_SLOT_SWAP_RACES ||| s.arg v 0 4)
      ∧ t.fheld Fld.WEIR_STATUS_BOUND = min 511 (s.maxBound (racesOf (s.arg v 0 4)))
      ∧ ∀ r ∈ racesOf (s.arg v 0 4), (t.race r).admPend = true) := by
  have hrun := exec_commitSlots hc hcur hopc hidle hpasses
  have hgrant : s.grantsField (.fw c) Fld.SLU_SLOT_SWAP_RACES (s.arg v 0 4) 0 0 = true :=
    State.grantsField_fw swap_found rfl (State.domainOn_fabric hs)
  obtain ⟨u, hwrite, hswap, hvalue⟩ := State.writeField_swap (swapMask_lt s v) hw hgrant
  rw [hwrite] at hrun
  have hbound := (Stored.same (show (u.answered (.fw c) St.ok 0).regs.wf = true from hswap.wf) .WEIR_STATUS (Reg.key .WEIR_STATUS 0 0)).fset
    (f := Fld.WEIR_STATUS_BOUND) (min 511 (s.maxBound (racesOf (s.arg v 0 4))))
  obtain ⟨hclk, hmil, hraces, hshown, hmarked⟩ :=
    swapLeft hswap (State.answered_from hswap.wf (.fw c)) hbound (s.arg v 0 4) (s.maxBound (racesOf (s.arg v 0 4)))
  have hfits : min 511 (s.maxBound (racesOf (s.arg v 0 4))) < 2 ^ 9 := by omega
  refine .of_exec hrun ⟨exec_intact hrun rfl rfl, ?clock, ?serves, ?waits, hraces.trans hvalue,
    hshown.trans ((Field.of_put _ _ _ (by decide)).trans (Nat.mod_eq_of_lt hfits)), hmarked⟩
  case clock =>
    rw [hclk]
    exact Clk.swapAsked_rest ..
  case serves =>
    rw [State.core, hmil]
    exact hcur
  case waits => rw [hmil]

theorem swapOvercommits (hopc : v.opc = 0x16) (hidle : s.mil.commit = none)
    (hon : ∀ q ∈ racesOf (s.arg v 0 4), s.isolated q = false ∧ s.domainOn q = true) {r : Nat}
    (hfails : (racesOf (s.arg v 0 4)).find? (fun q => decide (s.commitCheck q ≠ 0)) = some r) :
    Completes (.commitSlots c) s (fun t => OnlyMailbox v s t ∧ Replied s t c v St.overcommit (r * 256 + s.commitCheck r) 0) := by
  have hfail : (s.slotChecks (racesOf (s.arg v 0 4))).find? (fun e => e.1) = some (true, St.overcommit, r * 256 + s.commitCheck r) := by
    simp only [State.slotChecks, State.offRace_none hon, hfails]
    rfl
  have hwait : ¬ s.mil.commit.isSome = true := by simp [hidle]
  have hrun : exec (.commitSlots c) s = .next (s.endCur c St.overcommit (r * 256 + s.commitCheck r) 0) :=
    congrArg Host.Outcome.next ((State.serve_eq hcur hc hopc _).trans ((if_neg hwait).trans (State.checked_fail hfail _)))
  exact .of_exec hrun ((Serving.refl hw hcur).endCur St.overcommit _ 0)

theorem retrainQueued (hopc : v.opc = 0x20) (halert : s.gov.alert = false)
    (hon : ∀ r ∈ racesOf (s.arg v 0 4), s.isolated r = false ∧ s.domainOn r = true) :
    Completes (.retrain c) s (fun t => Intact s t ∧ t.clk = s.clk ∧ Replied s t c v St.ok 0 0
      ∧ ∀ r ∈ racesOf (s.arg v 0 4), s.raceRuns r = true → r ∈ (t.fan (raceHalf r)).queue ∨ (t.fan (raceHalf r)).running = some r) := by
  have hrun := exec_retrain hc hcur hopc halert hon
  obtain ⟨hasked, hqueued⟩ := each_askIfRuns hw fun r hr => (mem_racesOf.mp hr).1
  generalize each .. = u at hrun hasked hqueued
  obtain ⟨honly, hreplied⟩ := (hasked.serving hcur).okCur []
  refine .of_exec hrun ⟨exec_intact hrun rfl rfl, honly.clk.trans hasked.clk, hreplied, fun r hr hruns => ?_⟩
  rw [honly.fan]
  exact hqueued r hr hruns

end

/-- Settles O51: a command that passes its checks is its register writes or requests and then its reply, which changes its mailbox alone; one
that fails a check is its reply. -/
theorem streamsGroupsAndSlotsAreSet : Obligations.StreamsGroupsAndSlotsAreSet := by
  intro s c v hw hc _ _ hcur hs
  refine ⟨fun hopc hst => ⟨fun hfree => ?_, fun hheld => ?_⟩, fun hopc hgrp hargs => ⟨fun hfits => ?_, fun d hover => ?_⟩,
    fun hopc hfirst hpos hn hfit hon => ?_, fun hopc hidle hpasses => ?_, fun r hopc hidle hon hfails => ?_, fun hopc halert hon => ?_⟩
  · exact streamStored hw hc hcur hs hopc hst hfree
  · exact streamBusy hw hc hcur hopc hst hheld
  · exact groupStored hw hc hcur hs hopc hgrp hargs hfits
  · exact groupOvercommits hw hc hcur hopc hgrp hargs hover
  · exact slotsStored hw hc hcur hopc hfirst hpos hn hfit hon
  · exact swapAskedFor hw hc hcur hs hopc hidle hpasses
  · exact swapOvercommits hw hc hcur hopc hidle hon hfails
  · exact retrainQueued hw hc hcur hopc halert hon

end Sys2Proof.Machine
end

section
/-!
The obligation on training and tracking, refuted: its clause on a probe result speaks of a pseudo-race of any number, and a position's delay is found
by that number alone. Past the two pseudo-races of a race it falls on other registers, one of them a log of the Brake, into which the first position
of a result writes when it is found dead; the centre of a later position of the same result then is no longer what it was.
-/
namespace Sys2Proof.Machine

/-- The number of the "pseudo-race" of race 0 whose read delays would be at the place of the first entry of the Brake's history. -/
def strayPr : Nat := (Reg.key .BRK_HIST_LO 0 0 - dlyKey 0 0 0 0 0) / 0x200

/-- The pair of probes of its SID 0 for reads, in the numbering of `Train.await`. -/
def strayPair : Nat := (strayPr * 4 + 0) * 2 + 0

/-- A device in RUN, in its Turn 1, race 0 tracking: the result of `strayPair` is awaited, and its position 0 has failed three rounds of the four that make it dead. -/
def strayAwaited : State :=
  ({ clk := { turn := 1 }
     boot := { inReset := none, westUp := true }
     races := ⟨[(0, { run := true, tr := { await := [strayPair], failing := ⟨[(strayPair * 48, 3)]⟩ } })]⟩ } : State).fset Fld.SPIN_STAT_STATE 2

/-- Position 2 alone passes, its upper probe only. -/
def strayHigh : BitVec 42 := 4

/-- The centre that waits for a position of race 0 after a command. -/
def centreWaits (key : Nat) : Host.Outcome State Fault Refusal → Option Nat
  | .next t => (t.race 0).tr.pendC.find? key
  | _ => none

theorem strayAwaited_pair : strayPair ∈ (strayAwaited.race 0).tr.await ∧ strayAwaited.fheld Fld.SPIN_STAT_STATE = 2 := by decide +kernel

theorem strayAwaited_centre : strayAwaited.centre 0 (strayPair * 48 + 2) = 64 := by decide +kernel

/-- Position 0 is found dead first, whose entry in the Brake's history makes the delay of position 2 read 1. -/
theorem strayAwaited_moves :
    centreWaits (strayPair * 48 + 2) (exec (.probeResult 0 strayPr 0 0 0 strayHigh) strayAwaited) = some 2 := by decide +kernel

/-- The part of the obligation that fails: a position that passes its upper probe alone moves up by one from where its centre was. -/
theorem TrainingRuns.moves_up (h : Obligations.TrainingRuns) (s : State) (race pr sid : Nat) (lo hi : BitVec 42) (hw : s.regs.wf = true)
    (hrace : race < 32) (hpair : (pr * 4 + sid) * 2 + 0 ∈ (s.race race).tr.await) (hstate : s.fheld Fld.SPIN_STAT_STATE race = 2) (i : Nat)
    (hlane : i < 42) (hup : bit hi.toNat i = true) (hdown : bit lo.toNat i = false)
    (hroom : s.centre race (((pr * 4 + sid) * 2 + 0) * 48 + i) < 127) :
    ∃ t, exec (.probeResult race pr sid 0 lo hi) s = .next t
      ∧ (t.race race).tr.pendC.find? (((pr * 4 + sid) * 2 + 0) * 48 + i) = some (s.centre race (((pr * 4 + sid) * 2 + 0) * 48 + i) + 1) := by
  obtain ⟨-, htracking⟩ := h
  obtain ⟨hprobe, -⟩ := htracking s race pr sid 0 lo hi hw hrace
  obtain ⟨t, ht, -, -, -, -, hmoves⟩ := hprobe hpair hstate
  obtain ⟨hmove, -⟩ := hmoves i hlane
  exact ⟨t, ht, hmove hup hdown hroom⟩

/-- Refutes O24: position 2 of `strayPair` was at 64, and its centre becomes 2. -/
theorem not_trainingRuns : ¬ Obligations.TrainingRuns := by
  intro h
  obtain ⟨t, ht, hmove⟩ := TrainingRuns.moves_up h strayAwaited 0 strayPr 0 0 strayHigh (by decide) (by decide) strayAwaited_pair.1
    strayAwaited_pair.2 2 (by decide) (by decide) (by decide) (strayAwaited_centre.trans_lt (by decide))
  have hwas : (t.race 0).tr.pendC.find? (strayPair * 48 + 2) = some 65 := hmove.trans (congrArg (fun c => some (c + 1)) strayAwaited_centre)
  have hruns : (t.race 0).tr.pendC.find? (strayPair * 48 + 2) = some 2 := (congrArg (centreWaits (strayPair * 48 + 2)) ht).symm.trans strayAwaited_moves
  exact absurd (hwas.symm.trans hruns) (by decide)

end Sys2Proof.Machine
end

section
/-!
SUPPORT. What a state holds of a race's runtime retraining (R274, R276), and what stopping retrainings and raising Brake sources leave of it.
-/
namespace Sys2Proof.Machine

variable {s t u : State} {r q : Nat}

/-! ### What a state holds of a retraining -/

/-- What a state holds of race r's retraining: its place in the queue and in the engine of its half, its FAN_CTRL bit, its training record and
its SPIN_STAT. -/
structure Retraining where
  queued : Bool
  running : Bool
  asked : Bool
  tr : Train
  stat : Word

def Fan.queues (x : Fan) (r : Nat) : Bool := decide (r ∈ x.queue)
def Fan.runs (x : Fan) (r : Nat) : Bool := decide (x.running = some r)

def State.retraining (s : State) (r : Nat) : Retraining :=
  { queued := (s.fan (r / 16)).queues r
    running := (s.fan (r / 16)).runs r
    asked := bit (s.fheld Fld.FAN_CTRL_RETRAIN 0 (r / 16)) (r % 16)
    tr := (s.race r).tr
    stat := s.raw .SPIN_STAT (Reg.key .SPIN_STAT r 0) }

theorem State.retraining_congr (hfan : t.fan (r / 16) = s.fan (r / 16)) (htr : (t.race r).tr = (s.race r).tr)
    (hctrl : t.raw .FAN_CTRL (Reg.key .FAN_CTRL 0 (r / 16)) = s.raw .FAN_CTRL (Reg.key .FAN_CTRL 0 (r / 16)))
    (hstat : t.raw .SPIN_STAT (Reg.key .SPIN_STAT r 0) = s.raw .SPIN_STAT (Reg.key .SPIN_STAT r 0)) : t.retraining r = s.retraining r := by
  have hheld : t.fheld Fld.FAN_CTRL_RETRAIN 0 (r / 16) = s.fheld Fld.FAN_CTRL_RETRAIN 0 (r / 16) := State.fheld_congr hctrl
  simp only [State.retraining, hfan, htr, hheld, hstat]

/-- A training record without the marks of a retraining. -/
def Train.unmarked (x : Train) : Train := { x with retrain := false, hold := false, checkFail := false, saved := {}, savedDead := [] }

/-- SPIN_STAT of a race whose retraining is stopped: a race in it, or on its way to it from a failed resume check, is idle. -/
def Train.statStopped (x : Train) (w : Word) : Word :=
  if Fld.SPIN_STAT_STATE.of w = 3 || (Fld.SPIN_STAT_STATE.of w = 4 && x.checkFail) then Fld.SPIN_STAT_STATE.put w 6 else w

/-- A retraining stopped, if it was asked for or running (R276). -/
def Retraining.stopped (v : Retraining) : Retraining :=
  if v.running || v.queued then { queued := false, running := false, asked := false, tr := v.tr.unmarked, stat := v.tr.statStopped v.stat } else v

theorem Retraining.stopped_of_idle {v : Retraining} (hrunning : v.running = false) (hqueued : v.queued = false) : v.stopped = v := by
  simp [Retraining.stopped, hrunning, hqueued]

theorem Retraining.stopped_idle (v : Retraining) : v.stopped.running = false ∧ v.stopped.queued = false := by
  unfold Retraining.stopped
  split
  · exact ⟨rfl, rfl⟩
  · next hout => simpa using hout

theorem Retraining.stopped_stopped (v : Retraining) : v.stopped.stopped = v.stopped :=
  Retraining.stopped_of_idle v.stopped_idle.1 v.stopped_idle.2

theorem Retraining.stopped_dead (v : Retraining) : v.stopped.tr.dead = v.tr.dead := by
  unfold Retraining.stopped
  split <;> rfl

/-- A field of SPIN_STAT other than STATE. -/
theorem Retraining.stopped_field (v : Retraining) {f : Field} (h64 : f.lo + f.w ≤ 64) (hf : Fld.SPIN_STAT_STATE.apart f) :
    f.of v.stopped.stat = f.of v.stat := by
  unfold Retraining.stopped Train.statStopped
  split
  · dsimp only
    split
    · exact Field.of_put_apart _ _ h64 hf
    · rfl
  · rfl

theorem State.setRace_fan (s : State) (i : Nat) (x : Race) (h : Nat) : (s.setRace i x).fan h = s.fan h := rfl

theorem State.setRace_retraining (s : State) (r : Nat) (x : Race) : (s.setRace r x).retraining r = { s.retraining r with tr := x.tr } := by
  simp only [State.retraining, State.setRace_fan, State.setRace_fheld, State.setRace_raw, State.race_setRace]

theorem State.setRace_retraining_other (s : State) (x : Race) (hq : q ≠ r) : (s.setRace q x).retraining r = s.retraining r := by
  simp only [State.retraining, State.setRace_fan, State.setRace_fheld, State.setRace_raw, State.race_setRace_other _ _ _ _ hq.symm]

/-! ### The stop (R276) -/

theorem State.fset_fan (s : State) (f : Field) (v i h j : Nat) : (s.fset f v i h).fan j = s.fan j := rfl
theorem State.fset_race (s : State) (f : Field) (v i h j : Nat) : (s.fset f v i h).race j = s.race j := rfl
theorem State.setFan_race (s : State) (h : Nat) (x : Fan) (j : Nat) : (s.setFan h x).race j = s.race j := rfl

theorem fanCtrl_key (half : Nat) : Reg.key .FAN_CTRL 0 half = 0xA00008 + 0 + half * 0x80000 := rfl
theorem spinStat_key (i : Nat) : Reg.key .SPIN_STAT i 0 = 0x800800 + i * 0x10000 + 0 := rfl

theorem fanCtrl_ne_spinStat (half i : Nat) : Reg.key .FAN_CTRL 0 half ≠ Reg.key .SPIN_STAT i 0 := by
  have hctrl := fanCtrl_key half
  have hstat := spinStat_key i
  omega

/-- A half's queue and engine without race q. -/
def Fan.without (x : Fan) (q : Nat) : Fan := { queue := x.queue.filter (· ≠ q), running := if x.running = some q then none else x.running }

theorem Fan.without_out (x : Fan) (q : Nat) : (x.without q).queues q = false ∧ (x.without q).runs q = false := by
  refine ⟨by simp [Fan.queues, Fan.without], decide_eq_false ?_⟩
  unfold Fan.without
  dsimp only
  split
  · exact nofun
  · assumption

theorem Fan.without_other (x : Fan) (hq : q ≠ r) :
    (x.without q).queues r = x.queues r ∧ (x.without q).runs r = x.runs r := by
  refine ⟨by simp [Fan.queues, Fan.without, hq.symm], decide_eq_decide.mpr ?_⟩
  unfold Fan.without
  dsimp only
  split
  · next hrunning => simp [hrunning, hq]
  · rfl

/-- s with race q out of the queue and the engine of its half, and its FAN_CTRL bit clear. -/
def State.dequeued (s : State) (q : Nat) : State :=
  (s.fset Fld.FAN_CTRL_RETRAIN (setBits (s.fheld Fld.FAN_CTRL_RETRAIN 0 (q / 16)) (q % 16) 1 0) 0 (q / 16)).setFan (q / 16)
    ((s.fan (q / 16)).without q)

/-- s with race q idle, if it was in a retraining or on its way to one. -/
def State.idled (s : State) (q : Nat) : State :=
  if s.fheld Fld.SPIN_STAT_STATE q = 3 || (s.fheld Fld.SPIN_STAT_STATE q = 4 && (s.race q).tr.checkFail) then s.fset Fld.SPIN_STAT_STATE 6 q else s

theorem State.idled_fan (s : State) (q h : Nat) : (s.idled q).fan h = s.fan h := by
  unfold State.idled
  split <;> rfl

theorem State.idled_race (s : State) (q i : Nat) : (s.idled q).race i = s.race i := by
  unfold State.idled
  split <;> rfl

theorem State.dequeued_state (hw : s.regs.wf = true) (q : Nat) : (s.dequeued q).fheld Fld.SPIN_STAT_STATE q = s.fheld Fld.SPIN_STAT_STATE q :=
  (State.setFan_fheld ..).trans (State.fheld_fset_reg s Fld.FAN_CTRL_RETRAIN Fld.SPIN_STAT_STATE _ _ _ _ _ hw (fanCtrl_ne_spinStat _ _).symm)

theorem State.dequeued_race (s : State) (q i : Nat) : (s.dequeued q).race i = s.race i := by
  rw [State.dequeued, State.setFan_race, State.fset_race]

theorem State.dequeued_raw_other (hw : s.regs.wf = true) (p : Reg) {k : Nat} (hk : k ≠ Reg.key .FAN_CTRL 0 (q / 16)) :
    (s.dequeued q).raw p k = s.raw p k :=
  (State.setFan_raw ..).trans (State.raw_fset_other s Fld.FAN_CTRL_RETRAIN _ _ _ _ _ hw hk)

theorem State.stopRetrain_eq (hw : s.regs.wf = true) (hin : s.toRetrain (q / 16) q) :
    s.stopRetrain q = ((s.dequeued q).idled q).setRace q { s.race q with tr := (s.race q).tr.unmarked } := by
  have hcond : (((s.fan (q / 16)).running = some q || q ∈ (s.fan (q / 16)).queue : Bool)) = true := by
    simpa [State.toRetrain, or_comm] using hin
  have hstate := s.dequeued_state hw q
  have hrace := s.dequeued_race q q
  unfold State.stopRetrain State.idled
  rw [hstate, hrace]
  exact if_pos hcond

theorem State.stopRetrain_out (hout : ¬ s.toRetrain (q / 16) q) : s.stopRetrain q = s := by
  refine if_neg ?_
  simpa [State.toRetrain, or_comm] using hout

theorem State.dequeued_wf (hw : s.regs.wf = true) (q : Nat) : (s.dequeued q).regs.wf = true := s.fset_wf _ _ _ _ hw

theorem State.idled_raw_other (hw : s.regs.wf = true) (p : Reg) {k : Nat} (hk : k ≠ Reg.key .SPIN_STAT q 0) : (s.idled q).raw p k = s.raw p k := by
  unfold State.idled
  split
  · exact State.raw_fset_other _ _ _ _ _ _ _ hw hk
  · rfl

theorem State.idled_stat (hw : s.regs.wf = true) (r : Nat) :
    (s.idled r).raw .SPIN_STAT (Reg.key .SPIN_STAT r 0) = (s.race r).tr.statStopped (s.raw .SPIN_STAT (Reg.key .SPIN_STAT r 0)) := by
  unfold State.idled Train.statStopped
  split
  · next hidle => exact (State.raw_setRaw _ _ _ _ hw).trans (if_pos hidle).symm
  · next hidle => exact (if_neg hidle).symm

/-- Of the bits of a half's FAN_CTRL, the one of the race that leaves is cleared. -/
theorem State.dequeued_asked (hw : s.regs.wf = true) (q r : Nat) :
    bit ((s.dequeued q).fheld Fld.FAN_CTRL_RETRAIN 0 (r / 16)) (r % 16)
      = if q = r then false else bit (s.fheld Fld.FAN_CTRL_RETRAIN 0 (r / 16)) (r % 16) := by
  have hr : r % 16 < 16 := Nat.mod_lt _ (by decide)
  by_cases hhalf : r / 16 = q / 16
  · have hheld : (s.dequeued q).fheld Fld.FAN_CTRL_RETRAIN 0 (q / 16)
        = setBits (s.fheld Fld.FAN_CTRL_RETRAIN 0 (q / 16)) (q % 16) 1 0 % 2 ^ 16 :=
      (State.setFan_fheld ..).trans (s.fheld_fset Fld.FAN_CTRL_RETRAIN _ 0 _ hw (by decide))
    rw [hhalf, hheld, bit, Nat.testBit_mod_two_pow, testBit_setBits, decide_eq_true hr, Bool.true_and]
    by_cases hqr : q = r
    · rw [if_pos (by omega), if_pos hqr, Nat.zero_testBit]
    · rw [if_neg (by omega), if_neg hqr]
      rfl
  · have hkey : Reg.key .FAN_CTRL 0 (r / 16) ≠ Reg.key .FAN_CTRL 0 (q / 16) := by
      have hkr := fanCtrl_key (r / 16)
      have hkq := fanCtrl_key (q / 16)
      omega
    have hheld : (s.dequeued q).fheld Fld.FAN_CTRL_RETRAIN 0 (r / 16) = s.fheld Fld.FAN_CTRL_RETRAIN 0 (r / 16) :=
      (State.setFan_fheld ..).trans (s.fheld_fset_reg Fld.FAN_CTRL_RETRAIN Fld.FAN_CTRL_RETRAIN _ _ _ _ _ hw hkey)
    rw [hheld, if_neg (fun hqr => hhalf (by rw [hqr]))]

/-- The engine and the queue of a half lose the race that leaves, and no other. -/
theorem State.dequeued_fan (s : State) (q h : Nat) : (s.dequeued q).fan h = s.fan h ∨ (s.dequeued q).fan h = (s.fan h).without q := by
  by_cases heq : q / 16 = 0 ↔ h = 0
  · right
    rw [← State.fan_half _ heq, ← State.fan_half s heq]
    exact State.fan_setFan ..
  · exact .inl ((State.fan_setFan_other _ heq _).trans (State.fset_fan ..))

theorem State.stopRetrain_retraining_same (hw : s.regs.wf = true) (r : Nat) : (s.stopRetrain r).retraining r = (s.retraining r).stopped := by
  by_cases hin : s.toRetrain (r / 16) r
  · have hwd := s.dequeued_wf hw r
    have hfan : ((s.dequeued r).idled r).fan (r / 16) = (s.fan (r / 16)).without r := (State.idled_fan ..).trans (State.fan_setFan ..)
    have hctrl : ((s.dequeued r).idled r).fheld Fld.FAN_CTRL_RETRAIN 0 (r / 16) = (s.dequeued r).fheld Fld.FAN_CTRL_RETRAIN 0 (r / 16) :=
      State.fheld_congr (State.idled_raw_other hwd .FAN_CTRL (fanCtrl_ne_spinStat _ _))
    have hstat : ((s.dequeued r).idled r).raw .SPIN_STAT (Reg.key .SPIN_STAT r 0)
        = (s.race r).tr.statStopped (s.raw .SPIN_STAT (Reg.key .SPIN_STAT r 0)) := by
      rw [State.idled_stat hwd]
      rw [State.dequeued_race, State.dequeued_raw_other hw .SPIN_STAT (fanCtrl_ne_spinStat _ _).symm]
    have hasked := (State.dequeued_asked hw r r).trans (if_pos rfl)
    have hcond : ((s.retraining r).running || (s.retraining r).queued) = true := by
      simpa [State.retraining, Fan.runs, Fan.queues, State.toRetrain, or_comm] using hin
    rw [State.stopRetrain_eq hw hin, Retraining.stopped, if_pos hcond, State.setRace_retraining]
    generalize (s.dequeued r).idled r = u at hfan hctrl hstat
    obtain ⟨hqueue, hrunning⟩ := (s.fan (r / 16)).without_out r
    rw [← hfan] at hqueue hrunning
    simp only [State.retraining, hqueue, hrunning, hctrl, hasked, hstat]
  · rw [State.stopRetrain_out hin]
    have hout : (s.retraining r).running = false ∧ (s.retraining r).queued = false := by
      simpa [State.retraining, Fan.runs, Fan.queues, State.toRetrain, and_comm] using hin
    exact (Retraining.stopped_of_idle hout.1 hout.2).symm

theorem State.stopRetrain_retraining_other (hw : s.regs.wf = true) (hq : q ≠ r) : (s.stopRetrain q).retraining r = s.retraining r := by
  by_cases hin : s.toRetrain (q / 16) q
  · have hwd := s.dequeued_wf hw q
    have hkey : Reg.key .SPIN_STAT r 0 ≠ Reg.key .SPIN_STAT q 0 := by
      have hkr := spinStat_key r
      have hkq := spinStat_key q
      omega
    have hctrl : ((s.dequeued q).idled q).fheld Fld.FAN_CTRL_RETRAIN 0 (r / 16) = (s.dequeued q).fheld Fld.FAN_CTRL_RETRAIN 0 (r / 16) :=
      State.fheld_congr (State.idled_raw_other hwd .FAN_CTRL (fanCtrl_ne_spinStat _ _))
    have hstat : ((s.dequeued q).idled q).raw .SPIN_STAT (Reg.key .SPIN_STAT r 0) = s.raw .SPIN_STAT (Reg.key .SPIN_STAT r 0) :=
      (State.idled_raw_other hwd .SPIN_STAT hkey).trans (State.dequeued_raw_other hw .SPIN_STAT (fanCtrl_ne_spinStat _ _).symm)
    have hasked := (State.dequeued_asked hw q r).trans (if_neg hq)
    have hfan : (((s.dequeued q).idled q).fan (r / 16)).queues r = (s.fan (r / 16)).queues r
        ∧ (((s.dequeued q).idled q).fan (r / 16)).runs r = (s.fan (r / 16)).runs r := by
      rw [State.idled_fan]
      obtain hsame | hless := s.dequeued_fan q (r / 16)
      · rw [hsame]
        exact ⟨rfl, rfl⟩
      · rw [hless]
        exact Fan.without_other _ hq
    have htr : (((s.dequeued q).idled q).race r).tr = (s.race r).tr := congrArg Race.tr (((s.dequeued q).idled_race q r).trans (s.dequeued_race q r))
    rw [State.stopRetrain_eq hw hin, State.setRace_retraining_other _ _ hq]
    generalize (s.dequeued q).idled q = u at hfan hctrl hstat htr
    simp only [State.retraining, hfan.1, hfan.2, hctrl, hasked, htr, hstat]
  · rw [State.stopRetrain_out hin]

end Sys2Proof.Machine
end

section
/-!
SUPPORT. What the raising of Brake sources (R384) leaves of a race's retraining: it stands, or it is stopped (`RetrainLeft`).
-/
namespace Sys2Proof.Machine

variable {s t u : State} {r q : Nat}

/-- From s to t race r's retraining stands or is stopped, and the engine of its half begins no other. -/
structure RetrainLeft (r : Nat) (s t : State) : Prop where
  left : s.regs.wf = true → t.regs.wf = true ∧ (∀ q, (t.fan (r / 16)).running = some q → (s.fan (r / 16)).running = some q)
    ∧ (t.retraining r = s.retraining r ∨ t.retraining r = (s.retraining r).stopped)

theorem RetrainLeft.refl (r : Nat) (s : State) : RetrainLeft r s s := ⟨fun hw => ⟨hw, fun _ => id, .inl rfl⟩⟩

theorem RetrainLeft.trans (h : RetrainLeft r s t) (g : RetrainLeft r t u) : RetrainLeft r s u := by
  constructor
  intro hw
  obtain ⟨hwt, hengine, ht⟩ := h.left hw
  obtain ⟨hwu, hengine', hu⟩ := g.left hwt
  refine ⟨hwu, fun q hq => hengine q (hengine' q hq), ?_⟩
  obtain hu | hu := hu <;> obtain ht | ht := ht <;> rw [hu, ht]
  · exact .inl rfl
  · exact .inr rfl
  · exact .inr rfl
  · exact .inr (Retraining.stopped_stopped _)

theorem RetrainLeft.ite {c : Prop} [Decidable c] (ht : RetrainLeft r s t) (hu : RetrainLeft r s u) : RetrainLeft r s (if c then t else u) := by
  split <;> assumption

theorem RetrainLeft.each_mem {α : Type} {f : α → State → State} {l : List α} (hf : ∀ a ∈ l, ∀ v, RetrainLeft r v (f a v)) (s : State) :
    RetrainLeft r s (each l f s) := by
  unfold Machine.each
  induction l generalizing s with
  | nil => exact .refl r s
  | cons a l ih => exact (hf a (List.mem_cons_self ..) s).trans (ih (fun b hb => hf b (List.mem_cons_of_mem a hb)) (f a s))

/-! ### Changes of one part -/

/-- A change of neither the registers nor the engines, nor of race r's training record. -/
theorem RetrainLeft.elsewhere (hregs : t.regs = s.regs) (hld : t.ld = s.ld) (hE : t.fanE = s.fanE) (hW : t.fanW = s.fanW)
    (htr : (t.race r).tr = (s.race r).tr) : RetrainLeft r s t := by
  have hfan : t.fan (r / 16) = s.fan (r / 16) := by rw [State.fan, hE, hW]; rfl
  have hraw (p : Reg) (k : Nat) : t.raw p k = s.raw p k := by rw [State.raw, hregs, hld]; rfl
  exact ⟨fun hw => ⟨hregs ▸ hw, fun q hq => hfan ▸ hq, .inl (State.retraining_congr hfan htr (hraw ..) (hraw ..))⟩⟩

/-- A change of what the registers, the engines and the races are not. -/
theorem RetrainLeft.outside (hregs : t.regs = s.regs) (hld : t.ld = s.ld) (hE : t.fanE = s.fanE) (hW : t.fanW = s.fanW) (hraces : t.races = s.races) :
    RetrainLeft r s t :=
  .elsewhere hregs hld hE hW (by rw [State.race, hraces]; rfl)

/-- Neither a FAN_CTRL nor the SPIN_STAT of a race is at offset k. -/
def offFantail (k : Nat) : Prop := (k % 0x10000 ≠ 0x0008 ∧ k % 0x10000 ≠ 0x0800) ∨ 0xA90000 ≤ k

theorem offFantail.fanCtrl_ne {k half : Nat} (h : offFantail k) (hhalf : half < 2) : Reg.key .FAN_CTRL 0 half ≠ k := by
  have hkey := fanCtrl_key half
  unfold offFantail at h
  omega

theorem offFantail.spinStat_ne {k i : Nat} (h : offFantail k) (hi : i < 32) : Reg.key .SPIN_STAT i 0 ≠ k := by
  have hkey := spinStat_key i
  unfold offFantail at h
  omega

theorem State.setRaw_retrain (hr : r < 32) (s : State) (p : Reg) {k : Nat} (w : Word) (h : offFantail k) : RetrainLeft r s (s.setRaw p k w) := by
  refine ⟨fun hw => ⟨State.setRaw_wf _ _ _ _ hw, fun _ => id, .inl (State.retraining_congr rfl rfl ?_ ?_)⟩⟩
  · exact State.raw_setRaw_other _ _ _ _ _ _ hw (h.fanCtrl_ne (by omega))
  · exact State.raw_setRaw_other _ _ _ _ _ _ hw (h.spinStat_ne hr)

theorem State.fset_retrain (hr : r < 32) (s : State) {f : Field} {i half : Nat} (v : Nat) (hk : offFantail (f.reg.key i half)) :
    RetrainLeft r s (s.fset f v i half) :=
  s.setRaw_retrain hr _ _ hk

/-! ### The answers and the stops of the safe state (R276, R385) -/

theorem OnlyReqs.retrain (h : OnlyReqs s t) : RetrainLeft r s t := by
  obtain ⟨_, rfl⟩ := h
  exact .outside rfl rfl rfl rfl rfl

theorem OnlyAnswers.retrain (h : OnlyAnswers s t) : RetrainLeft r s t := by
  obtain ⟨_, _, _, _, rfl⟩ := h
  exact .outside rfl rfl rfl rfl rfl

theorem State.faultAll_retrain (s : State) : RetrainLeft r s s.faultAll := by
  refine RetrainLeft.each_mem (fun id _ v => ?_) s
  dsimp only
  split
  · exact .refl r v
  · have hanswer : OnlyAnswers v (v.answer id Rc.faulted 0 0 0 []) := v.answer_only ..
    exact ((hanswer.retrain.trans (State.updReq_only ..).retrain).trans (State.reap_only ..).retrain).ite (.refl r v)

/-- A half's engine begins nothing when a retraining stops. -/
theorem State.stopRetrain_running (hw : s.regs.wf = true) (q h a : Nat) (ha : ((s.stopRetrain q).fan h).running = some a) :
    (s.fan h).running = some a := by
  by_cases hin : s.toRetrain (q / 16) q
  · rw [State.stopRetrain_eq hw hin, State.setRace_fan, State.idled_fan] at ha
    obtain hsame | hless := s.dequeued_fan q h
    · rwa [hsame] at ha
    · rw [hless, Fan.without] at ha
      dsimp only at ha
      split at ha
      · cases ha
      · exact ha
  · rwa [State.stopRetrain_out hin] at ha

theorem State.stopRetrain_retrain (s : State) (q : Nat) : RetrainLeft r s (s.stopRetrain q) := by
  refine ⟨fun hw => ⟨((s.stopRetrain_raised q).regs hw).1, State.stopRetrain_running hw q (r / 16), ?_⟩⟩
  by_cases hq : q = r
  · subst hq
    exact .inr (State.stopRetrain_retraining_same hw q)
  · exact .inl (State.stopRetrain_retraining_other hw hq)

theorem State.stopRetrains_retrain (s : State) : RetrainLeft r s s.stopRetrains := RetrainLeft.each_mem (fun q _ v => v.stopRetrain_retrain q) s

/-- What the entry into the safe state does besides its answers and stops. -/
theorem State.quiet_retrain (s : State) (b : Brk) (d : Bool) (o : Out) :
    RetrainLeft r s { s with brk := b, races := s.races.mapv (fun _ x => { x.quiet with inReset := false }), boot := s.boot.inSafe,
                             mil := { s.mil with softAt := none }, out := o, gov := { s.gov with drainNext := d } } := by
  refine .elsewhere rfl rfl rfl rfl ?_
  simp only [State.race, Tbl.get, Tbl.find_mapv]
  cases Tbl.find? _ r <;> rfl

theorem brake_off {k : Nat} (h : 0xE00000 ≤ k) : offFantail k := .inr (by omega)

theorem State.enterSafe_retrain (hr : r < 32) (s : State) (e : RaiseEv) : RetrainLeft r s (s.enterSafe e) := by
  refine (RetrainLeft.refl r s).ite ?_
  have hsafe := s.setRaw_retrain hr .BRK_SAFE (BitVec.ofNat 64 (2 ^ 63 + b2n e.wire * 2 ^ 62 + e.inst % 32 * 2 ^ 57 + e.src % 256 * 2 ^ 49
    + s.clk.turn % 2 ^ 48)) (brake_off (k := Reg.key .BRK_SAFE 0 0) (by decide))
  have hfrozen := hsafe.trans (State.fset_retrain hr _ (f := Fld.BRK_HIST_STAT_FROZEN) 1 (i := 0) (half := 0) (brake_off (by decide)))
  exact ((hfrozen.trans (State.faultAll_retrain _)).trans (State.stopRetrains_retrain _)).trans (State.quiet_retrain ..)

/-! ### The raise (R382 to R384) -/

theorem State.causeOff_retrain (s : State) (src inst : Nat) : RetrainLeft r s (s.causeOff src inst) := by
  obtain ⟨b, hb⟩ := s.causeOff_brk src inst
  exact hb ▸ .outside rfl rfl rfl rfl rfl

theorem State.noteUnder_retrain (s : State) (l : List RaiseEv) : RetrainLeft r s (s.noteUnder l) :=
  RetrainLeft.ite (.outside rfl rfl rfl rfl rfl) (.refl r s)

theorem State.causeOn_retrain (s : State) (e : RaiseEv) : RetrainLeft r s (s.causeOn e) := by
  unfold State.causeOn
  split
  · exact RetrainLeft.ite (.outside rfl rfl rfl rfl rfl) (.refl r s)
  · exact .refl r s

theorem State.pendSet_retrain (hr : r < 32) (s : State) {src : Nat} (inst : Nat) (hsrc : src < 64) : RetrainLeft r s (s.pendSet src inst) := by
  have hnote : RetrainLeft r s { s with brk := { s.brk with just := pairKey src inst :: s.raisedNow, justAt := s.now } } :=
    .outside rfl rfl rfl rfl rfl
  have hkey : ∀ i < 64, 0xE00000 ≤ Reg.key Fld.BRK_SRC_STAT_PEND.reg i 0 := by decide
  exact hnote.trans (State.fset_retrain hr _ (f := Fld.BRK_SRC_STAT_PEND) _ (brake_off (hkey src hsrc)))

theorem State.histAdd_retrain (hr : r < 32) (s : State) (e : RaiseEv) (sev : Nat) : RetrainLeft r s (s.histAdd e sev) := by
  refine RetrainLeft.ite (s.fset_retrain hr (f := Fld.BRK_HIST_STAT_OVF) _ (brake_off (by decide))) ?_
  have hslot : s.brk.seq % 16 < 16 := Nat.mod_lt _ (by decide)
  have hlo : ∀ i < 16, 0xE00000 ≤ Reg.key .BRK_HIST_LO i 0 := by decide
  have hhi : ∀ i < 16, 0xE00000 ≤ Reg.key .BRK_HIST_HI i 0 := by decide
  have hwords := (s.setRaw_retrain hr .BRK_HIST_LO (histLo s.clk.turn s.brk.seq) (brake_off (hlo _ hslot))).trans
    (State.setRaw_retrain hr _ .BRK_HIST_HI (histHi e sev) (brake_off (hhi _ hslot)))
  have hhead := hwords.trans (State.fset_retrain hr _ (f := Fld.BRK_HIST_STAT_HEAD) (s.brk.seq % 16) (i := 0) (half := 0) (brake_off (by decide)))
  exact hhead.trans (.outside rfl rfl rfl rfl rfl)

theorem State.wakeEvent_retrain (hr : r < 32) (s : State) (c : Nat) : RetrainLeft r s (s.wakeEvent c) := by
  have hlast := s.fset_retrain hr (f := Fld.GOV_WAKE_LAST) c (i := 0) (half := 0) (.inr (by decide))
  have hwoken (g : Gov) : RetrainLeft r s { s.fset Fld.GOV_WAKE_LAST c with gov := g } := hlast.trans (.outside rfl rfl rfl rfl rfl)
  unfold State.wakeEvent
  refine (RetrainLeft.refl r s).ite ?_
  split
  · exact (hwoken _).ite (.refl r s)
  · exact (hwoken _).ite (.refl r s)

theorem State.brakeActs_retrain (hr : r < 32) (s : State) (e : RaiseEv) (sev : Nat) (isolate : Bool) : RetrainLeft r s (s.brakeActs e sev isolate) := by
  unfold State.brakeActs
  extract_lets int ibi iso brk out v
  have hv : RetrainLeft r s v := .outside rfl rfl rfl rfl rfl
  exact (RetrainLeft.refl r s).ite ((hv.trans (v.wakeEvent_retrain hr 0x9)).ite hv)

theorem State.raiseOne_retrain (hr : r < 32) (s : State) (e : RaiseEv) (isolate : Bool) (hsrc : e.src < 64) : RetrainLeft r s (s.raiseOne e isolate) := by
  unfold State.raiseOne
  extract_lets e' sev v
  have hv : RetrainLeft r s v := ((s.causeOn_retrain e').trans (State.pendSet_retrain hr _ _ hsrc)).trans (State.histAdd_retrain hr ..)
  exact hv.ite (hv.trans (v.brakeActs_retrain hr ..))

theorem State.raiseAll_retrain (hr : r < 32) (s : State) (l : List RaiseEv) : RetrainLeft r s (s.raiseAll l) := by
  unfold State.raiseAll
  extract_lets evs u four v
  have hv : RetrainLeft r s v := (s.noteUnder_retrain l).trans (RetrainLeft.each_mem (fun e he w => w.raiseOne_retrain hr e _
    (s.raiseSeen_lt e (List.of_mem_filter (mem_foldr_insRaise _ _ he)))) _)
  clear_value v four
  split
  · exact hv
  · exact hv.trans (v.enterSafe_retrain hr _)

theorem State.raise_retrain (hr : r < 32) (s : State) (src inst detail : Nat) : RetrainLeft r s (s.raise src inst detail) := s.raiseAll_retrain hr _

end Sys2Proof.Machine
end

section
/-!
SUPPORT. A race out of the queue and the engine of its half has no marks of a retraining (`Retraining.Tidy`), whatever the repairs of others ask for
(R295, R300).
-/
namespace Sys2Proof.Machine

variable {s t u : State} {r q : Nat}

/-- Out of the queue and the engine, a race has no request and no marks of a retraining. -/
def Retraining.Tidy (v : Retraining) : Prop :=
  v.queued = true ∨ v.running = true ∨ (v.asked = false ∧ v.tr.retrain = false ∧ v.tr.hold = false ∧ v.tr.saved = {})

theorem Retraining.Tidy.of_idle {v : Retraining} (h : v.Tidy) (hqueued : v.queued = false) (hrunning : v.running = false) :
    v.asked = false ∧ v.tr.retrain = false ∧ v.tr.hold = false ∧ v.tr.saved = {} := by
  obtain hin | hin | hclear := h
  · rw [hqueued] at hin
    cases hin
  · rw [hrunning] at hin
    cases hin
  · exact hclear

theorem Retraining.Tidy.stopped {v : Retraining} (h : v.Tidy) : v.stopped.Tidy := by
  unfold Retraining.stopped
  split
  · exact .inr (.inr ⟨rfl, rfl, rfl, rfl⟩)
  · exact h

/-- From s to t race r's retraining stays tidy, and the engine of its half begins no other. -/
structure RetrainTidy (r : Nat) (s t : State) : Prop where
  kept : s.regs.wf = true → t.regs.wf = true ∧ (∀ q, (t.fan (r / 16)).running = some q → (s.fan (r / 16)).running = some q)
    ∧ ((s.retraining r).Tidy → (t.retraining r).Tidy)

theorem RetrainLeft.tidy (h : RetrainLeft r s t) : RetrainTidy r s t := by
  refine ⟨fun hw => ?_⟩
  obtain ⟨hwt, hengine, hsame | hstopped⟩ := h.left hw
  · exact ⟨hwt, hengine, fun htidy => hsame ▸ htidy⟩
  · exact ⟨hwt, hengine, fun htidy => hstopped ▸ htidy.stopped⟩

theorem RetrainTidy.refl (r : Nat) (s : State) : RetrainTidy r s s := (RetrainLeft.refl r s).tidy

theorem RetrainTidy.trans (h : RetrainTidy r s t) (g : RetrainTidy r t u) : RetrainTidy r s u := by
  refine ⟨fun hw => ?_⟩
  obtain ⟨hwt, hengine, ht⟩ := h.kept hw
  obtain ⟨hwu, hengine', hu⟩ := g.kept hwt
  exact ⟨hwu, fun q hq => hengine q (hengine' q hq), fun htidy => hu (ht htidy)⟩

theorem RetrainTidy.ite {c : Prop} [Decidable c] (ht : RetrainTidy r s t) (hu : RetrainTidy r s u) : RetrainTidy r s (if c then t else u) := by
  split <;> assumption

theorem RetrainTidy.each {α : Type} {f : α → State → State} (hf : ∀ a v, RetrainTidy r v (f a v)) (l : List α) (s : State) :
    RetrainTidy r s (each l f s) := by
  unfold Machine.each
  induction l generalizing s with
  | nil => exact .refl r s
  | cons a l ih => exact (hf a s).trans (ih (f a s))

/-! ### A race that asks (R274) -/

/-- A half's queue with race q at its end. -/
def Fan.joined (x : Fan) (q : Nat) : Fan := { x with queue := x.queue ++ [q] }

theorem Fan.joined_other (x : Fan) (hq : q ≠ r) : (x.joined q).queues r = x.queues r := by simp [Fan.queues, Fan.joined, hq.symm]

theorem Fan.joined_same (x : Fan) (r : Nat) : (x.joined r).queues r = true := by simp [Fan.queues, Fan.joined]

/-- s with race q in the queue of its half, and its FAN_CTRL bit set. -/
def State.enqueued (s : State) (q : Nat) : State :=
  (s.fset Fld.FAN_CTRL_RETRAIN (s.fheld Fld.FAN_CTRL_RETRAIN 0 (q / 16) ||| 2 ^ (q % 16)) 0 (q / 16)).setFan (q / 16) ((s.fan (q / 16)).joined q)

/-- A race that asks joins the queue, unless it is to be retrained already. -/
theorem State.askRetrain_cases (s : State) (q : Nat) : s.askRetrain q = s ∨ s.askRetrain q = s.enqueued q := by
  unfold State.askRetrain
  dsimp only
  split
  · exact .inl rfl
  · exact .inr rfl

theorem State.enqueued_wf (hw : s.regs.wf = true) (q : Nat) : (s.enqueued q).regs.wf = true := s.fset_wf _ _ _ _ hw

theorem State.enqueued_race (s : State) (q i : Nat) : (s.enqueued q).race i = s.race i := by
  rw [State.enqueued, State.setFan_race, State.fset_race]

theorem State.enqueued_raw_other (hw : s.regs.wf = true) (p : Reg) {k : Nat} (hk : k ≠ Reg.key .FAN_CTRL 0 (q / 16)) :
    (s.enqueued q).raw p k = s.raw p k :=
  (State.setFan_raw ..).trans (State.raw_fset_other s Fld.FAN_CTRL_RETRAIN _ _ _ _ _ hw hk)

/-- Of the bits of a half's FAN_CTRL, the one of the race that asks is set. -/
theorem State.enqueued_asked (hw : s.regs.wf = true) (q r : Nat) :
    bit ((s.enqueued q).fheld Fld.FAN_CTRL_RETRAIN 0 (r / 16)) (r % 16) = (bit (s.fheld Fld.FAN_CTRL_RETRAIN 0 (r / 16)) (r % 16) || decide (q = r)) := by
  have hr : r % 16 < 16 := Nat.mod_lt _ (by decide)
  by_cases hhalf : r / 16 = q / 16
  · have hheld : (s.enqueued q).fheld Fld.FAN_CTRL_RETRAIN 0 (q / 16) = (s.fheld Fld.FAN_CTRL_RETRAIN 0 (q / 16) ||| 2 ^ (q % 16)) % 2 ^ 16 :=
      (State.setFan_fheld ..).trans (s.fheld_fset Fld.FAN_CTRL_RETRAIN _ 0 _ hw (by decide))
    have hbit : q % 16 = r % 16 ↔ q = r := by omega
    rw [hhalf, hheld, bit, Nat.testBit_mod_two_pow, Nat.testBit_or, Nat.testBit_two_pow, decide_eq_true hr, Bool.true_and, decide_eq_decide.mpr hbit]
    rfl
  · have hkey : Reg.key .FAN_CTRL 0 (r / 16) ≠ Reg.key .FAN_CTRL 0 (q / 16) := by
      have hkr := fanCtrl_key (r / 16)
      have hkq := fanCtrl_key (q / 16)
      omega
    have hheld : (s.enqueued q).fheld Fld.FAN_CTRL_RETRAIN 0 (r / 16) = s.fheld Fld.FAN_CTRL_RETRAIN 0 (r / 16) :=
      (State.setFan_fheld ..).trans (s.fheld_fset_reg Fld.FAN_CTRL_RETRAIN Fld.FAN_CTRL_RETRAIN _ _ _ _ _ hw hkey)
    have hne : q ≠ r := fun hqr => hhalf (by rw [hqr])
    rw [hheld, decide_eq_false hne, Bool.or_false]

/-- The queue of a half takes in the race that asks, and no other. -/
theorem State.enqueued_fan (s : State) (q h : Nat) : (s.enqueued q).fan h = s.fan h ∨ (s.enqueued q).fan h = (s.fan h).joined q := by
  by_cases heq : q / 16 = 0 ↔ h = 0
  · right
    rw [← State.fan_half _ heq, ← State.fan_half s heq]
    exact State.fan_setFan ..
  · exact .inl ((State.fan_setFan_other _ heq _).trans (State.fset_fan ..))

theorem State.enqueued_running (s : State) (q h : Nat) : ((s.enqueued q).fan h).running = (s.fan h).running := by
  obtain hsame | hjoined := s.enqueued_fan q h
  · rw [hsame]
  · rw [hjoined]
    rfl

theorem State.enqueued_retraining_other (hw : s.regs.wf = true) (hq : q ≠ r) : (s.enqueued q).retraining r = s.retraining r := by
  have hasked := State.enqueued_asked hw q r
  rw [decide_eq_false hq, Bool.or_false] at hasked
  have hqueues : ((s.enqueued q).fan (r / 16)).queues r = (s.fan (r / 16)).queues r := by
    obtain hsame | hjoined := s.enqueued_fan q (r / 16)
    · rw [hsame]
    · rw [hjoined, Fan.joined_other _ hq]
  simp only [State.retraining, hqueues, Fan.runs, State.enqueued_running, hasked, State.enqueued_race,
    State.enqueued_raw_other hw .SPIN_STAT (fanCtrl_ne_spinStat _ _).symm]

theorem State.enqueued_queued (s : State) (r : Nat) : ((s.enqueued r).retraining r).queued = true := by
  have hfan : (s.enqueued r).fan (r / 16) = (s.fan (r / 16)).joined r := State.fan_setFan ..
  exact (congrArg (Fan.queues · r) hfan).trans (Fan.joined_same _ r)

theorem State.enqueued_tidy (s : State) (q : Nat) : RetrainTidy r s (s.enqueued q) := by
  refine ⟨fun hw => ⟨State.enqueued_wf hw q, fun a ha => (s.enqueued_running q (r / 16)) ▸ ha, fun htidy => ?_⟩⟩
  by_cases hq : q = r
  · subst hq
    exact .inl (s.enqueued_queued q)
  · rwa [State.enqueued_retraining_other hw hq]

theorem State.askRetrain_tidy (s : State) (q : Nat) : RetrainTidy r s (s.askRetrain q) := by
  obtain hsame | hnew := s.askRetrain_cases q
  · rw [hsame]
    exact .refl r s
  · rw [hnew]
    exact s.enqueued_tidy q

/-! ### Counts and repairs (R294, R295, R300) -/

theorem State.tallyStore_retrain (s : State) (half e n : Nat) : RetrainLeft r s (s.tallyStore half e n) := .outside rfl rfl rfl rfl rfl

theorem State.setQrn_retrain (s : State) (half : Nat) (x : Qrn) : RetrainLeft r s (s.setQrn half x) := .outside rfl rfl rfl rfl rfl

theorem State.storeCell_retrain (s : State) (a : Nat) (w : Codeword) : RetrainLeft r s (s.storeCell a w) := .outside rfl rfl rfl rfl rfl

theorem qrnCnt_offFantail (i : Nat) : offFantail (Reg.key .QRN_CNT i 0) := by
  have hkey : Reg.key .QRN_CNT i 0 = 0x800900 + i * 0x10000 + 0 := rfl
  unfold offFantail
  omega

theorem qrnPin_offFantail (i : Nat) : offFantail (Reg.key .QRN_PIN i 0) := by
  have hkey : Reg.key .QRN_PIN i 0 = 0x800908 + i * 0x10000 + 0 := rfl
  unfold offFantail
  omega

theorem qrnRowLog_offFantail (half : Nat) : offFantail (Reg.key .QRN_ROW_LOG 0 half) := by
  have hkey : Reg.key .QRN_ROW_LOG 0 half = 0xB00108 + 0 + half * 0x80000 := rfl
  unfold offFantail
  omega

theorem drsSoft_offFantail (i : Nat) : offFantail (Reg.key .DRS_SOFT i 0) := by
  have hkey : Reg.key .DRS_SOFT i 0 = 0xB03000 + i * 0x8 + 0 := rfl
  unfold offFantail
  omega

section
variable (hr : r < 32)
include hr

theorem State.countUE_retrain (s : State) (race : Nat) : RetrainLeft r s (s.countUE race) :=
  (s.fset_retrain hr (f := Fld.QRN_CNT_UE) _ (qrnCnt_offFantail race)).trans (State.tallyStore_retrain ..)

theorem State.countCE_retrain (s : State) (race : Nat) : RetrainLeft r s (s.countCE race) :=
  (s.fset_retrain hr (f := Fld.QRN_CNT_CE) _ (qrnCnt_offFantail race)).trans (State.tallyStore_retrain ..)

theorem State.countPsn_retrain (s : State) (race : Nat) : RetrainLeft r s (s.countPsn race) :=
  s.fset_retrain hr (f := Fld.QRN_CNT_PSN) _ (qrnCnt_offFantail race)

theorem State.countPins_retrain (s : State) (race pr : Nat) (syms : List Nat) : RetrainLeft r s (s.countPins race pr syms) := by
  refine RetrainLeft.each_mem (fun pin _ v => ?_) s
  dsimp only
  refine (RetrainLeft.refl r v).ite (RetrainLeft.ite ?_ (v.setQrn_retrain _ _))
  exact (((v.setQrn_retrain _ _).trans (State.setQrn_retrain ..)).trans (State.setRaw_retrain hr _ _ _ (qrnPin_offFantail race))).trans
    (State.raise_retrain hr ..)

theorem State.queueRepair_tidy {p : Place} (h : s.queueRepair p = some t) : RetrainTidy r s t := by
  unfold State.queueRepair at h
  split at h
  · cases h
  · split at h
    · cases h
    · cases h
      exact (s.setRaw_retrain hr _ _ (drsSoft_offFantail _)).tidy.trans (State.askRetrain_tidy ..)

theorem State.queueRepair_getD_tidy (s : State) (p : Place) : RetrainTidy r s ((s.queueRepair p).getD s) := by
  cases hrepair : s.queueRepair p with
  | none => exact .refl r s
  | some t => exact State.queueRepair_tidy hr hrepair

theorem State.trackRow_tidy (s : State) (a : Nat) (ue : Bool) : RetrainTidy r s (s.trackRow a ue) := by
  unfold State.trackRow
  extract_lets p half q base thr old cnt0 cnt e rest low kept u w logged raised
  have hu : RetrainTidy r s u := (s.setQrn_retrain _ _).tidy
  have hraised : RetrainTidy r s raised :=
    (hu.trans (u.setRaw_retrain hr _ _ (qrnRowLog_offFantail half)).tidy).trans (logged.raise_retrain hr ..).tidy
  exact ((hraised.trans (raised.queueRepair_getD_tidy hr p)).ite hraised).ite hu

theorem State.noteCE_tidy (s : State) (a : Nat) (syms : List Nat) : RetrainTidy r s (s.noteCE a syms) :=
  ((s.countCE_retrain hr _).trans (State.countPins_retrain hr ..)).tidy.trans (State.trackRow_tidy hr ..)

/-- The copy of a cell of a row under repair. -/
theorem State.copyRow_tidy (s : State) (w : Nat) (errs : List (Nat × List (Nat × Byte))) : RetrainTidy r s (s.copyRow w errs) := by
  unfold State.copyRow
  refine RetrainTidy.each (fun c v => ?_) _ s
  dsimp only
  refine (RetrainTidy.refl r v).ite ?_
  split
  · exact ((v.countUE_retrain hr _).tidy.trans (State.trackRow_tidy hr ..)).trans (State.storeCell_retrain ..).tidy
  · exact (v.noteCE_tidy hr ..).trans (State.storeCell_retrain ..).tidy
  · have hcount := (v.countPsn_retrain hr (entRace w)).tidy
    exact hcount.ite (hcount.trans ((State.noteCE_tidy hr ..).trans (State.storeCell_retrain ..).tidy))
  · exact .refl r v

theorem State.applySoft_tidy (s : State) (race : Nat) (missed : List Nat) (errs : List (Nat × List (Nat × Byte))) :
    RetrainTidy r s (s.applySoft race missed errs) := by
  unfold State.applySoft
  refine RetrainTidy.each (fun e v => ?_) _ s
  have hends (u : State) (st : Nat) := (u.setRaw_retrain hr .DRS_SOFT (BitVec.ofNat 64 (setBits e.2 16 2 st)) (drsSoft_offFantail e.1)).tidy
  exact ((v.countUE_retrain hr _).tidy.trans (hends _ 3)).ite ((v.copyRow_tidy hr ..).trans (hends _ 2))

end

end Sys2Proof.Machine
end

section
/-!
SUPPORT. The settings and the lane map of a race (R261, R263, R279): where the registers of its settings stand, and what is left when they are written
and when lanes are recorded.
-/
namespace Sys2Proof.Machine

variable {s t u : State} {r : Nat}

/-! ### The registers of the settings -/

/-- The offsets from SPIN_SID[r] to the end of SPIN_DLY[r]. -/
def settingsAt (r k : Nat) : Prop := 0x800810 + r * 0x10000 ≤ k ∧ k < 0x801400 + r * 0x10000

theorem settingsAt.offFantail {k : Nat} (h : settingsAt r k) : offFantail k := by
  unfold settingsAt at h
  unfold Machine.offFantail
  omega

theorem sidKey_settings {p : Nat} (hp : p < 2) : settingsAt r (sidKey r p) := by
  unfold settingsAt sidKey
  omega

theorem dlyKey_settings {p sd d w : Nat} (hp : p < 2) (hsd : sd < 4) (hd : d < 2) (hw : w < 6) : settingsAt r (dlyKey r p sd d w) := by
  unfold settingsAt dlyKey
  omega

theorem State.nsid_le (s : State) : s.nsid ≤ 4 := Nat.mod_lt s.ld.dies (by decide)

/-- A trained setting is a SPIN_SID of the race or a SPIN_DLY. -/
theorem mem_trainedKeys {e : Reg × Nat × Nat} (he : e ∈ trainedKeys s.nsid r) :
    (∃ p, p < 2 ∧ e.1 = .SPIN_SID ∧ e.2.1 = sidKey r p) ∨ (∃ p sd d w, p < 2 ∧ sd < 4 ∧ d < 2 ∧ w < 6 ∧ e.2.1 = dlyKey r p sd d w) := by
  have hn := s.nsid_le
  obtain hsid | hdly := List.mem_append.mp he
  · obtain ⟨p, hp, rfl⟩ := List.mem_map.mp hsid
    exact .inl ⟨p, List.mem_range.mp hp, rfl, rfl⟩
  · obtain ⟨p, hp, hdly⟩ := List.mem_flatMap.mp hdly
    obtain ⟨sd, hsd, hdly⟩ := List.mem_flatMap.mp hdly
    obtain ⟨d, hd, hdly⟩ := List.mem_flatMap.mp hdly
    obtain ⟨w, hw, rfl⟩ := List.mem_map.mp hdly
    have hsd4 := List.mem_range.mp hsd
    exact .inr ⟨p, sd, d, w, List.mem_range.mp hp, by omega, List.mem_range.mp hd, List.mem_range.mp (List.mem_filter.mp hw).1, rfl⟩

theorem trainedKeys_settings {e : Reg × Nat × Nat} (he : e ∈ trainedKeys s.nsid r) : settingsAt r e.2.1 := by
  obtain ⟨p, hp, -, hkey⟩ | ⟨p, sd, d, w, hp, hsd, hd, hw, hkey⟩ := mem_trainedKeys he
  · exact hkey ▸ sidKey_settings hp
  · exact hkey ▸ dlyKey_settings hp hsd hd hw

/-- t is s with settings of race r written. -/
structure SettingsWritten (r : Nat) (s t : State) : Prop where
  rest : ({ t with regs := s.regs, freeCtr := s.freeCtr } : State) = s
  regs : s.regs.wf = true → t.regs.wf = true ∧ ∀ p k, ¬ settingsAt r k → t.raw p k = s.raw p k

theorem SettingsWritten.refl (r : Nat) (s : State) : SettingsWritten r s s := ⟨rfl, fun hw => ⟨hw, fun _ _ _ => rfl⟩⟩

theorem SettingsWritten.trans (h : SettingsWritten r s t) (g : SettingsWritten r t u) : SettingsWritten r s u := by
  refine ⟨(congrArg (fun x : State => { x with regs := s.regs, freeCtr := s.freeCtr }) g.rest).trans h.rest, fun hw => ?_⟩
  obtain ⟨hwt, ht⟩ := h.regs hw
  obtain ⟨hwu, hu⟩ := g.regs hwt
  exact ⟨hwu, fun p k hk => (hu p k hk).trans (ht p k hk)⟩

theorem State.setRaw_written (s : State) (p : Reg) {k : Nat} (w : Word) (hk : settingsAt r k) : SettingsWritten r s (s.setRaw p k w) :=
  ⟨rfl, fun hw => ⟨State.setRaw_wf _ _ _ _ hw, fun _ _ hj => State.raw_setRaw_other _ _ _ _ _ _ hw fun h => hj (h ▸ hk)⟩⟩

/-- A free value is taken. -/
theorem State.freeCtr_written (s : State) (n : Nat) : SettingsWritten r s { s with freeCtr := n } := ⟨rfl, fun hw => ⟨hw, fun _ _ _ => rfl⟩⟩

theorem each_written {α : Type} {f : α → State → State} {l : List α} (hf : ∀ a ∈ l, ∀ v, SettingsWritten r v (f a v)) (s : State) :
    SettingsWritten r s (each l f s) := by
  unfold Machine.each
  induction l generalizing s with
  | nil => exact .refl r s
  | cons a l ih => exact (hf a (List.mem_cons_self ..) s).trans (ih (fun b hb => hf b (List.mem_cons_of_mem a hb)) (f a s))

theorem State.trainSettings_written (s : State) (r : Nat) : SettingsWritten r s (s.trainSettings r) :=
  each_written (fun _ he v => (v.setRaw_written _ _ (trainedKeys_settings he)).trans (State.freeCtr_written ..)) s

theorem SettingsWritten.retrain (h : SettingsWritten r s t) (hr : r < 32) : RetrainLeft r s t := by
  have hfan : t.fan (r / 16) = s.fan (r / 16) := (congrArg (fun x : State => x.fan (r / 16)) h.rest :)
  have htr : (t.race r).tr = (s.race r).tr := (congrArg (fun x : State => (x.race r).tr) h.rest :)
  refine ⟨fun hw => ?_⟩
  obtain ⟨hwt, hraw⟩ := h.regs hw
  refine ⟨hwt, fun q hq => hfan ▸ hq, .inl (State.retraining_congr hfan htr (hraw _ _ fun hk => ?_) (hraw _ _ fun hk => ?_))⟩
  · exact hk.offFantail.fanCtrl_ne (by omega) rfl
  · exact hk.offFantail.spinStat_ne hr rfl

/-! ### What the service of the other races sees -/

theorem State.trackState_congr (hcfg : t.fheld Fld.FAN_CFG_TRACK_EN 0 (raceHalf r) = s.fheld Fld.FAN_CFG_TRACK_EN 0 (raceHalf r))
    (hisol : t.fheld Fld.DRS_ISOL_ISOL = s.fheld Fld.DRS_ISOL_ISOL) (hld : t.ld = s.ld) (hpd : (t.race r).pd = (s.race r).pd)
    (hiso : (t.race r).isoAt = (s.race r).isoAt) (hsref : (t.race r).sref = (s.race r).sref) : t.trackState r = s.trackState r := by
  have hisolated : t.isolated r = s.isolated r := by rw [State.isolated, State.isolated, hisol, hiso]
  have hnsid : t.nsid = s.nsid := congrArg nsidOf hld
  simp only [State.trackState, hcfg, hisolated, hpd, hsref, hnsid]

/-- The changes from s to t leave the clock, DRAM, the buffers, the rows of the other races, and whether race r is to be tracked. -/
structure ServiceStands (r : Nat) (s t : State) : Prop where
  others : OtherRaces r s t
  clk : t.clk = s.clk
  dram : t.dram = s.dram
  regs : s.regs.wf = true → t.regs.wf = true ∧ t.trackState r = s.trackState r

theorem ServiceStands.trans (h : ServiceStands r s t) (g : ServiceStands r t u) : ServiceStands r s u := by
  refine ⟨h.others.trans g.others, g.clk.trans h.clk, g.dram.trans h.dram, fun hw => ?_⟩
  obtain ⟨hwt, ht⟩ := h.regs hw
  obtain ⟨hwu, hu⟩ := g.regs hwt
  exact ⟨hwu, hu.trans ht⟩

theorem ServiceStands.ite {c : Prop} [Decidable c] (ht : ServiceStands r s t) (hu : ServiceStands r s u) : ServiceStands r s (if c then t else u) := by
  split <;> assumption

theorem fanCfg_key (half : Nat) : Reg.key .FAN_CFG 0 half = 0xA00000 + 0 + half * 0x80000 := rfl

theorem Raised.fanCfg (h : Raised s t) (hw : s.regs.wf = true) {half : Nat} (hhalf : half < 2) :
    t.fheld Fld.FAN_CFG_TRACK_EN 0 half = s.fheld Fld.FAN_CFG_TRACK_EN 0 half := by
  have hkey := fanCfg_key half
  refine State.fheld_congr ((h.regs hw).2 .FAN_CFG (Reg.key .FAN_CFG 0 half) (fun i => ?_) (fun i => ?_) ?_ ?_)
  · have hctrl := fanCtrl_key i
    omega
  · have hstat := spinStat_key i
    omega
  · have hwake : Reg.key .GOV_WAKE 0 0 = 0xD00030 := rfl
    omega
  · omega

theorem Raised.service (h : Raised s t) (hr : r < 32) : ServiceStands r s t := by
  refine ⟨⟨fun i _ => ⟨(congrArg Race.banks (h.races i) :), (congrArg Race.sref (h.races i) :)⟩, (congrArg State.pond h.rest :),
    (congrArg State.flume h.rest :)⟩, h.clk, (congrArg State.dram h.rest :), fun hw => ⟨(h.regs hw).1, ?_⟩⟩
  have hhalf : raceHalf r < 2 := Nat.div_lt_of_lt_mul hr
  exact State.trackState_congr (h.fanCfg hw hhalf) (h.isol hw) (congrArg State.ld h.rest :) (congrArg Race.pd (h.races r) :)
    (congrArg Race.isoAt (h.races r) :) (congrArg Race.sref (h.races r) :)

/-- A change of registers apart from FAN_CFG and DRS_ISOL. -/
theorem ServiceStands.ofRegs (hrest : ({ t with regs := s.regs, freeCtr := s.freeCtr } : State) = s)
    (hregs : s.regs.wf = true → t.regs.wf = true ∧ t.raw .FAN_CFG (Reg.key .FAN_CFG 0 (raceHalf r)) = s.raw .FAN_CFG (Reg.key .FAN_CFG 0 (raceHalf r))
      ∧ t.raw .DRS_ISOL (Reg.key .DRS_ISOL 0 0) = s.raw .DRS_ISOL (Reg.key .DRS_ISOL 0 0)) : ServiceStands r s t := by
  have hrace (i : Nat) : t.race i = s.race i := (congrArg (fun x : State => x.race i) hrest :)
  refine ⟨⟨fun i _ => ⟨congrArg Race.banks (hrace i), congrArg Race.sref (hrace i)⟩, (congrArg State.pond hrest :), (congrArg State.flume hrest :)⟩,
    (congrArg State.clk hrest :), (congrArg State.dram hrest :), fun hw => ?_⟩
  obtain ⟨hwt, hcfg, hisol⟩ := hregs hw
  exact ⟨hwt, State.trackState_congr (State.fheld_congr hcfg) (State.fheld_congr hisol) (congrArg State.ld hrest :) (congrArg Race.pd (hrace r))
    (congrArg Race.isoAt (hrace r)) (congrArg Race.sref (hrace r))⟩

theorem SettingsWritten.service (h : SettingsWritten r s t) : ServiceStands r s t := by
  refine .ofRegs h.rest fun hw => ?_
  obtain ⟨hwt, hraw⟩ := h.regs hw
  refine ⟨hwt, hraw _ _ fun hk => ?_, hraw _ _ fun hk => ?_⟩
  · have hcfg := fanCfg_key (raceHalf r)
    unfold settingsAt at hk
    omega
  · have hisol : Reg.key .DRS_ISOL 0 0 = 0xB02010 := rfl
    unfold settingsAt at hk
    omega

/-! ### Lanes recorded (R261) -/

theorem spinRepair_key (i : Nat) : Reg.key .SPIN_REPAIR i 0 = 0x800808 + i * 0x10000 + 0 := rfl

theorem spinRepair_off (i : Nat) : offFantail (Reg.key .SPIN_REPAIR i 0) := by
  have hkey := spinRepair_key i
  unfold offFantail
  omega

/-- SPIN_REPAIR of race r holds a lane map. -/
def State.mapped (s : State) (r : Nat) (o : LaneOut) : State := s.setRaw .SPIN_REPAIR (Reg.key .SPIN_REPAIR r 0) (BitVec.ofNat 64 o.word)

theorem State.mapped_service (s : State) (r : Nat) (o : LaneOut) : ServiceStands r s (s.mapped r o) := by
  have hrepair := spinRepair_key r
  refine .ofRegs rfl fun hw => ⟨State.setRaw_wf _ _ _ _ hw, State.raw_setRaw_other _ _ _ _ _ _ hw ?_, State.raw_setRaw_other _ _ _ _ _ _ hw ?_⟩
  · have hcfg := fanCfg_key (raceHalf r)
    omega
  · have hisol : Reg.key .DRS_ISOL 0 0 = 0xB02010 := rfl
    omega

/-- A training record with its dead lanes found. -/
def Train.noted (x : Train) (dead : List Nat) : Train := { x with dead := dead, deadSid := x.deadSid.keep (fun d _ => dead.contains d) }

/-- SPIN_STAT of race r shows the groups with dead lanes. -/
def State.lanesShown (s : State) (r : Nat) (dead : List Nat) : State :=
  (s.fset Fld.SPIN_STAT_UNREP_A (unrepOf dead 0) r).fset Fld.SPIN_STAT_UNREP_B (unrepOf dead 1) r

/-- The lanes recorded, before the sources of the Brake see them. -/
def State.lanesNoted (s : State) (r : Nat) (o : LaneOut) : State :=
  let u := (s.mapped r o).lanesShown r o.dead
  u.setRace r { u.race r with tr := (u.race r).tr.noted o.dead }

theorem State.recordLanes_eq (s : State) (r : Nat) (o : LaneOut) :
    s.recordLanes r o = match o.dead with
      | [] => (s.lanesNoted r o).causeOff Src.SPIN_LANE r
      | d :: _ => (s.lanesNoted r o).raise Src.SPIN_LANE r (128 * ((s.lanesNoted r o).race r).tr.deadSid.get 0 d + d) := rfl

/-- What follows the lanes noted is what the Brake does. -/
theorem State.lanesNoted_raised (s : State) (r : Nat) (o : LaneOut) : Raised (s.lanesNoted r o) (s.recordLanes r o) := by
  rw [State.recordLanes_eq]
  split
  · exact State.causeOff_raised ..
  · exact State.raise_raised ..

theorem State.recordLanes_raised (s : State) (r : Nat) (o : LaneOut) : Raised (s.mapped r o) (s.recordLanes r o) := by
  have hstat (v : State) (f : Field) (w : Nat) (hf : f.reg = .SPIN_STAT) : Raised v (v.fset f w r) := .ofField v f w r 0 (.inr (.inl ⟨r, by rw [hf]⟩))
  have hunrep := (hstat (s.mapped r o) Fld.SPIN_STAT_UNREP_A (unrepOf o.dead 0) rfl).trans (hstat _ Fld.SPIN_STAT_UNREP_B (unrepOf o.dead 1) rfl)
  exact (hunrep.trans (Raised.tr _ r _ _ rfl)).trans (s.lanesNoted_raised r o)

theorem State.recordLanes_service (hr : r < 32) (s : State) (o : LaneOut) : ServiceStands r s (s.recordLanes r o) :=
  (s.mapped_service r o).trans ((s.recordLanes_raised r o).service hr)

/-- What the Brake does leaves the registers of the races but SPIN_STAT. -/
theorem Raised.raw_of_off (h : Raised s t) (hw : s.regs.wf = true) {k : Nat} (hoff : offFantail k) (hk : k < 0xA00000) (p : Reg) :
    t.raw p k = s.raw p k := by
  unfold offFantail at hoff
  refine (h.regs hw).2 p k (fun i => ?_) (fun i => ?_) ?_ ?_
  · have hctrl := fanCtrl_key i
    omega
  · have hstat := spinStat_key i
    omega
  · have hwake : Reg.key .GOV_WAKE 0 0 = 0xD00030 := rfl
    omega
  · omega

theorem spinRepair_lt {i : Nat} (hi : i < 32) : Reg.key .SPIN_REPAIR i 0 < 0xA00000 := by
  have hkey := spinRepair_key i
  omega

theorem settingsAt.lt {k : Nat} (h : settingsAt r k) (hr : r < 32) : k < 0xA00000 := by
  unfold settingsAt at h
  omega

/-- A lane map is left by what the Brake does. -/
theorem Raised.spinRepair (h : Raised s t) (hw : s.regs.wf = true) (hr : r < 32) :
    t.raw .SPIN_REPAIR (Reg.key .SPIN_REPAIR r 0) = s.raw .SPIN_REPAIR (Reg.key .SPIN_REPAIR r 0) :=
  h.raw_of_off hw (spinRepair_off r) (spinRepair_lt hr) .SPIN_REPAIR

theorem State.recordLanes_map (hw : s.regs.wf = true) (hr : r < 32) (o : LaneOut) :
    (s.recordLanes r o).raw .SPIN_REPAIR (Reg.key .SPIN_REPAIR r 0) = BitVec.ofNat 64 o.word :=
  ((s.recordLanes_raised r o).spinRepair (State.setRaw_wf _ _ _ _ hw) hr).trans (State.raw_setRaw _ _ _ _ hw)

theorem State.recordLanes_left (hr : r < 32) (s : State) (o : LaneOut) : RetrainLeft r (s.lanesNoted r o) (s.recordLanes r o) := by
  rw [State.recordLanes_eq]
  split
  · exact State.causeOff_retrain ..
  · exact State.raise_retrain hr ..

/-- A field of SPIN_STAT written. -/
theorem State.fset_stat_retraining (hw : s.regs.wf = true) {f : Field} (hf : f.reg = .SPIN_STAT) (v : Nat) :
    (s.fset f v r).retraining r = { s.retraining r with stat := f.put (s.raw .SPIN_STAT (Reg.key .SPIN_STAT r 0)) v } := by
  have hkey : Fld.FAN_CTRL_RETRAIN.reg.key 0 (r / 16) ≠ f.reg.key r 0 := by
    rw [hf]
    exact fanCtrl_ne_spinStat _ _
  have hctrl := s.fheld_fset_reg f Fld.FAN_CTRL_RETRAIN v r 0 0 (r / 16) hw hkey
  have hstat : (s.fset f v r).raw .SPIN_STAT (Reg.key .SPIN_STAT r 0) = f.put (s.raw .SPIN_STAT (Reg.key .SPIN_STAT r 0)) v := by
    rw [← hf]
    exact State.raw_setRaw _ _ _ _ hw
  simp only [State.retraining, State.fset_fan, State.fset_race, hctrl, hstat]

/-- Race r's retraining with lanes noted, but for its SPIN_STAT. -/
theorem State.lanesNoted_retraining (hw : s.regs.wf = true) (hr : r < 32) (o : LaneOut) :
    (s.lanesNoted r o).regs.wf = true ∧ (s.lanesNoted r o).fan (r / 16) = s.fan (r / 16)
      ∧ ∃ w, (s.lanesNoted r o).retraining r = { s.retraining r with tr := (s.race r).tr.noted o.dead, stat := w } := by
  have hwm : (s.mapped r o).regs.wf = true := State.setRaw_wf _ _ _ _ hw
  have hmap : (s.mapped r o).retraining r = s.retraining r :=
    State.retraining_congr rfl rfl (State.raw_setRaw_other _ _ _ _ _ _ hw ((spinRepair_off r).fanCtrl_ne (by omega)))
      (State.raw_setRaw_other _ _ _ _ _ _ hw ((spinRepair_off r).spinStat_ne hr))
  have hwa : ((s.mapped r o).fset Fld.SPIN_STAT_UNREP_A (unrepOf o.dead 0) r).regs.wf = true := State.fset_wf _ _ _ _ _ hwm
  have hwu : ((s.mapped r o).lanesShown r o.dead).regs.wf = true := State.fset_wf _ _ _ _ _ hwa
  have hfan : ((s.mapped r o).lanesShown r o.dead).fan (r / 16) = s.fan (r / 16) := (State.fset_fan ..).trans (State.fset_fan ..)
  have hrace : ((s.mapped r o).lanesShown r o.dead).race r = s.race r := (State.fset_race ..).trans (State.fset_race ..)
  have hshown : ∃ w, ((s.mapped r o).lanesShown r o.dead).retraining r = { s.retraining r with stat := w } := by
    rw [State.lanesShown, State.fset_stat_retraining hwa rfl, State.fset_stat_retraining hwm rfl, hmap]
    exact ⟨_, rfl⟩
  obtain ⟨w, hshown⟩ := hshown
  unfold State.lanesNoted
  generalize (s.mapped r o).lanesShown r o.dead = u at hwu hfan hrace hshown
  refine ⟨hwu, hfan, w, (State.setRace_retraining ..).trans ?_⟩
  rw [hshown, hrace]

/-- Recording lanes leaves a retraining tidy, and finds the race's dead lanes. -/
theorem State.recordLanes_tidy (hr : r < 32) (s : State) (o : LaneOut) : RetrainTidy r s (s.recordLanes r o) := by
  refine RetrainTidy.trans ⟨fun hw => ?_⟩ (s.recordLanes_left hr o).tidy
  obtain ⟨hwn, hfan, w, hview⟩ := State.lanesNoted_retraining hw hr o
  exact ⟨hwn, fun q hq => hfan ▸ hq, fun htidy => hview ▸ htidy⟩

theorem State.recordLanes_dead (hw : s.regs.wf = true) (hr : r < 32) (o : LaneOut) : ((s.recordLanes r o).race r).tr.dead = o.dead := by
  obtain ⟨hwn, -, w, hview⟩ := State.lanesNoted_retraining hw hr o
  have hnoted : ((s.lanesNoted r o).retraining r).tr.dead = o.dead := by rw [hview]; rfl
  obtain ⟨-, -, hsame | hstopped⟩ := (s.recordLanes_left hr o).left hwn
  · exact (congrArg (·.tr.dead) hsame).trans hnoted
  · exact ((congrArg (·.tr.dead) hstopped).trans (Retraining.stopped_dead _)).trans hnoted

end Sys2Proof.Machine
end

section
/-!
SUPPORT. The end of a runtime retraining (R274, R275, R262): its lanes recorded, its engine free, its outcome in SPIN_STAT.
-/
namespace Sys2Proof.Machine

variable {s t u : State} {r : Nat} {dead : List Nat}

/-- Race r is in no retraining and waits for none, and the engine of its half is free. -/
structure RetrainOver (r : Nat) (s : State) : Prop where
  wf : s.regs.wf = true
  engine : (s.fan (r / 16)).running = none
  queued : (s.retraining r).queued = false
  asked : (s.retraining r).asked = false

theorem RetrainOver.running (h : RetrainOver r s) : (s.retraining r).running = false := by
  simp [State.retraining, Fan.runs, h.engine]

/-- What the Brake does leaves a retraining that is over, its record and SPIN_STAT. -/
theorem RetrainOver.left (h : RetrainOver r s) (g : RetrainLeft r s t) :
    RetrainOver r t ∧ (t.race r).tr = (s.race r).tr ∧ ∀ f : Field, f.reg = .SPIN_STAT → t.fheld f r = s.fheld f r := by
  obtain ⟨hwt, hengine, hview⟩ := g.left h.wf
  rw [Retraining.stopped_of_idle h.running h.queued, or_self] at hview
  have hstat : t.raw .SPIN_STAT (Reg.key .SPIN_STAT r 0) = s.raw .SPIN_STAT (Reg.key .SPIN_STAT r 0) := congrArg Retraining.stat hview
  refine ⟨⟨hwt, Option.eq_none_iff_forall_ne_some.mpr fun q hq => ?_, hview ▸ h.queued, hview ▸ h.asked⟩, congrArg Retraining.tr hview,
    fun f hf => State.fheld_congr (by rw [hf]; exact hstat)⟩
  have hnone := hengine q hq
  rw [h.engine] at hnone
  cases hnone

theorem RetrainOver.setRace (h : RetrainOver r s) (y : Race) : RetrainOver r (s.setRace r y) := by
  have hview := s.setRace_retraining r y
  exact ⟨h.wf, h.engine, (congrArg (·.queued) hview).trans h.queued, (congrArg (·.asked) hview).trans h.asked⟩

theorem RetrainOver.fset (h : RetrainOver r s) {f : Field} (hf : f.reg = .SPIN_STAT) (v : Nat) : RetrainOver r (s.fset f v r) := by
  have hview := State.fset_stat_retraining (r := r) h.wf hf v
  exact ⟨State.fset_wf _ _ _ _ _ h.wf, (congrArg (·.running) (s.fset_fan f v r 0 (r / 16))).trans h.engine, (congrArg (·.queued) hview).trans h.queued,
    (congrArg (·.asked) hview).trans h.asked⟩

theorem State.fset_stat_raised (s : State) {f : Field} (hf : f.reg = .SPIN_STAT) (v r : Nat) : Raised s (s.fset f v r) :=
  .ofField s f v r 0 (.inr (.inl ⟨r, by rw [hf]⟩))

theorem State.fset_stat_wf (hw : s.regs.wf = true) (f : Field) (v r : Nat) : (s.fset f v r).regs.wf = true := State.fset_wf _ _ _ _ _ hw

/-- A retraining stopped at its end: nothing is left of it but the race's lanes. -/
theorem State.stopRetrain_over (hw : s.regs.wf = true) (hengine : ∀ q, (s.fan (r / 16)).running = some q → q = r) (htidy : (s.retraining r).Tidy) :
    RetrainOver r (s.stopRetrain r) ∧ ((s.stopRetrain r).race r).tr.retrain = false ∧ ((s.stopRetrain r).race r).tr.hold = false
      ∧ ((s.stopRetrain r).race r).tr.saved = {} ∧ ((s.stopRetrain r).race r).tr.dead = (s.race r).tr.dead := by
  have hview := State.stopRetrain_retraining_same hw r
  have hwt := ((s.stopRetrain_raised r).regs hw).1
  obtain ⟨hrunning, hqueued⟩ := (s.retraining r).stopped_idle
  have hout : ((s.stopRetrain r).retraining r).running = false := (congrArg (·.running) hview).trans hrunning
  have hclear := htidy.stopped.of_idle hqueued hrunning
  rw [← hview] at hclear hqueued
  obtain ⟨hasked, hretrain, hhold, hsaved⟩ := hclear
  have hnone : ((s.stopRetrain r).fan (r / 16)).running = none := by
    refine Option.eq_none_iff_forall_ne_some.mpr fun q hq => ?_
    obtain rfl := hengine q (State.stopRetrain_running hw r (r / 16) q hq)
    simp [State.retraining, Fan.runs, hq] at hout
  refine ⟨⟨hwt, hnone, hqueued, hasked⟩, hretrain, hhold, hsaved, ?_⟩
  exact (congrArg (·.tr.dead) hview).trans (Retraining.stopped_dead _)

/-! ### Settings found and lanes recorded -/

/-- The retraining of race r stopped with lanes recorded, and service waiting for the next Turn boundary. -/
def State.retrained (s : State) (r : Nat) (o : LaneOut) : State :=
  let u := ((s.trainSettings r).recordLanes r o).stopRetrain r
  u.setRace r { u.race r with tr := { ((u.race r).tr.patterns u.nsid).restart u.clk.age with hold := true } }

/-- What a retraining that is over holds of its race: the lanes found dead, and service held. -/
structure RetrainedRace (r : Nat) (dead : List Nat) (s : State) : Prop where
  ended : RetrainOver r s
  retrain : (s.race r).tr.retrain = false
  hold : (s.race r).tr.hold = true
  saved : (s.race r).tr.saved = {}
  dead : (s.race r).tr.dead = dead

theorem RetrainTidy.engine_le (h : RetrainTidy r s t) (hw : s.regs.wf = true) (hrun : (s.fan (r / 16)).running = some r) :
    ∀ q, (t.fan (r / 16)).running = some q → q = r := by
  intro q hq
  have hsame := (h.kept hw).2.1 q hq
  rw [hrun] at hsame
  exact (Option.some.inj hsame).symm

theorem State.retraining_tidy (hrun : (s.fan (r / 16)).running = some r) : (s.retraining r).Tidy := .inr (.inl (decide_eq_true hrun))

theorem State.retrained_race (hr : r < 32) (hw : s.regs.wf = true) (hrun : ∀ q, (s.fan (r / 16)).running = some q → q = r)
    (htidy : (s.retraining r).Tidy) (o : LaneOut) : RetrainedRace r o.dead (s.retrained r o) := by
  have hsettings := (s.trainSettings_written r).retrain hr
  have hws := (hsettings.left hw).1
  have hlanes := hsettings.tidy.trans (State.recordLanes_tidy hr _ o)
  have hdead := State.recordLanes_dead hws hr o
  obtain ⟨hwl, hengine, hkeeps⟩ := hlanes.kept hw
  obtain ⟨hover, hretrain, -, hsaved, hsame⟩ := State.stopRetrain_over hwl (fun q hq => hrun q (hengine q hq)) (hkeeps htidy)
  rw [hdead] at hsame
  unfold State.retrained
  generalize ((s.trainSettings r).recordLanes r o).stopRetrain r = v at hover hretrain hsaved hsame
  have htr (y : Race) : ((v.setRace r y).race r).tr = y.tr := congrArg Race.tr (v.race_setRace r y)
  exact ⟨hover.setRace _, (congrArg Train.retrain (htr _)).trans hretrain, congrArg Train.hold (htr _), (congrArg Train.saved (htr _)).trans hsaved,
    (congrArg Train.dead (htr _)).trans hsame⟩

/-- After the lane map a retraining's end is what the Brake does, and marks of the race's training record. -/
theorem State.retrained_raised (s : State) (r : Nat) (o : LaneOut) : Raised ((s.trainSettings r).mapped r o) (s.retrained r o) :=
  ((State.recordLanes_raised _ r o).trans (State.stopRetrain_raised ..)).trans (Raised.tr _ r _ _ rfl)

theorem State.retrained_map (hw : s.regs.wf = true) (hr : r < 32) (o : LaneOut) :
    (s.retrained r o).raw .SPIN_REPAIR (Reg.key .SPIN_REPAIR r 0) = BitVec.ofNat 64 o.word := by
  have hws := ((s.trainSettings_written r).regs hw).1
  exact ((s.retrained_raised r o).spinRepair (State.setRaw_wf _ _ _ _ hws) hr).trans (State.raw_setRaw _ _ _ _ hws)

theorem State.retrained_service (hr : r < 32) (s : State) (o : LaneOut) : ServiceStands r s (s.retrained r o) :=
  ((s.trainSettings_written r).service.trans (State.mapped_service _ r o)).trans ((s.retrained_raised r o).service hr)

/-! ### The outcome (R262, R266) -/

/-- The outcome in SPIN_STAT: FAIL and its source, or the result and tracking. -/
def State.judged (s : State) (r : Nat) (o : LaneOut) (fails : Bool) : State :=
  if fails then s.trainFail r else (s.fset Fld.SPIN_STAT_RESULT (if o.dead.isEmpty then 1 else 2) r).fset Fld.SPIN_STAT_STATE (s.trackState r) r

/-- RESULT and STATE written. -/
def State.outcome (s : State) (r result state : Nat) : State := (s.fset Fld.SPIN_STAT_RESULT result r).fset Fld.SPIN_STAT_STATE state r

theorem State.outcome_raised (s : State) (r result state : Nat) : Raised s (s.outcome r result state) :=
  (s.fset_stat_raised rfl _ _).trans (State.fset_stat_raised _ rfl _ _)

theorem RetrainOver.outcome (h : RetrainOver r s) (result state : Nat) : RetrainOver r (s.outcome r result state) := (h.fset rfl result).fset rfl state

theorem State.outcome_state (hw : s.regs.wf = true) (r result : Nat) {state : Nat} (h : state < 2 ^ 4) :
    (s.outcome r result state).fheld Fld.SPIN_STAT_STATE r = state :=
  (State.fheld_fset _ Fld.SPIN_STAT_STATE state r 0 (State.fset_stat_wf hw ..) (by decide)).trans (Nat.mod_eq_of_lt h)

theorem State.outcome_result (hw : s.regs.wf = true) (r state : Nat) {result : Nat} (h : result < 2 ^ 2) :
    (s.outcome r result state).fheld Fld.SPIN_STAT_RESULT r = result :=
  ((State.fheld_fset_field _ Fld.SPIN_STAT_STATE Fld.SPIN_STAT_RESULT state r 0 (State.fset_stat_wf hw ..) rfl (by decide) (by decide)).trans
    (State.fheld_fset _ Fld.SPIN_STAT_RESULT result r 0 hw (by decide))).trans (Nat.mod_eq_of_lt h)

theorem State.outcome_tr (s : State) (r result state : Nat) : ((s.outcome r result state).race r).tr = (s.race r).tr :=
  congrArg Race.tr ((State.fset_race ..).trans (State.fset_race ..))

theorem State.trackState_lt (s : State) (r : Nat) : s.trackState r < 2 ^ 4 := by
  unfold State.trackState
  dsimp only
  split <;> decide

theorem State.judged_fails (s : State) (r : Nat) (o : LaneOut) : s.judged r o true = (s.outcome r 3 5).raise Src.SPIN_TRAIN r 0 := if_pos rfl

theorem State.judged_passes (s : State) (r : Nat) (o : LaneOut) :
    s.judged r o false = s.outcome r (if o.dead.isEmpty then 1 else 2) (s.trackState r) :=
  if_neg Bool.false_ne_true

theorem State.judged_raised (s : State) (r : Nat) (o : LaneOut) (fails : Bool) : Raised s (s.judged r o fails) := by
  unfold State.judged
  split
  · exact (s.outcome_raised r 3 5).trans (State.raise_raised ..)
  · exact s.outcome_raised r _ _

theorem RetrainedRace.same (h : RetrainedRace r dead s) (ht : RetrainOver r t) (htr : (t.race r).tr = (s.race r).tr) : RetrainedRace r dead t := by
  obtain ⟨-, hretrain, hhold, hsaved, hdead⟩ := h
  rw [← htr] at hretrain hhold hsaved hdead
  exact ⟨ht, hretrain, hhold, hsaved, hdead⟩

/-- The outcome leaves the race as its retraining ended, and stands in SPIN_STAT. -/
theorem RetrainedRace.judged (h : RetrainedRace r dead s) (hr : r < 32) (o : LaneOut) (fails : Bool) :
    RetrainedRace r dead (s.judged r o fails) ∧ (s.judged r o fails).fheld Fld.SPIN_STAT_RESULT r = (if fails then 3 else if o.dead.isEmpty then 1 else 2)
      ∧ (s.judged r o fails).fheld Fld.SPIN_STAT_STATE r = (if fails then 5 else s.trackState r) := by
  have hw := h.ended.wf
  cases fails with
  | true =>
    obtain ⟨hended, htr, hstat⟩ := (h.ended.outcome 3 5).left ((s.outcome r 3 5).raise_retrain hr Src.SPIN_TRAIN r 0)
    rw [State.judged_fails]
    exact ⟨h.same hended (htr.trans (s.outcome_tr r 3 5)), (hstat Fld.SPIN_STAT_RESULT rfl).trans (State.outcome_result hw r 5 (by decide)),
      (hstat Fld.SPIN_STAT_STATE rfl).trans (State.outcome_state hw r 3 (by decide))⟩
  | false =>
    have hresult : (if o.dead.isEmpty then 1 else 2) < 2 ^ 2 := by split <;> decide
    rw [State.judged_passes]
    exact ⟨h.same (h.ended.outcome _ _) (s.outcome_tr r _ _), State.outcome_result hw r _ hresult, State.outcome_state hw r _ (s.trackState_lt r)⟩

/-! ### The repair step (R274, R300) -/

/-- The lanes that a retraining finds failed: those dead before it, and those that its windows leave failed. -/
def State.lanesFound (s : State) (r : Nat) (failed : List LanePos) : LaneOut :=
  applyLanes (s.raw .SPIN_REPAIR (Reg.key .SPIN_REPAIR r 0)).toNat
    (fun g pr => deadIn (s.race r).tr.dead g pr ++ (failed.filter (fun l => l.group = g ∧ l.pr = pr)).map (fun l => l.pos))

/-- The end of a retraining after its repair step. -/
def State.concluded (s : State) (r : Nat) (failed : List LanePos) (badWindow : Bool) : State :=
  (s.retrained r (s.lanesFound r failed)).judged r (s.lanesFound r failed) ((s.lanesFound r failed).fatal || badWindow)

/-- The state in which a retraining ends: after its repair step. -/
def State.repairedStep (s : State) (r : Nat) : State := if (s.race r).tr.repaired then s else s.repairStep r

theorem State.endRetrain_eq (s : State) (r : Nat) (failed : List LanePos) (badWindow : Bool) :
    s.endRetrain r failed badWindow = (s.repairedStep r).concluded r failed badWindow := rfl

theorem State.repairStep_tidy (hr : r < 32) (s : State) : RetrainTidy r s (s.repairStep r) := by
  unfold State.repairStep
  extract_lets x o v left y
  have hv : RetrainTidy r s v := (s.applySoft_tidy hr r _ _).trans (State.recordLanes_tidy hr _ o)
  clear_value v
  refine hv.trans ⟨fun hw => ⟨hw, fun _ => id, fun htidy => ?_⟩⟩
  rw [State.setRace_retraining]
  exact htidy

/-- A retraining ends with its race's lanes recorded, service held and its half's engine free. -/
theorem State.concluded_race (hr : r < 32) (hw : s.regs.wf = true) (hrun : ∀ q, (s.fan (r / 16)).running = some q → q = r)
    (htidy : (s.retraining r).Tidy) (failed : List LanePos) (badWindow : Bool) :
    RetrainedRace r (s.lanesFound r failed).dead (s.concluded r failed badWindow)
      ∧ (s.concluded r failed badWindow).fheld Fld.SPIN_STAT_RESULT r
        = (if (s.lanesFound r failed).fatal || badWindow then 3 else if (s.lanesFound r failed).dead.isEmpty then 1 else 2)
      ∧ (s.concluded r failed badWindow).fheld Fld.SPIN_STAT_STATE r = (if (s.lanesFound r failed).fatal || badWindow then 5 else s.trackState r) := by
  have hservice := (State.retrained_service hr s (s.lanesFound r failed)).regs hw
  rw [← hservice.2]
  exact (State.retrained_race hr hw hrun htidy (s.lanesFound r failed)).judged hr _ _

theorem State.concluded_service (hr : r < 32) (s : State) (failed : List LanePos) (badWindow : Bool) :
    ServiceStands r s (s.concluded r failed badWindow) :=
  (State.retrained_service hr s _).trans ((State.judged_raised ..).service hr)

theorem State.concluded_map (hr : r < 32) (hw : s.regs.wf = true) (failed : List LanePos) (badWindow : Bool) :
    (s.concluded r failed badWindow).raw .SPIN_REPAIR (Reg.key .SPIN_REPAIR r 0) = BitVec.ofNat 64 (s.lanesFound r failed).word := by
  have hwt := ((State.retrained_service hr s (s.lanesFound r failed)).regs hw).1
  exact ((State.judged_raised ..).spinRepair hwt hr).trans (State.retrained_map hw hr _)

end Sys2Proof.Machine
end

section
/-!
SUPPORT. The completion and the abort of a runtime retraining (R274 to R276).
-/
namespace Sys2Proof.Machine

variable {s t u : State} {r half : Nat} {failed : List LanePos} {badWindow : Bool}

/-! ### The completion -/

theorem exec_retrainComplete (hhalf : half < 2) (hrun : (s.fan half).running = some r) (hsafe : s.brk.safe = false) (hruns : s.raceRuns r = true) :
    exec (.retrainComplete half failed badWindow) s = .next (s.endRetrain r failed badWindow) := by
  have hcond : (decide (half < 2) && !s.brk.safe && s.raceRuns r) = true := by simp [hhalf, hsafe, hruns]
  refine congrArg Host.Outcome.next ?_
  rw [hrun]
  exact when_true hcond _ s

theorem State.repairedStep_tidy (hr : r < 32) (s : State) : RetrainTidy r s (s.repairedStep r) :=
  (RetrainTidy.refl r s).ite (s.repairStep_tidy hr)

theorem Stands.clk (h : Stands s t) : t.clk = s.clk := congrArg Decided.clk h

theorem State.repairedStep_clk (s : State) (r : Nat) : (s.repairedStep r).clk = s.clk := by
  unfold State.repairedStep
  split
  · rfl
  · exact (s.repairStep_stands r).clk

theorem RetrainedRace.queue_free {dead : List Nat} (h : RetrainedRace r dead t) : (t.fan (r / 16)).running = none ∧ bit (t.fheld Fld.FAN_CTRL_RETRAIN 0 (r / 16)) (r % 16) = false
    ∧ (t.race r).tr.saved = {} ∧ (t.race r).tr.hold = true ∧ (t.race r).tr.retrain = false :=
  ⟨h.ended.engine, h.ended.asked, h.saved, h.hold, h.retrain⟩

/-- However it repairs, a retraining ends with its engine free, its request and its marks gone, and service held. -/
theorem State.endRetrain_race (hr : r < 32) (hw : s.regs.wf = true) (hrun : (s.fan (r / 16)).running = some r) :
    RetrainedRace r ((s.repairedStep r).lanesFound r failed).dead (s.endRetrain r failed badWindow) ∧ (s.endRetrain r failed badWindow).clk = s.clk := by
  have hrepair := s.repairedStep_tidy hr
  obtain ⟨hwt, -, hkeeps⟩ := hrepair.kept hw
  have hrace := State.concluded_race hr hwt (hrepair.engine_le hw hrun) (hkeeps (State.retraining_tidy hrun)) failed badWindow
  rw [State.endRetrain_eq]
  exact ⟨hrace.1, ((State.concluded_service hr _ failed badWindow).clk).trans (s.repairedStep_clk r)⟩

/-- After its repair step a retraining ends with its outcome in SPIN_REPAIR and SPIN_STAT. -/
structure RetrainOutcome (r : Nat) (o : LaneOut) (fails : Bool) (s t : State) : Prop where
  dram : t.dram = s.dram
  map : t.raw .SPIN_REPAIR (Reg.key .SPIN_REPAIR r 0) = BitVec.ofNat 64 o.word
  dead : (t.race r).tr.dead = o.dead
  result : t.fheld Fld.SPIN_STAT_RESULT r = (if fails then 3 else if o.dead.isEmpty then 1 else 2)
  state : t.fheld Fld.SPIN_STAT_STATE r = (if fails then 5 else s.trackState r)
  others : OtherRaces r s t

theorem State.endRetrain_outcome (hr : r < 32) (hw : s.regs.wf = true) (hrun : (s.fan (r / 16)).running = some r)
    (hrep : (s.race r).tr.repaired = true) :
    RetrainOutcome r (s.lanesFound r failed) ((s.lanesFound r failed).fatal || badWindow) s (s.endRetrain r failed badWindow) := by
  have hengines (q : Nat) (hq : (s.fan (r / 16)).running = some q) : q = r := (Option.some.inj (hrun.symm.trans hq)).symm
  obtain ⟨hdone, hresult, hstate⟩ := State.concluded_race hr hw hengines (State.retraining_tidy hrun) failed badWindow
  have hservice := State.concluded_service hr s failed badWindow
  rw [State.endRetrain_eq, State.repairedStep, if_pos hrep]
  exact ⟨hservice.dram, State.concluded_map hr hw failed badWindow, hdone.dead, hresult, hstate, hservice.others⟩

/-- The claim of a retraining's completion. -/
theorem retrain_completes (hw : s.regs.wf = true) (hr : r < 32) (hrun : (s.fan (r / 16)).running = some r)
    (hsafe : s.brk.safe = false) (hruns : s.raceRuns r = true) :
    ∃ t, exec (.retrainComplete (r / 16) failed badWindow) s = .next t ∧ t.pending = s.pending ∧ t.fuse = s.fuse ∧ t.clk = s.clk
      ∧ RetrainedRace r ((s.repairedStep r).lanesFound r failed).dead t
      ∧ ((s.race r).tr.repaired = true → RetrainOutcome r (s.lanesFound r failed) ((s.lanesFound r failed).fatal || badWindow) s t) := by
  have hexec := exec_retrainComplete (failed := failed) (badWindow := badWindow) (by omega) hrun hsafe hruns
  obtain ⟨hrace, hclk⟩ := State.endRetrain_race (failed := failed) (badWindow := badWindow) hr hw hrun
  have houtcome := State.endRetrain_outcome (failed := failed) (badWindow := badWindow) hr hw hrun
  generalize s.endRetrain r failed badWindow = t at hexec hrace hclk houtcome
  obtain ⟨v, hv, htame⟩ := exec_tame (.retrainComplete (r / 16) failed badWindow) s
  obtain rfl := Host.Outcome.next.inj (hv.symm.trans hexec)
  exact ⟨v, hexec, htame.pend, htame.fuse rfl, hclk, hrace, houtcome⟩

/-! ### The abort (R276) -/

/-- s with the saved words of a list of registers put back. -/
def State.restored (s : State) (saved : Tbl Word) (l : List (Reg × Nat × Nat)) : State :=
  { s with regs := l.foldl (fun t e => match saved.find? e.2.1 with | some w => regsPut s.ld t e.1 e.2.1 w | none => t) s.regs }

theorem State.restored_cons_some {saved : Tbl Word} {e : Reg × Nat × Nat} {w : Word} (h : saved.find? e.2.1 = some w) (l : List (Reg × Nat × Nat)) :
    s.restored saved (e :: l) = (s.setRaw e.1 e.2.1 w).restored saved l := by
  simp only [State.restored, List.foldl_cons, h]
  rfl

theorem State.restored_cons_none {saved : Tbl Word} {e : Reg × Nat × Nat} (h : saved.find? e.2.1 = none) (l : List (Reg × Nat × Nat)) :
    s.restored saved (e :: l) = s.restored saved l := by
  simp only [State.restored, List.foldl_cons, h]

theorem State.restored_written (saved : Tbl Word) {l : List (Reg × Nat × Nat)} (hl : ∀ e ∈ l, settingsAt r e.2.1) (s : State) :
    SettingsWritten r s (s.restored saved l) := by
  induction l generalizing s with
  | nil => exact .refl r s
  | cons e l ih =>
    obtain ⟨he, hl⟩ := List.forall_mem_cons.mp hl
    cases hsaved : saved.find? e.2.1 with
    | none =>
      rw [State.restored_cons_none hsaved]
      exact ih hl s
    | some w =>
      rw [State.restored_cons_some hsaved]
      exact (s.setRaw_written _ _ he).trans (ih hl _)

/-- A saved word comes back: into its register, if no other of the list is at its offset. -/
theorem State.restored_raw {saved : Tbl Word} {p : Reg} {k : Nat} {w : Word} (hk : saved.find? k = some w) {l : List (Reg × Nat × Nat)}
    (hown : ∀ e ∈ l, e.2.1 = k → e.1 = p) (hw : s.regs.wf = true) (hin : (∃ e ∈ l, e.2.1 = k) ∨ s.raw p k = w) :
    (s.restored saved l).raw p k = w := by
  induction l generalizing s with
  | nil =>
    obtain ⟨e, he, -⟩ | hheld := hin
    · cases he
    · exact hheld
  | cons e l ih =>
    obtain ⟨he, hown⟩ := List.forall_mem_cons.mp hown
    by_cases hek : e.2.1 = k
    · subst hek
      rw [State.restored_cons_some hk, he rfl]
      exact ih hown (State.setRaw_wf _ _ _ _ hw) (.inr (State.raw_setRaw _ _ _ _ hw))
    · have hrest : (∃ d ∈ l, d.2.1 = k) ∨ s.raw p k = w := by simpa [hek] using hin
      cases hsaved : saved.find? e.2.1 with
      | none =>
        rw [State.restored_cons_none hsaved]
        exact ih hown hw hrest
      | some v =>
        rw [State.restored_cons_some hsaved]
        refine ih hown (State.setRaw_wf _ _ _ _ hw) (hrest.imp_right fun hheld => ?_)
        exact (State.raw_setRaw_other _ _ _ _ _ _ hw fun h => hek h.symm).trans hheld

theorem sidKey_ne_dlyKey {i p q sd d w : Nat} (hp : p < 2) : sidKey i p ≠ dlyKey i q sd d w := by
  unfold sidKey dlyKey
  omega

theorem mem_trainedKeys_sid (n : Nat) {p : Nat} (hp : p < 2) : ∃ e ∈ trainedKeys n r, e.2.1 = sidKey r p :=
  ⟨_, List.mem_append_left _ (List.mem_map.mpr ⟨p, List.mem_range.mpr hp, rfl⟩), rfl⟩

/-- The saved SPIN_SID of a pseudo-race comes back. -/
theorem State.restored_sid {saved : Tbl Word} (hw : s.regs.wf = true) {p : Nat} (hp : p < 2) {w : Word} (hk : saved.find? (sidKey r p) = some w) :
    (s.restored saved (trainedKeys s.nsid r)).raw .SPIN_SID (sidKey r p) = w := by
  refine State.restored_raw hk (fun e he hek => ?_) hw (.inl (mem_trainedKeys_sid _ hp))
  obtain ⟨-, -, hreg, -⟩ | ⟨_, _, _, _, -, -, -, -, hkey⟩ := mem_trainedKeys he
  · exact hreg
  · exact absurd (hek.symm.trans hkey) (sidKey_ne_dlyKey hp)

/-- The lane map and the dead lanes before a retraining. -/
def State.lanesBefore (s : State) (r : Nat) : LaneOut :=
  ⟨(((s.race r).tr.saved.find? (Reg.key .SPIN_REPAIR r 0)).getD 0).toNat, (s.race r).tr.savedDead.filter (fun d => decide (d % 64 < 40)), false⟩

/-- The settings and the lanes before race r's retraining put back. -/
def State.putBack (s : State) (r : Nat) : State :=
  (s.restored (s.race r).tr.saved (trainedKeys s.nsid r)).recordLanes r (s.lanesBefore r)

/-- The retraining of race r aborted: it stops, with ABORTED set. -/
def State.aborted (s : State) (r : Nat) : State := ((s.putBack r).fset Fld.SPIN_STAT_ABORTED 1 r).stopRetrain r

/-- A race goes on with new rounds of tracking, or without. -/
def State.goesOn (s : State) (r state : Nat) (dead : List Nat) : State :=
  let u := s.fset Fld.SPIN_STAT_STATE state r
  u.setRace r { u.race r with tr := { (u.race r).tr.restart u.clk.age with dead := dead } }

theorem State.abortRetrain_eq (s : State) (r : Nat) :
    s.abortRetrain r = (s.aborted r).goesOn r (((s.putBack r).fset Fld.SPIN_STAT_ABORTED 1 r).trackState r) (s.race r).tr.savedDead := rfl

/-! What the settings and lanes put back leave -/

theorem State.restored_settings (s : State) (r : Nat) : SettingsWritten r s (s.restored (s.race r).tr.saved (trainedKeys s.nsid r)) :=
  State.restored_written _ (fun _ he => trainedKeys_settings he) s

theorem State.putBack_tidy (hr : r < 32) (s : State) : RetrainTidy r s (s.putBack r) :=
  ((s.restored_settings r).retrain hr).tidy.trans (State.recordLanes_tidy hr _ _)

theorem State.putBack_service (hr : r < 32) (s : State) : ServiceStands r s (s.putBack r) :=
  (s.restored_settings r).service.trans (State.recordLanes_service hr _ _)

theorem State.putBack_map (hr : r < 32) (hw : s.regs.wf = true) :
    (s.putBack r).raw .SPIN_REPAIR (Reg.key .SPIN_REPAIR r 0) = ((s.race r).tr.saved.find? (Reg.key .SPIN_REPAIR r 0)).getD 0 :=
  (State.recordLanes_map ((s.restored_settings r).regs hw).1 hr _).trans ((BitVec.ofNat_toNat ..).trans (BitVec.setWidth_eq _))

theorem spinRepair_ne_sidKey (i p : Nat) : sidKey i p ≠ Reg.key .SPIN_REPAIR i 0 := by
  have hkey := spinRepair_key i
  unfold sidKey
  omega

theorem State.putBack_sid (hr : r < 32) (hw : s.regs.wf = true) {p : Nat} (hp : p < 2) {w : Word}
    (hk : (s.race r).tr.saved.find? (sidKey r p) = some w) : (s.putBack r).raw .SPIN_SID (sidKey r p) = w := by
  have hwr := ((s.restored_settings r).regs hw).1
  have hkey : settingsAt r (sidKey r p) := sidKey_settings hp
  calc (s.putBack r).raw .SPIN_SID (sidKey r p)
      = ((s.restored (s.race r).tr.saved (trainedKeys s.nsid r)).mapped r (s.lanesBefore r)).raw .SPIN_SID (sidKey r p) :=
        (State.recordLanes_raised ..).raw_of_off (State.setRaw_wf _ _ _ _ hwr) hkey.offFantail (hkey.lt hr) .SPIN_SID
    _ = (s.restored (s.race r).tr.saved (trainedKeys s.nsid r)).raw .SPIN_SID (sidKey r p) :=
        State.raw_setRaw_other _ _ _ _ _ _ hwr (spinRepair_ne_sidKey r p)
    _ = w := State.restored_sid hw hp hk

/-! The stop -/

/-- The stop of a retraining leaves the fields of SPIN_STAT but STATE. -/
theorem State.stopRetrain_stat_field (hw : s.regs.wf = true) {f : Field} (hf : f.reg = .SPIN_STAT) (h64 : f.lo + f.w ≤ 64)
    (hapart : Fld.SPIN_STAT_STATE.apart f) : (s.stopRetrain r).fheld f r = s.fheld f r := by
  have hstat := congrArg Retraining.stat (State.stopRetrain_retraining_same hw r)
  have hfield := (s.retraining r).stopped_field h64 hapart
  rw [← hstat] at hfield
  unfold State.fheld
  rw [hf]
  exact hfield

theorem State.goesOn_raised (s : State) (r state : Nat) (dead : List Nat) : Raised s (s.goesOn r state dead) :=
  (s.fset_stat_raised rfl _ _).trans (Raised.tr _ r _ _ rfl)

/-- A race's engine free, its retraining aborted. -/
structure AbortedRace (r : Nat) (dead : List Nat) (state : Nat) (s : State) : Prop where
  ended : RetrainOver r s
  retrain : (s.race r).tr.retrain = false
  hold : (s.race r).tr.hold = false
  saved : (s.race r).tr.saved = {}
  dead : (s.race r).tr.dead = dead
  aborted : s.fheld Fld.SPIN_STAT_ABORTED r = 1
  state : s.fheld Fld.SPIN_STAT_STATE r = state

theorem RetrainOver.goesOn (h : RetrainOver r s) (hretrain : (s.race r).tr.retrain = false) (hhold : (s.race r).tr.hold = false)
    (hsaved : (s.race r).tr.saved = {}) (haborted : s.fheld Fld.SPIN_STAT_ABORTED r = 1) {state : Nat} (hstate : state < 2 ^ 4) (dead : List Nat) :
    AbortedRace r dead state (s.goesOn r state dead) := by
  have hset := h.fset (f := Fld.SPIN_STAT_STATE) rfl state
  have htr : ((s.fset Fld.SPIN_STAT_STATE state r).race r).tr = (s.race r).tr := congrArg Race.tr (State.fset_race ..)
  have hab := State.fheld_fset_field s Fld.SPIN_STAT_STATE Fld.SPIN_STAT_ABORTED state r 0 h.wf rfl (by decide) (by decide)
  have hst := (State.fheld_fset s Fld.SPIN_STAT_STATE state r 0 h.wf (by decide)).trans (Nat.mod_eq_of_lt hstate)
  unfold State.goesOn
  generalize s.fset Fld.SPIN_STAT_STATE state r = u at hset htr hab hst
  have hrace (y : Race) : ((u.setRace r y).race r).tr = y.tr := congrArg Race.tr (u.race_setRace r y)
  rw [← htr] at hretrain hhold hsaved
  exact ⟨hset.setRace _, (congrArg Train.retrain (hrace _)).trans hretrain, (congrArg Train.hold (hrace _)).trans hhold,
    (congrArg Train.saved (hrace _)).trans hsaved, congrArg Train.dead (hrace _), hab.trans haborted, hst⟩

/-- An aborted retraining leaves its race with its settings and lanes back, and ABORTED set. -/
theorem State.abortRetrain_race (hr : r < 32) (hw : s.regs.wf = true) (hrun : (s.fan (r / 16)).running = some r) :
    AbortedRace r (s.race r).tr.savedDead (s.trackState r) (s.abortRetrain r) := by
  have hback := s.putBack_tidy hr
  obtain ⟨hwb, -, hkeeps⟩ := hback.kept hw
  have hservice := ((s.putBack_service hr).trans ((State.fset_stat_raised _ (f := Fld.SPIN_STAT_ABORTED) rfl 1 r).service hr)).regs hw
  have hengine := hback.engine_le hw hrun
  have hview := State.fset_stat_retraining (r := r) hwb (f := Fld.SPIN_STAT_ABORTED) rfl 1
  have hset := State.fheld_fset (s.putBack r) Fld.SPIN_STAT_ABORTED 1 r 0 hwb (by decide)
  have hfan := State.fset_fan (s.putBack r) Fld.SPIN_STAT_ABORTED 1 r 0 (r / 16)
  rw [State.abortRetrain_eq, State.aborted, ← hservice.2]
  obtain ⟨hwt, -⟩ := hservice
  generalize (s.putBack r).fset Fld.SPIN_STAT_ABORTED 1 r = u at hwt hview hset hfan
  have htidy : (u.retraining r).Tidy := hview ▸ hkeeps (State.retraining_tidy hrun)
  obtain ⟨hover, hretrain, hhold, hsaved, -⟩ := State.stopRetrain_over hwt (fun q hq => hengine q (hfan ▸ hq)) htidy
  have haborted := (State.stopRetrain_stat_field hwt (f := Fld.SPIN_STAT_ABORTED) rfl (by decide) (Or.inl (by decide))).trans hset
  exact hover.goesOn hretrain hhold hsaved haborted (u.trackState_lt r) _

/-- After the settings and the lanes, what an abort does is what the Brake does, and marks of the race's training record. -/
theorem State.abortRetrain_raised (s : State) (r : Nat) : Raised (s.putBack r) (s.abortRetrain r) :=
  ((State.fset_stat_raised _ (f := Fld.SPIN_STAT_ABORTED) rfl 1 r).trans (State.stopRetrain_raised ..)).trans (State.goesOn_raised ..)

theorem State.abortRetrain_service (hr : r < 32) (s : State) : ServiceStands r s (s.abortRetrain r) :=
  (s.putBack_service hr).trans ((s.abortRetrain_raised r).service hr)

theorem State.abortRetrain_map (hr : r < 32) (hw : s.regs.wf = true) :
    (s.abortRetrain r).raw .SPIN_REPAIR (Reg.key .SPIN_REPAIR r 0) = ((s.race r).tr.saved.find? (Reg.key .SPIN_REPAIR r 0)).getD 0 :=
  ((s.abortRetrain_raised r).spinRepair ((s.putBack_tidy hr).kept hw).1 hr).trans (State.putBack_map hr hw)

theorem State.abortRetrain_sid (hr : r < 32) (hw : s.regs.wf = true) {p : Nat} (hp : p < 2) {w : Word}
    (hk : (s.race r).tr.saved.find? (sidKey r p) = some w) : (s.abortRetrain r).raw .SPIN_SID (sidKey r p) = w := by
  have hkey : settingsAt r (sidKey r p) := sidKey_settings hp
  exact ((s.abortRetrain_raised r).raw_of_off ((s.putBack_tidy hr).kept hw).1 hkey.offFantail (hkey.lt hr) .SPIN_SID).trans
    (State.putBack_sid hr hw hp hk)

theorem exec_retrainAbort (hhalf : half < 2) (hrun : (s.fan half).running = some r) (halert : s.gov.alert = true) :
    exec (.retrainAbort half) s = .next (s.abortRetrain r) := by
  have hcond : (decide (half < 2) && s.gov.alert) = true := by simp [hhalf, halert]
  refine congrArg Host.Outcome.next ?_
  rw [hrun]
  exact when_true hcond _ s

end Sys2Proof.Machine
end

section
/-!
SUPPORT. The start of a runtime retraining (R274) and the end of a resume check (R278).
-/
namespace Sys2Proof.Machine

variable {s t u : State} {r half : Nat} {missed : List Nat} {errs : List (Nat × List (Nat × Byte))}

/-! ### The start -/

/-- The training record of a race whose retraining begins: its traffic held, its settings kept. -/
def State.begun (s : State) (r : Nat) (missed : List Nat) (errs : List (Nat × List (Nat × Byte))) : Train :=
  { (s.race r).tr with
    retrain := true, retrainAt := s.clk.age, repaired := false, copyMiss := missed, copyErr := errs, hold := true, checkFail := false
    saved := s.saveSettings r, savedDead := (s.race r).tr.dead }

/-- A half's engine takes race r from its queue. -/
def Fan.engaged (x : Fan) (r : Nat) : Fan := { queue := x.queue.filter (· ≠ r), running := some r }

theorem State.beginRetrain_eq (s : State) (r : Nat) (missed : List Nat) (errs : List (Nat × List (Nat × Byte))) :
    s.beginRetrain r missed errs = ((s.setFan (raceHalf r) ((s.fan (raceHalf r)).engaged r)).setRace r
      { s.race r with tr := s.begun r missed errs }).fset Fld.SPIN_STAT_STATE 3 r := rfl

theorem State.beginRetrain_fan (s : State) (r : Nat) (missed : List Nat) (errs : List (Nat × List (Nat × Byte))) :
    (s.beginRetrain r missed errs).fan (raceHalf r) = (s.fan (raceHalf r)).engaged r := by
  rw [State.beginRetrain_eq, State.fset_fan, State.setRace_fan]
  exact State.fan_setFan ..

theorem State.beginRetrain_race (s : State) (r : Nat) (missed : List Nat) (errs : List (Nat × List (Nat × Byte))) (q : Nat) :
    (s.beginRetrain r missed errs).race q = if q = r then { s.race r with tr := s.begun r missed errs } else s.race q := by
  rw [State.beginRetrain_eq, State.fset_race, State.setRace_races_at, State.setFan_race]

theorem State.beginRetrain_tr (s : State) (r : Nat) (missed : List Nat) (errs : List (Nat × List (Nat × Byte))) :
    ((s.beginRetrain r missed errs).race r).tr = s.begun r missed errs := by
  rw [State.beginRetrain_race, if_pos rfl]

theorem State.beginRetrain_race_other (s : State) (r : Nat) (missed : List Nat) (errs : List (Nat × List (Nat × Byte))) {q : Nat} (hq : q ≠ r) :
    (s.beginRetrain r missed errs).race q = s.race q := by
  rw [State.beginRetrain_race, if_neg hq]

theorem State.beginRetrain_clk (s : State) (r : Nat) (missed : List Nat) (errs : List (Nat × List (Nat × Byte))) :
    (s.beginRetrain r missed errs).clk = s.clk := by
  rw [State.beginRetrain_eq, State.fset_clk]
  rfl

theorem State.beginRetrain_state (hw : s.regs.wf = true) : (s.beginRetrain r missed errs).fheld Fld.SPIN_STAT_STATE r = 3 := by
  rw [State.beginRetrain_eq]
  exact State.fheld_fset _ Fld.SPIN_STAT_STATE 3 r 0 hw (by decide)

theorem State.beginRetrain_ctrl (hw : s.regs.wf = true) (half : Nat) :
    (s.beginRetrain r missed errs).fheld Fld.FAN_CTRL_RETRAIN 0 half = s.fheld Fld.FAN_CTRL_RETRAIN 0 half := by
  rw [State.beginRetrain_eq, State.fheld_fset_reg _ Fld.SPIN_STAT_STATE Fld.FAN_CTRL_RETRAIN 3 r 0 0 half (by exact hw) (fanCtrl_ne_spinStat half r),
    State.setRace_fheld, State.setFan_fheld]

theorem exec_retrainStart (hhalf : half < 2) (hfirst : (s.fan half).queue.find? (fun r => s.canRetrain r) = some r)
    (hidle : (s.fan half).running = none) (hsafe : s.brk.safe = false) (halert : s.gov.alert = false) :
    exec (.retrainStart half missed errs) s = .next (s.beginRetrain r missed errs) := by
  have hcond : (decide (half < 2) && (s.fan half).running.isNone && !s.brk.safe && !s.gov.alert) = true := by simp [hhalf, hidle, hsafe, halert]
  refine congrArg Host.Outcome.next ?_
  rw [hfirst]
  exact when_true hcond _ s

/-! ### The resume check -/

/-- A round of probes is counted. -/
def State.roundCounted (s : State) (r : Nat) : State := s.fwrap Fld.SPIN_STAT_ROUNDS 1 r

theorem State.roundCounted_raised (s : State) (r : Nat) : Raised s (s.roundCounted r) := s.fset_stat_raised rfl _ _

theorem State.roundCounted_wf (hw : s.regs.wf = true) (r : Nat) : (s.roundCounted r).regs.wf = true := State.fset_stat_wf hw ..

theorem State.roundCounted_rounds (hw : s.regs.wf = true) (r : Nat) :
    (s.roundCounted r).fheld Fld.SPIN_STAT_ROUNDS r = (s.fheld Fld.SPIN_STAT_ROUNDS r + 1) % 2 ^ Fld.SPIN_STAT_ROUNDS.w :=
  (State.fheld_fset _ Fld.SPIN_STAT_ROUNDS _ _ _ hw (by decide)).trans (Nat.mod_mod ..)

theorem State.roundCounted_race (s : State) (r q : Nat) : (s.roundCounted r).race q = s.race q := State.fset_race ..

theorem State.roundCounted_fan (s : State) (r h : Nat) : (s.roundCounted r).fan h = s.fan h := State.fset_fan ..

theorem State.roundCounted_trackState (hr : r < 32) (hw : s.regs.wf = true) : (s.roundCounted r).trackState r = s.trackState r :=
  (((s.roundCounted_raised r).service hr).regs hw).2

/-- A field written changes the registers only. -/
theorem State.fset_regs_only (s : State) (f : Field) (v i h : Nat) (g : Tbl Word) : ({ s.fset f v i h with regs := g } : State) = { s with regs := g } := rfl

theorem State.roundCounted_rest (s : State) (r : Nat) : ({ s.roundCounted r with regs := s.regs } : State) = s := by
  rw [State.roundCounted, State.fwrap, State.fset_regs_only]

/-- A race goes on in a state of its training, with a new round and with its service. -/
def State.served (s : State) (r state : Nat) : State :=
  let u := s.fset Fld.SPIN_STAT_STATE state r
  u.setRace r { u.race r with tr := { (u.race r).tr.restart u.clk.age with hold := false } }

/-- A race whose check is passed goes on. -/
def State.checkPassed (s : State) (r : Nat) : State := (s.roundCounted r).served r ((s.roundCounted r).trackState r)

/-- A race whose check is failed asks for its retraining, which begins where the half is free. -/
def State.checkFailed (s : State) (r : Nat) : State :=
  let u := (s.roundCounted r).askRetrain r
  if (u.fan (raceHalf r)).running.isNone && !u.brk.safe && !u.gov.alert then u.beginRetrain r [] [] else u

/-- The resume check of race r is at its end. -/
def State.checkEnds (s : State) (r : Nat) : Prop :=
  s.fheld Fld.SPIN_STAT_STATE r = 4 ∧ s.raceRuns r = true ∧ s.roundOver r = true ∧ r ∉ (s.fan (raceHalf r)).queue

theorem exec_resumeCheck (hr : r < 32) (hends : s.checkEnds r) (fails : Bool) (hfails : (s.race r).tr.checkFail = fails) :
    exec (.resumeCheck r fails) s = .next (if fails then s.checkFailed r else s.checkPassed r) := by
  obtain ⟨hstate, hruns, hover, hqueue⟩ := hends
  have hcond : (decide (r < 32) && s.checking r && s.raceRuns r && s.roundOver r && !(r ∈ (s.fan (raceHalf r)).queue : Bool)
      && fails == (s.race r).tr.checkFail) = true := by
    simp [hr, State.checking, hstate, hruns, hover, hqueue, hfails]
  have hrace := congrArg (fun x : Race => x.tr.checkFail) (s.roundCounted_race r r)
  refine congrArg Host.Outcome.next ((when_true hcond _ s).trans ?_)
  rw [← hfails, ← hrace]
  rfl

/-- A race past its resume check: its round counted, tracking as its registers say, and its service no longer held. -/
structure CheckPassed (r : Nat) (s t : State) : Prop where
  state : t.fheld Fld.SPIN_STAT_STATE r = s.trackState r
  rounds : t.fheld Fld.SPIN_STAT_ROUNDS r = (s.fheld Fld.SPIN_STAT_ROUNDS r + 1) % 2 ^ Fld.SPIN_STAT_ROUNDS.w
  hold : (t.race r).tr.hold = false
  failing : (t.race r).tr.failing = {}
  round : (t.race r).tr.roundAt = s.clk.age
  others : ∀ q, q ≠ r → t.race q = s.race q
  rest : ({ t with regs := s.regs, races := s.races } : State) = s

theorem State.served_state (hw : s.regs.wf = true) (r : Nat) {state : Nat} (h : state < 2 ^ 4) :
    (s.served r state).fheld Fld.SPIN_STAT_STATE r = state :=
  (State.fheld_fset s Fld.SPIN_STAT_STATE state r 0 hw (by decide)).trans (Nat.mod_eq_of_lt h)

theorem State.served_rounds (hw : s.regs.wf = true) (r state : Nat) :
    (s.served r state).fheld Fld.SPIN_STAT_ROUNDS r = s.fheld Fld.SPIN_STAT_ROUNDS r :=
  State.fheld_fset_field s Fld.SPIN_STAT_STATE Fld.SPIN_STAT_ROUNDS state r 0 hw rfl (by decide) (by decide)

theorem State.served_tr (s : State) (r state : Nat) :
    ((s.served r state).race r).tr = { (s.race r).tr.restart s.clk.age with hold := false } := by
  rw [State.served, State.race_setRace, State.fset_race, State.fset_clk]

theorem State.served_race_other (s : State) {r q : Nat} (state : Nat) (hq : q ≠ r) : (s.served r state).race q = s.race q := by
  rw [State.served, State.race_setRace_other _ _ _ _ hq, State.fset_race]

theorem State.setRace_races_only (s : State) (r : Nat) (y : Race) (g : Tbl Word) (x : Tbl Race) :
    ({ s.setRace r y with regs := g, races := x } : State) = { s with regs := g, races := x } := rfl

theorem State.served_rest (s : State) (r state : Nat) (g : Tbl Word) (x : Tbl Race) :
    ({ s.served r state with regs := g, races := x } : State) = { s with regs := g, races := x } :=
  (State.setRace_races_only ..).trans (congrArg (fun u : State => { u with races := x }) (s.fset_regs_only Fld.SPIN_STAT_STATE state r 0 g))

theorem State.checkPassed_passed (hr : r < 32) (hw : s.regs.wf = true) : CheckPassed r s (s.checkPassed r) := by
  have hwc := State.roundCounted_wf hw r
  have hrounds := State.roundCounted_rounds hw r
  have hraces := s.roundCounted_race r
  have hrest := s.roundCounted_rest r
  rw [State.checkPassed, State.roundCounted_trackState hr hw]
  have hlt := s.trackState_lt r
  generalize s.roundCounted r = u at hwc hrounds hraces hrest
  have hclk : u.clk = s.clk := (congrArg State.clk hrest :)
  exact ⟨State.served_state hwc r hlt, (State.served_rounds hwc r _).trans hrounds, congrArg Train.hold (u.served_tr r _),
    congrArg Train.failing (u.served_tr r _), (congrArg Train.roundAt (u.served_tr r _)).trans (congrArg Clk.age hclk),
    fun q hq => (u.served_race_other _ hq).trans (hraces q),
    (u.served_rest r _ s.regs s.races).trans (congrArg (fun x : State => { x with races := s.races }) hrest)⟩

/-! The request -/

theorem State.askRetrain_enqueued (hqueue : r ∉ (s.fan (r / 16)).queue) (hrunning : (s.fan (r / 16)).running ≠ some r) :
    s.askRetrain r = s.enqueued r :=
  State.askRetrain_new hqueue hrunning

theorem State.enqueued_fan_same (s : State) (r : Nat) : (s.enqueued r).fan (r / 16) = (s.fan (r / 16)).joined r := State.fan_setFan ..

/-- A race that failed its check, in the queue. -/
def State.checkQueued (s : State) (r : Nat) : State := (s.roundCounted r).enqueued r

theorem State.checkQueued_wf (hw : s.regs.wf = true) (r : Nat) : (s.checkQueued r).regs.wf = true :=
  State.enqueued_wf (State.roundCounted_wf hw r) r

theorem State.checkQueued_fan (s : State) (r : Nat) : (s.checkQueued r).fan (r / 16) = (s.fan (r / 16)).joined r := by
  rw [State.checkQueued, State.enqueued_fan_same, State.roundCounted_fan]

theorem State.checkQueued_race (s : State) (r q : Nat) : (s.checkQueued r).race q = s.race q :=
  (State.enqueued_race ..).trans (s.roundCounted_race r q)

theorem State.checkQueued_asked (hw : s.regs.wf = true) (r : Nat) :
    bit ((s.checkQueued r).fheld Fld.FAN_CTRL_RETRAIN 0 (r / 16)) (r % 16) = true :=
  (State.enqueued_asked (State.roundCounted_wf hw r) r r).trans (by simp)

theorem State.checkQueued_stands (s : State) (r : Nat) :
    (s.checkQueued r).clk = s.clk ∧ (s.checkQueued r).brk = s.brk ∧ (s.checkQueued r).gov = s.gov := by
  rw [State.checkQueued, State.enqueued, State.roundCounted, State.fwrap]
  refine ⟨?_, ?_, ?_⟩
  · rw [State.setFan_clk, State.fset_clk, State.fset_clk]
  · rw [State.setFan_brk, State.fset_brk, State.fset_brk]
  · rw [State.setFan_gov, State.fset_gov, State.fset_gov]

/-- The half can begin a retraining. -/
def State.canBegin (s : State) (half : Nat) : Bool := (s.fan half).running.isNone && !s.brk.safe && !s.gov.alert

theorem State.canBegin_iff {half : Nat} : s.canBegin half = true ↔ (s.fan half).running = none ∧ s.brk.safe = false ∧ s.gov.alert = false := by
  simp [State.canBegin, and_assoc]

theorem State.checkFailed_eq (hends : s.checkEnds r) (hrunning : (s.fan (r / 16)).running ≠ some r) :
    s.checkFailed r = if s.canBegin (r / 16) then (s.checkQueued r).beginRetrain r [] [] else s.checkQueued r := by
  obtain ⟨-, -, -, hqueue⟩ := hends
  have hfan := s.roundCounted_fan r (r / 16)
  have hasks : (s.roundCounted r).askRetrain r = s.checkQueued r := State.askRetrain_enqueued (by rwa [hfan]) (by rwa [hfan])
  have hcan : (((s.checkQueued r).fan (r / 16)).running.isNone && !(s.checkQueued r).brk.safe && !(s.checkQueued r).gov.alert) = s.canBegin (r / 16) := by
    obtain ⟨-, hbrk, hgov⟩ := s.checkQueued_stands r
    rw [s.checkQueued_fan r, hbrk, hgov]
    rfl
  unfold State.checkFailed
  rw [hasks, ← hcan]
  exact rfl

/-- A race whose resume check failed: its FAN_CTRL bit set, and its retraining begun, or at the end of the half's queue. -/
structure CheckFailed (r : Nat) (s t : State) : Prop where
  clk : t.clk = s.clk
  asked : bit (t.fheld Fld.FAN_CTRL_RETRAIN 0 (r / 16)) (r % 16) = true
  others : ∀ q, q ≠ r → t.race q = s.race q
  begun : s.canBegin (r / 16) = true → (t.fan (r / 16)).running = some r ∧ t.fheld Fld.SPIN_STAT_STATE r = 3 ∧ (t.race r).tr.hold = true
  waits : ¬ s.canBegin (r / 16) = true →
    (t.fan (r / 16)).queue = (s.fan (r / 16)).queue ++ [r] ∧ (t.fan (r / 16)).running = (s.fan (r / 16)).running ∧ t.race r = s.race r

theorem State.checkFailed_failed (hw : s.regs.wf = true) (hends : s.checkEnds r) (hrunning : (s.fan (r / 16)).running ≠ some r) :
    CheckFailed r s (s.checkFailed r) := by
  have hwq := State.checkQueued_wf hw r
  have hfan := s.checkQueued_fan r
  have hraces := s.checkQueued_race r
  have hasked := State.checkQueued_asked hw r
  obtain ⟨hclk, -, -⟩ := s.checkQueued_stands r
  rw [State.checkFailed_eq hends hrunning]
  generalize s.checkQueued r = u at hwq hfan hraces hasked hclk
  by_cases hcan : s.canBegin (r / 16) = true
  · rw [if_pos hcan]
    have hbegun := (u.beginRetrain_fan r [] []).trans (congrArg (Fan.engaged · r) hfan)
    have hasks := State.beginRetrain_ctrl (r := r) (missed := []) (errs := []) hwq (r / 16)
    refine ⟨(State.beginRetrain_clk ..).trans hclk, ?_, fun q hq => (u.beginRetrain_race_other r [] [] hq).trans (hraces q), fun _ => ?_,
      fun hcannot => absurd hcan hcannot⟩
    · rwa [hasks]
    · exact ⟨congrArg Fan.running hbegun, State.beginRetrain_state hwq, congrArg Train.hold (u.beginRetrain_tr r [] [])⟩
  · rw [if_neg hcan]
    exact ⟨hclk, hasked, fun q _ => hraces q, fun hbegins => absurd hbegins hcan, fun _ => ⟨(congrArg Fan.queue hfan :), (congrArg Fan.running hfan :), hraces r⟩⟩

end Sys2Proof.Machine
end

section
/-! The obligation on runtime retraining. -/
namespace Sys2Proof.Machine

variable {s : State} {r : Nat}

/-- A retraining that starts (R274). -/
theorem retrainStart_starts (hw : s.regs.wf = true) (hr : r < 32) (missed : List Nat) (errs : List (Nat × List (Nat × Byte)))
    (hfirst : (s.fan (raceHalf r)).queue.find? (fun r => s.canRetrain r) = some r) (hidle : (s.fan (raceHalf r)).running = none)
    (hsafe : s.brk.safe = false) (halert : s.gov.alert = false) :
    Completes (.retrainStart (raceHalf r) missed errs) s (fun t => Intact s t ∧ t.clk = s.clk ∧ (t.fan (raceHalf r)).running = some r
      ∧ (t.fan (raceHalf r)).queue = (s.fan (raceHalf r)).queue.filter (· ≠ r) ∧ t.fheld Fld.SPIN_STAT_STATE r = 3
      ∧ (t.race r).tr.retrain = true ∧ (t.race r).tr.hold = true ∧ (t.race r).tr.retrainAt = s.clk.age
      ∧ (t.race r).tr.saved = s.saveSettings r ∧ (t.race r).tr.savedDead = (s.race r).tr.dead
      ∧ ∀ q, q ≠ r → t.race q = s.race q) := by
  have hexec := exec_retrainStart (missed := missed) (errs := errs) (Nat.div_lt_of_lt_mul hr) hfirst hidle hsafe halert
  have hfan := s.beginRetrain_fan r missed errs
  have htr := s.beginRetrain_tr r missed errs
  exact .of_exec hexec ⟨exec_intact hexec rfl rfl, State.beginRetrain_clk .., congrArg Fan.running hfan, congrArg Fan.queue hfan,
    State.beginRetrain_state hw, congrArg Train.retrain htr, congrArg Train.hold htr, congrArg Train.retrainAt htr, congrArg Train.saved htr,
    congrArg Train.savedDead htr, fun _ hq => s.beginRetrain_race_other r missed errs hq⟩

/-- A retraining that Alert aborts (R276). -/
theorem retrainAbort_aborts (hw : s.regs.wf = true) (hr : r < 32) (hrun : (s.fan (raceHalf r)).running = some r) (halert : s.gov.alert = true) :
    Completes (.retrainAbort (raceHalf r)) s (fun t => Intact s t ∧ t.clk = s.clk ∧ (t.fan (raceHalf r)).running = none
      ∧ t.fheld Fld.SPIN_STAT_ABORTED r = 1 ∧ t.fheld Fld.SPIN_STAT_STATE r = s.trackState r
      ∧ t.raw .SPIN_REPAIR (Reg.key .SPIN_REPAIR r 0) = ((s.race r).tr.saved.find? (Reg.key .SPIN_REPAIR r 0)).getD 0
      ∧ (∀ p, p < 2 → ∀ w, (s.race r).tr.saved.find? (sidKey r p) = some w → t.raw .SPIN_SID (sidKey r p) = w)
      ∧ (t.race r).tr.dead = (s.race r).tr.savedDead ∧ (t.race r).tr.saved = {} ∧ (t.race r).tr.retrain = false ∧ (t.race r).tr.hold = false
      ∧ OtherRaces r s t) := by
  have hexec := exec_retrainAbort (Nat.div_lt_of_lt_mul hr) hrun halert
  obtain ⟨hended, hretrain, hhold, hsaved, hdead, haborted, hstate⟩ := State.abortRetrain_race hr hw hrun
  have hservice := s.abortRetrain_service hr
  exact .of_exec hexec ⟨exec_intact hexec rfl rfl, hservice.clk, hended.engine, haborted, hstate, State.abortRetrain_map hr hw,
    fun _ hp _ hk => State.abortRetrain_sid hr hw hp hk, hdead, hsaved, hretrain, hhold, hservice.others⟩

/-- A resume check that is passed (R278). -/
theorem resumeCheck_passes (hw : s.regs.wf = true) (hr : r < 32) (hends : s.checkEnds r) (hpass : (s.race r).tr.checkFail = false) :
    Completes (.resumeCheck r false) s (fun t => Intact s t ∧ t.clk = s.clk
      ∧ t.fheld Fld.SPIN_STAT_STATE r = s.trackState r
      ∧ t.fheld Fld.SPIN_STAT_ROUNDS r = (s.fheld Fld.SPIN_STAT_ROUNDS r + 1) % 2 ^ Fld.SPIN_STAT_ROUNDS.w
      ∧ (t.race r).tr.hold = false ∧ (t.race r).tr.failing = {} ∧ (t.race r).tr.roundAt = s.clk.age
      ∧ (∀ q, q ≠ r → t.race q = s.race q) ∧ ({ t with regs := s.regs, races := s.races } : State) = s) := by
  have hexec := exec_resumeCheck hr hends false hpass
  rw [if_neg Bool.false_ne_true] at hexec
  obtain ⟨hstate, hrounds, hhold, hfailing, hround, hothers, hrest⟩ := State.checkPassed_passed hr hw
  exact .of_exec hexec ⟨exec_intact hexec rfl rfl, (congrArg State.clk hrest :), hstate, hrounds, hhold, hfailing, hround, hothers, hrest⟩

/-- A resume check that failed (R278). -/
theorem resumeCheck_fails (hw : s.regs.wf = true) (hr : r < 32) (hends : s.checkEnds r) (hfail : (s.race r).tr.checkFail = true)
    (hrunning : (s.fan (raceHalf r)).running ≠ some r) :
    Completes (.resumeCheck r true) s (fun t => Intact s t ∧ t.clk = s.clk
      ∧ bit (t.fheld Fld.FAN_CTRL_RETRAIN 0 (raceHalf r)) (r % 16) = true ∧ (∀ q, q ≠ r → t.race q = s.race q)
      ∧ ((s.fan (raceHalf r)).running = none → s.brk.safe = false → s.gov.alert = false →
          (t.fan (raceHalf r)).running = some r ∧ t.fheld Fld.SPIN_STAT_STATE r = 3 ∧ (t.race r).tr.hold = true)
      ∧ ((s.fan (raceHalf r)).running ≠ none ∨ s.brk.safe = true ∨ s.gov.alert = true →
          (t.fan (raceHalf r)).queue = (s.fan (raceHalf r)).queue ++ [r] ∧ (t.fan (raceHalf r)).running = (s.fan (raceHalf r)).running
            ∧ t.race r = s.race r)) := by
  have hexec := exec_resumeCheck hr hends true hfail
  rw [if_pos rfl] at hexec
  obtain ⟨hclk, hasked, hothers, hbegun, hwaits⟩ := State.checkFailed_failed hw hends hrunning
  refine .of_exec hexec ⟨exec_intact hexec rfl rfl, hclk, hasked, hothers,
    fun hidle hsafe halert => hbegun (State.canBegin_iff.mpr ⟨hidle, hsafe, halert⟩), fun hbusy => hwaits fun hcan => ?_⟩
  obtain ⟨hidle, hsafe, halert⟩ := State.canBegin_iff.mp hcan
  obtain hrun | hsafe' | halert' := hbusy
  · exact hrun hidle
  · exact Bool.false_ne_true (hsafe.symm.trans hsafe')
  · exact Bool.false_ne_true (halert.symm.trans halert')

/-- Settles O25: a retraining starts, completes, is aborted and is asked for after a resume check as R274 to R278 say. Its place in the queue and
the engine of its half, its FAN_CTRL bit and its marks are read together (`State.retraining`); whatever the Brake raises on the way leaves them or
stops the retraining (`RetrainLeft`), and repairs keep them tidy (`RetrainTidy`), so that nothing of a retraining is left at its end. -/
theorem retrainingRuns : Obligations.RetrainingRuns := by
  unfold Obligations.RetrainingRuns
  intro s half r hw _ hr hin
  subst hin
  refine ⟨fun missed errs hfirst hidle hsafe halert => retrainStart_starts hw hr missed errs hfirst hidle hsafe halert,
    fun failed badWindow hrun hsafe hruns => ?_, fun hrun halert => retrainAbort_aborts hw hr hrun halert, fun hstate hruns hover hqueue =>
      ⟨fun hpass => resumeCheck_passes hw hr ⟨hstate, hruns, hover, hqueue⟩ hpass,
        fun hfail hrunning => resumeCheck_fails hw hr ⟨hstate, hruns, hover, hqueue⟩ hfail hrunning⟩⟩
  obtain ⟨t, hexec, hpending, hfuse, hclk, hrace, houtcome⟩ := retrain_completes (failed := failed) (badWindow := badWindow) hw hr hrun hsafe hruns
  obtain ⟨hengine, hasked, hsaved, hhold, hretrain⟩ := hrace.queue_free
  refine .of_exec hexec ⟨hpending, hfuse, hclk, hengine, hasked, hsaved, hhold, hretrain, fun hrep => ?_⟩
  obtain ⟨hdram, hmap, hdead, hresult, hstate, hothers⟩ := houtcome hrep
  exact ⟨hdram, hmap, hdead, hresult, hstate, hothers⟩

end Sys2Proof.Machine
end
